-- ==== Sys2Proof/Word.lean ====
section
/-! DEFINITION. The word types of the block (R5: bytes little-endian; registers of 32 and 64 bits). -/

namespace Sys2Proof

/-- One byte. -/
abbrev Byte := BitVec 8
/-- A 16-bit field. -/
abbrev W16 := BitVec 16
/-- A 32-bit register or F32 encoding. -/
abbrev W32 := BitVec 32
/-- A 64-bit register. -/
abbrev W64 := BitVec 64
/-- A 44-bit device-internal physical address (R158). -/
abbrev Addr := BitVec 44

end Sys2Proof
end

