-- ==== Sys2Proof/Syntax.lean ====
section
/-! DEFINITION. The commands of the block: one constructor per row of spec/opcode_table.json, with the operands the
row's rule gives it. A measurement, an arrival or an outside decision (a temperature, a received message, a pass or
fail of a self-test) is an operand; everything else a command does is computed from the state. -/

namespace Sys2Proof

/-- The two host ports (R383). -/
inductive Port where
  | a | b
  deriving DecidableEq, Repr, Inhabited

/-- A mailbox page of BAR0 (R391): partition p's or the module page. -/
inductive Page where
  | part (p : Fin 8)
  | module
  deriving DecidableEq, Repr, Inhabited

/-- What the error-correcting code finds in a read (R169, R211): nothing, a correctable or an uncorrectable error. -/
inductive Ecc where
  | clean | corrected | bad
  deriving DecidableEq, Repr, Inhabited

/-- Errors that stored words have come to hold: an address in each word, and what its code makes of it. They stay in the words until a
read meets them or a write covers them, so that any later command's reads may meet them too (R170 to R172, R212; log entry 112). -/
abbrev Found := List (Nat × Ecc)

/-- An almanac slot, with the errors that memory holds when the command that names it reads it (R170, R512). -/
structure SlotReads where
  slot : Fin 4
  ecc  : Found
  deriving DecidableEq, Repr, Inhabited

/-- The bytes of a read: its address, and how many from there. -/
structure ReadAt where
  addr : Addr
  n    : Nat
  deriving DecidableEq, Repr, Inhabited

/-- The bytes of a write under its byte mask, and the errors that its merge reads may meet (R18, R172). -/
structure UnitWrite where
  data : List (Option Byte)
  ecc  : Found
  deriving DecidableEq, Repr, Inhabited

/-- A 64-byte unit of a stack, by its location (R210), and what the code of its upper half-unit finds where the unit lies in a
sector-mode region (R211, R213). -/
structure StackUnit where
  st    : Fin 24
  loc   : BitVec 30
  upper : Ecc
  deriving DecidableEq, Repr, Inhabited

/-- What a repair of replicas takes from the other members (R268): copied segments by place in the list, and each member's roots of the
compared shards after its own repair. -/
structure RepairData where
  segments : List (Nat × List Byte)
  after    : List (List W64)
  deriving DecidableEq, Repr, Inhabited

/-- An XNX command as the steward copies it from a mailbox (R400, R402 step 3): who wrote GO, where, the header's
fields and the argument bytes from 0x10; and, with the command, the errors that memory holds when its rule reads it (R512). -/
structure Xnx where
  port  : Port
  page  : Page
  mb    : Fin 4
  tag   : W16
  len   : Nat
  flags : W32
  arg0  : Nat
  args  : List Byte
  ecc   : Found := []
  deriving DecidableEq, Repr, Inhabited

/-- Who makes a network request (R17, R19, R441): the steward, an almanac entry of a core, by its index in
the core's list (its own blocks and the shared quadrant engines acting for it), a fabric message, a host port, a media unit
for an entry. -/
inductive Requester where
  | steward
  | entry  (p : Fin 8) (core : Fin 32) (ae : Nat)
  | fabric (p : Fin 8) (link : Fin 24)
  | host   (p : Fin 8) (port : Port)
  | media  (p : Fin 8) (core : Fin 32) (ae : Nat)
  deriving DecidableEq, Repr, Inhabited

/-- How a host port is reset (R397, R455). -/
inductive PortResetKind where
  | perstLow | hotReset | functionLevel | linkDisable
  deriving DecidableEq, Repr, Inhabited

/-- A host access to the partition window (R387): a read of n bytes or a write under byte enables. -/
inductive WindowAccess where
  | read  (n : Nat)
  | write (data : List (Option Byte))
  deriving DecidableEq, Repr, Inhabited

/-- A host access to BAR0 without a row of its own (R392): a read of n bytes, or a write under byte enables. -/
inductive BarAccess where
  | read  (n : Nat)
  | write (data : List (Option Byte))
  deriving DecidableEq, Repr, Inhabited

/-- A fabric message (R281); `good` is false where a reserved or unused bit of its header is not zero (R285). -/
structure Msg where
  good    : Bool
  op      : Byte
  evt     : Byte
  dstDev  : BitVec 12
  dstPart : Fin 8
  srcDev  : BitVec 12
  srcPart : Fin 8
  addr    : Addr
  core    : Byte
  hops    : Nat
  sub     : Bool
  data    : List Byte
  deriving DecidableEq, Repr, Inhabited

/-- What a training finds of a link (R277, R278, R296, R297): the round trip in ns, and of its four lanes the order, the polarity, the
scrambler seeds of both directions and the equaliser coefficients, whose form the spec leaves open. -/
structure LaneSetup where
  rtt      : Nat
  reversed : Bool
  inverted : BitVec 4
  rxSeeds  : List (BitVec 58)
  txSeeds  : List (BitVec 58)
  coeffs   : List (List Byte)
  deriving DecidableEq, Repr, Inhabited

/-- The monitored rails (R459). -/
inductive Rail where
  | vin | vcore | vmem | vio
  deriving DecidableEq, Repr, Inhabited

/-- All on-module rails (R492). -/
inductive AnyRail where
  | vin | vcore | vmem | vio | vphy | vpp | v1p8
  deriving DecidableEq, Repr, Inhabited

/-- Why the module shuts down (R494). -/
inductive ShutdownCause where
  | vinLow | pwrEnLow | railLow (r : AnyRail)
  deriving DecidableEq, Repr, Inhabited

/-- The reference clocks (R496). -/
inductive RefClock where
  | module | fabric | port (p : Port)
  deriving DecidableEq, Repr, Inhabited

/-- The training of the 24 stacks at one rate (R206, R470): which stacks train, for which of them saved results serve, and the results of
a full training of each. -/
structure TrainTry where
  passes      : BitVec 24
  savedServes : BitVec 24
  results     : List (List Byte)
  deriving DecidableEq, Repr, Inhabited

/-- A word whose code is checked where no command reads it (R173, R455): in a memory of the address map, or in the steward's own memory,
which is in no map. -/
inductive ScrubWord where
  | at_ (addr : Addr)
  | steward
  deriving DecidableEq, Repr, Inhabited

/-- An island with a junction sensor (R26). -/
inductive Junction where
  | core (c : Fin 32)
  | quadrant (q : Fin 4)
  deriving DecidableEq, Repr, Inhabited

/-- A memory that can be zeroed as a whole (R180). -/
inductive ZeroTarget where
  | vat (c : Fin 32)
  | press (c : Fin 32)
  | cellar (n : Fin 4)
  | cave
  deriving DecidableEq, Repr, Inhabited

/-- What a steward-to-steward message says (R299): a repair request for chunks (R479), an abort notice (R321), or
another content. -/
inductive StewardMsg where
  | repairRequest (imageId : W32) (chunks : List Nat)
  | abortNotice
  | other
  deriving DecidableEq, Repr, Inhabited

/-- A start notice or a read-out notice, a COLL message that a link brings: the partition it is for, its group, the member it comes
from, that member's core and its address (R281, R312, R319). -/
structure CollPeer where
  part  : Fin 8
  group : Fin 16
  rank  : Nat
  link  : Fin 24
  core  : Byte
  addr  : BitVec 44
  deriving DecidableEq, Repr, Inhabited

/-- One command: one row of the table (LAWS.json names the row). -/
inductive Instr where
  -- host ports, window, BAR0, semaphores (R383 to R397)
  | configRequest (port : Port) (reg : Nat) (wr : Option W32)
  | hostWindowAccess (port : Port) (bar2 : Bool) (off : Nat) (acc : WindowAccess) (ecc : Found)
  | bar0RegisterWrite (port : Port) (off : Nat) (acc : BarAccess)
  | semAcquire (port : Port) (sem : Fin 32) (token : W16) (rival : Option W16)
  | semRelease (port : Port) (sem : Fin 32) (token : W16)
  | portReset (port : Port) (kind : PortResetKind)
  | portLinkDownTimeout (port : Port)
  -- XNX general family (R413)
  | nop (x : Xnx)
  | telemSnap (x : Xnx)
  | eventRead (x : Xnx)
  | pressRead (x : Xnx)
  | caveRead (x : Xnx)
  | caveWrite (x : Xnx)
  | backupWrite (x : Xnx)
  | harvestCfg (x : Xnx)
  | hostCopy (x : Xnx)
  | hostCopyComplete (p : Fin 8) (mb : Fin 4) (hostData : List Byte)
  -- almanac and invocation family (R414)
  | almLoad (x : Xnx)
  | almLoadComplete (p : Fin 8) (reads : SlotReads)
  | almUnload (x : Xnx)
  | almUnloadComplete (p : Fin 8) (slot : Fin 4)
  | invoke (x : Xnx)
  | invocationComplete (p : Fin 8) (slot : Fin 4)
  | preempt (x : Xnx)
  | contextSaveComplete (p : Fin 8) (reads : SlotReads)
  | resume (x : Xnx)
  | contextRestoreComplete (p : Fin 8) (reads : SlotReads)
  | btCommit (x : Xnx)
  -- update and replica family (R415)
  | updParams (x : Xnx)
  | updRecover (x : Xnx)
  | replCfg (x : Xnx)
  | replRepair (x : Xnx) (data : RepairData)
  -- fabric and collective family (R416)
  | fabCfg (x : Xnx)
  | linkEnable (x : Xnx)
  | linkDisable (x : Xnx)
  | fabAdmit (x : Xnx)
  | fabTime (x : Xnx)
  | collCfg (x : Xnx)
  -- media family (R417)
  | mediaCfg (x : Xnx)
  | mediaStream (x : Xnx)
  | mediaVocab (x : Xnx)
  | mediaVocabComplete (p : Fin 8)
  | mediaAlign (x : Xnx)
  | mediaEncode (x : Xnx)
  -- DRAM test and repair family (R418)
  | stkTest (x : Xnx)
  | stkTestComplete (st : Fin 24) (pass : Bool) (fails : W32) (loc : W32)
  | pprQuery (x : Xnx)
  | pprCand (x : Xnx)
  | pprSoft (x : Xnx)
  | pprHard (x : Xnx)
  -- partitions (R424 to R427)
  | partCreate (x : Xnx)
  | partCreateComplete (p : Fin 8)
  | partModify (x : Xnx)
  | partModifyComplete (p : Fin 8)
  | partReset (x : Xnx)
  | partitionResetComplete (p : Fin 8)
  | partDelete (x : Xnx)
  | partDeleteComplete (p : Fin 8)
  -- firmware (R477 to R483)
  | fwStage (x : Xnx) (tree : List (BitVec 12)) (image : List Byte)
  | fwStatus (x : Xnx)
  | fwCommit (x : Xnx)
  | fwCommitActivate
  -- attestation (R447 to R449)
  | getVersion (port : Port)
  | getCapabilities (port : Port)
  | negotiateAlgorithms (port : Port)
  | getDigests (port : Port)
  | getCertificate (port : Port) (slot : Nat) (off : Nat) (len : Nat)
  | challenge (port : Port) (slot : Nat) (nonce : List Byte)
  | getMeasurements (port : Port) (index : Nat) (signed : Bool) (nonce : List Byte)
  | respondIfReady (port : Port)
  | spdmUnsupportedRequest (port : Port) (code : Byte)
  -- side-band bus (R498 to R500)
  | smbStatusRead
  | smbPwrInRead
  | smbPwrSagRead
  | smbStackTempRead
  | smbIdentityRead
  | smbFwVerRead
  | smbXnxCommandWrite (data : List Byte) (pec : Option Bool)
  | smbXnxResponseRead
  -- boundary scan (R501, R502)
  | tapReset
  | bypass
  | idcode
  | samplePreload (cells : List Bool)
  | extest
  | clamp
  | highz
  | extestPulse
  | extestTrain
  | tapLeaveExtest
  -- supply, clocks, reset, boot (R451 to R497)
  | railSequenceStart
  | railStartTimeout (rail : AnyRail)
  | shutdownRetry
  | moduleShutdown (cause : ShutdownCause)
  | powerOnReset
  | resetNLow (low : Bool)
  | warmReset
  | watchdogExpiry
  | heartbeat
  | sagWarning (rail : Rail)
  | sagWarningRelease (rail : Rail)
  | supplySagReset (rails : BitVec 4)
  | sagResetRelease
  | referenceClockLoss (ref : RefClock)
  | referenceClockReturn (ref : RefClock)
  | firmwareStart
  | dramTrainingComplete (fast slow : TrainTry)
  | knownAnswerRuns (coreFail : W32) (mediaFail : BitVec 45) (quadFail : BitVec 4)
  | moduleReady (gpio : BitVec 4)
  -- power and heat (R25 to R29, R225 to R228)
  | powerSample (watts vin iin : W16)
  | powerCapStepDown
  | powerCapStepUp
  | powerFloorFault
  | stackTempSample (st : Fin 24) (temp : Nat)
  | thermalCapLower (st : Fin 24)
  | trafficLimitHalve (st : Fin 24)
  | refreshRateRelease (st : Fin 24)
  | thermalCapRise (st : Fin 24)
  | trafficLimitRelease (st : Fin 24)
  | stackSensorFault (st : Fin 24)
  | stackSensorTimeout (st : Fin 24)
  | junctionTrip (j : Junction) (temp : Nat)
  -- DRAM controllers (R205 to R222)
  | dramRead (who : Requester) (span : ReadAt) (lc : Bool) (latency : Nat) (ecc : Found)
  | dramWrite (who : Requester) (addr : Addr) (w : UnitWrite)
  | writeBatch (st : Fin 24) (pc : Fin 64)
  | bulkRequestAged (st : Fin 24) (pc : Fin 64)
  | perBankRefresh (st : Fin 24) (pc : Fin 64) (bank : Fin 48)
  | patrolScrub (unit : StackUnit) (ecc : Ecc) (passDone : Bool)
  | odeccRead (st : Fin 24) (count : Nat)
  -- network, ECC, zeroing (R17 to R19, R159 to R181)
  | networkRead (who : Requester) (addr : Addr) (n : Nat) (ecc : Found)
  | networkWrite (who : Requester) (addr : Addr) (w : UnitWrite)
  | eccWriteBack (addr : Addr)
  | sramScrub (addr : ScrubWord) (ecc : Ecc)
  | memoryZeroingComplete (z : ZeroTarget)
  -- tiles (R103 to R123)
  | tile (core : Fin 32) (ecc : Found)
  | listTilePiece (core : Fin 32)
  | tileComplete (core : Fin 32)
  | writeOutComplete (core : Fin 32)
  -- vector unit and harvest (R137 to R157)
  | vec (core : Fin 32) (ecc : Found)
  | vecComplete (core : Fin 32)
  | harvestFlush (core : Fin 32)
  -- transform engines (R182 to R203)
  | xform (core : Fin 32)
  | xdStart (quad : Fin 4)
  | xdComplete (quad : Fin 4) (core : Fin 32) (ae : Nat)
  | xdPreemptStop (quad : Fin 4) (core : Fin 32) (ae : Nat) (group : Nat)
  -- rind engines (R92 to R97)
  | rindJobStart (quad : Fin 4)
  | rindJobComplete (quad : Fin 4)
  -- collectives (R305 to R320)
  | coll (core : Fin 32)
  | collStart (p : Fin 8) (group : Fin 16)
  | collStartNotice (who : CollPeer)
  | permuteReadoutNotice (who : CollPeer) (place : Nat)
  | collComplete (p : Fin 8) (group : Fin 16) (inputs : List (List Byte))
  -- media (R331 to R382)
  | media (core : Fin 32)
  | mjStart (p : Fin 8) (core : Fin 32) (ae : Nat)
  | sampleDecodeComplete (p : Fin 8) (core : Fin 32) (ae : Nat) (slot : Nat)
  | decodeBudgetExhausted (p : Fin 8) (core : Fin 32) (ae : Nat) (slot : Nat)
  | videoBandProgress (p : Fin 8) (core : Fin 32) (ae : Nat) (slot : Nat) (band : Nat)
  | encodePicture (p : Fin 8) (core : Fin 32) (ae : Nat)
  | encodeSliceComplete (p : Fin 8) (core : Fin 32) (ae : Nat)
  | mjComplete (p : Fin 8) (core : Fin 32) (ae : Nat)
  | writeIndexSample
  | alignTickEmit (p : Fin 8) (set : Fin 4)
  | alignLateLimit (p : Fin 8) (set : Fin 4)
  -- update engines (R250 to R270)
  | upd (core : Fin 32)
  | norm (quad : Fin 4) (upto : Nat)
  | check (quad : Fin 4)
  | apply (quad : Fin 4) (upto : Nat)
  | compare (quad : Fin 4) (others : List (List W64)) (data : RepairData)
  | commit (quad : Fin 4)
  | udComplete (quad : Fin 4) (core : Fin 32) (ae : Nat)
  | udPreemptStop (quad : Fin 4) (core : Fin 32) (ae : Nat)
  -- sequencers (R124 to R136)
  | wait (core : Fin 32)
  | waitRelease (core : Fin 32)
  | signal (core : Fin 32)
  | btCommitEntry (core : Fin 32)
  | slot (core : Fin 32)
  | end_ (core : Fin 32)
  | endComplete (core : Fin 32)
  | boundOverrun (core : Fin 32) (ae : Nat)
  | preemptionPoint (core : Fin 32) (vecRow : Nat)
  | coreClockChange (core : Fin 32)
  | pllRelockDone (core : Fin 32)
  | katTile (core : Fin 32) (pass : Bool)
  -- fabric (R276 to R302)
  | blockReceive (link : Fin 24) (lanes : List (List Byte))
  | trainingBlockReceive (link : Fin 24) (peerId : BitVec 56) (peerLink : Fin 24) (ready : Bool)
  | laneLockLoss (link : Fin 24)
  | ackTimeout (link : Fin 24)
  | linkTrainingComplete (link : Fin 24) (peerId : BitVec 56) (peerLink : Fin 24) (t : LaneSetup)
  | partnerReady (link : Fin 24)
  | fabricWrite (link : Fin 24) (m : Msg)
  | fabricColl (link : Fin 24) (m : Msg)
  | fabricResp (link : Fin 24) (m : Msg)
  | ptpMessage (link : Fin 24) (m : Msg) (rx : Nat)
  | ptpSync
  | firmwareChunk (link : Fin 24) (m : Msg) (repair : Bool)
  | stewardMessage (link : Fin 24) (m : Msg) (body : StewardMsg)
  | fwRepairTimeout
  | fwVerifyComplete (version : W32) (sigOk : Bool)
  | fwDeadline
  | blockTransmit (link : Fin 24)
  -- the rest of the table
  | unknownXnxCode (x : Xnx) (code : W16)
  | cxlCacheSnoop (port : Port)
  | doeDiscovery (port : Port) (index : Nat)
  | portLinkDown (port : Port)
  | portLinkTrained (port : Port) (width rate : Nat)
  | refreshManagementRequest (st : Fin 24)
  | caParityError (st : Fin 24)
  deriving DecidableEq, Repr

end Sys2Proof
end

