-- ==== Sys2Proof/Machine/Fec.lean ====
section
/-! DEFINITION. The forward error correction of the fabric links: RS(896,832) over GF(2^10) (R279). A field element is a number
below 1,024. Symbol 0 is the coefficient of the highest power and the parity symbols are the remainder of the data modulo the
generator polynomial (DESIGN CHOICE, log entry 99). -/

namespace Sys2Proof.Machine

open Sys2Proof

/-- An element times alpha, in the field of x^10 + x^3 + 1. -/
def gfX (a : Nat) : Nat := if 2 * a < 1024 then 2 * a else (2 * a) ^^^ 1033

/-- n terms of a product. -/
def gfMulN : Nat → Nat → Nat → Nat
  | 0, _, _ => 0
  | n + 1, a, b => (if b % 2 = 1 then a else 0) ^^^ gfMulN n (gfX a) (b / 2)

/-- The product of two elements. -/
def gfMul (a b : Nat) : Nat := if a = 0 ∨ b = 0 then 0 else gfMulN 10 a b

/-- A power of an element. -/
def gfPow (a : Nat) : Nat → Nat
  | 0 => 1
  | n + 1 => gfMul a (gfPow a n)

/-- The inverse of an element: a^1022, by squares. -/
def gfInv (a : Nat) : Nat :=
  ((List.range 9).foldl (fun (r : Nat × Nat) _ => let q := gfMul r.2 r.2; (gfMul r.1 q, q)) (1, a)).1

/-- Polynomials by their coefficients, lowest power first: a value. -/
def gfEval (p : List Nat) (x : Nat) : Nat := p.foldr (fun c v => c ^^^ gfMul v x) 0

/-- A multiple of a polynomial. -/
def gfScale (k : Nat) (p : List Nat) : List Nat := p.map (gfMul k)

/-- The sum of two polynomials. -/
def gfAdd : List Nat → List Nat → List Nat
  | [], q => q
  | p, [] => p
  | a :: p, b :: q => (a ^^^ b) :: gfAdd p q

/-- The symbols of a block: data and parity. -/
def rsSymbols : Nat := 896
/-- Data symbols. -/
def rsData : Nat := 832

/-- alpha^0 to alpha^63. -/
def rsRoots : List Nat := (List.range 63).foldl (fun l _ => l ++ [gfX (l.getLast?.getD 1)]) [1]

/-- The generator polynomial: the product of x + alpha^i, lowest power first. -/
def rsGen : List Nat := rsRoots.foldl (fun p r => gfAdd (0 :: p) (gfScale r p)) [1]

/-- The parity of data symbols: the remainder of their polynomial times x^64, highest power first. -/
def rsParity (data : List Nat) : List Nat :=
  let g := rsGen.reverse.tail
  data.foldl (fun rem d =>
    let f := d ^^^ rem.headD 0
    gfAdd (rem.tail ++ [0]) (gfScale f g)) (List.replicate 64 0)

/-- The 64 syndromes of a received word: its values at the generator's roots. -/
def rsSyndromes (word : List Nat) : List Nat :=
  rsRoots.map fun r => word.foldl (fun v c => gfMul v r ^^^ c) 0

/-- The state of the locator search: the locator, the one before its last change of length, its length, the shift and the last
discrepancy that changed the length. -/
structure Locator where
  loc   : List Nat
  prev  : List Nat
  len   : Nat
  shift : Nat
  disc  : Nat
  deriving DecidableEq, Repr

/-- One step of the Berlekamp-Massey search, at syndrome n. -/
def Locator.step (syn : List Nat) (l : Locator) (n : Nat) : Locator :=
  let d := (l.loc.zipIdx.map fun ((c, i) : Nat × Nat) => if i ≤ n then gfMul c (syn.getD (n - i) 0) else 0).foldl (· ^^^ ·) 0
  if d = 0 then { l with shift := l.shift + 1 }
  else
    let next := gfAdd l.loc (List.replicate l.shift 0 ++ gfScale (gfMul d (gfInv l.disc)) l.prev)
    if 2 * l.len ≤ n then ⟨next, l.loc, n + 1 - l.len, 1, d⟩ else { l with loc := next, shift := l.shift + 1 }

/-- The locator polynomial of a word's errors, with its degree. -/
def rsLocator (syn : List Nat) : Locator := (List.range 64).foldl (Locator.step syn) ⟨[1], [1], 0, 1, 1⟩

/-- The corrections of a word: position and magnitude of each symbol whose inverse locator is a root (Forney). -/
def rsErrors (syn loc : List Nat) : List (Nat × Nat) :=
  let omega := ((List.range 64).map fun n =>
    ((List.range (n + 1)).map fun i => gfMul (loc.getD i 0) (syn.getD (n - i) 0)).foldl (· ^^^ ·) 0)
  let slope := loc.zipIdx.tail.map fun ((c, i) : Nat × Nat) => if i % 2 = 1 then c else 0
  ((List.range rsSymbols).foldl (fun (r : List (Nat × Nat) × Nat) k =>
    let inv := gfInv r.2
    let hit := if gfEval loc inv = 0 then
        [(rsSymbols - 1 - k, gfMul r.2 (gfMul (gfEval omega inv) (gfInv (gfEval slope inv))))] else []
    (r.1 ++ hit, gfX r.2)) ([], 1)).1

/-- Decode a received word: the number of symbols corrected and the code word; none where no code word lies within 32 symbols. -/
def rsDecode (word : List Nat) : Option (Nat × List Nat) :=
  let syn := rsSyndromes word
  if syn.all (· == 0) then some (0, word)
  else
    let l := rsLocator syn
    if l.len > 32 then none
    else
      let es := rsErrors syn l.loc
      let fixed := es.foldl (fun w e => w.modify e.1 (· ^^^ e.2)) word
      if es.length = l.len ∧ (rsSyndromes fixed).all (· == 0) then some (es.length, fixed) else none

end Sys2Proof.Machine
end

