-- ==== Sys2Proof/Config.lean ====
section
/-! DEFINITION. What an implementation fixes and the spec leaves open: opaque constants without a body, so that no
statement can rest on a value of theirs (the assumption log lists each: entries 2, 5, 6, 7). -/

namespace Sys2Proof

/-- How a FITS image is tiled: its compression (0 RICE_1, 1 GZIP_1, 2 GZIP_2, 3 NOCOMPRESS, others), BLOCKSIZE and BYTEPIX of
RICE_1, its quantisation (0 NO_DITHER, 1 and 2 SUBTRACTIVE_DITHER_1 and _2, others) (R333). -/
structure FitsTiles where
  code      : Nat
  blockSize : Nat
  bytePix   : Nat
  dither    : Nat
  deriving DecidableEq, Repr, Inhabited

/-- What an image's header declares beyond its size (R333): a JPEG's frame type SOFn and the sampling factors of its components; a
PNG's colour type and interlace method; a FITS image's BITPIX, its axes and its tiles. -/
inductive ImageKind where
  | jpeg (sof : Nat) (sampling : List (Nat × Nat))
  | png (colour interlace : Nat)
  | fits (bitpix : Int) (axes : Nat) (tiles : Option FitsTiles)
  deriving DecidableEq, Repr, Inhabited

/-- An image's header: width, height, channels (of a FITS image the third axis), bits and bytes of a stored element. -/
structure ImageHead where
  width       : Nat
  height      : Nat
  channels    : Nat
  bits        : Nat
  storedBytes : Nat
  kind        : ImageKind
  deriving DecidableEq, Repr, Inhabited

/-- A decoded element of an image: as stored (of a JPEG of three components Y, Cb or Cr), the scale and the zero of its FITS image or
tile, and whether it is blank (R334, R352). -/
structure ImageElem where
  stored : W32
  scale  : W32
  zero   : W32
  blank  : Bool
  deriving DecidableEq, Repr, Inhabited

/-- What damage a decoder finds: elements that its standard's own means conceal, byte and bit of the first damage with the media
cycles worked until then, where a decompressor's output would pass the claimed size, and whether the data end before the claimed
dimensions are filled (R351, R352). -/
structure Damage where
  concealed : Nat
  first     : Option (Nat × Nat)
  at_       : Nat
  excess    : Option (Nat × Nat)
  short     : Bool
  deriving DecidableEq, Repr, Inhabited

/-- A decoded image: its elements, channels interleaved; what is lost (of a JPEG the numbers of MCUs, of a PNG rows, of a FITS image
elements), the ZBLANK that it declares, its damage, and the media cycles where R359 states no rate. -/
structure ImageDecoded where
  elems  : List ImageElem
  lost   : List Nat
  zblank : Option W32
  damage : Damage
  cycles : Nat
  deriving DecidableEq, Repr, Inhabited

/-- An audio sample's header (R335): its coding (0 FLAC, 1 Opus, 2 WAV holding PCM, 3 WAV holding IEEE float, others), channels, bits,
rate, and the samples per channel it states, 0 for none. -/
structure AudioHead where
  coding   : Nat
  channels : Nat
  bits     : Nat
  rate     : Nat
  length   : Nat
  deriving DecidableEq, Repr, Inhabited

/-- A decoded clip: its samples as stored, channels interleaved, as F32; the lost sample times, each first and count; whether it went
on beyond where decoding stopped; its damage. -/
structure AudioDecoded where
  elems  : List W32
  lost   : List (Nat × Nat)
  more   : Bool
  damage : Damage
  deriving DecidableEq, Repr, Inhabited

/-- A sequence header of a clip, an HEVC SPS or an AV1 sequence header (R362, R363, R367, R368): the size of its pictures, its DPB size, its
profile, level, chroma format (0 4:0:0, 1 4:2:0) and bit depth, whether it uses a tool of another extension, multilayer coding,
large-scale tiles or an operating point but 0, the side of its CTUs or superblocks, and the sample location type, matrix (1 BT.709,
2 BT.601, 3 BT.2020 non-constant luminance, 0 unspecified or other) and range that it signals. -/
structure VideoSeq where
  width  : Nat
  height : Nat
  dpb    : Nat
  prof   : Nat
  level  : Nat
  chroma : Nat
  bits   : Nat
  other  : Bool
  side   : Nat
  loc    : Option Nat
  matrix : Nat
  full   : Bool
  deriving DecidableEq, Repr, Inhabited

/-- An 8 × 8 luma block of a coded picture (R371): 0 intra, 1 inter with residual, 2 inter without; its vector of the first reference list,
in quarter samples of HEVC and eighths of AV1; its quantiser. -/
structure VideoBlock where
  kind : Nat
  mvX  : Int
  mvY  : Int
  qp   : Nat
  deriving DecidableEq, Repr, Inhabited

/-- A coded picture as its syntax has it: the sequence headers met since the picture before it, the one in force, the size of its luma
plane, the window of it that is output, its display index, its TYPE (R371), whether it is a random-access point, the pictures it
references by their number in decoding order, its coded bytes, whether its headers can be read, the CTUs or superblocks of its damaged
slice segments or tiles, its 8 × 8 luma blocks in raster order, and byte and bit of its first damage (R366, R369). -/
structure VideoPic where
  heads  : List VideoSeq
  seq    : VideoSeq
  codedW : Nat
  codedH : Nat
  left   : Nat
  top    : Nat
  width  : Nat
  height : Nat
  disp   : Nat
  typ    : Nat
  access : Bool
  refs   : List Nat
  bytes  : Nat
  header : Bool
  lost   : List Nat
  blocks : List VideoBlock
  damage : Option (Nat × Nat)
  deriving DecidableEq, Repr, Inhabited

/-- A track of a container, or an elementary stream: its coding (1 HEVC, 2 AV1, others), whether its sample table is consistent with the
data, its sync-sample table as picture numbers, and its pictures in decoding order (R361, R366, R369). -/
structure VideoTrack where
  coding  : Nat
  tableOk : Bool
  sync    : List Nat
  pics    : List VideoPic
  deriving DecidableEq, Repr, Inhabited

/-- Reconstructed sample planes of a picture: luma, and Cb and Cr unless it is monochrome. -/
structure VideoPlanes where
  luma   : List Nat
  chroma : Option (List Nat × List Nat)
  deriving DecidableEq, Repr, Inhabited

/-- The backup registers and the cave words whose stored codes no longer correct when a boot reads them: what memory cells do between
two boots is outside the block; by the free-value counter (R177, R178; log entry 111). -/
opaque Config.bkpUpset : Nat → W32
/-- The cave words of such a boot. -/
opaque Config.caveUpset : Nat → List Addr
/-- The half nanoseconds from a time message's forming to its transmission, by the free-value counter (R300; log entry 103). -/
opaque Config.sendDelay : Nat → Nat
/-- A 32-bit value the spec calls undefined or does not state, by the free-value counter (log entry 2). -/
opaque Config.freeWord : Nat → W32
/-- The error, in units in the last place, of an approximate vector operation (R144; log entry 5). -/
opaque Config.ulpError : (op : Nat) → W32 → W32 → Int
/-- The word that a transcendental vector operation, strict or fast, gives where it lies within the operation's bound (R141, R144; log
entry 5). -/
opaque Config.transcend : (op : Nat) → (strict : Bool) → W32 → W32
/-- A packed element divided by a fine scale of zero, which R67 does not state: the element's sign, magnitude and exponent (log
entry 33). -/
opaque Config.overZero : (neg : Bool) → (m : Nat) → (e : Int) → W32
/-- An image's header by its standard: format code, bytes; none: unreadable (R333; log entry 6). -/
opaque Config.imageHead : (fmt : Nat) → List Byte → Option ImageHead
/-- An image decoded by its standard (R333; log entry 6). -/
opaque Config.imageDecode : (fmt : Nat) → List Byte → ImageDecoded
/-- Where an image or audio sample whose header is unreadable has its damage (R352; log entry 6). -/
opaque Config.headDamage : (fmt : Nat) → List Byte → Option (Nat × Nat)
/-- An audio sample's header by its standard; none: unreadable (R335; log entry 6). -/
opaque Config.audioHead : (fmt : Nat) → List Byte → Option AudioHead
/-- An audio sample decoded by its standard up to a number of samples per channel (R335, R351; log entry 6). -/
opaque Config.audioDecode : (fmt : Nat) → (stop : Nat) → List Byte → AudioDecoded
/-- A tap of the resampling filter: the rates, the phase, the tap, 0 to 63 (R335; log entry 6). -/
opaque Config.filterTap : (rateIn rateOut phase tap : Nat) → W32
/-- Real and imaginary part of bin k of the Fourier transform of a windowed frame as F32 arithmetic gives them, whose order of operations
R336 does not state (log entry 127). -/
opaque Config.fftBin : List W32 → (k : Nat) → W32 × W32
/-- The tracks that a video sample's container holds, parsed by the standards that its format code names; an elementary stream is one
(R361; log entry 6). -/
opaque Config.videoTracks : (fmt : Nat) → List Byte → List VideoTrack
/-- Picture n of a track of a sample as its standard reconstructs it from the reconstructed pictures it references, before film grain
(R363; log entry 6). -/
opaque Config.videoRecon : (fmt : Nat) → List Byte → (n : Nat) → (refs : List VideoPlanes) → VideoPlanes
/-- The bytes that a forward scan of NAL unit or OBU headers for a random-access point at or before a display index reads (R366, R378; log
entry 6). -/
opaque Config.videoScan : (fmt : Nat) → List Byte → (start : Nat) → Nat
/-- The coded bytes of a picture or of one slice segment of it, headers and SEI included: session fields followed by QP, IDR,
fallback, picture number and slice; source frame; reference buffer (R374, R375, R377; log entry 6). -/
opaque Config.encode : (params : List Nat) → (src ref : List Byte) → List Byte
/-- The session buffer after a picture: coded bytes, source frame, the buffer before (R374; log entry 6). -/
opaque Config.refBuffer : (coded src ref : List Byte) → List Byte
/-- The 8 × 8 luma blocks of a coded picture in raster order (R371, R372; log entry 6). -/
opaque Config.encodeBlocks : (coded src ref : List Byte) → List VideoBlock
/-- The sum of the 8 × 8 Hadamard SATD of a source picture against its final prediction (R371; log entry 6). -/
opaque Config.encodeSatd : (coded src ref : List Byte) → Nat
/-- The QP that the rate model chooses: fullness before removal, picture number (R375; log entry 6). -/
opaque Config.rateModelQp : (fullness picture : Nat) → Nat
/-- The module's fabric identity, by its serial number: how it is taken from the signed identity is not stated (R296; log entry 7). -/
opaque Config.fabricId : (serial : W64) → BitVec 56
/-- SHA-512 of a byte string (R444, R448; log entry 7). -/
opaque Config.sha512 : List Byte → List Byte
/-- The signature of the module identity key over a byte string (R447; log entry 7). -/
opaque Config.sign : List Byte → List Byte
/-- The certificate chain of slot 0: the root certificate, then the identity certificate, which names the part number, the serial
number and the variant (R3, R447; log entry 7). -/
opaque Config.certChain : (part : Nat) → (serial : W64) → (variant : Byte) → List Byte

/-- SHA-512 of the boot ROM (index 1), whose contents the spec does not give (R448; log entry 7). -/
opaque Config.romRecord : List Byte
/-- The signature over the body of a signed record of module flash: variant record, repair record, boot policy (R444, R445, R465,
R466; log entry 7). -/
opaque Config.recordSig : List Byte → List Byte
/-- SHA-512 of the running firmware image (R448; log entry 7). -/
opaque Config.fwImage : (version : W32) → List Byte
/-- The level that the boundary register's cells give a pin, by the module's list of pins (R501; log entry 42). -/
opaque Config.scanLevel : (cells : List Bool) → (pin : Nat) → Nat
/-- DataTransferSize and MaxSPDMmsgSize of the responder, which are one value where messages are not cut into chunks (R447; log entry
7). -/
opaque Config.spdmTransfer : W32
/-- A responder's nonce (log entry 7). -/
opaque Config.nonce : Nat → List Byte
/-- Whether a signed response is deferred (R447 lists RESPOND_IF_READY and does not say when; log entry 43). -/
opaque Config.defers : Nat → Bool

end Sys2Proof
end

