-- ==== Sys2Proof/Machine/Float.lean ====
section
/-! DEFINITION. Exact arithmetic on the floating formats (R33 to R43, R68 to R71): a value is decoded to an exact
dyadic number, computed exactly, and rounded once at the end. -/

namespace Sys2Proof.Machine

/-- A decoded value: not a number, an infinity, or (-1)^neg * m * 2^e (a zero keeps its sign). -/
inductive Num where
  | nan
  | inf (neg : Bool)
  | fin (neg : Bool) (m : Nat) (e : Int)
  deriving DecidableEq, Repr, Inhabited

/-- A binary format: fraction bits, exponent of the smallest subnormal, sign-bit place, largest finite magnitude code,
infinity code (none: F8a), canonical NaN code (R33 to R37). -/
structure Fmt where
  fb   : Nat
  qmin : Int
  sign : Nat
  top  : Nat
  inf  : Option Nat
  nan  : Nat
  deriving DecidableEq, Repr

/-- F8a (R33, R34). -/
def Fmt.f8a : Fmt := ⟨3, -9, 7, 0x7E, none, 0x7F⟩
/-- F8g (R35, R36). -/
def Fmt.f8g : Fmt := ⟨2, -16, 7, 0x7B, some 0x7C, 0x7E⟩
/-- B16 (R37). -/
def Fmt.b16 : Fmt := ⟨7, -133, 15, 0x7F7F, some 0x7F80, 0x7FC0⟩
/-- F32 (R37). -/
def Fmt.f32 : Fmt := ⟨23, -149, 31, 0x7F7FFFFF, some 0x7F800000, 0x7FC00000⟩
/-- The E2M1 element of MXFP4 (R72): no special values. -/
def Fmt.e2m1 : Fmt := ⟨1, -1, 3, 7, none, 8⟩

/-- The value of a code of a format. -/
def Fmt.decode (f : Fmt) (code : Nat) : Num :=
  let neg := code.testBit f.sign
  let mag := code % 2 ^ f.sign
  if mag ≤ f.top then
    let ef := mag / 2 ^ f.fb
    let fr := mag % 2 ^ f.fb
    if ef = 0 then .fin neg fr f.qmin else .fin neg (2 ^ f.fb + fr) (f.qmin + ef - 1)
  else if f.inf = some mag then .inf neg
  else .nan

/-- Rounding modes (R46 RMODE); a stochastic mode carries the generator's value r (R49). -/
inductive Round where
  | near
  | zero
  | stoch (r : Nat)
  deriving DecidableEq, Repr

/-- m * 2^e as a multiple of 2^q, rounded by the mode (R47, R49). -/
def roundTo (mode : Round) (m : Nat) (e q : Int) : Nat :=
  if q ≤ e then m * 2 ^ (e - q).toNat
  else
    let d := (q - e).toNat
    let k := m / 2 ^ d
    let rem := m % 2 ^ d
    match mode with
    | .near => if 2 * rem > 2 ^ d ∨ (2 * rem = 2 ^ d ∧ k % 2 = 1) then k + 1 else k
    | .zero => k
    | .stoch r => if r < rem * 65536 / 2 ^ d then k + 1 else k

/-- The spacing exponent of a format at a magnitude m * 2^e, m not 0 (R47, R49). -/
def Fmt.ulp (f : Fmt) (m : Nat) (e : Int) : Int :=
  Max.max f.qmin (e + (Nat.log2 m : Int) - (f.fb : Int))

/-- The magnitude code of a rounded value with no upper limit on the exponent (R47). -/
def Fmt.mag (f : Fmt) (mode : Round) (m : Nat) (e : Int) : Nat :=
  if m = 0 then 0
  else
    let q := f.ulp m e
    (q - f.qmin).toNat * 2 ^ f.fb + roundTo mode m e q

/-- The sign bit of a format as a number. -/
def Fmt.signBit (f : Fmt) (neg : Bool) : Nat := if neg then 2 ^ f.sign else 0

/-- A value rounded to nearest even into a format that overflows to infinity. -/
def Fmt.encodeNear (f : Fmt) : Num → Nat
  | .nan => f.nan
  | .inf neg => f.signBit neg + f.inf.getD f.nan
  | .fin neg m e =>
    let c := f.mag .near m e
    if c ≤ f.top then f.signBit neg + c else f.signBit neg + f.inf.getD f.nan

/-- The F32 value of a word. -/
def f32 (w : W32) : Num := Fmt.f32.decode w.toNat
/-- A value rounded once to F32, to nearest even. -/
def toF32 (n : Num) : W32 := BitVec.ofNat 32 (Fmt.f32.encodeNear n)

/-- Negation. -/
def Num.neg : Num → Num
  | .nan => .nan
  | .inf n => .inf (!n)
  | .fin n m e => .fin (!n) m e

/-- Magnitude. -/
def Num.abs : Num → Num
  | .nan => .nan
  | .inf _ => .inf false
  | .fin _ m e => .fin false m e

/-- Not a NaN or an infinity. -/
def Num.finite : Num → Bool
  | .fin _ _ _ => true
  | _ => false

/-- The signed mantissa. -/
def signed (neg : Bool) (m : Nat) : Int := if neg then -(m : Int) else (m : Int)

/-- An exact value from a signed mantissa; a zero is positive. -/
def Num.ofInt (i : Int) (e : Int) : Num := .fin (i < 0) i.natAbs e

/-- The signed mantissa of a finite value at a lower exponent. -/
def alignTo (neg : Bool) (m : Nat) (e q : Int) : Int := signed neg (m * 2 ^ (e - q).toNat)

/-- Exact sum; two zeros of one sign keep it, any other zero sum is +0 (IEEE 754, to nearest). -/
def Num.add : Num → Num → Num
  | .nan, _ => .nan
  | _, .nan => .nan
  | .inf a, .inf b => if a = b then .inf a else .nan
  | .inf a, _ => .inf a
  | _, .inf b => .inf b
  | .fin na ma ea, .fin nb mb eb =>
    if ma = 0 ∧ mb = 0 then .fin (na && nb) 0 0
    else
      let q := min ea eb
      Num.ofInt (alignTo na ma ea q + alignTo nb mb eb q) q

/-- Exact product; infinity times zero is NaN. -/
def Num.mul : Num → Num → Num
  | .nan, _ => .nan
  | _, .nan => .nan
  | .inf a, .inf b => .inf (a != b)
  | .inf a, .fin b m _ => if m = 0 then .nan else .inf (a != b)
  | .fin a m _, .inf b => if m = 0 then .nan else .inf (a != b)
  | .fin a ma ea, .fin b mb eb => .fin (a != b) (ma * mb) (ea + eb)

/-- A value times a power of two. -/
def Num.scale (n : Num) (k : Int) : Num :=
  match n with
  | .fin s m e => .fin s m (e + k)
  | x => x

/-- Quotient with 96 further bits and a sticky bit, so that one rounding to F32 is exact. -/
def Num.div : Num → Num → Num
  | .nan, _ => .nan
  | _, .nan => .nan
  | .inf _, .inf _ => .nan
  | .inf a, .fin b _ _ => .inf (a != b)
  | .fin a _ _, .inf b => .fin (a != b) 0 0
  | .fin a ma ea, .fin b mb eb =>
    if mb = 0 then (if ma = 0 then .nan else .inf (a != b))
    else
      let n := ma * 2 ^ 96
      let q := n / mb
      let st := if n % mb = 0 then 0 else 1
      .fin (a != b) (2 * q + st) (ea - eb - 97)

/-- Integer square root by n steps of one bit each, from bit n - 1 down. -/
def isqrtBits (x : Nat) : Nat → Nat → Nat
  | 0, r => r
  | n + 1, r =>
    let r' := r + 2 ^ n
    isqrtBits x n (if r' * r' ≤ x then r' else r)

/-- Square root with a sticky bit; the root of a negative value is NaN, of -0 is -0. -/
def Num.sqrt : Num → Num
  | .nan => .nan
  | .inf n => if n then .nan else .inf false
  | .fin n m e =>
    if m = 0 then .fin n 0 0
    else if n then .nan
    else
      let odd := e % 2 ≠ 0
      let m' := (if odd then 2 * m else m) * 2 ^ 64
      let e' := ((if odd then e - 1 else e) - 64) / 2
      let r := isqrtBits m' 72 0
      .fin false (2 * r + (if r * r = m' then 0 else 1)) (e' - 1)

/-- Is a value zero. -/
def Num.isZero : Num → Bool
  | .fin _ m _ => m == 0
  | _ => false

/-- Is a value NaN. -/
def Num.isNan : Num → Bool
  | .nan => true
  | _ => false

/-- Is the sign bit set (of a NaN: no). -/
def Num.isNeg : Num → Bool
  | .nan => false
  | .inf n => n
  | .fin n _ _ => n

/-- Strictly less; NaN compares false, the zeros are equal. -/
def Num.lt : Num → Num → Bool
  | .nan, _ => false
  | _, .nan => false
  | .inf a, .inf b => a && !b
  | .inf a, .fin _ _ _ => a
  | .fin _ _ _, .inf b => !b
  | .fin na ma ea, .fin nb mb eb =>
    let q := min ea eb
    alignTo na ma ea q < alignTo nb mb eb q

/-- Equal in value; NaN is not equal to itself. -/
def Num.eqv (a b : Num) : Bool := !a.isNan && !b.isNan && !a.lt b && !b.lt a

/-- F32 addition, to nearest even. -/
def fadd (a b : W32) : W32 := toF32 ((f32 a).add (f32 b))
/-- F32 subtraction. -/
def fsub (a b : W32) : W32 := toF32 ((f32 a).add (f32 b).neg)
/-- F32 multiplication. -/
def fmul (a b : W32) : W32 := toF32 ((f32 a).mul (f32 b))
/-- F32 fused multiply-add a * b + c. -/
def ffma (a b c : W32) : W32 := toF32 (((f32 a).mul (f32 b)).add (f32 c))
/-- F32 division. -/
def fdiv (a b : W32) : W32 := toF32 ((f32 a).div (f32 b))
/-- F32 square root. -/
def fsqrt (a : W32) : W32 := toF32 (f32 a).sqrt

/-- A word is a finite F32. -/
def isFinite (w : W32) : Bool := (f32 w).finite

/-- A compensated pair: curd and whey (R68). -/
structure Pair where
  hi : W32
  lo : W32
  deriving DecidableEq, Repr, Inhabited

/-- Add an F32 value into a pair (R69). -/
def Pair.add (p : Pair) (x : W32) : Pair :=
  let s := fadd p.hi x
  let bp := fsub s p.hi
  let e := fadd (fsub p.hi (fsub s bp)) (fsub x bp)
  let t := fadd p.lo e
  let h := fadd s t
  let l := fsub t (fsub h s)
  ⟨h, if isFinite h then l else 0⟩

/-- The exact value of a pair (R47, R71). -/
def Pair.num (p : Pair) : Num :=
  match f32 p.hi with
  | .fin n m e => (Num.fin n m e).add (if (f32 p.lo).isZero then .fin n 0 0 else f32 p.lo)
  | x => x

/-- A pair from an exact value: the curd is the value rounded to F32, the whey the rest rounded (R68). -/
def Pair.ofNum (n : Num) : Pair :=
  let h := toF32 n
  if isFinite h then ⟨h, toF32 (n.add (f32 h).neg)⟩ else ⟨h, 0⟩

/-- Flush a subnormal F32 to zero of its sign (R39, fast mode). -/
def flushSub (w : W32) : W32 :=
  if w.toNat % 2 ^ 31 < 2 ^ 23 then (if w.toNat.testBit 31 then 0x80000000 else 0) else w

end Sys2Proof.Machine
end

