-- ==== Sys2Proof/Machine/State.lean ====
section
/-! DEFINITION. The state of the block: every register, queue, buffer, counter, mode and pin the spec names, as plain
data, and `State.reset`. It has two parts: `own`, who owns what (semaphores, partition records, map and world
descriptors), and `body`, everything else; a command that cannot change ownership acts on the body alone. -/

namespace Sys2Proof.Machine

open Sys2Proof

/-- No command of this block stops the machine with a fault: the spec gives each an effect, or says it has none. -/
inductive Fault where
  /-- Raised by no command: the block has no exception that stops it. Safe. -/
  | none
  deriving DecidableEq, Repr

/-- Why a command has no meaning in the model. -/
inductive Refusal where
  /-- Raised by an arm of `exec` whose command has no meaning yet. Safe. -/
  | notModelled (mnemonic : String)
  deriving DecidableEq, Repr

/-! ### Memory -/

/-- The bytes of the internal address space that are not zero, by rising address (R158; an unlisted byte reads 0, as
R179 and R224 zero every memory). -/
structure Mem where
  cells     : List Host.Cell
  /-- Base addresses of the check words that hold an uncorrectable error or the poison pattern (R171, R212). -/
  poison    : List Nat
  /-- Corrected words waiting for their write-back, each with the bytes of the aligned unit whose next write drops it: the
  word itself, or the 64-byte unit for a scrubbed word and a DRAM unit (R170, R173, R212). -/
  writeBack : List (Nat × Nat)
  /-- Memories that are being zeroed (R180). -/
  zeroing   : List ZeroTarget
  /-- Errors in stored words that no read has met and no write has covered: an address in the word, and what its code makes of it
  (R169, R211; log entry 112). -/
  upsets    : Found
  deriving DecidableEq, Repr, Inhabited

/-! ### Ownership -/

/-- A semaphore (R396). -/
structure Sem where
  held  : Bool
  port  : Port
  token : W16
  deriving DecidableEq, Repr, Inhabited

/-- The partition block (R424). -/
structure PBlock where
  groups   : BitVec 8
  ports    : BitVec 2
  secure   : Bool
  dset     : Nat
  dsel     : Nat
  sliceLo  : Nat
  sliceN   : Nat
  storeN   : Nat
  sect     : Bool
  celFirst : Nat
  celCount : Nat
  nImg     : Nat
  nVdec    : Nat
  nVenc    : Nat
  nAud     : Nat
  nTxt     : Nat
  dbase    : Nat
  deriving DecidableEq, Repr, Inhabited

/-- What waits for the steward, in order of arrival: a mailbox whose GO it has not carried out, or the side-band command (R402, R500). -/
inductive Go where
  | mailbox (page : Page) (mb : Fin 4)
  | sideBand
  deriving DecidableEq, Repr, Inhabited

/-- A partition record of the steward's cave region (R425, R427): absent, being created, present or being deleted. -/
inductive PartPhase where
  | absent | creating | present | deleting
  deriving DecidableEq, Repr, Inhabited

/-- A partition record. -/
structure PartRec where
  phase : PartPhase
  block : PBlock
  deriving DecidableEq, Repr, Inhabited

/-- A DRAM map region descriptor DRM_MAPnn (R208). -/
structure MapDesc where
  valid   : Bool
  sect    : Bool
  set     : BitVec 3
  sel     : BitVec 5
  sliceLo : BitVec 6
  sliceN  : BitVec 6
  base    : BitVec 10
  deriving DecidableEq, Repr, Inhabited

/-- A world-map descriptor WLD_RGNnn (R410). -/
structure WldDesc where
  valid  : Bool
  secure : Bool
  part   : BitVec 3
  base   : Addr
  limit  : Addr
  deriving DecidableEq, Repr, Inhabited

/-- Who owns what. -/
structure Own where
  sems   : List Sem
  /-- SEM_PRIO.PRIO: the port that wins the next contest. -/
  prio   : Port
  /-- SEM_PRIO.CONT. -/
  cont   : W16
  recs   : List PartRec
  maps   : List MapDesc
  worlds : List WldDesc
  deriving DecidableEq, Repr, Inhabited

/-! ### Board: supply, clocks, reset, boot, flash -/

/-- Where the module stands between power and service (R454). -/
inductive Phase where
  | off | powerOn | resetHeld | bootRom | bootError | firmware | ready | held
  deriving DecidableEq, Repr, Inhabited

/-- The sources of a reset (R455), by RST_CAUSE.SRC. -/
inductive ResetSrc where
  | powerOn | resetN | watchdog | sag | fwCommit | memory
  deriving DecidableEq, Repr, Inhabited

/-- RST_CAUSE (R475). -/
structure RstCause where
  coreOut  : W32
  mediaOut : BitVec 6
  trial    : Bool
  image    : Bool
  bootErr  : Byte
  sagRails : BitVec 4
  wdog     : BitVec 4
  src      : BitVec 3
  deriving DecidableEq, Repr, Inhabited

/-- RST_CAVE (R177). -/
structure RstCave where
  warm     : Byte
  cold     : Bool
  scrubbed : Bool
  stwLost  : Bool
  pLost    : Byte
  deriving DecidableEq, Repr, Inhabited

/-- PWR_SAG (R461); warnings are counted per rail, VIN first. -/
structure PwrSag where
  below1 : BitVec 4
  th1    : Byte
  th2    : Byte
  warn   : List Byte
  deriving DecidableEq, Repr, Inhabited

/-- PWR_IN (R461). -/
structure PwrIn where
  avg  : W16
  peak : W16
  vin  : W16
  iin  : W16
  deriving DecidableEq, Repr, Inhabited

/-- The variant record (R465); of its reserved bytes, those that are not zero, by offset. -/
structure VariantRec where
  sigOk  : Bool
  magic  : W32
  serial : W64
  var    : Byte
  ceil   : Byte
  tdp    : W16
  qual   : W32
  th1    : Byte
  th2    : Byte
  rsv    : List (Nat × Byte)
  deriving DecidableEq, Repr, Inhabited

/-- The repair record (R466); lanes LO and HI per physical core and engine; of its reserved bytes, those that are not zero, by
offset. -/
structure RepairRec where
  sigOk    : Bool
  magic    : W32
  serial   : W64
  sub32    : Byte
  sub33    : Byte
  mediaOff : W64
  lanes    : List (Byte × Byte)
  rsv      : List (Nat × Byte)
  deriving DecidableEq, Repr, Inhabited

/-- The owner record: whether the root key's signature holds, and the owner's public key (R444). -/
structure OwnerRec where
  sigOk : Bool
  key   : List Byte
  deriving DecidableEq, Repr, Inhabited

/-- The results of a stack's full training, by the key they are saved under: the stack's identity (R470). Its position is its place in the
list. -/
structure SavedTraining where
  identity : W32
  results  : List Byte
  deriving DecidableEq, Repr, Inhabited

/-- A boot policy copy (R445). -/
structure Policy where
  sigOk   : Bool
  seq     : W32
  secure  : BitVec 2
  floor   : W32
  plan    : List (Fin 8 × PBlock)
  deriving DecidableEq, Repr, Inhabited

/-- A firmware image slot (R476). -/
structure FwImage where
  valid   : Bool
  version : W32
  deriving DecidableEq, Repr, Inhabited

/-- Module flash (R444, R465 to R467, R470, R476). -/
structure Flash where
  rootOk    : Bool
  variant   : VariantRec
  repair    : RepairRec
  owner     : Option OwnerRec
  policies  : List Policy
  images    : List FwImage
  select    : Bool
  trial     : Bool
  trialBoots : Nat
  savedTraining : List (Option SavedTraining)
  log       : List (Fin 24 × W32)
  deriving DecidableEq, Repr, Inhabited

/-- The module power cap (R27): the cap in 100 MHz units, the samples of the last 1 ms (newest first), and counts of
10 µs samples. -/
structure PowerCap where
  cap        : Option Nat
  window     : List Nat
  sinceStep  : Nat
  belowCount : Nat
  floorCount : Nat
  deriving DecidableEq, Repr, Inhabited

/-- The current boundary-scan instruction (R501). -/
inductive TapInstr where
  | bypass | idcode | samplePreload | extest | clamp | highz | extestPulse | extestTrain
  deriving DecidableEq, Repr, Inhabited

/-- Firmware staging (R477 to R481). -/
inductive FwPhase where
  | idle | receiving | verifying | staged
  deriving DecidableEq, Repr, Inhabited

/-- Where a final response goes: mailbox, TAG and IRQ flag (R402). -/
structure Ticket where
  page : Page
  mb   : Fin 4
  tag  : W16
  irq  : Bool
  deriving DecidableEq, Repr, Inhabited

/-- The firmware distribution state. -/
structure Fw where
  phase     : FwPhase
  imageId   : W32
  bytes     : Nat
  tree      : List (BitVec 12)
  fanout    : Nat
  rank      : Nat
  deadline  : Nat
  chunks    : Nat
  got       : List Nat
  data      : List (Nat × List Byte)
  repaired  : W32
  last      : W16
  version   : W32
  /-- Ranks still owed chunks after a repair request: asked rank and chunks. -/
  asked     : Option (Nat × List Nat)
  toRoot    : Bool
  /-- A scheduled commit (R482): AT and IMAGE_ID. -/
  commit    : Option (Nat × W32)
  ticket    : Option Ticket
  deriving DecidableEq, Repr, Inhabited

/-- The board part of the state. -/
structure Board where
  phase      : Phase
  pwrEn      : Bool
  railTries  : Nat
  gaveUp     : Bool
  /-- The rails that are good, in the order in which they rose (R493). -/
  rails      : List AnyRail
  /-- The power-on reset has been asked for, and waits for the reference or for the end of a hold (R451, R455). -/
  porWaits   : Bool
  modRef     : Bool
  fabRef     : Bool
  portRef    : List Bool
  cause      : RstCause
  cave       : RstCave
  sag        : PwrSag
  pwrIn      : PwrIn
  /-- A warm reset requested and not yet in effect, with its source (R456). -/
  warmReq    : Option ResetSrc
  resetNHeld : Bool
  sagHeld    : Bool
  wdogArmed  : Bool
  /-- Up times of the recent watchdog expiries, newest first (R464). -/
  wdogRecent : List Nat
  /-- Time since power-on, in ceiling cycles (log entry 8). -/
  uptime     : Nat
  /-- The boot's known-answer runs have passed (R472). -/
  katDone    : Bool
  /-- The boot plan has been carried out since power-on (R446, R468). -/
  planMade   : Bool
  heartbeat  : W64
  secure     : BitVec 2
  policy     : Policy
  rate       : BitVec 2
  tdp        : W16
  ceil       : Byte
  var        : Byte
  serial     : W64
  stepping   : Byte
  tripped    : Bool
  xport      : W16
  world      : W16
  fwActive   : W32
  fwStaged   : W32
  flash      : Flash
  gpio       : BitVec 4
  /-- The straps SB_ADDR1 and SB_ADDR0, as they read (R498). -/
  sbAddr     : BitVec 2
  powerCap   : PowerCap
  junction   : Nat
  tap        : TapInstr
  cells      : List Bool
  smbResp    : List Byte
  /-- The outstanding side-band command (R500). -/
  smbCmd     : Option (List Byte)
  fw         : Fw
  faultLog   : List (Fin 24 × W32)
  /-- Media units disabled by the repair record or withdrawn at boot, by unit number (R466, R472). -/
  mediaOff   : BitVec 45
  deriving DecidableEq, Repr, Inhabited

/-! ### Host ports and mailboxes -/

/-- An entry of a port's MSI-X table (R405): address, data, mask bit. -/
structure MsixEntry where
  bytes   : List Byte
  pending : Bool
  deriving DecidableEq, Repr, Inhabited

/-- The SPDM responder of a port (R447): how far the negotiation has come, the transcript, a deferred response. -/
structure Spdm where
  versioned  : Bool
  capable    : Bool
  negotiated : Bool
  transcript : List Byte
  deferred   : Option (List Byte)
  deriving DecidableEq, Repr, Inhabited

/-- A host port (R383 to R386). -/
structure PortState where
  linkUp   : Bool
  perst    : Bool
  /-- The port has been reset and has not trained its link since (R406, R457). -/
  inReset  : Bool
  width    : Nat
  rate     : Nat
  cfg      : List (Nat × W32)
  msix     : List MsixEntry
  spdm     : Spdm
  deriving DecidableEq, Repr, Inhabited

/-- A mailbox (R398, R399): its areas as non-zero bytes by offset, and MBX_CTL. -/
structure Mailbox where
  cmd     : List (Nat × Byte)
  resp    : List Byte
  done    : W16
  dropped : W16
  pend    : Bool
  owner   : Bool
  deriving DecidableEq, Repr, Inhabited

/-! ### Cores and quadrants -/

/-- A harvest accumulator (R150). -/
structure HarvAcc where
  tag    : Byte
  kind   : Byte
  ssqHi  : W32
  ssqLo  : W32
  maxAbs : W32
  nf     : W32
  count  : W64
  fh64   : W64
  deriving DecidableEq, Repr, Inhabited

/-- SEQ_STAT.STATE (R135). -/
inductive SeqState where
  | idle | running | preempted | halted
  deriving DecidableEq, Repr, Inhabited

/-- A launched entry that has not completed (R125), with its bound counter (R128) and harvest setting (R149). -/
structure Launched where
  idx     : Nat
  kind    : Byte
  evt     : Byte
  bound   : Nat
  ref     : Nat
  counter : Nat
  htag    : Byte
  hkind   : Byte
  /-- A stack of the partition was traffic-throttled while the entry ran (R130). -/
  thr      : Bool
  deriving DecidableEq, Repr, Inhabited

/-- The matrix-engine TILE entry in the engines: its entry index and the image offset of its TD, the list slot it reads,
the ordinal j and index of its list entry, that entry's BASE, OBASE, LEN (none: no list) and NEXT, and whether its piece
is within its span or the next list entry is still to be read (R121 to R123). -/
structure TileRun where
  idx     : Nat
  td      : Nat
  listed  : Bool
  slot    : Nat
  j       : Nat
  cur     : Nat
  base    : Nat
  obase   : Nat
  len     : Option Nat
  next    : Nat
  running : Bool
  deriving DecidableEq, Repr, Inhabited

/-- A piece whose last step is done: its write-out, when it has one, and whether its TILE entry ends with it. Pieces
leave in issue order (R114, R126). -/
structure TileOut where
  idx    : Nat
  td     : Nat
  j      : Nat
  obase  : Nat
  len    : Option Nat
  writes : Bool
  last   : Bool
  deriving DecidableEq, Repr, Inhabited

/-- The running VEC entry: its index, the first row not yet started (R147), the vector registers V0 to V31 as lanes, and
the OUT0 flags so far in logical order (R52). -/
structure VecRun where
  idx   : Nat
  row   : Nat
  regs  : List (List W32)
  flags : List Bool
  deriving DecidableEq, Repr, Inhabited

/-- What a job context holds for one core besides memory (R428): sequencer position, flags, launched entries, tile and
VEC positions, harvest setting and accumulators. -/
structure CoreCtx where
  seq      : SeqState
  aeIdx    : W16
  aovf     : Bool
  ovr      : Bool
  btref    : Bool
  aovfAe   : W16
  ovrAe    : W16
  ovrKind  : Byte
  ovrThr   : Bool
  launched : List Launched
  /-- The WAIT entry that blocks the sequencer, with its bound counter (R125, R128). -/
  waiting  : Option Launched
  /-- A fabric message has counted on that WAIT's event since it began (R325). -/
  fabSeen  : Bool
  ended    : Bool
  tile     : Option TileRun
  outs     : List TileOut
  vec      : Option VecRun
  /-- VEC entries with HFL that have completed and whose flush is still due (R152). -/
  flushes  : List Nat
  htag     : Byte
  hkind    : Byte
  harv     : List HarvAcc
  /-- Positions of stopped XDs and UDs to resume from: entry index and group or element (R199, R256). -/
  stopped  : List (Nat × Nat)
  /-- The sums of stopped NORMs: entry index, pair and count (R256). -/
  partSums : List (Nat × W32 × W32 × W32)
  deriving DecidableEq, Repr, Inhabited

/-- A core's resident context: partition and almanac slot. -/
structure CtxId where
  part : Fin 8
  slot : Fin 4
  deriving DecidableEq, Repr, Inhabited

/-- A core (R135, R29, R54, R81, R156, R174, R323). -/
structure Core where
  ctx      : Option CtxId
  cx       : CoreCtx
  invoc    : W32
  leap     : W32
  run      : W32
  sat      : W32
  nfOut    : W16
  nfIn     : W16
  lmap     : W64
  drop     : W16
  flushed  : W16
  lastTag  : Byte
  vatCe    : W16
  vatUe    : Byte
  prsCe    : W16
  prsUe    : Byte
  eccAddr  : Option (Bool × BitVec 26)
  /-- BUSY, FABRIC, PEER, DRAM, HOST, BUBBLE, PREEMPT, THERMAL, POWER. -/
  vig      : List W64
  clk      : Nat
  relock   : Bool
  /-- The cause that last held the core below the ceiling: 1 thermal, 2 power (R324). -/
  capWas   : Nat
  /-- Core cycles of a known-answer tile still to run (R473). -/
  kat      : Nat
  /-- The cause that holds the core at its clock, and that of its relock pause (R324). -/
  clkCause : Nat
  relockWhy : Nat
  physical : Nat
  deriving DecidableEq, Repr, Inhabited

/-- A job of a quadrant engine: which entry issued it. -/
structure QJob where
  ctx  : CtxId
  core : Fin 32
  idx  : Nat
  evt  : Byte
  ref  : Nat
  /-- Groups (XD) or elements (UD) done. -/
  pos  : Nat
  /-- NORM's pair and count so far; APPLY's and CHECK's completion flag. -/
  sumHi : W32
  sumLo : W32
  nf    : W32
  done  : Bool
  /-- An APPLY has checked its record and written its header (R247). -/
  begun : Bool
  deriving DecidableEq, Repr, Inhabited

/-- A quadrant island (R97, R156, R174, R203, R274). -/
structure Quad where
  rindQ    : List QJob
  rindRun  : Option QJob
  rindJobs : W16
  xfQ      : List QJob
  xfRun    : List QJob
  xfStopped : W16
  xfDone   : W32
  udQ      : List QJob
  udRun    : List QJob
  udDone   : W32
  /-- Live accumulators of the update-path unit, by context (R155). -/
  harv     : List (CtxId × HarvAcc)
  drop     : W16
  flushed  : W16
  lastTag  : Byte
  celCe    : W16
  celUe    : Byte
  eccAddr  : Option (BitVec 26)
  deriving DecidableEq, Repr, Inhabited

/-! ### Stacks -/

/-- How the data of a read that waited is returned: on the chip network, or to a host port as CXL.mem data (R217, R388). -/
inductive ReadVia where
  | network | window (port : Port)
  deriving DecidableEq, Repr, Inhabited

/-- A request at a pseudo-channel (R217): its bytes, a write's data, its class, the latency an LC read is measured at (R219), whether
it has waited 2 µs, and its place in the order of arrival. -/
structure DReq where
  who  : Requester
  addr : Nat
  n    : Nat
  data : Option (List (Option Byte))
  lc   : Bool
  latency : Nat
  via  : ReadVia
  aged : Bool
  seq  : Nat
  deriving DecidableEq, Repr, Inhabited

/-- One pseudo-channel: the requests that wait to be served, in order of arrival; the accepted writes that are queued; the
writes left of the batch under way; how many LC reads in a row were served; the bus direction; the open row of each
bank; the bank under refresh with the time its refresh began; the refreshes that each bank is owed; and how many requests have
arrived (R217, R222). -/
structure PcQueues where
  pc      : Nat
  waiting : List DReq
  writes  : List DReq
  batch   : Nat
  lcRow   : Nat
  lastWrite : Bool
  rows    : List (Nat × Nat)
  refreshing : Option (Nat × Nat)
  owed    : List (Nat × Nat)
  arrivals : Nat
  deriving DecidableEq, Repr, Inhabited

/-- A stack and its controller (R205 to R231). -/
structure Stack where
  valid     : Bool
  temp      : Byte
  maxT      : Byte
  samples   : W16
  doubled   : Bool
  cap       : Option Nat
  limit     : BitVec 2
  /-- Bytes moved under the traffic limit that the admitted rate has not yet made up for, times the ceiling (R226). -/
  debt      : Nat
  sensor    : Bool
  /-- Samples (10 µs) since the last cap step, limit step, and below each release threshold. -/
  sinceCap  : Nat
  sinceLim  : Nat
  below83   : Nat
  below90   : Nat
  below93   : Nat
  /-- Readings in a row at or above 92 and 95 degrees. -/
  above92   : Nat
  above95   : Nat
  rate      : BitVec 2
  turns     : W32
  rmw       : W16
  lcMax     : Byte
  rd        : W64
  wr        : W64
  ce        : W16
  ue        : Byte
  odecc     : W16
  scrub     : Byte
  eccAddr   : Option (Bool × BitVec 30)
  queues    : List PcQueues
  /-- Controller corrections: row and fabric time (R214). -/
  corrected : List (BitVec 30 × Nat)
  cands     : List (BitVec 30)
  /-- Bank groups (pseudo-channel, stack identifier, bank group) with repairs made: the spare rows used. -/
  used      : List (Nat × Nat)
  /-- Spare rows each bank group was made with (log entry 3). -/
  spareRows : Nat
  softRows  : List (BitVec 30)
  hardRows  : List (BitVec 30)
  rfm       : Nat
  reissue   : Nat
  refreshes : List (Nat × Nat)
  /-- Stack tests accepted and not completed, oldest first (R229). -/
  tests     : List Ticket
  /-- The stack's identity, as its test port tells it, and the training results in force (R205, R470). -/
  identity  : W32
  setting   : List Byte
  deriving DecidableEq, Repr, Inhabited

/-! ### Fabric -/

/-- FLnn_STAT.STATE (R301). -/
inductive LinkState where
  | off | training | notReady | up | lost | mismatch | tooLong
  deriving DecidableEq, Repr, Inhabited

/-- A flit (R280): its header but for what the five flits of a block share, and the bytes in use of its payload. -/
structure Flit where
  typ     : BitVec 2
  vc      : BitVec 2
  sub     : Bool
  fill    : Nat
  crCls   : Nat
  crCnt   : Nat
  payload : List Byte
  deriving DecidableEq, Repr, Inhabited

/-- A block (R278, R280): SEQ, ACK, ACKV and NAK of its flit headers, and its five flits. -/
structure Block where
  seq   : BitVec 12
  ack   : BitVec 12
  ackv  : Bool
  nak   : Bool
  flits : List Flit
  deriving DecidableEq, Repr, Inhabited

/-- The time protocol of a link's port (R300): the sequence number of its next delay request, the transmit stamp of the one
outstanding, the request's receipt as the partner answered it with the answer's receive stamp, the measured delay, and the
sequence number and receive stamp of the Sync message that waits for its follow-up. Stamps are in units of 0.5 ns. -/
structure PtpPort where
  seq   : W16
  req   : Option (W16 × Nat)
  resp  : Option (Nat × Nat)
  delay : Int
  sync  : Option (W16 × Nat)
  deriving DecidableEq, Repr, Inhabited

/-- A fabric link (R277 to R301). -/
structure Link where
  state    : LinkState
  saved    : Bool
  rtt      : BitVec 12
  trains   : W16
  fecSym   : W32
  replay   : W16
  disc     : Byte
  lost     : Byte
  peerId   : BitVec 56
  peerLink : BitVec 5
  enabled  : Bool
  /-- LINK_DISABLE has squelched it (R416). -/
  disabled : Bool
  seqNext  : BitVec 12
  rxSeq    : BitVec 12
  rxAny    : Bool
  nakOut   : Bool
  nakRun   : Nat
  /-- A failure whose NAK the next block sent carries (R290). -/
  nakDue   : Bool
  /-- Fabric times of the replays of the last 1 ms (R291). -/
  replays  : List Nat
  /-- Held blocks not yet acknowledged, oldest first (R290). -/
  heldBlocks : List Block
  replayQ  : List Block
  reserved : List Nat
  shared   : Nat
  /-- Granules charged per class and not yet returned, and granules owed to the partner. -/
  charged  : List Nat
  rxHeld   : List Nat
  owed     : List Nat
  /-- What this end knows of the partner's credit counters (R287). -/
  rxRes    : List Nat
  rxShr    : Nat
  /-- Transmit queue per class (VC x 2 + SUB), oldest first: forwarded or local, and the message. -/
  txq      : List (List (Bool × Msg))
  /-- Granules of each class's first message already sent. -/
  txSent   : List Nat
  /-- Per class: whether its last message was forwarded, and the source quadrant of its last local one (R289). -/
  txLast   : List (Bool × Nat)
  wrr      : Nat
  mgmtUsed : List Bool
  /-- The block whose replay a NAK asked for last, and how often in a row (R291). -/
  nakSeen  : Option (BitVec 12 × Nat)
  /-- Lane order and polarity found at training, and the scramblers of both directions (R277, R278). -/
  reversed : Bool
  inverted : BitVec 4
  rxScr    : List (BitVec 58)
  txScr    : List (BitVec 58)
  /-- Equaliser coefficients of each lane (R296, R297). -/
  coeffs   : List (List Byte)
  /-- Per class, the bytes of the message that is arriving (R282). -/
  rx       : List (List Byte)
  /-- Messages wholly received that are not dealt with yet, oldest first, each with its class. -/
  arrived  : List (Nat × Msg)
  ptp      : PtpPort
  deriving DecidableEq, Repr, Inhabited

/-- Per-link fabric configuration (R416) and saved settings: whose they are, and the coefficients (R297). -/
structure LinkCfg where
  expectId   : BitVec 56
  expectLink : Byte
  role       : Byte
  asym       : W32
  savedKey   : Option (BitVec 56 × BitVec 5)
  savedCoef  : List (List Byte)
  deriving DecidableEq, Repr, Inhabited

/-- The fabric island. -/
structure Fab where
  links   : List Link
  cfg     : List LinkCfg
  devId   : Option (BitVec 12)
  /-- Route entries that are not zero (R293). -/
  route   : List (Nat × W32)
  wColl   : Nat
  wData   : Nat
  gm      : W16
  sync    : Byte
  /-- Fabric time in nanoseconds, and its half nanosecond (R300). -/
  time    : Nat
  half    : Bool
  locked  : Bool
  ptpSeq  : W16
  /-- The fabric time at which the next Sync messages are due (R300). -/
  syncAt  : Nat
  deriving DecidableEq, Repr, Inhabited

/-! ### Partitions at run time -/

/-- An event-queue record (R411): 40 bytes. -/
structure EventRec where
  bytes : List Byte
  deriving DecidableEq, Repr, Inhabited

/-- A batch-table list of a loaded almanac (R117, R120): which slot is active, whether it counts as empty, whether a
swap is pending. -/
structure BtList where
  id     : Nat
  slot1  : Bool
  empty  : Bool
  swap   : Bool
  deriving DecidableEq, Repr, Inhabited

/-- The three states of a context (R428). -/
inductive CtxState where
  | unrun | resident | saved
  deriving DecidableEq, Repr, Inhabited

/-- What the slot's invocation is doing. -/
inductive RunState where
  | idle | restoring | running | stopping | saving | preempted | held
  deriving DecidableEq, Repr, Inhabited

/-- The saved image of a context (R168, R428). -/
structure SaveImage where
  cells  : List Host.Cell
  poison : List Nat
  cores  : List (Nat × CoreCtx)
  /-- Accumulators of the update-path units, by quadrant (R155). -/
  quads  : List (Nat × HarvAcc)
  deriving DecidableEq, Repr, Inhabited

/-- One almanac slot of a partition. -/
structure Slot where
  loaded   : Bool
  /-- A pending ALM_LOAD: image address, SIZE, HOST_SLOT, ticket. -/
  loading  : Option (Nat × Nat × Byte × Ticket)
  image    : List Byte
  /-- The address the image was loaded from, which plane-set header addresses are counted from (R105). -/
  imageAt  : Nat
  hostSlot : Byte
  ctx      : CtxState
  run      : RunState
  /-- The context is being restored to resume (true) or to start (false). -/
  resuming : Bool
  bts      : List BtList
  events   : List Nat
  save     : SaveImage
  invoke   : Option Ticket
  preempts : List Ticket
  unload   : Option Ticket
  /-- Status, CORE and AE_IDX of a halted invocation (R414, R435). -/
  halt     : Option (W16 × Byte × W16)
  repaired : Bool
  decision : BitVec 2
  skipStat : W16
  params   : List Byte
  newParams : Option (W64 × List Byte)
  step     : W64
  appliesDone : Nat
  commitsDone : Nat
  /-- Shards digested by this invocation's APPLYs, in order: quadrant and UD offset (R267). -/
  digests  : List (Nat × Nat)
  guest    : Option Ticket
  /-- A training context whose SLOT runs a guest: the guest's slot (R272). -/
  underGuest : Option (Fin 4)
  /-- The header units that the update engine copied at load, by address (R247). -/
  shards   : List (Nat × List Byte)
  /-- A COMPARE that holds: each member's segment digests (R269), and the REPL_REPAIR that waits for it. -/
  held     : Option (List (List W64))
  replTicket : Option Ticket
  /-- The jobs that the context had on the quadrant engines when it was asked to stop, by core and entry, in each engine's order of start
  (R199, R256, R257). -/
  order    : List (Fin 32 × Nat)
  /-- Entries of this invocation, by core and index, whose refused requests have been logged: one record each (R511). -/
  reported : List (Fin 32 × Nat)
  deriving DecidableEq, Repr, Inhabited

/-- A replica group (R266). -/
structure ReplGroup where
  members : List W16
  rank    : Nat
  srcRank : Nat
  repair  : Nat
  maxSeg  : Nat
  deriving DecidableEq, Repr, Inhabited

/-- A collective group (R305). -/
structure CollGroup where
  n       : Nat
  dims    : Nat
  n1      : Nat
  n2      : Nat
  n3      : Nat
  rank    : Nat
  masks   : List W32
  members : List W16
  deriving DecidableEq, Repr, Inhabited

/-- Bytes that a member sends to a peer in a collective: over a link mask of its group, or by the route table; the peer's rank, the
address they are for, the logical core that sends (R281, R306, R312). -/
structure CollSend where
  via  : Option Nat
  rank : Nat
  addr : Nat
  core : Byte
  data : List Byte
  deriving DecidableEq, Repr, Inhabited

/-- Bytes held until a peer's start notice arrives (R312): whose COLL they are of, its group, and what is sent. -/
structure CollHeld where
  ctx   : CtxId
  group : Fin 16
  send  : CollSend
  deriving DecidableEq, Repr, Inhabited

/-- A collective queued or running on the fabric island (R310, R312). -/
structure CollRun where
  group   : Fin 16
  ctx     : CtxId
  core    : Fin 32
  idx     : Nat
  evt     : Byte
  ref     : Nat
  started : Bool
  /-- PERMUTE: places that their holders have read out, and this member's pieces that have moved (R319). -/
  readOut : List Nat
  moved   : List Nat
  /-- PERMUTE: the ranges of its places and of its stage that COLL messages have filled (R319). -/
  landed  : List (Nat × Nat)
  /-- PERMUTE: the staged pieces that this member has copied from its stage into place (R319). -/
  placed  : List Nat
  deriving DecidableEq, Repr, Inhabited

/-- A media stream (R339). -/
structure Stream where
  configured : Bool
  indexBase  : Nat
  n          : Nat
  seed       : W64
  epoch      : W32
  pos        : W32
  paramBase  : Nat
  paramRing  : Nat
  mean       : W32
  /-- The means after MJ j - 1 and MJ j - 2 (R354). -/
  meanPrev   : W32
  mean0      : W32
  mjs        : W16
  /-- MJs issued, and MJs whose mean update has been made or passed over. -/
  issued     : Nat
  applied    : Nat
  /-- Ended MJs whose turn to update the mean has not come: number, and J where the MJ has one (R354). -/
  ended      : List (Nat × Option Nat)
  seq        : Nat
  deriving DecidableEq, Repr, Inhabited

/-- A slot of an MJ: position (a tick number in an alignment MJ), epoch, SEQ, whether a unit has taken it and has
finished it, whether it was VOID, its CYCLES, and the progress bands counted so far (R345, R370). -/
structure MediaSlot where
  pos     : Nat
  epoch   : W32
  seq     : Nat
  started : Bool
  done    : Bool
  void    : Bool
  cycles  : Nat
  bands   : Nat
  deriving DecidableEq, Repr, Inhabited

/-- An MJ queued or running (R345), or an encode MJ (R374). -/
structure MjRun where
  ctx     : CtxId
  core    : Fin 32
  idx     : Nat
  evt     : Byte
  ref     : Nat
  unit    : Nat
  stream  : Nat
  /-- An encode MJ's session (R364). -/
  session : Option Nat
  number  : Nat
  /-- Its place among the module's MJs in arrival order (R345). -/
  arrival : Nat
  budget  : Nat
  started : Bool
  slots   : List MediaSlot
  /-- Encode: frames coded, slices of the current picture done, bytes written, media cycles used. -/
  frame   : Nat
  slice   : Nat
  bytes   : Nat
  cycles  : Nat
  /-- Encode: bits of the current picture so far, its re-encode passes, whether a fallback was used, its coded bytes. -/
  picBits  : Nat
  picRetry : Nat
  picFall  : Bool
  picData  : List Byte
  deriving DecidableEq, Repr, Inhabited

/-- One input of an alignment set (R356). -/
structure AlignIn where
  ring   : Nat
  rlen   : Nat
  es     : Nat
  fmt    : Nat
  widx   : Nat
  ridx   : Nat
  seen   : Nat
  /-- Visible records: stamp in ns and address of the record. -/
  recs   : List (Nat × Nat)
  lastTs : Option Nat
  deriving DecidableEq, Repr, Inhabited

/-- An alignment set (R356). -/
structure AlignSet where
  configured : Bool
  tssrc   : Nat
  mode    : Nat
  period  : Nat
  late    : Nat
  maxGap  : Nat
  t0      : Nat
  inputs  : List AlignIn
  tick    : Nat
  deriving DecidableEq, Repr, Inhabited

/-- An encode session (R373) and its CPB state (R375). -/
structure EncSession where
  configured : Bool
  profile  : Nat
  level    : Nat
  rc       : Nat
  nref     : Nat
  width    : Nat
  height   : Nat
  fpsNum   : Nat
  fpsDen   : Nat
  bitrate  : Nat
  cpbSize  : Nat
  initDelay : Nat
  qpInit   : Nat
  qpMin    : Nat
  qpMax    : Nat
  sliceRows : Nat
  gop      : Nat
  srcPitch : Nat
  refBuf   : Nat
  newSeq   : Bool
  /-- Pictures coded since the sequence began. -/
  picture  : Nat
  /-- CPB fullness before the next picture's removal, in bits times 90,000 times FPS_NUM. -/
  fullness : Nat
  deriving DecidableEq, Repr, Inhabited

/-- The vocabulary (R338). -/
structure Vocab where
  loaded : Bool
  bos    : W32
  eos    : W32
  split  : Nat
  merges : List (Nat × Nat)
  deriving DecidableEq, Repr, Inhabited

/-- A HOST_COPY in progress (R390). -/
structure CopyJob where
  ticket : Ticket
  toHost : Bool
  haddr  : Nat
  daddr  : Nat
  bytes  : Nat
  deriving DecidableEq, Repr, Inhabited

/-- The run-time state of a partition. -/
structure Part where
  events   : List EventRec
  lost     : W32
  slots    : List Slot
  decision : BitVec 2
  stepValid : Bool
  step     : BitVec 54
  skipNf   : W16
  skipNorm : W16
  digFail  : W16
  digFixed : W16
  digRec   : Option (BitVec 12 × W16 × W32)
  repl     : List (Option ReplGroup)
  coll     : List (Option CollGroup)
  collRuns : List CollRun
  /-- Start notices that have arrived for COLLs not completed: group and rank (R312). -/
  collNotices : List (Nat × Nat)
  /-- Read-out notices that have arrived for PERMUTEs not started: group and place (R319). -/
  collReadouts : List (Nat × Nat)
  /-- Data that waits for a peer's start notice (R312). -/
  collHeld : List CollHeld
  /-- Fabric configuration (R416): classes admitted and source devices and partitions. -/
  admission    : Option (BitVec 2 × List W16)
  harvTab  : Option Nat
  /-- Flushes per (HTAG, SRC) since the table was configured. -/
  harvSeq  : List (Nat × W32)
  maxPixels  : Nat
  maxSamples : Nat
  ratioCap   : Nat
  work       : Option (Nat × Nat)
  vocab    : Vocab
  /-- Vocabularies asked for: address, bytes, ticket, oldest first (R417). -/
  vocabReqs : List (Nat × Nat × Ticket)
  streams  : List Stream
  mjs      : List MjRun
  aligns   : List AlignSet
  encs     : List EncSession
  medDone  : W32
  medConc  : W16
  medVoid  : W16
  medCorrupt : W16
  medRefused : W16
  medLastVoid : W32
  vidFallback : W16
  vidRetry : W16
  vidPics  : W32
  copies   : List CopyJob
  create   : Option Ticket
  /-- PART_MODIFYs whose change is made and whose final response is due. -/
  modifies : List Ticket
  resets   : List Ticket
  delete   : Option Ticket
  resetting : Bool
  deriving DecidableEq, Repr, Inhabited

/-! ### What the module drives -/

/-- The lanes of a CXL port (R453, R504). -/
inductive PortLanes where
  | highZ | electricalIdle | operating
  /-- Driven by the boundary register, at a level. -/
  | scan (level : Nat)
  deriving DecidableEq, Repr, Inhabited

/-- The transmitter of a fabric link (R453, R504). -/
inductive FabricTx where
  | highZ | squelched | trainingBlocks | flits
  /-- Driven by the boundary register, at a level. -/
  | scan (level : Nat)
  deriving DecidableEq, Repr, Inhabited

/-- What the receiver of a fabric link accepts (R453, R504). -/
inductive FabricRx where
  | highZ | nothing | trainingBlocks | payload
  deriving DecidableEq, Repr, Inhabited

/-- The general-purpose pins (R453, R499, R504): without pulls, inputs with weak pulls, or inputs as firmware configures them. -/
inductive GpioPins where
  | highZ | pulledInputs | configuredInputs
  deriving DecidableEq, Repr, Inhabited

/-- The levels and states of the module's pins; an open-drain pin that is released reads true (R453, R454, R459, R503, R504). -/
structure Pins where
  alertN   : Bool
  sagWarnN : Bool
  stat     : BitVec 3
  ports    : List PortLanes
  tx       : List FabricTx
  rx       : List FabricRx
  smbNaks  : Bool
  gpio     : GpioPins
  /-- The boundary register drives the pins and overrides the rest. -/
  scanned  : Bool
  deriving DecidableEq, Repr, Inhabited

/-- An observation on a port, bus or pin. -/
inductive Out where
  | cfgReply (port : Port) (crs : Bool) (value : W32)
  | cxlData (port : Port) (data : List Byte) (poisoned : Bool)
  | snoopReply (port : Port)
  | msix (port : Port) (vector : Nat)
  | spdm (port : Port) (body : List Byte)
  | doe (port : Port) (proto : Nat) (next : Nat)
  /-- A block read answered by the target at a 7-bit address. -/
  | smb (addr : Nat) (data : List Byte)
  | smbNak
  /-- A read of BAR0. -/
  | barData (port : Port) (data : List Byte)
  | tdo (value : W32)
  | block (link : Fin 24) (lanes : List (List Byte))
  | training (link : Fin 24) (identity : BitVec 56) (ready : Bool) (probe : W32)
  | hostWrite (addr : Nat) (data : List Byte)
  | netData (who : Requester) (data : List Byte)
  | netStatus (who : Requester) (status : W16)
  deriving DecidableEq, Repr, Inhabited

/-- Everything but ownership. -/
structure Body where
  board  : Board
  ports  : List PortState
  mail   : List (List Mailbox)
  /-- What waits for the steward, oldest first (R402, R500). -/
  gos    : List Go
  cores  : List Core
  quads  : List Quad
  stks : List Stack
  fab    : Fab
  parts  : List Part
  mem    : Mem
  bkp    : List W64
  /-- Backup registers whose code holds an uncorrectable error (R169, R178). -/
  bkpBad : W32
  out    : List Out
  /-- The free-value counter: the model's own. -/
  free   : Nat
  deriving DecidableEq, Repr, Inhabited

/-- The state of the block: the queue of waiting commands, ownership, and the rest. -/
structure State where
  pending : List Instr
  own     : Own
  body    : Body
  deriving DecidableEq, Repr

/-! ### Reset values -/

/-- A core context with nothing running: flags clear, AOVF_AE and OVR_AE 0xFFFF (R135). -/
def CoreCtx.idle : CoreCtx where
  seq := .idle
  aeIdx := 0
  aovf := false
  ovr := false
  btref := false
  aovfAe := 0xFFFF
  ovrAe := 0xFFFF
  ovrKind := 0
  ovrThr := false
  launched := []
  waiting := none
  fabSeen := false
  ended := false
  tile := none
  outs := []
  vec := none
  flushes := []
  htag := 0
  hkind := 0
  harv := []
  stopped := []
  partSums := []

/-- Physical lane map with no lane disabled (R81). -/
def Core.noLanes : W64 := 0xFFFFFFFFFFFFFFFF

/-- Core c after power-on reset: every register at its Reset column; unclocked (CLK_NOW 0, R29). -/
def Core.reset (c : Nat) : Core where
  ctx := none
  cx := CoreCtx.idle
  invoc := 0
  leap := 0
  run := 0
  sat := 0
  nfOut := 0
  nfIn := 0
  lmap := Core.noLanes
  drop := 0
  flushed := 0
  lastTag := 0
  vatCe := 0
  vatUe := 0
  prsCe := 0
  prsUe := 0
  eccAddr := none
  vig := List.replicate 9 0
  clk := 0
  relock := false
  capWas := 0
  kat := 0
  clkCause := 0
  relockWhy := 0
  physical := c

/-- A quadrant after reset. -/
def Quad.reset : Quad where
  rindQ := []
  rindRun := none
  rindJobs := 0
  xfQ := []
  xfRun := []
  xfStopped := 0
  xfDone := 0
  udQ := []
  udRun := []
  udDone := 0
  harv := []
  drop := 0
  flushed := 0
  lastTag := 0
  celCe := 0
  celUe := 0
  eccAddr := none

/-- A stack after power-on reset (R231). -/
def Stack.reset : Stack where
  valid := false
  temp := 0
  maxT := 0
  samples := 0
  doubled := false
  cap := none
  limit := 0
  debt := 0
  sensor := false
  sinceCap := 0
  sinceLim := 0
  below83 := 0
  below90 := 0
  below93 := 0
  above92 := 0
  above95 := 0
  rate := 0
  turns := 0
  rmw := 0
  lcMax := 0
  rd := 0
  wr := 0
  ce := 0
  ue := 0
  odecc := 0
  scrub := 0
  eccAddr := none
  queues := []
  corrected := []
  cands := []
  used := []
  spareRows := 2
  softRows := []
  hardRows := []
  rfm := 0
  reissue := 0
  refreshes := []
  tests := []
  identity := 0
  setting := []

/-- A link after power-on reset (R301); credits at their starting values (R287). -/
def Link.reset : Link where
  state := .off
  saved := false
  rtt := 0
  trains := 0
  fecSym := 0
  replay := 0
  disc := 0
  lost := 0
  peerId := 0
  peerLink := 0
  enabled := false
  disabled := false
  seqNext := 0
  rxSeq := 0
  rxAny := false
  nakOut := false
  nakRun := 0
  nakDue := false
  replays := []
  heldBlocks := []
  replayQ := []
  reserved := List.replicate 6 128
  shared := 23808
  charged := List.replicate 6 0
  rxHeld := List.replicate 6 0
  owed := List.replicate 6 0
  rxRes := List.replicate 6 128
  rxShr := 23808
  txq := List.replicate 6 []
  txSent := List.replicate 6 0
  txLast := List.replicate 6 (false, 0)
  wrr := 0
  mgmtUsed := []
  nakSeen := none
  reversed := false
  inverted := 0
  rxScr := List.replicate 4 0
  txScr := List.replicate 4 0
  coeffs := []
  rx := List.replicate 6 []
  arrived := []
  ptp := ⟨0, none, none, 0, none⟩

/-- A link's configuration before FAB_CFG. -/
def LinkCfg.reset : LinkCfg where
  expectId := 0
  expectLink := 0
  role := 0
  asym := 0
  savedKey := none
  savedCoef := []

/-- The fabric island after power-on reset: no configuration (R457), default weights 1 : 1 (R289). -/
def Fab.reset : Fab where
  links := List.replicate 24 Link.reset
  cfg := List.replicate 24 LinkCfg.reset
  devId := none
  route := []
  wColl := 1
  wData := 1
  gm := 0
  sync := 0
  time := 0
  half := false
  locked := false
  ptpSeq := 0
  syncAt := 0

/-- An empty almanac slot. -/
def Slot.empty : Slot where
  loaded := false
  loading := none
  image := []
  imageAt := 0
  hostSlot := 0xFF
  ctx := .unrun
  run := .idle
  resuming := false
  bts := []
  events := []
  save := ⟨[], [], [], []⟩
  invoke := none
  preempts := []
  unload := none
  halt := none
  repaired := false
  decision := 0
  skipStat := 0
  params := []
  newParams := none
  step := 0
  appliesDone := 0
  commitsDone := 0
  digests := []
  guest := none
  underGuest := none
  shards := []
  held := none
  replTicket := none
  order := []
  reported := []

/-- A stream that is not configured (R339). -/
def Stream.reset : Stream where
  configured := false
  indexBase := 0
  n := 0
  seed := 0
  epoch := 0
  pos := 0
  paramBase := 0
  paramRing := 0
  mean := 0
  meanPrev := 0
  mean0 := 0
  mjs := 0
  issued := 0
  applied := 0
  ended := []
  seq := 0

/-- An alignment set that is not configured. -/
def AlignSet.reset : AlignSet where
  configured := false
  tssrc := 0
  mode := 0
  period := 0
  late := 0
  maxGap := 0
  t0 := 0
  inputs := []
  tick := 0

/-- An encode session that is not configured. -/
def EncSession.reset : EncSession where
  configured := false
  profile := 0
  level := 0
  rc := 0
  nref := 0
  width := 0
  height := 0
  fpsNum := 0
  fpsDen := 0
  bitrate := 0
  cpbSize := 0
  initDelay := 0
  qpInit := 0
  qpMin := 0
  qpMax := 0
  sliceRows := 0
  gop := 0
  srcPitch := 0
  refBuf := 0
  newSeq := true
  picture := 0
  fullness := 0

/-- A partition's run-time state with nothing configured; media limits at R350's defaults. -/
def Part.reset : Part where
  events := []
  lost := 0
  slots := List.replicate 4 Slot.empty
  decision := 0
  stepValid := false
  step := 0
  skipNf := 0
  skipNorm := 0
  digFail := 0
  digFixed := 0
  digRec := none
  repl := List.replicate 16 none
  coll := List.replicate 16 none
  collRuns := []
  collNotices := []
  collReadouts := []
  collHeld := []
  admission := none
  harvTab := none
  harvSeq := []
  maxPixels := 67108864
  maxSamples := 16777216
  ratioCap := 2048
  work := none
  vocab := ⟨false, 0xFFFFFFFF, 0xFFFFFFFF, 0, []⟩
  vocabReqs := []
  streams := List.replicate 16 Stream.reset
  mjs := []
  aligns := List.replicate 4 AlignSet.reset
  encs := List.replicate 8 EncSession.reset
  medDone := 0
  medConc := 0
  medVoid := 0
  medCorrupt := 0
  medRefused := 0
  medLastVoid := 0
  vidFallback := 0
  vidRetry := 0
  vidPics := 0
  copies := []
  create := none
  modifies := []
  resets := []
  delete := none
  resetting := false

/-- A mailbox after reset (R399). -/
def Mailbox.reset : Mailbox := ⟨[], [], 0, 0, false, false⟩

/-- A port whose link is down; every MSI-X vector masked (the PCIe value of vector control, log entry 3). -/
def PortState.reset : PortState where
  linkUp := false
  perst := true
  inReset := true
  width := 0
  rate := 0
  cfg := []
  msix := List.replicate 48 ⟨List.replicate 12 0 ++ [1, 0, 0, 0], false⟩
  spdm := ⟨false, false, false, [], none⟩

/-- The factory policy (R445): port A secure, no plan, FW_FLOOR 0. -/
def Policy.factory : Policy := ⟨true, 0, 1, 0, []⟩

/-- An absent partition. -/
def PartRec.none : PartRec := ⟨.absent, ⟨0, 0, false, 0, 0, 0, 0, 0, false, 0, 0, 0, 0, 0, 0, 0, 0⟩⟩

/-- DRM_MAP00 at power-on: all 864 GiB, 24-way (R208). -/
def MapDesc.default : MapDesc := ⟨true, false, 0, 0, 0, 36, 0⟩

/-- An unused map descriptor. -/
def MapDesc.off : MapDesc := ⟨false, false, 0, 0, 0, 0, 0⟩

/-- Ownership after power-on reset: semaphores free, PRIO A, no partition, DRM_MAP00 alone (R396, R208, R457). -/
def Own.reset : Own where
  sems := List.replicate 32 ⟨false, .a, 0⟩
  prio := .a
  cont := 0
  recs := List.replicate 8 PartRec.none
  maps := MapDesc.default :: List.replicate 15 MapDesc.off
  worlds := List.replicate 64 ⟨false, false, 0, 0, 0⟩

/-- Module flash as manufactured: variant A, no repair, no owner, image version 0 in slot 0 (log entry 3). -/
def Flash.asMade : Flash where
  rootOk := true
  variant := ⟨true, 0x56524157, 0, 1, 30, 2600, 0xFFFFFF, 0x32, 0x64, []⟩
  repair := ⟨true, 0x52504157, 0, 0xFF, 0xFF, 0, List.replicate 136 (0xFF, 0xFF), []⟩
  owner := none
  policies := []
  images := [⟨true, 0⟩, ⟨false, 0⟩]
  select := false
  trial := false
  trialBoots := 0
  savedTraining := List.replicate 24 none
  log := []

/-- The rails in the order in which they rise (R493). -/
def railOrder : List AnyRail := [.vin, .vio, .v1p8, .vpp, .vmem, .vphy, .vcore]

/-- No firmware staging. -/
def Fw.idle : Fw where
  phase := .idle
  imageId := 0
  bytes := 0
  tree := []
  fanout := 0
  rank := 0
  deadline := 0
  chunks := 0
  got := []
  data := []
  repaired := 0
  last := 0
  version := 0
  asked := none
  toRoot := false
  commit := none
  ticket := none

/-- The board at power-on reset: rails good, references present, the boot ROM not yet started (log entry 4). -/
def Board.reset : Board where
  phase := .powerOn
  pwrEn := true
  railTries := 0
  gaveUp := false
  rails := railOrder
  porWaits := false
  modRef := true
  fabRef := true
  portRef := [true, true]
  cause := ⟨0, 0, false, false, 0, 0, 0, 0⟩
  cave := ⟨0, true, false, false, 0⟩
  sag := ⟨0, 0x32, 0x64, [0, 0, 0, 0]⟩
  pwrIn := ⟨0, 0, 0, 0⟩
  warmReq := none
  resetNHeld := false
  sagHeld := false
  wdogArmed := false
  wdogRecent := []
  uptime := 0
  katDone := false
  planMade := false
  heartbeat := 0
  secure := 0
  policy := ⟨false, 0, 0, 0, []⟩
  rate := 0
  tdp := 0
  ceil := 0
  var := 0
  serial := 0
  stepping := 0
  tripped := false
  xport := 0
  world := 0
  fwActive := 0
  fwStaged := 0
  flash := Flash.asMade
  gpio := 0
  sbAddr := 3
  powerCap := ⟨none, [], 0, 0, 0⟩
  junction := 0
  tap := .idcode
  cells := []
  smbResp := []
  smbCmd := none
  fw := Fw.idle
  faultLog := []
  mediaOff := 0

/-- The rest of the state after power-on reset: memories zeroed (R179, R224), queues empty. -/
def Body.reset : Body where
  board := Board.reset
  ports := List.replicate 2 PortState.reset
  mail := List.replicate 9 (List.replicate 4 Mailbox.reset)
  gos := []
  cores := (List.range 32).map Core.reset
  quads := List.replicate 4 Quad.reset
  stks := List.replicate 24 Stack.reset
  fab := Fab.reset
  parts := List.replicate 8 Part.reset
  mem := ⟨[], [], [], [], []⟩
  bkp := List.replicate 32 0
  bkpBad := 0
  out := []
  free := 0

/-- The machine right after power-on reset: the queue is empty and the next thing to happen is POWER_ON_RESET, by
which the boot ROM starts (R468). -/
def State.reset : State := ⟨[], Own.reset, Body.reset⟩

end Sys2Proof.Machine
end

