-- ==== Sys2Proof/Machine/Flags.lean ====
section
/-! DEFINITION. Conversions with their status events (R46 to R54), the stochastic-rounding generator (R50), the block
flag bitmap (R52) and the counters they advance. -/

namespace Sys2Proof.Machine

open Sys2Proof

/-- A conversion control word (R46); `ofs` is none for 0xFFFF_FFFF. -/
structure Ccw where
  seed   : W64
  stream : Nat
  subn   : Bool
  ovf    : Bool
  rmode  : Nat
  ofs    : Option Nat
  deriving DecidableEq, Repr, Inhabited

/-- The targets of a conversion. -/
inductive Target where
  | f8a | f8g | i8 | b16 | f32 | pair
  deriving DecidableEq, Repr, Inhabited

/-- The format code of a target (R32). -/
def Target.ofCode (c : Nat) : Option Target :=
  if c = 1 then some .f8a else if c = 2 then some .f8g else if c = 3 then some .i8
  else if c = 8 then some .b16 else if c = 9 then some .f32 else if c = 10 then some .pair else none

/-- Bytes per element (R32). -/
def Target.bytes : Target → Nat
  | .f8a => 1 | .f8g => 1 | .i8 => 1 | .b16 => 2 | .f32 => 4 | .pair => 8

/-- The binary format of a floating target; a pair takes its curd. -/
def Target.fmt : Target → Fmt
  | .f8a => Fmt.f8a | .f8g => Fmt.f8g | .b16 => Fmt.b16 | _ => Fmt.f32

/-- What a conversion counts (R48): saturations, non-finite sources, non-finite results, block flag. -/
structure ConvEv where
  sat   : Bool
  nfIn  : Bool
  nfOut : Bool
  deriving DecidableEq, Repr, Inhabited

/-- Nothing counted. -/
def ConvEv.none : ConvEv := ⟨false, false, false⟩

/-- The block flag of R52: set by every counted situation. -/
def ConvEv.flag (e : ConvEv) : Bool := e.sat || e.nfIn || e.nfOut

/-- The generator of R50: r = x[63:48]. -/
def srValue (seed : W64) (stream i : Nat) : Nat :=
  let x0 : W64 := seed ^^^ BitVec.ofNat 64 (stream % 2 ^ 24 * 2 ^ 40) ^^^ BitVec.ofNat 64 (i % 2 ^ 40)
  let x1 : W64 := (x0 ^^^ (x0 >>> 31)) * 0x7FB5D329728EA185
  let x2 : W64 := (x1 ^^^ (x1 >>> 27)) * 0x81DADEF4BC2DD44D
  let x3 : W64 := x2 ^^^ (x2 >>> 33)
  x3.toNat / 2 ^ 48

/-- The rounding of a conversion at element index i. -/
def Ccw.round (c : Ccw) (i : Nat) : Round :=
  if c.rmode = 1 then .zero else if c.rmode = 2 then .stoch (srValue c.seed c.stream i) else .near

/-- Convert to I8 (R47, R48). -/
def convertI8 (c : Ccw) (i : Nat) : Num → Nat × ConvEv
  | .nan => (0, ⟨false, true, false⟩)
  | .inf n => (if n then 128 else 127, ⟨false, true, false⟩)
  | .fin n m e =>
    let k := roundTo (c.round i) m e 0
    if n then (if k > 128 then (128, ⟨true, false, false⟩) else ((256 - k) % 256, .none))
    else (if k > 127 then (127, ⟨true, false, false⟩) else (k, .none))

/-- Convert to a floating format (R47, R48). -/
def convertFloat (f : Fmt) (c : Ccw) (i : Nat) : Num → Nat × ConvEv
  | .nan => (f.nan, ⟨false, true, false⟩)
  | .inf n =>
    (match f.inf with
      | some x => f.signBit n + x
      | none => if c.ovf then f.nan else f.signBit n + f.top, ⟨false, true, false⟩)
  | .fin n m e =>
    let k := f.mag (c.round i) m e
    if k > f.top then
      if c.ovf then (match f.inf with | some x => f.signBit n + x | none => f.nan, ⟨false, false, true⟩)
      else (f.signBit n + f.top, ⟨true, false, false⟩)
    else if c.subn && k < 2 ^ f.fb then (f.signBit n, .none)
    else (f.signBit n + k, .none)

/-- A conversion of R47 and R48 at destination element index i: the code (a pair's curd in its low 32 bits, whey +0 in
the high ones) and what it counts. -/
def convert (t : Target) (c : Ccw) (i : Nat) (x : Num) : Nat × ConvEv :=
  match t with
  | .i8 => convertI8 c i x
  | t => convertFloat t.fmt c i x

/-- A number as n bytes, little-endian (R5). -/
def leBytes (n : Nat) (v : Nat) : List Byte := (List.range n).map fun i => BitVec.ofNat 8 (v / 2 ^ (8 * i))

/-- The number that bytes spell, little-endian (R5). -/
def ofLe : List Byte → Nat
  | [] => 0
  | b :: t => b.toNat + 256 * ofLe t

/-- The block flag bitmap of R52 over flags in logical order: one bit per 32 elements. -/
def flagBitmap (flags : List Bool) (blocks : Nat) : List Byte :=
  (List.range ((blocks + 7) / 8)).map fun i =>
    (List.range 8).foldl (fun (acc : Byte) j =>
      if ((flags.drop ((8 * i + j) * 32)).take 32).any id then acc ||| BitVec.ofNat 8 (2 ^ j) else acc) 0

/-- Insert before the first element that is not below it. -/
def insertBy {α : Type} (le : α → α → Bool) (a : α) : List α → List α
  | [] => [a]
  | b :: t => if le a b then a :: b :: t else b :: insertBy le a t
/-- A list in ascending order; equal elements keep their order. -/
def sortBy {α : Type} (le : α → α → Bool) (l : List α) : List α := l.foldr (insertBy le) []

/-- Add to a counter that stops at its maximum (R54). -/
def satAdd {w : Nat} (x : BitVec w) (n : Nat) : BitVec w :=
  if x.toNat + n < 2 ^ w then BitVec.ofNat w (x.toNat + n) else BitVec.allOnes w

/-- Count the events of conversions in a core's counters (R54). -/
def Core.count (c : Core) (sat nfIn nfOut : Nat) : Core :=
  { c with sat := satAdd c.sat sat, nfIn := satAdd c.nfIn nfIn, nfOut := satAdd c.nfOut nfOut }

/-- Count a list of conversion events. -/
def Core.countEvs (c : Core) (evs : List ConvEv) : Core :=
  c.count (evs.countP (·.sat)) (evs.countP (·.nfIn)) (evs.countP (·.nfOut))

end Sys2Proof.Machine
end

