-- ==== Sys2Proof/Machine/Ops.lean ====
section
/-! DEFINITION. The named operations over memory, registers, event queues, mailboxes and interrupts. -/

namespace Sys2Proof.Machine

open Sys2Proof

/-! ### Numbers in bytes -/

/-- Bits hi down to lo of a number. -/
def bitsOf (v hi lo : Nat) : Nat := v / 2 ^ lo % 2 ^ (hi + 1 - lo)

/-- The n-byte little-endian field at an offset of a byte string (R5); bytes past its end read 0. -/
def field (bs : List Byte) (off n : Nat) : Nat := ofLe ((bs.drop off).take n)

/-- The mixer of R50 and R154. -/
def mix (x : W64) : W64 :=
  let x1 : W64 := (x ^^^ (x >>> 31)) * 0x7FB5D329728EA185
  let x2 : W64 := (x1 ^^^ (x1 >>> 27)) * 0x81DADEF4BC2DD44D
  x2 ^^^ (x2 >>> 33)

/-- A signed 32-bit reading of a number. -/
def signed32 (v : Nat) : Int := if v < 2 ^ 31 then (v : Int) else (v : Int) - 2 ^ 32

/-- Status codes (the table of chapter 0, R439). -/
def stOk : W16 := 0x0000
/-- BUSY. -/
def stBusy : W16 := 0x0001
/-- PENDING. -/
def stPending : W16 := 0x0002
/-- REFUSED_SHAPE. -/
def stShape : W16 := 0x0101
/-- REFUSED_FIT. -/
def stFit : W16 := 0x0102
/-- REFUSED_OVERLAP. -/
def stOverlap : W16 := 0x0103
/-- REFUSED_ALIAS. -/
def stAlias : W16 := 0x0104
/-- REFUSED_FORMAT. -/
def stFormat : W16 := 0x0105
/-- REFUSED_WORLD. -/
def stWorld : W16 := 0x0106
/-- REFUSED_BOUNDS. -/
def stBounds : W16 := 0x0107
/-- FAULT_NONFINITE. -/
def ftNonfinite : W16 := 0x0201
/-- FAULT_NORM. -/
def ftNorm : W16 := 0x0202
/-- FAULT_DIGEST. -/
def ftDigest : W16 := 0x0203
/-- FAULT_OVERRUN. -/
def ftOverrun : W16 := 0x0204
/-- FAULT_ECC_UNCORR. -/
def ftEcc : W16 := 0x0205
/-- FAULT_LINK. -/
def ftLink : W16 := 0x0206
/-- FAULT_THERMAL. -/
def ftThermal : W16 := 0x0207
/-- FAULT_JOURNAL (chapter 9). -/
def ftJournal : W16 := 0x0208
/-- FAULT_PEER (chapter 11). -/
def ftPeer : W16 := 0x0209
/-- FAULT_KAT (R439). -/
def ftKat : W16 := 0x020A
/-- FAULT_RESET (R439). -/
def ftReset : W16 := 0x020B
/-- MEDIA_CONCEALED. -/
def stConcealed : W16 := 0x0301
/-- MEDIA_VOID. -/
def stVoid : W16 := 0x0302
/-- MEDIA_CORRUPT. -/
def stCorrupt : W16 := 0x0303
/-- AUTH_FAIL. -/
def stAuth : W16 := 0x0401
/-- IMAGE_INCOMPLETE. -/
def stIncomplete : W16 := 0x0402

/-! ### Memory -/

/-- The byte at an address; an unlisted byte reads 0 (R179, R224). -/
def lookupCell : List Host.Cell → Nat → Byte
  | [], _ => 0
  | (a, v) :: t, x => if a = x then v else lookupCell t x

/-- Insert an entry before the first one at a higher address. -/
def insertCell : List Host.Cell → Nat → Byte → List Host.Cell
  | [], x, v => [(x, v)]
  | (a, w) :: t, x, v => if x < a then (x, v) :: (a, w) :: t else (a, w) :: insertCell t x v

/-- Set one byte, keeping the list by rising address and without zeros. -/
def putCell (cs : List Host.Cell) (x : Nat) (v : Byte) : List Host.Cell :=
  let r := cs.filter fun c => c.1 != x
  if v = 0 then r else insertCell r x v

/-- Set consecutive bytes from an address. -/
def putCells : List Host.Cell → Nat → List Byte → List Host.Cell
  | cs, _, [] => cs
  | cs, a, v :: t => putCells (putCell cs a v) (a + 1) t

/-- Set the bytes of a byte-masked write (R18). -/
def putMasked : List Host.Cell → Nat → List (Option Byte) → List Host.Cell
  | cs, _, [] => cs
  | cs, a, none :: t => putMasked cs (a + 1) t
  | cs, a, some v :: t => putMasked (putCell cs a v) (a + 1) t

/-- The canonical form of a cell list: addresses strictly rising, no zero byte. -/
def cellsWf : List Host.Cell → Bool
  | [] => true
  | (_, v) :: [] => v != 0
  | (a, v) :: (b, w) :: t => v != 0 && decide (a < b) && cellsWf ((b, w) :: t)

/-- The canonical form of memory. -/
def Mem.wf (m : Mem) : Bool := cellsWf m.cells

/-- The byte at an address. -/
def Mem.byte (m : Mem) (a : Nat) : Byte := lookupCell m.cells a

/-- n bytes from an address. -/
def Mem.bytes (m : Mem) (a n : Nat) : List Byte := (List.range n).map fun i => m.byte (a + i)

/-- The little-endian number in n bytes at an address. -/
def Mem.le (m : Mem) (a n : Nat) : Nat := ofLe (m.bytes a n)

/-- A check word at w of the given size overlaps the n bytes at a. -/
def touches (word w a n : Nat) : Bool := decide (w < a + n) && decide (a < w + word)

/-- The check-word size at an address: 4 bytes in a press, 8 in the other SRAMs (R169), 64 in DRAM, 32 in a sector-mode
region (R211, R215). -/
def wordSize (maps : List MapDesc) (a : Nat) : Nat :=
  if a < 0xD800000000 then
    (if maps.any (fun d => d.valid && d.sect && decide (d.base.toNat * 2 ^ 30 ≤ a) &&
        decide (a < d.base.toNat * 2 ^ 30 +
          (if d.set = 0 then 24 else if d.set = 1 then 6 else 1) * d.sliceN.toNat * 2 ^ 30)) then 32 else 64)
  else if a < 0xF3000000000 then 8 else 4

/-- The words of a size that cannot be read: poisoned, or with an error that the code detects and does not correct (R171, R212). -/
def Mem.badWords (m : Mem) (word : Nat) : List Nat :=
  m.poison ++ (m.upsets.filter (·.2 == .bad)).map fun u => u.1 / word * word

/-- A word in the n bytes at a cannot be read. -/
def Mem.bad (m : Mem) (word a n : Nat) : Bool := (m.badWords word).any fun w => touches word w a n

/-- The first word in the n bytes at a that cannot be read. -/
def Mem.firstBad (m : Mem) (word a n : Nat) : Option Nat :=
  ((m.badWords word).filter fun w => touches word w a n).min?

/-- The address of the 64-byte unit that holds an address. -/
def unitOf (a : Nat) : Nat := a / 64 * 64

/-- Mark the 64-byte unit at an address poisoned, word by word; in a sector-mode region the 32-byte half-unit, which its code
covers alone (R171, R211, R212). -/
def Mem.poisonUnit (m : Mem) (word a : Nat) : Mem :=
  let g := if word = 32 then 32 else 64
  let u := a / g * g
  { m with
    poison := m.poison ++ ((List.range (g / word)).map fun i => u + i * word).filter fun w => !m.poison.contains w
    upsets := m.upsets.filter fun e => !(decide (u ≤ e.1) && decide (e.1 < u + g)) }

/-- The byte of a masked write that falls on an address. -/
def maskedAt (a : Nat) (data : List (Option Byte)) (x : Nat) : Option Byte :=
  if a ≤ x then ((data[x - a]?).getD none) else none

/-- A masked write covers the whole word at w. -/
def covers (word w a : Nat) (data : List (Option Byte)) : Bool :=
  (List.range word).all fun i => (maskedAt a data (w + i)).isSome

/-- Drop from a masked write the bytes that fall in the listed words. -/
def dropWords (word : Nat) (ws : List Nat) (a : Nat) : List (Option Byte) → List (Option Byte)
  | [] => []
  | x :: t => (if ws.any (fun w => decide (w ≤ a) && decide (a < w + word)) then none else x) :: dropWords word ws (a + 1) t

/-- A masked write writes a byte of the n bytes at w. -/
def reachesWord (n w a : Nat) (data : List (Option Byte)) : Bool := (List.range n).any fun i => (maskedAt a data (w + i)).isSome

/-- A masked write reaches a check word without covering it: the word is read, merged and written back (R172, R215). -/
def partWord (word w a : Nat) (data : List (Option Byte)) : Bool := reachesWord word w a data && !covers word w a data

/-- Words that cannot be read and that a masked write reaches without covering them: its bytes there are lost (R172). -/
def Mem.lostWords (m : Mem) (word a : Nat) (data : List (Option Byte)) : List Nat :=
  (m.badWords word).filter fun w => partWord word w a data

/-- A byte-masked write: poison is cleared for every word it covers, bytes in an unreadable word it only partly covers are
lost, a pending write-back of a word or unit it reaches is dropped, and of the errors in words it reaches only one that it does not
cover and that cannot be corrected stays (R18, R170, R172, R173, R212). -/
def Mem.writeMasked (m : Mem) (word a : Nat) (data : List (Option Byte)) : Mem :=
  let lost := m.lostWords word a data
  { m with
    cells := putMasked m.cells a (dropWords word lost a data)
    poison := m.poison.filter fun w => !covers word w a data
    writeBack := m.writeBack.filter fun w => !touches w.2 (w.1 / w.2 * w.2) a data.length
    upsets := m.upsets.filter fun u =>
      let w := u.1 / word * word
      !reachesWord word w a data || (u.2 == .bad && !covers word w a data) }

/-- A write of whole bytes. -/
def Mem.write (m : Mem) (word a : Nat) (data : List Byte) : Mem := m.writeMasked word a (data.map some)

/-- Write n bytes of zero with fresh check bits, clearing poison (R179). -/
def Mem.zero (m : Mem) (a n : Nat) : Mem :=
  { m with
    cells := m.cells.filter fun c => !(decide (a ≤ c.1) && decide (c.1 < a + n))
    poison := m.poison.filter fun w => !(decide (a ≤ w) && decide (w < a + n))
    writeBack := m.writeBack.filter fun w => !(decide (a ≤ w.1) && decide (w.1 < a + n))
    upsets := m.upsets.filter fun u => !(decide (a ≤ u.1) && decide (u.1 < a + n)) }

/-- Zero the bytes outside a range list as a whole memory reset does: keep only cells and poison inside the ranges. -/
def Mem.keepOnly (m : Mem) (keep : Nat → Bool) : Mem :=
  { m with
    cells := m.cells.filter fun c => keep c.1
    poison := m.poison.filter keep
    writeBack := m.writeBack.filter fun w => keep w.1
    upsets := m.upsets.filter fun u => keep u.1 }

/-! ### Address map (R158, R163, R175, R208, R210) -/

/-- What lies at an internal address. -/
inductive Place where
  | dram | vat (c : Nat) | cellar | cave | press (c : Nat) | reserved
  deriving DecidableEq, Repr

/-- Base of a core's vat. -/
def vatBase (c : Nat) : Nat := 0xF0000000000 + c * 0x4000000
/-- Size of a vat. -/
def vatSize : Nat := 0x4000000
/-- Base of the cellar. -/
def cellarBase : Nat := 0xF1000000000
/-- Base of the cave. -/
def caveBase : Nat := 0xF2000000000
/-- Base of a core's press debug window. -/
def pressBase (c : Nat) : Nat := 0xF3000000000 + c * 0x400000
/-- Size of a press. -/
def pressSize : Nat := 0x400000
/-- Base of a partition's cave region (R175). -/
def caveRegion (p : Nat) : Nat := caveBase + 0x10000 + p * 0x6000

/-- Stacks of a region's interleave set. -/
def MapDesc.k (d : MapDesc) : Nat := if d.set = 0 then 24 else if d.set = 1 then 6 else 1
/-- First stack of the set. -/
def MapDesc.first (d : MapDesc) : Nat := if d.set = 0 then 0 else if d.set = 1 then 6 * d.sel.toNat else d.sel.toNat
/-- First address of a region. -/
def MapDesc.lo (d : MapDesc) : Nat := d.base.toNat * 2 ^ 30
/-- Bytes of a region. -/
def MapDesc.size (d : MapDesc) : Nat := d.k * d.sliceN.toNat * 2 ^ 30
/-- An address lies in a valid region. -/
def MapDesc.has (d : MapDesc) (a : Nat) : Bool := d.valid && decide (d.lo ≤ a) && decide (a < d.lo + d.size)

/-- Where a DRAM address falls: stack, pseudo-channel, bank, row, unit (R210). -/
structure DramLoc where
  stack : Nat
  pc    : Nat
  bank  : Nat
  row   : Nat
  unit  : Nat
  deriving DecidableEq, Repr

/-- The mapping of R210. -/
def MapDesc.locate (d : MapDesc) (a : Nat) : DramLoc :=
  let o := a - d.lo
  let g := o / 1024
  let l := g / d.k + d.sliceLo.toNat * 2 ^ 20
  ⟨d.first + g % d.k, l % 64, l / 64 % 48, l / 64 / 48, o / 64 % 16⟩

/-- Where a DRAM address falls under the valid regions. -/
def locate (maps : List MapDesc) (a : Nat) : Option DramLoc := (maps.find? (·.has a)).map (·.locate a)

/-- The memory at an address (R158, R159, R209). -/
def placeOf (maps : List MapDesc) (a : Nat) : Place :=
  if a < 0xD800000000 then (if maps.any (·.has a) then .dram else .reserved)
  else if vatBase 0 ≤ a ∧ a < vatBase 32 then .vat ((a - vatBase 0) / vatSize)
  else if cellarBase ≤ a ∧ a < cellarBase + 0x10000000 then .cellar
  else if caveBase ≤ a ∧ a < caveBase + 0x40000 then .cave
  else if pressBase 0 ≤ a ∧ a < pressBase 32 then .press ((a - pressBase 0) / pressSize)
  else .reserved

/-- The packed row location of DRM_ECCADDR_Snn and R418: PC, BANK, ROW, UNIT. -/
def DramLoc.packed (l : DramLoc) : BitVec 30 := BitVec.ofNat 30 (l.pc * 2 ^ 24 + l.bank * 2 ^ 18 + l.row * 16 + l.unit)
/-- The bank group of a packed location: 4 banks each, 12 a pseudo-channel (R418). -/
def locGroup (loc : Nat) : Nat := bitsOf loc 29 24 * 12 + bitsOf loc 23 18 / 4
/-- The row location of a DRAM location: UNIT zero. -/
def DramLoc.rowOf (l : DramLoc) : BitVec 30 := BitVec.ofNat 30 (l.pc * 2 ^ 24 + l.bank * 2 ^ 18 + l.row * 16)

/-! ### Reading and updating parts of the state -/

/-- A core's state. -/
def Body.core (b : Body) (c : Fin 32) : Core := b.cores.getD c.val (Core.reset c.val)
/-- Update a core. -/
def Body.updCore (b : Body) (c : Fin 32) (f : Core → Core) : Body := { b with cores := b.cores.modify c.val f }
/-- Update a core's context. -/
def Body.updCx (b : Body) (c : Fin 32) (f : CoreCtx → CoreCtx) : Body := b.updCore c fun k => { k with cx := f k.cx }
/-- A quadrant's state. -/
def Body.quad (b : Body) (q : Fin 4) : Quad := b.quads.getD q.val Quad.reset
/-- Update a quadrant. -/
def Body.updQuad (b : Body) (q : Fin 4) (f : Quad → Quad) : Body := { b with quads := b.quads.modify q.val f }
/-- A stack's state. -/
def Body.stack (b : Body) (st : Fin 24) : Stack := b.stks.getD st.val Stack.reset
/-- Update a stack. -/
def Body.updStack (b : Body) (st : Fin 24) (f : Stack → Stack) : Body := { b with stks := b.stks.modify st.val f }
/-- A partition's run-time state. -/
def Body.part (b : Body) (p : Fin 8) : Part := b.parts.getD p.val Part.reset
/-- Update a partition. -/
def Body.updPart (b : Body) (p : Fin 8) (f : Part → Part) : Body := { b with parts := b.parts.modify p.val f }
/-- An almanac slot. -/
def Body.slot (b : Body) (p : Fin 8) (k : Fin 4) : Slot := (b.part p).slots.getD k.val Slot.empty
/-- Update an almanac slot. -/
def Body.updSlot (b : Body) (p : Fin 8) (k : Fin 4) (f : Slot → Slot) : Body :=
  b.updPart p fun x => { x with slots := x.slots.modify k.val f }
/-- Update the board. -/
def Body.updBoard (b : Body) (f : Board → Board) : Body := { b with board := f b.board }
/-- Update the fabric island. -/
def Body.updFab (b : Body) (f : Fab → Fab) : Body := { b with fab := f b.fab }
/-- A link. -/
def Body.link (b : Body) (l : Fin 24) : Link := b.fab.links.getD l.val Link.reset
/-- Update a link. -/
def Body.updLink (b : Body) (l : Fin 24) (f : Link → Link) : Body :=
  b.updFab fun x => { x with links := x.links.modify l.val f }
/-- The number of a port. -/
def portIx : Port → Nat
  | .a => 0
  | .b => 1
/-- The other port. -/
def otherPort : Port → Port
  | .a => .b
  | .b => .a
/-- A host port's state. -/
def Body.port (b : Body) (q : Port) : PortState := b.ports.getD (portIx q) PortState.reset
/-- Update a host port. -/
def Body.updPort (b : Body) (q : Port) (f : PortState → PortState) : Body := { b with ports := b.ports.modify (portIx q) f }
/-- Drive an observation. -/
def Body.emit (b : Body) (o : Out) : Body := { b with out := b.out ++ [o] }
/-- Update memory. -/
def Body.updMem (b : Body) (f : Mem → Mem) : Body := { b with mem := f b.mem }

/-- Partition p's record. -/
def Own.prec (o : Own) (p : Fin 8) : PartRec := o.recs.getD p.val PartRec.none
/-- Update a partition record. -/
def Own.updRec (o : Own) (p : Fin 8) (f : PartRec → PartRec) : Own := { o with recs := o.recs.modify p.val f }
/-- Partition p exists: its record is present. -/
def Own.present (o : Own) (p : Fin 8) : Bool := (o.prec p).phase == .present
/-- A semaphore. -/
def Own.sem (o : Own) (n : Nat) : Sem := o.sems.getD n ⟨false, .a, 0⟩
/-- Update a semaphore. -/
def Own.updSem (o : Own) (n : Nat) (f : Sem → Sem) : Own := { o with sems := o.sems.modify n f }
/-- A port owns partition p: it holds SEM(p + 1) (R395). -/
def Own.owns (o : Own) (q : Port) (p : Fin 8) : Bool := (o.sem (p.val + 1)).held && (o.sem (p.val + 1)).port == q
/-- The port that owns partition p. -/
def Own.holder (o : Own) (p : Fin 8) : Option Port :=
  if (o.sem (p.val + 1)).held then some (o.sem (p.val + 1)).port else none
/-- Core group g of partition p. -/
def Own.hasCore (o : Own) (p : Fin 8) (c : Nat) : Bool := o.present p && (o.prec p).block.groups.toNat.testBit (c / 4)
/-- The partition that owns a core. -/
def Own.coreOwner (o : Own) (c : Nat) : Option (Fin 8) := (List.finRange 8).find? fun p => o.hasCore p c
/-- The cores of partition p. -/
def Own.cores (o : Own) (p : Fin 8) : List (Fin 32) := (List.finRange 32).filter fun c => o.hasCore p c.val
/-- The data region of partition p: base and bytes (R424). -/
def PBlock.dataRange (k : PBlock) : Nat × Nat :=
  (k.dbase * 2 ^ 30, (if k.dset = 0 then 24 else if k.dset = 1 then 6 else 1) * k.sliceN * 2 ^ 30)
/-- The store region of partition p follows the data region directly (R424). -/
def PBlock.storeRange (k : PBlock) : Nat × Nat :=
  (k.dataRange.1 + k.dataRange.2, (if k.dset = 0 then 24 else if k.dset = 1 then 6 else 1) * k.storeN * 2 ^ 30)
/-- The cellar run of partition p. -/
def PBlock.cellarRange (k : PBlock) : Nat × Nat := (cellarBase + k.celFirst * 2 ^ 20, k.celCount * 2 ^ 20)

/-- n bytes at a lie wholly in a range. -/
def inside (r : Nat × Nat) (a n : Nat) : Bool := decide (r.1 ≤ a) && decide (a + n ≤ r.1 + r.2)

/-- n bytes at a lie in partition p's data region (its partition DRAM, R421). -/
def Own.inData (o : Own) (p : Fin 8) (a n : Nat) : Bool := o.present p && inside (o.prec p).block.dataRange a n

/-- The first of n bytes at a that lies outside partition p's data region. -/
def Own.outside (o : Own) (p : Fin 8) (a : Nat) : Nat :=
  if o.inData p a 1 then (o.prec p).block.dataRange.1 + (o.prec p).block.dataRange.2 else a

/-- A port is one the boot policy names secure. -/
def Body.securePort (b : Body) (q : Port) : Bool := b.board.secure.toNat.testBit (portIx q)

/-! ### Worlds (R441, R442) -/

/-- The partition a requester acts for; none: the steward. -/
def whoPart : Requester → Option (Fin 8)
  | .steward => none
  | .entry p _ _ => some p
  | .fabric p _ => some p
  | .host p _ => some p
  | .media p _ _ => some p

/-- SRC_KIND and SRC_INDEX of a requester's records (R511). -/
def whoSrc : Requester → Nat × Nat
  | .steward => (4, 0)
  | .entry _ c _ => (0, c.val)
  | .fabric _ l => (3, l.val)
  | .host _ q => (5, portIx q)
  | .media _ c _ => (0, c.val)

/-- The world a requester acts in (R441): true is secure. -/
def Body.worldOf (o : Own) (b : Body) : Requester → Bool
  | .steward => true
  | .entry p _ _ => (o.prec p).block.secure
  | .media p _ _ => (o.prec p).block.secure
  | .fabric _ _ => false
  | .host _ q => b.securePort q

/-- The check of R442 on the n bytes at an address: one valid descriptor of the partition covers them. -/
def Own.passes (o : Own) (p : Fin 8) (secure : Bool) (a n : Nat) : Bool :=
  o.worlds.any fun d => d.valid && d.part.toNat == p.val && decide (d.base.toNat ≤ a) &&
    decide (a + (n - 1) ≤ d.limit.toNat) && (!d.secure || secure)

/-! ### Interrupts (R405, R406) -/

/-- The mask bit of a vector (PCIe vector control, bit 0). -/
def MsixEntry.masked (e : MsixEntry) : Bool := ((e.bytes.getD 12 0).toNat).testBit 0

/-- A configuration register as it was last written; 0 before. -/
def PortState.written (s : PortState) (reg : Nat) : W32 := (s.cfg.find? (·.1 == reg)).elim 0 (·.2)
/-- The configuration register that holds the MSI-X message control in its upper half (log entry 123). -/
def msixCap : Nat := 0x40
/-- MSI-X Enable. -/
def PortState.msixOn (s : PortState) : Bool := (s.written msixCap).toNat.testBit 31
/-- The MSI-X function mask. -/
def PortState.msixMask (s : PortState) : Bool := (s.written msixCap).toNat.testBit 30
/-- The port may send messages: it is in no reset, and the host has enabled MSI-X (R406). -/
def PortState.signals (s : PortState) : Bool := !s.perst && !s.inReset && s.msixOn

/-- Send a vector's message on a port, or set its pending bit while the vector or the function is masked; a port in reset, or one on
which MSI-X is not enabled, sends nothing and notes nothing (R406; log entry 123). -/
def Body.fire (b : Body) (q : Port) (v : Nat) : Body :=
  if !(b.port q).signals then b
  else
    match (b.port q).msix[v]? with
    | none => b
    | some e =>
      if e.masked || (b.port q).msixMask then b.updPort q fun s => { s with msix := s.msix.modify v fun e => { e with pending := true } }
      else b.emit (.msix q v)

/-- Fire a vector of partition p on the port that owns it. -/
def Body.firePart (o : Own) (b : Body) (p : Fin 8) (v : Nat) : Body :=
  match o.holder p with
  | some q => b.fire q v
  | none => b

/-- ERR_SUM.SAG. -/
def Body.sagNow (b : Body) : Bool := b.board.sag.below1 != 0
/-- ERR_SUM.THROT: a stack is at the traffic step. -/
def Body.throtNow (b : Body) : Bool := b.stks.any fun st => st.limit != 0
/-- DEV_STATE.STATE (R393): 3 held, 2 tripped, 1 READY, 0 not ready. -/
def Body.devState (b : Body) : Nat :=
  match b.board.phase with
  | .held => 3
  | .ready => if b.board.tripped then 2 else 1
  | _ => 0

/-- The islands are clocked: the module has power and its 25 MHz reference (R451, R497). -/
def Body.clocked (b : Body) : Bool := b.board.modRef && b.board.phase != .off

/-- The pads have left their defaults: the rails are good and the control island runs (R451 to R453). -/
def Board.padsSet (x : Board) : Bool := !(x.phase == .off) && !(x.phase == .powerOn) && x.modRef

/-- BAR0 beyond the status pages, and the window, are served: the module is READY, or its steward is held; the ports are the control
island's. During a boot they are not (R386, R458). -/
def Body.hostServed (b : Body) : Bool := b.clocked && (b.board.phase == .ready || b.board.phase == .held)

/-- The steward runs and carries out commands (R402, R454). -/
def Body.stewardUp (b : Body) : Bool := b.board.phase == .ready && b.board.modRef

/-- Fire vector 0 on both ports when STATE, TRIP, SAG or THROT changed (R405). -/
def Body.noteModule (b old : Body) : Body :=
  if old.devState = b.devState ∧ old.board.tripped = b.board.tripped ∧ old.sagNow = b.sagNow ∧
      old.throtNow = b.throtNow then b
  else (b.fire .a 0).fire .b 0

/-! ### Event queues (R411, R511) -/

/-- A KIND 1 or KIND 2 record. -/
def faultRecord (kind : Nat) (status : W16) (src : Nat × Nat) (detail time : Nat) : EventRec :=
  ⟨leBytes 2 status.toNat ++ [0, BitVec.ofNat 8 kind, BitVec.ofNat 8 src.1, BitVec.ofNat 8 src.2, 0, 0] ++
    leBytes 8 detail ++ List.replicate 16 0 ++ leBytes 8 time⟩

/-- Append a record to partition p's event queue, or count it in LOST when the queue holds 1,024. -/
def Body.appendEvent (o : Own) (b : Body) (p : Fin 8) (r : EventRec) : Body :=
  let evs := (b.part p).events
  if evs.length ≥ 1024 then b.updPart p fun x => { x with lost := satAdd x.lost 1 }
  else
    let b' := b.updPart p fun x => { x with events := x.events ++ [r] }
    if evs = [] then b'.firePart o p (33 + p.val) else b'

/-- Append a KIND 1 fault record at the present fabric time. -/
def Body.faultEvent (o : Own) (b : Body) (p : Fin 8) (status : W16) (src : Nat × Nat) (detail : Nat) : Body :=
  b.appendEvent o p (faultRecord 1 status src detail (b.fab.time % 2 ^ 64))

/-- Log a run-time refusal: a KIND 2 record, and ERR_SUM.WORLD for REFUSED_WORLD (R442, R511). -/
def Body.logRefusal (o : Own) (b : Body) (p : Fin 8) (status : W16) (src : Nat × Nat) (a : Nat) : Body :=
  let b' := b.appendEvent o p (faultRecord 2 status src a (b.fab.time % 2 ^ 64))
  if status = stWorld then b'.updBoard fun x => { x with world := satAdd x.world 1 } else b'

/-- Log a refused request of an almanac entry: all of an entry's requests are one operation, and the first refused one is its
record (R511). -/
def Body.logEntry (o : Own) (b : Body) (p : Fin 8) (c : Fin 32) (idx : Nat) (status : W16) (a : Nat) : Body :=
  match (b.core c).ctx with
  | some x =>
    if (b.slot x.part x.slot).reported.contains (c, idx) then b
    else
      (b.updSlot x.part x.slot fun s => { s with reported := s.reported ++ [(c, idx)] }).logRefusal o p status (0, c.val) a
  | none => b.logRefusal o p status (0, c.val) a

/-- Log a requester's refused operation: the steward's requests append to no queue, and a media slot reports its refusal only in
its KIND 0 record (R511). -/
def Body.refuse (o : Own) (b : Body) (who : Requester) (status : W16) (a : Nat) : Body :=
  match who with
  | .steward => b
  | .entry p c idx => b.logEntry o p c idx status a
  | .fabric p l => b.logRefusal o p status (3, l.val) a
  | .host p q => b.logRefusal o p status (5, portIx q) a
  | .media .. => b

/-- Log an XNX command refused REFUSED_WORLD for an address: a KIND 2 record of source 4 for the partition of its page, and ERR_SUM.WORLD;
a module command has no partition's queue (R442, R511). -/
def Body.logForeign (o : Own) (b : Body) (pg : Page) (a : Nat) : Body :=
  match pg with
  | .part p => b.logRefusal o p stWorld (4, 0) a
  | .module => b.updBoard fun x => { x with world := satAdd x.world 1 }

/-- Count an access refused under R388 or R392. -/
def Body.xport (b : Body) : Body := b.updBoard fun x => { x with xport := satAdd x.xport 1 }

/-! ### Error counters (R171, R174, R212) -/

/-- The index of a bounded kind, when in range. -/
def finOf (n i : Nat) : Option (Fin n) := if h : i < n then some ⟨i, h⟩ else none

/-- A row corrected: the fourth correction within 24 h lists it, up to 64 rows (R214). -/
def Stack.noteCorrected (s : Stack) (row : BitVec 30) (now : Nat) : Stack :=
  let recent := ((row, now) :: s.corrected).filter fun r => decide (now < r.2 + 86400000000000)
  { s with
    corrected := recent
    cands :=
      if recent.countP (fun r => r.1 == row) ≥ 4 ∧ !s.cands.contains row ∧ s.cands.length < 64 then s.cands ++ [row]
      else s.cands }

/-- Count a corrected word or unit in the registers of its memory; a corrected DRAM row may become a repair candidate
(R170, R212, R214). -/
def Body.countCe (o : Own) (b : Body) (a : Nat) : Body :=
  match placeOf o.maps a with
  | .vat c => { b with cores := b.cores.modify c fun k => { k with vatCe := satAdd k.vatCe 1 } }
  | .press c => { b with cores := b.cores.modify c fun k => { k with prsCe := satAdd k.prsCe 1 } }
  | .cellar =>
    { b with quads := b.quads.modify ((a - cellarBase) / vatSize) fun q => { q with celCe := satAdd q.celCe 1 } }
  | .dram =>
    match locate o.maps a with
    | some l =>
      { b with stks := b.stks.modify l.stack fun s => { (s.noteCorrected l.rowOf b.fab.time) with ce := satAdd s.ce 1 } }
    | none => b
  | _ => b

/-- Count an uncorrectable word or unit and record the address of that word if none is recorded (R171, R174, R212); `scrub` marks
the patrol scrubber's find (R213). -/
def Body.countUe (o : Own) (b : Body) (addr : Nat) (scrub : Bool) : Body :=
  let a := addr / wordSize o.maps addr * wordSize o.maps addr
  match placeOf o.maps a with
  | .vat c =>
    { b with cores := b.cores.modify c fun k =>
        { k with vatUe := satAdd k.vatUe 1, eccAddr := k.eccAddr <|> some (false, BitVec.ofNat 26 (a - vatBase c)) } }
  | .press c =>
    { b with cores := b.cores.modify c fun k =>
        { k with prsUe := satAdd k.prsUe 1, eccAddr := k.eccAddr <|> some (true, BitVec.ofNat 26 (a - pressBase c)) } }
  | .cellar =>
    { b with quads := b.quads.modify ((a - cellarBase) / vatSize) fun q =>
        { q with celUe := satAdd q.celUe 1,
                 eccAddr := q.eccAddr <|> some (BitVec.ofNat 26 ((a - cellarBase) % vatSize)) } }
  | .dram =>
    match locate o.maps a with
    | some l =>
      { b with stks := b.stks.modify l.stack fun s =>
          { s with ue := satAdd s.ue 1, eccAddr := s.eccAddr <|> some (scrub, l.packed) } }
    | none => b
  | _ => b

/-- An uncorrectable error found at an address: the unit is poisoned, counted and recorded (R171, R212). -/
def Body.foundBad (o : Own) (b : Body) (a : Nat) : Body :=
  (b.updMem (·.poisonUnit (wordSize o.maps a) a)).countUe o a false

/-- The 64-byte units that n bytes at a reach. -/
def unitsIn (a n : Nat) : List Nat := if n = 0 then [] else (List.range ((a + n - 1) / 64 + 1 - a / 64)).map fun i => (a / 64 + i) * 64

/-! ### Traffic of a stack (R215, R217, R226, R231) -/

/-- The requests and writes of a pseudo-channel; its bus direction before its first transfer is that of a read, so that a first write counts a
change in TURNS: DESIGN CHOICE, R231 states none (log entry 121). -/
def Stack.pcOf (s : Stack) (pc : Nat) : PcQueues := (s.queues.find? (·.pc == pc)).getD ⟨pc, [], [], 0, 0, false, [], none, [], 0⟩
/-- Update a pseudo-channel. -/
def Stack.updPc (s : Stack) (pc : Nat) (f : PcQueues → PcQueues) : Stack :=
  { s with queues := f (s.pcOf pc) :: s.queues.filter (·.pc != pc) }

/-- Update the stack of a location. -/
def Body.atStack (b : Body) (l : DramLoc) (f : Stack → Stack) : Body := { b with stks := b.stks.modify l.stack f }

/-- The bus turns to a direction: a change is counted in TURNS (R231). -/
def Stack.turn (s : Stack) (pc : Nat) (write : Bool) : Stack :=
  let s' := if (s.pcOf pc).lastWrite = write then s else { s with turns := s.turns + 1 }
  s'.updPc pc fun q => { q with lastWrite := write }

/-- Bytes that the traffic limit admits in one ceiling cycle, times the ceiling: the pin rate of 64 pseudo-channels of 64 bytes in
1.28 ns (2.0 ns at 8.0 Gb/s), halved as often as LIMIT says (R220, R225, R231). -/
def Stack.allowance (s : Stack) : Nat := (if s.rate = 1 then 20480 else 32000) / 2 ^ s.limit.toNat

/-- The stack admits a request now: it is not limited, or the admitted rate has made up for what was moved (R226). -/
def Stack.admits (s : Stack) : Bool := s.limit == 0 || decide (s.debt < s.allowance)

/-- LCMAX keeps the longest latency of an LC read, in units of 4 ns (R219). -/
def Stack.noteLc (s : Stack) (ns : Nat) : Stack := { s with lcMax := BitVec.ofNat 8 (max s.lcMax.toNat (min 255 (ns / 4))) }

/-- Bytes moved to or from a location: the direction, the open row, and what the limit counts (R217, R226, R231). -/
def Stack.move (ceil : Nat) (l : DramLoc) (write : Bool) (bytes : Nat) (s : Stack) : Stack :=
  let s1 := (s.turn l.pc write).updPc l.pc fun q => { q with rows := (l.bank, l.row) :: q.rows.filter (·.1 != l.bank) }
  { s1 with debt := if s.limit = 0 then 0 else s1.debt + bytes * ceil }

/-- Half-units of the unit at u that hold a byte of a set; an ordinary region moves both (R215). -/
def halvesAt (word u : Nat) (f : Nat → Bool) : Nat :=
  if word = 32 then (if f u then 1 else 0) + (if f (u + 32) then 1 else 0)
  else if f u || f (u + 32) then 2 else 0

/-- The DRAM units that n bytes at a reach, each with its half-units that `f` asks for. -/
def dramUnits (o : Own) (a n : Nat) (f : Nat → Bool) : List (DramLoc × Nat) :=
  if a < 0xD800000000 then
    (unitsIn a n).filterMap fun u =>
      let h := halvesAt (wordSize o.maps a) u f
      if h = 0 then none else (locate o.maps u).map fun l => (l, h)
  else []

/-- Units of one stack in a list, a half-unit counting as one half, rounded up (R231). -/
def stackUnits (st : Nat) (us : List (DramLoc × Nat)) : Nat := (((us.filter fun u => u.1.stack == st).map (·.2)).sum + 1) / 2

/-- Units moved in one direction, counted at each stack (R226, R231). -/
def Body.traffic (b : Body) (write : Bool) (us : List (DramLoc × Nat)) : Body :=
  (us.map fun u => u.1.stack).eraseDups.foldl (fun b st =>
      let n := BitVec.ofNat 64 (stackUnits st us)
      { b with stks := b.stks.modify st fun s => if write then { s with wr := s.wr + n } else { s with rd := s.rd + n } })
    (us.foldl (fun b u => b.atStack u.1 (·.move b.board.ceil.toNat u.1 write (32 * u.2))) b)

/-- The units of a DRAM read, counted at their stacks; in a sector-mode region only the half-units it needs (R215, R231). -/
def Body.countReads (o : Own) (b : Body) (a n : Nat) : Body :=
  b.traffic false (dramUnits o a n fun h => touches 32 h a n)

/-- The units that a masked write merges: each is read first (R215). -/
def mergeUnits (o : Own) (a : Nat) (data : List (Option Byte)) : List (DramLoc × Nat) :=
  let w := wordSize o.maps a
  dramUnits o a data.length fun h => partWord w (h / w * w) a data

/-- The units of a DRAM write, counted at their stacks: the merge reads and RMW, then the writes (R215, R231). -/
def Body.countWrites (o : Own) (b : Body) (a : Nat) (data : List (Option Byte)) : Body :=
  let ms := mergeUnits o a data
  let b1 := ms.foldl (fun b u => b.atStack u.1 fun s => { s with rmw := s.rmw + 1 }) (b.traffic false ms)
  b1.traffic true (dramUnits o a data.length fun h => reachesWord 32 h a data)

/-- The stacks that n bytes at a lie in each admit traffic now (R226). -/
def Body.admits (o : Own) (b : Body) (a n : Nat) : Bool :=
  b.stks.all (·.limit == 0) || (dramUnits o a n fun _ => true).all fun u => (b.stks.getD u.1.stack Stack.reset).admits

/-- Stored words come to hold errors (log entry 112). -/
def Body.upset (b : Body) (found : Found) : Body := if found = [] then b else b.updMem fun m => { m with upsets := m.upsets ++ found }

/-- The merge reads of a masked write, of the words that it covers only in part: an uncorrectable error poisons its unit, a
correctable one is counted; a write that covers its words reads nothing (R170 to R172, R215). -/
def Body.mergeRead (o : Own) (b : Body) (a : Nat) (data : List (Option Byte)) : Body :=
  let w := wordSize o.maps a
  (b.mem.upsets.filter fun u => partWord w (u.1 / w * w) a data).foldl (fun b u =>
    match u.2 with
    | .bad => b.updMem (·.poisonUnit w u.1)
    | .corrected => b.countCe o u.1
    | .clean => b) b

/-- Put the bytes of a masked write in place after its merge reads; those that fall in an unreadable word which the write only partly
covers are lost, and each such word counts as an uncorrectable error (R172). -/
def Body.place (o : Own) (b : Body) (a : Nat) (data : List (Option Byte)) : Body :=
  let w := wordSize o.maps a
  let b1 := b.mergeRead o a data
  (b1.mem.lostWords w a data).foldl (fun b x => b.countUe o x false) (b1.updMem (·.writeMasked w a data))

/-- Write bytes for a requester that has passed its check. -/
def Body.store (o : Own) (b : Body) (a : Nat) (data : List (Option Byte)) : Body := (b.countWrites o a data).place o a data

/-- Write whole bytes. -/
def Body.storeBytes (o : Own) (b : Body) (a : Nat) (data : List Byte) : Body := b.store o a (data.map some)

/-! ### Mailboxes (R398 to R404) -/

/-- The index of a mailbox page: partitions 0 to 7, then the module page. -/
def pageIx : Page → Nat
  | .part p => p.val
  | .module => 8

/-- A mailbox. -/
def Body.mailbox (b : Body) (pg : Page) (m : Fin 4) : Mailbox := (b.mail.getD (pageIx pg) []).getD m.val Mailbox.reset
/-- Update a mailbox. -/
def Body.updMail (b : Body) (pg : Page) (m : Fin 4) (f : Mailbox → Mailbox) : Body :=
  { b with mail := b.mail.modify (pageIx pg) fun l => l.modify m.val f }

/-- A port reaches a mailbox page (R391, R395). -/
def reaches (o : Own) (b : Body) (q : Port) : Page → Bool
  | .part p => o.owns q p
  | .module => (o.sem 0).held && (o.sem 0).port == q && b.securePort q

/-- The bytes of a response: header (R401) and results. -/
def respBytes (status tag : W16) (detail : Nat) (result : List Byte) : List Byte :=
  leBytes 2 status.toNat ++ leBytes 2 tag.toNat ++ leBytes 4 result.length ++ leBytes 8 detail ++ result

/-- Fire the vector of a mailbox (R405). -/
def Body.fireMail (o : Own) (b : Body) (pg : Page) (m : Fin 4) : Body :=
  match pg with
  | .part p => b.firePart o p (1 + 4 * p.val + m.val)
  | .module => if (o.sem 0).held then b.fire (o.sem 0).port (41 + m.val) else b

/-- Write a final response (R402): the response area, PEND 0, OWNER 0, DONE + 1, and the vector when IRQ is set. -/
def Body.respond (o : Own) (b : Body) (t : Ticket) (status : W16) (detail : Nat) (result : List Byte) : Body :=
  let b' := b.updMail t.page t.mb fun x =>
    { x with resp := respBytes status t.tag detail result, done := x.done + 1, pend := false, owner := false }
  if t.irq then b'.fireMail o t.page t.mb else b'

/-- Write a PENDING response (R402). -/
def Body.respondPending (b : Body) (t : Ticket) : Body :=
  b.updMail t.page t.mb fun x => { x with resp := respBytes stPending t.tag 0 [], pend := true, owner := false }

/-- What a command's own rule makes of it: refused with no effect (R11), completed, or accepted as PENDING. -/
inductive Xres where
  | refused (status : W16) (detail : Nat)
  /-- Refused with REFUSED_WORLD: an address that it names lies outside what the partition may reach. -/
  | foreign (a : Nat)
  | done (o : Own) (b : Body) (status : W16) (detail : Nat) (result : List Byte)
  | pending (o : Own) (b : Body)

/-- The mailbox a command's responses go to. -/
def xTicket (x : Xnx) : Ticket := ⟨x.page, x.mb, x.tag, x.flags.toNat.testBit 0⟩

/-- The argument field at an offset from command byte 0x10. -/
def xArg (x : Xnx) (off n : Nat) : Nat := field x.args off n

/-- The command area as the host wrote it: header (R400) and arguments, by offset, zeros unlisted. -/
def xArea (code : Nat) (x : Xnx) : List (Nat × Byte) :=
  let bs := leBytes 2 code ++ leBytes 2 x.tag.toNat ++ leBytes 4 x.len ++ leBytes 4 x.flags.toNat ++ leBytes 4 x.arg0 ++ x.args
  (bs.zipIdx.map fun (v, i) => (i, v)).filter fun c => c.2 != 0

/-- Which pages a command runs on (R413 to R419). -/
inductive OnPage where
  | part | module | both
  deriving DecidableEq, Repr

/-- The page rule of R412. -/
def OnPage.ok : OnPage → Page → Bool
  | .both, _ => true
  | .part, .part _ => true
  | .module, .module => true
  | _, _ => false

/-- The checks of R412 that every command shares, in the order of its table: LEN, FLAGS' reserved bits and ARG0's range,
then the page. -/
def xRefusal (x : Xnx) (on : OnPage) (lenOk arg0Ok : Bool) : Option W16 :=
  if !lenOk || !arg0Ok || x.flags.toNat ≥ 2 then some stFormat
  else if !on.ok x.page then some stWorld
  else none

/-- The shared checks of R412, then the command's own rule, then its response (R402 steps 3 and 4). -/
def carryOut (o : Own) (b : Body) (x : Xnx) (on : OnPage) (lenOk arg0Ok : Bool) (act : Own → Body → Xres) : Own × Body :=
  match xRefusal x on lenOk arg0Ok with
  | some st => (o, b.respond o (xTicket x) st 0 [])
  | none =>
    match act o (b.upset x.ecc) with
    | .refused st d => (o, b.respond o (xTicket x) st d [])
    | .foreign a => (o, (b.logForeign o x.page a).respond o (xTicket x) stWorld 0 [])
    | .done o2 b2 st d r => (o2, b2.respond o2 (xTicket x) st d r)
    | .pending o2 b2 => (o2, b2.respondPending (xTicket x))

/-- A write that R402 discards. -/
def Body.dropWrite (b : Body) (pg : Page) (mb : Fin 4) : Body :=
  b.updMail pg mb fun m => { m with dropped := satAdd m.dropped 1 }

/-- A GO taken from the host: the steward owns the mailbox, which joins those that wait for it (R399, R402). -/
def Body.takeGo (b : Body) (pg : Page) (mb : Fin 4) : Body :=
  { b.updMail pg mb fun m => { m with owner := true } with gos := b.gos ++ [.mailbox pg mb] }

/-- The command area written with a command. -/
def Body.placeCommand (b : Body) (code : Nat) (x : Xnx) : Body := b.updMail x.page x.mb fun m => { m with cmd := xArea code x }

/-- The steward runs: firmware started, its clock present. -/
def Body.stewardRuns (b : Body) : Bool := (b.board.phase == .firmware || b.board.phase == .ready) && b.board.modRef

/-- FW_STATUS.STATE (R481). -/
def Fw.stateCode (f : Fw) : Nat :=
  if f.commit.isSome then 4
  else match f.phase with
    | .idle => 0
    | .receiving => 1
    | .verifying => 2
    | .staged => 3

/-- FW_STATUS's result (R481). -/
def fwStatusBytes (x : Board) : List Byte :=
  let f := x.fw
  [BitVec.ofNat 8 f.stateCode, BitVec.ofNat 8 ((if x.cause.image then 1 else 0) + (if x.cause.trial then 128 else 0))] ++
    leBytes 2 f.last.toNat ++ leBytes 4 f.imageId.toNat ++ leBytes 4 f.chunks ++ leBytes 4 f.got.length ++
    leBytes 4 f.repaired.toNat ++ leBytes 4 (if f.phase = .staged then f.version.toNat else 0)

/-- The response to a side-band command: NOP and FW_STATUS alone are performed (R412, R500). -/
def smbAnswer (b : Body) (d : List Byte) : List Byte :=
  let code := field d 0 2
  let tag := BitVec.ofNat 16 (field d 2 2)
  let known := code = 0x0001 ∨ code = 0x0702
  if !known then respBytes stWorld tag 0 []
  else if field d 4 4 ≠ 0 ∨ d.length ≠ 16 ∨ field d 8 4 ≥ 2 ∨ field d 0xC 4 ≠ 0 then respBytes stFormat tag 0 []
  else respBytes stOk tag 0 (if code = 0x0702 then fwStatusBytes b.board else [])

/-- The steward serves the side-band command where it is the oldest that waits (R402, R500). -/
def Body.smbServe (b : Body) : Body :=
  match b.board.smbCmd, b.gos with
  | some d, .sideBand :: rest =>
    if b.stewardRuns then { b.updBoard fun x => { x with smbCmd := none, smbResp := smbAnswer b d } with gos := rest } else b
  | _, _ => b

/-- The number in n bytes of a mailbox's command area. -/
def Mailbox.field (m : Mailbox) (off n : Nat) : Nat := ofLe ((List.range n).map fun k => (m.cmd.find? (·.1 == off + k)).elim 0 (·.2))

/-- Whether two command areas hold the same bytes. -/
def sameArea (a b : List (Nat × Byte)) : Bool := a.all b.contains && b.all a.contains

/-- The row of a command on a port that reaches the page of its mailbox, the side-band command having been served where it is older
(R402; log entry 124):
* on a mailbox that a host handed over by a GO with this very command in its area, the steward carries it out once it is the oldest;
* on another mailbox that the steward owns, or that holds a pending command, it is a GO that is dropped and counted;
* on a free mailbox it is the host's writes of the command and of GO, and the steward carries the command out at once where nothing
  older waits and it is not held. -/
def goXnx (o : Own) (b : Body) (code : Nat) (x : Xnx) (on : OnPage) (lenOk arg0Ok : Bool) (act : Own → Body → Xres) : Own × Body :=
  let m := b.mailbox x.page x.mb
  if m.owner then
    if b.stewardUp && b.gos.head? == some (.mailbox x.page x.mb) && sameArea m.cmd (xArea code x) then
      carryOut o { b with gos := b.gos.tail } x on lenOk arg0Ok act
    else (o, b.dropWrite x.page x.mb)
  else if m.pend then (o, (b.placeCommand code x).dropWrite x.page x.mb)
  else if b.stewardUp && b.gos == [] then carryOut o (b.placeCommand code x) x on lenOk arg0Ok act
  else (o, (b.placeCommand code x).takeGo x.page x.mb)

/-- A command's row (R402): nothing from a port without a link; while BAR0 is not served, or where the port does not reach the page,
its writes are counted and have no effect (R392, R458). -/
def runXnx (o : Own) (b : Body) (code : Nat) (x : Xnx) (on : OnPage) (lenOk arg0Ok : Bool) (act : Own → Body → Xres) :
    Own × Body :=
  if !b.clocked || !(b.port x.port).linkUp then (o, b)
  else if !b.hostServed || !reaches o b x.port x.page then (o, b.xport)
  else goXnx o b.smbServe code x on lenOk arg0Ok act

/-! ### The outcome of a command -/

/-- The outcomes of a command. -/
abbrev Result := Host.Outcome State Fault Refusal

/-- What happens to the module whether its islands are clocked or not: pins, pads, rails, references, the boundary scan (R451, R501). -/
def State.always (s : State) (f : Own → Body → Own × Body) : Result :=
  .next { s with own := (f s.own s.body).1, body := (f s.own s.body).2 }

/-- A command that changes ownership and the rest; an island without a clock does nothing (R451, R497). -/
def State.both (s : State) (f : Own → Body → Own × Body) : Result := if s.body.clocked then s.always f else .next s

/-- A command that leaves ownership as it is; an island without a clock does nothing (R451, R497). -/
def State.onBody (s : State) (f : Own → Body → Body) : Result :=
  if s.body.clocked then .next { s with body := f s.own s.body } else .next s

/-- Run an XNX command that may change ownership. -/
def State.xnx (s : State) (code : Nat) (x : Xnx) (on : OnPage) (lenOk arg0Ok : Bool) (act : Own → Body → Xres) : Result :=
  s.both fun o b => runXnx o b code x on lenOk arg0Ok act

end Sys2Proof.Machine
end

