-- ==== Sys2Proof/Machine/Operands.lean ====
section
/-! DEFINITION. The operand forms of the almanac: header, entries, tile descriptors and tap walk, plane-set headers,
batch tables, allocation table (R102 to R124, R58, R166), read from the almanac store's copy of the image (R99). -/

namespace Sys2Proof.Machine

open Sys2Proof

/-- The almanac header (R102). -/
structure Hdr where
  magic   : Nat
  gen     : Nat
  ceil    : Nat
  cores   : Nat
  size    : Nat
  aeTab   : Nat
  btDir   : Nat
  btCount : Nat
  valloc  : Nat
  cellar  : Nat
  events  : Nat
  crc     : Nat
  deriving DecidableEq, Repr, Inhabited

/-- Read a header. -/
def hdrOf (img : List Byte) : Hdr where
  magic := field img 0 4
  gen := field img 4 1
  ceil := field img 5 1
  cores := field img 8 4
  size := field img 0xC 4
  aeTab := field img 0x10 8
  btDir := field img 0x18 4
  btCount := field img 0x1C 2
  valloc := field img 0x20 8
  cellar := field img 0x28 4
  events := field img 0x2C 2
  crc := field img 0x30 8

/-- The cores that run a list. -/
def imgCores (img : List Byte) : List (Fin 32) := (List.finRange 32).filter fun c => (hdrOf img).cores.testBit c.val

/-- The kinds of almanac entry (R124). -/
def kTile : Nat := 1
/-- VEC. -/
def kVec : Nat := 2
/-- XFORM. -/
def kXform : Nat := 3
/-- COLL. -/
def kColl : Nat := 4
/-- MEDIA. -/
def kMedia : Nat := 5
/-- UPD. -/
def kUpd : Nat := 6
/-- WAIT. -/
def kWait : Nat := 7
/-- SIGNAL. -/
def kSignal : Nat := 8
/-- BT_COMMIT. -/
def kBtCommit : Nat := 9
/-- SLOT. -/
def kSlot : Nat := 10
/-- END. -/
def kEnd : Nat := 11

/-- An almanac entry (R124). -/
structure Ae where
  kind  : Nat
  evt   : Nat
  arg   : Nat
  bound : Nat
  ref   : Nat
  deriving DecidableEq, Repr, Inhabited

/-- Read an entry at an image offset. -/
def aeAtOfs (img : List Byte) (o : Nat) : Ae :=
  ⟨field img o 1, field img (o + 1) 1, field img (o + 2) 2, field img (o + 4) 4, field img (o + 8) 8⟩

/-- The image offset of a core's first entry. -/
def aeFirst (img : List Byte) (c : Nat) : Nat := field img ((hdrOf img).aeTab + 8 * c) 4
/-- The number of entries of a core's list. -/
def aeCount (img : List Byte) (c : Nat) : Nat := field img ((hdrOf img).aeTab + 8 * c + 4) 2
/-- Entry i of a core's list. -/
def aeOf (img : List Byte) (c i : Nat) : Ae := aeAtOfs img (aeFirst img c + 16 * i)
/-- A core's list. -/
def aeList (img : List Byte) (c : Nat) : List Ae := (List.range (aeCount img c)).map (aeOf img c)

/-- A conversion control word at an offset (R46). -/
def ccwOf (img : List Byte) (o : Nat) : Ccw :=
  let f := field img (o + 0xB) 1
  let ofs := field img (o + 0xC) 4
  ⟨BitVec.ofNat 64 (field img o 8), field img (o + 8) 3, f.testBit 3, f.testBit 2, f % 4,
    if ofs = 0xFFFFFFFF then none else some ofs⟩

/-- The tap-walk parameters (R87, R104), decoded. -/
structure Walk where
  dims  : Nat
  zero  : Bool
  inD   : Nat
  inH   : Nat
  inW   : Nat
  heldZ : Nat
  heldY : Nat
  heldX : Nat
  heldD : Nat
  heldH : Nat
  heldW : Nat
  outD  : Nat
  outH  : Nat
  outW  : Nat
  start : Nat
  pd    : Nat
  ph    : Nat
  pw    : Nat
  kd    : Nat
  kh    : Nat
  kw    : Nat
  sd    : Nat
  sh    : Nat
  sw    : Nat
  dd    : Nat
  dh    : Nat
  dw    : Nat
  deriving DecidableEq, Repr, Inhabited

/-- Read the tap walk of a TD at an offset (R104): extents, kernels, strides and dilations are stored minus one. -/
def walkOf (img : List Byte) (o : Nat) : Walk :=
  let w := field img (o + 0x78) 8
  { dims := bitsOf w 63 62, zero := w.testBit 61,
    inD := field img (o + 0x58) 2 + 1, inH := field img (o + 0x5A) 2 + 1, inW := field img (o + 0x5C) 2 + 1,
    heldZ := field img (o + 0x5E) 2, heldY := field img (o + 0x60) 2, heldX := field img (o + 0x62) 2,
    heldD := field img (o + 0x64) 2 + 1, heldH := field img (o + 0x66) 2 + 1, heldW := field img (o + 0x68) 2 + 1,
    outD := field img (o + 0x6A) 2 + 1, outH := field img (o + 0x6C) 2 + 1, outW := field img (o + 0x6E) 2 + 1,
    start := field img (o + 0x70) 6, pd := field img (o + 0x76) 1, ph := field img (o + 0x77) 1, pw := bitsOf w 21 14,
    kd := bitsOf w 60 57 + 1, kh := bitsOf w 56 53 + 1, kw := bitsOf w 52 43 + 1,
    sd := bitsOf w 42 40 + 1, sh := bitsOf w 39 37 + 1, sw := bitsOf w 36 34 + 1,
    dd := bitsOf w 33 30 + 1, dh := bitsOf w 29 26 + 1, dw := bitsOf w 25 22 + 1 }

/-- Taps of a kernel. -/
def Walk.taps (w : Walk) : Nat := w.kd * w.kh * w.kw

/-- A tile descriptor (R103). -/
structure Td where
  rind      : Bool
  conv      : Bool
  fmtA      : Nat
  fmtW      : Nat
  fmtO      : Nat
  m         : Nat
  n         : Nat
  k         : Nat
  mTrue     : Nat
  nTrue     : Nat
  kTrue     : Nat
  pair      : Bool
  acc       : Bool
  planes    : Nat
  ragDim    : Nat
  applyA    : Bool
  applyW    : Bool
  applyO    : Bool
  btList    : Nat
  ragOfs    : Nat
  pressBase : Nat
  pressPitch : Nat
  wCol      : Nat
  outStride : Int
  aStride   : Int
  aBase     : Nat
  wBase     : Nat
  outBase   : Nat
  ccw       : Ccw
  walk      : Walk
  deriving DecidableEq, Repr, Inhabited

/-- Read a TD at an image offset. -/
def tdOf (img : List Byte) (o : Nat) : Td :=
  let kind := field img o 1
  let bt := field img (o + 0x12) 1
  let fl := field img (o + 0x10) 1
  { rind := kind.testBit 0, conv := kind.testBit 1, fmtA := field img (o + 1) 1, fmtW := field img (o + 2) 1,
    fmtO := field img (o + 3) 1, m := field img (o + 4) 2, n := field img (o + 6) 2, k := field img (o + 8) 2,
    mTrue := field img (o + 0xA) 2, nTrue := field img (o + 0xC) 2, kTrue := field img (o + 0xE) 2,
    pair := fl.testBit 0, acc := fl.testBit 1, planes := field img (o + 0x11) 1, ragDim := bt % 4,
    applyA := bt.testBit 2, applyW := bt.testBit 3, applyO := bt.testBit 4, btList := field img (o + 0x14) 2,
    ragOfs := field img (o + 0x18) 4, pressBase := field img (o + 0x1C) 4, pressPitch := field img (o + 0x20) 4,
    wCol := field img (o + 0x24) 4, outStride := signed32 (field img (o + 0x28) 4),
    aStride := signed32 (field img (o + 0x2C) 4), aBase := field img (o + 0x30) 8, wBase := field img (o + 0x38) 8,
    outBase := field img (o + 0x40) 8, ccw := ccwOf img (o + 0x48), walk := walkOf img o }

/-- A TD reads a list (R103). -/
def Td.listed (t : Td) : Bool := t.btList != 0xFFFF
/-- The lane operand is a plane-set (R41). -/
def isPlane (fmt : Nat) : Bool := fmt == 4 || fmt == 5 || fmt == 6
/-- The value of an element code of an operand format (R32 to R38). -/
def elemNum (fmt code : Nat) : Num :=
  if fmt = 1 then Fmt.f8a.decode code
  else if fmt = 2 then Fmt.f8g.decode code
  else if fmt = 3 then Num.ofInt (if code < 128 then (code : Int) else (code : Int) - 256) 0
  else if fmt = 8 then Fmt.b16.decode code
  else Fmt.f32.decode code

/-- Bytes of an element of a matrix operand format. -/
def elemBytes (fmt : Nat) : Nat :=
  if fmt = 8 then 2 else if fmt = 9 then 4 else if fmt = 10 then 8 else 1
/-- K range start and column start of a plane-set operand (PS_ORIGIN, R103). -/
def Td.k0 (t : Td) : Nat := bitsOf t.wCol 31 15 * 8
/-- First column of the plane-set that a tile reads. -/
def Td.n0 (t : Td) : Nat := bitsOf t.wCol 12 0 * 128
/-- Depth of the tile's accumulation: K, or T * CI_PITCH for a convolution (R91). -/
def Td.depth (t : Td) : Nat := if t.conv then t.walk.taps * t.k else t.k
/-- Accumulator bytes (R107). -/
def Td.accBytes (t : Td) : Nat := if t.pair then 8 else 4

/-- Core cycles of a matrix tile (R84). -/
def Td.cycles (t : Td) : Nat :=
  let g0 := (if t.fmtA = 8 then 4 else 1) * (t.n / 128) * (t.depth / 8)
  let g := g0 + (if g0 < 32 then 1 else 0) + (if t.n = 512 then 2 * (t.n / 128 - 1) else 0)
  11 + t.m / 4 * g
/-- Ceiling division. -/
def ceilDiv (a b : Nat) : Nat := (a + b - 1) / b
/-- Core cycles of a write-out of rows by columns (R114). -/
def writeCycles (rows cols : Nat) : Nat := ceilDiv (rows * cols) 256
/-- Core cycles of a leap's clear (R122). -/
def Td.leapCycles (t : Td) : Nat := ceilDiv (t.m * t.n) 256
/-- Quadrant cycles of a rind job (R94). -/
def Td.rindCycles (t : Td) : Nat := 24 + ceilDiv t.m 64 * ceilDiv t.n 16 * t.kTrue * t.walk.taps

/-- A plane-set header (R58). -/
structure PlaneSet where
  fmt    : Nat
  fine   : Bool
  outl   : Bool
  k      : Nat
  n      : Nat
  plane  : Nat
  stride : Nat
  scale  : Nat
  fineB  : Nat
  ocnt   : Nat
  olist  : Nat
  deriving DecidableEq, Repr, Inhabited

/-- Read a plane-set header from its bytes at an offset. -/
def planeSetOf (img : List Byte) (o : Nat) : PlaneSet :=
  let fl := field img (o + 1) 1
  ⟨field img o 1, fl.testBit 0, fl.testBit 1, field img (o + 4) 4, field img (o + 8) 4, field img (o + 0x10) 8,
    field img (o + 0x18) 8, field img (o + 0x20) 8, field img (o + 0x28) 8, field img (o + 0x30) 8, field img (o + 0x38) 8⟩

/-- Planes of a plane format: b (R55). -/
def planesOf (fmt : Nat) : Nat := if fmt = 4 then 4 else if fmt = 5 then 3 else 2
/-- Planes of the plane-set. -/
def PlaneSet.b (s : PlaneSet) : Nat := planesOf s.fmt
/-- Blocks of the plane-set. -/
def PlaneSet.blocks (s : PlaneSet) : Nat := s.k * s.n / 32
/-- Block index of rows 32 kb to 32 kb + 31 of column n (R57). -/
def PlaneSet.block (s : PlaneSet) (kb n : Nat) : Nat := (n / 128 * (s.k / 32) + kb) * 128 + n % 128
/-- BASE of a list entry added to every array address (R105). -/
def PlaneSet.shift (s : PlaneSet) (d : Nat) : PlaneSet :=
  { s with plane := s.plane + d, scale := s.scale + d, fineB := s.fineB + d, ocnt := s.ocnt + d, olist := s.olist + d }
/-- Bytes of the offset table, to the next 64-byte boundary (R58, R60). -/
def PlaneSet.listStart (s : PlaneSet) : Nat := ceilDiv (s.k * s.n / 4096 * 4) 64 * 64

/-- A batch-table directory record (R116). -/
structure BtRec where
  id     : Nat
  maxEnt : Nat
  maxLen : Nat
  baseMax : Nat
  obaseMax : Nat
  slot0  : Nat
  slot1  : Nat
  deriving DecidableEq, Repr, Inhabited

/-- Read directory record i. -/
def btRecOf (img : List Byte) (i : Nat) : BtRec :=
  let o := (hdrOf img).btDir + 32 * i
  ⟨field img o 2, field img (o + 2) 2, field img (o + 4) 4, field img (o + 8) 4, field img (o + 0xC) 4,
    field img (o + 0x10) 8, field img (o + 0x18) 8⟩

/-- The directory. -/
def btDirOf (img : List Byte) : List BtRec := (List.range (hdrOf img).btCount).map (btRecOf img)
/-- The record of a list. -/
def btFind (img : List Byte) (id : Nat) : Option BtRec := (btDirOf img).find? (·.id == id)

/-- A batch-table entry (R115). -/
structure BtEntry where
  base  : Nat
  obase : Nat
  len   : Nat
  next  : Nat
  rsv   : Nat
  deriving DecidableEq, Repr, Inhabited

/-- Read entry i of a slot in memory. -/
def btEntryAt (m : Mem) (slot i : Nat) : BtEntry :=
  let a := slot + 16 * i
  ⟨m.le a 4, m.le (a + 4) 4, m.le (a + 8) 4, m.le (a + 12) 2, m.le (a + 14) 2⟩

/-- The commit walk of R117 from an entry, with n entries still allowed: none passes, else the failing entry. -/
def btWalk (m : Mem) (r : BtRec) (slot : Nat) : (n i : Nat) → Option Nat
  | 0, i => some i
  | n + 1, i =>
    let e := btEntryAt m slot i
    if e.len > r.maxLen ∨ e.base > r.baseMax ∨ e.obase > r.obaseMax ∨ e.rsv ≠ 0 ∨ (e.next ≠ 0xFFFF ∧ e.next ≥ r.maxEnt)
    then some i
    else if e.next = 0xFFFF then none
    else if n = 0 then some i
    else btWalk m r slot n e.next

/-- An entry of the vat allocation table (R166). -/
structure VEntry where
  loc   : Nat
  kind  : Nat
  keep  : Bool
  flags : Nat
  rsv   : Nat
  ofs   : Nat
  size  : Nat
  deriving DecidableEq, Repr, Inhabited

/-- Entries of the allocation table. -/
def vallocCount (img : List Byte) : Nat := field img (hdrOf img).valloc 2
/-- Read allocation entry i. -/
def vEntryOf (img : List Byte) (i : Nat) : VEntry :=
  let o := (hdrOf img).valloc + 8 + 16 * i
  let fl := field img (o + 2) 1
  ⟨field img o 1, field img (o + 1) 1, fl.testBit 0, fl / 2, field img (o + 3) 1 + field img (o + 0xC) 4, field img (o + 4) 4,
    field img (o + 8) 4⟩
/-- The allocation table. -/
def vallocOf (img : List Byte) : List VEntry := (List.range (vallocCount img)).map (vEntryOf img)
/-- First address of a region. -/
def VEntry.addr (v : VEntry) : Nat := if v.loc = 0x40 then cellarBase + v.ofs else vatBase v.loc + v.ofs

/-- The KEEP regions of an almanac: address and bytes (R168). -/
def keepRanges (img : List Byte) : List (Nat × Nat) :=
  ((vallocOf img).filter (·.keep)).map fun v => (v.addr, v.size)
/-- The batch-table slots of an almanac: address and bytes (R168). -/
def btRanges (img : List Byte) : List (Nat × Nat) :=
  (btDirOf img).flatMap fun r => [(r.slot0, r.maxEnt * 16), (r.slot1, r.maxEnt * 16)]
/-- The presses of an almanac's cores. -/
def pressRanges (img : List Byte) : List (Nat × Nat) := (imgCores img).map fun c => (pressBase c.val, pressSize)
/-- Everything a context switch saves and restores (R168). -/
def saveRanges (img : List Byte) : List (Nat × Nat) := keepRanges img ++ btRanges img ++ pressRanges img
/-- An address lies in one of the ranges. -/
def inRanges (rs : List (Nat × Nat)) (a : Nat) : Bool := rs.any fun r => decide (r.1 ≤ a) && decide (a < r.1 + r.2)

/-- A core's resident context and its almanac. -/
def Body.coreImage (b : Body) (c : Fin 32) : List Byte :=
  match (b.core c).ctx with
  | some x => (b.slot x.part x.slot).image
  | none => []

/-- The requester is an XFORM or UPD entry of an almanac, which alone may reach a partition's cave region (R176). -/
def Body.caveEntry (b : Body) : Requester → Bool
  | .entry _ c ae => let k := (aeOf (b.coreImage c) c.val ae).kind; k == kXform || k == kUpd
  | _ => false

/-- The DRAM regions are reachable: the stacks have been trained and their contents written (R224). -/
def Body.dramUp (b : Body) : Bool := b.board.rate != 0

/-- The check of R19 on n bytes at a: none when the request passes, else its status (R159, R165, R176, R209, R423, R442). The
steward's requests pass the world map. -/
def netCheck (o : Own) (b : Body) (who : Requester) (a n : Nat) : Option W16 :=
  let world : Option W16 :=
    match whoPart who with
    | none => none
    | some p => if o.passes p (b.worldOf o who) a n then none else some stWorld
  match placeOf o.maps a with
  | .reserved => some stBounds
  | .dram => if b.dramUp then world else some stBounds
  | .cave => if (whoPart who).isNone || b.caveEntry who then world else some stWorld
  | _ => world

/-- The slot that holds list entries now: SLOT1 or SLOT0 by the list's active flag (R117). -/
def BtRec.active (r : BtRec) (l : BtList) : Nat := if l.slot1 then r.slot1 else r.slot0
/-- The inactive slot. -/
def BtRec.inactive (r : BtRec) (l : BtList) : Nat := if l.slot1 then r.slot0 else r.slot1
/-- The state of a list in a loaded almanac: at load slot 0 is active and empty (R117). -/
def Slot.bt (s : Slot) (id : Nat) : BtList := (s.bts.find? (·.id == id)).getD ⟨id, false, true, false⟩
/-- Update a list's state. -/
def Slot.updBt (s : Slot) (id : Nat) (f : BtList → BtList) : Slot :=
  { s with bts := s.bts.map fun l => if l.id = id then f l else l }
/-- Every list of an almanac as it stands when its context is unrun (R117). -/
def btsFresh (img : List Byte) : List BtList := (btDirOf img).map fun r => ⟨r.id, false, true, false⟩

end Sys2Proof.Machine
end

