-- ==== Sys2Proof/Machine/Frame.lean ====
section
/-! DEFINITION. What a link carries, from its lanes to the message: lane order, polarity and scrambling, the 1,120-byte block, flit
and message headers (R277, R278, R280, R281). -/

namespace Sys2Proof.Machine

open Sys2Proof

/-! ### Lanes (R277, R278) -/

/-- Bytes through an additive scrambler of x^58 + x^39 + 1, whose state's bit 0 is the oldest of its last 58 bits: the bytes and the
state after them. A byte's bits go least significant first (DESIGN CHOICE, log entry 99). -/
def scramble : BitVec 58 → List Byte → List Byte × BitVec 58
  | s, [] => ([], s)
  | s, v :: t =>
    let k : Byte := BitVec.truncate 8 (s ^^^ (s >>> 19))
    let r := scramble ((s >>> 8) ||| (BitVec.zeroExtend 58 k <<< 50)) t
    ((v ^^^ k) :: r.1, r.2)

/-- Every lane through its scrambler. -/
def scrambleLanes (seeds : List (BitVec 58)) (lanes : List (List Byte)) : List (List Byte) × List (BitVec 58) :=
  let r := (List.range 4).map fun i => scramble (seeds.getD i 0) (lanes.getD i [])
  (r.map (·.1), r.map (·.2))

/-- The lanes as the partner sent them: order and polarity corrected (R277). -/
def Link.align (l : Link) (lanes : List (List Byte)) : List (List Byte) :=
  let flip : List (List Byte) := (List.range 4).map fun i =>
    let x := lanes.getD i []
    if l.inverted.toNat.testBit i then x.map (fun (v : Byte) => ~~~v) else x
  if l.reversed then flip.reverse else flip

/-- Byte i of a block lies on lane i mod 4 (R278). -/
def joinLanes (lanes : List (List Byte)) : List Byte :=
  (List.range 280).flatMap fun i => (List.range 4).map fun k => (lanes.getD k []).getD i 0

/-- The four lanes of a block. -/
def splitLanes (bytes : List Byte) : List (List Byte) :=
  (List.range 4).map fun k => (List.range 280).map fun i => bytes.getD (4 * i + k) 0

/-! ### Blocks (R278 to R280) -/

/-- The symbols of bytes: symbol j is bits 10 j to 10 j + 9, least significant first (R279). -/
def symbolsOf (n : Nat) (bytes : List Byte) : List Nat :=
  let v := ofLe bytes
  (List.range n).map fun j => v / 2 ^ (10 * j) % 1024

/-- The bytes of symbols. -/
def bytesOfSymbols (n : Nat) (syms : List Nat) : List Byte :=
  leBytes n (syms.foldr (fun s v => s + 1024 * v) 0)

/-- The 64-bit header of a flit of a block (R280). -/
def flitHeader (k : Block) (f : Flit) : Nat :=
  f.typ.toNat * 2 ^ 62 + f.vc.toNat * 2 ^ 60 + (if f.sub then 2 ^ 59 else 0) + f.fill % 32 * 2 ^ 54 + f.crCls % 8 * 2 ^ 51 +
    f.crCnt % 8192 * 2 ^ 38 + k.seq.toNat * 2 ^ 26 + k.ack.toNat * 2 ^ 14 + (if k.ackv then 2 ^ 13 else 0) +
    (if k.nak then 2 ^ 12 else 0)

/-- A flit's 208 bytes: header, payload, zeros. -/
def flitBytes (k : Block) (f : Flit) : List Byte :=
  leBytes 8 (flitHeader k f) ++ (f.payload ++ List.replicate 200 0).take 200

/-- The five flits of a block, then their parity. -/
def Block.bytes (k : Block) : List Byte :=
  let data := k.flits.flatMap (flitBytes k)
  data ++ bytesOfSymbols 80 (rsParity (symbolsOf rsData data))

/-- Flit i of a block's bytes. -/
def flitOf (bytes : List Byte) (i : Nat) : Flit :=
  let h := field bytes (208 * i) 8
  let fill := bitsOf h 58 54
  { typ := BitVec.ofNat 2 (bitsOf h 63 62), vc := BitVec.ofNat 2 (bitsOf h 61 60), sub := h.testBit 59, fill := fill
    crCls := bitsOf h 53 51, crCnt := bitsOf h 50 38, payload := (bytes.drop (208 * i + 8)).take (min 200 (8 * fill)) }

/-- A block from its bytes; SEQ, ACK, ACKV and NAK, the same in all five headers, are read from the first. -/
def blockOf (bytes : List Byte) : Block :=
  let h := field bytes 0 8
  { seq := BitVec.ofNat 12 (bitsOf h 37 26), ack := BitVec.ofNat 12 (bitsOf h 25 14), ackv := h.testBit 13, nak := h.testBit 12
    flits := (List.range 5).map (flitOf bytes) }

/-- What the decoder makes of lanes received: the symbols corrected and the block; none where it cannot correct it (R277 to
R279). -/
def Link.decode (l : Link) (lanes : List (List Byte)) : Option (Nat × Block) :=
  let bytes := joinLanes (scrambleLanes l.rxScr (l.align lanes)).1
  (rsDecode (symbolsOf rsSymbols bytes)).map fun r => (r.1, blockOf (bytesOfSymbols 1120 r.2))

/-- The receiver's scramblers after a block. -/
def Link.heard (l : Link) (lanes : List (List Byte)) : Link := { l with rxScr := (scrambleLanes l.rxScr (l.align lanes)).2 }

/-- A block on its lanes. -/
def Link.encode (l : Link) (k : Block) : List (List Byte) := (scrambleLanes l.txScr (splitLanes k.bytes)).1

/-- The transmitter's scramblers after a block. -/
def Link.spoken (l : Link) (k : Block) : Link := { l with txScr := (scrambleLanes l.txScr (splitLanes k.bytes)).2 }

/-! ### Messages (R281, R282) -/

/-- A message's 16-byte header (R281). -/
def msgHeader (m : Msg) : List Byte :=
  [m.op, m.evt] ++ leBytes 2 (m.dstPart.val * 4096 + m.dstDev.toNat) ++ leBytes 2 (m.srcPart.val * 4096 + m.srcDev.toNat) ++
    leBytes 2 m.data.length ++ leBytes 6 m.addr.toNat ++ [m.core, BitVec.ofNat 8 m.hops]

/-- Bytes that fill a message up to whole granules (R282). -/
def granular (n : Nat) : Nat := ceilDiv n 8 * 8

/-- A message's bytes on a link, in whole granules. -/
def msgBytes (m : Msg) : List Byte := (msgHeader m ++ m.data ++ List.replicate 7 0).take (16 + granular m.data.length)

/-- A message from its bytes and sub-channel; `good` asks that bit 15 of DST and SRC and what its OP leaves unused in ADDR are
zero (R281; log entry 100). -/
def msgOf (sub : Bool) (bytes : List Byte) : Msg :=
  let op := field bytes 0 1
  let dst := field bytes 2 2
  let src := field bytes 4 2
  let a := field bytes 8 6
  let used := if op = 1 ∨ op = 4 then 44 else if op = 5 then 8 else 16
  { good := decide (dst < 0x8000) && decide (src < 0x8000) && decide (a < 2 ^ used)
    op := BitVec.ofNat 8 op, evt := BitVec.ofNat 8 (field bytes 1 1), dstDev := BitVec.ofNat 12 dst, dstPart := Fin.ofNat 8 (dst / 4096)
    srcDev := BitVec.ofNat 12 src, srcPart := Fin.ofNat 8 (src / 4096), addr := BitVec.ofNat 44 a
    core := BitVec.ofNat 8 (field bytes 14 1), hops := field bytes 15 1, sub := sub, data := (bytes.drop 16).take (field bytes 6 2) }

/-- The whole messages at the front of a class's bytes, back to back from granule boundaries, and the bytes left (R282). -/
def cutMsgs (sub : Bool) : (fuel : Nat) → List Byte → List Msg × List Byte
  | 0, bs => ([], bs)
  | f + 1, bs =>
    let n := 16 + granular (field bs 6 2)
    if bs.length < 16 ∨ bs.length < n then ([], bs)
    else
      let r := cutMsgs sub f (bs.drop n)
      (msgOf sub (bs.take n) :: r.1, r.2)

end Sys2Proof.Machine
end

