-- ==== Sys2Proof/Machine/Route.lean ====
section
/-! DEFINITION. Sending fabric messages: route table, choice of link, transmit queues, loss of a link (R281 to R295). -/

namespace Sys2Proof.Machine

open Sys2Proof

/-- Granules of 8 bytes that a message occupies: its 16-byte header and its data (R281, R282). -/
def msgGranules (m : Msg) : Nat := 2 + ceilDiv m.data.length 8

/-- A message's header is well formed: its OP is one of R281's, its LEN is one of that OP's, and a WRITE or COLL is aligned to 64 bytes
and stays within a 4 KiB page (R281, R282); `good` is false for every other fault of its header (R285). -/
def msgFormed (m : Msg) : Bool :=
  m.good &&
    (if m.op = 1 ∨ m.op = 4 then
      decide (64 ≤ m.data.length) && m.data.length % 64 == 0 && m.addr.toNat % 64 == 0 &&
        decide (m.addr.toNat % 4096 + m.data.length ≤ 4096)
     else if m.op = 5 then decide (m.data.length ≤ 4096) && m.data.length % 8 == 0
     else m.op == 6 && m.data.isEmpty)

/-- Virtual channel of a message: data (WRITE, RESP), collectives (COLL), management (MGMT) (R280). -/
def msgVc (m : Msg) : Nat := if m.op = 4 then 1 else if m.op = 5 then 2 else 0
/-- Buffer class of a message: VC * 2 + SUB (R286). -/
def msgClass (m : Msg) : Nat := msgVc m * 2 + (if m.sub then 1 else 0)

/-- A link carries traffic (R301). -/
def Link.up (l : Link) : Bool := l.state == .up

/-- The route entry of a device (R293). -/
def Fab.entry (f : Fab) (dev : Nat) : W32 :=
  match f.route.find? (·.1 == dev) with
  | some x => x.2
  | none => 0
/-- The entry's LOCAL bit. -/
def routeLocal (e : W32) : Bool := e.toNat.testBit 25
/-- The entry's SUBSW bit. -/
def routeSubsw (e : W32) : Bool := e.toNat.testBit 24

/-- The links of a mask that are up, ascending. -/
def Body.upLinks (b : Body) (mask : Nat) : List (Fin 24) :=
  (List.finRange 24).filter fun l => mask.testBit l.val && (b.link l).up

/-- The choice among eligible links (R294): WRITE and COLL rotate by 4 KiB page and destination (DST with its
partition, R281), others take the lowest. -/
def pickLink (ls : List (Fin 24)) (m : Msg) : Option (Fin 24) :=
  if ls = [] then none
  else if m.op = 1 ∨ m.op = 4 then ls[(m.addr.toNat / 4096 + (m.dstPart.val * 4096 + m.dstDev.toNat)) % ls.length]?
  else ls.head?

/-- Queue a message on a link. -/
def Body.enqueue (b : Body) (l : Fin 24) (fwd : Bool) (m : Msg) : Body :=
  b.updLink l fun x => { x with txq := x.txq.modify (msgClass m) fun q => q ++ [(fwd, m)] }

/-- Count a discarded message (R294, R301). -/
def Body.discard (b : Body) (l : Fin 24) : Body := b.updLink l fun x => { x with disc := satAdd x.disc 1 }

/-- Send a message by the route table; one whose route has no link up is discarded and counted on the link it came from,
or on FL00 for one of this device's own (log entry 9). A forwarded message whose entry has SUBSW leaves on sub-channel 1; one of
this device's own enters sub-channel 0 (R293, R295, log entry 56). -/
def Body.route (b : Body) (fwd : Option (Fin 24)) (m : Msg) : Body :=
  let e := b.fab.entry m.dstDev.toNat
  let m' := if fwd.isSome && routeSubsw e then { m with sub := true } else m
  match pickLink (b.upLinks (e.toNat % 2 ^ 24)) m' with
  | some l => b.enqueue l fwd.isSome m'
  | none => b.discard (fwd.getD 0)

/-- Send a message on one of the up links of a mask (R306); discarded when none is up. -/
def Body.routeMask (b : Body) (mask : Nat) (m : Msg) : Body :=
  match pickLink (b.upLinks mask) m with
  | some l => b.enqueue l false m
  | none => b.discard 0

/-- A management message of this device's steward (R299): type in ADDR, HOPS 64. -/
def mgmtMsg (b : Body) (typ : Nat) (dev : BitVec 12) (part : Fin 8) (data : List Byte) : Msg where
  good := true
  op := 5
  evt := 0xFF
  dstDev := dev
  dstPart := part
  srcDev := b.fab.devId.getD 0
  srcPart := 0
  addr := BitVec.ofNat 44 typ
  core := 0
  hops := 64
  sub := false
  data := data

/-- Send an abort notice to every member of a group but this device's own rank (R321). -/
def Body.sendAborts (b : Body) (g : CollGroup) : Body :=
  g.members.zipIdx.foldl (fun b (w, r) =>
    if r = g.rank then b
    else b.route none (mgmtMsg b 3 (BitVec.ofNat 12 w.toNat) (Fin.ofNat 8 (w.toNat / 4096)) [])) b

/-- A link loses its blocks and queues and the messages partly received, and retrains (R292 steps 1, 2, 3, 5); messages wholly
received stay to be delivered; the route masks use only links that are up. -/
def Link.lose (l : Link) : Link :=
  { l with
    state := .lost, enabled := false, heldBlocks := [], replayQ := [], txq := List.replicate 6 [],
    txSent := List.replicate 6 0, nakOut := false, nakRun := 0, nakDue := false, nakSeen := none, replays := [], rx := List.replicate 6 []
    lost := satAdd l.lost 1 }

/-- The counters as link-enable finds them: SEQ 0 and full credits (R287, R296). -/
def Link.fresh (l : Link) : Link :=
  { l with
    seqNext := 0, rxSeq := 0, rxAny := false, nakOut := false, nakRun := 0, nakDue := false, nakSeen := none, replays := [], heldBlocks := []
    replayQ := [], rx := List.replicate 6 [],
    reserved := List.replicate 6 128, shared := 23808, charged := List.replicate 6 0, rxHeld := List.replicate 6 0,
    owed := List.replicate 6 0, rxRes := List.replicate 6 128, rxShr := 23808, txSent := List.replicate 6 0 }

end Sys2Proof.Machine
end

