-- ==== Sys2Proof/Machine/Load.lean ====
section
/-! DEFINITION. What the almanac loader checks, one item at a time (R99 to R102, R510): address classes, conversion
control words, tile descriptors, plane-set headers, batch-table records, the allocation table. A check answers the
statuses it finds with the image offset of the item at fault; the loader reports the first in image order (R100). -/

namespace Sys2Proof.Machine

open Sys2Proof

/-- Failures found: image offset of the item, and its status. -/
abbrev Fails := List (Nat × W16)

/-- The place of a status in the order of R100. -/
def statusRank (st : W16) : Nat :=
  ([stFormat, stShape, stWorld, stBounds, stAlias, stOverlap, stFit].findIdx fun x => x == st)

/-- The failure that a load reports: the lowest offset, and its first status. -/
def firstFail (fs : Fails) : Option (Nat × W16) :=
  fs.foldl (fun acc f =>
    match acc with
    | none => some f
    | some g => if f.1 < g.1 ∨ (f.1 = g.1 ∧ statusRank f.2 < statusRank g.2) then some f else some g) none

/-- The first status whose condition holds. -/
def firstOf (l : List (Bool × W16)) : Option W16 := (l.find? (·.1)).map (·.2)

/-- One item's failure. -/
def itemFail (off : Nat) (l : List (Bool × W16)) : Fails :=
  match firstOf l with
  | some st => [(off, st)]
  | none => []

/-- What a load is checked against: ownership, the loading partition, the image and where it lies, memory. -/
structure LoadCtx where
  o   : Own
  p   : Fin 8
  img : List Byte
  at_ : Nat
  mem : Mem
  /-- The partition as configured at the load: its collective groups, alignment sets and encode sessions. -/
  part : Part

/-- The header. -/
def LoadCtx.h (x : LoadCtx) : Hdr := hdrOf x.img
/-- The loading partition's block. -/
def LoadCtx.block (x : LoadCtx) : PBlock := (x.o.prec x.p).block

/-! ### Address ranges (R510) -/

/-- The memories: base, bytes, and the part that is the almanac's own. -/
def LoadCtx.memories (x : LoadCtx) : List (Nat × Nat × Nat × Nat) :=
  let k := x.block
  ((x.o.maps.filter (·.valid)).map fun d =>
      (d.lo, d.size, if d.lo = k.dataRange.1 then (k.dataRange.1, k.dataRange.2) else (0, 0))) ++
    ((List.range 32).map fun c =>
      (vatBase c, vatSize, if x.h.cores.testBit c then (vatBase c, vatSize) else (0, 0))) ++
    ((cellarBase, 0x10000000, k.cellarRange) :: (caveBase, 0x40000, (caveRegion x.p.val, 0x6000)) ::
      (List.range 32).map fun c => (pressBase c, pressSize, (0, 0)))

/-- Some byte of n bytes at lo lies in existing memory that is not the almanac's own. -/
def LoadCtx.foreign (x : LoadCtx) (lo : Int) (n : Nat) : Bool :=
  x.memories.any fun (s, z, os, oz) =>
    let a := max lo (s : Int)
    let e := min (lo + n) ((s + z : Nat) : Int)
    decide (a < e) && !(decide ((os : Int) ≤ a) && decide (e ≤ ((os + oz : Nat) : Int)))

/-- A byte range: first address (it may fall below zero) and bytes. -/
abbrev Rng := Int × Nat

/-- A range lies wholly in one of the places a descriptor's rule allows. -/
def inPlaces (places : List (Nat × Nat)) (r : Rng) : Bool :=
  places.any fun q => decide ((q.1 : Int) ≤ r.1) && decide (r.1 + r.2 ≤ ((q.1 + q.2 : Nat) : Int))

/-- The two conditions of R510 on a set of ranges with the places their rule allows. -/
def LoadCtx.ranges (x : LoadCtx) (rs : List (List (Nat × Nat) × Rng)) : List (Bool × W16) :=
  [(rs.any fun r => x.foreign r.2.1 r.2.2, stWorld), (rs.any fun r => !inPlaces r.1 r.2, stBounds)]

/-- The byte range of n rows of len bytes, s bytes apart (R106). -/
def rowsRange (base : Nat) (s : Int) (n len : Nat) : Rng :=
  let sp := ((n : Int) - 1) * s
  (base + min 0 sp, sp.natAbs + len)

/-- A range with more bytes above. -/
def Rng.grow (r : Rng) (n : Nat) : Rng := (r.1, r.2 + n)

/-- Two ranges share a byte. -/
def Rng.meets (a b : Rng) : Bool := decide (a.1 < b.1 + b.2) && decide (b.1 < a.1 + a.2)

/-- The issuing core's vat as a place. -/
def vatPlace (c : Nat) : List (Nat × Nat) := [(vatBase c, vatSize)]
/-- The vats of the cores in CORES. -/
def LoadCtx.vats (x : LoadCtx) : List (Nat × Nat) :=
  ((List.range 32).filter fun c => x.h.cores.testBit c).map fun c => (vatBase c, vatSize)
/-- The partition's cellar run. -/
def LoadCtx.cellar (x : LoadCtx) : List (Nat × Nat) := [x.block.cellarRange]
/-- The partition's data region. -/
def LoadCtx.data (x : LoadCtx) : List (Nat × Nat) := [x.block.dataRange]

/-! ### Fields -/

/-- An address field has a bit above 43 set (R105). -/
def addrBad (v : Nat) : Bool := decide (v ≥ 2 ^ 44)

/-- n bytes at an image offset lie inside the image. -/
def LoadCtx.has (x : LoadCtx) (off n : Nat) : Bool := decide (off + n ≤ x.img.length)

/-- A CCW with a reserved bit set or RMODE 3 (R46). -/
def ccwBad (img : List Byte) (o : Nat) : Bool :=
  let f := field img (o + 0xB) 1
  decide (f / 16 ≠ 0) || decide (f % 4 = 3)

/-- Every byte of a range of the image is zero. -/
def zeros (img : List Byte) (o n : Nat) : Bool := ((img.drop o).take n).all fun b => b == 0

/-! ### Plane-set headers (R56, R58, R100) -/

/-- Bits of a plane format. -/
def planeBits (fmt : Nat) : Nat := if fmt = 4 then 4 else if fmt = 5 then 3 else 2

/-- The checks of a plane-set header as an item of its own. -/
def planeHdrSt (img : List Byte) (o : Nat) : Option W16 :=
  let s := planeSetOf img o
  let bad (v : Nat) : Bool := addrBad v || v % 64 != 0
  firstOf
    [(!isPlane s.fmt || decide (field img (o + 1) 1 ≥ 4) || !zeros img (o + 2) 2 || !zeros img (o + 0xC) 4 || bad s.plane ||
        bad s.scale || (s.fine && bad s.fineB) || (s.outl && (bad s.ocnt || bad s.olist)) || s.stride % 64 != 0 ||
        decide (s.stride < s.k * s.n / 8), stFormat),
      (s.k % 32 != 0 || s.k == 0 || decide (s.k > 1048576) || s.n % 128 != 0 || s.n == 0 || decide (s.n > 1048576), stShape)]

/-- The first outlier entry's address: after the offset table, at the next 64-byte boundary (R58). -/
def PlaneSet.entries (s : PlaneSet) : Nat := s.olist + s.listStart
/-- Every array that a header names (R105, R193): base and bytes; the side list is sized for two outliers per block. -/
def PlaneSet.arrays (s : PlaneSet) : List (Nat × Nat) :=
  ((List.range s.b).map fun i => (s.plane + i * s.stride, 4 * s.blocks)) ++ [(s.scale, s.blocks)] ++
    (if s.fine then [(s.fineB, ceilDiv s.k 256 * s.n)] else []) ++
    (if s.outl then [(s.ocnt, s.blocks / 4), (s.olist, 4 * (s.blocks / 128)), (s.entries, 8 * s.blocks)] else [])

/-- A plane-set header named by a descriptor, by its image offset: the offset when it lies in the image, and its own
failure. -/
structure HdrRef where
  off    : Option Nat
  fails  : Fails

/-- Look at the header at a device address. -/
def LoadCtx.hdrAt (x : LoadCtx) (a : Nat) : HdrRef :=
  if a % 64 ≠ 0 ∨ a < x.at_ ∨ a - x.at_ + 64 > x.img.length then ⟨none, []⟩
  else
    match planeHdrSt x.img (a - x.at_) with
    | some st => ⟨some (a - x.at_), [(a - x.at_, st)]⟩
    | none => ⟨some (a - x.at_), []⟩

/-! ### Tile descriptors (R82 to R92, R103 to R114) -/

/-- An 8-bit operand format. -/
def isEight (f : Nat) : Bool := f == 1 || f == 2 || f == 3

/-- The parameters of R87 lie in their ranges, unused dimensions at their fixed values; KW up to 1,024 on the rind engine
with one dimension, 8 x 8 x 8 there with three (R92). -/
def Walk.ok (w : Walk) (rind : Bool) : Bool :=
  let one (ext held out k s d p : Nat) : Bool :=
    ext == 1 && held == 1 && out == 1 && k == 1 && s == 1 && d == 1 && p == 0
  let held (start n ext : Nat) : Bool := decide (start < ext) && decide (n ≤ ext)
  let kMax := if rind && w.dims == 3 then 8 else 16
  let kwMax := if rind && w.dims == 1 then 1024 else kMax
  decide (1 ≤ w.dims) && held w.heldZ w.heldD w.inD && held w.heldY w.heldH w.inH && held w.heldX w.heldW w.inW &&
    decide (w.kd ≤ kMax) && decide (w.kh ≤ kMax) && decide (w.kw ≤ kwMax) && decide (w.taps ≤ 1024) &&
    (w.dims == 3 || one w.inD w.heldD w.outD w.kd w.sd w.dd w.pd) &&
    (decide (w.dims ≥ 2) || one w.inH w.heldH w.outH w.kh w.sh w.dh w.ph)

/-- Output positions of a walk. -/
def Walk.positions (w : Walk) : Nat := w.outD * w.outH * w.outW

/-- Output coordinates of a linear position. -/
def Walk.outAt (w : Walk) (q : Nat) : Nat × Nat × Nat := (q / (w.outH * w.outW), q / w.outW % w.outH, q % w.outW)

/-- One dimension of the held-region check (R90). -/
def heldBad (zero : Bool) (olo ohi s k d p ext h0 hn : Nat) : Bool :=
  let lo : Int := olo * s - p
  let hi : Int := ohi * s + (k - 1) * d - p
  let cl (v : Int) : Int := max 0 (min v (ext - 1))
  let lo' := if zero then max lo 0 else cl lo
  let hi' := if zero then min hi (ext - 1) else cl hi
  decide (lo' ≤ hi') && (decide (lo' < h0) || decide (hi' > (h0 : Int) + hn - 1))

/-- A coordinate that the tile reads lies inside the image and outside the held region (R90). -/
def Walk.heldFails (w : Walk) (rows : Nat) : Bool :=
  let a := w.outAt w.start
  let b := w.outAt (w.start + rows - 1)
  let y := if a.1 = b.1 then (a.2.1, b.2.1) else (0, w.outH - 1)
  let xs := if a.1 = b.1 ∧ a.2.1 = b.2.1 then (a.2.2, b.2.2) else (0, w.outW - 1)
  heldBad w.zero a.1 b.1 w.sd w.kd w.dd w.pd w.inD w.heldZ w.heldD ||
    heldBad w.zero y.1 y.2 w.sh w.kh w.dh w.ph w.inH w.heldY w.heldH ||
    heldBad w.zero xs.1 xs.2 w.sw w.kw w.dw w.pw w.inW w.heldX w.heldW

/-- A true extent under a ragged limit (R106, R121). -/
def ragged (ext dim want ofs : Nat) (len : Option Nat) : Nat :=
  match len with
  | some l => if dim = want then min ext (l - ofs) else ext
  | none => ext

/-- Rows, columns and depth of a tile for a list length (none: no list). -/
def Td.extents (t : Td) (len : Option Nat) : Nat × Nat × Nat :=
  (ragged t.mTrue t.ragDim 1 t.ragOfs len, ragged t.nTrue t.ragDim 2 t.ragOfs len, ragged t.kTrue t.ragDim 3 t.ragOfs len)

/-- The static minimum of a TILE entry (R129). -/
def Td.minBound (t : Td) (ceil : Nat) (r : Option BtRec) : Nat :=
  let e := t.extents (if t.ragDim = 0 then none else r.map (·.maxLen))
  let w := if t.fmtO = 0 then 0 else writeCycles e.1 e.2.1
  if t.rind then ceilDiv (t.rindCycles * ceil) 20
  else
    match r with
    | some l => 48 + l.maxEnt * (max t.cycles (if t.ragDim = 3 ∧ !t.acc then t.leapCycles else 0) + w)
    | none => t.cycles + w

/-- Depth of the weight in elements as it lies in memory: the last tap's last channel (R86, R93). -/
def Td.weightDepth (t : Td) (depth : Nat) : Nat :=
  if !t.conv then depth else if t.rind then t.walk.taps * t.kTrue else (t.walk.taps - 1) * t.k + t.kTrue

/-- The range of a tile's flag bitmaps (R52, R114). -/
def Td.flagRange (t : Td) (core : Nat) (e : Nat × Nat × Nat) (maxEnt : Nat) : Option Rng :=
  match t.fmtO, t.ccw.ofs with
  | 0, _ => none
  | _, none => none
  | _, some ofs =>
    some (vatBase core + ofs, ceilDiv ((e.1 - 1) * t.n + e.2.1) 256 + (maxEnt - 1) * ceilDiv (t.m * t.n) 256)

/-- The header range that a descriptor's header address names, with the image as its place (R105, R510). -/
def LoadCtx.hdrRange (x : LoadCtx) (a : Nat) : List (Nat × Nat) × Rng := ([(x.at_, x.img.length)], ((a : Int), 64))

/-- The checks of a tile descriptor at an image offset for a core (R103 to R106), the plane-set header it names as an
item of its own. A flag bitmap outside the core's vat fails R53, and where it lies in foreign memory R510 too, whose status comes first
(R100). DESIGN CHOICE (log entry 114): a TD that always leaps has no range to check, so neither held region, flag bitmap nor
OUT_START + rows, but is held to the press and header checks; a flag bitmap overlaps an output by the hull of its rows, OBASE_MAX
included; the arrays of a header that fails its own checks have no range. DESIGN CHOICE (log entry 89): of R91's limits the output positions bind a rind TD too and the 65,536 limit does
not; FMT_W need not equal the FMT of the header, by which the set is read. -/
def LoadCtx.tdFails (x : LoadCtx) (core off : Nat) : Fails :=
  if !x.has off 128 then []
  else
    let g := field x.img
    let t := tdOf x.img off
    let w := t.walk
    let plane := isPlane t.fmtW && !t.rind
    let ref := if plane then x.hdrAt t.wBase else ⟨none, []⟩
    let ps : Option PlaneSet := if ref.fails = [] then ref.off.map (planeSetOf x.img) else none
    let rec_ := if t.listed then btFind x.img t.btList else none
    let maxLen := if t.ragDim = 0 then none else rec_.map (·.maxLen)
    let leaps := match maxLen with | some l => decide (l ≤ t.ragOfs) | none => false
    let e := t.extents maxLen
    let eA := elemBytes t.fmtA
    let eO := elemBytes t.fmtO
    let grow (b : Bool) (f : BtRec → Nat) (r : Rng) : Rng := if b then r.grow ((rec_.map f).getD 0) else r
    let aR := grow t.applyA (·.baseMax) (if t.conv then (t.aBase, w.heldD * w.heldH * w.heldW * t.k * eA)
      else rowsRange t.aBase t.aStride e.1 (e.2.2 * eA))
    let wR := (rowsRange t.wBase (signed32 t.wCol) e.2.1 (t.weightDepth e.2.2 * elemBytes t.fmtW))
    let wRs := if plane then (ps.elim [] fun s => s.arrays.map fun (r : Nat × Nat) => ((r.1 : Int), r.2)) else [wR]
    let oR := grow t.applyO (·.obaseMax) (rowsRange t.outBase t.outStride e.1 (e.2.1 * eO))
    let places := if t.rind then vatPlace core ++ x.cellar else vatPlace core
    let rs := if leaps then []
      else (aR :: wRs.map (grow t.applyW (·.baseMax)) ++ (if t.fmtO = 0 then [] else [oR])).map fun r => (places, r)
    let flag := if leaps then none else t.flagRange core e ((rec_.map (·.maxEnt)).getD 1)
    let flagR := flag.toList.map fun f => (vatPlace core, f)
    let span := (if t.rind then 0 else t.cycles) + (if t.fmtO = 0 then 0 else writeCycles e.1 e.2.1)
    ref.fails ++ itemFail off
      ([(off % 128 != 0 || decide (g off 1 ≥ 4) || (t.rind && !t.conv) || decide (g (off + 0x10) 1 ≥ 4) ||
          decide (g (off + 0x12) 1 ≥ 32) || g (off + 0x13) 1 != 0 || g (off + 0x16) 2 != 0 ||
          !(t.fmtO == 0 || isEight t.fmtO || t.fmtO == 8 || t.fmtO == 9 || (t.fmtO == 10 && t.pair)) ||
          (t.rind && t.fmtO == 0) || (t.listed && rec_.isNone) ||
          (!t.listed && (t.ragDim != 0 || t.applyA || t.applyW || t.applyO)) || (!plane && t.planes != 0) ||
          t.pressBase % 64 != 0 || t.pressPitch % 64 != 0 || (t.conv && t.aBase % 64 != 0) ||
          (t.conv && (decide (t.ragDim > 1) || field x.img (off + 0x2C) 4 != 0 || decide (g (off + 0x78) 8 % 2 ^ 14 ≠ 0))) ||
          (!t.conv && !zeros x.img (off + 0x58) 40) || addrBad t.aBase || addrBad t.wBase || addrBad t.outBase ||
          ccwBad x.img (off + 0x48) || (plane && (decide (bitsOf t.wCol 14 13 ≠ 0) || t.wBase % 64 != 0)) ||
          (if t.rind then !(isEight t.fmtA && isEight t.fmtW)
            else !((isEight t.fmtA && (isEight t.fmtW || plane)) || (t.fmtA == 8 && t.fmtW == 8))) ||
          (t.rind && (t.pair || t.acc || t.pressBase != 0 || t.pressPitch != 0 || t.listed)), stFormat),
        ((if t.rind then decide (t.m = 0) || decide (t.n = 0) || decide (t.n > 4096) || (decide (t.kTrue > 16) && decide (t.n > 16))
            else t.m % 4 != 0 || decide (t.m < 4) || decide (t.m > 1024) || !(t.n == 128 || t.n == 256 || t.n == 512)) ||
          t.k % 8 != 0 || decide (t.k < 8) || decide (t.k > 4096) || t.mTrue == 0 || decide (t.mTrue > t.m) || t.nTrue == 0 ||
          decide (t.nTrue > t.n) || t.kTrue == 0 || decide (t.kTrue > t.k) ||
          (t.conv && (!w.ok t.rind || decide (w.start ≥ w.positions) || (!leaps && decide (w.start + e.1 > w.positions)) ||
            (!t.rind && decide (w.taps * t.k > 65536)))) ||
          (plane && (t.k0 % 32 != 0 || t.planes == 0 ||
            decide (t.planes > (match ps with | some s => s.b | none => planeBits t.fmtW)))) ||
          (if t.rind then decide (t.rindCycles > 8000) else decide (span > 12000)), stShape)] ++
      x.ranges (rs ++ flagR ++ if plane then [x.hdrRange t.wBase] else []) ++
      [((match ps with | some s => decide (t.k0 + t.depth > s.k) || decide (t.n0 + t.n > s.n) | none => false) ||
          (t.conv && !leaps && w.heldFails e.1), stBounds),
        (t.fmtO != 0 && decide (e.1 > 1) && decide (t.outStride.natAbs < e.2.1 * eO), stAlias),
        ((match flag with | some f => f.meets oR | none => false), stOverlap),
        (!t.rind && decide (t.pressBase + (((rec_.map (·.maxEnt)).getD 1) - 1) * t.pressPitch + t.m * t.n * t.accBytes > pressSize),
          stFit)])

/-! ### The press walk (R107 to R111) -/

/-- A press tile that is open: its geometry and its list ordinal (R107). -/
structure OpenTile where
  base  : Nat
  pitch : Nat
  m     : Nat
  n     : Nat
  pair  : Bool
  ord   : Nat
  deriving DecidableEq, Repr, Inhabited

/-- Its range. -/
def OpenTile.range (t : OpenTile) : Nat × Nat := (t.base + t.ord * t.pitch, t.m * t.n * (if t.pair then 8 else 4))
/-- Two tiles share a byte. -/
def OpenTile.meets (a b : OpenTile) : Bool :=
  decide (a.range.1 < b.range.1 + b.range.2) && decide (b.range.1 < a.range.1 + a.range.2)

/-- One TILE entry of the walk, ordinal by ordinal: the tiles open after it, or none when it breaks R111. A tile that its own
write-out closes is no longer open for the next ordinal; one that stays open is. -/
def pressStep (opn : List OpenTile) (t : Td) (count : Nat) : Option (List OpenTile) :=
  (List.range count).foldl (fun acc j =>
    acc.bind fun opn =>
      let k : OpenTile := ⟨t.pressBase, t.pressPitch, t.m, t.n, t.pair, j⟩
      if t.acc then
        if opn.contains k then some (if t.fmtO = 0 then opn else opn.filter (· != k)) else none
      else if opn.any k.meets then none
      else some (if t.fmtO = 0 then k :: opn else opn)) (some opn)

/-! ### Batch-table directory (R116) -/

/-- The checks of directory record i. -/
def LoadCtx.btFails (x : LoadCtx) (i : Nat) : Fails :=
  let r := btRecOf x.img i
  let n := r.maxEnt * 16
  let earlier := (List.range i).map (btRecOf x.img)
  let spans := earlier.flatMap fun q => [(q.slot0, q.maxEnt * 16), (q.slot1, q.maxEnt * 16)]
  let meets (a b : Nat × Nat) : Bool := decide (a.1 < b.1 + b.2) && decide (b.1 < a.1 + a.2)
  let mine := [(r.slot0, n), (r.slot1, n)]
  itemFail (x.h.btDir + 32 * i)
    ([(decide (r.id > 1023) || earlier.any (fun q => q.id == r.id) || addrBad r.slot0 || addrBad r.slot1 ||
        r.slot0 % 64 != 0 || r.slot1 % 64 != 0, stFormat),
      (r.maxEnt == 0 || decide (r.maxEnt > 4096) || r.maxLen == 0 || decide (r.maxLen > 16777216), stShape)] ++
    x.ranges (mine.map fun (s : Nat × Nat) => (x.vats ++ x.cellar, ((s.1 : Int), s.2))) ++
    [(meets (r.slot0, n) (r.slot1, n) || mine.any fun a => spans.any (meets a), stOverlap)])

/-! ### Vat allocation table (R166, R167) -/

/-- Two allocation entries share a byte of one memory. -/
def VEntry.meets (a b : VEntry) : Bool :=
  a.loc == b.loc && decide (a.ofs < b.ofs + b.size) && decide (b.ofs < a.ofs + a.size)

/-- The checks of allocation entry i. -/
def LoadCtx.ventryFails (x : LoadCtx) (i : Nat) : Fails :=
  let v := vEntryOf x.img i
  let earlier := (List.range i).map (vEntryOf x.img)
  let cel := v.loc == 0x40
  let gran := if cel then 2 ^ 20 else 2 ^ 16
  itemFail (x.h.valloc + 8 + 16 * i)
    [((!cel && decide (v.loc > 31)) || decide (v.kind > 7) || v.flags != 0 || v.rsv != 0 || v.size == 0 ||
        v.ofs % gran != 0 || v.size % gran != 0 || (cel && (v.kind == 2 || v.kind == 3 || v.kind == 4 || v.kind == 5)) ||
        (!cel && (v.kind == 6 || v.kind == 7)) || ((v.kind == 2 || v.kind == 3 || v.kind == 5) && !v.keep), stFormat),
      (cel && x.foreign v.addr v.size, stWorld), (cel && !inside x.block.cellarRange v.addr v.size, stBounds),
      (earlier.any v.meets, stOverlap),
      ((!cel && (!x.h.cores.testBit v.loc || decide (v.ofs + v.size > vatSize))) ||
        (cel && decide (((earlier.filter (·.loc == 0x40)).map (·.size)).sum + v.size > x.h.cellar)), stFit)]

/-- The checks of the allocation table. -/
def LoadCtx.vallocFails (x : LoadCtx) : Fails :=
  let b := x.h.valloc
  let n := field x.img b 2
  let top := itemFail b
    [(b % 64 != 0 || n == 0 || decide (n > 1024) || !zeros x.img (b + 2) 6, stFormat), (!x.has b (8 + 16 * n), stBounds)]
  if top ≠ [] then top else (List.range n).flatMap x.ventryFails

end Sys2Proof.Machine
end

