-- ==== Sys2Proof/Machine/Planes.lean ====
section
/-! DEFINITION. Plane-sets as their readers expand them (R55 to R66). -/

namespace Sys2Proof.Machine

open Sys2Proof

/-! ### Plane-sets (R55 to R66) -/

/-- A block as the expander and the press see it: 32 integer elements, the factor 2^(E-127) * F (NaN for a malformed
block), and its outliers, position and value. -/
structure PlaneBlk where
  q     : List Int
  scale : Num
  outl  : List (Nat × W16)
  deriving DecidableEq, Repr

/-- The integer that b plane bits give with the top k fetched (R62). -/
def planeInt (b k u : Nat) : Int :=
  let v : Int := if u < 2 ^ (b - 1) then (u : Int) else (u : Int) - (2 ^ b : Nat)
  if k < b then v + (2 ^ (b - k - 1) : Nat) else v

/-- The side list of a block (R60, R66): none for a malformed count, else its entries in ascending position. -/
def PlaneSet.side (s : PlaneSet) (m : Mem) (blk : Nat) : Option (List (Nat × W16)) :=
  let g := blk / 128
  let start := m.le (s.olist + 4 * g) 4
  let count (i : Nat) : Nat := (m.byte (s.ocnt + i / 4)).toNat / 2 ^ (2 * (i % 4)) % 4
  if !s.outl || (g + 1 < s.blocks / 128 && decide (m.le (s.olist + 4 * (g + 1)) 4 < start)) then some []
  else if count blk = 3 then none
  else
    let first := start + ((List.range (blk % 128)).map fun i => count (g * 128 + i)).sum
    if first + count blk > 2 * s.blocks then some []
    else
      some (sortBy (fun (a b : Nat × W16) => a.1 ≤ b.1) ((List.range (count blk)).map fun i =>
        let e := m.le (s.entries + 4 * (first + i)) 4
        (e % 32, BitVec.ofNat 16 (e / 2 ^ 16))))

/-- Read a block with the top k planes (R59 to R63, R66). -/
def PlaneSet.read (s : PlaneSet) (m : Mem) (k kb n : Nat) : PlaneBlk :=
  let i := s.block kb n
  let ws := (List.range k).map fun j => m.le (s.plane + j * s.stride + 4 * i) 4
  let q (t : Nat) : Int := planeInt s.b k ((ws.zipIdx.map fun ((w, j) : Nat × Nat) => w / 2 ^ t % 2 * 2 ^ (s.b - 1 - j)).sum)
  let e := (m.byte (s.scale + i)).toNat
  let f := if s.fine then Fmt.f8a.decode (m.byte (s.fineB + kb / 8 * s.n + n)).toNat else .fin false 1 0
  let sc := if e = 255 then Num.nan else f.scale ((e : Int) - 127)
  match s.side m i with
  | none => ⟨(List.range 32).map q, .nan, []⟩
  | some l => ⟨(List.range 32).map fun t => if l.any (·.1 == t) then 0 else q t, sc, l⟩

/-- The bytes that reading a block takes: its plane words, scale and fine scale; with outliers the counts of its group up to it, the
offset entry, the next group's, and its side-list entries (R59 to R61, R66). -/
def PlaneSet.blockReads (s : PlaneSet) (m : Mem) (k kb n : Nat) : List (Nat × Nat) :=
  let i := s.block kb n
  let g := i / 128
  let count (j : Nat) : Nat := (m.byte (s.ocnt + j / 4)).toNat / 2 ^ (2 * (j % 4)) % 4
  let first := m.le (s.olist + 4 * g) 4 + ((List.range (i % 128)).map fun j => count (g * 128 + j)).sum
  ((List.range k).map fun j => (s.plane + j * s.stride + 4 * i, 4)) ++ [(s.scale + i, 1)] ++
    (if s.fine then [(s.fineB + kb / 8 * s.n + n, 1)] else []) ++
    (if s.outl then
      [(s.ocnt + g * 32, i % 128 / 4 + 1), (s.olist + 4 * g, if g + 1 < s.blocks / 128 then 8 else 4)] ++
        (if (s.side m i).any (fun l => l != []) then [(s.entries + 4 * first, 4 * count i)] else [])
    else [])

end Sys2Proof.Machine
end

