-- ==== Sys2Proof/Machine/XdDesc.lean ====
section
/-! DEFINITION. Transform descriptors, their load checks, mapping, packing and unpacking, and what a run of elements reads and
writes (R67, R72, R73, R182 to R196). -/

namespace Sys2Proof.Machine

open Sys2Proof

/-! ### The descriptor (R185) -/

/-- A transform descriptor. -/
structure Xd where
  op     : Nat
  src    : Nat
  dst    : Nat
  ctl    : Nat
  permW  : Nat
  aux    : Nat
  sBase  : Nat
  dBase  : Nat
  ext    : List Nat
  lpad   : List Nat
  tpad   : List Nat
  sStr   : List Int
  dStr   : List Int
  ccw    : Ccw
  deriving DecidableEq, Repr, Inhabited

/-- Bytes of an element of a dense format; MXFP4 takes half a byte, counted here as 1 (R183, R184). -/
def xdBytes (f : Nat) : Nat := elemBytes f
/-- An MX source format. -/
def isMx (f : Nat) : Bool := decide (0x10 ≤ f) && decide (f ≤ 0x13)

/-- Read an XD at an image offset; extents are stored minus one, destination dimension 0 is dense. -/
def xdOf (img : List Byte) (o : Nat) : Xd :=
  let dst := field img (o + 2) 1
  { op := field img o 1, src := field img (o + 1) 1, dst := dst, ctl := field img (o + 3) 1, permW := field img (o + 4) 2,
    aux := field img (o + 6) 1, sBase := field img (o + 8) 6, dBase := field img (o + 0xE) 6,
    ext := (List.range 5).map fun d => field img (o + 0x14 + 3 * d) 3 + 1,
    lpad := (List.range 4).map (fun i => field img (o + 0x23 + i) 1) ++ [0],
    tpad := (List.range 4).map (fun i => field img (o + 0x27 + i) 1) ++ [0],
    sStr := (List.range 5).map fun d => signed32 (field img (o + 0x2C + 4 * d) 4),
    dStr := (xdBytes dst : Int) :: (List.range 4).map fun d => signed32 (field img (o + 0x40 + 4 * d) 4),
    ccw := ccwOf img (o + 0x50) }

/-- NDIM. -/
def Xd.ndim (x : Xd) : Nat := x.ctl % 8
/-- PADMODE of destination dimension i: zero padding. -/
def Xd.padZero (x : Xd) (i : Nat) : Bool := (x.ctl / 16).testBit i
/-- The source dimension that feeds destination dimension i. -/
def Xd.perm (x : Xd) (i : Nat) : Nat := x.permW / 2 ^ (3 * i) % 8
/-- A MOVE of one format to itself (R190). -/
def Xd.copies (x : Xd) : Bool := x.op == 0 && x.src == x.dst
/-- The source extents: an UNPACK takes its header's K and N (R192). -/
def Xd.srcExt (x : Xd) (ps : Option PlaneSet) : List Nat :=
  match x.op, ps with
  | 2, some s => [s.k, s.n, 1, 1, 1]
  | _, _ => x.ext
/-- Extent of destination dimension i (R187). -/
def Xd.dExt (x : Xd) (ps : Option PlaneSet) (i : Nat) : Nat :=
  x.lpad.getD i 0 + (x.srcExt ps).getD (x.perm i) 1 + x.tpad.getD i 0
/-- Destination elements. -/
def Xd.count (x : Xd) (ps : Option PlaneSet) : Nat := ((List.range 5).map (x.dExt ps)).foldl (· * ·) 1

/-- The plane-set header operand: PACK's destination or UNPACK's source. -/
def Xd.hdrAddr (x : Xd) : Option Nat := if x.op = 1 then some x.dBase else if x.op = 2 then some x.sBase else none
/-- Planes fetched by an UNPACK. -/
def Xd.planes (x : Xd) (s : PlaneSet) : Nat := if x.aux = 0 then s.b else x.aux

/-- Bytes of an MX row beside its elements are its scales; bytes of dimension 0 of the source. -/
def Xd.srcRow (x : Xd) : Nat :=
  let n := x.ext.getD 0 1
  if x.src = 0x12 then n / 2 + n / 32 else if isMx x.src then n + n / 32 else 0

/-- The hull of a dense operand over dimensions with extents and strides (R193). -/
def hull (base : Nat) (ext : List Nat) (str : List Int) (inner : Nat) : Rng :=
  let sp := (ext.zip str).map fun (e, s) => ((e : Int) - 1) * s
  ((base : Int) + (sp.map (min 0)).sum, (sp.map Int.natAbs).sum + inner)

/-- The source ranges of an XD; of a plane-set every array that its header names (R193). -/
def Xd.srcRanges (x : Xd) (ps : Option PlaneSet) : List Rng :=
  if x.op = 2 then ps.elim [] fun s => s.arrays.map fun r => ((r.1 : Int), r.2)
  else if isMx x.src then [hull x.sBase (1 :: x.ext.drop 1) (0 :: x.sStr.drop 1) x.srcRow]
  else [hull x.sBase x.ext x.sStr (xdBytes x.src)]

/-- The destination ranges of an XD. -/
def Xd.dstRanges (x : Xd) (ps : Option PlaneSet) : List Rng :=
  if x.op = 1 then ps.elim [] fun s => s.arrays.map fun r => ((r.1 : Int), r.2)
  else
    let d := (List.range 5).map (x.dExt ps)
    [hull x.dBase (1 :: d.drop 1) x.dStr (d.getD 0 1 * xdBytes x.dst)]

/-- The identity move (R196). -/
def Xd.identity (x : Xd) : Bool :=
  x.copies && x.sBase == x.dBase && (List.range 5).all (fun i => x.perm i == i) && x.lpad.all (· == 0) && x.tpad.all (· == 0) &&
    x.sStr == x.dStr

/-- The nested test of R195. -/
def Xd.nested (x : Xd) (ps : Option PlaneSet) : Bool :=
  let dims := ((List.range 5).drop 1).filterMap fun i =>
    if x.dExt ps i > 1 then some ((x.dStr.getD i 0).natAbs, x.dExt ps i) else none
  ((sortBy (fun (a b : Nat × Nat) => a.1 ≤ b.1) dims).foldl (fun (r : Bool × Nat) d => (r.1 && decide (r.2 ≤ d.1), r.2 + d.1 * (d.2 - 1)))
    (true, x.dExt ps 0 * xdBytes x.dst)).1

/-! ### Cost (R201, R202) -/

/-- Rates in tenths of a byte a quadrant cycle, none without a limit: source and destination port of the memory at an
address. -/
def portRate (a : Int) (dst : Bool) : Option Nat :=
  if a < 0xD800000000 then none
  else if a < cellarBase then some (if dst then 15360 else 7680)
  else if a < caveBase then some (if dst then 10240 else 20480)
  else some 384

/-- ⌈C_x⌉: the terms are compared after rounding up, which the maximum allows. The port rate of a plane-set side is that of its first
plane array, wherever the others lie (DESIGN CHOICE, log entry 91: R201 gives a side one memory). -/
def Xd.cycles (x : Xd) (ps : Option PlaneSet) : Nat :=
  if x.identity then 32
  else
    let e := x.count ps
    let b := (ps.map (·.b)).getD 8
    let read := ((List.range 5).map fun i =>
      if x.padZero i then (x.srcExt ps).getD (x.perm i) 1 else x.dExt ps i).foldl (· * ·) 1
    let inner := x.op ≠ 0 ∨ isMx x.src ∨ (x.perm 0 = 0 ∧ x.sStr.getD 0 0 = xdBytes x.src)
    let eng := if inner then 102400 else 20480
    let rate (l : List Rng) (dst : Bool) : Nat := min eng ((l.head?.bind fun r => portRate r.1 dst).getD eng)
    let br32 := if x.op = 2 then e * b * 4 else if isMx x.src then read * (if x.src = 0x12 then 17 else 33)
      else read * xdBytes x.src * 32
    let bw32 := if x.op = 1 then e * b * 4 else e * xdBytes x.dst * 32
    let tr := ceilDiv (br32 * 10) (32 * rate (x.srcRanges ps) false)
    let tw := ceilDiv (bw32 * 10) (32 * rate (x.dstRanges ps) true)
    let te := if x.copies then 0 else ceilDiv e (if x.op = 1 then 512 else if x.op = 2 then 2048 else 4096)
    32 + max (max tr tw) (max te (ceilDiv e (x.dExt ps 0 * 160)))

/-- The static minimum of an XFORM entry. -/
def Xd.minBound (x : Xd) (ps : Option PlaneSet) (ceil : Nat) : Nat := ceilDiv (x.cycles ps * ceil) 20

/-! ### Load checks (R185 to R196) -/

/-- The almanac's own memory (R510). -/
def LoadCtx.ownPlaces (x : LoadCtx) : List (Nat × Nat) := x.data ++ x.vats ++ x.cellar ++ [(caveRegion x.p.val, 0x6000)]

/-- The plane-set that an XD at an image offset names, when its header passes its own checks. -/
def LoadCtx.xdPlane (x : LoadCtx) (off : Nat) : Option PlaneSet :=
  match (xdOf x.img off).hdrAddr with
  | none => none
  | some a =>
    let r := x.hdrAt a
    if r.fails = [] then r.off.map (planeSetOf x.img) else none

/-- The checks of an XD for a core. -/
def LoadCtx.xdFails (x : LoadCtx) (core off : Nat) : Fails :=
  if !x.has off 96 then []
  else
    let d := xdOf x.img off
    let ref := (d.hdrAddr.map x.hdrAt).getD ⟨none, []⟩
    let ps := x.xdPlane off
    let dense (f : Nat) : Bool := isEight f || f == 8 || f == 9 || f == 10
    let narrow (f : Nat) : Bool := f == 1 || f == 2 || f == 8 || f == 9
    let fmtOk :=
      if d.op = 0 then (dense d.src && dense d.dst) || (isMx d.src && narrow d.dst)
      else if d.op = 1 then (d.src == 8 || d.src == 9) && isPlane d.dst else isPlane d.src && narrow d.dst
    let hdrFmt := match ref.off.map (planeSetOf x.img) with
      | some s => if d.op = 1 then s.fmt == d.dst else s.fmt == d.src
      | none => true
    let eS : Nat := if isMx d.src then 1 else xdBytes d.src
    let eD := xdBytes d.dst
    let al (v : Int) (e : Nat) : Bool := decide (v % (e : Int) = 0)
    let aligned := (d.op == 2 || (d.sBase % eS == 0 && d.sStr.all fun v => al v eS)) &&
      (d.op == 1 || (d.dBase % eD == 0 && (d.dStr.drop 1).all fun v => al v eD))
    let auxOk := if d.op = 0 then d.aux == 0 else if d.op = 1 then decide (d.aux ≤ 8) else true
    let zeroSrc := zeros x.img (off + 0x14) 15 && zeros x.img (off + 0x2C) 20
    let unused := (List.range 5).all fun i =>
      decide (i < d.ndim) ||
        (d.ext.getD i 1 == 1 && d.sStr.getD i 0 == 0 && d.perm i == i && d.lpad.getD i 0 == 0 && d.tpad.getD i 0 == 0 &&
          (decide (i = 0) || d.dStr.getD i 0 == 0))
    let permOk := (List.range d.ndim).all fun i => (List.range d.ndim).any fun j => d.perm j == i
    let planeShape := match ps with
      | some s =>
        d.ndim == 2 && (if d.op = 1 then d.dExt ps 0 == s.k && d.dExt ps 1 == s.n else decide (d.planes s ≤ s.b))
      | none => d.op == 0 || (d.ndim == 2 && (d.op == 1 || decide (d.aux ≤ planesOf d.src)))
    let rs := d.srcRanges ps ++ d.dstRanges ps
    let flag : Option Rng := if d.copies then none
      else d.ccw.ofs.map fun f => ((vatBase core + f : Nat), ceilDiv (d.count ps) 256)
    let pairs : List Rng → Bool :=
      fun l => l.zipIdx.any fun ((a, i) : Rng × Nat) => (l.drop (i + 1)).any (Rng.meets a)
    ref.fails ++ itemFail off
      ([(off % 32 != 0 || decide (d.op > 2) || d.ctl.testBit 3 || d.permW.testBit 15 || !fmtOk || !hdrFmt || !auxOk ||
          !zeros x.img (off + 7) 1 || !zeros x.img (off + 0x2B) 1 || addrBad d.sBase || addrBad d.dBase || !aligned ||
          (isMx d.src && (d.ext.getD 0 1 % 32 != 0 || d.sStr.getD 0 0 != 0)) || (d.op == 1 && !zeros x.img (off + 0x40) 16) ||
          (d.op == 2 && !zeroSrc) || (!d.copies && ccwBad x.img (off + 0x50)) ||
          (match d.hdrAddr with | some a => a % 64 != 0 | none => false), stFormat),
        (d.ndim == 0 || decide (d.ndim > 5) || !unused || !permOk || decide (d.count ps > 2 ^ 40) || !planeShape, stShape)] ++
      x.ranges (rs.map (fun r => (x.ownPlaces, r)) ++ flag.toList.map (fun f => (vatPlace core, f)) ++ d.hdrAddr.toList.map x.hdrRange) ++
      [(d.op != 1 && !d.nested ps, stAlias),
        (!d.identity && ((d.srcRanges ps).any (fun a => (d.dstRanges ps).any a.meets) ||
          (d.op == 1 && pairs (d.dstRanges ps)) ||
          (match flag with | some f => rs.any f.meets | none => false)), stOverlap)])

/-! ### Elements (R187 to R192) -/

/-- Destination coordinates of a logical index. -/
def Xd.coords (x : Xd) (ps : Option PlaneSet) (l : Nat) : List Nat :=
  let d (i : Nat) : Nat := x.dExt ps i
  [l % d 0, l / d 0 % d 1, l / (d 0 * d 1) % d 2, l / (d 0 * d 1 * d 2) % d 3, l / (d 0 * d 1 * d 2 * d 3)]

/-- The source coordinate that destination dimension i reads: none for zero padding. -/
def Xd.srcCoord (x : Xd) (ps : Option PlaneSet) (i t : Nat) : Option Nat :=
  let n := (x.srcExt ps).getD (x.perm i) 1
  let l := x.lpad.getD i 0
  if l ≤ t ∧ t - l < n then some (t - l)
  else if x.padZero i then none
  else some (if t < l then 0 else n - 1)

/-- The source coordinates of a destination element, by source dimension; none: written as +0. -/
def Xd.source (x : Xd) (ps : Option PlaneSet) (l : Nat) : Option (List Nat) :=
  let cs := (x.coords ps l).zipIdx.map fun ((t, i) : Nat × Nat) => (x.perm i, x.srcCoord ps i t)
  if cs.all (·.2.isSome) then
    some ((List.range 5).map fun d => ((cs.find? (·.1 == d)).bind (·.2)).getD 0)
  else none

/-- The address of a destination element. -/
def Xd.dstAddr (x : Xd) (ps : Option PlaneSet) (l : Nat) : Nat :=
  (((x.coords ps l).zip x.dStr).foldl (fun (a : Int) (t, s) => a + (t : Int) * s) (x.dBase : Int)).toNat

/-- The address of a dense source element. -/
def Xd.srcAddr (x : Xd) (s : List Nat) : Nat :=
  ((s.zip x.sStr).foldl (fun (a : Int) (t, v) => a + (t : Int) * v) (x.sBase : Int)).toNat

/-- The value of an MX element (R72, R184). -/
def Xd.mxNum (x : Xd) (m : Mem) (s : List Nat) : Num :=
  let row := x.srcAddr (0 :: s.drop 1)
  let i := s.getD 0 0
  let n := x.ext.getD 0 1
  let half := x.src == 0x12
  let e := (m.byte (row + (if half then n / 2 else n) + i / 32)).toNat
  let code := if half then (m.byte (row + i / 2)).toNat / 16 ^ (i % 2) % 16 else (m.byte (row + i)).toNat
  let v :=
    if x.src = 0x10 then Fmt.f8a.decode code
    else if x.src = 0x11 then Fmt.f8g.decode code
    else if half then Fmt.e2m1.decode code
    else (elemNum 3 code).scale (-6)
  if e = 255 then .nan else v.scale ((e : Int) - 127)

/-- The value of a dense source element; a pair is its exact sum. -/
def Xd.denseNum (x : Xd) (m : Mem) (s : List Nat) : Num :=
  let a := x.srcAddr s
  if isMx x.src then x.mxNum m s
  else if x.src = 10 then (Pair.mk (BitVec.ofNat 32 (m.le a 4)) (BitVec.ofNat 32 (m.le (a + 4) 4))).num
  else elemNum x.src (m.le a (xdBytes x.src))

/-- The value of an UNPACK element (R55, R62, R66, R192). -/
def Xd.planeNum (x : Xd) (m : Mem) (ps : PlaneSet) (s : List Nat) : Num :=
  let k := s.getD 0 0
  let b := ps.read m (x.planes ps) (k / 32) (s.getD 1 0)
  match b.outl.filter (·.1 == k % 32) with
    | [] => if b.scale.isNan then .nan else (Num.ofInt (b.q.getD (k % 32) 0) 0).mul b.scale
    | l => (l.map fun e => Fmt.b16.decode e.2.toNat).foldl Num.add (.fin true 0 0)

/-- One destination element of a MOVE or UNPACK: its bytes and what it counts. -/
def Xd.elem (x : Xd) (m : Mem) (ps : Option PlaneSet) (l : Nat) : List Byte × ConvEv :=
  match x.source ps l with
  | none => (List.replicate (xdBytes x.dst) 0, .none)
  | some s =>
    if x.copies then (m.bytes (x.srcAddr s) (xdBytes x.src), .none)
    else
      match Target.ofCode x.dst with
      | none => ([], .none)
      | some t =>
        let v := match x.op, ps with
          | 2, some p => x.planeNum m p s
          | _, _ => x.denseNum m s
        let c := convert t x.ccw l v
        (leBytes t.bytes c.1, c.2)

/-! ### Packing (R67, R191) -/

/-- A packed block: scale byte, integers, outliers (position and B16 value), what it counts in SAT and NF_IN, the events of its
outliers' conversions, its flag. -/
structure Packed where
  e    : Nat
  q    : List Int
  outl : List (Nat × Nat)
  sat  : Nat
  nfIn : Nat
  evs  : List ConvEv
  flag : Bool
  deriving DecidableEq, Repr

/-- A value rounded to an integer multiple of 2^q under the CCW at index i. -/
def roundInt (c : Ccw) (i : Nat) (v : Num) (q : Int) : Int :=
  match v with
  | .fin n m e => signed n (roundTo (c.round i) m e q)
  | _ => 0

/-- Divided by the fine scale; by zero a free value (log entry 33). -/
def fineDiv (v f : Num) : Num :=
  match v with
  | .fin n m e => if f.isZero then f32 (Config.overZero n m e) else v.div f
  | x => x

/-- The source value of block element at logical index l; zero padding gives +0. -/
def Xd.packNum (x : Xd) (m : Mem) (ps : Option PlaneSet) (l : Nat) : Num :=
  match x.source ps l with
  | some s => x.denseNum m s
  | none => .fin false 0 0

/-- The outlier positions of a block: at most two, above RATIO times the third-largest magnitude, ties to the lower
position. -/
def outlierPos (vals : List Num) (ratioLog : Nat) : List Nat :=
  let order := sortBy (fun (a b : Num × Nat) => b.1.lt a.1 || (!(a.1.lt b.1) && decide (a.2 ≤ b.2)))
    (vals.zipIdx.map fun ((v, i) : Num × Nat) => (v.abs, i))
  let third := ((order[2]?).map (·.1)).getD (.fin false 0 0)
  sortBy (fun (a b : Nat) => a ≤ b) (((order.take 2).filter fun a => (third.scale ratioLog).lt a.1).map (·.2))

/-- Pack block kb of column n. Outliers keep their original source values, converted to B16 under the CCW as every element of a
PACK is (R67, R190): they count and set the block's flag as conversions do. A NaN fine scale counts NF_IN once for each block of its
group, sets the block's flag and leaves zero planes, as the block that holds a NaN (DESIGN CHOICE, log entry 92: R191's row says
only that NF_IN is counted). -/
def Xd.pack (x : Xd) (m : Mem) (s : PlaneSet) (kb n : Nat) : Packed :=
  let ps := some s
  let l (t : Nat) : Nat := n * s.k + 32 * kb + t
  let raw := (List.range 32).map fun t => x.packNum m ps (l t)
  let f := if s.fine then Fmt.f8a.decode (m.byte (s.fineB + kb / 8 * s.n + n)).toNat else .fin false 1 0
  let bad := raw.countP fun v => !v.finite
  let zero : List Int := List.replicate 32 0
  if bad ≠ 0 then ⟨255, zero, [], 0, bad, [], true⟩
  else if f.isNan then ⟨255, zero, [], 0, 1, [], true⟩
  else
    let vals := raw.map fun v => if s.fine then fineDiv v f else v
    let pos := if s.outl then outlierPos vals (if x.aux = 0 then 2 else x.aux) else []
    let rest := (vals.zipIdx.filter fun ((_, t) : Num × Nat) => !pos.contains t)
    let lim : Int := (2 ^ (s.b - 1) : Nat)
    let fits (e : Nat) : Bool := rest.all fun (v, t) =>
      let k := roundInt x.ccw (l t) v ((e : Int) - 127)
      decide (-lim ≤ k) && decide (k < lim)
    let conv := pos.map fun t => (t, convert .b16 x.ccw (l t) (raw.getD t (.fin false 0 0)))
    let outl := conv.map fun c => (c.1, c.2.1)
    let evs := conv.map fun c => c.2.2
    let marked := evs.any (·.flag)
    let q (e : Nat) : List Int := (List.range 32).map fun t =>
      if pos.contains t then 0
      else max (-lim) (min (lim - 1) (roundInt x.ccw (l t) (vals.getD t (.fin false 0 0)) ((e : Int) - 127)))
    if rest.all (fun r => r.1.isZero) then ⟨0, q 0, outl, 0, 0, evs, marked⟩
    else
      match (List.range 255).find? fits with
      | some e => ⟨e, q e, outl, 0, 0, evs, marked⟩
      | none =>
        let past := rest.countP fun (v, t) =>
          let k := roundInt x.ccw (l t) v 127
          !(decide (-lim ≤ k) && decide (k < lim))
        ⟨254, q 254, outl, past, 0, evs, true⟩

/-- The plane words and scale of a packed block. -/
def PlaneSet.blockWrites (s : PlaneSet) (kb n : Nat) (p : Packed) : List (Nat × List Byte) :=
  let i := s.block kb n
  ((List.range s.b).map fun r =>
    let j := s.b - 1 - r
    (s.plane + r * s.stride + 4 * i, leBytes 4 ((p.q.zipIdx.map fun ((v, t) : Int × Nat) =>
      if (v % (2 ^ s.b : Nat)).toNat.testBit j then 2 ^ t else 0).sum))) ++ [(s.scale + i, [BitVec.ofNat 8 p.e])]

/-- Blocks of a plane-set by block number: kb and column. -/
def PlaneSet.blockAt (s : PlaneSet) (i : Nat) : Nat × Nat := (i / 128 % (s.k / 32), i / 128 / (s.k / 32) * 128 + i % 128)

/-- The counts, offset table and entries of a packed plane-set, entries packed without gaps in group order (R60, R191). -/
def PlaneSet.sideWrites (s : PlaneSet) (outl : List (List (Nat × Nat))) : List (Nat × List Byte) :=
  let counts := outl.map List.length
  let byteAt (i : Nat) : Byte := BitVec.ofNat 8 ((List.range 4).map fun j => counts.getD (4 * i + j) 0 * 4 ^ j).sum
  let starts := (List.range (s.blocks / 128)).map fun g => (counts.take (128 * g)).sum
  [(s.ocnt, (List.range (s.blocks / 4)).map byteAt), (s.olist, starts.flatMap (leBytes 4)),
    (s.entries, outl.flatten.flatMap fun e => leBytes 4 (e.2 * 2 ^ 16 + e.1))]

/-! ### What elements read and write -/

/-- The plane-set that a loaded XD names. -/
def Slot.xdPlane (s : Slot) (x : Xd) : Option PlaneSet := x.hdrAddr.map fun a => planeSetOf s.image (a - s.imageAt)

/-- What an XD does to elements from a group up to another: writes, events, and for a PACK, by whole blocks, what they count in SAT
and NF_IN besides. -/
def Xd.span (x : Xd) (m : Mem) (ps : Option PlaneSet) (lo hi : Nat) : List (Nat × List Byte) × List ConvEv × Nat × Nat :=
  match x.op, ps with
  | 1, some s =>
    let bs := ((List.range (hi / 32)).drop (lo / 32)).map fun i =>
      let kb := i % (s.k / 32)
      let n := i / (s.k / 32)
      (kb, n, x.pack m s kb n)
    (bs.flatMap fun b => s.blockWrites b.1 b.2.1 b.2.2, bs.flatMap fun b => b.2.2.evs, (bs.map fun b => b.2.2.sat).sum, (bs.map fun b => b.2.2.nfIn).sum)
  | _, _ =>
    let es := ((List.range hi).drop lo).map fun l => (x.dstAddr ps l, x.elem m ps l)
    (es.map fun e => (e.1, e.2.1), es.map fun e => e.2.2, 0, 0)

/-- The side list of a PACK and the flag bitmap, written when the XD completes. -/
def Xd.final (x : Xd) (m : Mem) (ps : Option PlaneSet) (core : Nat) : List (Nat × List Byte) :=
  let n := x.count ps
  let side := match x.op, ps with
    | 1, some s => if s.outl then s.sideWrites ((List.range s.blocks).map fun i =>
        let k := s.blockAt i
        (x.pack m s k.1 k.2).outl) else []
    | _, _ => []
  let flags := match x.op, ps with
    | 1, some s => (List.range (n / 32)).flatMap fun i =>
        List.replicate 32 (x.pack m s (i % (s.k / 32)) (i / (s.k / 32))).flag
    | _, _ => (List.range n).map fun l => (x.elem m ps l).2.flag
  side ++ (match x.ccw.ofs with
    | some f => if x.copies then [] else [(vatBase core + f, flagBitmap flags (ceilDiv n 32))]
    | none => [])

/-- The bytes that one destination element reads: none for zero padding; an MX element and its scale; a block of a plane-set;
else a source element (R184, R187, R192). -/
def Xd.elemReads (x : Xd) (m : Mem) (ps : Option PlaneSet) (l : Nat) : List (Nat × Nat) :=
  match x.source ps l with
  | none => []
  | some s =>
    match x.op, ps with
    | 2, some p => p.blockReads m (x.planes p) (s.getD 0 0 / 32) (s.getD 1 0)
    | _, _ =>
      if isMx x.src then
        let row := x.srcAddr (0 :: s.drop 1)
        let half := x.src == 0x12
        [(row + (if half then s.getD 0 0 / 2 else s.getD 0 0), 1),
          (row + (if half then x.ext.getD 0 1 / 2 else x.ext.getD 0 1) + s.getD 0 0 / 32, 1)]
      else [(x.srcAddr s, xdBytes x.src)]

/-- The bytes that an XD reads from an element up to another; a PACK reads the fine scales of its blocks too (R191). -/
def Xd.reads (x : Xd) (m : Mem) (ps : Option PlaneSet) (lo hi : Nat) : List (Nat × Nat) :=
  (((List.range hi).drop lo).flatMap (x.elemReads m ps)) ++
    (match x.op, ps with
      | 1, some s =>
        if s.fine then
          ((List.range (hi / 32)).drop (lo / 32)).map fun i => (s.fineB + i % (s.k / 32) / 8 * s.n + i / (s.k / 32), 1)
        else []
      | _, _ => [])

end Sys2Proof.Machine
end

