-- ==== Sys2Proof/Machine/Writes.lean ====
section
/-! DEFINITION. Which requests the memories refuse, and the writes of one operation request by request (R18, R19, R119, R120,
R197). -/

namespace Sys2Proof.Machine

open Sys2Proof

/-- Bytes of a batch-table slot that no write may change: the active slot, and the inactive slot while a swap is pending
(R119, R120), of an almanac whose context is not saved. -/
def protectedRanges (s : Slot) : List (Nat × Nat) :=
  if s.loaded && s.ctx != .saved then
    (btDirOf s.image).flatMap fun r =>
      let l := s.bt r.id
      [(r.active l, r.maxEnt * 16)] ++ (if l.swap then [(r.inactive l, r.maxEnt * 16)] else [])
  else []

/-- The first protected byte in a write of n bytes at a. -/
def protectedHit (b : Body) (a n : Nat) : Option Nat :=
  (b.parts.flatMap fun (p : Part) => p.slots.flatMap protectedRanges).findSome? fun r =>
    if r.1 < a + n ∧ a < r.1 + r.2 then some (max r.1 a) else none

/-- Why a write is refused: the check of R19, then the batch-table slots. -/
def writeCheck (o : Own) (b : Body) (who : Requester) (a n : Nat) : Option (W16 × Nat) :=
  match netCheck o b who a n with
  | some st => some (st, a)
  | none => (protectedHit b a n).map fun x => (stBounds, x)

/-- The requester of an entry's accesses. -/
def entryOf (x : CtxId) (c : Fin 32) (idx : Nat) : Requester := .entry x.part c idx

/-- Drop from a write the bytes of every 64-byte request that is refused (R18, R19, R119, R120). -/
def guardBytes (refused : Nat → Nat → Bool) (a n : Nat) : Nat → List (Option Byte) → List (Option Byte)
  | _, [] => []
  | i, v :: t =>
    let u := (a + i) / 64 * 64
    (if refused (max u a) (min (u + 64) (a + n)) then none else v) :: guardBytes refused a n (i + 1) t

/-- The 64-byte requests of a range: first byte and end of each. -/
def requestsOf (a n : Nat) : List (Nat × Nat) :=
  (unitsIn a n).map fun u => (max u a, min (u + 64) (a + n))

/-- The first request of a write that is refused: its status and address. -/
def Body.refusedIn (o : Own) (b : Body) (who : Requester) (a n : Nat) : Option (W16 × Nat) :=
  if (writeCheck o b who a n).isNone then none
  else (requestsOf a n).findSome? fun r => writeCheck o b who r.1 (r.2 - r.1)

/-- The first of a list of reads that the memories refuse: its status and address (R19). -/
def Body.readRefused (o : Own) (b : Body) (who : Requester) (reads : List (Nat × Nat)) : Option (W16 × Nat) :=
  reads.findSome? fun r =>
    if (netCheck o b who r.1 r.2).isNone then none
    else (requestsOf r.1 r.2).findSome? fun q => (netCheck o b who q.1 (q.2 - q.1)).map fun st => (st, q.1)

/-- What an operation's writes leave to report: the first refused request and the first poisoned word whose bytes were lost. -/
structure Written where
  refused : Option (W16 × Nat)
  lost    : Option Nat
  deriving DecidableEq, Repr

/-- One write of an operation. -/
def Body.putOne (o : Own) (who : Requester) (r : Body × Written) (w : Nat × List (Option Byte)) : Body × Written :=
  let b := r.1
  let n := w.2.length
  let hit := b.refusedIn o who w.1 n
  let data :=
    if hit.isSome then guardBytes (fun lo hi => (writeCheck o b who lo (hi - lo)).isSome) w.1 n 0 w.2 else w.2
  (b.store o w.1 data,
    ⟨r.2.refused <|> hit, r.2.lost <|> (b.mem.lostWords (wordSize o.maps w.1) w.1 data).head?⟩)

/-- Writes that follow one another in memory joined into one, so that they reach a unit in one request (R18, R197). -/
def joinWrites : List (Nat × List (Option Byte)) → List (Nat × List (Option Byte))
  | [] => []
  | w :: t =>
    match joinWrites t with
    | [] => [w]
    | v :: r => if w.1 + w.2.length = v.1 then (w.1, w.2 ++ v.2) :: r else w :: v :: r

/-- The writes of one operation, in order. -/
def Body.putAll (o : Own) (b : Body) (who : Requester) (ws : List (Nat × List (Option Byte))) : Body × Written :=
  (joinWrites ws).foldl (Body.putOne o who) (b, ⟨none, none⟩)

/-- The first word in a list of reads that cannot be read. -/
def Mem.firstBadOf (m : Mem) (maps : List MapDesc) (reads : List (Nat × Nat)) : Option Nat :=
  if m.poison = [] ∧ m.upsets = [] then none else reads.findSome? fun r => m.firstBad (wordSize maps r.1) r.1 r.2

/-- The DRAM units that an operation reads, each counted once at its stack (R231, log entry 26). -/
def Body.countReadsOf (o : Own) (b : Body) (reads : List (Nat × Nat)) : Body :=
  b.traffic false ((reads.flatMap fun r => dramUnits o r.1 r.2 fun h => touches 32 h r.1 r.2).eraseDups)

/-- A request reaches a 64-byte unit of the n bytes at a. -/
def DReq.reaches (r : DReq) (a n : Nat) : Bool :=
  decide (unitOf r.addr ≤ unitOf (a + (n - 1))) && decide (unitOf a ≤ unitOf (r.addr + (r.n - 1)))

/-- No request waits for a unit of the n bytes at a: a new one would be served before an older one to the same unit (R218). -/
def Body.noneWaits (b : Body) (a n : Nat) : Bool :=
  b.stks.all fun s => s.queues.all fun q => q.waiting.all fun r => !r.reaches a n

/-- The stacks of some ranges admit traffic now, no older request waits for a unit of theirs, and the module is not tripped where they
lie in DRAM (R218, R226, R227). -/
def Body.flows (o : Own) (b : Body) (rs : List (Nat × Nat)) : Bool :=
  rs.all fun r => decide (0xD800000000 ≤ r.1) || (!b.board.tripped && b.admits o r.1 r.2 && b.noneWaits r.1 r.2)

/-- The stacks that hold ranges of DRAM. -/
def Own.stacksIn (o : Own) (rs : List (Nat × Nat)) : List Nat :=
  let hit (d : MapDesc) : Bool := d.valid && rs.any fun r => decide (d.lo < r.1 + r.2) && decide (r.1 < d.lo + d.size)
  ((o.maps.filter hit).flatMap fun d => (List.range d.k).map fun i => d.first + i).eraseDups

/-- The stacks that hold a partition's DRAM. -/
def Own.stacksOf (o : Own) (p : Fin 8) : List Nat :=
  o.stacksIn [(o.prec p).block.dataRange, (o.prec p).block.storeRange]

/-- Whole bytes of a write. -/
def whole (w : Nat × List Byte) : Nat × List (Option Byte) := (w.1, w.2.map some)

/-- The words with an error of a kind that a list of reads meets, each by the address it is held under. -/
def upsetsIn (maps : List MapDesc) (found : Found) (e : Ecc) (reads : List (Nat × Nat)) : List Nat :=
  (found.filter fun u =>
    let w := wordSize maps u.1
    u.2 == e && reads.any fun r => touches w (u.1 / w * w) r.1 r.2).map (·.1)

/-- The first word in a list of reads that cannot be read: it is poisoned, or the code finds an uncorrectable error there (R171,
R512). -/
def Body.firstBad (o : Own) (b : Body) (reads : List (Nat × Nat)) : Option Nat := b.mem.firstBadOf o.maps reads

/-- A word corrected by a read: counted, and to be written back unless a write reaches the word, or in DRAM its unit, first (R170,
R212). -/
def Body.corrected (o : Own) (b : Body) (a : Nat) : Body :=
  let w := wordSize o.maps a
  (b.countCe o a).updMem fun m =>
    { m with
      writeBack := m.writeBack ++ [(a / w * w, if a < 0xD800000000 then 64 else w)]
      upsets := m.upsets.filter fun u => u != (a, .corrected) }

/-- The words that a list of reads meets and the codes correct (R170, R212). -/
def Body.correctedIn (o : Own) (b : Body) (reads : List (Nat × Nat)) : Body :=
  (upsetsIn o.maps b.mem.upsets .corrected reads).foldl (Body.corrected o) b

end Sys2Proof.Machine
end

