-- ==== Sys2Proof/Machine/Faults.lean ====
section
/-! DEFINITION. What ends work: job teardown, partition reset, and the outcome of each fault class (R171, R435 to R440). -/

namespace Sys2Proof.Machine

open Sys2Proof

/-- The result bytes of an INVOKE response (R414). -/
def invokeResult (status : W16) (decision : BitVec 2) (repaired : Bool) (core : Byte) (aeIdx : W16) : List Byte :=
  leBytes 2 status.toNat ++ [BitVec.ofNat 8 decision.toNat, if repaired then 1 else 0, core, 0] ++ leBytes 2 aeIdx.toNat

/-- Complete a list of pending commands with one result. -/
def Body.respondEach (o : Own) (b : Body) (ts : List Ticket) (status : W16) (result : List Byte) : Body :=
  ts.foldl (fun b t => b.respond o t status 0 result) b

/-- Complete a list of pending commands. -/
def Body.respondAll (o : Own) (b : Body) (ts : List Ticket) (status : W16) : Body := b.respondEach o ts status []

/-- The mean after an MJ whose truncated mean CYCLES is J (R354): M + trunc((J - M) / 8), signed. -/
def meanAfter (m : W32) (j : Option Nat) : W32 :=
  match j with
  | some j => BitVec.ofInt 32 ((m.toNat : Int) + Int.tdiv ((j : Int) - m.toNat) 8)
  | none => m

/-- Mean updates that are due, in MJ order (R354). -/
def Stream.settle : Nat → Stream → Stream
  | 0, t => t
  | n + 1, t =>
    match t.ended.find? (·.1 == t.applied) with
    | none => t
    | some e =>
      Stream.settle n { t with
        meanPrev := t.mean, mean := meanAfter t.mean e.2, applied := t.applied + 1
        ended := t.ended.filter fun k => k.1 != t.applied }

/-- All updates that are due. -/
def Stream.settled (t : Stream) : Stream := Stream.settle t.ended.length t

/-- A running XD whose context is torn down completes the group it is writing (R199). How far it has come is free: some number of
the groups before its end are done, their counts with them; its flag bitmap and side list are not (log entry 91). A group whose
reads meet an uncorrectable error, or that its DRAM holds up, is not written. -/
def Body.finishGroup (o : Own) (b : Body) (j : QJob) : Body :=
  let s := b.slot j.ctx.part j.ctx.slot
  let x := xdOf s.image j.ref
  let ps := s.xdPlane x
  let n := x.count ps
  let groups := ceilDiv n 4096 - j.pos
  let hi := min n (4096 * (j.pos + (Config.freeWord b.free).toNat % (groups + 1)))
  let b1 := { b with free := b.free + 1 }
  let reads := x.reads b.mem ps (4096 * j.pos) hi
  let stopped := !b.flows o ((x.srcRanges ps ++ x.dstRanges ps).map fun r => (r.1.toNat, r.2))
  if x.identity || stopped || (b.firstBad o reads).isSome then b1
  else
    let r := x.span b.mem ps (4096 * j.pos) hi
    ((((b1.correctedIn o reads).updCore j.core fun k => (k.countEvs r.2.1).count r.2.2.1 r.2.2.2 0).countReadsOf o reads).putAll o
      (entryOf j.ctx j.core j.idx) (r.1.map whole)).1

/-- Discard a context's queued, running and stopped jobs on the shared engines (R96, R199, R256, R347). A rind job that
already runs completes, and its completion finds no entry to write for. -/
def Body.dropJobs (o : Own) (b : Body) (x : CtxId) : Body :=
  let q (l : List QJob) := l.filter fun j => j.ctx != x
  let b0 := ((b.quads.flatMap (·.xfRun)).filter fun j => j.ctx == x).foldl (Body.finishGroup o) b
  let b1 := { b0 with quads := b0.quads.map fun (k : Quad) =>
      { k with
        rindQ := q k.rindQ, xfQ := q k.xfQ, xfRun := q k.xfRun, udQ := q k.udQ, udRun := q k.udRun,
        harv := k.harv.filter fun h => h.1 != x } }
  b1.updPart x.part fun (p : Part) =>
    { p with
      collRuns := p.collRuns.filter fun r => r.ctx != x
      collHeld := p.collHeld.filter fun r => r.ctx != x
      mjs := p.mjs.filter fun m => m.ctx != x
      streams := p.streams.zipIdx.map fun ((t, i) : Stream × Nat) =>
        ((p.mjs.filter fun m => m.ctx == x && m.unit != 5 && m.session == none && m.stream == i).foldl
          (fun (t : Stream) m => { t with ended := t.ended ++ [(m.number, none)] }) t).settled
      encs := p.encs.zipIdx.map fun ((e, i) : EncSession × Nat) =>
        if p.mjs.any (fun m => m.ctx == x && m.session == some i) then { e with newSeq := true } else e }

/-- The collective groups that an image's COLL entries name. -/
def collGroups (img : List Byte) : List Nat :=
  ((imgCores img).flatMap fun c =>
    ((aeList img c.val).filter (·.kind == kColl)).map fun e => field img (e.ref + 1) 1).eraseDups

/-- The image holds COLL entries. -/
def hasColl (img : List Byte) : Bool := (imgCores img).any fun c => (aeList img c.val).any (·.kind == kColl)

/-- Abort notices for the configured groups of an invocation (R321). -/
def Body.abortGroups (b : Body) (p : Fin 8) (gs : List Nat) : Body :=
  gs.foldl (fun b g =>
    match (b.part p).coll.getD g none with
    | some cg => b.sendAborts cg
    | none => b) b

/-- Zero n-byte ranges. -/
def Mem.zeroAll (m : Mem) (rs : List (Nat × Nat)) : Mem := rs.foldl (fun m r => m.zero r.1 r.2) m

/-- What of a context is resident and its alone. -/
inductive Residence where
  /-- Its vats and presses whole. -/
  | alone
  /-- Its presses and the vat regions that it declares: another context has a part in its vats (a guest, a training context whose guest
  has not yet come). -/
  | shared
  /-- Its KEEP regions: a training context whose guest holds its cores (R272). -/
  | kept
  /-- Nothing: it is saved or unrun. -/
  | none
  deriving DecidableEq, Repr

/-- The residence of a slot's context. -/
def Slot.residence (s : Slot) : Residence :=
  if s.ctx = .resident then (if s.hostSlot != 0xFF || s.underGuest.isSome then .shared else .alone)
  else if s.underGuest.isSome then .kept else .none

/-- Zero the resident vat regions, presses and cellar KEEP regions of a context (R179, R435; log entry 41), the cores' memories then
being zeroed (R180). -/
def Body.zeroContext (b : Body) (img : List Byte) (r : Residence) : Body :=
  let cs := imgCores img
  let presses := cs.map fun c => (pressBase c.val, pressSize)
  let cellar := (keepRanges img).filter fun r => cellarBase ≤ r.1
  let mark (m : Mem) : Mem :=
    { m with zeroing := (m.zeroing ++ cs.flatMap fun c => [ZeroTarget.vat c, ZeroTarget.press c]).eraseDups }
  match r with
  | .none => b
  | .kept => b.updMem (·.zeroAll (keepRanges img))
  | .shared => b.updMem fun m =>
    mark (m.zeroAll (((vallocOf img).filter fun v => v.loc < 32).map (fun v => (v.addr, v.size)) ++ presses ++ cellar))
  | .alone => b.updMem fun m => mark (m.zeroAll (cs.map (fun c => (vatBase c.val, vatSize)) ++ presses ++ cellar))

/-- A core's context after a teardown: nothing runs; its flags and first-event records stay until the next start
(R135), and a core that halted on the fault still shows it. -/
def CoreCtx.tornDown (x : CoreCtx) : CoreCtx :=
  { CoreCtx.idle with
    seq := if x.seq = .halted then .halted else .idle
    aovf := x.aovf, ovr := x.ovr, btref := x.btref, aovfAe := x.aovfAe, ovrAe := x.ovrAe, ovrKind := x.ovrKind,
    ovrThr := x.ovrThr }

/-- Release the cores that a context holds. -/
def Body.releaseCores (b : Body) (x : CtxId) (f : CoreCtx → CoreCtx) : Body :=
  { b with cores := b.cores.map fun k => if k.ctx = some x then { k with ctx := none, cx := f k.cx } else k }

/-- A slot whose context is unrun again (R428, R117). -/
def Slot.unrun (s : Slot) : Slot :=
  { s with
    ctx := .unrun, run := .idle, resuming := false, bts := btsFresh s.image, events := [], save := ⟨[], [], [], []⟩,
    invoke := none, preempts := [], halt := none, repaired := false, guest := none, underGuest := none, appliesDone := 0,
    commitsDone := 0, digests := [], held := none, replTicket := none, order := [],
    reported := [] }

/-- A guest that a SLOT has admitted and that is not yet on its cores waits again: its training invocation is gone (R272). -/
def Body.guestBack (b : Body) (p : Fin 8) (g : Option (Fin 4)) : Body :=
  match g with
  | some g =>
    b.updSlot p g fun t => if t.run = .restoring then { t with run := .idle, guest := t.invoke, invoke := none } else t
  | none => b

/-- A job teardown (R435): the invocation and any PREEMPT of the slot complete with the fault's status, the context's
entries are discarded, its memory is zeroed, its save image dropped, and it is unrun; its groups are told (R321). -/
def Body.teardown (o : Own) (b : Body) (p : Fin 8) (k : Fin 4) (status : W16) (core : Byte) (aeIdx : W16) : Body :=
  let s := b.slot p k
  let x : CtxId := ⟨p, k⟩
  let b1 := b.dropJobs o x
  let b2 := b1.zeroContext s.image s.residence
  let b3 := ((b2.releaseCores x CoreCtx.tornDown).updSlot p k Slot.unrun).guestBack p s.underGuest
  let b4 := if s.invoke.isSome then b3.abortGroups p (collGroups s.image) else b3
  let b5 :=
    match s.invoke <|> s.guest with
    | some t => b4.respond o t status 0 (invokeResult status s.decision s.repaired core aeIdx)
    | none => b4
  b5.respondAll o (s.preempts ++ s.replTicket.toList) status

/-- A fault of a job: its record, then the teardown of its context (R437). -/
def Body.faultJob (o : Own) (b : Body) (p : Fin 8) (k : Fin 4) (status : W16) (src : Nat × Nat) (detail : Nat)
    (core : Byte) (aeIdx : W16) : Body :=
  (b.faultEvent o p status src detail).teardown o p k status core aeIdx

/-- A core shows that it halted on a fault (R135, R171; log entry 61). -/
def Body.haltCore (b : Body) (c : Fin 32) : Body := b.updCx c fun k => { k with seq := .halted }

/-- A fault of an almanac entry of a core: its record and the invocation's result name the entry, and the core that issued it
shows STATE halted (R135, R411, R414). -/
def Body.faultCore (o : Own) (b : Body) (p : Fin 8) (c : Fin 32) (ae : Nat) (status : W16) : Body :=
  match (b.core c).ctx with
  | some x => (b.haltCore c).faultJob o x.part x.slot status (0, c.val) ae (BitVec.ofNat 8 c.val) (BitVec.ofNat 16 ae)
  | none => b.faultEvent o p status (0, c.val) ae

/-- Zero the on-chip memory of a partition: its cores' vats and presses and its cellar run (R179). -/
def Body.zeroPartition (o : Own) (b : Body) (p : Fin 8) : Body :=
  b.updMem fun m =>
    let m1 := (o.cores p).foldl (fun m c => (m.zero (vatBase c.val) vatSize).zero (pressBase c.val) pressSize) m
    let r := (o.prec p).block.cellarRange
    let m2 := m1.zero r.1 r.2
    { m2 with zeroing := (m2.zeroing ++ (o.cores p).flatMap fun c => [ZeroTarget.vat c, ZeroTarget.press c]).eraseDups }

/-- A core's registers as a partition reset leaves them: lane map, clock and physical core stay (R81, R29). -/
def Core.cleared (c : Core) (n : Nat) : Core :=
  { Core.reset n with
    lmap := c.lmap, clk := c.clk, relock := c.relock, clkCause := c.clkCause, relockWhy := c.relockWhy, physical := c.physical }

/-- A partition's run-time state after a partition reset: everything of R436 cleared. -/
def Part.cleared (_ : Part) : Part := Part.reset

/-- A partition reset (R436): every context torn down, every pending INVOKE, PREEMPT and other job command completed
with FAULT_RESET, almanacs unloaded, on-chip memory zeroed, configurations, event queue and counters cleared, abort
notices sent. Completed only by its own command: PART_RESET, PART_MODIFY, PART_DELETE and PART_CREATE stay pending. -/
def Body.partitionReset (o : Own) (b : Body) (p : Fin 8) : Body :=
  let pt := b.part p
  let loads := pt.slots.filterMap fun (s : Slot) => s.loading.map fun l => l.2.2.2
  let invokes := pt.slots.filterMap fun (s : Slot) => (s.invoke <|> s.guest).map fun t => (t, s)
  let b1 := (List.range 16).foldl (fun b g => b.abortGroups p [g]) b
  let b2 := (List.finRange 4).foldl (fun b k => (b.dropJobs o ⟨p, k⟩).releaseCores ⟨p, k⟩ fun _ => CoreCtx.idle) b1
  let b3 := b2.zeroPartition o p
  let b4 := { b3 with cores := b3.cores.zipIdx.map fun ((k, i) : Core × Nat) => if o.hasCore p i then k.cleared i else k }
  let b5 := b4.updPart p fun x =>
    { x.cleared with create := x.create, modifies := x.modifies, resets := x.resets, delete := x.delete, resetting := true }
  let b6 := invokes.foldl (fun b (t, s) =>
    b.respond o t ftReset 0 (invokeResult ftReset s.decision s.repaired 0xFF 0xFFFF)) b5
  let b7 := b6.respondAll o (pt.slots.flatMap (fun (s : Slot) => s.preempts ++ s.replTicket.toList) ++ loads) ftReset
  let b8 := b7.respondAll o (pt.slots.filterMap (fun (s : Slot) => s.unload)) stOk
  b8.respondAll o (pt.copies.map (fun (c : CopyJob) => c.ticket) ++ pt.vocabReqs.map (fun v => v.2.2)) ftReset

/-- A fault that resets its partition: the reset empties the event queue, then the record of the fault stands in it; one that comes
during a reset of the partition joins it (R436, R440). -/
def Body.faultPartition (o : Own) (b : Body) (p : Fin 8) (status : W16) (src : Nat × Nat) (detail : Nat) : Body :=
  (if (b.part p).resetting then b else b.partitionReset o p).faultEvent o p status src detail

/-- FAULT_LINK (R437): the record, and the teardown of each invocation of the partition that holds COLL entries. -/
def Body.faultLink (o : Own) (b : Body) (p : Fin 8) (link : Nat) : Body :=
  (List.finRange 4).foldl (fun b k =>
    if (b.slot p k).invoke.isSome && hasColl (b.slot p k).image then b.teardown o p k ftLink 0xFF 0xFFFF else b)
    (b.faultEvent o p ftLink (3, link) link)

/-- The partition whose memory holds an address (R421). -/
def Own.ownerOf (o : Own) (a : Nat) : Option (Fin 8) :=
  (List.finRange 8).find? fun p =>
    o.present p &&
      (inside (o.prec p).block.dataRange a 1 || inside (o.prec p).block.storeRange a 1 ||
        inside (o.prec p).block.cellarRange a 1 || inside (caveRegion p.val, 0x6000) a 1 ||
        (o.cores p).any (fun c => inside (vatBase c.val, vatSize) a 1 || inside (pressBase c.val, pressSize) a 1))

/-- The DRAM controllers accept no request for an address: the module is tripped (R227). -/
def Body.dramStopped (b : Body) (a : Nat) : Bool := b.board.tripped && decide (a < 0xD800000000)

/-- The partition whose store region holds an address. -/
def Own.storeOwner (o : Own) (a : Nat) : Option (Fin 8) :=
  (List.finRange 8).find? fun p => o.present p && inside (o.prec p).block.storeRange a 1

/-- Ask for a warm reset; of several causes at once the lowest SRC is kept (R456). -/
def srcNum : ResetSrc → Nat
  | .powerOn => 0 | .resetN => 1 | .watchdog => 2 | .sag => 3 | .fwCommit => 4 | .memory => 5

/-- A warm reset requested and not yet taken (R455, R456). -/
def Body.requestWarm (b : Body) (r : ResetSrc) : Body :=
  b.updBoard fun x =>
    { x with warmReq := match x.warmReq with
        | some old => if srcNum old ≤ srcNum r then some old else some r
        | none => some r }

/-- The fault of an uncorrectable error at an address that a requester read (R171, R437): in the steward's cave region a
warm reset, in a store region a reset of its partition, else the job of the requester is torn down; a host port's read
raises no fault (R388), a fabric message or a steward's read only its record. -/
def Body.eccFault (o : Own) (b : Body) (who : Requester) (a : Nat) : Body :=
  if inside (caveBase, 0x10000) a 1 then b.requestWarm .memory
  else
    match o.storeOwner a with
    | some p => b.faultPartition o p ftEcc (whoSrc who) (unitOf a)
    | none =>
      match who with
      | .steward =>
        match o.ownerOf a with
        | some p => b.faultEvent o p ftEcc (4, 0) (unitOf a)
        | none => b
      | .entry p c ae => b.faultCore o p c ae ftEcc
      | .media p c ae => b.faultCore o p c ae ftEcc
      | .fabric p l => b.faultEvent o p ftEcc (3, l.val) (unitOf a)
      | .host _ _ => b

/-- A requester's read of n bytes finds an uncorrectable error or poison: the unit is poisoned, counted and recorded,
then the fault (R171, R212). -/
def Body.readBad (o : Own) (b : Body) (who : Requester) (a : Nat) : Body := (b.foundBad o a).eccFault o who a

/-- R512: a read that an XNX command needs meets an uncorrectable error: the unit is counted once; outside a store region
the partition gets a KIND 1 record of source 4; inside it the partition is reset. -/
def Body.stewardBad (o : Own) (b : Body) (p : Fin 8) (a : Nat) : Body :=
  let b' := b.foundBad o a
  match o.storeOwner a with
  | some q => b'.faultPartition o q ftEcc (4, 0) (unitOf a)
  | none => b'.faultEvent o p ftEcc (4, 0) (unitOf a)

/-- LCMAX takes the latency of LC reads at the stacks of some units, a free value for each stack (R219). -/
def Body.lcSeen (b : Body) (sts : List Nat) : Body :=
  let b1 := sts.zipIdx.foldl (fun (b1 : Body) ((st, i) : Nat × Nat) =>
    { b1 with stks := b1.stks.modify st (·.noteLc (Config.freeWord (b.free + i)).toNat) }) b
  { b1 with free := b.free + sts.length }

/-- Reads of the steward or the loader, all LC: counted, with their latency, and corrected (R170, R212, R216, R219, R231). -/
def Body.stewardRead (o : Own) (b : Body) (reads : List (Nat × Nat)) : Body :=
  let sts := ((reads.flatMap fun r => dramUnits o r.1 r.2 fun _ => true).map (·.1.stack)).eraseDups
  ((b.countReadsOf o reads).lcSeen sts).correctedIn o reads

end Sys2Proof.Machine
end

