-- ==== Sys2Proof/Machine/Regs.lean ====
section
/-! DEFINITION. The registers as they read (R29, R54, R81, R97, R135, R156, R174, R177, R203, R208, R231, R274, R301,
R326, R393, R396, R399, R407, R409, R410, R461, R475): telemetry windows, status pages and their layouts. -/

namespace Sys2Proof.Machine

open Sys2Proof

/-- A register from its fields, most significant first: (width, value) pairs. -/
def packFields (fs : List (Nat × Nat)) : Nat := fs.foldl (fun acc f => acc * 2 ^ f.1 + f.2 % 2 ^ f.1) 0

/-- A bit as a number. -/
def bit (b : Bool) : Nat := if b then 1 else 0

/-- A register as 64 bits. -/
def reg64 (fs : List (Nat × Nat)) : W64 := BitVec.ofNat 64 (packFields fs)

/-- SEQ_STAT.STATE. -/
def seqCode : SeqState → Nat
  | .idle => 0 | .running => 1 | .preempted => 2 | .halted => 3

/-- SEQ_STAT_Cnn (R135). -/
def Core.seqStat (c : Core) : W64 :=
  reg64 [(2, seqCode c.cx.seq), (1, bit c.cx.aovf), (1, bit c.cx.ovr), (1, bit c.cx.btref), (11, 0), (16, c.cx.aeIdx.toNat),
    (32, c.invoc.toNat)]
/-- SEQ_FIRST_Cnn (R135). -/
def Core.seqFirst (c : Core) : W64 :=
  reg64 [(16, c.cx.aovfAe.toNat), (16, c.cx.ovrAe.toNat), (8, c.cx.ovrKind.toNat), (1, bit c.cx.ovrThr), (23, 0)]
/-- SEQ_LEAP_Cnn (R135). -/
def Core.seqLeap (c : Core) : W64 := reg64 [(32, c.run.toNat), (32, c.leap.toNat)]

/-- The stacks over a physical core place (R24): the stack of row r, column j lies over C(8n + 4r + j) and the next. -/
def stacksOver (phys : Nat) : List Nat :=
  if phys = 32 then [2, 6]
  else if phys = 33 then [14, 18]
  else
    let n := phys / 8
    let r := phys % 8 / 4
    let i := phys % 4
    ((List.range 3).filter fun j => j == i || j + 1 == i).map fun j => 6 * n + 3 * r + j

/-- The lowest thermal cap over a core; none: no cap (R25). -/
def Body.thermCap (b : Body) (c : Core) : Option Nat :=
  ((stacksOver c.physical).filterMap fun st => (b.stks.getD st Stack.reset).cap).min?
/-- The module power cap. -/
def Body.pwrCap (b : Body) : Option Nat := b.board.powerCap.cap
/-- The clock a core's caps allow: the lowest of the variant ceiling and the caps (R25). -/
def Body.clockTarget (b : Body) (c : Core) : Nat :=
  min b.board.ceil.toNat (min ((b.thermCap c).getD b.board.ceil.toNat) (b.pwrCap.getD b.board.ceil.toNat))
/-- PWR_CAP.CAUSE: 0 at the ceiling, else 1 thermal or 2 power, thermal when equal (R28). -/
def Body.capCause (b : Body) (c : Core) : Nat :=
  match b.thermCap c, b.pwrCap with
  | none, none => 0
  | some _, none => 1
  | none, some _ => 2
  | some t, some p => if t ≤ p then 1 else 2
/-- PWR_CAP_Cnn (R29). -/
def Body.pwrCapReg (b : Body) (c : Core) : W64 :=
  reg64 [(32, 0), (2, if c.clk = 0 ∨ c.clk ≥ b.board.ceil.toNat then 0 else b.capCause c), (6, 0), (8, c.clk),
    (8, (b.thermCap c).getD 0), (8, b.pwrCap.getD 0)]
/-- CORE_SATCNT_Cnn (R54). -/
def Core.satCnt (c : Core) : W64 := reg64 [(32, 0), (32, c.sat.toNat)]
/-- CORE_NFCNT_Cnn (R54). -/
def Core.nfCnt (c : Core) : W64 := reg64 [(32, 0), (16, c.nfOut.toNat), (16, c.nfIn.toNat)]
/-- HRV_STAT of a core (R156). -/
def Core.hrvStat (c : Core) : W64 :=
  reg64 [(16, c.drop.toNat), (16, c.flushed.toNat), (11, 0), (5, c.cx.harv.length), (8, c.lastTag.toNat), (8, 0)]
/-- CORE_ECC_Cnn (R174). -/
def Core.ecc (c : Core) : W64 :=
  reg64 [(16, c.vatCe.toNat), (8, c.vatUe.toNat), (16, c.prsCe.toNat), (8, c.prsUe.toNat), (16, 0)]
/-- CORE_ECCADDR_Cnn (R174). -/
def Core.eccAddrReg (c : Core) : W64 :=
  match c.eccAddr with
  | none => 0
  | some a => reg64 [(1, 1), (1, bit a.1), (36, 0), (26, a.2.toNat)]
/-- CORE_RINDSTAT_Qn (R97). -/
def Quad.rindStat (q : Quad) : W64 :=
  reg64 [(32, 0), (1, bit q.rindRun.isSome), (4, 0), (3, q.rindQ.length), (3, 0),
    (5, (q.rindRun.map (·.core.val)).getD 0), (16, q.rindJobs.toNat)]
/-- HRV_STAT of a quadrant (R156). -/
def Quad.hrvStat (q : Quad) : W64 :=
  reg64 [(16, q.drop.toNat), (16, q.flushed.toNat), (11, 0), (5, q.harv.length), (8, q.lastTag.toNat), (8, 0)]
/-- CORE_ECC_Qn (R174). -/
def Quad.ecc (q : Quad) : W64 := reg64 [(16, q.celCe.toNat), (8, q.celUe.toNat), (40, 0)]
/-- CORE_ECCADDR_Qn (R174). -/
def Quad.eccAddrReg (q : Quad) : W64 :=
  match q.eccAddr with
  | none => 0
  | some a => reg64 [(1, 1), (37, 0), (26, a.toNat)]
/-- XF_STAT_Qn (R203). -/
def Quad.xfStat (q : Quad) : W64 :=
  reg64 [(4, q.xfRun.length), (8, q.xfQ.length), (4, 0), (16, q.xfStopped.toNat), (32, q.xfDone.toNat)]
/-- UPD_STAT_Qn (R274). -/
def Quad.updStat (q : Quad) : W64 := reg64 [(8, q.udQ.length), (3, q.udRun.length), (21, 0), (32, q.udDone.toNat)]

/-- THM_STK.STEP (R231): the highest step in force. -/
def Body.ladderStep (b : Body) (s : Stack) : Nat :=
  if s.sensor then 5 else if b.board.tripped then 4 else if s.limit ≠ 0 then 3 else if s.cap.isSome then 2
  else if s.doubled then 1 else 0
/-- THM_STK_Snn (R231). -/
def Body.thmStk (b : Body) (s : Stack) : W64 :=
  reg64 [(1, bit s.valid), (3, b.ladderStep s), (4, s.limit.toNat), (8, s.cap.getD 0), (8, s.maxT.toNat), (8, 0),
    (8, s.temp.toNat), (8, 0), (16, s.samples.toNat)]
/-- DRM_STAT_Snn (R231). -/
def Stack.stat (s : Stack) : W64 :=
  reg64 [(32, s.turns.toNat), (16, s.rmw.toNat), (8, s.lcMax.toNat), (6, 0), (2, s.rate.toNat)]
/-- DRM_ECC_Snn (R231). -/
def Stack.eccReg (s : Stack) : W64 :=
  reg64 [(16, s.ce.toNat), (8, s.ue.toNat), (16, s.odecc.toNat), (8, s.scrub.toNat), (8, s.cands.length), (8, 0)]
/-- DRM_ECCADDR_Snn (R231). -/
def Stack.eccAddrReg (s : Stack) : W64 :=
  match s.eccAddr with
  | none => 0
  | some a => reg64 [(1, 1), (1, bit a.1), (32, 0), (30, a.2.toNat)]
/-- DRM_MAPnn (R208). -/
def MapDesc.reg (d : MapDesc) : W64 :=
  reg64 [(1, bit d.valid), (1, bit d.sect), (3, d.set.toNat), (5, d.sel.toNat), (6, d.sliceLo.toNat), (6, d.sliceN.toNat),
    (10, d.base.toNat), (32, 0)]
/-- FLnn_STAT.STATE. -/
def linkCode : LinkState → Nat
  | .off => 0 | .training => 1 | .notReady => 2 | .up => 3 | .lost => 4 | .mismatch => 5 | .tooLong => 6
/-- FLnn_STAT (R301). -/
def Link.statReg (l : Link) : W64 :=
  reg64 [(3, linkCode l.state), (1, bit l.saved), (12, l.rtt.toNat), (16, l.trains.toNat), (32, 0)]
/-- FLnn_ERR (R301). -/
def Link.errReg (l : Link) : W64 := reg64 [(32, l.fecSym.toNat), (16, l.replay.toNat), (8, l.disc.toNat), (8, l.lost.toNat)]
/-- FLnn_PEER (R301). -/
def Link.peerReg (l : Link) : W64 := reg64 [(56, l.peerId.toNat), (3, 0), (5, l.peerLink.toNat)]

/-- UPD_STEP (R274). -/
def Part.updStep (p : Part) : W64 := reg64 [(2, p.decision.toNat), (1, bit p.stepValid), (7, 0), (54, p.step.toNat)]
/-- UPD_CNT (R274). -/
def Part.updCnt (p : Part) : W64 :=
  reg64 [(16, p.skipNf.toNat), (16, p.skipNorm.toNat), (16, p.digFail.toNat), (16, p.digFixed.toNat)]
/-- UPD_DIG (R274). -/
def Part.updDig (p : Part) : W64 :=
  match p.digRec with
  | none => 0
  | some d => reg64 [(1, 1), (3, 0), (12, d.1.toNat), (16, d.2.1.toNat), (32, d.2.2.toNat)]
/-- MED_CNT (chapter 12). -/
def Part.medCnt (p : Part) : W64 := reg64 [(32, p.medDone.toNat), (16, p.medConc.toNat), (16, p.medVoid.toNat)]
/-- MED_ERR (chapter 12). -/
def Part.medErr (p : Part) : W64 := reg64 [(16, p.medCorrupt.toNat), (16, p.medRefused.toNat), (32, p.medLastVoid.toNat)]
/-- MED_VID (R381). -/
def Part.medVid (p : Part) : W64 := reg64 [(16, p.vidFallback.toNat), (16, p.vidRetry.toNat), (32, p.vidPics.toNat)]
/-- MED_STRMnn. -/
def Stream.reg (s : Stream) : W64 := reg64 [(32, s.epoch.toNat), (32, s.pos.toNat)]
/-- MED_MEANnn. -/
def Stream.meanReg (s : Stream) : W64 := reg64 [(16, s.mjs.toNat), (16, 0), (32, s.mean.toNat)]

/-- The partition owns a core of a quadrant. -/
def Own.hasQuadCore (o : Own) (p : Fin 8) (q : Nat) : Bool := (List.range 8).any fun i => o.hasCore p (8 * q + i)
/-- The partition owns a cellar granule of slice q (R163). -/
def Own.hasGranule (o : Own) (p : Fin 8) (q : Nat) : Bool :=
  let k := (o.prec p).block
  o.present p && (List.range 64).any fun i => decide (k.celFirst ≤ 64 * q + i) && decide (64 * q + i < k.celFirst + k.celCount)

/-- A core's entry of the telemetry window, by 8-byte index in its 0x100 bytes. -/
def Body.coreEntry (b : Body) (c : Core) (i : Nat) : W64 :=
  match i with
  | 0 => c.seqStat | 1 => c.seqFirst | 2 => c.seqLeap | 3 => b.pwrCapReg c | 4 => c.satCnt | 5 => c.nfCnt
  | 6 => c.lmap | 7 => c.hrvStat | 8 => c.ecc | 9 => c.eccAddrReg
  | n => if n ≤ 18 then c.vig.getD (n - 10) 0 else 0

/-- The DRM_MAP descriptor i belongs to partition p (R208): its data or store region. -/
def Own.ownsMap (o : Own) (p : Fin 8) (d : MapDesc) : Bool :=
  o.present p && d.valid && (d.lo == (o.prec p).block.dataRange.1 || d.lo == (o.prec p).block.storeRange.1)

/-- The entry of partition p's telemetry window at an 8-byte-aligned offset (R407). -/
def Body.telem (o : Own) (b : Body) (p : Fin 8) (ofs : Nat) : W64 :=
  if ofs < 0x2000 then
    let c := ofs / 0x100
    if o.hasCore p c then b.coreEntry (b.cores.getD c (Core.reset c)) (ofs % 0x100 / 8) else 0
  else if ofs < 0x2100 then
    let n := (ofs - 0x2000) / 0x40
    let q := b.quads.getD n Quad.reset
    let mine := o.hasQuadCore p n
    match (ofs - 0x2000) % 0x40 / 8 with
    | 0 => if mine then q.rindStat else 0
    | 1 => if mine then q.hrvStat else 0
    | 2 => if mine || o.hasGranule p n then q.ecc else 0
    | 3 => if mine || o.hasGranule p n then q.eccAddrReg else 0
    | 4 => if mine then q.xfStat else 0
    | 5 => if mine then q.updStat else 0
    | _ => 0
  else if ofs < 0x2700 then
    let s := b.stks.getD ((ofs - 0x2100) / 0x40) Stack.reset
    match (ofs - 0x2100) % 0x40 / 8 with
    | 0 => b.thmStk s | 1 => s.stat | 2 => s.rd | 3 => s.wr | 4 => s.eccReg | 5 => s.eccAddrReg | _ => 0
  else if ofs < 0x2780 then
    let d := o.maps.getD ((ofs - 0x2700) / 8) MapDesc.off
    if o.ownsMap p d then d.reg else 0
  else if ofs < 0x2800 then 0
  else if ofs < 0x2B00 then
    let l := b.fab.links.getD ((ofs - 0x2800) / 0x20) Link.reset
    match (ofs - 0x2800) % 0x20 / 8 with
    | 0 => l.statReg | 1 => l.errReg | 2 => l.peerReg | _ => 0
  else if ofs < 0x2C00 then 0
  else if ofs < 0x2C40 then
    let x := b.part p
    match (ofs - 0x2C00) / 8 with
    | 0 => x.updStep | 1 => x.updCnt | 2 => x.updDig | 3 => x.medCnt | 4 => x.medErr | 5 => x.medVid
    | 6 => b.bkp.getD (16 + 2 * p.val) 0
    | _ => b.bkp.getD (17 + 2 * p.val) 0
  else if ofs < 0x2D00 then 0
  else if ofs < 0x2E00 then
    let s := (b.part p).streams.getD ((ofs - 0x2D00) / 0x10) Stream.reset
    if (ofs - 0x2D00) % 0x10 = 0 then s.reg else s.meanReg
  else 0

/-! ### Status pages -/

/-- GSP_ID (R393). -/
def Body.gspId (b : Body) : W64 := reg64 [(24, 0), (8, b.board.stepping.toNat), (16, 0x4824), (16, 0x1C7B)]
/-- DEV_STATE as read through a port (R393). -/
def Body.devStateReg (b : Body) (q : Port) : W64 :=
  reg64 [(46, 0), (1, bit (b.port (otherPort q)).linkUp), (1, portIx q), (6, 0), (2, b.board.secure.toNat), (4, 0),
    (4, b.devState)]
/-- VARIANT (R393). -/
def Body.variantReg (b : Body) : W64 :=
  reg64 [(30, 0), (2, b.board.rate.toNat), (16, b.board.tdp.toNat), (8, b.board.ceil.toNat), (8, b.board.var.toNat)]
/-- PEVQ: a bit for each partition with a record queued. -/
def Body.pevq (b : Body) : Nat :=
  (b.parts.zipIdx.map fun ((x, i) : Part × Nat) => if x.events = [] then 0 else 2 ^ i).sum
/-- ERR_SUM (R393). -/
def Body.errSum (b : Body) : W64 :=
  reg64 [(8, b.pevq), (1, bit b.board.tripped), (1, bit b.sagNow), (1, bit b.throtNow), (21, 0), (16, b.board.xport.toNat),
    (16, b.board.world.toNat)]
/-- FW_VER (R393). -/
def Body.fwVer (b : Body) : W64 := reg64 [(32, b.board.fwActive.toNat), (32, b.board.fwStaged.toNat)]
/-- SEM_nn (R396). -/
def Sem.reg (s : Sem) : W64 := reg64 [(1, bit s.held), (1, portIx s.port), (14, 0), (16, s.token.toNat), (32, 0)]
/-- SEM_PRIO (R396). -/
def Own.semPrio (o : Own) : W64 := reg64 [(32, 0), (16, o.cont.toNat), (15, 0), (1, portIx o.prio)]
/-- MBX_CTL (R399). -/
def Mailbox.ctl (m : Mailbox) : W64 := reg64 [(16, m.done.toNat), (16, m.dropped.toNat), (30, 0), (1, bit m.pend), (1, bit m.owner)]
/-- RST_CAUSE (R475). -/
def RstCause.reg (c : RstCause) : W64 :=
  reg64 [(32, c.coreOut.toNat), (6, c.mediaOut.toNat), (1, bit c.trial), (1, bit c.image), (8, c.bootErr.toNat),
    (4, c.sagRails.toNat), (4, c.wdog.toNat), (5, 0), (3, c.src.toNat)]
/-- RST_CAVE (R177). -/
def RstCave.reg (c : RstCave) : W64 :=
  reg64 [(32, 0), (8, c.warm.toNat), (6, 0), (1, bit c.cold), (1, bit c.scrubbed), (7, 0), (1, bit c.stwLost), (8, c.pLost.toNat)]
/-- PWR_SAG (R461). -/
def PwrSag.reg (s : PwrSag) : W64 :=
  reg64 [(4, s.below1.toNat), (12, 0), (8, s.th1.toNat), (8, s.th2.toNat), (8, (s.warn.getD 3 0).toNat),
    (8, (s.warn.getD 2 0).toNat), (8, (s.warn.getD 1 0).toNat), (8, (s.warn.getD 0 0).toNat)]
/-- PWR_IN (R461). -/
def PwrIn.reg (p : PwrIn) : W64 := reg64 [(16, p.avg.toNat), (16, p.peak.toNat), (16, p.vin.toNat), (16, p.iin.toNat)]
/-- WLD_RGNnn word 0 (R410). -/
def WldDesc.word0 (d : WldDesc) : W64 :=
  reg64 [(1, bit d.valid), (1, bit d.secure), (3, 0), (3, d.part.toNat), (12, 0), (44, d.base.toNat)]
/-- WLD_RGNnn word 1 (R410). -/
def WldDesc.word1 (d : WldDesc) : W64 := reg64 [(20, 0), (44, d.limit.toNat)]

/-- The value of an aligned 8-byte register of the pages every port reads, by BAR0 offset (R391, R393, R396, R409, R410);
a world-map descriptor of a partition the port does not own reads as zero unless the port is secure. -/
def Body.bar0Reg (o : Own) (b : Body) (q : Port) (off : Nat) : W64 :=
  if off < 0x10000 then
    match off / 8 with
    | 0 => b.gspId | 1 => b.devStateReg q | 2 => b.board.heartbeat | 3 => b.variantReg | 4 => b.errSum | 5 => b.fwVer | _ => 0
  else if off < 0x10100 then (o.sem ((off - 0x10000) / 8)).reg
  else if off = 0x10100 then o.semPrio
  else if 0xD0000 ≤ off ∧ off < 0xD0020 then
    match (off - 0xD0000) / 8 with
    | 0 => b.board.cause.reg | 1 => b.board.cave.reg | 2 => b.board.sag.reg | _ => b.board.pwrIn.reg
  else if 0xE0000 ≤ off ∧ off < 0xE0400 then
    let d := o.worlds.getD ((off - 0xE0000) / 16) ⟨false, false, 0, 0, 0⟩
    if b.securePort q || o.owns q (Fin.ofNat 8 d.part.toNat) then
      (if (off - 0xE0000) % 16 = 0 then d.word0 else d.word1)
    else 0
  else 0

end Sys2Proof.Machine
end

