-- ==== Sys2Proof/Machine/General.lean ====
section
/-! DEFINITION. The XNX general family and the unknown code (R412, R413). -/

namespace Sys2Proof.Machine

open Sys2Proof

/-- The partition of a partition-page command (the page check has passed). -/
def onPart (x : Xnx) (f : Fin 8 → Xres) : Xres :=
  match x.page with
  | .part p => f p
  | .module => .refused stWorld 0

/-- NOP's rule: nothing but its response. -/
def nopAct (o : Own) (b : Body) : Xres := .done o b stOk 0 []

/-- NOP (R413). -/
def execNop (x : Xnx) (s : State) : Result :=
  s.xnx 0x0001 x .both (x.len == 0) (x.arg0 == 0) nopAct

/-- UNKNOWN_XNX_CODE: a GO whose header holds an unknown CODE is answered REFUSED_FORMAT and has no effect (R412). -/
def execUnknownXnxCode (x : Xnx) (code : W16) (s : State) : Result :=
  s.xnx code.toNat x .both false true fun _ _ => .refused stFormat 0

/-- The entries of TELEM_SNAP, taken in one control-island cycle (R408). -/
def telemBytes (o : Own) (b : Body) (p : Fin 8) (ofs count : Nat) : List Byte :=
  (List.range count).flatMap fun i => leBytes 8 (b.telem o p (ofs + 8 * i)).toNat

/-- TELEM_SNAP's rule. -/
def telemSnapAct (x : Xnx) (o : Own) (b : Body) : Xres :=
  onPart x fun p =>
    let ofs := xArg x 0 4
    let n := xArg x 4 4
    if ofs % 8 ≠ 0 ∨ n = 0 ∨ n > 1014 ∨ ofs + 8 * n > 0x20000 then .refused stBounds 0
    else .done o b stOk 0 (telemBytes o b p ofs n)

/-- TELEM_SNAP (R408, R413). -/
def execTelemSnap (x : Xnx) (s : State) : Result :=
  s.xnx 0x0002 x .part (x.len == 8) (x.arg0 == 0) (telemSnapAct x)

/-- EVENT_READ's rule: the oldest records and LOST since the last read; records left behind fire the queue's vector
(R405). -/
def eventReadAct (x : Xnx) (o : Own) (b : Body) : Xres :=
  onPart x fun p =>
    let n := xArg x 0 4
    if n = 0 ∨ n > 202 then .refused stBounds 0
    else
      let evs := (b.part p).events
      let out := evs.take n
      let b' := b.updPart p fun y => { y with events := evs.drop n, lost := 0 }
      let b2 := if evs.drop n = [] then b' else b'.firePart o p (33 + p.val)
      .done o b2 stOk 0 (leBytes 4 out.length ++ leBytes 4 (b.part p).lost.toNat ++ out.flatMap (·.bytes))

/-- EVENT_READ (R411, R413). -/
def execEventRead (x : Xnx) (s : State) : Result :=
  s.xnx 0x0003 x .part (x.len == 4) (x.arg0 == 0) (eventReadAct x)

/-- PRESS_READ's rule: BUSY while the core runs; a read that meets uncorrectable data returns none (R165, R512). -/
def pressReadAct (x : Xnx) (o : Own) (b : Body) : Xres :=
  onPart x fun p =>
    let ofs := xArg x 0 4
    let n := xArg x 4 4
    match finOf 32 x.arg0 with
    | none => .refused stFormat 0
    | some c =>
      if !o.hasCore p c.val then .refused stWorld 0
      else if ofs % 64 ≠ 0 ∨ ofs ≥ pressSize ∨ n < 64 ∨ n > 8064 ∨ n % 64 ≠ 0 ∨ ofs + n > pressSize then .refused stBounds 0
      else if (b.core c).cx.seq = .running then .refused stBusy 0
      else
        let rs := [(pressBase c.val + ofs, n)]
        match b.firstBad o rs with
        | some a => .done o (b.stewardBad o p a) ftEcc 0 []
        | none => .done o (b.correctedIn o rs) stOk 0 (b.mem.bytes (pressBase c.val + ofs) n)

/-- PRESS_READ (R413). -/
def execPressRead (x : Xnx) (s : State) : Result :=
  s.xnx 0x0004 x .part (x.len == 8) (decide (x.arg0 < 32)) (pressReadAct x)

/-- OFS and BYTES lie within a partition's 24 KiB (R413). -/
def caveArgs (ofs n : Nat) : Bool := decide (0 < n) && decide (n ≤ 8064) && decide (ofs + n ≤ 0x6000)

/-- CAVE_READ's rule. -/
def caveReadAct (x : Xnx) (o : Own) (b : Body) : Xres :=
  onPart x fun p =>
    let ofs := xArg x 0 4
    let n := xArg x 4 4
    let a := caveRegion p.val + ofs
    if !caveArgs ofs n then .refused stBounds 0
    else
      match b.firstBad o [(a, n)] with
      | some w => .done o (b.stewardBad o p w) ftEcc 0 []
      | none => .done o (b.correctedIn o [(a, n)]) stOk 0 (b.mem.bytes a n)

/-- CAVE_READ (R176, R413). -/
def execCaveRead (x : Xnx) (s : State) : Result :=
  s.xnx 0x0005 x .part (x.len == 8) (x.arg0 == 0) (caveReadAct x)

/-- The 64-bit words of the cave that a write of n bytes at a covers only in part, which are read and merged (R169, R172,
R512). -/
def mergeWords (a n : Nat) : List (Nat × Nat) :=
  (if a % 8 = 0 ∧ 8 ≤ n then [] else [(a / 8 * 8, 8)]) ++
    (if (a + n) % 8 = 0 then [] else [((a + n) / 8 * 8, 8)])

/-- CAVE_WRITE's rule: the merge reads come first; each unit is then written at once (R18, R413, R512). -/
def caveWriteAct (x : Xnx) (o : Own) (b : Body) : Xres :=
  onPart x fun p =>
    let ofs := xArg x 0 4
    let n := xArg x 4 4
    let a := caveRegion p.val + ofs
    if !caveArgs ofs n then .refused stBounds 0
    else
      match b.firstBad o (mergeWords a n) with
      | some w => .done o (b.stewardBad o p w) ftEcc 0 []
      | none => .done o ((b.correctedIn o (mergeWords a n)).storeBytes o a ((x.args.drop 8).take n)) stOk 0 []

/-- CAVE_WRITE (R176, R413): LEN is that of its data. -/
def execCaveWrite (x : Xnx) (s : State) : Result :=
  s.xnx 0x0006 x .part (x.len == 8 + xArg x 4 4) (x.arg0 == 0) (caveWriteAct x)

/-- BACKUP_WRITE's rule: one 64-bit update of the partition's pair, with fresh check bits (R169, R178). -/
def backupWriteAct (x : Xnx) (o : Own) (b : Body) : Xres :=
  onPart x fun p =>
    let i := 16 + 2 * p.val + x.arg0
    .done o { b with
      bkp := b.bkp.set i (BitVec.ofNat 64 (xArg x 0 8)), bkpBad := b.bkpBad &&& ~~~(BitVec.ofNat 32 (2 ^ i)) } stOk 0 []

/-- BACKUP_WRITE (R178, R413). -/
def execBackupWrite (x : Xnx) (s : State) : Result :=
  s.xnx 0x0007 x .part (x.len == 8) (decide (x.arg0 < 2)) (backupWriteAct x)

/-- Bytes of a harvest table (R413). -/
def harvestTableBytes : Nat := 576 * 1024

/-- An invocation of the partition runs: one of its slots holds a pending INVOKE. -/
def Part.invoking (p : Part) : Bool := p.slots.any (·.invoke.isSome)

/-- HARVEST_CFG's rule; on a tripped module the zeroing of the table waits, and the command with it (R227). -/
def harvestCfgAct (x : Xnx) (o : Own) (b : Body) : Xres :=
  onPart x fun p =>
    let t := xArg x 0 8
    if t ≠ 0 ∧ !o.inData p t harvestTableBytes then .foreign (o.outside p t)
    else if t % 64 ≠ 0 then .refused stBounds 0
    else if (b.part p).invoking then .refused stBusy 0
    else if t ≠ 0 ∧ b.board.tripped then .pending o b
    else if t = 0 then .done o (b.updPart p fun y => { y with harvTab := none, harvSeq := [] }) stOk 0 []
    else .done o ((b.updMem (·.zero t harvestTableBytes)).updPart p fun y => { y with harvTab := some t, harvSeq := [] }) stOk 0 []

/-- HARVEST_CFG (R413). -/
def execHarvestCfg (x : Xnx) (s : State) : Result :=
  s.xnx 0x0008 x .part (x.len == 8) (x.arg0 == 0) (harvestCfgAct x)

/-- HOST_COPY's rule: accepted as PENDING (R390). -/
def hostCopyAct (x : Xnx) (o : Own) (b : Body) : Xres :=
  onPart x fun p =>
    let h := xArg x 0 8
    let d := xArg x 8 8
    let n := xArg x 16 8
    if !o.inData p d n then .foreign (o.outside p d)
    else if h % 64 ≠ 0 ∨ d % 64 ≠ 0 ∨ n % 64 ≠ 0 ∨ n > 2 ^ 40 then .refused stBounds 0
    else .pending o (b.updPart p fun y => { y with copies := y.copies ++ [⟨xTicket x, x.arg0 == 1, h, d, n⟩] })

/-- HOST_COPY (R390, R413). -/
def execHostCopy (x : Xnx) (s : State) : Result :=
  s.xnx 0x0009 x .part (x.len == 24) (decide (x.arg0 < 2)) (hostCopyAct x)

/-- HOST_COPY_COMPLETE: the copy of a mailbox ends; it runs in ascending address order and stops at the first unit that
cannot be read, having copied every unit below it, with the unit's address in DETAIL (R512); on a tripped module it cannot
end (R227), nor while its traffic waits for admission (R226), nor once the steward has stopped (R420). -/
def hostCopyDone (o : Own) (b : Body) (p : Fin 8) (mb : Fin 4) (hostData : List Byte) : Body :=
  match (b.part p).copies.find? (·.ticket.mb == mb) with
  | none => b
  | some c =>
    if !b.stewardUp || !b.flows o [(c.daddr, c.bytes)] then b else
    let b1 := b.updPart p fun y => { y with copies := y.copies.filter (·.ticket.mb != mb) }
    if c.toHost then
      let b := b.correctedIn o [(c.daddr, c.bytes)]
      let b1 := b.updPart p fun y => { y with copies := y.copies.filter (·.ticket.mb != mb) }
      match b.firstBad o [(c.daddr, c.bytes)] with
      | some w =>
        let n := w / 64 * 64 - c.daddr
        let b2 := (b1.countReads o c.daddr n).emit (.hostWrite c.haddr (b.mem.bytes c.daddr n))
        (b2.stewardBad o p w).respond o c.ticket ftEcc (w / 64 * 64) []
      | none => ((b1.countReads o c.daddr c.bytes).emit (.hostWrite c.haddr (b.mem.bytes c.daddr c.bytes))).respond o c.ticket stOk 0 []
    else (b1.storeBytes o c.daddr (hostData.take c.bytes)).respond o c.ticket stOk 0 []

/-- HOST_COPY_COMPLETE. -/
def execHostCopyComplete (p : Fin 8) (mb : Fin 4) (hostData : List Byte) (s : State) : Result :=
  s.onBody fun o b => hostCopyDone o b p mb hostData

end Sys2Proof.Machine
end

