-- ==== Sys2Proof/Machine/Stacks.lean ====
section
/-! DEFINITION. The DRAM controllers: the requests that wait at a pseudo-channel, the order in which they are served, write
batches, and the traffic limit (R215 to R219, R222, R226). A stack that is not limited serves a request as it arrives, but for a bulk
read during a write batch (log entry 87). -/

namespace Sys2Proof.Machine

open Sys2Proof

/-- Two requests reach a 64-byte unit in common (R218). -/
def DReq.meets (r q : DReq) : Bool := r.reaches q.addr q.n

/-- The request that must be served before this one may be: the earliest that waits for a unit of it, itself when none does (R218). -/
def PcQueues.headOf (q : PcQueues) (r : DReq) : DReq := (q.waiting.find? (·.meets r)).getD r

/-- The bank that a request is for is under refresh, and busy (R222). -/
def PcQueues.refreshes (maps : List MapDesc) (q : PcQueues) (r : DReq) : Bool :=
  match q.refreshing, locate maps r.addr with
  | some f, some l => f.1 == l.bank
  | _, _ => false

/-- A request can be served now: a write needs a place in the write queue of 96; a read needs a bank that is not under refresh, and one
that is neither LC nor aged waits for the end of a batch (R217, R222). -/
def PcQueues.ready (maps : List MapDesc) (q : PcQueues) (r : DReq) : Bool :=
  if r.data.isSome then decide (q.writes.length < 96) else !q.refreshes maps r && (r.lc || r.aged || q.batch == 0)

/-- The bulk request to serve next: one that has waited 2 µs; else the oldest read of an open row; else the oldest (R217). -/
def PcQueues.nextBulk (maps : List MapDesc) (q : PcQueues) : Option DReq :=
  let bs := q.waiting.filter fun r => !r.lc && q.ready maps (q.headOf r)
  let openRow (r : DReq) : Bool :=
    match locate maps r.addr with
    | some l => r.data.isNone && q.rows.contains (l.bank, l.row)
    | none => false
  ((bs.find? (·.aged)) <|> (bs.find? openRow) <|> bs.head?).map q.headOf

/-- The request to serve next: an LC read before any bulk request, but after eight LC reads in a row one bulk request (R217). -/
def PcQueues.next (maps : List MapDesc) (q : PcQueues) : Option DReq :=
  let lc := ((q.waiting.filter fun r => r.lc && q.ready maps (q.headOf r)).head?).map q.headOf
  let bulk := q.nextBulk maps
  if q.lcRow ≥ 8 then bulk <|> lc else lc <|> bulk

/-- The oldest queued write can go to the stack: its bank is not under refresh (R222). -/
def PcQueues.drains (maps : List MapDesc) (q : PcQueues) : Bool := q.writes.head?.any fun r => !q.refreshes maps r

/-- One queued write goes to the stack, a bulk request served: its merge read, then its units (R215, R217). -/
def drainOne (o : Own) (b : Body) (l : DramLoc) : Body :=
  let q := (b.stks.getD l.stack Stack.reset).pcOf l.pc
  match q.writes with
  | [] => b
  | r :: t =>
    if q.refreshes o.maps r then b
    else (b.atStack l fun s => s.updPc l.pc fun q => { q with writes := t, lcRow := 0 }).countWrites o r.addr (r.data.getD [])

/-- The data or the refusal of a read goes back to where it was asked. -/
def answerRead (b : Body) (r : DReq) (poisoned : Bool) : Body :=
  match r.via with
  | .network => if poisoned then b else b.emit (.netData r.who (b.mem.bytes r.addr r.n))
  | .window q => b.emit (.cxlData q (b.mem.bytes r.addr r.n) poisoned)

/-- LCMAX takes the latency of a request that is an LC read (R219). -/
def Stack.latency (s : Stack) (r : DReq) : Stack := if r.lc then s.noteLc r.latency else s

/-- The units of n bytes at a that cannot be read, by address: in a sector-mode region half-units (R171, R211). -/
def Body.badUnits (o : Own) (b : Body) (a n : Nat) : List Nat :=
  let w := wordSize o.maps a
  let g := if w = 32 then 32 else 64
  (sortBy (fun (x y : Nat) => x ≤ y) (((b.mem.badWords w).filter fun x => touches w x a n).map fun x => x / g * g)).eraseDups

/-- The data of a read from the memory: corrected where the code can; every unit that cannot be read is poisoned and counted, and the
first one is the fault's (R171, R212). -/
def readNow (o : Own) (b : Body) (r : DReq) : Body :=
  let b0 := b.correctedIn o [(r.addr, r.n)]
  match b0.badUnits o r.addr r.n with
  | [] => answerRead b0 r false
  | x :: t => answerRead ((t.foldl (Body.foundBad o) (b0.foundBad o x)).eccFault o r.who x) r true

/-- A queued write reaches a unit of a read: the read is answered with its data at once, without going to the stack (R218); a unit
that the write's own merge read left poisoned, or another unit of the read, still reads as uncorrectable (R212). -/
def PcQueues.forwards (q : PcQueues) (r : DReq) : Bool := r.data.isNone && q.writes.any (·.meets r)

/-- An LC read is served: after eight in a row with only queued writes as bulk requests, one of these goes first (R217). -/
def serveLc (o : Own) (b : Body) (l : DramLoc) : Body :=
  let b1 := if ((b.stks.getD l.stack Stack.reset).pcOf l.pc).lcRow ≥ 8 then drainOne o b l else b
  b1.atStack l fun s => s.updPc l.pc fun q => { q with lcRow := q.lcRow + 1 }

/-- A write accepted into the write queue: its bytes take effect for every later request to them (R218); a merge read that is
uncorrectable loses the bytes of that word, with the fault of R172. It is served, as a bulk request, when it goes to the stack. -/
def acceptWrite (o : Own) (b : Body) (l : DramLoc) (r : DReq) (d : List (Option Byte)) : Body :=
  let b1 := (b.place o r.addr d).atStack l fun s => s.updPc l.pc fun q => { q with writes := q.writes ++ [r] }
  match b.mem.lostWords (wordSize o.maps r.addr) r.addr d with
  | [] => b1
  | x :: _ => b1.eccFault o r.who x

/-- Serve one request (R217). -/
def serve (o : Own) (b : Body) (l : DramLoc) (r : DReq) : Body :=
  match r.data with
  | some d => acceptWrite o b l r d
  | none =>
    if ((b.stks.getD l.stack Stack.reset).pcOf l.pc).forwards r then readNow o (b.atStack l (·.latency r)) r
    else
      let b1 := if r.lc then serveLc o b l else b.atStack l fun s => s.updPc l.pc fun q => { q with lcRow := 0 }
      readNow o ((b1.countReads o r.addr r.n).atStack l (·.latency r)) r

/-- The oldest queued write has waited 2 µs: it goes to the stack before any younger bulk request, and before an LC read only after
eight in a row (R217). -/
def PcQueues.writeFirst (maps : List MapDesc) (q : PcQueues) : Bool :=
  q.drains maps &&
    match q.writes.head?, q.next maps with
    | some w, some r => w.aged && (if r.lc then decide (q.lcRow ≥ 8) else !(r.aged && decide (r.seq < w.seq)))
    | some w, none => w.aged
    | none, _ => false

/-- Serve what waits at a pseudo-channel, in its order, as far as the limit admits it; a tripped module serves nothing (R217, R226,
R227). -/
def pump (o : Own) (l : DramLoc) : Nat → Body → Body
  | 0, b => b
  | n + 1, b =>
    let s := b.stks.getD l.stack Stack.reset
    let q := s.pcOf l.pc
    if b.board.tripped || !s.admits then b
    else if q.writeFirst o.maps then pump o l n (drainOne o b l)
    else
      match q.next o.maps with
      | none => b
      | some r =>
        pump o l n (serve o (b.atStack l fun s => s.updPc l.pc fun q => { q with waiting := q.waiting.erase r }) l r)

/-- Serve what waits at a pseudo-channel. -/
def pumpAll (o : Own) (b : Body) (l : DramLoc) : Body :=
  let q := (b.stks.getD l.stack Stack.reset).pcOf l.pc
  pump o l (q.waiting.length + q.writes.length) b

/-- A request that has passed its checks reaches its controller: served at once when nothing waits and the limit admits it, else it
waits; an LC read ends a batch after the write on the bus. A tripped module's controllers accept nothing (R217, R226, R227). -/
def arrive (o : Own) (b : Body) (l : DramLoc) (r : DReq) : Body :=
  if b.board.tripped then b
  else
    let r := { r with seq := ((b.stks.getD l.stack Stack.reset).pcOf l.pc).arrivals }
    let b1 := b.atStack l fun s => s.updPc l.pc fun q => { q with batch := if r.lc then 0 else q.batch, arrivals := q.arrivals + 1 }
    let s := b1.stks.getD l.stack Stack.reset
    let q := s.pcOf l.pc
    if q.waiting = [] ∧ (q.forwards r ∨ (s.admits ∧ q.ready o.maps r)) then serve o b1 l r
    else pumpAll o (b1.atStack l fun s => s.updPc l.pc fun q => { q with waiting := q.waiting ++ [r] }) l

/-- An access of a requester to DRAM bytes, on the chip network. -/
def netReq (who : Requester) (a n : Nat) (data : Option (List (Option Byte))) : DReq :=
  ⟨who, a, n, data, false, 0, .network, false, 0⟩

/-- The requests that wait for units of n bytes at a are served, for a younger one that cannot wait (R218). -/
def serveOlder (o : Own) (b : Body) (a n : Nat) : Body :=
  if b.noneWaits a n then b
  else
    (b.stks.zipIdx.flatMap fun ((s, i) : Stack × Nat) => s.queues.flatMap fun q =>
      (q.waiting.filter (·.reaches a n)).map fun r => ((⟨i, q.pc, 0, 0, 0⟩ : DramLoc), r)).foldl (fun b (l, r) =>
        serve o (b.atStack l fun s => s.updPc l.pc fun q => { q with waiting := q.waiting.erase r }) l r) b

/-- The requests that wait for units of some ranges are served first (R218). -/
def Body.ordered (o : Own) (b : Body) (rs : List (Nat × Nat)) : Body := rs.foldl (fun b r => serveOlder o b r.1 r.2) b

/-- Writes of a requester in order, after every older request to their units (R218). -/
def Body.putOrdered (o : Own) (b : Body) (who : Requester) (ws : List (Nat × List (Option Byte))) : Body × Written :=
  (b.ordered o ((joinWrites ws).map fun w => (w.1, w.2.length))).putAll o who ws

/-! ### What the controllers do at a tick (R217, R222, R226) -/

/-- Ceiling cycles of a bank's refresh: 160 ns (R222). -/
def refreshCycles (ceil : Nat) : Nat := ceilDiv (160 * ceil) 10

/-- A bank has requests waiting or queued. -/
def PcQueues.busyBank (maps : List MapDesc) (q : PcQueues) (bank : Nat) : Bool :=
  (q.waiting ++ q.writes).any fun r => (locate maps r.addr).any (·.bank == bank)

/-- The bank to refresh next: one whose refresh has been postponed by eight intervals; else an idle one that is owed a refresh
(R222). -/
def PcQueues.nextRefresh (maps : List MapDesc) (q : PcQueues) : Option Nat :=
  let due := q.owed.filter fun r => r.2 != 0
  ((due.find? fun r => decide (r.2 > 8)) <|> (due.find? fun r => !q.busyBank maps r.1)).map (·.1)

/-- Start the next refresh of a pseudo-channel when no bank of it is under refresh: the refresh is counted and the bank's debt falls
by one; its row is closed (R222). -/
def Stack.refresh (maps : List MapDesc) (now pc : Nat) (s : Stack) : Stack :=
  let q := s.pcOf pc
  match q.refreshing, q.nextRefresh maps with
  | none, some bank =>
    let key := pc * 48 + bank
    { (s.updPc pc fun q => { q with
        refreshing := some (bank, now), rows := q.rows.filter (·.1 != bank)
        owed := q.owed.map fun r => if r.1 = bank then (r.1, r.2 - 1) else r }) with
      refreshes := (key, ((s.refreshes.find? (·.1 == key)).elim 0 (·.2)) + 1) :: s.refreshes.filter (·.1 != key) }
  | _, _ => s

/-- A refresh whose time is over ends, and the next one starts. -/
def Stack.refreshTick (maps : List MapDesc) (now ceil pc : Nat) (s : Stack) : Stack :=
  match (s.pcOf pc).refreshing with
  | some r =>
    if r.2 + refreshCycles ceil ≤ now then
      (s.updPc pc fun q => { q with refreshing := none }).refresh maps now pc
    else s
  | none => s.refresh maps now pc

/-- One tick of a pseudo-channel: the next write of a batch, the refreshes, then what waits. -/
def tickPc (o : Own) (st : Nat) (b : Body) (pc : Nat) : Body :=
  let l : DramLoc := ⟨st, pc, 0, 0, 0⟩
  let q := (b.stks.getD st Stack.reset).pcOf pc
  let b1 :=
    if q.batch = 0 ∨ !(b.stks.getD st Stack.reset).admits ∨ (q.writes ≠ [] ∧ !q.drains o.maps) then b
    else (drainOne o b l).atStack l fun s => s.updPc pc fun q =>
      { q with batch := if q.writes = [] then 0 else q.batch - 1 }
  pumpAll o (b1.atStack l (·.refreshTick o.maps b.board.uptime b.board.ceil.toNat pc)) l

/-- One tick of a stack: the limit's admission is renewed, then each pseudo-channel with something to do. -/
def tickStack (o : Own) (b : Body) (st : Nat) : Body :=
  let s := b.stks.getD st Stack.reset
  let b1 := if s.debt = 0 then b else { b with stks := b.stks.modify st fun s => { s with debt := s.debt - s.allowance } }
  (s.queues.filter fun q =>
    q.batch != 0 || q.refreshing.isSome || q.waiting != [] || q.owed.any (·.2 != 0) || q.writes.any (·.aged)).foldl (fun b q => tickPc o st b q.pc) b1

/-- One tick of the controllers (R217, R222, R226). -/
def tickStacks (o : Own) (b : Body) : Body := (List.range 24).foldl (tickStack o) b

end Sys2Proof.Machine
end

