-- ==== Sys2Proof/Machine/Memory.lean ====
section
/-! DEFINITION. The memories as a requester meets them: network reads and writes, error correction, scrubbing, zeroing
(R17 to R19, R119, R120, R159 to R181). -/

namespace Sys2Proof.Machine

open Sys2Proof

/-- A partition's almanac stores lie in its store region. -/
def Own.inStore (o : Own) (p : Fin 8) (a n : Nat) : Bool := o.present p && inside (o.prec p).block.storeRange a n

/-- The class of a read (R216): the steward's own and the loader's reads are latency-critical; of an entry's, the sequencer's reads of
the almanac store, as the command says; every other read is bulk. -/
def readClass (o : Own) (who : Requester) (lc : Bool) (a n : Nat) : Bool :=
  match who with
  | .steward => true
  | .entry p _ _ => lc && o.inStore p a n
  | .fabric .. | .host .. | .media .. => false

/-- NETWORK_READ: checked at the destination (R19); in DRAM it goes to its controller, an LC read with a latency that is free (R219);
elsewhere an uncorrectable error or a poisoned
word faults the requester and returns nothing (R171), and otherwise the bytes are returned, corrected if need be. -/
def networkRead (o : Own) (b : Body) (who : Requester) (a n : Nat) (ecc : Found) : Body :=
  match netCheck o b who a n with
  | some st => (b.refuse o who st a).emit (.netStatus who st)
  | none =>
    let b1 := b.upset ecc
    match locate o.maps a with
    | some l =>
      let lc := readClass o who false a n
      arrive o { b1 with free := b1.free + 1 } l
        { netReq who a n none with lc := lc, latency := if lc then (Config.freeWord b.free).toNat else 0 }
    | none => readNow o b1 (netReq who a n none)

/-- NETWORK_READ (R18, R19). -/
def execNetworkRead (who : Requester) (addr : Addr) (n : Nat) (ecc : Found) (s : State) : Result :=
  s.onBody fun o b => networkRead o b who addr.toNat n ecc

/-- A masked write to an SRAM: the merge read, then its bytes; bytes in a word that cannot be read are lost, with the fault of
R172. -/
def sramWrite (o : Own) (b : Body) (who : Requester) (a : Nat) (data : List (Option Byte)) : Body :=
  match b.mem.lostWords (wordSize o.maps a) a data with
  | [] => b.store o a data
  | x :: _ => (b.store o a data).eccFault o who x

/-- NETWORK_WRITE: refused with no effect by the world map or a protected slot, else written under its byte mask, in DRAM by its
controller. -/
def networkWrite (o : Own) (b : Body) (who : Requester) (a : Nat) (data : List (Option Byte)) (ecc : Found) : Body :=
  match writeCheck o b who a data.length with
  | some (st, x) => (b.refuse o who st x).emit (.netStatus who st)
  | none =>
    match locate o.maps a with
    | some l => arrive o (b.upset ecc) l (netReq who a data.length (some data))
    | none => sramWrite o (b.upset ecc) who a data

/-- NETWORK_WRITE (R18, R19, R119, R172). -/
def execNetworkWrite (who : Requester) (addr : Addr) (w : UnitWrite) (s : State) : Result :=
  s.onBody fun o b => networkWrite o b who addr.toNat w.data w.ecc

/-- The write-back of a corrected word reaches its memory, in DRAM as traffic of its stack, which must admit it; nothing happens when a
write has reached the word first (R170, R212, R226, R231). -/
def eccWriteBack (o : Own) (b : Body) (a : Nat) : Body :=
  let w := wordSize o.maps a
  let k := a / w * w
  if !b.mem.writeBack.any (·.1 == k) then b
  else
    let done (b : Body) : Body := b.updMem fun m => { m with writeBack := m.writeBack.filter fun x => x.1 != k }
    match locate o.maps k with
    | none => done b
    | some l => if b.board.tripped || !(b.stks.getD l.stack Stack.reset).admits then b else done (b.traffic true [(l, w / 32)])

/-- ECC_WRITE_BACK. -/
def execEccWriteBack (addr : Addr) (s : State) : Result := s.onBody fun o b => eccWriteBack o b addr.toNat

/-- The loaded almanac that declares a region over an address: of several in a partition the one in the lowest slot, resident or not
(DESIGN CHOICE, log entry 21: R173 does not say which of them the fault is for). -/
def declaredBy (b : Body) (a : Nat) : Option (Fin 8 × Fin 4) :=
  (List.finRange 8).findSome? fun p => (List.finRange 4).findSome? fun k =>
    let s := b.slot p k
    if s.loaded && (vallocOf s.image).any (fun v => decide (v.addr ≤ a) && decide (a < v.addr + v.size)) then some (p, k)
    else none

/-- SRAM_SCRUB: the scrubber reads one word of a vat, the cellar or the cave; it corrects, or meets an uncorrectable
error: in a declared region the fault of R171 for that partition, in the steward's cave region a warm reset, elsewhere
the word is zeroed and counted; its write-back is dropped by any newer write to the 64-byte unit (R173). A press is checked only
as it is read. -/
def sramScrub (o : Own) (b : Body) (a : Nat) (ecc : Ecc) : Body :=
  let w := a / 8 * 8
  let srcOf : Nat × Nat :=
    match placeOf o.maps a with
    | .vat c => (0, c)
    | .cellar => (1, (a - cellarBase) / vatSize)
    | _ => (4, 0)
  let bad :=
    let b1 := b.foundBad o w
    if inside (caveBase, 0x10000) w 8 then b1.requestWarm .memory
    else
      match declaredBy b w with
      | some (p, k) => b1.faultJob o p k ftEcc srcOf w 0xFF 0xFFFF
      | none => (b.countUe o w false).updMem (·.zero w 8)
  match placeOf o.maps a with
  | .dram | .press _ | .reserved => b
  | _ =>
    let found := upsetsIn o.maps b.mem.upsets .corrected [(w, 8)]
    if ecc = .bad || b.mem.bad 8 w 8 then bad
    else if ecc = .corrected || found != [] then
      (b.countCe o w).updMem fun m => { m with
        writeBack := m.writeBack ++ [(w, 64)], upsets := m.upsets.filter fun u => u.2 != .corrected || u.1 / 8 * 8 != w }
    else b

/-- SRAM_SCRUB (R173); an uncorrectable error in the steward's own memory asks for a warm reset with SRC 5 (R455; log entry 125). -/
def execSramScrub (addr : ScrubWord) (ecc : Ecc) (s : State) : Result :=
  s.onBody fun o b =>
    match addr with
    | .at_ a => sramScrub o b a.toNat ecc
    | .steward => if ecc = .bad then b.requestWarm .memory else b

/-- MEMORY_ZEROING_COMPLETE: the memory is zeroed; requests that waited act on the zeroed contents (R180). -/
def execMemoryZeroingComplete (z : ZeroTarget) (s : State) : Result :=
  s.onBody fun _ b => b.updMem fun m => { m with zeroing := m.zeroing.filter fun x => x != z }

end Sys2Proof.Machine
end

