-- ==== Sys2Proof/Machine/Seq.lean ====
section
/-! DEFINITION. What the sequencer's entries share: which entry may issue, launching, completion and events, guarded
writes of an entry (R119, R120, R124 to R126, R511). -/

namespace Sys2Proof.Machine

open Sys2Proof

/-- The context that a core holds, when the core is clocked (R451, R497) and not relocking. -/
def Body.holds (b : Body) (c : Fin 32) : Option CtxId :=
  let k := b.core c
  if k.clk = 0 ∨ k.relock ∨ !b.board.modRef then none else k.ctx

/-- Quadrant of a core. -/
def quadOf (c : Fin 32) : Fin 4 := ⟨c.val / 8, by omega⟩

/-- The almanac of a context. -/
def Body.imageOf (b : Body) (x : CtxId) : List Byte := (b.slot x.part x.slot).image

/-- The next entry of a core's list, when the invocation runs, the sequencer neither waits nor has ended nor stands at a pre-emption point
for a known-answer tile, and the entry is of the given kind (R125, R473). -/
def Body.nextAe (b : Body) (c : Fin 32) (kind : Nat) : Option (CtxId × Ae) :=
  match b.holds c with
  | none => none
  | some x =>
    let s := b.slot x.part x.slot
    let cx := (b.core c).cx
    let e := aeOf s.image c.val cx.aeIdx.toNat
    if s.run = .running ∧ cx.seq = .running ∧ cx.waiting = none ∧ !cx.ended ∧ (b.core c).kat = 0 ∧ cx.aeIdx.toNat < aeCount s.image c.val ∧
        e.kind = kind then some (x, e) else none

/-- A launched entry may issue: fewer than 16 are out (R125). -/
def Body.mayLaunch (b : Body) (c : Fin 32) : Bool := decide ((b.core c).cx.launched.length < 16)

/-- The sequencer steps past an entry. -/
def CoreCtx.advance (x : CoreCtx) : CoreCtx := { x with aeIdx := x.aeIdx + 1 }

/-- An entry as it is issued. -/
def Launched.new (x : CoreCtx) (e : Ae) : Launched :=
  ⟨x.aeIdx.toNat, BitVec.ofNat 8 e.kind, BitVec.ofNat 8 e.evt, e.bound, e.ref, 0, x.htag, x.hkind, false⟩

/-- A launched entry: its bound counter starts at zero (R128), its harvest setting is the one now in force (R149). -/
def CoreCtx.launch (x : CoreCtx) (e : Ae) : CoreCtx :=
  { x with
    launched := x.launched ++
      [Launched.new x e]
    aeIdx := x.aeIdx + 1 }

/-- Increment an event of an invocation (R126). -/
def Slot.event (s : Slot) (evt : Nat) : Slot :=
  if evt = 0xFF then s
  else
    let l := s.events ++ List.replicate (evt + 1 - s.events.length) 0
    { s with events := l.modify evt (· + 1) }

/-- An entry of a core completes: it leaves the launched entries and increments its event (R124, R126). -/
def Body.complete (b : Body) (x : CtxId) (c : Fin 32) (idx : Nat) : Body :=
  match (b.core c).cx.launched.find? (·.idx == idx) with
  | none => b
  | some l =>
    (b.updCx c fun k => { k with launched := k.launched.filter fun m => m.idx != idx }).updSlot x.part x.slot
      (·.event l.evt.toNat)

/-! ### The store region (R99, R423, R432) -/

/-- Bytes rounded up to 64 KiB. -/
def up64k (n : Nat) : Nat := ceilDiv n 65536 * 65536

/-- Bytes of a save: KEEP regions, batch-table slots outside them, presses (R168, R432). -/
def saveBytes (img : List Byte) : Nat :=
  let keep := keepRanges img
  let slots := (btRanges img).filter fun r => !keep.any fun k => inside k r.1 r.2
  (((keep ++ slots ++ pressRanges img).map (·.2)).sum)

/-- Store bytes that a loaded almanac takes: its image copy and its save area. -/
def storeNeed (img : List Byte) : Nat := up64k img.length + up64k (saveBytes img)

/-- Where a slot's almanac store begins, its save area behind it: the areas of a partition's loaded slots stand in slot order from the
start of its store region. Where they stand is not stated (DESIGN CHOICE, log entry 113). -/
def Body.storeAt (o : Own) (b : Body) (p : Fin 8) (k : Fin 4) : Nat :=
  (o.prec p).block.storeRange.1 + (((List.finRange 4).filter fun i => decide (i < k) && ((b.slot p i).loaded || (b.slot p i).unload.isSome)).map
    fun i => storeNeed (b.slot p i).image).sum

/-- The image copy of a slot in its partition's store region. -/
def Body.imageArea (o : Own) (b : Body) (p : Fin 8) (k : Fin 4) : Nat × Nat := (b.storeAt o p k, (b.slot p k).image.length)

/-- The save area of a slot. -/
def Body.saveArea (o : Own) (b : Body) (p : Fin 8) (k : Fin 4) : Nat × Nat :=
  (b.storeAt o p k + up64k (b.slot p k).image.length, saveBytes (b.slot p k).image)

/-- Units below unit u of a region that lie on stack j of its set: 16 units a granule, granules in turn (R210). -/
def MapDesc.unitsBelow (d : MapDesc) (u j : Nat) : Nat := u / (16 * d.k) * 16 + min 16 (u % (16 * d.k) - 16 * j)

/-- A long run of whole units moves in one direction: units, bytes under the limit and changes of direction, at each stack and
pseudo-channel (R210, R226, R231). -/
def Body.bulkMove (o : Own) (b : Body) (write : Bool) (r : Nat × Nat) : Body :=
  match o.maps.find? (·.has r.1) with
  | none => b
  | some d =>
    let lo := (r.1 - d.lo) / 64
    let hi := lo + ceilDiv r.2 64
    let pcs := ((List.range (min 64 (ceilDiv (hi - lo) (16 * d.k) + 1))).map fun i => (lo / 16 / d.k + i) % 64).eraseDups
    (List.range d.k).foldl (fun b j =>
      let n := d.unitsBelow hi j - d.unitsBelow lo j
      if n = 0 then b
      else { b with stks := b.stks.modify (d.first + j) fun s =>
          let s1 := pcs.foldl (fun s pc => s.turn pc write) s
          { s1 with
            debt := if s.limit = 0 then 0 else s1.debt + 64 * n * b.board.ceil.toNat
            rd := if write then s1.rd else s1.rd + BitVec.ofNat 64 n
            wr := if write then s1.wr + BitVec.ofNat 64 n else s1.wr } }) b

/-- An area of a store region is written whole: its old errors are gone (R172). -/
def Body.storeWritten (o : Own) (b : Body) (r : Nat × Nat) : Body :=
  (b.bulkMove o true r).updMem fun m => m.zero r.1 r.2

/-! ### What the sequencer reads for an entry (R99, R216) -/

/-- Bytes of the descriptor that a kind of entry names, and the alignment that it must have. -/
def descOf (kind : Nat) : Option (Nat × Nat) :=
  if kind = kTile then some (128, 128)
  else if kind = kVec then some (64, 128)
  else if kind = kXform then some (32, 96)
  else if kind = kColl then some (64, 64)
  else if kind = kMedia ∨ kind = kUpd then some (64, 128)
  else none

/-- The bytes of the almanac store that a core's sequencer reads to issue its next entry: the entry and its descriptor. -/
def Body.fetchReads (o : Own) (b : Body) (c : Fin 32) : List (Nat × Nat) :=
  match b.holds c with
  | none => []
  | some x =>
    let img := b.imageOf x
    let at_ := b.storeAt o x.part x.slot
    let i := (b.core c).cx.aeIdx.toNat
    let e := aeOf img c.val i
    (at_ + aeFirst img c.val + 16 * i, 16) :: ((descOf e.kind).map fun d => (at_ + e.ref, d.2)).toList

/-- An entry is issued, `f` being its own effect: the sequencer first reads it from its almanac store. Reads that their stack does not
admit hold it up (R226), and ones that meet an uncorrectable error reset the partition (R437); else they are counted as LC reads when
the entry goes (R216, R231). -/
def Body.issuing (o : Own) (b : Body) (c : Fin 32) (f : Body → Body) : Body :=
  let reads := b.fetchReads o c
  if !b.flows o reads then b
  else
    match b.holds c, b.firstBad o reads with
    | some x, some w => b.readBad o (entryOf x c (b.core c).cx.aeIdx.toNat) w
    | _, _ =>
      let b1 := f b
      if (b1.core c).cx.aeIdx = (b.core c).cx.aeIdx then b1 else b1.stewardRead o reads

/-! ### Writes of an entry -/

/-- The writes of one operation of an entry, in order: refused requests are logged as one (R19, R511); bytes lost in a poisoned
word raise the fault of R172. -/
def Body.put (o : Own) (b : Body) (x : CtxId) (c : Fin 32) (idx : Nat) (ws : List (Nat × List (Option Byte))) : Body :=
  let r := b.putOrdered o (entryOf x c idx) ws
  let b1 := match r.2.refused with
    | some (st, a) => r.1.logEntry o x.part c idx st a
    | none => r.1
  match r.2.lost with
  | some a => b1.eccFault o (entryOf x c idx) a
  | none => b1

/-- Free bytes: what a memory holds where the spec calls its contents undefined (log entry 2). -/
def freeBytes (n count : Nat) : List Byte := (List.range count).map fun i => BitVec.truncate 8 (Config.freeWord (n + i))

/-- The bytes that the write-out of the tile in a core's engines writes: rows of its true extent, and its flag bits (R114). -/
def Body.finishing (b : Body) (x : CtxId) (c : Fin 32) : List (Nat × Nat) :=
  match (b.core c).cx.tile with
  | some r =>
    let t := tdOf (b.imageOf x) r.td
    let e := t.extents r.len
    if !r.running || t.fmtO == 0 then []
    else
      ((List.range e.1).map fun m =>
        (((t.outBase + (if t.applyO then r.obase else 0) : Nat) + (m : Int) * t.outStride).toNat, e.2.1 * elemBytes t.fmtO)) ++
        match t.ccw.ofs with
        | some f => [(vatBase c.val + f + r.j * ceilDiv (t.m * t.n) 256, ceilDiv ((e.1 - 1) * t.n + e.2.1) 256)]
        | none => []
  | none => []

/-- The results of the tile that finishes after an uncorrectable error in its core are undefined: where its write-out goes, the vat
holds free bytes (R171; the press is zeroed by the teardown). -/
def Body.undefineTile (b : Body) (x : CtxId) (c : Fin 32) : Body :=
  (b.finishing x c).foldl (fun b r =>
    { (b.updMem (·.write 8 r.1 (freeBytes b.free r.2))) with free := b.free + r.2 }) b

/-- An uncorrectable error that a core's own engines, vector unit or accumulate path read (R171). -/
def Body.coreBad (o : Own) (b : Body) (x : CtxId) (c : Fin 32) (idx : Nat) (a : Nat) : Body :=
  (b.undefineTile x c).readBad o (entryOf x c idx) a

/-- What the error-correcting code finds in an entry's operand reads (log entries 26, 112): corrections are counted and written back;
an uncorrectable error, or a poisoned word in the ranges read, faults (R170, R171). The answer's flag says that the entry goes on. -/
def Body.operands (o : Own) (b : Body) (x : CtxId) (c : Fin 32) (idx : Nat) (reads : List (Nat × Nat)) : Body × Bool :=
  match b.firstBad o reads with
  | some w => (b.coreBad o x c idx w, false)
  | none => (b.correctedIn o reads, true)

end Sys2Proof.Machine
end

