-- ==== Sys2Proof/Machine/Fabric.lean ====
section
/-! DEFINITION. The fabric links: configuration, training, blocks in and out, messages (R276 to R301, R416). -/

namespace Sys2Proof.Machine

open Sys2Proof

/-! ### Configuration (R293, R416) -/

/-- The link of a command's ARG0. -/
def linkArg (x : Xnx) : Fin 24 := Fin.ofNat 24 x.arg0

/-- n bytes at an address lie in one DRAM region. -/
def inDram (o : Own) (a n : Nat) : Bool := o.maps.any fun d => d.valid && inside (d.lo, d.size) a n

/-- A link record of FAB_CFG (R416): its reserved bytes, its role. -/
structure LinkRec where
  id   : Nat
  link : Nat
  role : Nat
  rsv  : Nat
  asym : Nat
  deriving DecidableEq, Repr, Inhabited

/-- Read link record i. -/
def linkRecAt (m : Mem) (a i : Nat) : LinkRec :=
  let r := a + 16 * i
  ⟨m.le r 7, m.le (r + 7) 1, m.le (r + 8) 1, m.le (r + 9) 3, m.le (r + 12) 4⟩

/-- The route table at an address: its entries that are not zero. -/
def routeAt (m : Mem) (a : Nat) : List (Nat × W32) :=
  ((List.range 4096).map fun i => (i, BitVec.ofNat 32 (m.le (a + 4 * i) 4))).filter fun e => e.2 != 0

/-- FAB_CFG's rule: accepted only while no link is up, with a table whose own entry is LOCAL and names no link (R293). The
grandmaster's own fabric time is locked, another's waits for its slave port (R300, log entry 35). -/
def fabCfgAct (x : Xnx) (o : Own) (b : Body) : Xres :=
  let dev := xArg x 0 2
  let wc := xArg x 2 1
  let wd := xArg x 3 1
  let gm := xArg x 4 2
  let sync := xArg x 6 1
  let rt := xArg x 8 8
  let lk := xArg x 16 8
  if xArg x 7 1 ≠ 0 then .refused stFormat 0
  else if !inDram o rt 16384 || !inDram o lk 384 then .foreign (if inDram o rt 16384 then lk else rt)
  else if dev ≥ 4096 ∨ gm ≥ 4096 ∨ wc = 0 ∨ wc > 15 ∨ wd = 0 ∨ wd > 15 ∨ !(sync == 0 || decide (249 ≤ sync)) then
    .refused stBounds 0
  else if b.board.tripped then .pending o b
  else
    match b.firstBad o [(rt, 16384), (lk, 384)] with
    | some w =>
      match o.ownerOf w with
      | some p => .done o (b.stewardBad o p w) ftEcc 0 []
      | none => .done o (b.foundBad o w) ftEcc 0 []
    | none =>
      let route := routeAt b.mem rt
      let recs := (List.range 24).map (linkRecAt b.mem lk)
      let own := ((route.find? (·.1 == dev)).elim 0 fun e => e.2.toNat)
      if recs.any (fun r => decide (r.role > 3) || decide (r.link > 23)) then .refused stBounds 0
      else if b.fab.links.any Link.up || own / 2 ^ 25 % 2 == 0 || own % 2 ^ 24 != 0 ||
          route.any (fun e => decide (e.2.toNat ≥ 2 ^ 26)) || recs.any (fun r => r.rsv != 0) then .refused stFormat 0
      else .done o ((b.stewardRead o [(rt, 16384), (lk, 384)]).updFab fun f =>
        { f with
          locked := decide (gm = dev), syncAt := 0, devId := some (BitVec.ofNat 12 dev), wColl := wc, wData := wd, gm := BitVec.ofNat 16 gm, sync := BitVec.ofNat 8 sync,
          route := route,
          cfg := (f.cfg.zip recs).map fun ((c, r) : LinkCfg × LinkRec) =>
            { c with
              expectId := BitVec.ofNat 56 r.id, expectLink := BitVec.ofNat 8 r.link, role := BitVec.ofNat 8 r.role,
              asym := BitVec.ofNat 32 r.asym } }) stOk 0 []

/-- FAB_CFG (R293, R416). -/
def execFabCfg (x : Xnx) (s : State) : Result :=
  s.xnx 0x0301 x .module (x.len == 24) (x.arg0 == 0) (fabCfgAct x)

/-- The configuration of a link. -/
def Body.linkCfg (b : Body) (l : Fin 24) : LinkCfg := b.fab.cfg.getD l.val LinkCfg.reset

/-- The partner is the one expected, or none is (R298). -/
def LinkCfg.expects (c : LinkCfg) (l : Link) : Bool :=
  c.expectId == 0 || (c.expectId == l.peerId && c.expectLink.toNat == l.peerLink.toNat)

/-- LINK_ENABLE's rule: the partner and the round trip decide (R298); a link switched off starts to train, or, without
FAB_REFCLK, when that returns (R497); one still training has no partner yet and is refused (log entry 34). A refusal under R298 sets STATE to 5 or 6 as R298 says, although R11 has
a refused command change no register: the model follows R298 (DESIGN CHOICE, log entry 101). -/
def linkEnableAct (x : Xnx) (o : Own) (b : Body) : Xres :=
  let l := linkArg x
  let k := b.link l
  match k.state with
  | .up => .done o b stOk 0 []
  | .off => .done o (b.updLink l fun y => { y with state := if b.board.fabRef then .training else .off, disabled := false }) stOk 0 []
  | .training | .lost => .refused stBounds 0
  | _ =>
    if !(b.linkCfg l).expects k then .done o (b.updLink l fun y => { y with state := .mismatch, enabled := false }) stBounds 0 []
    else if k.rtt.toNat > 1900 then .done o (b.updLink l fun y => { y with state := .tooLong, enabled := false }) stBounds 0 []
    else .done o (b.updLink l fun y => { y with state := .notReady, enabled := true }) stOk 0 []

/-- LINK_ENABLE (R298, R416). -/
def execLinkEnable (x : Xnx) (s : State) : Result :=
  s.xnx 0x0302 x .module (x.len == 0) (decide (x.arg0 < 24)) (linkEnableAct x)

/-- A link with nothing on it: queues and replay buffer empty. -/
def Link.quiet (l : Link) : Link :=
  { l.fresh with enabled := false, txq := List.replicate 6 [], txLast := List.replicate 6 (false, 0) }

/-- LINK_DISABLE's rule: squelched, STATE 0. -/
def linkDisableAct (x : Xnx) (o : Own) (b : Body) : Xres :=
  .done o (b.updLink (linkArg x) fun y => { y.quiet with state := .off, disabled := true }) stOk 0 []

/-- LINK_DISABLE (R416). -/
def execLinkDisable (x : Xnx) (s : State) : Result :=
  s.xnx 0x0303 x .module (x.len == 0) (decide (x.arg0 < 24)) (linkDisableAct x)

/-- FAB_ADMIT's rule: the admission of the partition; COUNT 0 removes it (R284, R416). -/
def fabAdmitAct (x : Xnx) (o : Own) (b : Body) : Xres :=
  onPart x fun p =>
    let cls := xArg x 0 1
    let n := xArg x 2 2
    let es := (List.range n).map fun i => BitVec.ofNat 16 (xArg x (4 + 2 * i) 2)
    if cls ≥ 4 ∨ xArg x 1 1 ≠ 0 ∨ es.any (fun (w : W16) => decide (w.toNat ≥ 0x8000)) then .refused stFormat 0
    else if n > 1024 then .refused stBounds 0
    else .done o (b.updPart p fun y => { y with admission := if n = 0 then none else some (BitVec.ofNat 2 cls, es) }) stOk 0 []

/-- FAB_ADMIT (R416): LEN follows COUNT. -/
def execFabAdmit (x : Xnx) (s : State) : Result :=
  s.xnx 0x0304 x .part (x.len == 4 + 2 * xArg x 2 2) (x.arg0 == 0) (fabAdmitAct x)

/-- The fabric time as seconds (6 bytes) and nanoseconds (4 bytes), little-endian (R5; log entry 35), and LOCKED. -/
def fabTimeAct (o : Own) (b : Body) : Xres :=
  .done o b stOk 0 (leBytes 6 (b.fab.time / 1000000000) ++ leBytes 4 (b.fab.time % 1000000000) ++
    [if b.fab.locked then 1 else 0])

/-- FAB_TIME (R300, R416). -/
def execFabTime (x : Xnx) (s : State) : Result :=
  s.xnx 0x0305 x .part (x.len == 0) (x.arg0 == 0) fabTimeAct

/-! ### Training (R296 to R298) -/

/-- READY = 1 from both ends: flits start with SEQ 0 and full credits (R296). -/
def Link.ready (l : Link) : Link := if l.state = .notReady ∧ l.enabled then { l.fresh with state := .up } else l

/-- PARTNER_READY (R296). -/
def execPartnerReady (link : Fin 24) (s : State) : Result := s.onBody fun _ b => b.updLink link Link.ready

/-- LINK_TRAINING_COMPLETE: identity, round trip and the kind of training are recorded, with the lanes' order and polarity, the
scrambler seeds and the equaliser coefficients; a full training is saved under the partner's identity and link number (R277, R278,
R296, R297). -/
def execLinkTrainingComplete (link : Fin 24) (peerId : BitVec 56) (peerLink : Fin 24) (t : LaneSetup) (s : State) : Result :=
  s.onBody fun _ b =>
    let k := b.link link
    if k.state ≠ .training ∧ k.state ≠ .lost then b
    else
      let key := (peerId, BitVec.ofNat 5 peerLink.val)
      let saved := (b.linkCfg link).savedKey == some key
      (b.updLink link fun y =>
        { y with
          state := .notReady, saved := saved, rtt := BitVec.ofNat 12 (min t.rtt 4095), trains := y.trains + 1, peerId := peerId,
          peerLink := BitVec.ofNat 5 peerLink.val, enabled := false, reversed := t.reversed, inverted := t.inverted
          rxScr := t.rxSeeds, txScr := t.txSeeds, coeffs := t.coeffs }).updFab fun f =>
        { f with cfg := f.cfg.modify link.val fun c =>
            if saved then c else { c with savedKey := some key, savedCoef := t.coeffs } }

/-! ### Blocks received (R278 to R280, R287, R290) -/

/-- Give granules back to a class's reserved counter up to 128, the rest to the shared one (R287). -/
def giveBack (res : List Nat) (shr cls n : Nat) : List Nat × Nat :=
  let r := min n (128 - res.getD cls 0)
  (res.modify cls (· + r), shr + (n - r))

/-- Take granules: from the shared counter when it holds them, else from the class's; none when neither does (R287). -/
def takeFrom (res : List Nat) (shr cls n : Nat) : Option (List Nat × Nat) :=
  if n ≤ shr then some (res, shr - n) else if n ≤ res.getD cls 0 then some (res.modify cls (· - n), shr) else none

/-- A flit carries payload; one whose TYPE, VC or FILL is reserved carries none (log entry 100). -/
def flitPays (f : Flit) : Bool := f.typ == 1 && f.fill != 0 && decide (f.fill ≤ 25) && f.vc != 3
/-- A flit carries management traffic. -/
def flitMgmt (f : Flit) : Bool := flitPays f && f.vc == 2
/-- A flit's buffer class. -/
def flitCls (f : Flit) : Nat := f.vc.toNat * 2 + (if f.sub then 1 else 0)
/-- A block holds payload. -/
def blockPays (k : Block) : Bool := k.flits.any flitPays

/-- The payload of a flit for a class: the messages it completes wait to be dealt with. Its granules are held while a message of the
class waits, and are free again at once otherwise (R287, R288; log entry 102). -/
def Link.payloadIn (l : Link) (f : Flit) : Link :=
  let c := flitCls f
  let bytes := l.rx.getD c [] ++ f.payload
  let cut := cutMsgs f.sub (bytes.length / 16 + 1) bytes
  let arrived := l.arrived ++ cut.1.map fun m => (c, m)
  let waits := arrived.any fun a => a.1 == c
  { l with
    rx := l.rx.set c cut.2, arrived := arrived
    rxHeld := if waits then l.rxHeld.modify c (· + f.fill) else l.rxHeld
    owed := if waits then l.owed else l.owed.modify c (· + f.fill) }

/-- One flit received: the credits it returns and the granules it uses; none: the partner returns too much or exceeds its
credits (R291). -/
def Link.flitIn (l : Link) (f : Flit) : Option Link :=
  if f.crCnt > l.charged.getD f.crCls 0 then none
  else
    let g := giveBack l.reserved l.shared f.crCls f.crCnt
    let l1 := { l with reserved := g.1, shared := g.2, charged := l.charged.modify f.crCls (· - f.crCnt) }
    if !flitPays f then some l1
    else
      (takeFrom l1.rxRes l1.rxShr (flitCls f) f.fill).map fun t => { l1 with rxRes := t.1, rxShr := t.2 }.payloadIn f

/-- The flits of a block in order. -/
def Link.flitsIn (l : Link) : List Flit → Option Link
  | [] => some l
  | f :: t => (l.flitIn f).bind fun m => m.flitsIn t

/-- Blocks between two sequence numbers, modulo 4,096. -/
def seqDist (a b : BitVec 12) : Nat := (b - a).toNat

/-- ACK releases the held blocks up to it (R290). -/
def Link.ackTo (l : Link) (ack : BitVec 12) : Link :=
  match l.heldBlocks.head? with
  | none => l
  | some h =>
    let n := seqDist h.seq ack + 1
    if n ≤ l.heldBlocks.length then
      { l with heldBlocks := l.heldBlocks.drop n, replayQ := l.replayQ.filter fun k => seqDist h.seq k.seq ≥ n }
    else l

/-- A NAK replays the blocks held after ACK; a NAK while they are being replayed asks for nothing more (R290). How often in a row
the same block is asked for is counted (R291). -/
def Link.nakIn (l : Link) (now : Nat) : Link :=
  match l.replayQ, l.heldBlocks with
  | [], h :: _ =>
    { l with
      replayQ := l.heldBlocks, replay := satAdd l.replay l.heldBlocks.length
      replays := now :: l.replays.filter fun t => now < t + 1000000
      nakSeen := some (h.seq, match l.nakSeen with
        | some (q, n) => if q = h.seq then n + 1 else 1
        | none => 1) }
  | _, _ => l

/-- Too many replays: more than 64 in 1 ms, or one block asked for eight times in a row (R291). -/
def Link.replaysOut (l : Link) : Bool := decide (l.replays.length > 64) || l.nakSeen.any fun x => decide (x.2 ≥ 8)

/-- A block that is not delivered: a NAK is due, and counted, when it is the first or the block that was asked for fails (R290,
R291). -/
def Link.reject (l : Link) (again : Bool) : Link :=
  if again || !l.nakOut then { l with nakOut := true, nakDue := true, nakRun := l.nakRun + 1 } else l

/-- The receiver's next SEQ. -/
def Link.expected (l : Link) : BitVec 12 := if l.rxAny then l.rxSeq + 1 else 0

/-- What the headers and payload of a block taken bring: ACK, NAK, credits, messages; none when the link is lost by it. -/
def Link.take (l : Link) (now : Nat) (k : Block) : Option Link :=
  let a := if k.ackv then l.ackTo k.ack else l
  if k.nak then (if (a.nakIn now).replaysOut then none else (a.nakIn now).flitsIn k.flits) else a.flitsIn k.flits

/-- A block not delivered: the link after it; at the eighth NAK in a row it is lost (R291). -/
def Link.refuse (l : Link) (again : Bool) : Option Link :=
  if (l.reject again).nakRun ≥ 8 then none else some (l.reject again)

/-- What the decoder's answer brings: the link after it, or none when the link is lost by it. Between a failed block and the one that
was asked for, every other block is discarded whole, idle ones with their credits too (R290, log entry 86). -/
def Link.blockIn (l : Link) (now : Nat) : Option (Nat × Block) → Option Link
  | none => l.refuse true
  | some (e, k) =>
    let m := { l with fecSym := satAdd l.fecSym e }
    if blockPays k then
      if k.seq = m.expected then { m with rxSeq := k.seq, rxAny := true, nakOut := false, nakRun := 0, nakDue := false }.take now k
      else m.refuse false
    else if m.nakOut then some m
    else m.take now k

/-! ### Blocks sent (R282, R287, R289, R290) -/

/-- The message that a class sends next: forwarded and local traffic alternate, local requesters take turns by source
quadrant (R289). -/
def nextMsg (last : Bool × Nat) (q : List (Bool × Msg)) : Option (Bool × Msg) :=
  let quadOfMsg (m : Bool × Msg) : Nat := m.2.core.toNat / 8 % 4
  let fwd := q.find? (·.1)
  let loc := (List.range 4).findSome? fun i => q.find? fun m => !m.1 && quadOfMsg m == (last.2 + 1 + i) % 4
  if last.1 then loc <|> fwd else fwd <|> loc

/-- Move a class's next message to the front of its queue, when none is under way. -/
def Link.frontMsg (l : Link) (c : Nat) : Link :=
  if l.txSent.getD c 0 ≠ 0 then l
  else
    match nextMsg (l.txLast.getD c (false, 0)) (l.txq.getD c []) with
    | none => l
    | some m =>
      { l with
        txq := l.txq.modify c fun q => m :: q.erase m
        txLast := l.txLast.modify c fun t => (m.1, if m.1 then t.2 else m.2.core.toNat / 8 % 4) }

/-- Fill up to n granules of a flit from a class, messages back to back: the link after it and the bytes. -/
def Link.fill (c : Nat) : (n : Nat) → (fuel : Nat) → Link → Link × List Byte
  | _, 0, l => (l, [])
  | 0, _, l => (l, [])
  | n, fuel + 1, l =>
    let l1 := l.frontMsg c
    match l1.txq.getD c [] with
    | [] => (l1, [])
    | m :: t =>
      let sent := l1.txSent.getD c 0
      let rest := (msgBytes m.2).drop (8 * sent)
      if msgGranules m.2 - sent ≤ n then
        let r := Link.fill c (n - (msgGranules m.2 - sent)) fuel { l1 with txq := l1.txq.set c t, txSent := l1.txSent.set c 0 }
        (r.1, rest ++ r.2)
      else ({ l1 with txSent := l1.txSent.modify c (· + n) }, rest.take (8 * n))

/-- Granules that a class has to send, up to a flit. -/
def Link.waiting (l : Link) (c : Nat) : Nat :=
  min 25 (((l.txq.getD c []).map fun m => msgGranules m.2).sum - l.txSent.getD c 0)

/-- The granules of the flit that a class can send now: what it has to send, or less where its credits hold less (R287, R289). -/
def Link.sendable (l : Link) (c : Nat) : Nat := min (l.waiting c) (max l.shared (l.reserved.getD c 0))

/-- A class can send a flit now. -/
def Link.canSend (l : Link) (c : Nat) : Bool := l.sendable c != 0

/-- The class of the next flit slot: management within its quota, then collectives and data by weighted round-robin, then
management beyond it (R289). Of two sub-channels the lower goes first (log entry 36). -/
def Link.arbiter (l : Link) (wColl wData : Nat) : Option Nat :=
  let vc (v : Nat) : Option Nat := [2 * v, 2 * v + 1].find? l.canSend
  let quota := decide (l.mgmtUsed.countP id < 100)
  let coll := vc 1
  let data := vc 0
  let turn := if l.wrr % (wColl + wData) < wColl then coll <|> data else data <|> coll
  if quota then vc 2 <|> turn else turn <|> vc 2

/-- The credits that the next flit returns: the first class that owes some. -/
def Link.credits (l : Link) : Nat × Nat :=
  match (List.range 6).find? fun c => l.owed.getD c 0 ≠ 0 with
  | some c => (c, min (l.owed.getD c 0) 8191)
  | none => (0, 0)

/-- One flit slot: the flit sent and the link after it. -/
def Link.flitOut (l : Link) (wColl wData : Nat) (idle : Bool) : Link × Flit :=
  let cr := l.credits
  let g := giveBack l.rxRes l.rxShr cr.1 cr.2
  let l1 := { l with owed := l.owed.modify cr.1 (· - cr.2), rxRes := g.1, rxShr := g.2 }
  let used (m : Bool) (x : Link) : Link := { x with mgmtUsed := (m :: x.mgmtUsed).take 2000 }
  match (if idle then none else l1.arbiter wColl wData) with
  | none => (used false l1, ⟨0, 0, false, 0, cr.1, cr.2, []⟩)
  | some c =>
    let f := Link.fill c (l1.sendable c) (25 + 1) l1
    let n := f.2.length / 8
    let t := (takeFrom f.1.reserved f.1.shared c n).getD (f.1.reserved, f.1.shared)
    let l2 := { f.1 with reserved := t.1, shared := t.2, charged := f.1.charged.modify c (· + n) }
    let l3 := if c < 4 then { l2 with wrr := l2.wrr + 1 } else l2
    (used (decide (c ≥ 4)) l3, ⟨1, BitVec.ofNat 2 (c / 2), c % 2 == 1, n, cr.1, cr.2, f.2⟩)

/-- n flit slots. -/
def Link.flitsOut (wColl wData : Nat) (idle : Bool) : Nat → Link → Link × List Flit
  | 0, l => (l, [])
  | n + 1, l =>
    let r := l.flitOut wColl wData idle
    let t := Link.flitsOut wColl wData idle n r.1
    (t.1, r.2 :: t.2)

/-- One block slot of a link that is up: a block being replayed first; no new payload while 256 are held (R289, R290). A NAK that is due
goes in one new block; held with it, it goes again when that block is replayed while the failure stands (R290, log entry 86). -/
def Link.blockOut (l : Link) (wColl wData : Nat) : Link × Block :=
  match l.replayQ with
  | k :: t => ({ l with replayQ := t, mgmtUsed := ((k.flits.map flitMgmt).reverse ++ l.mgmtUsed).take 2000 }, { k with ack := l.rxSeq, ackv := l.rxAny, nak := k.nak && l.nakOut })
  | [] =>
    let r := Link.flitsOut wColl wData (decide (l.heldBlocks.length ≥ 256)) 5 l
    let k : Block := ⟨if r.2.any flitPays then l.seqNext else l.seqNext - 1, l.rxSeq, l.rxAny, l.nakDue, r.2⟩
    let m := { r.1 with nakDue := false }
    if blockPays k then ({ m with seqNext := l.seqNext + 1, heldBlocks := l.heldBlocks ++ [k] }, k) else (m, k)

/-- BLOCK_TRANSMIT: a link that is not up sends training blocks while its transmitter is on: the fabric identity, the link's number,
READY and a round-trip probe, which is a free value (R289, R296; log entry 2). -/
def execBlockTransmit (link : Fin 24) (s : State) : Result :=
  s.onBody fun _ b =>
    let l := b.link link
    match l.state with
    | .off => b
    | .up =>
      let r := l.blockOut b.fab.wColl b.fab.wData
      (b.updLink link fun _ => r.1.spoken r.2).emit (.block link (r.1.encode r.2))
    | _ =>
      { b with free := b.free + 1 }.emit
        (.training link (Config.fabricId b.board.serial) (l.enabled && l.state == LinkState.notReady) (Config.freeWord b.free))

/-! ### Messages (R281 to R285, R294, R299) -/

/-- The message that waits first in its class is taken up: the receiver frees its granules and owes them (R287); none where the
message is not the first of a class. -/
def Link.takeMsg (l : Link) (m : Msg) : Option Link :=
  let firsts := (List.range 6).filterMap fun c => l.arrived.find? fun a => a.1 == c
  (firsts.find? fun a => a.2 == m).map fun a =>
    let rest := l.arrived.erase a
    let held := l.rxHeld.getD a.1 0
    let n := if rest.any (fun r => r.1 == a.1) then min (msgGranules m) held else held
    { l with arrived := rest, rxHeld := l.rxHeld.modify a.1 (· - n), owed := l.owed.modify a.1 (· + n) }

/-- A message that arrived at a module which is not its destination: HOPS, then the route (R294). -/
def Body.forward (b : Body) (l : Fin 24) (m : Msg) : Body :=
  if m.hops ≤ 1 then b.discard l else b.route (some l) { m with hops := m.hops - 1 }

/-- Deal with a message that waits first in its class, on a link that is lost too (R292): a malformed one is discarded (R285), one
for another device is forwarded, one for this device is given to its rule. A command that is not for the message's kind leaves it. -/
def Body.arrive (b : Body) (l : Fin 24) (m : Msg) (mine : Bool) (here : Body → Body) : Body :=
  match (b.link l).takeMsg m with
  | none => b
  | some k =>
    let b1 := b.updLink l fun _ => k
    if !msgFormed m then b1.discard l
    else if !mine then b
    else if routeLocal (b1.fab.entry m.dstDev.toNat) then here b1
    else b1.forward l m

/-- REFUSED_IDLE (R285). -/
def stIdle : W16 := 0x0108

/-- The answer to a refused message (R284). -/
def respFor (b : Body) (m : Msg) (st : W16) : Msg where
  good := true
  op := 6
  evt := 0xFF
  dstDev := m.srcDev
  dstPart := m.srcPart
  srcDev := b.fab.devId.getD 0
  srcPart := m.dstPart
  addr := BitVec.ofNat 44 st.toNat
  core := m.core
  hops := 64
  sub := false
  data := []

/-- The partition admits a message's class and source (R284). -/
def Part.admits (p : Part) (m : Msg) : Bool :=
  match p.admission with
  | none => false
  | some (cls, srcs) =>
    cls.toNat.testBit (if m.op = 4 then 1 else 0) &&
      srcs.contains (BitVec.ofNat 16 (m.srcPart.val * 4096 + m.srcDev.toNat))

/-- The slot whose invocation a fabric event counts for: the first that runs or is pre-empted; one whose INVOKE waits for a save or is
still making it resident has not begun (R284). -/
def Body.eventSlot (b : Body) (p : Fin 8) : Option (Fin 4) :=
  (List.finRange 4).find? fun k =>
    (b.slot p k).invoke.isSome && (b.slot p k).run != .saving && !((b.slot p k).run == .restoring && !(b.slot p k).resuming)

/-- Why a WRITE or COLL is refused, with the first refused address: admission, world map, invocation (R284), active
batch-table slots (R119). -/
def fabricCheck (o : Own) (b : Body) (l : Fin 24) (m : Msg) : Option (W16 × Nat) :=
  let a := m.addr.toNat
  if !(b.part m.dstPart).admits m then some (stWorld, a)
  else if (netCheck o b (.fabric m.dstPart l) a m.data.length).isSome then some (stWorld, a)
  else if m.evt ≠ 0xFF ∧ (b.eventSlot m.dstPart).isNone then some (stIdle, a)
  else (protectedHit b a m.data.length).map fun x => (stBounds, x)

/-- Every core of a context whose WAIT is on an event learns that a fabric message has counted on it (R325). -/
def Body.noteArrival (b : Body) (x : CtxId) (evt : Byte) : Body :=
  { b with cores := b.cores.map fun c =>
      if c.ctx == some x && (c.cx.waiting.map (·.evt)) == some evt then { c with cx := { c.cx with fabSeen := true } } else c }

/-- A message that fails a check is discarded whole: the refusal is logged and answered with a RESP (R284). -/
def Body.refuseMsg (o : Own) (b : Body) (l : Fin 24) (m : Msg) (st : W16) (a : Nat) : Body :=
  (b.logRefusal o m.dstPart st (3, l.val) a).route none (respFor b m st)

/-- The started collectives of a partition learn what a COLL message has filled (R319). -/
def Body.noteLanded (b : Body) (m : Msg) : Body :=
  if m.op = 4 then
    b.updPart m.dstPart fun y =>
      { y with collRuns := y.collRuns.map fun r => if r.started then { r with landed := r.landed ++ [(m.addr.toNat, m.data.length)] } else r }
  else b

/-- A WRITE or COLL for this device: written whole and its event counted, or refused whole with a RESP (R283, R284). -/
def fabricStore (o : Own) (l : Fin 24) (m : Msg) (b : Body) : Body :=
  match fabricCheck o b l m with
  | some (st, a) => b.refuseMsg o l m st a
  | none =>
    let b1 := (b.storeBytes o m.addr.toNat m.data).noteLanded m
    match b.eventSlot m.dstPart with
    | some k =>
      if m.evt = 0xFF then b1
      else (b1.noteArrival ⟨m.dstPart, k⟩ m.evt).updSlot m.dstPart k fun s => s.event m.evt.toNat
    | none => b1

/-- A message for this device whose memory accepts nothing now, tripped or at its traffic limit: its class stalls (R226, R227,
R288). -/
def Body.stalls (o : Own) (b : Body) (m : Msg) : Bool :=
  routeLocal (b.fab.entry m.dstDev.toNat) && !b.flows o [(m.addr.toNat, m.data.length)]

/-- FABRIC_WRITE (R283, R284). -/
def execFabricWrite (link : Fin 24) (m : Msg) (s : State) : Result :=
  s.onBody fun o b => if b.stalls o m then b else b.arrive link m (m.op == 1) (fabricStore o link m)

/-- FABRIC_COLL (R284, R312). -/
def execFabricColl (link : Fin 24) (m : Msg) (s : State) : Result :=
  s.onBody fun o b => if b.stalls o m then b else b.arrive link m (m.op == 4) (fabricStore o link m)

/-- The first uncompleted COLL entry of a core. -/
def Body.collEntry (b : Body) (c : Fin 32) : W16 :=
  (((b.core c).cx.launched.find? fun l => l.kind.toNat == kColl).map fun l => BitVec.ofNat 16 l.idx).getD 0xFFFF

/-- A RESP for this device: FAULT_LINK is recorded; the invocation whose entry sent the message halts with the status of
the RESP, other invocations with COLL entries with FAULT_LINK (R284, R437). -/
def fabricRefused (o : Own) (l : Fin 24) (m : Msg) (b : Body) : Body :=
  let p := m.dstPart
  let st : W16 := BitVec.ofNat 16 m.addr.toNat
  let c : Fin 32 := Fin.ofNat 32 m.core.toNat
  let b1 := b.faultEvent o p ftLink (3, l.val) l.val
  let b2 := match (b.core c).ctx with
    | some x =>
      if x.part = p ∧ (b.slot p x.slot).invoke.isSome then (b1.haltCore c).teardown o p x.slot st m.core (b.collEntry c) else b1
    | none => b1
  (List.finRange 4).foldl (fun b k =>
    if (b.slot p k).invoke.isSome && hasColl (b.slot p k).image then b.teardown o p k ftLink 0xFF 0xFFFF else b) b2

/-- FABRIC_RESP (R284). -/
def execFabricResp (link : Fin 24) (m : Msg) (s : State) : Result :=
  s.onBody fun o b => b.arrive link m (m.op == 6) (fabricRefused o link m)

/-- A management message for this device, and the type its command deals with: a type that R299 does not list is discarded and
counted. -/
def Body.arriveMgmt (b : Body) (l : Fin 24) (m : Msg) (typ : Nat) (here : Body → Body) : Body :=
  let t := m.addr.toNat % 256
  let other := t = 0 ∨ t > 3
  b.arrive l m (m.op == 5 && (decide other || t == typ)) fun b => if other then b.discard l else here b

/-! ### Loss of a link; blocks received (R280, R290 to R292) -/

/-- The messages wholly received on a link are dealt with in order, each class up to one that its memory cannot take yet; management
messages for this device keep waiting for their commands (R288, R292 step 2). -/
def Body.deliver (o : Own) (b : Body) (l : Fin 24) : Body :=
  (b.link l).arrived.foldl (fun (b : Body) ((_, m) : Nat × Msg) =>
    if b.stalls o m then b
    else b.arrive l m (m.op != 5 || !routeLocal (b.fab.entry m.dstDev.toNat))
      (if m.op = 6 then fabricRefused o l m else fabricStore o l m)) b

/-- A link is lost: what it held is discarded, what it has wholly received is delivered, LOST counts, it retrains, and every partition
with a fabric configuration has FAULT_LINK (R292). -/
def Body.loseLink (o : Own) (b : Body) (l : Fin 24) : Body :=
  let b1 := (b.updLink l Link.lose).deliver o l
  (List.finRange 8).foldl (fun b p => if (b.part p).admission.isSome then b.faultLink o p l.val else b) b1

/-- Lose a link that is up. -/
def loseUp (o : Own) (b : Body) (l : Fin 24) : Body := if (b.link l).up then b.loseLink o l else b

/-- LANE_LOCK_LOSS (R291). -/
def execLaneLockLoss (link : Fin 24) (s : State) : Result := s.onBody fun o b => loseUp o b link

/-- ACK_TIMEOUT: blocks are held and ACK made no progress (R291). -/
def execAckTimeout (link : Fin 24) (s : State) : Result :=
  s.onBody fun o b => if (b.link link).heldBlocks = [] then b else loseUp o b link

/-- TRAINING_BLOCK_RECEIVE: seen on a link that is up it declares the loss; one with READY = 1 lets an enabled link start
(R291, R296). -/
def execTrainingBlockReceive (link : Fin 24) (_peerId : BitVec 56) (_peerLink : Fin 24) (ready : Bool) (s : State) : Result :=
  s.onBody fun o b =>
    if (b.link link).up then b.loseLink o link else if ready then b.updLink link Link.ready else b

/-- BLOCK_RECEIVE: the bytes of the four lanes; nothing is accepted before both ends are ready (R277 to R280, R290, R296). -/
def execBlockReceive (link : Fin 24) (lanes : List (List Byte)) (s : State) : Result :=
  s.onBody fun o b =>
    let l := b.link link
    if !l.up then b
    else
      match (l.heard lanes).blockIn b.fab.time (l.decode lanes) with
      | some m => b.updLink link fun _ => m
      | none => b.loseLink o link

end Sys2Proof.Machine
end

