-- ==== Sys2Proof/Machine/Harvest.lean ====
section
/-! DEFINITION. The harvest units: observation, accumulators, flushes (R148 to R156). -/

namespace Sys2Proof.Machine

open Sys2Proof

/-- Pairwise tree over a list whose length is a power of two (R143): n halvings. -/
def treeSum : Nat → List W32 → W32
  | 0, l => l.headD 0
  | n + 1, l =>
    let rec pairs : List W32 → List W32
      | a :: b :: t => fadd a b :: pairs t
      | [a] => [a]
      | [] => []
    treeSum n (pairs l)

/-- The sum of up to 256 lane values, masked lanes +0. -/
def chunkSum (l : List W32) : W32 := treeSum 8 (l ++ List.replicate (256 - l.length) 0)

/-- The larger of two F32 values, NaN propagating; of two zeros the positive one. -/
def fmax (a b : W32) : W32 :=
  let x := f32 a
  let y := f32 b
  if x.isNan ∨ y.isNan then 0x7FC00000
  else if x.lt y then b else if y.lt x then a else if x.isZero ∧ x.isNeg then b else a
/-- The smaller of two F32 values. -/
def fmin (a b : W32) : W32 :=
  let x := f32 a
  let y := f32 b
  if x.isNan ∨ y.isNan then 0x7FC00000
  else if x.lt y then a else if y.lt x then b else if x.isZero ∧ x.isNeg then a else b

/-- The magnitude of an F32 word. -/
def fabs (a : W32) : W32 := a &&& 0x7FFFFFFF

/-- An accumulator with nothing observed. -/
def HarvAcc.new (tag kind : Byte) : HarvAcc := ⟨tag, kind, 0, 0, 0, 0, 0, 0⟩

/-- A group's sum of squares added to SSQ by R69; a square or a sum that overflows makes SSQ infinite, and it stays so (R150). -/
def addSsq (p : Pair) (x : W32) : Pair :=
  let r := p.add x
  if isFinite p.hi && isFinite x && isFinite r.hi then r else ⟨0x7F800000, 0⟩

/-- Up to 256 elements observed (R150). -/
def HarvAcc.group (h : HarvAcc) (l : List W32) : HarvAcc :=
  let fin := l.filter isFinite
  let p := addSsq ⟨h.ssqHi, h.ssqLo⟩ (chunkSum (l.map fun x => if isFinite x then fmul x x else 0))
  { h with
    ssqHi := if fin = [] then h.ssqHi else p.hi
    ssqLo := if fin = [] then h.ssqLo else p.lo
    maxAbs := fin.foldl (fun m x => fmax m (fabs x)) h.maxAbs
    nf := satAdd h.nf (l.length - fin.length)
    count := h.count + BitVec.ofNat 64 fin.length }

/-- Elements observed in write order, in groups of 256. -/
def HarvAcc.observe (h : HarvAcc) (l : List W32) : Nat → HarvAcc
  | 0 => h
  | n + 1 => if l = [] then h else (h.group (l.take 256)).observe (l.drop 256) n

/-- Elements observed under a setting: nothing while it is off (R149). -/
def harvest (hs : List HarvAcc) (tag kind : Byte) (l : List W32) : List HarvAcc :=
  if kind = 0 ∨ l = [] then hs
  else
    let n := l.length / 256 + 1
    if hs.any (·.tag == tag) then hs.map fun h => if h.tag = tag then h.observe l n else h
    else hs ++ [(HarvAcc.new tag kind).observe l n]

/-- A harvest record (R153). -/
def HarvAcc.record (h : HarvAcc) (src seq : Nat) : List Byte :=
  [h.tag, h.kind, BitVec.ofNat 8 src, 0] ++ leBytes 4 seq ++ leBytes 4 h.ssqHi.toNat ++ leBytes 4 h.ssqLo.toNat ++
    leBytes 4 h.maxAbs.toNat ++ leBytes 4 h.nf.toNat ++ leBytes 8 h.count.toNat ++ leBytes 8 h.fh64.toNat ++ List.replicate 24 0

/-- Write one accumulator's record into partition p's table; SEQ counts this flush too. -/
def Body.flushOne (o : Own) (b : Body) (p : Fin 8) (tab src : Nat) (h : HarvAcc) : Body :=
  let key := h.tag.toNat * 36 + src
  let seq : W32 := (((b.part p).harvSeq.find? (·.1 == key)).elim 0 (·.2)) + 1
  ((serveOlder o b (tab + key * 64) 64).storeBytes o (tab + key * 64) (h.record src seq.toNat)).updPart p fun x =>
    { x with harvSeq := (key, seq) :: x.harvSeq.filter (·.1 != key) }

/-- Write every live accumulator's record, by ascending tag; none is written without a table (R152). -/
def Body.flushAll (o : Own) (b : Body) (p : Fin 8) (src : Nat) (hs : List HarvAcc) : Body :=
  match (b.part p).harvTab with
  | none => b
  | some tab => (sortBy (fun (a c : HarvAcc) => a.tag.toNat ≤ c.tag.toNat) hs).foldl (fun b h => b.flushOne o p tab src h) b

/-- The counters of a flush: FLUSHED and LAST_TAG with a table, DROP without (R152, R156). -/
def flushCount (tab : Bool) (hs : List HarvAcc) (drop flushed : W16) (last : Byte) : W16 × W16 × Byte :=
  if tab then (drop, flushed + BitVec.ofNat 16 hs.length,
    ((sortBy (fun (a c : HarvAcc) => a.tag.toNat ≤ c.tag.toNat) hs).getLast?).elim last (·.tag))
  else (satAdd drop hs.length, flushed, last)

/-- A core's press-side unit flushes. -/
def Body.flushCore (o : Own) (b : Body) (p : Fin 8) (c : Fin 32) : Body :=
  let k := b.core c
  let hs := k.cx.harv
  let n := flushCount (b.part p).harvTab.isSome hs k.drop k.flushed k.lastTag
  (b.flushAll o p c.val hs).updCore c fun k =>
    { k with drop := n.1, flushed := n.2.1, lastTag := n.2.2, cx := { k.cx with harv := [] } }

/-- A quadrant's update-path unit flushes the accumulators of a context. -/
def Body.flushQuad (o : Own) (b : Body) (x : CtxId) (q : Fin 4) : Body :=
  let k := b.quad q
  let hs := (k.harv.filter (·.1 == x)).map (·.2)
  let n := flushCount (b.part x.part).harvTab.isSome hs k.drop k.flushed k.lastTag
  (b.flushAll o x.part (32 + q.val) hs).updQuad q fun k =>
    { k with drop := n.1, flushed := n.2.1, lastTag := n.2.2, harv := k.harv.filter (·.1 != x) }

/-- The records that a core's flush writes can move: no stack of theirs holds them up (R226, R227). -/
def Body.flushFlows (o : Own) (b : Body) (p : Fin 8) (c : Fin 32) : Bool :=
  match (b.part p).harvTab with
  | none => true
  | some tab => b.flows o ((b.core c).cx.harv.map fun h => (tab + (h.tag.toNat * 36 + c.val) * 64, 64))

/-- HARVEST_FLUSH: the oldest HFL flush of a core, once no earlier entry with a harvest setting has a write-out to come
(R152) and its writes are admitted (R226). -/
def harvestFlush (o : Own) (b : Body) (c : Fin 32) : Body :=
  match b.holds c, (b.core c).cx.flushes with
  | some x, f :: t =>
    if ((b.core c).cx.launched.any fun l => decide (l.idx < f) && l.hkind != 0 && l.kind == 1) || !b.flushFlows o x.part c then b
    else (b.flushCore o x.part c).updCx c fun k => { k with flushes := t }
  | _, _ => b

/-- HARVEST_FLUSH. -/
def execHarvestFlush (core : Fin 32) (s : State) : Result := s.onBody fun o b => harvestFlush o b core

/-- The F32 values of written codes of a format; a pair gives its curd (R150). -/
def widen (fmt : Nat) (bytes : List Byte) : W32 :=
  if fmt = 9 ∨ fmt = 10 then BitVec.ofNat 32 (field bytes 0 4) else toF32 (elemNum fmt (ofLe bytes))

/-- The harvest setting that a launched entry carries. -/
def CoreCtx.setting (x : CoreCtx) (idx : Nat) : Byte × Byte :=
  ((x.launched.find? (·.idx == idx)).map fun l => (l.htag, l.hkind)).getD (0, 0)

/-- A core's press-side unit observes written elements under an entry's setting (R148, R149). -/
def Body.observe (b : Body) (c : Fin 32) (set : Byte × Byte) (vals : List W32) : Body :=
  b.updCx c fun k => { k with harv := harvest k.harv set.1 set.2 vals }

end Sys2Proof.Machine
end

