-- ==== Sys2Proof/Machine/Tile.lean ====
section
/-! DEFINITION. Tiles: operands, plane-set expansion, lane results, the press, list pieces, leaps and write-outs (R41 to
R44, R55 to R66, R74 to R91, R107 to R123). -/

namespace Sys2Proof.Machine

open Sys2Proof

/-! ### Operand elements -/

/-- The element at an address. -/
def Mem.elem (m : Mem) (fmt : Nat) (a : Int) : Num := elemNum fmt (m.le a.toNat (elemBytes fmt))

/-- The input position of a convolution row and tap (R86 to R89): image coordinates, or none where the broadcast operand is
gated to zero. -/
def Walk.position (w : Walk) (m t : Nat) : Option (Nat × Nat × Nat) :=
  let q := w.outAt (w.start + m)
  let co (o s k d p ext : Nat) : Option Nat :=
    let v : Int := (o * s + k * d : Nat) - (p : Int)
    if 0 ≤ v ∧ v < ext then some v.toNat else if w.zero then none else some (min v.toNat (ext - 1))
  match co q.1 w.sd (t / (w.kw * w.kh)) w.dd w.pd w.inD, co q.2.1 w.sh (t / w.kw % w.kh) w.dh w.ph w.inH,
      co q.2.2 w.sw (t % w.kw) w.dw w.pw w.inW with
  | some z, some y, some x => some (z, y, x)
  | _, _, _ => none

/-- The address of a position in the held region (R88). -/
def Td.posAddr (t : Td) (base : Nat) (p : Nat × Nat × Nat) : Int :=
  let w := t.walk
  (base : Int) + (((p.1 : Int) - w.heldZ) * (w.heldH * w.heldW : Nat) + ((p.2.1 : Int) - w.heldY) * w.heldW +
    ((p.2.2 : Int) - w.heldX)) * ((t.k * elemBytes t.fmtA : Nat) : Int)

/-- The broadcast element of row m at stored depth k; none: gated to zero. -/
def Td.bcast (t : Td) (mem : Mem) (base m k : Nat) : Option Num :=
  if t.conv then
    (t.walk.position m (k / t.k)).map fun p => mem.elem t.fmtA (t.posAddr (t.aBase + base) p + (k % t.k * elemBytes t.fmtA : Nat))
  else some (mem.elem t.fmtA ((t.aBase + base : Nat) + (m : Int) * t.aStride + (k * elemBytes t.fmtA : Nat)))

/-- The dense lane element of column n at stored depth k (R86, R93, R103). -/
def Td.lane (t : Td) (mem : Mem) (base n k : Nat) : Num :=
  let d := if t.conv && t.rind then k / t.k * t.kTrue + k % t.k else k
  mem.elem t.fmtW ((t.wBase + base : Nat) + (n : Int) * signed32 t.wCol + (d * elemBytes t.fmtW : Nat))

/-! ### Lane results and the press (R42 to R44, R64, R65, R69) -/

/-- The eight products of a slice; `none` gates a product to zero. -/
abbrev Slice := List (Option (Num × Num))

/-- The lane result of an 8-bit pair: exact products, exact sum, one rounding. -/
def laneEight (s : Slice) : Num :=
  s.foldl (fun acc p => acc.add (match p with | some (x, y) => x.mul y | none => .fin false 0 0)) (.fin false 0 0)

/-- The lane result of the B16 pair: rounded products in a fixed tree. -/
def laneB16 (s : Slice) : W32 :=
  let p (i : Nat) : W32 := match (s[i]?).getD none with | some (x, y) => toF32 (x.mul y) | none => 0
  fadd (fadd (fadd (p 0) (p 1)) (fadd (p 2) (p 3))) (fadd (fadd (p 4) (p 5)) (fadd (p 6) (p 7)))

/-- No operand of the slice is an infinity or a NaN. -/
def sliceFinite (s : Slice) : Bool := s.all fun p => match p with | some (x, y) => x.finite && y.finite | none => true

/-- A press element being accumulated: its value, times it turned non-finite from finite operands, NaN-scale results. -/
structure Acc where
  v    : Pair
  ovf  : Nat
  nfIn : Nat
  deriving DecidableEq, Repr

/-- Add a value into a press element (R44, R69); `clean`: its operands are finite. -/
def Acc.add (a : Acc) (pair : Bool) (x : W32) (clean : Bool) : Acc :=
  let v := if pair then a.v.add x else ⟨fadd a.v.hi x, 0⟩
  { a with v := v, ovf := a.ovf + if isFinite a.v.hi && !isFinite v.hi && clean then 1 else 0 }

/-- The outlier products of a block (R65): the broadcast element by depth, none where no product is formed. -/
def Acc.outliers (a : Acc) (pair : Bool) (bc : Nat → Option Num) (l : List (Nat × W16)) : Acc :=
  l.foldl (fun a e =>
    match bc e.1 with
    | none => a
    | some x =>
      let y := Fmt.b16.decode e.2.toNat
      a.add pair (toF32 (x.mul y)) (x.finite && y.finite)) a

/-- A stored depth is read: below the true depth, or in a convolution below the true channels (R112). -/
def Td.reads (t : Td) (depth k : Nat) : Bool := if t.conv then decide (k % t.k < t.kTrue) else decide (k < depth)

/-- The first stored depth of each slice that holds a true depth, ascending (R76, R86). -/
def Td.slices (t : Td) (depth : Nat) : List Nat :=
  if t.conv then (List.range t.walk.taps).flatMap fun i => (List.range (ceilDiv t.kTrue 8)).map fun j => i * t.k + 8 * j
  else (List.range (ceilDiv depth 8)).map (8 * ·)

/-- The operands of a piece: memory, the bases its list entry adds, its true extents, and its plane-set. -/
structure Piece where
  t    : Td
  mem  : Mem
  base : Nat
  ext  : Nat × Nat × Nat
  ps   : Option PlaneSet

/-- BASE as the TD applies it to the activation. -/
def Piece.aAdd (p : Piece) : Nat := if p.t.applyA then p.base else 0
/-- BASE as the TD applies it to a dense weight. -/
def Piece.wAdd (p : Piece) : Nat := if p.t.applyW then p.base else 0

/-- The broadcast element of row m that is read at stored depth k. -/
def Piece.a (p : Piece) (m k : Nat) : Option Num :=
  if p.t.reads p.ext.2.2 k then p.t.bcast p.mem p.aAdd m k else none

/-- One slice against a dense weight: gated beyond the true depth on both sides, gated to zero on the broadcast side alone
outside the image (R89, R112). -/
def Piece.dense (p : Piece) (m n k : Nat) : Slice :=
  (List.range 8).map fun i =>
    if p.t.reads p.ext.2.2 (k + i) then
      some ((p.t.bcast p.mem p.aAdd m (k + i)).getD (.fin false 0 0), p.t.lane p.mem p.wAdd n (k + i))
    else none

/-- Add a dense slice. -/
def Piece.addDense (p : Piece) (m n : Nat) (a : Acc) (k : Nat) : Acc :=
  let s := p.dense m n k
  a.add p.t.pair (if p.t.fmtA = 8 then laneB16 s else toF32 (laneEight s)) (sliceFinite s)

/-- Add a slice of a plane-set: its I8 products, the scale, and after the last slice of a block its outliers. -/
def Piece.addPlane (p : Piece) (s : PlaneSet) (m n : Nat) (a : Acc) (k : Nat) (last : Bool) : Acc :=
  let row := p.t.k0 + k
  let b := s.read p.mem p.t.planes (row / 32) (p.t.n0 + n)
  let sl : Slice := (List.range 8).map fun i =>
    if p.t.reads p.ext.2.2 (k + i) then
      some ((p.t.bcast p.mem p.aAdd m (k + i)).getD (.fin false 0 0), Num.ofInt (b.q.getD ((row + i) % 32) 0) 0)
    else none
  let l := f32 (toF32 (laneEight sl))
  let a1 := a.add p.t.pair (toF32 (l.mul b.scale)) (sliceFinite sl && b.scale.finite)
  let a2 := if b.scale.isNan then { a1 with nfIn := a1.nfIn + 1 } else a1
  if last then
    a2.outliers p.t.pair (fun i =>
      let g := row / 32 * 32 + i
      if p.t.k0 ≤ g ∧ g < p.t.k0 + p.t.depth then p.a m (g - p.t.k0) else none) b.outl
  else a2

/-- The press element of row m and column n after the piece (R44, R76). -/
def Piece.elem (p : Piece) (m n : Nat) (start : Pair) : Acc :=
  let ks := p.t.slices p.ext.2.2
  match p.ps with
  | none => ks.foldl (p.addDense m n) ⟨start, 0, 0⟩
  | some s =>
    ks.zipIdx.foldl (fun a ((k, i) : Nat × Nat) =>
      let blk (q : Nat) : Nat := (p.t.k0 + q) / 32
      p.addPlane s m n a k ((ks[i + 1]?).all fun q => blk q != blk k)) ⟨start, 0, 0⟩

/-! ### Press tiles (R107, R112, R122) -/

/-- The address of press element (m, n) of list ordinal j. -/
def Td.pressAddr (t : Td) (core j m n : Nat) : Nat :=
  Machine.pressBase core + t.pressBase + j * t.pressPitch + (m * t.n + n) * t.accBytes

/-- Read a press element. -/
def Td.pressGet (t : Td) (mem : Mem) (core j m n : Nat) : Pair :=
  let a := t.pressAddr core j m n
  ⟨BitVec.ofNat 32 (mem.le a 4), if t.pair then BitVec.ofNat 32 (mem.le (a + 4) 4) else 0⟩

/-- A press element's bytes. -/
def Td.pressBytes (t : Td) (v : Pair) : List Byte := leBytes 4 v.hi.toNat ++ (if t.pair then leBytes 4 v.lo.toNat else [])

/-- The press range of a list ordinal: address and bytes. -/
def Td.pressRange (t : Td) (core j : Nat) : Nat × Nat :=
  (Machine.pressBase core + t.pressBase + j * t.pressPitch, t.m * t.n * t.accBytes)

/-- Rows and columns of the true extent. -/
def gridOf (e : Nat × Nat × Nat) : List (Nat × Nat) :=
  (List.range e.1).flatMap fun m => (List.range e.2.1).map fun n => (m, n)

/-- A piece's new press elements, in ascending row and column. -/
def Piece.results (p : Piece) (core j : Nat) : List ((Nat × Nat) × Acc) :=
  (gridOf p.ext).map fun (m, n) =>
    ((m, n), p.elem m n (if p.t.acc then p.t.pressGet p.mem core j m n else ⟨0, 0⟩))

/-- Write a piece's results into the press. -/
def Piece.store (p : Piece) (core j : Nat) (rs : List ((Nat × Nat) × Acc)) (m : Mem) : Mem :=
  rs.foldl (fun m r => m.write 4 (p.t.pressAddr core j r.1.1 r.1.2) (p.t.pressBytes r.2.v)) m

/-! ### Write-out (R114) -/

/-- A press value converted to FMT_O at element index i: its bytes and what it counts; a pair written as a pair keeps its
whey (DESIGN CHOICE, log entry 115: the text under R48 says of a Pair target only that it takes a result as its curd with a whey of +0). -/
def Td.convOut (t : Td) (v : Pair) (i : Nat) : List Byte × ConvEv :=
  match Target.ofCode t.fmtO with
  | none => ([], .none)
  | some .pair =>
    let c := convert .pair t.ccw i (f32 v.hi)
    (leBytes 4 c.1 ++ leBytes 4 (if isFinite v.hi then v.lo.toNat else 0), c.2)
  | some g =>
    let c := convert g t.ccw i (if t.pair then v.num else f32 v.hi)
    (leBytes g.bytes c.1, c.2)

/-- The stochastic-rounding index of an element (R114). -/
def Td.index (t : Td) (j m n : Nat) : Nat := (j * t.m + m) * t.n + n

/-- The rows that a write-out writes, and its flag bitmap: values by row and column. The bitmap ends with the block of the last true
element (DESIGN CHOICE, log entry 115: R114 leaves open whether blocks of the stored extent behind it are written 0). -/
def Td.outWrites (t : Td) (core j obase : Nat) (e : Nat × Nat × Nat) (vals : List (List (List Byte × ConvEv))) :
    List (Nat × List Byte) :=
  (vals.zipIdx.map fun ((row, m) : List (List Byte × ConvEv) × Nat) =>
    (((t.outBase + (if t.applyO then obase else 0) : Nat) + (m : Int) * t.outStride).toNat, row.flatMap (·.1))) ++
    match t.ccw.ofs with
    | none => []
    | some ofs =>
      let flags := vals.flatMap fun row => row.map (·.2.flag) ++ List.replicate (t.n - row.length) false
      [(vatBase core + ofs + j * ceilDiv (t.m * t.n) 256, flagBitmap flags (ceilDiv ((e.1 - 1) * t.n + e.2.1) 32))]

/-! ### TILE, LIST_TILE_PIECE, TILE_COMPLETE, WRITE_OUT_COMPLETE -/

/-- The plane-set of a TD: the header that W_BASE names in the image, moved by BASE under APPLY_W (R105). -/
def Slot.planeSet (s : Slot) (t : Td) (base : Nat) : Option PlaneSet :=
  if isPlane t.fmtW && !t.rind then
    some ((planeSetOf s.image (t.wBase - s.imageAt)).shift (if t.applyW then base else 0))
  else none

/-- A piece of a running tile. -/
def Slot.piece (s : Slot) (mem : Mem) (r : TileRun) : Piece :=
  let t := tdOf s.image r.td
  ⟨t, mem, r.base, t.extents r.len, s.planeSet t r.base⟩

/-- The broadcast bytes that a tile of an extent reads: true depth of true rows, or for each row and tap the true channels of the
position read (R88, R89, R112). -/
def Td.aReads (t : Td) (base : Nat) (e : Nat × Nat × Nat) : List (Nat × Nat) :=
  (List.range e.1).flatMap fun m =>
    if t.conv then
      (List.range t.walk.taps).filterMap fun i =>
        (t.walk.position m i).map fun p => ((t.posAddr (t.aBase + base) p).toNat, t.kTrue * elemBytes t.fmtA)
    else [(((t.aBase + base : Nat) + (m : Int) * t.aStride).toNat, e.2.2 * elemBytes t.fmtA)]

/-- The dense lane bytes that a tile of an extent reads, by true column (R86, R93, R112). -/
def Td.wReads (t : Td) (base : Nat) (e : Nat × Nat × Nat) : List (Nat × Nat) :=
  (List.range e.2.1).flatMap fun n =>
    let a := (t.wBase + base : Nat) + (n : Int) * signed32 t.wCol
    if t.conv then
      (List.range t.walk.taps).map fun i =>
        ((a + (i * (if t.rind then t.kTrue else t.k) * elemBytes t.fmtW : Nat)).toNat, t.kTrue * elemBytes t.fmtW)
    else [(a.toNat, e.2.2 * elemBytes t.fmtW)]

/-- The true elements of a press tile, row by row. -/
def Td.pressRows (t : Td) (core j : Nat) (e : Nat × Nat × Nat) : List (Nat × Nat) :=
  (List.range e.1).map fun m => (t.pressAddr core j m 0, e.2.1 * t.accBytes)

/-- What a piece reads: activation, weights or the blocks of its plane-set, and, when it adds into an open tile, the press. -/
def Piece.ranges (p : Piece) (core j : Nat) : List (Nat × Nat) :=
  let t := p.t
  let e := p.ext
  let w := match p.ps with
    | some s =>
      let kbs := ((t.slices e.2.2).map fun q => (t.k0 + q) / 32).eraseDups
      (List.range e.2.1).flatMap fun n => kbs.flatMap fun kb => s.blockReads p.mem t.planes kb (t.n0 + n)
    | none => t.wReads p.wAdd e
  t.aReads p.aAdd e ++ w ++ (if t.acc && !t.rind then t.pressRows core j e else [])

/-- The press range of a piece waits for no write-out: it shares no byte with a range being written out (R114). -/
def pressFree (img : List Byte) (cx : CoreCtx) (core : Nat) (t : Td) (j : Nat) : Bool :=
  cx.outs.all fun q =>
    let r := (tdOf img q.td).pressRange core q.j
    let n := t.pressRange core j
    !q.writes || decide (r.1 + r.2 ≤ n.1) || decide (n.1 + n.2 ≤ r.1)

/-- The core's write-out queue without the markers at its head; their TILE entries complete (R126). -/
def drainOuts (x : CtxId) (c : Fin 32) : Nat → Body → Body
  | 0, b => b
  | n + 1, b =>
    match (b.core c).cx.outs with
    | q :: t =>
      if q.writes then b
      else
        let b1 := b.updCx c fun k => { k with outs := t }
        drainOuts x c n (if q.last then b1.complete x c q.idx else b1)
    | [] => b

/-- A piece's last step is done: its write-out joins the queue, and the entry goes on to its next list entry or ends. -/
def Body.pieceDone (b : Body) (x : CtxId) (c : Fin 32) (r : TileRun) (writes : Bool) : Body :=
  let last := !r.listed || r.next == 0xFFFF
  let b1 := b.updCx c fun k =>
    { k with
      outs := k.outs ++ [⟨r.idx, r.td, r.j, r.obase, r.len, writes, last⟩]
      tile := if last then none else some { r with j := r.j + 1, cur := r.next, running := false } }
  drainOuts x c (((b1.core c).cx.outs).length) b1

/-- Issue a matrix-engine TILE: without a list its one piece starts; with one its first list entry is read next; over an
empty list it completes at once (R118, R121, R125). -/
def tileMatrix (o : Own) (b : Body) (c : Fin 32) (x : CtxId) (e : Ae) (t : Td) : Body :=
  let s := b.slot x.part x.slot
  let cx := (b.core c).cx
  let idx := cx.aeIdx.toNat
  if cx.tile.isSome then b
  else if t.listed then
    let l := s.bt t.btList
    let b1 := b.updCx c fun k => k.launch e
    match btFind s.image t.btList with
    | none => b1.complete x c idx
    | some r =>
      if l.empty then b1.complete x c idx
      else b1.updCx c fun k => { k with tile := some ⟨idx, e.ref, true, r.active l, 0, 0, 0, 0, none, 0, false⟩ }
  else if !pressFree s.image cx c.val t 0 then b
  else
    let r : TileRun := ⟨idx, e.ref, false, 0, 0, 0, 0, 0, none, 0xFFFF, true⟩
    ((b.updCx c fun k => { k.launch e with tile := some r }).operands o x c idx ((s.piece b.mem r).ranges c.val 0)).1

/-- A rind job of the core is queued or running (R95). -/
def Quad.rindOf (q : Quad) (c : Fin 32) : Bool := (q.rindQ ++ q.rindRun.toList).any (·.core == c)

/-- A job of a quadrant engine. -/
def QJob.new (x : CtxId) (c : Fin 32) (idx : Nat) (e : Ae) (pos : Nat) : QJob :=
  ⟨x, c, idx, BitVec.ofNat 8 e.evt, e.ref, pos, 0, 0, 0, false, false⟩

/-- Issue a rind TILE: its job joins the queue of the core's quadrant, one outstanding for each core (R95). -/
def tileRind (b : Body) (c : Fin 32) (x : CtxId) (e : Ae) : Body :=
  if (b.quad (quadOf c)).rindOf c then b
  else
    let idx := (b.core c).cx.aeIdx.toNat
    (b.updCx c fun k => k.launch e).updQuad (quadOf c) fun q => { q with rindQ := q.rindQ ++ [QJob.new x c idx e 0] }

/-- TILE is issued when an entry may be launched (R103, R125). -/
def tileIssue (o : Own) (b : Body) (c : Fin 32) : Body :=
  match b.nextAe c kTile with
  | none => b
  | some (x, e) =>
    let t := tdOf (b.imageOf x) e.ref
    if !b.mayLaunch c then b
    else if t.rind then tileRind b c x e
    else tileMatrix o b c x e t

/-- TILE. -/
def execTile (core : Fin 32) (ecc : Found) (s : State) : Result :=
  s.onBody fun o b => (b.upset ecc).issuing o core fun b => tileIssue o b core

/-- A list tile counted (R122, R135). -/
def Core.countTile (k : Core) (leapt : Bool) : Core :=
  if leapt then { k with leap := satAdd k.leap 1 } else { k with run := satAdd k.run 1 }

/-- A leap (R122): K leaps clear an ACC = 0 range and write out as a run tile; M and N leaps leave the press. -/
def Body.leap (b : Body) (x : CtxId) (c : Fin 32) (t : Td) (r : TileRun) : Body :=
  let b1 := b.updCore c (·.countTile true)
  let b2 := if t.ragDim = 3 ∧ !t.acc then
      b1.updMem fun m => let q := t.pressRange c.val r.j; m.zero q.1 q.2
    else b1
  b2.pieceDone x c r (t.ragDim == 3 && t.fmtO != 0)

/-- LIST_TILE_PIECE: the next list entry is read; its tile runs or is leapt (R121 to R123). A TD with RAG_DIM = 0 has no ragged extent,
and none of its entries is leapt, whatever its LEN (DESIGN CHOICE, log entry 116: R122's condition names no RAG_DIM, its table has no
row for 0). -/
def listPiece (o : Own) (b : Body) (c : Fin 32) : Body :=
  match b.holds c, (b.core c).cx.tile with
  | some x, some r =>
    let s := b.slot x.part x.slot
    if r.running ∨ !r.listed ∨ s.run ≠ .running ∨ (b.core c).cx.seq ≠ .running then b
    else
      let a := r.slot + 16 * r.cur
      match b.firstBad o [(a, 16)] with
      | some w => b.readBad o (entryOf x c r.idx) w
      | none =>
        let b := b.correctedIn o [(a, 16)]
        let t := tdOf s.image r.td
        let e := btEntryAt b.mem r.slot r.cur
        let r1 := { r with base := e.base, obase := e.obase, len := some e.len, next := e.next }
        if !pressFree s.image (b.core c).cx c.val t r.j then b
        else if t.ragDim ≠ 0 ∧ e.len ≤ t.ragOfs then b.leap x c t r1
        else
          let r2 := { r1 with running := true }
          let b1 := (b.updCore c (·.countTile false)).updCx c fun k => { k with tile := some r2 }
          (b1.operands o x c r.idx ((s.piece b.mem r2).ranges c.val r.j)).1
  | _, _ => b

/-- LIST_TILE_PIECE. -/
def execListTilePiece (core : Fin 32) (s : State) : Result := s.onBody fun o b => listPiece o b core

/-- The flags and counters of press overflows (R44, R54, R131). -/
def Core.pressOverflow (k : Core) (idx ovf nfIn : Nat) : Core :=
  let k1 := k.count 0 nfIn ovf
  if ovf = 0 then k1
  else
    { k1 with cx := { k1.cx with
        aovf := true
        aovfAe := if k1.cx.aovf then k1.cx.aovfAe else BitVec.ofNat 16 idx } }

/-- TILE_COMPLETE: the piece's lane results are in the press (R77); overflows are counted and flagged (R44, R131); a
write-out begins where there is one. A word that could not be read by then, the press's own among them, faults instead (R171). -/
def tileComplete (o : Own) (b : Body) (c : Fin 32) : Body :=
  match b.holds c, (b.core c).cx.tile with
  | some x, some r =>
    if !r.running then b
    else
      let p := (b.slot x.part x.slot).piece b.mem r
      let q := b.operands o x c r.idx (p.ranges c.val r.j)
      if !q.2 then q.1
      else
        let rs := p.results c.val r.j
        let b1 := (q.1.updMem (p.store c.val r.j rs)).updCore c fun k =>
          k.pressOverflow r.idx ((rs.map fun q => q.2.ovf).sum) ((rs.map fun q => q.2.nfIn).sum)
        b1.pieceDone x c r (p.t.fmtO != 0)
  | _, _ => b

/-- TILE_COMPLETE. -/
def execTileComplete (core : Fin 32) (s : State) : Result := s.onBody fun o b => tileComplete o b core

/-- The values of a write-out, by row and column. -/
def Td.outVals (t : Td) (m : Mem) (core j : Nat) (e : Nat × Nat × Nat) : List (List (List Byte × ConvEv)) :=
  (List.range e.1).map fun r => (List.range e.2.1).map fun n => t.convOut (t.pressGet m core j r n) (t.index j r n)

/-- WRITE_OUT_COMPLETE: the oldest write-out is done: rows converted and written, flags written, events counted, the
elements harvested under the entry's setting (R114, R148); the TILE entry completes with its last piece. -/
def writeOut (o : Own) (b : Body) (c : Fin 32) : Body :=
  match b.holds c, (b.core c).cx.outs with
  | some x, q :: rest =>
    let t := tdOf (b.imageOf x) q.td
    let e := t.extents q.len
    let r := b.operands o x c q.idx (t.pressRows c.val q.j e)
    if !r.2 then r.1
    else
      let vals := t.outVals b.mem c.val q.j e
      let b1 := r.1.updCore c fun k => k.countEvs (vals.flatMap fun row => row.map (·.2))
      let set := (b.core c).cx.setting q.idx
      let b2 := (b1.observe c set (vals.flatMap fun row => row.map fun v => widen t.fmtO v.1)).updCx c fun k =>
        { k with outs := rest }
      let b3 := if q.last then b2.complete x c q.idx else b2
      (drainOuts x c rest.length b3).put o x c q.idx ((t.outWrites c.val q.j q.obase e vals).map whole)
  | _, _ => b

/-- WRITE_OUT_COMPLETE. -/
def execWriteOutComplete (core : Fin 32) (s : State) : Result := s.onBody fun o b => writeOut o b core

end Sys2Proof.Machine
end

