-- ==== Sys2Proof/Machine/Transform.lean ====
section
/-! DEFINITION. The transform engine and the rind engine at work: queueing, running, stopping, completing (R92 to R97, R197 to
R203). -/

namespace Sys2Proof.Machine

open Sys2Proof

/-! ### Running (R197 to R199) -/

/-- An XFORM is issued: the XD enters the queue of the core's quadrant (R197). -/
def xformIssue (b : Body) (core : Fin 32) : Body :=
  match b.nextAe core kXform with
  | none => b
  | some (x, e) =>
    let idx := (b.core core).cx.aeIdx.toNat
    if !b.mayLaunch core ∨ (b.quad (quadOf core)).xfQ.length ≥ 128 then b
    else (b.updCx core fun k => k.launch e).updQuad (quadOf core) fun q => { q with xfQ := q.xfQ ++ [QJob.new x core idx e 0] }

/-- XFORM. -/
def execXform (core : Fin 32) (s : State) : Result := s.onBody fun o b => b.issuing o core fun b => xformIssue b core

/-- XD_START: the oldest queued XD starts while fewer than eight run (R197, R198). -/
def execXdStart (quad : Fin 4) (s : State) : Result :=
  s.onBody fun _ b => b.updQuad quad fun q =>
    match q.xfQ with
    | j :: t => if q.xfRun.length < 8 then { q with xfQ := t, xfRun := q.xfRun ++ [j] } else q
    | [] => q

/-- A job of a list by core and entry. -/
def findJob (l : List QJob) (core : Fin 32) (ae : Nat) : Option QJob := l.find? fun j => j.core == core && j.idx == ae
/-- The list without it. -/
def dropJob (l : List QJob) (core : Fin 32) (ae : Nat) : List QJob := l.filter fun j => !(j.core == core && j.idx == ae)

/-- The elements of an XD from its position up to an element, done; an uncorrectable read faults instead, and so do bytes lost in a
poisoned word: such an XD never completes (R172, R200). The flag says that it went through. -/
def xdAdvance (o : Own) (b : Body) (j : QJob) (x : Xd) (ps : Option PlaneSet) (upto : Nat) (fin : Bool) : Body × Bool :=
  if x.identity then (b, true)
  else
    let reads := x.reads b.mem ps (4096 * j.pos) upto
    match b.firstBad o reads with
    | some w => (b.readBad o (entryOf j.ctx j.core j.idx) w, false)
    | none =>
      let r := x.span b.mem ps (4096 * j.pos) upto
      let b1 := ((b.correctedIn o reads).updCore j.core fun k => (k.countEvs r.2.1).count r.2.2.1 r.2.2.2 0).countReadsOf o reads
      let ws := r.1 ++ (if fin then x.final b.mem ps j.core.val else [])
      let b2 := b1.put o j.ctx j.core j.idx (ws.map whole)
      (b2, (b2.core j.core).ctx == some j.ctx)

/-- The operands of an XD flow: none lies in a stack that the traffic limit holds up, or in a tripped module's DRAM (R226, R227); an
identity move has none (R196). -/
def Xd.flows (x : Xd) (o : Own) (b : Body) (ps : Option PlaneSet) : Bool :=
  x.identity || b.flows o ((x.srcRanges ps ++ x.dstRanges ps).map fun r => (r.1.toNat, r.2))

/-- XD_COMPLETE: the remaining groups, the side list and the flag bitmap are in memory; then the event increments (R198); an XD whose
operands do not flow cannot end (R226, R227). -/
def xdComplete (o : Own) (b : Body) (q : Fin 4) (core : Fin 32) (ae : Nat) : Body :=
  match findJob (b.quad q).xfRun core ae with
  | none => b
  | some j =>
    let x := xdOf (b.imageOf j.ctx) j.ref
    let ps := (b.slot j.ctx.part j.ctx.slot).xdPlane x
    let r := xdAdvance o b j x ps (x.count ps) true
    if !x.flows o b ps then b
    else if r.2 then
      (r.1.updQuad q fun k => { k with xfRun := dropJob k.xfRun core ae, xfDone := k.xfDone + 1 }).complete j.ctx core ae
    else r.1.updQuad q fun k => { k with xfRun := dropJob k.xfRun core ae }

/-- XD_COMPLETE. -/
def execXdComplete (quad : Fin 4) (core : Fin 32) (ae : Nat) (s : State) : Result :=
  s.onBody fun o b => xdComplete o b quad core ae

/-- Remember where a stopped job goes on. -/
def CoreCtx.stopAt (x : CoreCtx) (idx pos : Nat) : CoreCtx :=
  { x with stopped := (idx, pos) :: x.stopped.filter (·.1 != idx) }

/-- XD_PREEMPT_STOP: a running XD of an invocation being pre-empted stops at the end of its current group, `group` at the earliest, and
keeps its position with the context; one that stops behind its last group has its side list and bitmap still to write (R199). -/
def xdStop (o : Own) (b : Body) (q : Fin 4) (core : Fin 32) (ae group : Nat) : Body :=
  match findJob (b.quad q).xfRun core ae with
  | none => b
  | some j =>
    if (b.slot j.ctx.part j.ctx.slot).run ≠ .stopping then b
    else
      let x := xdOf (b.imageOf j.ctx) j.ref
      let ps := (b.slot j.ctx.part j.ctx.slot).xdPlane x
      if !x.flows o b ps then b
      else
        let g := min (max group (j.pos + 1)) (ceilDiv (x.count ps) 4096)
        let r := xdAdvance o b j x ps (min (4096 * g) (x.count ps)) false
        if r.2 then
          (r.1.updQuad q fun k => { k with xfRun := dropJob k.xfRun core ae, xfStopped := satAdd k.xfStopped 1 }).updCx core
            fun k => k.stopAt ae g
        else r.1.updQuad q fun k => { k with xfRun := dropJob k.xfRun core ae }

/-- XD_PREEMPT_STOP. -/
def execXdPreemptStop (quad : Fin 4) (core : Fin 32) (ae : Nat) (group : Nat) (s : State) : Result :=
  s.onBody fun o b => xdStop o b quad core ae group

/-! ### The rind engine (R92 to R97) -/

/-- RIND_JOB_START: the oldest queued rind job starts on an idle engine (R95). -/
def execRindJobStart (quad : Fin 4) (s : State) : Result :=
  s.onBody fun _ b => b.updQuad quad fun q =>
    match q.rindRun, q.rindQ with
    | none, j :: t => { q with rindQ := t, rindRun := some j }
    | _, _ => q

/-- One rind result: products added into an F32 accumulator in ascending tap and channel (R93). -/
def rindElem (t : Td) (m : Mem) (p n : Nat) : W32 :=
  ((List.range t.walk.taps).flatMap fun tap => (List.range t.kTrue).map fun ci => tap * t.k + ci).foldl (fun acc k =>
    toF32 ((f32 acc).add (((t.bcast m 0 p k).getD (.fin false 0 0)).mul (t.lane m 0 n k)))) 0

/-- The converted results of a rind job, by position and channel. -/
def rindVals (t : Td) (m : Mem) : List (List (List Byte × ConvEv)) :=
  (List.range t.mTrue).map fun p => (List.range t.nTrue).map fun n =>
    { t with pair := false }.convOut ⟨rindElem t m p n, 0⟩ (p * t.n + n)

/-- RIND_JOB_COMPLETE: the results are written with their flags and counts, JOBS counts, the entry completes; a job whose
context was torn down leaves nothing (R93, R96, R97). -/
def rindComplete (o : Own) (b : Body) (q : Fin 4) : Body :=
  match (b.quad q).rindRun with
  | none => b
  | some j =>
    let b1 := b.updQuad q fun k => { k with rindRun := none, rindJobs := k.rindJobs + 1 }
    let live := (b.core j.core).ctx == some j.ctx && (b.core j.core).cx.launched.any (·.idx == j.idx)
    if !live then b1
    else
      let s := b.slot j.ctx.part j.ctx.slot
      let t := tdOf s.image j.ref
      let e := t.extents none
      let pc : Piece := ⟨t, b.mem, 0, e, none⟩
      match b.firstBad o (pc.ranges j.core.val 0) with
      | some w => b1.readBad o (entryOf j.ctx j.core j.idx) w
      | none =>
        let vals := rindVals t b.mem
        let b2 := (b1.correctedIn o (pc.ranges j.core.val 0)).updCore j.core fun k => k.countEvs (vals.flatMap fun row => row.map (·.2))
        (b2.complete j.ctx j.core j.idx).put o j.ctx j.core j.idx ((t.outWrites j.core.val 0 0 e vals).map whole)

/-- RIND_JOB_COMPLETE. -/
def execRindJobComplete (quad : Fin 4) (s : State) : Result := s.onBody fun o b => rindComplete o b quad

end Sys2Proof.Machine
end

