-- ==== Sys2Proof/Machine/UpdDesc.lean ====
section
/-! DEFINITION. Update descriptors, shard headers, the journal's layout, and their load checks (R244 to R246, R250, R254,
R255, R258, R265). -/

namespace Sys2Proof.Machine

open Sys2Proof

/-! ### Shards (R244 to R246) -/

/-- A shard header: commit record, formats, moments, rows, columns, slots. -/
structure Shard where
  commit : Nat
  magic : Nat
  mfmt  : Nat
  ofmt  : Nat
  wfmt  : Nat
  nmom  : Nat
  k     : Nat
  ns    : Nat
  slot0 : Nat
  slot1 : Nat
  bytes : Nat
  deriving DecidableEq, Repr, Inhabited

/-- Read a shard header from its 64 bytes. -/
def shardOf (h : List Byte) : Shard where
  commit := field h 0 8
  magic := field h 8 4
  mfmt := field h 0xC 1
  ofmt := field h 0xD 1
  wfmt := field h 0xE 1
  nmom := field h 0xF 1
  k := field h 0x10 4
  ns := field h 0x14 4
  slot0 := field h 0x18 8
  slot1 := field h 0x20 8
  bytes := field h 0x28 8

/-- MARK, STEP, DIRTY and SLOT of a commit record (R246). -/
def recMark (r : Nat) : Nat := bitsOf r 63 56
/-- STEP. -/
def recStep (r : Nat) : Nat := bitsOf r 55 2
/-- DIRTY. -/
def recDirty (r : Nat) : Bool := r.testBit 1
/-- SLOT: true is slot 1. -/
def recSlot (r : Nat) : Bool := r.testBit 0
/-- A commit record. -/
def mkRec (step : Nat) (dirty slot : Bool) : Nat :=
  0xC7 * 2 ^ 56 + step % 2 ^ 54 * 4 + (if dirty then 2 else 0) + (if slot then 1 else 0)

/-- Elements of a shard. -/
def Shard.elems (s : Shard) : Nat := s.k * s.ns
/-- Rounded up to 4 KiB. -/
def up4k (n : Nat) : Nat := ceilDiv n 4096 * 4096
/-- Bytes of the first moments. -/
def Shard.momBytes (s : Shard) : Nat := s.elems * elemBytes s.ofmt
/-- Bytes of a weight copy. -/
def Shard.wBytes (s : Shard) : Nat := s.elems * elemBytes s.wfmt
/-- Slot offset of MOM1; MAST lies at 0. -/
def Shard.mom1 (s : Shard) : Nat := up4k (s.elems * elemBytes s.mfmt)
/-- Slot offset of MOM2. -/
def Shard.mom2 (s : Shard) : Nat := s.mom1 + up4k s.momBytes
/-- Slot offset of WFWD. -/
def Shard.wfwd (s : Shard) : Nat := if s.nmom = 2 then s.mom2 + up4k s.momBytes else s.mom2
/-- Slot offset of WTRN. -/
def Shard.wtrn (s : Shard) : Nat := s.wfwd + up4k s.wBytes
/-- Bytes of the whole layout (R245). -/
def Shard.layout (s : Shard) : Nat := if s.ns > 1 then s.wtrn + up4k s.wBytes else s.wtrn
/-- The active slot by a commit record, and the alternate. -/
def Shard.active (s : Shard) (r : Nat) : Nat := if recSlot r then s.slot1 else s.slot0
/-- The alternate slot. -/
def Shard.alternate (s : Shard) (r : Nat) : Nat := if recSlot r then s.slot0 else s.slot1

/-- A header's FORMAT failures (R244, R246). -/
def Shard.formatBad (s : Shard) (h : List Byte) : Bool :=
  s.magic != 0x44524853 || recMark s.commit != 0xC7 || !(s.mfmt == 9 || s.mfmt == 10) || !(s.ofmt == 9 || s.ofmt == 8) ||
    !(s.wfmt == 1 || s.wfmt == 3 || s.wfmt == 8) || !(s.nmom == 1 || s.nmom == 2) || s.slot0 % 4096 != 0 ||
    s.slot1 % 4096 != 0 || addrBad s.slot0 || addrBad s.slot1 || s.bytes != s.layout || !zeros h 0x30 16

/-- A header's SHAPE failures (R244). -/
def Shard.shapeBad (s : Shard) : Bool :=
  s.k % 64 != 0 || decide (s.k < 64) || decide (s.k > 1048576) ||
    !(s.ns == 1 || (s.ns % 64 == 0 && decide (64 ≤ s.ns) && decide (s.ns ≤ 65536))) || decide (s.elems > 2 ^ 30)

/-! ### Digest trees (R265) -/

/-- Nodes of each level above and at one of n nodes. -/
def digLevels : Nat → Nat → List Nat
  | 0, n => [n]
  | f + 1, n => if n ≤ 1 then [n] else n :: digLevels f (ceilDiv n 64)

/-- Segments of a slot. -/
def Shard.segments (s : Shard) : Nat := s.bytes / 4096
/-- Nodes of a slot's digest tree. -/
def Shard.digNodes (s : Shard) : Nat := (digLevels 8 s.segments).sum

/-! ### Update descriptors (R250) -/

/-- An update descriptor. -/
structure Ud where
  op     : Nat
  opt    : Nat
  flags  : Nat
  pset   : Nat
  htagA  : Byte
  htagB  : Byte
  layer  : Nat
  shard  : Nat
  grad   : Nat
  elems  : Nat
  group  : Nat
  every  : Nat
  nvec   : Nat
  vatFwd : Nat
  vatTrn : Nat
  diga   : Nat
  gmax   : W32
  lmax   : Nat
  ccwM   : Ccw
  ccwW   : Ccw
  deriving DecidableEq, Repr, Inhabited

/-- Read a UD at an image offset. -/
def udOf (img : List Byte) (o : Nat) : Ud where
  op := field img o 1
  opt := field img (o + 1) 1
  flags := field img (o + 2) 1
  pset := field img (o + 3) 1
  htagA := BitVec.ofNat 8 (field img (o + 4) 1)
  htagB := BitVec.ofNat 8 (field img (o + 5) 1)
  layer := field img (o + 6) 2
  shard := field img (o + 8) 8
  grad := field img (o + 0x10) 8
  elems := field img (o + 0x18) 4
  group := field img (o + 0x1C) 1
  every := field img (o + 0x1E) 2
  nvec := field img (o + 0x20) 8
  vatFwd := field img (o + 0x28) 8
  vatTrn := field img (o + 0x30) 8
  diga := field img (o + 0x38) 8
  gmax := BitVec.ofNat 32 (field img (o + 0x40) 4)
  lmax := field img (o + 0x48) 8
  ccwM := ccwOf img (o + 0x50)
  ccwW := ccwOf img (o + 0x60)

/-- OP values. -/
def opNorm : Nat := 1
/-- CHECK. -/
def opCheck : Nat := 2
/-- APPLY. -/
def opApply : Nat := 3
/-- COMPARE. -/
def opCompare : Nat := 4
/-- COMMIT. -/
def opCommit : Nat := 5

/-- FLAGS.HV. -/
def Ud.hv (u : Ud) : Bool := u.flags.testBit 0
/-- FLAGS.DIG. -/
def Ud.dig (u : Ud) : Bool := u.flags.testBit 1
/-- FLAGS.VATW. -/
def Ud.vatw (u : Ud) : Bool := u.flags.testBit 2

/-- Offsets and sizes of the fields an OP uses; every other byte from 1 to 0x7F is reserved. -/
def udUsed (op : Nat) : List (Nat × Nat) :=
  if op = opNorm then [(2, 1), (4, 1), (6, 2), (0x10, 8), (0x18, 4), (0x20, 8)]
  else if op = opCheck then [(6, 2), (0x20, 8), (0x40, 4), (0x48, 8)]
  else if op = opApply then
    [(1, 1), (2, 1), (3, 1), (4, 1), (5, 1), (8, 8), (0x10, 8), (0x28, 8), (0x30, 8), (0x38, 8), (0x50, 16), (0x60, 16)]
  else if op = opCompare then [(0x1C, 1), (0x1E, 2)]
  else [(8, 8)]

/-- A reserved byte of a UD is not zero. -/
def udReserved (img : List Byte) (o op : Nat) : Bool :=
  (List.range 127).any fun i =>
    !((udUsed op).any fun u => decide (u.1 ≤ i + 1) && decide (i + 1 < u.1 + u.2)) && field img (o + i + 1) 1 != 0

/-- The header that an APPLY or COMMIT names. -/
def Ud.needsShard (u : Ud) : Bool := u.op == opApply || u.op == opCommit

/-- The 64 bytes of a UD's shard header in memory, when it lies whole in the partition's DRAM, 4 KiB-aligned. -/
def LoadCtx.shardBytes (x : LoadCtx) (u : Ud) : Option (List Byte) :=
  if u.needsShard && u.shard % 4096 == 0 && inPlaces x.data ((u.shard : Int), 64) then some (x.mem.bytes u.shard 64) else none

/-- Gradient elements that a UD reads. -/
def Ud.gradElems (u : Ud) (s : Shard) : Nat := if u.op = opNorm then u.elems else s.elems

/-- Bytes lie within a declared region of a kind of a core in CORES (R254). -/
def LoadCtx.inRegion (x : LoadCtx) (kind a n : Nat) : Bool :=
  (vallocOf x.img).any fun v => v.kind == kind && decide (v.loc < 32) && x.h.cores.testBit v.loc && inside (v.addr, v.size) a n

/-- An address lies in one of the places. -/
def atPlace (places : List (Nat × Nat)) (a : Nat) : Bool := inPlaces places ((a : Int), 1)

/-- An address is reserved: in none of the memories (R159, R209). -/
def LoadCtx.reservedAt (x : LoadCtx) (a : Nat) : Bool := x.memories.all fun (s, z, _) => !(decide (s ≤ a) && decide (a < s + z))

/-- A range that fails the World row of R254: it reaches memory that is not the almanac's own, or begins in a memory other than the rule's;
at a reserved address R159 and R510 make it a Bounds failure. -/
def LoadCtx.misplaced (x : LoadCtx) (places : List (Nat × Nat)) (r : Nat × Nat) : Bool :=
  x.foreign (r.1 : Int) r.2 || (!atPlace places r.1 && !x.reservedAt r.1)

/-- The checks of a UD for the core that issues it (R244, R245, R250, R254). -/
def LoadCtx.udFails (x : LoadCtx) (core off : Nat) : Fails :=
  if !x.has off 128 then []
  else
    let u := udOf x.img off
    let hb := x.shardBytes u
    let s := shardOf (hb.getD [])
    let is (op : Nat) : Bool := u.op == op
    let ap := is opApply
    let graded := is opNorm || ap
    let normed := is opNorm || is opCheck
    let gN := 4 * u.gradElems s
    let wN := s.wBytes
    let flag (c : Ccw) : Option Rng := if ap then c.ofs.map fun f => ((vatBase core + f : Nat), ceilDiv s.elems 256) else none
    let flags := (flag u.ccwM).toList ++ (flag u.ccwW).toList
    let vat := if ap && u.vatw then ((u.vatFwd : Int), wN) :: (if s.ns > 1 then [((u.vatTrn : Int), wN)] else []) else []
    let slots := if u.needsShard && hb.isSome then [(s.slot0, s.bytes), (s.slot1, s.bytes)] else []
    let grad : List Rng := if graded then [((u.grad : Int), gN)] else []
    itemFail off
      ([(off % 64 != 0 || u.op == 0 || decide (u.op > 5) || udReserved x.img off u.op || decide (u.flags ≥ 8) ||
          (is opNorm && decide (u.flags ≥ 2)) || [u.shard, u.grad, u.nvec, u.vatFwd, u.vatTrn, u.diga, u.lmax].any addrBad ||
          (ap && !u.vatw && (u.vatFwd != 0 || u.vatTrn != 0)) || (ap && !u.dig && u.diga != 0) ||
          (ap && (decide (u.opt > 1) || decide (u.pset > 15))) || (is opCompare && decide (u.group > 15)) ||
          (ap && (ccwBad x.img (off + 0x50) || ccwBad x.img (off + 0x60))) || (u.needsShard && u.shard % 4096 != 0) ||
          (match hb with
            | some h => s.formatBad h || (ap && u.opt + 1 != s.nmom) || (ap && s.ns == 1 && u.vatTrn != 0)
            | none => false), stFormat),
        ((is opNorm && (u.elems == 0 || decide (u.elems > 2 ^ 30) || decide (u.layer > 255))) ||
          (is opCheck && (u.layer == 0 || decide (u.layer > 256))) || (is opCompare && u.every == 0) ||
          (hb.isSome && s.shapeBad), stShape),
        ((u.needsShard && x.misplaced x.data (u.shard, 64)) || slots.any (x.misplaced x.data) ||
          (graded && x.misplaced (x.vats ++ x.cellar) (u.grad, gN)) || (normed && x.misplaced x.cellar (u.nvec, 0x5000)) ||
          (ap && u.dig && x.misplaced x.data (u.diga, 8 * s.digNodes)) || (vat ++ flags).any (fun r => x.foreign r.1 r.2), stWorld),
        ((u.needsShard && hb.isNone) || slots.any (fun r => !inPlaces x.data ((r.1 : Int), r.2)) || (graded && !inPlaces (x.vats ++ x.cellar) ((u.grad : Int), gN)) ||
          (normed && !inPlaces x.cellar ((u.nvec : Int), 0x5000)) ||
          (ap && u.vatw && (!x.inRegion 2 u.vatFwd wN || (decide (s.ns > 1) && !x.inRegion 3 u.vatTrn wN))) ||
          (ap && u.dig && !inPlaces x.data ((u.diga : Int), 8 * s.digNodes)) ||
          (is opCheck && (decide (u.lmax < x.at_) || !x.has (u.lmax - x.at_) (4 * u.layer))) ||
          flags.any (fun f => !inPlaces (vatPlace core) f), stBounds),
        ((match slots with | [a, b] => decide (a.1 < b.1 + b.2) && decide (b.1 < a.1 + a.2) | _ => false) ||
          flags.any (fun f => grad.any f.meets) ||
          (match flag u.ccwW with | some f => vat.any f.meets | none => false), stOverlap)])

/-- The static minimum of a UPD entry's BOUND (R255). -/
def LoadCtx.udMin (x : LoadCtx) (off ceil : Nat) : Nat :=
  let u := udOf x.img off
  let c :=
    if u.op = opNorm then 32 + ceilDiv u.elems 1024
    else if u.op = opCheck then 32 + u.layer
    else if u.op = opApply then 64 + ceilDiv (shardOf ((x.shardBytes u).getD [])).elems 512
    else 32
  ceilDiv (c * ceil) 20

/-! ### Rules over all UDs of an almanac (R245, R254, R257, R515) -/

/-- An entry of an almanac: core, position in its list, and the entry. -/
structure AePos where
  core : Nat
  pos  : Nat
  ae   : Ae
  deriving DecidableEq, Repr, Inhabited

/-- Every entry of an almanac, list by list. -/
def allAes (img : List Byte) : List AePos :=
  (imgCores img).flatMap fun c => (aeList img c.val).zipIdx.map fun ((e, i) : Ae × Nat) => ⟨c.val, i, e⟩

/-- The image offset of an entry. -/
def aeOffset (img : List Byte) (a : AePos) : Nat := aeFirst img a.core + 16 * a.pos

/-- The UD of an entry. -/
def AePos.ud (a : AePos) (img : List Byte) : Ud := udOf img a.ae.ref

/-- The UPD entries whose descriptor lies in the image. -/
def udAes (x : LoadCtx) : List AePos := (allAes x.img).filter fun a => a.ae.kind == kUpd && x.has a.ae.ref 128

/-- An entry increments an event: it names it and is no WAIT (R126), or its video MJ names it as progress event (R364, R370). -/
def Ae.increments (e : Ae) (img : List Byte) (evt : Nat) : Bool :=
  evt != 0xFF && ((e.evt == evt && e.kind != kWait) ||
    (e.kind == kMedia && field img e.ref 1 == 2 && field img (e.ref + 0x5A) 1 == evt))

/-- Entries that increment an event. -/
def incrementers (img : List Byte) (evt : Nat) : Nat := (allAes img).countP fun a => a.ae.increments img evt

/-- Among entries, a WAIT on an event that only all its incrementers together release (R515). -/
def waitsAll (img : List Byte) (es : List Ae) (evt : Nat) : Bool :=
  evt != 0xFF && es.any fun w => w.kind == kWait && w.evt == evt && decide (incrementers img evt ≤ w.arg)

/-- A SLOT is ordered before an APPLY or after its COMMIT (R515). -/
def slotOrdered (img : List Byte) (s ap cm : AePos) : Bool :=
  if s.core = ap.core then !(decide (ap.pos < s.pos) && decide (s.pos < cm.pos))
  else
    waitsAll img ((aeList img s.core).take s.pos) cm.ae.evt ||
      ((aeList img s.core).drop (s.pos + 1)).any fun e => (List.range 255).any fun v =>
        e.increments img v && waitsAll img ((aeList img ap.core).take ap.pos) v

/-- The rules of R254, R257, R245 and R515 that look at several UDs, attributed to the entries that break them. -/
def LoadCtx.udSetFails (x : LoadCtx) (buckets : List (Nat × Nat)) : Fails :=
  let img := x.img
  let us := udAes x
  let op (n : Nat) : List AePos := us.filter fun a => (a.ud img).op == n
  let at_ (a : AePos) : Nat := aeOffset img a
  let fmt (l : List AePos) : Fails := l.map fun a => (at_ a, stFormat)
  let shardIs (s : Nat) (a : AePos) : Bool := (a.ud img).shard == s
  let aps := op opApply
  let cms := op opCommit
  let paired (a c : AePos) : Bool := a.core == c.core && decide (a.pos < c.pos)
  let pairFails := fmt ((aps ++ cms).filter fun a =>
    let s := (a.ud img).shard
    match aps.filter (shardIs s), cms.filter (shardIs s) with
    | [p], [c] => !paired p c
    | _, _ => true)
  let checks := op opCheck
  let ordered (a : AePos) (evt : Nat) : Bool :=
    evt != 0xFF && ((aeList img a.core).take a.pos).any fun w => w.kind == kWait && w.evt == evt
  let checkFails := match aps, checks with
    | [], _ => []
    | _, [c] => fmt (aps.filter fun a => !ordered a c.ae.evt)
    | a :: _, [] => fmt [a]
    | _, _ :: c :: _ => fmt [c]
  let cmpFails := match op opCompare with
    | [] => []
    | [c] => fmt (cms.filter fun a => !ordered a c.ae.evt)
    | _ :: c :: _ => fmt [c]
  let nv := us.filter fun a => (a.ud img).op == opNorm || (a.ud img).op == opCheck
  let nvecFails := fmt (nv.filter fun a => (a.ud img).nvec != ((nv.head?).elim 0 fun h => (h.ud img).nvec))
  let pairs := aps.filterMap fun a => (cms.find? fun c => shardIs (a.ud img).shard c && paired a c).map fun c => (a, c)
  let slotFails := fmt ((allAes img).filter fun s => s.ae.kind == kSlot && pairs.any fun p => !slotOrdered img s p.1 p.2)
  let sh (a : AePos) : List (Nat × Nat) :=
    match x.shardBytes (a.ud img) with
    | some h => let s := shardOf h; if s.formatBad h || s.shapeBad then [] else [(s.slot0, s.bytes), (s.slot1, s.bytes)]
    | none => []
  let meets (a b : Nat × Nat) : Bool := decide (a.1 < b.1 + b.2) && decide (b.1 < a.1 + a.2)
  let slotHits := (aps.zipIdx.filter fun ((a, i) : AePos × Nat) =>
      (aps.take i).any fun b => !shardIs (a.ud img).shard b && (sh a).any fun r => (sh b).any (meets r)).map
    fun ((a, _) : AePos × Nat) => (at_ a, stOverlap)
  let taken := (aps ++ cms).flatMap (fun a => ((a.ud img).shard, 64) :: sh a) ++ buckets
  let areaHits := (us.filter fun a =>
      let u := a.ud img
      let s := shardOf ((x.shardBytes u).getD [])
      let r := if u.op = opApply ∧ u.dig then [(u.diga, 8 * s.digNodes)]
        else if u.op = opNorm ∨ u.op = opCheck then [(u.nvec, 0x5000)] else []
      r.any fun r => taken.any (meets r)).map fun a => (a.ae.ref, stOverlap)
  pairFails ++ checkFails ++ cmpFails ++ nvecFails ++ slotFails ++ slotHits ++ areaHits

/-- The header units that the update engine copies at load (R247). -/
def LoadCtx.shardCopies (x : LoadCtx) : List (Nat × List Byte) :=
  ((udAes x).filterMap fun a => (x.shardBytes (a.ud x.img)).map fun h => ((a.ud x.img).shard, h)).eraseDups

end Sys2Proof.Machine
end

