-- ==== Sys2Proof/Machine/Update.lean ====
section
/-! DEFINITION. The update path: parameters, norm check, APPLY, COMMIT, replica comparison and repair, recovery (R250 to
R270, R415). -/

namespace Sys2Proof.Machine

open Sys2Proof

/-! ### Parameters, groups, recovery (R252, R266, R270) -/

/-- An F32 word within [lo, hi): `hi` none stops at infinity. -/
def inRangeF (w : W32) (lo : Num) (hi : Option Num) (strict : Bool) : Bool :=
  (f32 w).finite && (if strict then lo.lt (f32 w) else !(f32 w).lt lo) && (match hi with | some h => (f32 w).lt h | none => true)

/-- The F32 word at an offset. -/
def wordAt (l : List Byte) (o : Nat) : W32 := BitVec.ofNat 32 (field l o 4)

/-- The table of R252 on one set of 32 bytes. -/
def paramSetOk (l : List Byte) : Bool :=
  let z := f32 0
  let one := f32 0x3F800000
  inRangeF (wordAt l 0) z none false && inRangeF (wordAt l 4) z (some one) false &&
    inRangeF (wordAt l 8) z (some one) false && inRangeF (wordAt l 0xC) z none true && inRangeF (wordAt l 0x10) z none false &&
    inRangeF (wordAt l 0x14) one none false && inRangeF (wordAt l 0x18) one none false

/-- Set i of sixteen. -/
def paramSet (sets : List Byte) (i : Nat) : List Byte := (sets.drop (32 * i)).take 32

/-- The almanac slot of a command's ARG0. -/
def slotArg (x : Xnx) : Fin 4 := Fin.ofNat 4 x.arg0

/-- UPD_PARAMS's rule: the sets wait for the slot's next start (R252). -/
def updParamsAct (x : Xnx) (o : Own) (b : Body) : Xres :=
  onPart x fun p =>
    let step := xArg x 0 8
    let sets := x.args.drop 8
    if (List.range 16).any fun i => field (paramSet sets i) 0x1C 4 != 0 then .refused stFormat 0
    else if !(List.range 16).all (fun i => paramSetOk (paramSet sets i)) || !(b.part p).stepValid ||
        step != (b.part p).step.toNat + 1 then .refused stBounds 0
    else .done o (b.updSlot p (slotArg x) fun s => { s with newParams := some (BitVec.ofNat 64 step, sets.take 512) }) stOk 0 []

/-- UPD_PARAMS (R252, R415). -/
def execUpdParams (x : Xnx) (s : State) : Result :=
  s.xnx 0x0201 x .part (x.len == 520) (decide (x.arg0 < 4)) (updParamsAct x)

/-- A commit record allows recovery to a step (R270). -/
def recoverOk (target r : Nat) : Bool :=
  recMark r == 0xC7 && (recStep r == target || (recStep r == target + 1 && !recDirty r))

/-- UPD_RECOVER's rule (R270): shards one step ahead go back; a record that cannot be read ends the command (R512); in a tripped module
the command waits for data that its controllers no longer serve (R227). -/
def updRecoverAct (x : Xnx) (o : Own) (b : Body) : Xres :=
  onPart x fun p =>
    let s := b.slot p (slotArg x)
    let target := xArg x 0 8
    if !s.loaded then .refused stBounds 0
    else if b.board.tripped then .pending o b
    else
      let reads := s.shards.map fun h => (h.1, 64)
      let b := (b.ordered o reads).stewardRead o reads
      let recs := s.shards.map fun h => (h.1, b.mem.le h.1 8)
      match b.firstBad o reads with
      | some w => .done o (b.stewardBad o p w) ftEcc 0 []
      | none =>
        if !recs.all (fun r => recoverOk target r.2) then .refused stBounds 0
        else
          let b1 := (recs.filter fun r => recStep r.2 == target + 1).foldl (fun (b : Body) r =>
            b.storeBytes o r.1 (leBytes 8 (mkRec target false (!recSlot r.2)))) b
          .done o (b1.updPart p fun y => { y with step := BitVec.ofNat 54 target, stepValid := true }) stOk 0 []

/-- UPD_RECOVER (R270, R415). -/
def execUpdRecover (x : Xnx) (s : State) : Result :=
  s.xnx 0x0202 x .part (x.len == 8) (decide (x.arg0 < 4)) (updRecoverAct x)

/-- The UDs of an almanac. -/
def imageUds (img : List Byte) : List Ud :=
  ((allAes img).filter fun a => a.ae.kind == kUpd).map fun a => a.ud img

/-- UDs of one OP. -/
def udCount (img : List Byte) (op : Nat) : Nat := (imageUds img).countP fun u => u.op == op

/-- An invocation of the partition compares over a group. -/
def Part.comparing (p : Part) (g : Nat) : Bool :=
  p.slots.any fun s => s.invoke.isSome && (imageUds s.image).any fun u => u.op == opCompare && u.group == g

/-- The two-byte members of a group in memory. -/
def membersAt (m : Mem) (a n : Nat) : List W16 := (List.range n).map fun i => BitVec.ofNat 16 (m.le (a + 2 * i) 2)

/-- REPL_CFG's rule (R266). -/
def replCfgAct (x : Xnx) (o : Own) (b : Body) : Xres :=
  onPart x fun p =>
    let n := xArg x 0 2
    let rank := xArg x 2 2
    let src := xArg x 4 2
    let repair := xArg x 6 1
    let maxSeg := xArg x 7 1
    let at_ := xArg x 8 8
    if !o.inData p at_ (2 * n) then .foreign (o.outside p at_)
    else if n < 2 ∨ n > 4096 ∨ rank ≥ n ∨ src ≥ n ∨ repair > 2 ∨ (repair = 2 ∧ n < 3) ∨ maxSeg = 0 ∨ maxSeg > 64 then
      .refused stBounds 0
    else if (b.part p).comparing x.arg0 then .refused stBusy 0
    else if b.board.tripped then .pending o b
    else
      let b := (b.ordered o [(at_, 2 * n)]).stewardRead o [(at_, 2 * n)]
      match b.firstBad o [(at_, 2 * n)] with
      | some w => .done o (b.stewardBad o p w) ftEcc 0 []
      | none =>
        let ms := membersAt b.mem at_ n
        if ms.any fun w => w.toNat ≥ 0x8000 then .refused stFormat 0
        else .done o (b.updPart p fun y => { y with repl := y.repl.set x.arg0 (some ⟨ms, rank, src, repair, maxSeg⟩) }) stOk 0 []

/-- REPL_CFG (R266, R415). -/
def execReplCfg (x : Xnx) (s : State) : Result :=
  s.xnx 0x0203 x .part (x.len == 16) (decide (x.arg0 < 16)) (replCfgAct x)

/-! ### Running UDs (R251) -/

/-- A UPD is issued: the UD enters the update engine's queue (R251). -/
def updIssue (b : Body) (core : Fin 32) : Body :=
  match b.nextAe core kUpd with
  | none => b
  | some (x, e) =>
    let idx := (b.core core).cx.aeIdx.toNat
    if !b.mayLaunch core ∨ (b.quad (quadOf core)).udQ.length ≥ 128 then b
    else (b.updCx core fun k => k.launch e).updQuad (quadOf core) fun q => { q with udQ := q.udQ ++ [QJob.new x core idx e 0] }

/-- UPD. -/
def execUpd (core : Fin 32) (s : State) : Result := s.onBody fun o b => b.issuing o core fun b => updIssue b core

/-- The UD of a job. -/
def Body.udOfJob (b : Body) (j : QJob) : Ud := udOf (b.imageOf j.ctx) j.ref
/-- What the job's slot does. -/
def Body.jobRun (b : Body) (j : QJob) : RunState := (b.slot j.ctx.part j.ctx.slot).run

/-- The UD that a row acts on: the head of the queue starts when it has the row's OP and fewer than four run; else the
first unfinished running UD of that OP goes on (R251). -/
def Body.pickUd (b : Body) (q : Fin 4) (op : Nat) : Option (Body × QJob) :=
  let k := b.quad q
  let going := (k.udRun.find? fun j => !j.done && (b.udOfJob j).op == op &&
    (b.jobRun j == .running || b.jobRun j == .stopping)).map fun j => (b, j)
  match k.udQ with
  | j :: t =>
    if (b.udOfJob j).op = op ∧ b.jobRun j = .running ∧ k.udRun.length < 4 then
      some (b.updQuad q fun k => { k with udQ := t, udRun := k.udRun ++ [j] }, j)
    else going
  | [] => going

/-- Replace a running job. -/
def Quad.setJob (q : Quad) (j : QJob) : Quad :=
  { q with udRun := q.udRun.map fun k => if k.core = j.core ∧ k.idx = j.idx then j else k }
/-- Replace a running job. -/
def Body.setJob (b : Body) (q : Fin 4) (j : QJob) : Body := b.updQuad q fun k => k.setJob j

/-- A quadrant's update-path unit observes elements (R148). -/
def Quad.observe (q : Quad) (x : CtxId) (tag kind : Byte) (vals : List W32) : Quad :=
  let mine := (q.harv.filter (·.1 == x)).map (·.2)
  { q with harv := q.harv.filter (·.1 != x) ++ (harvest mine tag kind vals).map fun h => (x, h) }

/-- F32 words in memory. -/
def wordsAt (m : Mem) (a n : Nat) : List W32 := (List.range n).map fun i => BitVec.ofNat 32 (m.le (a + 4 * i) 4)

/-- Elements go on to a boundary of 65,536 or to the end (R256). -/
def stopAt65536 (upto pos n : Nat) : Nat := max pos (if upto ≥ n then n else upto / 65536 * 65536)

/-! ### NORM and CHECK (R257 to R260) -/

/-- Address of entry l of a quadrant's slice of the norm vector. -/
def nvecEntry (nvec q l : Nat) : Nat := nvec + q * 4096 + 16 * l

/-- The entry after a NORM: the pair takes the NORM's curd and then its whey, NF its count; a count past 32 bits has no
stated value (log entry 2). -/
def normAdd (m : Mem) (free : Nat) (a : Nat) (h : HarvAcc) : List Byte :=
  let p := (Pair.add ⟨BitVec.ofNat 32 (m.le a 4), BitVec.ofNat 32 (m.le (a + 4) 4)⟩ h.ssqHi).add h.ssqLo
  let nf := m.le (a + 8) 4 + h.nf.toNat
  leBytes 4 p.hi.toNat ++ leBytes 4 p.lo.toNat ++ leBytes 4 (if nf < 2 ^ 32 then nf else (Config.freeWord free).toNat)

/-- A NORM of the context that started before a job was stopped by the pre-emption under way, and has its pair still to add. -/
def Body.normBefore (b : Body) (q : Fin 4) (j : QJob) : Bool :=
  let s := b.slot j.ctx.part j.ctx.slot
  s.run == .stopping && (s.order.takeWhile fun r => !(r.1 == j.core && r.2 == j.idx)).any fun r =>
    decide (quadOf r.1 = q) && (findJob (b.quad q).udRun r.1 r.2).isNone &&
      (b.core r.1).cx.launched.any fun l => l.idx == r.2 && l.kind.toNat == kUpd && (udOf s.image l.ref).op == opNorm

/-- A NORM whose elements are all summed adds its pair to the norm vector, unless an earlier one of its quadrant, running or stopped, has
yet to: NORMs add in start order (R256, R257). -/
def normSettle (o : Own) (q : Fin 4) (r : Body × Bool) (j0 : QJob) : Body × Bool :=
  let b := r.1
  let u := b.udOfJob j0
  match findJob (b.quad q).udRun j0.core j0.idx with
  | none => r
  | some j =>
    let a := nvecEntry u.nvec q.val u.layer
    if u.op ≠ opNorm ∨ j.done then r
    else if r.2 || decide (j.pos < u.elems) || b.normBefore q j then (b, true)
    else
      match b.firstBad o [(a, 16)] with
      | some w => (b.readBad o (entryOf j.ctx j.core j.idx) w, true)
      | none =>
        let h := { HarvAcc.new 0 0 with ssqHi := j.sumHi, ssqLo := j.sumLo, nf := j.nf }
        ({ ((b.correctedIn o [(a, 16)]).setJob q { j with done := true }).put o j.ctx j.core j.idx [whole (a, normAdd b.mem b.free a h)] with
          free := b.free + 1 }, false)

/-- NORM (R257); it goes on only as its gradients flow (R226, R227). -/
def normRun (o : Own) (b : Body) (q : Fin 4) (upto : Nat) : Body :=
  match b.pickUd q opNorm with
  | none => b
  | some (b1, j) =>
    let u := b1.udOfJob j
    let hi := stopAt65536 upto j.pos u.elems
    let reads := [(u.grad + 4 * j.pos, 4 * (hi - j.pos))]
    if !b1.flows o reads then b
    else
    match b1.firstBad o reads with
    | some w => b1.readBad o (entryOf j.ctx j.core j.idx) w
    | none =>
      let vals := wordsAt b1.mem (u.grad + 4 * j.pos) (hi - j.pos)
      let h := { HarvAcc.new 0 0 with ssqHi := j.sumHi, ssqLo := j.sumLo, nf := j.nf }.observe vals (vals.length / 256 + 1)
      let b2 := ((b1.correctedIn o reads).countReadsOf o reads).setJob q { j with pos := hi, sumHi := h.ssqHi, sumLo := h.ssqLo, nf := h.nf }
      let b3 := if u.hv then b2.updQuad q fun k => k.observe j.ctx u.htagA 2 vals else b2
      ((b3.quad q).udRun.foldl (normSettle o q) (b3, false)).1

/-- NORM. -/
def execNorm (quad : Fin 4) (upto : Nat) (s : State) : Result := s.onBody fun o b => normRun o b quad upto

/-- An entry of the reduced vector: SSQ and NF. -/
def nvecReduced (m : Mem) (nvec l : Nat) : Pair × Nat :=
  let a := nvec + 0x4000 + 16 * l
  (⟨BitVec.ofNat 32 (m.le a 4), BitVec.ofNat 32 (m.le (a + 4) 4)⟩, m.le (a + 8) 4)

/-- The decision of R259: 1 proceed, 2 skip with FAULT_NONFINITE, 3 skip with FAULT_NORM. -/
def checkDecision (es : List (Pair × Nat)) (gmax : W32) (lmax : List W32) : Nat :=
  let g := (es.foldl (fun (p : Pair) e => (p.add e.1.hi).add e.1.lo) ⟨0, 0⟩).hi
  if es.any (fun e => e.2 != 0 || !isFinite e.1.hi) || !isFinite g then 2
  else if (f32 gmax).lt (f32 (fsqrt g)) || (es.zip lmax).any (fun e => (f32 e.2).lt (f32 (fsqrt e.1.1.hi))) then 3
  else 1

/-- CHECK: the decision, and under a skip its counter and record (R259, R260). -/
def checkRun (o : Own) (b : Body) (q : Fin 4) : Body :=
  match b.pickUd q opCheck with
  | none => b
  | some (b1, j) =>
    let u := b1.udOfJob j
    match b1.firstBad o [(u.nvec + 0x4000, 16 * u.layer)] with
    | some w => b1.readBad o (entryOf j.ctx j.core j.idx) w
    | none =>
      let s := b1.slot j.ctx.part j.ctx.slot
      let lmax := (List.range u.layer).map fun i => wordAt s.image (u.lmax - s.imageAt + 4 * i)
      let d := checkDecision ((List.range u.layer).map (nvecReduced b1.mem u.nvec)) u.gmax lmax
      let st : W16 := if d = 2 then ftNonfinite else ftNorm
      let b2 := ((b1.correctedIn o [(u.nvec + 0x4000, 16 * u.layer)]).setJob q { j with done := true }).updSlot j.ctx.part j.ctx.slot fun s =>
        { s with decision := BitVec.ofNat 2 d, skipStat := if d = 1 then 0 else st }
      let b3 := b2.updPart j.ctx.part fun p =>
        { p with
          decision := BitVec.ofNat 2 d
          skipNf := if d = 2 then satAdd p.skipNf 1 else p.skipNf
          skipNorm := if d = 3 then satAdd p.skipNorm 1 else p.skipNorm }
      if d = 1 then b3 else b3.faultEvent o j.ctx.part st (0, j.core.val) j.idx

/-- CHECK. -/
def execCheck (quad : Fin 4) (s : State) : Result := s.onBody fun o b => checkRun o b quad

/-- The invocation skips its update (R260). -/
def Slot.skips (s : Slot) : Bool := s.decision == 2 || s.decision == 3

/-! ### APPLY (R247, R261 to R265) -/

/-- The engine's copy of a header, by address. -/
def Slot.header (s : Slot) (a : Nat) : List Byte := ((s.shards.find? (·.1 == a)).map (·.2)).getD []
/-- The copy with another commit record. -/
def Slot.setRecord (s : Slot) (a r : Nat) : Slot :=
  { s with shards := s.shards.map fun h => if h.1 = a then (h.1, leBytes 8 r ++ h.2.drop 8) else h }

/-- What APPLY makes of one element: the update, the master, moments and weight as bytes, and what conversions count. -/
structure Applied where
  d    : W32
  mast : List Byte
  curd : W32
  m1   : List Byte × ConvEv
  m2   : List Byte × ConvEv
  w    : List Byte × ConvEv
  deriving DecidableEq, Repr

/-- A CCW for a step: SEED plus STEP, and a stream offset (R262). -/
def Ccw.forStep (c : Ccw) (step : W64) (k : Nat) : Ccw := { c with seed := c.seed + step, stream := c.stream + k }

/-- A value converted to a format code. -/
def convBytes (fmt : Nat) (c : Ccw) (i : Nat) (v : Num) : List Byte × ConvEv :=
  match Target.ofCode fmt with
  | none => ([], .none)
  | some t => let r := convert t c i v; (leBytes t.bytes r.1, r.2)

/-- An F32 word read from a moment. -/
def momWord (fmt : Nat) (m : Mem) (a : Nat) : W32 :=
  if fmt = 9 then BitVec.ofNat 32 (m.le a 4) else toF32 (elemNum fmt (m.le a 2))

/-- The update of one element from gradient, moments and master (R261): moments and d. -/
def updateStep (opt : Nat) (ps : List Byte) (w g m v : W32) : W32 × W32 × W32 :=
  let lr := wordAt ps 0
  let b1 := wordAt ps 4
  let b2 := wordAt ps 8
  let eps := wordAt ps 0xC
  let wd := wordAt ps 0x10
  let bc1 := wordAt ps 0x14
  let bc2 := wordAt ps 0x18
  let g2 := fmul g g
  let m1 := if opt = 1 then ffma b1 (fsub m g) g else ffma b1 m g
  let v1 := ffma b2 (fsub v g2) g2
  let u := if opt = 1 then fdiv (fmul m1 bc1) (fadd (fsqrt (fmul v1 bc2)) eps) else m1
  (m1, v1, fmul (lr ^^^ 0x80000000) (ffma wd w u))

/-- APPLY on element i, from the active slot (R261, R262). -/
def applyElem (m : Mem) (u : Ud) (s : Shard) (ps : List Byte) (step : W64) (i : Nat) : Applied :=
  let act := s.active s.commit
  let eM := elemBytes s.mfmt
  let eO := elemBytes s.ofmt
  let old : Pair := ⟨BitVec.ofNat 32 (m.le (act + eM * i) 4), if s.mfmt = 10 then BitVec.ofNat 32 (m.le (act + eM * i + 4) 4) else 0⟩
  let g : W32 := BitVec.ofNat 32 (m.le (u.grad + 4 * i) 4)
  let r := updateStep u.opt ps old.hi g (momWord s.ofmt m (act + s.mom1 + eO * i)) (momWord s.ofmt m (act + s.mom2 + eO * i))
  let new : Pair := if s.mfmt = 10 then old.add r.2.2 else ⟨fadd old.hi r.2.2, 0⟩
  { d := r.2.2
    mast := leBytes 4 new.hi.toNat ++ (if s.mfmt = 10 then leBytes 4 new.lo.toNat else [])
    curd := new.hi
    m1 := convBytes s.ofmt (u.ccwM.forStep step 0) i (f32 r.1)
    m2 := if s.nmom = 2 then convBytes s.ofmt (u.ccwM.forStep step 1) i (f32 r.2.1) else ([], .none)
    w := convBytes s.wfmt (u.ccwW.forStep step 0) i (if s.mfmt = 10 then new.num else f32 new.hi) }

/-- Where element i lies in transposed order. -/
def Shard.trn (s : Shard) (i : Nat) : Nat := i % s.k * s.ns + i / s.k

/-- The writes of elements from lo on: masters, moments, both weight copies, and the vat copies under VATW (R247, R263). -/
def applyWrites (u : Ud) (s : Shard) (lo : Nat) (es : List Applied) : List (Nat × List Byte) :=
  let alt := s.alternate s.commit
  let eW := elemBytes s.wfmt
  let trn (base : Nat) : List (Nat × List Byte) :=
    if s.ns > 1 then es.zipIdx.map fun ((e, i) : Applied × Nat) => (base + eW * s.trn (lo + i), e.w.1) else []
  let fwd (base : Nat) : Nat × List Byte := (base + eW * lo, es.flatMap fun e => e.w.1)
  [(alt + elemBytes s.mfmt * lo, es.flatMap (·.mast)), (alt + s.mom1 + elemBytes s.ofmt * lo, es.flatMap fun e => e.m1.1)] ++
    (if s.nmom = 2 then [(alt + s.mom2 + elemBytes s.ofmt * lo, es.flatMap fun e => e.m2.1)] else []) ++
    [fwd (alt + s.wfwd)] ++ trn (alt + s.wtrn) ++ (if u.vatw then fwd u.vatFwd :: trn u.vatTrn else [])

/-- The flag bitmaps of an APPLY (R52): the weights' under CCW_W, the moments' under CCW_M. Two moments write one bitmap
without an order (R53): where they differ a byte has no stated value (log entry 2). -/
def applyFlags (free : Nat) (u : Ud) (s : Shard) (core : Nat) (es : List Applied) : List (Nat × List Byte) :=
  let n := ceilDiv s.elems 32
  let map (f : Applied → ConvEv) : List Byte := flagBitmap (es.map fun e => (f e).flag) n
  let a := map fun e => e.m1.2
  let c := map fun e => e.m2.2
  let mom := if s.nmom = 2 then (a.zip c).zipIdx.map fun (((x, y), i) : (Byte × Byte) × Nat) =>
      if x = y then x else BitVec.ofNat 8 (Config.freeWord (free + i)).toNat else a
  (match u.ccwM.ofs with | some f => [(vatBase core + f, mom)] | none => []) ++
    (match u.ccwW.ofs with | some f => [(vatBase core + f, map fun e => e.w.2)] | none => [])

/-- The digest of a 4 KiB segment (R154): of all its bytes as memory holds them, those between the arrays of a slot too (DESIGN CHOICE,
log entry 94). -/
def segDigest (m : Mem) (base seg : Nat) : W64 :=
  let h := (List.range 512).foldl (fun (h : W64) i =>
    mix (h ^^^ BitVec.ofNat 64 (m.le (base + 4096 * seg + 8 * i) 8)) + BitVec.ofNat 64 i)
    (mix (BitVec.ofNat 64 seg ^^^ 0x4648363453454701))
  mix (h ^^^ 4096)

/-- The levels above a level of a digest tree, the level first (R265). -/
def digTree : Nat → List W64 → List W64
  | 0, l => l
  | f + 1, l =>
    if l.length ≤ 1 then l
    else l ++ digTree f ((List.range (ceilDiv l.length 64)).map fun i => ((l.drop (64 * i)).take 64).foldl (· + ·) 0)

/-- The segment digests of a slot. -/
def Shard.digests (s : Shard) (m : Mem) (base : Nat) : List W64 := (List.range s.segments).map (segDigest m base)

/-- The digest array over segment digests. -/
def digArray (l : List W64) : List Byte := (digTree 8 l).flatMap fun w => leBytes 8 w.toNat

/-- The root of a digest tree: the slot's FH64. -/
def fh64 (l : List W64) : W64 := l.foldl (· + ·) 0

/-- Before any write an APPLY checks its record and marks the header DIRTY (R247, R264): the body that goes on, or the
body after the fault. -/
def applyBegin (o : Own) (b : Body) (q : Fin 4) (j : QJob) (u : Ud) : Body × Bool :=
  if j.begun then (b, true)
  else
    match b.firstBad o [(u.shard, 64)] with
    | some w => (b.readBad o (entryOf j.ctx j.core j.idx) w, false)
    | none =>
      let b := b.correctedIn o [(u.shard, 64)]
      let r := b.mem.le u.shard 8
      if recMark r ≠ 0xC7 ∨ recStep r ≠ (b.part j.ctx.part).step.toNat then
        (b.faultCore o j.ctx.part j.core j.idx ftJournal, false)
      else
        let new := mkRec (recStep r) true (recSlot r)
        let b1 := b.updSlot j.ctx.part j.ctx.slot fun s =>
          { s.setRecord u.shard new with
            digests := if u.dig && !s.digests.contains (q.val, j.ref) then s.digests ++ [(q.val, j.ref)] else s.digests }
        ((b1.setJob q { j with begun := true }).put o j.ctx j.core j.idx
          [whole (u.shard, (b1.slot j.ctx.part j.ctx.slot).header u.shard)], true)

/-- The end of an APPLY: flag bitmaps, digest array, FH64 in the HTAG_B record (R263, R265). -/
def applyEnd (o : Own) (b : Body) (q : Fin 4) (j : QJob) (u : Ud) (s : Shard) (all : Unit → List Applied) : Body :=
  let b1 := if u.ccwM.ofs.isSome ∨ u.ccwW.ofs.isSome then
      { b.put o j.ctx j.core j.idx ((applyFlags b.free u s j.core.val (all ())).map whole) with free := b.free + ceilDiv s.elems 256 }
    else b
  let b2 := if u.dig then
      let l := s.digests b1.mem (s.alternate s.commit)
      (b1.put o j.ctx j.core j.idx [whole (u.diga, digArray l)]).updQuad q fun k =>
        let mine (h : CtxId × HarvAcc) : Bool := h.1 == j.ctx && h.2.tag == u.htagB
        let live := if k.harv.any mine then k.harv else k.harv ++ [(j.ctx, HarvAcc.new u.htagB 1)]
        { k with harv := live.map fun h => if mine h then (h.1, { h.2 with fh64 := h.2.fh64 + fh64 l }) else h }
    else b1
  b2.updSlot j.ctx.part j.ctx.slot fun s => { s with appliesDone := s.appliesDone + 1 }

/-- The memory that an APPLY reads of elements lo to hi - 1: gradients, master, moments. -/
def applyReads (u : Ud) (s : Shard) (lo hi : Nat) : List (Nat × Nat) :=
  let n := hi - lo
  let act := s.active s.commit
  [(u.grad + 4 * lo, 4 * n), (act + elemBytes s.mfmt * lo, elemBytes s.mfmt * n),
    (act + s.mom1 + elemBytes s.ofmt * lo, elemBytes s.ofmt * n),
    (act + s.mom2 + elemBytes s.ofmt * lo, if s.nmom = 2 then elemBytes s.ofmt * n else 0)]

/-- APPLY (R247, R260 to R265); it goes on only as its operands flow (R226, R227). -/
def applyRun (o : Own) (b : Body) (q : Fin 4) (upto : Nat) : Body :=
  match b.pickUd q opApply with
  | none => b
  | some (b1, j) =>
    if (b1.slot j.ctx.part j.ctx.slot).skips then b1.setJob q { j with done := true }
    else if !b1.flows o [((b1.udOfJob j).shard, 64)] then b
    else
      let u := b1.udOfJob j
      let r := applyBegin o b1 q j u
      if !r.2 then r.1
      else
        let sl := r.1.slot j.ctx.part j.ctx.slot
        let s := shardOf (sl.header u.shard)
        let lo := j.pos
        let hi := stopAt65536 upto lo s.elems
        let reads := applyReads u s lo hi
        if !r.1.flows o reads then r.1
        else
        match r.1.firstBad o reads with
        | some w => r.1.readBad o (entryOf j.ctx j.core j.idx) w
        | none =>
          let elem := applyElem r.1.mem u s (paramSet sl.params u.pset) sl.step
          let es := ((List.range hi).drop lo).map elem
          let b2 := (((r.1.correctedIn o reads).countReadsOf o reads).setJob q { j with begun := true, pos := hi, done := hi == s.elems }).updCore j.core fun k =>
            k.countEvs (es.flatMap fun e => [e.m1.2, e.m2.2, e.w.2])
          let b3 := if u.hv then b2.updQuad q fun k =>
              (k.observe j.ctx u.htagA 3 (es.map (·.d))).observe j.ctx u.htagB 1 (es.map (·.curd)) else b2
          let b4 := b3.put o j.ctx j.core j.idx ((applyWrites u s lo es).map whole)
          if hi = s.elems then applyEnd o b4 q j u s (fun _ => (List.range s.elems).map elem) else b4

/-- APPLY. -/
def execApply (quad : Fin 4) (upto : Nat) (s : State) : Result := s.onBody fun o b => applyRun o b quad upto

/-! ### COMMIT (R247, R264) -/

/-- COMMIT: once every APPLY of the invocation has completed, the record takes STEP + 1, DIRTY 0 and SLOT inverted; with
the last COMMIT, UPD_STEP takes the new STEP (R264). -/
def commitRun (o : Own) (b : Body) (q : Fin 4) : Body :=
  match b.pickUd q opCommit with
  | none => b
  | some (b1, j) =>
    let sl := b1.slot j.ctx.part j.ctx.slot
    let u := b1.udOfJob j
    if sl.skips then b1.setJob q { j with done := true }
    else if !b1.flows o [(u.shard, 64)] then b
    else if sl.appliesDone ≠ udCount sl.image opApply then b1
    else
      let r := (shardOf (sl.header u.shard)).commit
      let b2 := (b1.setJob q { j with done := true }).updSlot j.ctx.part j.ctx.slot fun s =>
        { s.setRecord u.shard (mkRec (recStep r + 1) false (!recSlot r)) with commitsDone := s.commitsDone + 1 }
      let b3 := b2.put o j.ctx j.core j.idx [whole (u.shard, (b2.slot j.ctx.part j.ctx.slot).header u.shard)]
      if sl.commitsDone + 1 = udCount sl.image opCommit then
        b3.updPart j.ctx.part fun p => { p with step := BitVec.ofNat 54 sl.step.toNat, stepValid := true }
      else b3

/-- COMMIT. -/
def execCommit (quad : Fin 4) (s : State) : Result := s.onBody fun o b => commitRun o b quad

/-! ### COMPARE and repair (R267 to R269) -/

/-- A shard in the comparison: its UD, its header copy. -/
structure Compared where
  ud    : Ud
  shard : Shard
  deriving DecidableEq, Repr, Inhabited

/-- The shards that the invocation has digested: by quadrant, then in APPLY start order; one whose APPLY still runs, or waits stopped for
the rest of its work, is not among them (R267). -/
def Body.compared (b : Body) (x : CtxId) : List Compared :=
  let s := b.slot x.part x.slot
  let done (d : Nat × Nat) (c : Fin 32) (i : Nat) : Bool := (b.quads.getD d.1 Quad.reset).udRun.any fun j =>
    j.ctx == x && j.core == c && j.idx == i && j.done
  let busy (d : Nat × Nat) : Bool := (List.finRange 32).any fun c => c.val / 8 == d.1 && (b.core c).ctx == some x &&
    (b.core c).cx.launched.any fun l => l.kind.toNat == kUpd && l.ref == d.2 && !done d c l.idx
  ((List.range 4).flatMap fun q => s.digests.filter fun d => d.1 == q && !busy d).map fun d =>
    let u := udOf s.image d.2
    ⟨u, shardOf (s.header u.shard)⟩

/-- The segment digests of a shard in its digest array. -/
def Compared.own (c : Compared) (m : Mem) : List W64 :=
  (List.range c.shard.segments).map fun i => BitVec.ofNat 64 (m.le (c.ud.diga + 8 * i) 8)

/-- The digest arrays that a comparison reads. -/
def digestReads (cs : List Compared) : List (Nat × Nat) := cs.map fun c => (c.ud.diga, 8 * c.shard.digNodes)

/-- The segment digests of every compared shard, in order. -/
def ownDigests (cs : List Compared) (m : Mem) : List W64 := cs.flatMap fun c => c.own m

/-- Member r's digests: this device's own, or what it exchanged; a missing one counts as equal. -/
def memberDigest (g : ReplGroup) (own : List W64) (others : List (List W64)) (r i : Nat) : W64 :=
  if r = g.rank then own.getD i 0 else ((others.getD r [])[i]?).getD (own.getD i 0)

/-- The shards' places in the list: first segment and number of segments. -/
def segSpans (cs : List Compared) : List (Nat × Nat) :=
  (cs.foldl (fun (r : List (Nat × Nat) × Nat) c => (r.1 ++ [(r.2, c.shard.segments)], r.2 + c.shard.segments)) ([], 0)).1

/-- The members differ in the node over segments lo to lo + n - 1. -/
def nodeDiffers (g : ReplGroup) (own : List W64) (others : List (List W64)) (lo n : Nat) : Bool :=
  let node (r : Nat) : W64 := fh64 ((List.range n).map fun i => memberDigest g own others r (lo + i))
  (List.range g.members.length).any fun r => node r != node g.rank

/-- The differing segments: those whose node differs on every level from the root down (R267). -/
def differing (g : ReplGroup) (cs : List Compared) (own : List W64) (others : List (List W64)) : List Nat :=
  (segSpans cs).flatMap fun (s, n) =>
    ((List.range n).filter fun i => (List.range 6).all fun l =>
      let w := 64 ^ l
      nodeDiffers g own others (s + i / w * w) (min w (n - i / w * w))).map (s + ·)

/-- The digest that a segment should have: the source rank's, or what more than half the members hold (R268). -/
def targetDigest (g : ReplGroup) (own : List W64) (others : List (List W64)) (majority : Bool) (src i : Nat) : W64 :=
  let v (r : Nat) : W64 := memberDigest g own others r i
  let n := g.members.length
  let most := (List.range n).find? fun r => 2 * ((List.range n).countP fun q => v q == v r) > n
  match (if majority then most else none) with
  | some r => v r
  | none => v src

/-- A copied segment in the slot, and the vat copies of the weights in it (R268). -/
def segWrites (c : Compared) (i : Nat) (data : List Byte) : List (Nat × List Byte) :=
  let s := c.shard
  let copy (arr vat : Nat) : List (Nat × List Byte) :=
    let lo := max (4096 * i) arr
    let hi := min (4096 * i + 4096) (arr + s.wBytes)
    if lo < hi then [(vat + (lo - arr), (data.drop (lo - 4096 * i)).take (hi - lo))] else []
  (s.alternate s.commit + 4096 * i, data) ::
    (if c.ud.vatw then copy s.wfwd c.ud.vatFwd ++ (if s.ns > 1 then copy s.wtrn c.ud.vatTrn else []) else [])

/-- The repair of R268: segments that differ from their target are copied, digests recomputed, and the roots compared once more.
`segments` holds the copied data by place in the list, `after` each member's roots of the compared shards after its own repair; a
root missing there is the one that the targets give. -/
def repair (o : Own) (b : Body) (x : CtxId) (core : Fin 32) (idx : Nat) (g : ReplGroup) (cs : List Compared) (found : List Nat)
    (own : List W64) (target : Nat → W64) (segments : List (Nat × List Byte)) (after : List (List W64)) : Body × Bool :=
  let spans := (segSpans cs).zip cs
  let ws := spans.flatMap fun ((s, n), c) =>
    ((List.range n).filter fun i => found.contains (s + i) && own.getD (s + i) 0 != target (s + i)).flatMap fun i =>
      match segments.find? (·.1 == s + i) with
      | some d => segWrites c i (d.2.take 4096)
      | none => []
  let b1 := b.put o x core idx (ws.map whole)
  let hit := spans.filter fun ((s, n), _) => (List.range n).any fun i => found.contains (s + i)
  let b2 := b1.put o x core idx (hit.map fun (_, c) => whole (c.ud.diga, digArray (c.shard.digests b1.mem (c.shard.alternate c.shard.commit))))
  let agree := spans.zipIdx.all fun (((s, n), c), k) =>
    let ours := if (List.range n).any fun i => found.contains (s + i) then
        fh64 (c.shard.digests b1.mem (c.shard.alternate c.shard.commit))
      else fh64 ((List.range n).map fun i => own.getD (s + i) 0)
    let due := fh64 ((List.range n).map fun i => if found.contains (s + i) then target (s + i) else own.getD (s + i) 0)
    (List.range g.members.length).all fun r => r == g.rank || ((after.getD r [])[k]?).getD due == ours
  (b2, agree)

/-- A repaired comparison: counted, reported by the invocation, and done (R268). -/
def Body.repaired (b : Body) (q : Fin 4) (j : QJob) (n : Nat) : Body :=
  ((b.setJob q { j with done := true }).updPart j.ctx.part fun p => { p with digFixed := satAdd p.digFixed n }).updSlot
    j.ctx.part j.ctx.slot fun s => { s with repaired := true }

/-- A comparison that holds: the sequencer halts and the invocation waits (R269). -/
def Body.holdCompare (b : Body) (j : QJob) (others : List (List W64)) : Body :=
  (b.updCx j.core fun k => { k with seq := .halted }).updSlot j.ctx.part j.ctx.slot fun s =>
    { s with held := some others, run := if s.run = .running then .held else s.run }

/-- COMPARE (R267 to R269), which goes on only as its digest arrays flow (R226, R227): `others` holds each member's segment digests in
list order, `segments` the data copied, `after` the members' roots after their repairs. -/
def compareRun (o : Own) (b : Body) (q : Fin 4) (others : List (List W64)) (segments : List (Nat × List Byte))
    (after : List (List W64)) : Body :=
  match b.pickUd q opCompare with
  | none => b
  | some (b1, j) =>
    let s := b1.slot j.ctx.part j.ctx.slot
    let u := b1.udOfJob j
    match (b1.part j.ctx.part).repl.getD u.group none with
    | none => b1.setJob q { j with done := true }
    | some g =>
      if s.held.isSome then b1
      else if s.decision ≠ 1 ∨ s.step.toNat % u.every ≠ 0 then b1.setJob q { j with done := true }
      else
        let cs := b1.compared j.ctx
        let reads := digestReads cs
        if !b1.flows o reads then b
        else
        match b1.firstBad o reads with
        | some w => b1.readBad o (entryOf j.ctx j.core j.idx) w
        | none =>
          let b1 := (b1.correctedIn o reads).countReadsOf o reads
          let own := ownDigests cs b1.mem
          match differing g cs own others with
          | [] => b1.setJob q { j with done := true }
          | i :: t =>
            let at_ := ((segSpans cs).findIdx? fun (s, n) => decide (s ≤ i) && decide (i < s + n)).getD 0
            let first := i - ((segSpans cs).getD at_ (0, 0)).1
            let b2 := (b1.updPart j.ctx.part fun p =>
                { p with
                  digFail := satAdd p.digFail 1
                  digRec := some (BitVec.ofNat 12 at_, BitVec.ofNat 16 (min (t.length + 1) 65535), BitVec.ofNat 32 first) }).faultEvent
              o j.ctx.part ftDigest (0, j.core.val) j.idx
            if g.repair = 0 ∨ t.length + 1 > g.maxSeg then b2.holdCompare j others
            else
              let r := repair o b2 j.ctx j.core j.idx g cs (i :: t) own (targetDigest g own others (g.repair == 2) g.srcRank) segments after
              if r.2 then r.1.repaired q j (t.length + 1) else r.1.holdCompare j others

/-- COMPARE. -/
def execCompare (quad : Fin 4) (others : List (List W64)) (data : RepairData) (s : State) : Result :=
  s.onBody fun o b => compareRun o b quad others data.segments data.after

/-- The held COMPARE of a group in a partition: its slot, quadrant and job. -/
def Body.heldOf (b : Body) (p : Fin 8) (g : Nat) : Option (Fin 4 × Fin 4 × QJob) :=
  (List.finRange 4).findSome? fun k =>
    if (b.slot p k).run = .held ∧ (b.slot p k).held.isSome then
      (List.finRange 4).findSome? fun q =>
        ((b.quad q).udRun.find? fun j =>
          j.ctx == ⟨p, k⟩ && (b.udOfJob j).op == opCompare && (b.udOfJob j).group == g).map fun j => (k, q, j)
    else none

/-- A REPL_REPAIR that a held COMPARE still has to answer fails: another repair takes its place. -/
def Body.repairFails (o : Own) (b : Body) (p : Fin 8) (k : Fin 4) : Body :=
  match (b.slot p k).replTicket with
  | some t => (b.updSlot p k fun s => { s with replTicket := none }).respond o t ftDigest 0 []
  | none => b

/-- REPL_REPAIR's rule: the repair from the named rank. When the roots agree the invocation goes on and the command ends with the
COMPARE; else the COMPARE holds on, and the command ends as that is reported failed, or with the job's teardown (R269, R415; log entry
120). -/
def replRepairAct (x : Xnx) (segments : List (Nat × List Byte)) (after : List (List W64)) (o : Own) (b : Body) : Xres :=
  onPart x fun p =>
    let src := xArg x 0 2
    match b.heldOf p x.arg0, (b.part p).repl.getD x.arg0 none with
    | some (k, q, j), some g =>
      if src ≥ g.members.length then .refused stBounds 0
      else
        let others := (b.slot p k).held.getD []
        let cs := b.compared j.ctx
        let reads := digestReads cs
        if b.board.tripped then .pending o b else
        let b := ((b.repairFails o p k).ordered o reads).correctedIn o reads
        match b.firstBad o reads with
        | some w => .done o (b.stewardBad o p w) ftEcc 0 []
        | none =>
        let b := b.countReadsOf o reads
        let own := ownDigests cs b.mem
        let found := differing g cs own others
        let r := repair o b j.ctx j.core j.idx g cs found own (targetDigest g own others false src) segments after
        if r.2 then
          .pending o (((r.1.repaired q j found.length).updCx j.core fun c => { c with seq := .running }).updSlot p k fun s =>
            { s with run := .running, held := none, replTicket := some (xTicket x) })
        else .pending o (r.1.updSlot p k fun s => { s with replTicket := some (xTicket x) })
    | _, _ => .refused stBounds 0

/-- REPL_REPAIR (R269, R415). -/
def execReplRepair (x : Xnx) (data : RepairData) (s : State) : Result :=
  s.xnx 0x0204 x .part (x.len == 2) (decide (x.arg0 < 16)) (replRepairAct x data.segments data.after)

/-! ### Completion and pre-emption -/

/-- UD_COMPLETE: a finished UD leaves the engine, counts, flushes its quadrant's unit after an APPLY that was not skipped (R260: a
skipped one writes nothing), and increments its event; with a
COMPARE the REPL_REPAIR that it waited for ends; a COMPARE that holds after a repair ends that REPL_REPAIR with FAULT_DIGEST (R251, R263,
R269, R415; log entry 120). -/
def udComplete (o : Own) (b : Body) (q : Fin 4) (core : Fin 32) (ae : Nat) : Body :=
  match findJob (b.quad q).udRun core ae with
  | none => b
  | some j =>
    if !j.done then
      if (b.udOfJob j).op = opCompare ∧ (b.slot j.ctx.part j.ctx.slot).held.isSome then b.repairFails o j.ctx.part j.ctx.slot else b
    else
      let u := b.udOfJob j
      let s := b.slot j.ctx.part j.ctx.slot
      let b1 := b.updQuad q fun k => { k with udRun := dropJob k.udRun core ae, udDone := k.udDone + 1 }
      let b2 := if u.op = opApply ∧ !s.skips then b1.flushQuad o j.ctx q else b1
      let b3 := b2.complete j.ctx core ae
      match decide (u.op = opCompare), s.replTicket with
      | true, some t => (b3.updSlot j.ctx.part j.ctx.slot fun s => { s with replTicket := none }).respond o t stOk 0 []
      | _, _ => b3

/-- UD_COMPLETE. -/
def execUdComplete (quad : Fin 4) (core : Fin 32) (ae : Nat) (s : State) : Result :=
  s.onBody fun o b => udComplete o b quad core ae

/-- UD_PREEMPT_STOP: a running NORM or APPLY stops at a boundary, a COMMIT that still waits and a COMPARE that holds stop
as they are; position and sums stay with the context (R256). -/
def udStop (b : Body) (q : Fin 4) (core : Fin 32) (ae : Nat) : Body :=
  match findJob (b.quad q).udRun core ae with
  | none => b
  | some j =>
    let op := (b.udOfJob j).op
    let s := b.slot j.ctx.part j.ctx.slot
    if b.jobRun j ≠ .stopping ∨ j.done ∨ op = opCheck ∨ (op = opCompare ∧ s.held.isNone) ∨
        (op = opCommit ∧ (s.skips ∨ s.appliesDone = udCount s.image opApply)) then b
    else
      (b.updQuad q fun k => { k with udRun := dropJob k.udRun core ae }).updCx core fun k =>
        { k.stopAt ae j.pos with partSums := (ae, j.sumHi, j.sumLo, j.nf) :: k.partSums.filter (·.1 != ae) }

/-- UD_PREEMPT_STOP. -/
def execUdPreemptStop (quad : Fin 4) (core : Fin 32) (ae : Nat) (s : State) : Result :=
  s.onBody fun _ b => udStop b quad core ae

end Sys2Proof.Machine
end

