-- ==== Sys2Proof/Machine/CollDesc.lean ====
section
/-! DEFINITION. Collective descriptors and their checks, their cost, groups (R305 to R308, R314 to R318). -/

namespace Sys2Proof.Machine

open Sys2Proof

/-! ### Descriptors (R308) -/

/-- A collective descriptor. -/
structure Cd where
  op     : Nat
  group  : Nat
  dtype  : Nat
  root   : Nat
  maxRun : Nat
  src    : Nat
  dst    : Nat
  bytes  : Nat
  piece  : Nat
  stage  : Nat
  stageN : Nat
  nmem   : Nat
  ptab   : Nat
  deriving DecidableEq, Repr, Inhabited

/-- Read a CD at an image offset. -/
def cdOf (img : List Byte) (o : Nat) : Cd where
  op := field img o 1
  group := field img (o + 1) 1
  dtype := field img (o + 2) 1
  root := field img (o + 4) 2
  maxRun := field img (o + 6) 2
  src := field img (o + 8) 8
  dst := field img (o + 0x10) 8
  bytes := field img (o + 0x18) 4
  piece := field img (o + 0x1C) 4
  stage := field img (o + 0x20) 8
  stageN := field img (o + 0x28) 4
  nmem := field img (o + 0x2C) 4
  ptab := field img (o + 0x30) 8

/-- OP values. -/
def cdReduce : Nat := 1
/-- ALL_GATHER. -/
def cdGather : Nat := 2
/-- BROADCAST. -/
def cdBroadcast : Nat := 3
/-- PERMUTE. -/
def cdPermute : Nat := 4
/-- BARRIER. -/
def cdBarrier : Nat := 5
/-- NORMVEC. -/
def cdNorm : Nat := 6

/-- The permutation table of a CD: N, PCOUNT and the image of each entry (R317). -/
structure Ptab where
  n    : Nat
  p    : Nat
  dest : List Nat
  deriving DecidableEq, Repr, Inhabited

/-- Read a permutation table: its entries as far as the image holds them (a load refuses an image that does not hold all, R317); entry a
goes to rank [31:20], piece [19:0]. -/
def ptabOf (img : List Byte) (o : Nat) : Ptab :=
  let n := field img o 2
  let p := field img (o + 4) 4
  ⟨n, p, (List.range (min (n * p) ((img.length - (o + 16)) / 4))).map fun a =>
    let w := field img (o + 16 + 4 * a) 4
    w / 2 ^ 20 * p + w % 2 ^ 20⟩

/-- The table is well formed: sizes, reserved bytes, a bijection whose pieces are in range (R317). -/
def ptabOk (img : List Byte) (o : Nat) : Bool :=
  let n := field img o 2
  let p := field img (o + 4) 4
  let t := ptabOf img o
  zeros img (o + 2) 2 && zeros img (o + 8) 8 && decide (2 ≤ n) && decide (n ≤ 4096) && decide (1 ≤ p) &&
    (List.range (n * p)).all (fun a => decide (field img (o + 16 + 4 * a) 4 % 2 ^ 20 < p)) &&
    (List.range (n * p)).all (fun a => t.dest.contains a)

/-- The cycle of an entry from itself on (R318). -/
def cycleFrom (dest : List Nat) (a : Nat) : (fuel : Nat) → (x : Nat) → List Nat
  | 0, _ => []
  | f + 1, x => x :: (let y := dest.getD x a; if y = a then [] else cycleFrom dest a f y)

/-- A cycle cut into runs of n positions. -/
def runsOf (n : Nat) : (fuel : Nat) → List Nat → List (List Nat)
  | 0, _ => []
  | f + 1, l => if l = [] then [] else l.take n :: runsOf n f (l.drop n)

/-- The staged entries of a permutation: the last of each run of each cycle longer than 1 (R318). -/
def Ptab.staged (t : Ptab) (maxRun : Nat) : List Nat :=
  (List.range t.dest.length).flatMap fun a =>
    let c := cycleFrom t.dest a t.dest.length a
    if c.length ≤ 1 ∨ c.any (· < a) then [] else (runsOf maxRun c.length c).filterMap (·.getLast?)

/-- The most staged pieces that one rank holds: those bound for its places. -/
def Ptab.stageNeed (t : Ptab) (maxRun : Nat) : Nat :=
  let owners := (t.staged maxRun).map fun a => t.dest.getD a 0 / max 1 t.p
  ((List.range t.n).map fun r => owners.count r).foldl max 0

/-- Bytes at SRC and at DST. -/
def Cd.srcBytes (c : Cd) : Nat := if c.op = cdNorm then 0x5000 else if c.op = cdBarrier then 0 else c.bytes
/-- Bytes at DST. -/
def Cd.dstBytes (c : Cd) : Nat := if c.op = cdGather then c.nmem * c.bytes else c.srcBytes
/-- The operation stages data. -/
def Cd.stages (c : Cd) : Bool := c.op == cdReduce || c.op == cdNorm || c.op == cdPermute

/-- A range lies wholly inside a KIND 7 region with KEEP = 1 (R316). -/
def LoadCtx.inStage (x : LoadCtx) (a n : Nat) : Bool :=
  (vallocOf x.img).any fun v => v.kind == 7 && v.keep && v.loc == 0x40 && inside (v.addr, v.size) a n

/-- The checks of a CD at an image offset (R308, R316 to R318). An ALL_GATHER's SRC may be exactly the member's own slot of DST; while
its group is not configured the member has no rank, and any slot may be its own (DEDUCED, log entry 104). -/
def LoadCtx.cdFails (x : LoadCtx) (off : Nat) : Fails :=
  if !x.has off 64 then []
  else
    let c := cdOf x.img off
    let is (op : Nat) : Bool := c.op == op
    let perm := is cdPermute
    let barrier := is cdBarrier
    let inTab := perm && c.ptab % 64 == 0 && x.has c.ptab 16 &&
      x.has c.ptab (16 + 4 * (field x.img c.ptab 2 * field x.img (c.ptab + 4) 4)) &&
      decide (field x.img c.ptab 2 * field x.img (c.ptab + 4) 4 ≤ 1048576)
    let tab := ptabOf x.img c.ptab
    let staged := c.stages || c.stageN != 0
    let s : Rng := ((c.src : Int), c.srcBytes)
    let d : Rng := ((c.dst : Int), c.dstBytes)
    let g : Rng := ((c.stage : Int), c.stageN)
    let own := x.data ++ x.vats ++ x.cellar
    let rs := (if barrier then [] else [(own, s), (own, d)]) ++ (if staged then [(x.cellar, g)] else [])
    let ownSlot := is cdGather && (List.range c.nmem).any fun r =>
      c.src == c.dst + r * c.bytes && ((x.part.coll.getD c.group none).elim true fun g => g.rank == r)
    let maxBytes := if is cdReduce then 2 ^ 30 else 2 ^ 28
    itemFail off
      ([(off % 64 != 0 || c.op == 0 || decide (c.op > 6) || decide (c.group > 15) ||
          c.dtype != (if is cdReduce then 9 else 0) || !zeros x.img (off + 3) 1 || !zeros x.img (off + 0x38) 8 ||
          (!is cdBroadcast && c.root != 0) || (if perm then c.maxRun == 0 || decide (c.maxRun > 64) else c.maxRun != 0) ||
          (if is cdGather then decide (c.nmem < 2) || decide (c.nmem > 4096) else c.nmem != 0) ||
          (!perm && c.ptab != 0) || [c.src, c.dst, c.stage].any addrBad ||
          (perm && (c.ptab % 64 != 0 || (inTab && !ptabOk x.img c.ptab) ||
            (x.has c.ptab 16 && decide (field x.img c.ptab 2 * field x.img (c.ptab + 4) 4 > 1048576)))) ||
          (staged && !x.inStage c.stage c.stageN), stFormat),
        ((if is cdReduce || is cdGather || is cdBroadcast then c.bytes % 64 != 0 || c.bytes == 0 || decide (c.bytes > maxBytes)
            else if perm then c.piece % 4096 != 0 || c.piece == 0 || (inTab && c.bytes != tab.p * c.piece)
            else c.bytes != 0) || (!perm && c.piece != 0) || c.stageN % 65536 != 0, stShape)] ++
      x.ranges rs ++
      [(perm && c.ptab % 64 == 0 && (!x.has c.ptab 16 ||
          !x.has c.ptab (16 + 4 * (field x.img c.ptab 2 * field x.img (c.ptab + 4) 4))), stBounds),
        (!barrier && ((c.stages && c.src != c.dst) ||
          (!c.stages && s.meets d && !(ownSlot || (is cdBroadcast && c.src == c.dst))) ||
          (staged && (g.meets s || g.meets d))), stOverlap),
        ((is cdReduce || is cdNorm) && decide (c.stageN < 6 * 65536) ||
          (perm && inTab && ptabOk x.img c.ptab && decide (tab.stageNeed c.maxRun * c.piece > c.stageN)), stFit)])

/-- COLL entries of an almanac whose descriptor lies in the image. -/
def collAes (x : LoadCtx) : List AePos := (allAes x.img).filter fun a => a.ae.kind == kColl && x.has a.ae.ref 64

/-- R310: all COLL entries that name one group lie in one core's list. -/
def LoadCtx.collSetFails (x : LoadCtx) : Fails :=
  let cs := collAes x
  let grp (a : AePos) : Nat := (cdOf x.img a.ae.ref).group
  (cs.zipIdx.filter fun ((a, i) : AePos × Nat) => (cs.take i).any fun b => grp b == grp a && b.core != a.core).map
    fun ((a, _) : AePos × Nat) => (aeOffset x.img a, stFormat)

/-! ### Cost (R314, R315) -/

/-- A non-negative fraction. -/
abbrev Frac := Nat × Nat
/-- Sum of fractions. -/
def Frac.add (a b : Frac) : Frac := (a.1 * b.2 + b.1 * a.2, a.2 * b.2)
/-- The larger of two fractions. -/
def Frac.max (a b : Frac) : Frac := if a.1 * b.2 < b.1 * a.2 then b else a

/-- Dimension sizes of a group. -/
def CollGroup.sizes (g : CollGroup) : List Nat := [g.n1, g.n2, g.n3].take g.dims
/-- Set bits of a mask that are links up. -/
def Body.linksUp (b : Body) (m : W32) : Nat := (b.upLinks (m.toNat % 2 ^ 24)).length
/-- Links up in one direction of a dimension. -/
def Body.dimLinks (b : Body) (g : CollGroup) (d : Nat) : Nat := b.linksUp (g.masks.getD (2 * d) 0)

/-- Bytes of part p of a buffer of s bytes (R311). -/
def partSpan (s dims p : Nat) : Nat × Nat :=
  let g := ceilDiv s (dims * 64) * 64
  (p * g, min s ((p + 1) * g) - p * g)

/-- T₀ of R315 in units of byte / (0.1 GB/s): bytes over tenths; dimensions with no link up count nothing. -/
def Body.collTime (b : Body) (g : CollGroup) (c : Cd) (links : Nat) : Frac :=
  let ns := g.sizes
  let bw (d : Nat) : Nat := b.dimLinks g d * 996
  let dimsOn := (List.range g.dims).filter fun d => ns.getD d 1 > 1 && bw d != 0
  if c.op = cdReduce ∨ c.op = cdNorm then
    let s := if c.op = cdNorm then 4096 else c.bytes
    ((List.range g.dims).map fun p =>
      (((List.range g.dims).map fun k => (p + k) % g.dims).foldl (fun (r : Frac × Nat) d =>
        let n := ns.getD d 1
        (if dimsOn.contains d then r.1.add ((n - 1) * (partSpan s g.dims p).2, n * r.2 * bw d) else r.1, r.2 * n))
        ((0, 1), 1)).1).foldl Frac.max (0, 1)
  else if c.op = cdGather then
    ((List.range g.dims).foldl (fun (r : Frac × Nat) d =>
      let n := ns.getD d 1
      (if dimsOn.contains d then r.1.add ((n - 1) * c.bytes * r.2, 2 * bw d) else r.1, r.2 * n)) ((0, 1), 1)).1
  else if c.op = cdBroadcast then
    match (dimsOn.map bw).min? with
    | some w => (c.bytes, 2 * w)
    | none => (0, 1)
  else if c.op = cdPermute then (if links = 0 then (0, 1) else ((c.maxRun + 1) * c.piece, links * 996))
  else (0, 1)

/-- The static minimum of a COLL entry's BOUND (R315); with no group configured yet only its floor of 1 (log entry 37). -/
def Body.collMin (b : Body) (p : Fin 8) (c : Cd) (ceil : Nat) : Nat :=
  match (b.part p).coll.getD c.group none with
  | none => 1
  | some g =>
    let links := (g.members.map fun w => (b.upLinks ((b.fab.entry (w.toNat % 4096)).toNat % 2 ^ 24)).length).foldl max 0
    let t := b.collTime g c links
    max 1 (ceilDiv (t.1 * ceil) t.2)

/-! ### Groups (R305, R306) -/

/-- An invocation of the partition uses a group: it is pending and its image names it. -/
def Part.collecting (p : Part) (g : Nat) : Bool := p.slots.any fun s => s.invoke.isSome && (collGroups s.image).contains g

/-- COLL_CFG's rule (R305). -/
def collCfgAct (x : Xnx) (o : Own) (b : Body) : Xres :=
  onPart x fun p =>
    let n := xArg x 0 2
    let dims := xArg x 2 1
    let ns := [xArg x 4 2, xArg x 6 2, xArg x 8 2]
    let rank := xArg x 0xA 2
    let masks : List W32 := (List.range 6).map fun i => BitVec.ofNat 32 (xArg x (0xC + 4 * i) 4)
    let at_ := xArg x 0x24 8
    let mask (i : Nat) : W32 := masks.getD i 0
    let bad := xArg x 3 1 != 0 || decide (n < 2) || decide (n > 4096) || dims == 0 || decide (dims > 3) ||
      ns.any (fun k => k == 0 || decide (k > 4096)) || ns.foldl (· * ·) 1 != n || (ns.drop dims).any (· != 1) ||
      decide (rank ≥ n) || masks.any (fun (m : W32) => decide (m.toNat ≥ 2 ^ 24)) ||
      (List.range 3).any fun d =>
        (decide (ns.getD d 1 > 1) && (mask (2 * d) == 0 || mask (2 * d + 1) == 0)) || (mask (2 * d) &&& mask (2 * d + 1)) != 0
    if !o.inData p at_ (2 * n) then .foreign (o.outside p at_)
    else if bad then .refused stFormat 0
    else if (b.part p).collecting x.arg0 then .refused stBusy 0
    else if b.board.tripped then .pending o b
    else
      match b.firstBad o [(at_, 2 * n)] with
      | some w => .done o (b.stewardBad o p w) ftEcc 0 []
      | none =>
        let ms := membersAt b.mem at_ n
        if ms.any fun w => w.toNat ≥ 0x8000 then .refused stFormat 0
        else .done o ((b.stewardRead o [(at_, 2 * n)]).updPart p fun y =>
          { y with
            coll := y.coll.set x.arg0 (some ⟨n, dims, ns.getD 0 1, ns.getD 1 1, ns.getD 2 1, rank, masks, ms⟩)
            collNotices := y.collNotices.filter fun c => c.1 != x.arg0
            collReadouts := y.collReadouts.filter fun c => c.1 != x.arg0
            collHeld := y.collHeld.filter fun h => h.group.val != x.arg0 }) stOk 0 []

/-- COLL_CFG (R305, R416). -/
def execCollCfg (x : Xnx) (s : State) : Result :=
  s.xnx 0x0306 x .part (x.len == 44) (decide (x.arg0 < 16)) (collCfgAct x)

/-- Coordinates of a rank (R306). -/
def CollGroup.coords (g : CollGroup) (r : Nat) : List Nat := [r % g.n1, r / g.n1 % g.n2, r / (g.n1 * g.n2)]
/-- The rank at coordinates. -/
def CollGroup.rankAt (g : CollGroup) (c : List Nat) : Nat := c.getD 0 0 + g.n1 * (c.getD 1 0 + g.n2 * c.getD 2 0)

/-- This member's ring neighbours: the index of the link mask that leads to each, and its rank (R305, R306). -/
def CollGroup.rings (g : CollGroup) : List (Nat × Nat) :=
  let c := g.coords g.rank
  (List.range g.dims).flatMap fun d =>
    let n := g.sizes.getD d 1
    let x := c.getD d 0
    if n ≤ 1 then []
    else [(2 * d, g.rankAt (c.set d ((x + 1) % n))), (2 * d + 1, g.rankAt (c.set d ((x + n - 1) % n)))]

/-- The ranks of this member's ring neighbours. -/
def CollGroup.neighbours (g : CollGroup) : List Nat := (g.rings.map (·.2)).eraseDups

/-- The link mask on which a message to a rank leaves, if it is a ring neighbour (R306). -/
def CollGroup.viaOf (g : CollGroup) (r : Nat) : Option Nat := (g.rings.find? (·.2 == r)).map (·.1)

end Sys2Proof.Machine
end

