-- ==== Sys2Proof/Machine/CollMove.lean ====
section
/-! DEFINITION. What a collective computes and what a member sends: reduction order, results, ring and copy traffic, the moves of a
PERMUTE, COLL messages (R281, R282, R306, R309, R311, R312, R319). The spec gives no rule for where in a peer's memory the bytes go
that a member sends, nor for the ways of an ALL_GATHER's and a BROADCAST's copies: log entry 105 says what is taken. -/

namespace Sys2Proof.Machine

open Sys2Proof

/-! ### Results (R309, R311) -/

/-- A fold over a list without a neutral element. -/
def fold1 {α : Type} (f : α → α → α) (dflt : α) : List α → α
  | [] => dflt
  | a :: t => t.foldl f a

/-- Where a byte of a buffer falls in a dimension's rings, and its sub-buffer (R311): segment, offset and size. -/
def ringSeg (n : Nat) (s : Nat × Nat) : Nat × Nat × Nat :=
  let h := max 64 (ceilDiv s.2 (n * 64) * 64)
  let j := s.1 / h
  (j, s.1 - j * h, min h (s.2 - j * h))

/-- The coordinates at which segment j's terms are taken, in the order they are added: j + 1, …, j on a + ring, j - 1, …, j
on a - ring, modulo n. -/
def ringOrder (plus : Bool) (n j : Nat) : List Nat :=
  (List.range n).map fun i => if plus then (j + 1 + i) % n else (j + n * 2 - 1 - i) % n

/-- The sum of an element over the group: the last phase outermost; `dims` in phase order with each one's segment. -/
def reduceOver {α : Type} (f : α → α → α) (dflt : α) (plus : Bool) (sizes : List Nat) (input : List Nat → α) :
    List (Nat × Nat) → List Nat → α
  | [], c => input c
  | (d, j) :: t, c =>
    fold1 f dflt ((ringOrder plus (sizes.getD d 1) j).map fun k => reduceOver f dflt plus sizes input t (c.set d k))

/-- The phases that byte `at_` of a buffer of s bytes goes through: ring direction, and dimension and segment in order. -/
def phasesOf (g : CollGroup) (s at_ : Nat) : Bool × List (Nat × Nat) :=
  let gp := max 64 (ceilDiv s (g.dims * 64) * 64)
  let p := at_ / gp
  let len := min gp (s - p * gp)
  let low := ceilDiv len 128 * 64
  let off := at_ - p * gp
  let plus := decide (off < low)
  let st := if plus then (off, low) else (off - low, len - low)
  (plus, ((List.range g.dims).foldl (fun (r : List (Nat × Nat) × Nat × Nat) k =>
    let d := (p + k) % g.dims
    let q := ringSeg (g.sizes.getD d 1) r.2
    (r.1 ++ [(d, q.1)], q.2)) ([], st)).1)

/-- The reduced element at byte `at_` of a buffer of s bytes, from each rank's element there. -/
def CollGroup.reduce {α : Type} (g : CollGroup) (f : α → α → α) (dflt : α) (s at_ : Nat) (input : Nat → α) : α :=
  let ph := phasesOf g s at_
  reduceOver f dflt ph.1 g.sizes (fun c => input (g.rankAt c)) ph.2.reverse [0, 0, 0]

/-- An entry of a norm vector: SSQ and NF. -/
def normEntry (l : List Byte) (o : Nat) : Pair × W32 := (⟨wordAt l o, wordAt l (o + 4)⟩, BitVec.ofNat 32 (field l (o + 8) 4))
/-- Two entries added: SSQ by R69, NF saturating (R309). -/
def normSum (a b : Pair × W32) : Pair × W32 := ((a.1.add b.1.hi).add b.1.lo, satAdd a.2 b.2.toNat)
/-- An entry's bytes. -/
def normBytes (e : Pair × W32) : List Byte := leBytes 4 e.1.hi.toNat ++ leBytes 4 e.1.lo.toNat ++ leBytes 4 e.2.toNat ++ leBytes 4 0
/-- A member's own sum of its four slices, entry l (R309). -/
def slicesSum (l : List Byte) (i : Nat) : Pair × W32 :=
  fold1 normSum (⟨0, 0⟩, 0) ((List.range 4).map fun q => normEntry l (4096 * q + 16 * i))

/-- Bytes of a member's input: the root's alone for a BROADCAST (R309). -/
def Cd.inputBytes (c : Cd) (rank : Nat) : Nat :=
  if c.op = cdNorm then 0x4000 else if c.op = cdBarrier ∨ (c.op = cdBroadcast ∧ rank ≠ c.root) then 0 else c.bytes

/-- The writes of a completed COLL, from the members' inputs by rank (R309); the pieces of a PERMUTE are in place by then (R319). -/
def Cd.result (c : Cd) (g : CollGroup) (input : Nat → List Byte) : List (Nat × List Byte) :=
  if c.op = cdReduce then
    [(c.dst, (List.range (c.bytes / 4)).flatMap fun i =>
      leBytes 4 (g.reduce fadd (0 : W32) c.bytes (4 * i) fun r => wordAt (input r) (4 * i)).toNat)]
  else if c.op = cdNorm then
    [(c.src + 0x4000, (List.range 256).flatMap fun i =>
      normBytes (g.reduce normSum (⟨0, 0⟩, 0) 4096 (16 * i) fun r => slicesSum (input r) i))]
  else if c.op = cdGather then (List.range g.n).map fun r => (c.dst + r * c.bytes, input r)
  else if c.op = cdBroadcast then [(c.dst, input c.root)]
  else []

/-! ### COLL messages (R281, R282, R306, R312) -/

/-- Bytes cut where they cross a 4 KiB boundary (R282). -/
def pageCuts : (fuel : Nat) → Nat → List Byte → List (Nat × List Byte)
  | 0, _, _ => []
  | f + 1, a, bs =>
    let n := 4096 - a % 4096
    if bs = [] then [] else (a, bs.take n) :: pageCuts f (a + n) (bs.drop n)

/-- A COLL message of this device to a member of a group. -/
def collMsg (b : Body) (p : Fin 8) (g : CollGroup) (s : CollSend) (part : Nat × List Byte) : Msg :=
  let w := (g.members.getD s.rank 0).toNat
  { good := true, op := 4, evt := 0xFF, dstDev := BitVec.ofNat 12 w, dstPart := Fin.ofNat 8 (w / 4096), srcDev := b.fab.devId.getD 0
    srcPart := p, addr := BitVec.ofNat 44 part.1, core := s.core, hops := 64, sub := false, data := part.2 }

/-- Send a member's bytes: page by page, on the links of a mask or by the route table (R282, R306). -/
def Body.sendColl (b : Body) (p : Fin 8) (g : CollGroup) (s : CollSend) : Body :=
  (pageCuts (s.data.length / 64 + 1) s.addr s.data).foldl (fun (b : Body) part =>
    match s.via with
    | some i => b.routeMask ((g.masks.getD i 0).toNat % 2 ^ 24) (collMsg b p g s part)
    | none => b.route none (collMsg b p g s part)) b

/-- A 64-byte notice to a member: what it says and which address it bears are free values (R312, R319; log entry 105). -/
def Body.sendNotice (b : Body) (p : Fin 8) (g : CollGroup) (core : Fin 32) (rank : Nat) : Body :=
  { b with free := b.free + 65 }.sendColl p g
    ⟨g.viaOf rank, rank, (Config.freeWord b.free).toNat * 64, BitVec.ofNat 8 core.val, freeBytes (b.free + 1) 64⟩

/-- A member's data for a peer: sent when its start notice has arrived, held until then (R312). -/
def Body.sendData (b : Body) (x : CtxId) (gi : Fin 16) (g : CollGroup) (s : CollSend) : Body :=
  if (b.part x.part).collNotices.contains (gi.val, s.rank) then b.sendColl x.part g s
  else b.updPart x.part fun y => { y with collHeld := y.collHeld ++ [⟨x, gi, s⟩] }

/-- The data held for a peer, sent in order. -/
def Body.releaseHeld (b : Body) (p : Fin 8) (gi : Fin 16) (g : CollGroup) (rank : Nat) : Body :=
  let mine (h : CollHeld) : Bool := h.group == gi && h.send.rank == rank
  let hs := (b.part p).collHeld.filter mine
  hs.foldl (fun (b : Body) h => b.sendColl p g h.send)
    (b.updPart p fun y => { y with collHeld := y.collHeld.filter fun h => !mine h })

/-! ### Ring traffic (R311, R312) -/

/-- A piece of ring traffic: the round of the collective it belongs to, the index of the link mask, the address at the peer, the
bytes. -/
abbrev RingPiece := Nat × Nat × Nat × List Byte

/-- The value that this member passes on in a reduce phase: the terms of a segment's sum up to its own (R311). -/
def partialSum {α : Type} (f : α → α → α) (dflt : α) (plus : Bool) (g : CollGroup) (input : List Nat → α)
    (before : List (Nat × Nat)) (d j : Nat) : α :=
  let c := g.coords g.rank
  let order := ringOrder plus (g.sizes.getD d 1) j
  let upto := (order.takeWhile (· != c.getD d 0)) ++ [c.getD d 0]
  fold1 f dflt (upto.map fun k => reduceOver f dflt plus g.sizes input before (c.set d k))

/-- What this member sends of the element at byte `at_` of a buffer of s bytes: its partial sum in each reduce phase in which it
does not keep the segment, into the peer's stage; then the final value in the gather phases, in reverse order, into the peer's
buffer, until it has gone round the ring. -/
def reduceSends {α : Type} (f : α → α → α) (dflt : α) (g : CollGroup) (s at_ : Nat) (input : List Nat → α) (bytes : α → List Byte)
    (stage dst : Nat) : List RingPiece :=
  let ph := phasesOf g s at_
  let c := g.coords g.rank
  let dir := if ph.1 then 0 else 1
  let n := ph.2.length
  let holds (k : Nat) : Bool := (ph.2.take k).all fun q => c.getD q.1 0 == q.2
  let final := reduceOver f dflt ph.1 g.sizes input ph.2.reverse [0, 0, 0]
  let next (d : Nat) : Nat :=
    let m := g.sizes.getD d 1
    if ph.1 then (c.getD d 0 + 1) % m else (c.getD d 0 + m - 1) % m
  ((List.range n).flatMap fun k =>
    let q := ph.2.getD k (0, 0)
    let v := partialSum f dflt ph.1 g input (ph.2.take k).reverse q.1 q.2
    if holds k && c.getD q.1 0 != q.2 then
      [(k, 2 * q.1 + dir, stage + (2 * q.1 + dir) * 65536 + at_ % 65536, bytes v)]
    else []) ++
  ((List.range n).flatMap fun k =>
    let q := ph.2.getD k (0, 0)
    if holds k && next q.1 != q.2 then [(2 * n - 1 - k, 2 * q.1 + dir, dst + at_, bytes final)] else [])

/-- What this member sends of a block that rank r began with: in each dimension in turn its lower half on the + ring and its upper
half on the - ring, each until it has gone round; a copy goes on from every member that has it (R309, R314). -/
def copySends (g : CollGroup) (r dst : Nat) (data : List Byte) : List RingPiece :=
  let c := g.coords g.rank
  let o := g.coords r
  let low := ceilDiv data.length 128 * 64
  (List.range g.dims).flatMap fun d =>
    let n := g.sizes.getD d 1
    let x := c.getD d 0
    if (List.range 3).all fun e => decide (e ≤ d) || c.getD e 0 == o.getD e 0 then
      (if (x + 1) % n = o.getD d 0 then [] else [(d, 2 * d, dst, data.take low)]) ++
        (if (x + n - 1) % n = o.getD d 0 then [] else [(d, 2 * d + 1, dst + low, data.drop low)])
    else []

/-- Pieces of one round on one mask that follow one another in the peer's memory, joined. -/
def joinPieces : List RingPiece → List RingPiece
  | [] => []
  | a :: t =>
    match joinPieces t with
    | [] => [a]
    | b :: r =>
      if a.1 = b.1 ∧ a.2.1 = b.2.1 ∧ a.2.2.1 + a.2.2.2.length = b.2.2.1 then (a.1, a.2.1, a.2.2.1, a.2.2.2 ++ b.2.2.2) :: r
      else a :: b :: r

/-- Ring traffic in the order it is sent: round by round, mask by mask. -/
def orderPieces (rounds masks : Nat) (ps : List RingPiece) : List RingPiece :=
  (List.range rounds).flatMap fun k => (List.range masks).flatMap fun i => joinPieces (ps.filter fun q => q.1 == k && q.2.1 == i)

/-- What this member sends in a collective other than a PERMUTE, from the members' inputs by rank. -/
def Cd.ringSends (c : Cd) (g : CollGroup) (core : Byte) (input : Nat → List Byte) : List CollSend :=
  let ps : List RingPiece :=
    if c.op = cdReduce then
      (List.range (c.bytes / 4)).flatMap fun i =>
        reduceSends fadd (0 : W32) g c.bytes (4 * i) (fun k => wordAt (input (g.rankAt k)) (4 * i)) (fun v => leBytes 4 v.toNat)
          c.stage c.dst
    else if c.op = cdNorm then
      (List.range 256).flatMap fun i =>
        reduceSends normSum (⟨0, 0⟩, 0) g 4096 (16 * i) (fun k => slicesSum (input (g.rankAt k)) i) normBytes c.stage (c.src + 0x4000)
    else if c.op = cdGather then (List.range g.n).flatMap fun r => copySends g r (c.dst + r * c.bytes) (input r)
    else if c.op = cdBroadcast then copySends g c.root c.dst (input c.root)
    else []
  (orderPieces (2 * g.dims) 6 ps).filterMap fun q =>
    if q.2.2.2 = [] then none else (g.rings.find? (·.1 == q.2.1)).map fun n => ⟨some q.2.1, n.2, q.2.2.1, core, q.2.2.2⟩

/-- This member's ring neighbours that a member of its group sends data to, whatever the members' bytes are. -/
def Cd.ringPeers (c : Cd) (g : CollGroup) (rank : Nat) : List Nat :=
  ((c.ringSends { g with rank := rank } 0 fun r => List.replicate (c.inputBytes r) 0).map (·.rank)).eraseDups

/-- The peers from which a member receives data, to which it sends a start notice (R312): the ring neighbours that send it some, or the
holders of pieces bound for it; of a BARRIER, which completes once every member has started, every other member (log entry 105). -/
def CollGroup.sources (g : CollGroup) (c : Cd) (img : List Byte) : List Nat :=
  if c.op = cdPermute then
    let t := ptabOf img c.ptab
    ((List.range t.dest.length).filterMap fun a =>
      if t.dest.getD a 0 / max 1 t.p = g.rank ∧ a / max 1 t.p ≠ g.rank then some (a / max 1 t.p) else none).eraseDups
  else if c.op = cdBarrier then (List.range g.n).filter (· != g.rank)
  else g.neighbours.filter fun k => (c.ringPeers g k).contains g.rank

/-- The peers to which a member sends data, whose start notices it waits for (R312). -/
def CollGroup.sinks (g : CollGroup) (c : Cd) (img : List Byte) : List Nat :=
  if c.op = cdPermute then
    let t := ptabOf img c.ptab
    ((List.range t.dest.length).filterMap fun a =>
      let owner := t.dest.getD a 0 / max 1 t.p
      if a / max 1 t.p = g.rank ∧ owner ≠ g.rank then some owner else none).eraseDups
  else if c.op = cdBarrier then g.sources c img
  else c.ringPeers g g.rank

/-! ### The moves of a PERMUTE (R317 to R319) -/

/-- The runs of a permutation's cycles longer than 1 (R318). -/
def Ptab.runs (t : Ptab) (maxRun : Nat) : List (List Nat) :=
  (List.range t.dest.length).flatMap fun a =>
    let c := cycleFrom t.dest a t.dest.length a
    if c.length ≤ 1 ∨ c.any (· < a) then [] else runsOf maxRun c.length c

/-- Where the piece of entry a goes: the owner's rank and the address there: its place, or, for the last of a run, its slot of the
owner's stage (R319). -/
def Cd.placeOf (c : Cd) (t : Ptab) (a : Nat) : Nat × Nat :=
  let d := t.dest.getD a 0
  let p := max 1 t.p
  let staged := t.staged c.maxRun
  let there := staged.filter fun s => t.dest.getD s 0 / p == d / p
  (d / p, if staged.contains a then c.stage + there.idxOf a * c.piece else c.dst + d % p * c.piece)

/-- Where entry a's piece lies before it moves: the address of its place. -/
def Cd.pieceAt (c : Cd) (t : Ptab) (a : Nat) : Nat := c.src + a % max 1 t.p * c.piece

/-- COLL messages have filled n bytes at an address (R319). -/
def CollRun.filled (r : CollRun) (a n : Nat) : Bool :=
  decide (n ≤ ((r.landed.filter fun l => inside (a, n) l.1 l.2).map (·.2)).sum)

/-- Entry a's piece, bound for this member, has come to where `placeOf` puts it. -/
def CollRun.hasPiece (c : Cd) (g : CollGroup) (t : Ptab) (r : CollRun) (a : Nat) : Bool :=
  if a / max 1 t.p = g.rank then r.moved.contains a else r.filled (c.placeOf t a).2 c.piece

/-- The entries of this member's pieces that may move now: the last of a run at once, another once the place it goes to has been read
out; to another member only after that member's start notice (R312, R319). -/
def movable (c : Cd) (g : CollGroup) (t : Ptab) (notices : List (Nat × Nat)) (r : CollRun) : List Nat :=
  let p := max 1 t.p
  (List.range t.p).filterMap fun i =>
    let a := g.rank * p + i
    let d := t.dest.getD a 0
    if d ≠ a ∧ !r.moved.contains a ∧ ((t.staged c.maxRun).contains a ∨ r.readOut.contains d) ∧
        (d / p = g.rank ∨ notices.contains (r.group.val, d / p)) then some a else none

/-- The staged pieces of this member that may go into place now: they have come, and their place has been read out (R319). -/
def unstageable (c : Cd) (g : CollGroup) (t : Ptab) (r : CollRun) : List Nat :=
  (t.staged c.maxRun).filter fun a =>
    t.dest.getD a 0 / max 1 t.p == g.rank && !r.placed.contains a && r.moved.contains (t.dest.getD a 0) && r.hasPiece c g t a

/-- Change the started COLL of a group. -/
def Body.updRun (b : Body) (p : Fin 8) (gi : Fin 16) (f : CollRun → CollRun) : Body :=
  b.updPart p fun y => { y with collRuns := y.collRuns.map fun r => if r.group = gi ∧ r.started then f r else r }

/-- A piece is read for a started PERMUTE: its bytes, or the fault of a unit that cannot be read (R171). -/
def Body.readPiece (o : Own) (b : Body) (r : CollRun) (a n : Nat) : Body × Option (List Byte) :=
  match b.firstBad o [(a, n)] with
  | some w => (b.readBad o (entryOf r.ctx r.core r.idx) w, none)
  | none => ((b.correctedIn o [(a, n)]).countReadsOf o [(a, n)], some (b.mem.bytes a n))

/-- A piece of this member moves: copied to its place or stage here, or sent to its new owner; its place has then been read out, and the
holder of the piece bound for it, when that is another member's and not a staged one, is told. -/
def movePiece (o : Own) (b : Body) (g : CollGroup) (c : Cd) (t : Ptab) (r : CollRun) (a : Nat) : Body :=
  let p := max 1 t.p
  let to_ := c.placeOf t a
  match b.readPiece o r (c.pieceAt t a) c.piece with
  | (b1, none) => b1
  | (b1, some data) =>
    let b2 := b1.updRun r.ctx.part r.group fun k => { k with moved := k.moved ++ [a], readOut := k.readOut ++ [a] }
    let b3 := if to_.1 = g.rank then b2.put o r.ctx r.core r.idx [whole (to_.2, data)]
      else b2.sendColl r.ctx.part g ⟨g.viaOf to_.1, to_.1, to_.2, BitVec.ofNat 8 r.core.val, data⟩
    let bound := t.dest.idxOf a
    if bound / p = g.rank ∨ (t.staged c.maxRun).contains bound then b3 else b3.sendNotice r.ctx.part g r.core (bound / p)

/-- A staged piece is copied from the stage into its place (R319 step 3). -/
def unstagePiece (o : Own) (b : Body) (c : Cd) (t : Ptab) (r : CollRun) (a : Nat) : Body :=
  match b.readPiece o r (c.placeOf t a).2 c.piece with
  | (b1, none) => b1
  | (b1, some data) =>
    (b1.updRun r.ctx.part r.group fun k => { k with placed := k.placed ++ [a] }).put o r.ctx r.core r.idx
      [whole (c.dst + t.dest.getD a 0 % max 1 t.p * c.piece, data)]

/-- Every piece of this member that can move moves, those that this lets move, and the staged ones whose place is free (R319); while the
memories admit no traffic they wait (R226, R227). -/
def permMoves (o : Own) (gi : Fin 16) (g : CollGroup) (c : Cd) (t : Ptab) (p : Fin 8) : (fuel : Nat) → Body → Body
  | 0, b => b
  | f + 1, b =>
    match (b.part p).collRuns.find? fun r => r.group == gi && r.started with
    | none => b
    | some r =>
      if !b.flows o [(c.src, c.bytes), (c.stage, c.stageN)] then b
      else
        match movable c g t (b.part p).collNotices r, unstageable c g t r with
        | a :: _, _ => permMoves o gi g c t p f (movePiece o b g c t r a)
        | [], a :: _ => permMoves o gi g c t p f (unstagePiece o b c t r a)
        | [], [] => b

/-- Every place of this member holds its new piece (R319). -/
def permDone (c : Cd) (g : CollGroup) (t : Ptab) (r : CollRun) : Bool :=
  c.op != cdPermute || (List.range t.p).all fun i =>
    let d := g.rank * max 1 t.p + i
    let a := t.dest.idxOf d
    a == d || (if (t.staged c.maxRun).contains a then r.placed.contains a else r.hasPiece c g t a)

/-- This member awaits a read-out notice of a place: its piece bound for it has not moved, is no staged one, and the place is another
member's (R319). -/
def CollRun.awaits (c : Cd) (g : CollGroup) (t : Ptab) (r : CollRun) (place : Nat) : Bool :=
  let a := t.dest.idxOf place
  c.op == cdPermute && a / max 1 t.p == g.rank && place / max 1 t.p != g.rank && !(t.staged c.maxRun).contains a &&
    !r.readOut.contains place

end Sys2Proof.Machine
end

