-- ==== Sys2Proof/Machine/Collective.lean ====
section
/-! DEFINITION. Collectives as they run: starting, notices, completion, abort notices, gradient buckets (R241, R242, R309 to R313,
R319 to R321). -/

namespace Sys2Proof.Machine

open Sys2Proof

/-! ### Starting (R310, R312, R319, R320) -/

/-- COLL: the entry joins the fabric island's queue (R125, R310). -/
def collIssue (b : Body) (core : Fin 32) : Body :=
  match b.nextAe core kColl with
  | none => b
  | some (x, e) =>
    if !b.mayLaunch core then b
    else
      let idx := (b.core core).cx.aeIdx.toNat
      let g : Fin 16 := Fin.ofNat 16 (cdOf (b.imageOf x) e.ref).group
      (b.updCx core fun k => k.launch e).updPart x.part fun p =>
        { p with collRuns := p.collRuns ++ [⟨g, x, core, idx, BitVec.ofNat 8 e.evt, e.ref, false, [], [], [], []⟩] }

/-- COLL. -/
def execColl (core : Fin 32) (s : State) : Result := s.onBody fun o b => b.issuing o core fun b => collIssue b core

/-- COLLs that run on the fabric island. -/
def Body.collsRunning (b : Body) : Nat := (b.parts.map fun (p : Part) => p.collRuns.countP (·.started)).sum

/-- The pieces of a PERMUTE that can move, move. -/
def permAdvance (o : Own) (b : Body) (p : Fin 8) (gi : Fin 16) : Body :=
  match (b.part p).collRuns.find? (fun r => r.group == gi && r.started), (b.part p).coll.getD gi.val none with
  | some r, some g =>
    let img := b.imageOf r.ctx
    let c := cdOf img r.ref
    let t := ptabOf img c.ptab
    if c.op = cdPermute then permMoves o gi g c t p (t.p + t.dest.length) b else b
  | _, _ => b

/-- COLL_START: the oldest COLL of a group starts when none of the group runs and fewer than four run on the module; it
sends its start notices (R310, R312); while data of the group's last COLL still waits for a peer it does not start. A PERMUTE takes up
the read-out notices that came before it and moves the pieces that can move (R319). -/
def collStart (o : Own) (b : Body) (p : Fin 8) (g : Fin 16) : Body :=
  let rs := (b.part p).collRuns
  match rs.find? (·.group == g), (b.part p).coll.getD g.val none with
  | some r, some cg =>
    let img := b.imageOf r.ctx
    let c := cdOf img r.ref
    if r.started ∨ b.collsRunning ≥ 4 ∨ (b.slot r.ctx.part r.ctx.slot).run ≠ .running ∨
        (b.part p).collHeld.any (fun h => h.group == g) then b
    else
      let early := if c.op = cdPermute then (((b.part p).collReadouts.filter (·.1 == g.val)).map (·.2)).eraseDups else []
      let b1 := b.updPart p fun y =>
        { y with
          collRuns := y.collRuns.map fun k =>
            if k.group = g ∧ k.core = r.core ∧ k.idx = r.idx then { k with started := true, readOut := early } else k
          collReadouts := early.foldl (fun l d => l.erase (g.val, d)) y.collReadouts }
      permAdvance o ((cg.sources c img).foldl (fun (b : Body) k => b.sendNotice p cg r.core k) b1) p g
  | _, _ => b

/-- COLL_START. -/
def execCollStart (p : Fin 8) (group : Fin 16) (s : State) : Result := s.onBody fun o b => collStart o b p group

/-- A notice as the message that it is; its 64 bytes say what the command says. -/
def noticeMsg (who : CollPeer) (b : Body) (g : CollGroup) : Msg :=
  let w := (g.members.getD who.rank 0).toNat
  { good := true, op := 4, evt := 0xFF, dstDev := b.fab.devId.getD 0, dstPart := who.part, srcDev := BitVec.ofNat 12 w
    srcPart := Fin.ofNat 8 (w / 4096), addr := who.addr, core := who.core, hops := 64, sub := false, data := List.replicate 64 0 }

/-- A notice of a member of a configured group is checked as every COLL message is, then acted on (R284, R312); it stores nothing (log
entry 105). -/
def Body.notice (o : Own) (b : Body) (who : CollPeer) (act : CollGroup → Body) : Body :=
  match (b.part who.part).coll.getD who.group.val none with
  | none => b
  | some g =>
    if who.rank ≥ g.n then b
    else
      match fabricCheck o b who.link (noticeMsg who b g) with
      | some (st, a) => b.refuseMsg o who.link (noticeMsg who b g) st a
      | none => act g

/-- A peer has started its COLL of the group: the data that waits for it is sent; a notice that no data waited for is kept until this
member's COLL completes (R312). -/
def startNotice (o : Own) (b : Body) (who : CollPeer) (g : CollGroup) : Body :=
  let held := (b.part who.part).collHeld.any fun h => h.group == who.group && h.send.rank == who.rank
  let running := (b.part who.part).collRuns.any fun r => r.group == who.group && r.started
  let b1 := b.releaseHeld who.part who.group g who.rank
  if held && !running then b1
  else permAdvance o (b1.updPart who.part fun p => { p with collNotices := p.collNotices ++ [(who.group.val, who.rank)] }) who.part
    who.group

/-- COLL_START_NOTICE (R284, R312). -/
def execCollStartNotice (who : CollPeer) (s : State) : Result :=
  s.onBody fun o b => b.notice o who (startNotice o b who)

/-- A place has been read out: the piece bound for it may move; a notice that the running COLL does not await is kept for the group's
next PERMUTE (R319). -/
def readoutNotice (o : Own) (b : Body) (who : CollPeer) (place : Nat) (g : CollGroup) : Body :=
  let now := (b.part who.part).collRuns.any fun r =>
    r.group == who.group && r.started &&
      (let c := cdOf (b.imageOf r.ctx) r.ref
       r.awaits c g (ptabOf (b.imageOf r.ctx) c.ptab) place)
  if now then
    permAdvance o (b.updRun who.part who.group fun r => { r with readOut := r.readOut ++ [place] }) who.part who.group
  else b.updPart who.part fun p => { p with collReadouts := p.collReadouts ++ [(who.group.val, place)] }

/-- PERMUTE_READOUT_NOTICE (R284, R319). -/
def execPermuteReadoutNotice (who : CollPeer) (place : Nat) (s : State) : Result :=
  s.onBody fun o b => b.notice o who (readoutNotice o b who place)

/-! ### Completion (R309, R313) -/

/-- The bytes that reduction data passed through and that hold no stated value afterwards: the stage (R312; log entry 105). -/
def Cd.staged (c : Cd) : List (Nat × Nat) := if c.stages && c.op != cdPermute then [(c.stage, c.stageN)] else []

/-- A COLL may complete: every place of a PERMUTE holds its new piece, and every other member of a BARRIER has started (R309, R319). -/
def collReady (b : Body) (p : Fin 8) (gi : Fin 16) (g : CollGroup) (r : CollRun) : Bool :=
  let img := b.imageOf r.ctx
  let c := cdOf img r.ref
  permDone c g (ptabOf img c.ptab) r &&
    (c.op != cdBarrier || (g.sources c img).all fun k => (b.part p).collNotices.contains (gi.val, k))

/-- COLL_COMPLETE: every byte of this member's result is in its memory, then the event increments (R313); `inputs` holds
the members' data by rank, this device's own taken from its memory; a PERMUTE's pieces move first where they can. What this member passes
on to its ring neighbours is sent, or held for their start notices (R312); one notice of each peer is used up. While its memory admits
no traffic it cannot end (R226, R227). -/
def collComplete (o : Own) (b0 : Body) (p : Fin 8) (g : Fin 16) (inputs : List (List Byte)) : Body :=
  let b := permAdvance o b0 p g
  match (b.part p).collRuns.find? (fun r => r.group == g && r.started), (b.part p).coll.getD g.val none with
  | some r, some cg =>
    let img := b.imageOf r.ctx
    let c := cdOf img r.ref
    let reads := if c.op = cdPermute then [] else [(c.src, c.inputBytes cg.rank)]
    if !collReady b p g cg r ∨ !b.flows o [(c.src, c.srcBytes), (c.dst, c.dstBytes)] then b
    else
    match b.firstBad o reads with
    | some w => b.readBad o (entryOf r.ctx r.core r.idx) w
    | none =>
      let b := b.correctedIn o reads
      let input (k : Nat) : List Byte :=
        if k = cg.rank then b.mem.bytes c.src (c.inputBytes cg.rank) else (inputs.getD k []).take (c.inputBytes k)
      let b1 := (c.ringSends cg (BitVec.ofNat 8 r.core.val) input).foldl (fun (b : Body) s => b.sendData r.ctx g cg s)
        (b.countReadsOf o reads)
      let b2 := b1.updPart p fun y =>
        { y with
          collRuns := y.collRuns.filter fun k => !(k.group == g && k.core == r.core && k.idx == r.idx)
          collNotices := (cg.sinks c img).foldl (fun l k => l.erase (g.val, k)) y.collNotices }
      let stage := c.staged.map fun s => whole (s.1, freeBytes b2.free s.2)
      let b3 := { b2 with free := b2.free + c.stageN }
      (b3.complete r.ctx r.core r.idx).put o r.ctx r.core r.idx (stage ++ (c.result cg input).map whole)
  | _, _ => b

/-- COLL_COMPLETE. -/
def execCollComplete (p : Fin 8) (group : Fin 16) (inputs : List (List Byte)) (s : State) : Result :=
  s.onBody fun o b => collComplete o b p group inputs

/-! ### Steward messages (R299, R321) -/

/-- An abort notice: the partition's invocations that hold COLL entries halt with FAULT_PEER (R321, R437). -/
def abortNotice (o : Own) (l : Fin 24) (p : Fin 8) (b : Body) : Body :=
  let hit (b : Body) (k : Fin 4) : Bool := (b.slot p k).invoke.isSome && hasColl (b.slot p k).image
  if !(List.finRange 4).any (hit b) then b
  else
    (List.finRange 4).foldl (fun b k => if hit b k then b.teardown o p k ftPeer 0xFF 0xFFFF else b)
      (b.faultEvent o p ftPeer (3, l.val) l.val)

/-! ### Buckets (R241, R242) -/

/-- A bucket: the COLL entry that all-reduces it, and its range. -/
structure Bucket where
  coll : AePos
  base : Nat
  size : Nat
  deriving DecidableEq, Repr, Inhabited

/-- The GRAD ranges that the almanac's UDs read, with their entries. -/
def gradRanges (x : LoadCtx) : List (AePos × Nat × Nat) :=
  (udAes x).filterMap fun a =>
    let u := a.ud x.img
    if u.op = opNorm then some (a, u.grad, 4 * u.elems)
    else if u.op = opApply then some (a, u.grad, 4 * (shardOf ((x.shardBytes u).getD [])).elems)
    else none

/-- The buckets of an almanac: ranges of ALL_REDUCE entries from which UDs read gradients (R241; log entry 38). -/
def bucketsOf (x : LoadCtx) : List Bucket :=
  (collAes x).filterMap fun a =>
    let c := cdOf x.img a.ae.ref
    if c.op = cdReduce ∧ (gradRanges x).any (fun r => Rng.meets ((c.src : Int), c.bytes) ((r.2.1 : Int), r.2.2)) then
      some ⟨a, c.src, c.bytes⟩
    else none

/-- Two ranges of bytes meet. -/
def Bucket.meets (k : Bucket) (r : Rng) : Bool := Rng.meets ((k.base : Int), k.size) r

/-- R242 for a writer of the ranges given: from another list, or after the COLL entry with a UD that reads the bucket not known to
be over: OVERLAP; before the COLL entry without an event that a WAIT before it awaits: FORMAT. A UD is over before a writer when it
lies before it in the same list, or when a WAIT before the writer needs every increment of the UD's event, as in R515 (DEDUCED, log
entry 90). -/
def bucketSt (x : LoadCtx) (bs : List Bucket) (w : AePos) (out : List Rng) : Option W16 :=
  let hit := bs.filter fun k => out.any k.meets
  let passed (u : AePos) : Bool :=
    if u.core = w.core then decide (u.pos < w.pos) else waitsAll x.img ((aeList x.img w.core).take w.pos) u.ae.evt
  let straddles := hit.any fun k => w.core != k.coll.core || (decide (k.coll.pos < w.pos) &&
    (gradRanges x).any fun r => k.meets ((r.2.1 : Int), r.2.2) && !passed r.1)
  let awaited (k : Bucket) : Bool :=
    ((aeList x.img k.coll.core).take k.coll.pos).any fun e => e.kind == kWait && w.ae.increments x.img e.evt
  if hit.any (fun k => w.core == k.coll.core && decide (w.pos < k.coll.pos) && !awaited k) then some stFormat
  else if straddles then some stOverlap
  else none

end Sys2Proof.Machine
end

