-- ==== Sys2Proof/Machine/MediaJob.lean ====
section
/-! DEFINITION. Media jobs: the descriptor, its load checks, its minimum bound, and when an invocation that holds it may start
(R341, R344, R346, R364, R365, R376, R379). -/

namespace Sys2Proof.Machine

open Sys2Proof

/-- A media job descriptor with its video block (R341, R364). -/
structure Mj where
  unit     : Nat
  outFmt   : Nat
  stream   : Nat
  flags    : Nat
  count    : Nat
  factor   : Nat
  cap      : Nat
  concealMax : Nat
  resize   : Nat
  extC     : Nat
  extW     : Nat
  extH     : Nat
  outRate  : Nat
  frame    : Nat
  hop      : Nat
  dst      : Nat
  pitch    : Nat
  btList   : Nat
  stat     : Nat
  ccw      : Ccw
  op       : Nat
  vflags   : Nat
  nfr      : Nat
  start    : Nat
  step     : Nat
  pevt     : Nat
  session  : Nat
  bandRows : Nat
  statsBase : Nat
  mvBase   : Nat
  mvPitch  : Nat
  src      : Nat
  deriving DecidableEq, Repr, Inhabited

/-- Read an MJ at an image offset. -/
def mjOf (img : List Byte) (o : Nat) : Mj where
  unit := field img o 1
  outFmt := field img (o + 1) 1
  stream := field img (o + 2) 1
  flags := field img (o + 3) 1
  count := field img (o + 4) 2
  factor := field img (o + 6) 2
  cap := field img (o + 8) 4
  concealMax := field img (o + 0xC) 1
  resize := field img (o + 0xD) 1
  extC := field img (o + 0xE) 2
  extW := field img (o + 0x10) 4
  extH := field img (o + 0x14) 4
  outRate := field img (o + 0x18) 4
  frame := field img (o + 0x1C) 2
  hop := field img (o + 0x1E) 2
  dst := field img (o + 0x20) 8
  pitch := field img (o + 0x28) 4
  btList := field img (o + 0x2C) 2
  stat := field img (o + 0x30) 8
  ccw := ccwOf img (o + 0x40)
  op := field img (o + 0x50) 1
  vflags := field img (o + 0x51) 1
  nfr := field img (o + 0x52) 2
  start := field img (o + 0x54) 4
  step := field img (o + 0x58) 2
  pevt := field img (o + 0x5A) 1
  session := field img (o + 0x5B) 1
  bandRows := field img (o + 0x5C) 2
  statsBase := field img (o + 0x60) 8
  mvBase := field img (o + 0x68) 8
  mvPitch := field img (o + 0x70) 4
  src := field img (o + 0x78) 8

/-- FLAGS.AUG. -/
def Mj.aug (j : Mj) : Bool := j.flags.testBit 0
/-- FLAGS.BTW. -/
def Mj.btw (j : Mj) : Bool := j.flags.testBit 1
/-- FLAGS.SPEC. -/
def Mj.spec (j : Mj) : Bool := j.flags.testBit 2
/-- FLAGS.RAWV. -/
def Mj.rawv (j : Mj) : Bool := j.flags.testBit 3
/-- FLAGS.PLANAR. -/
def Mj.planar (j : Mj) : Bool := j.flags.testBit 4
/-- An encode MJ. -/
def Mj.encodes (j : Mj) : Bool := j.unit == 2 && j.op == 1
/-- A video decode MJ. -/
def Mj.video (j : Mj) : Bool := j.unit == 2 && j.op == 0
/-- VFLAGS bits: SEEK. -/
def Mj.seek (j : Mj) : Bool := j.vflags.testBit 0
/-- RGB. -/
def Mj.rgb (j : Mj) : Bool := j.vflags.testBit 1
/-- STATS. -/
def Mj.stats (j : Mj) : Bool := j.unit == 2 && j.vflags.testBit 2
/-- MVMAP. -/
def Mj.mvmap (j : Mj) : Bool := j.unit == 2 && j.vflags.testBit 3
/-- NEWSEQ. -/
def Mj.newSeq (j : Mj) : Bool := j.vflags.testBit 4

/-- Bytes of an output element; text slots hold 4-byte token IDs (R342). -/
def Mj.elem (j : Mj) : Nat := if j.unit = 4 then 4 else elemBytes j.outFmt
/-- Elements of an image or frame. -/
def Mj.pixels (j : Mj) : Nat := j.extH * j.extW * j.extC
/-- Bytes between frames of a video slot (R367). -/
def Mj.framePitch (j : Mj) : Nat := ceilDiv (j.pixels * j.elem) 64 * 64
/-- Bytes of a slot (R334 to R337, R365); an encode MJ's output buffer has SLOT_PITCH bytes. -/
def Mj.slotBytes (j : Mj) : Nat :=
  if j.unit = 1 then j.pixels * j.elem
  else if j.unit = 2 then (if j.op = 1 then j.pitch else j.nfr * j.framePitch)
  else if j.unit = 3 then (if j.spec then j.extW * j.extH else j.extW * j.extC) * j.elem
  else if j.unit = 4 then j.extW * 4
  else j.pitch
/-- Converted elements of a slot. -/
def Mj.slotElems (j : Mj) : Nat :=
  if j.unit = 1 then j.pixels else if j.unit = 2 then j.nfr * j.pixels
  else if j.unit = 3 then (if j.spec then j.extW * j.extH else j.extW * j.extC) else 0
/-- The largest slot length (R342, R367). -/
def Mj.maxLen (j : Mj) : Nat := if j.unit = 1 then j.extH else if j.unit = 2 then j.nfr else j.extW
/-- Bytes of a slot's flag bitmap; slot j's lies at FLAG_OFS + j times this (log entry 39). -/
def Mj.flagBytes (j : Mj) : Nat := ceilDiv j.slotElems 256
/-- Address of slot i. -/
def Mj.slotAt (j : Mj) (i : Nat) : Nat := j.dst + i * j.pitch
/-- The budget factor in use. -/
def Mj.useFactor (j : Mj) : Nat := if j.factor = 0 then 20 else j.factor
/-- Progress events of one slot (R370). -/
def Mj.bands (j : Mj) : Nat :=
  if j.video ∧ j.pevt ≠ 0xFF then j.nfr * (if j.bandRows = 0 then 1 else ceilDiv j.extH j.bandRows) else 0

/-! ### Load checks (R344, R364, R365) -/

/-- FLAGS bits that a unit has. -/
def mjFlagsOk (j : Mj) : Bool :=
  decide (j.flags < 32) &&
    (if j.unit = 1 then !j.spec
     else if j.unit = 2 then !j.aug && !j.spec && (j.op == 0 || j.flags == 0)
     else if j.unit = 3 then !j.rawv && !j.planar
     else if j.unit = 4 then decide (j.flags = 0 ∨ j.flags = 2)
     else j.flags == 0)

/-- An output format of an image, audio, video or alignment slot. -/
def mjFmtOk (f : Nat) : Bool := isEight f || f == 8 || f == 9

/-- Fields of R341 and R364 in a wrong form. -/
def mjFormatBad (img : List Byte) (off : Nat) (j : Mj) : Bool :=
  off % 64 != 0 || j.unit == 0 || decide (j.unit > 5) || !mjFlagsOk j ||
    (if j.unit = 4 ∨ j.encodes then j.outFmt != 0 else !mjFmtOk j.outFmt) || decide (j.stream > 15) ||
    (j.unit == 5 && decide (j.stream > 3)) || ((j.unit == 1 || j.video) && decide (j.resize > 1)) ||
    !zeros img (off + 0x2E) 2 || !zeros img (off + 0x38) 8 || (j.unit != 2 && !zeros img (off + 0x50) 48) ||
    [j.dst, j.stat, j.statsBase, j.mvBase, j.src].any addrBad || j.dst % 64 != 0 || j.stat % 64 != 0 || j.pitch % 64 != 0 ||
    ccwBad img (off + 0x40) ||
    (j.unit == 2 &&
      (decide (j.op > 1) || decide (j.vflags ≥ 32) || !zeros img (off + 0x5E) 2 || !zeros img (off + 0x74) 4 ||
        j.statsBase % 64 != 0 || j.mvBase % 64 != 0 || j.mvPitch % 64 != 0 || (!j.stats && j.statsBase != 0) ||
        (!j.mvmap && (j.mvBase != 0 || j.mvPitch != 0)) ||
        (if j.op = 0 then j.newSeq || j.session != 0 || j.src != 0 || j.outRate != 0 || j.frame != 0 || j.hop != 0
         else j.seek || j.rgb || j.start != 0 || j.step != 0 || j.bandRows != 0 || j.src % 64 != 0 ||
           j.extC != 0 || j.extW != 0 || j.extH != 0 || j.stream != 0 || j.factor != 0 || j.concealMax != 0 || j.btList != 0)))

/-- A number lies in a range. -/
def within (v lo hi : Nat) : Bool := decide (lo ≤ v) && decide (v ≤ hi)

/-- FRAME is a power of two from 64 to 4,096. -/
def frameOk (f : Nat) : Bool := [64, 128, 256, 512, 1024, 2048, 4096].contains f

/-- Fields out of range. -/
def mjShapeBad (j : Mj) : Bool :=
  !within j.count 1 4096 ||
    (if j.encodes then j.count != 1 || !within j.nfr 1 1024 || decide (j.session > 7)
     else
      !(j.factor == 0 || within j.factor 2 1000) || decide (j.cap < 4096) || decide (j.concealMax > 100) ||
      (j.unit == 1 && (!within j.extC 1 256 || !within j.extW 1 16384 || !within j.extH 1 16384)) ||
      (j.unit == 2 && (!(j.extC == 1 || j.extC == 3) || !within j.extW 1 16384 || !within j.extH 1 16384 ||
        !within j.nfr 1 1024 || !within j.step 1 1024 ||
        !(j.bandRows == 0 || (j.bandRows % 16 == 0 && within j.bandRows 16 j.extH)))) ||
      (j.unit == 3 && (!within j.extC 1 (if j.spec then 1 else 8) || !within j.extW 1 (2 ^ 24) ||
        !(if j.spec then within j.extH 1 256 && frameOk j.frame && within j.hop 1 j.frame else j.extH == 1) ||
        !(j.outRate == 0 || within j.outRate 8000 96000))) ||
      (j.unit == 4 && (!within j.extW 1 (2 ^ 20) || j.extH != 1)) || (j.unit == 5 && j.extH != 1))

/-- The byte ranges an MJ writes, beside its flag bitmap. -/
def Mj.writes (j : Mj) : List (Nat × Nat) :=
  ((List.range j.count).map fun i => (j.slotAt i, j.slotBytes)) ++ [(j.stat, 32 * j.count)] ++
    (if j.stats then [(j.statsBase, j.count * j.nfr * 64)] else []) ++ (if j.mvmap then [(j.mvBase, j.count * j.mvPitch)] else [])

/-- Bytes of an alignment record: 16-byte header, elements, padded to 64 (R356). -/
def AlignIn.recBytes (i : AlignIn) : Nat := ceilDiv (16 + i.es * elemBytes i.fmt) 64 * 64

/-- The alignment set that an MJ of UNIT 5 names. -/
def Mj.alignSet (j : Mj) (p : Part) : AlignSet := p.aligns.getD j.stream AlignSet.reset

/-- Bytes of one slot's flag bitmap; an alignment slot's elements are those of its set's inputs (R52, R358). -/
def Mj.bitmapBytes (j : Mj) (p : Part) : Nat :=
  if j.unit = 5 then ceilDiv ((j.alignSet p).inputs.map (·.es)).sum 256 else j.flagBytes

/-- The range of an MJ's flag bitmaps, in the vat of the core that issues it. -/
def Mj.flagRange (j : Mj) (p : Part) (core : Nat) : Option Rng :=
  if j.bitmapBytes p = 0 ∨ j.encodes then none else j.ccw.ofs.map fun f => ((vatBase core + f : Nat), j.count * j.bitmapBytes p)

/-- What the conversions of an MJ read, which no bitmap may overlap (R53): the rings of an alignment set. -/
def Mj.sources (j : Mj) (p : Part) : List Rng :=
  if j.unit = 5 then (j.alignSet p).inputs.map fun i => ((i.ring : Int), i.rlen * i.recBytes) else []

/-- Bytes of a source frame: 4:2:0 planar, one or two bytes a sample (R373). -/
def EncSession.frameBytes (e : EncSession) : Nat := e.width * e.height * 3 / 2 * e.profile

/-- The source frames that an encode MJ names; before its session is configured, the first unit of them (R364). -/
def Mj.frames (j : Mj) (p : Part) : List Rng :=
  if j.encodes then
    let e := p.encs.getD j.session EncSession.reset
    [((j.src : Int), if e.configured then (j.nfr - 1) * e.srcPitch + e.frameBytes else 64)]
  else []

/-- The places an MJ may write: vats of its cores, cellar run, data region. -/
def LoadCtx.mediaPlaces (x : LoadCtx) : List (Nat × Nat) := x.vats ++ x.cellar ++ x.data

/-- Some two of a list of ranges meet, slots of one array apart, which SLOT_PITCH keeps apart. -/
def Mj.overlaps (j : Mj) (p : Part) (flag : Option Rng) : Bool :=
  let r (a : Nat × Nat) : Rng := ((a.1 : Int), a.2)
  let slots := (List.range j.count).map fun i => r (j.slotAt i, j.slotBytes)
  let rest := ((j.writes.drop j.count).map r) ++ flag.toList
  (rest.zipIdx.any fun ((a, i) : Rng × Nat) => (rest.drop (i + 1)).any a.meets) || rest.any (fun a => slots.any a.meets) ||
    flag.toList.any fun a => (j.sources p).any a.meets

/-- Why a bitmap is refused (R53): it leaves the vat of the core that issues the conversion. -/
def flagOutside (core : Nat) (flag : Option Rng) : Bool := flag.toList.any fun f => !inPlaces (vatPlace core) f

/-- The checks of an MJ for the core that issues it. -/
def LoadCtx.mjFails (x : LoadCtx) (core off : Nat) : Fails :=
  if !x.has off 128 then []
  else
    let j := mjOf x.img off
    let flag := j.flagRange x.part core
    let btBad := j.btw && (match btFind x.img j.btList with
      | some r => decide (r.maxEnt < j.count) || decide (r.baseMax < (j.count - 1) * j.pitch) || decide (r.maxLen < j.maxLen)
      | none => true)
    itemFail off
      ([(mjFormatBad x.img off j, stFormat), (mjShapeBad j, stShape)] ++
      x.ranges ((j.writes.map fun r => (x.mediaPlaces, ((r.1 : Int), r.2))) ++ ((j.frames x.part).map fun r => (x.mediaPlaces, r)) ++
        flag.toList.map fun f => (vatPlace core, f)) ++
      [(btBad, stBounds), (j.unit != 5 && decide (j.pitch < j.slotBytes), stAlias), (j.overlaps x.part flag, stOverlap)])

/-- The static minimum of a MEDIA entry's BOUND (R346, R379); an encode MJ whose session is not configured has no picture
size, and counts none. -/
def Mj.minBound (j : Mj) (e : EncSession) (ceil : Nat) : Nat :=
  if j.encodes then ceilDiv ((256 + 2 * j.nfr * e.width * e.height) * ceil) 16
  else ceilDiv ((256 + 64 * j.count) * ceil) 16

/-! ### Starts (R344, R376) -/

/-- CTUs of a picture (R375). -/
def EncSession.ctus (e : EncSession) : Nat := ceilDiv e.width 64 * ceilDiv e.height 64
/-- The bound on a fallback picture's bits. -/
def EncSession.fallbackBits (e : EncSession) (idr : Bool) : Nat := if idr then 2048 + 40 * e.ctus else 2048 + 8 * e.ctus

/-- The session allows an encode MJ to start (R376); ratios compared exactly. -/
def EncSession.allows (e : EncSession) (j : Mj) : Bool :=
  e.configured &&
    (if e.rc = 0 then decide (j.pitch ≥ j.nfr * e.width * e.height * 2 + 4096)
     else
      let f := e.fallbackBits true
      let per := e.bitrate * e.fpsDen
      decide (per ≥ f * e.fpsNum) && decide (e.bitrate * e.initDelay ≥ f * 90000) && decide (e.cpbSize * e.fpsNum ≥ 2 * per) &&
        decide (j.pitch * 8 * e.fpsNum ≥ (e.cpbSize + 32768) * e.fpsNum + per * j.nfr))

/-- Bytes of one input of an alignment slot, padded (R358). -/
def alignInBytes (fmt : Nat) (i : AlignIn) : Nat := ceilDiv (i.es * elemBytes fmt) 64 * 64
/-- Bytes of an alignment slot (R358). -/
def AlignSet.slotBytes (s : AlignSet) (fmt : Nat) : Nat := 64 + (s.inputs.map (alignInBytes fmt)).sum

/-- Units of the kind that an MJ needs which a partition owns; alignment is served by the module's aligners. -/
def PBlock.unitsFor (k : PBlock) (j : Mj) : Nat :=
  if j.unit = 1 then k.nImg
  else if j.unit = 2 then (if j.encodes then k.nVenc else k.nVdec)
  else if j.unit = 3 then k.nAud
  else if j.unit = 4 then k.nTxt
  else 1

/-- An MJ keeps an invocation from starting. -/
def Part.mjBlocks (p : Part) (k : PBlock) (j : Mj) : Bool :=
  k.unitsFor j == 0 ||
    (if j.unit = 5 then
      !(j.alignSet p).configured || decide (j.pitch < (j.alignSet p).slotBytes j.outFmt)
     else if j.encodes then !(p.encs.getD j.session EncSession.reset).allows j
     else !(p.streams.getD j.stream Stream.reset).configured)

/-- The MJs of an almanac. -/
def imageMjs (img : List Byte) : List Mj :=
  (imgCores img).flatMap fun c => ((aeList img c.val).filter (·.kind == kMedia)).map fun e => mjOf img e.ref

/-- A start of an almanac is refused for its MEDIA entries (R344, R376). -/
def Part.mediaBlocks (p : Part) (k : PBlock) (img : List Byte) : Bool := (imageMjs img).any (p.mjBlocks k)

end Sys2Proof.Machine
end

