-- ==== Sys2Proof/Machine/Elementary.lean ====
section
/-! DEFINITION. The functions of R141 beyond the basic operations, evaluated with over 150 bits of relative precision in fixed point,
so that one rounding to F32 gives the correctly rounded result; and the bounds of R144 around it. -/

namespace Sys2Proof.Machine

/-- Fraction bits of the fixed-point values. -/
def fxBits : Nat := 320
/-- One. -/
def fxOne : Int := 2 ^ 320
/-- Product of fixed-point values. -/
def fxMul (a b : Int) : Int := a * b / 2 ^ 320
/-- Quotient of fixed-point values. -/
def fxDiv (a b : Int) : Int := a * 2 ^ 320 / b

/-- A finite value in fixed point with a number of fraction bits. -/
def fxOf (bits : Nat) (neg : Bool) (m : Nat) (e : Int) : Int :=
  signed neg (if 0 ≤ e + bits then m * 2 ^ (e + bits).toNat else m / 2 ^ (-(e + bits)).toNat)

/-- The value that a fixed-point number stands for. -/
def Num.ofFx (x : Int) : Num := Num.ofInt x (-320)

/-- Horner's rule for the sum of x^k / k!, from term n down. -/
def expSeries (x : Int) : Nat → Int → Int
  | 0, acc => acc
  | n + 1, acc => expSeries x n (fxOne + fxMul x acc / ((n : Int) + 1))

/-- The sum over k < n of t2^k / (2k + 1), by Horner's rule. -/
def oddSeries (t2 : Int) : Nat → Int → Int
  | 0, acc => acc
  | n + 1, acc => oddSeries t2 n (fxOne / (2 * (n : Int) + 1) + fxMul t2 acc)

/-- The inverse hyperbolic tangent of a value of magnitude up to 1/3. -/
def fxAtanh (t : Int) : Int := fxMul t (oddSeries (fxMul t t) 110 0)

/-- The natural logarithm of 2. -/
def fxLn2 : Int := 2 * fxAtanh (fxOne / 3)

/-- The sum over k < n of (-1)^k / ((2k + 1) q^(2k + 1)), with 480 fraction bits: the inverse tangent of 1 / q. -/
def atanInv (q : Int) : Nat → Int
  | 0 => 0
  | n + 1 => atanInv q n + (if n % 2 = 0 then 1 else -1) * (2 ^ 480 / ((2 * (n : Int) + 1) * q ^ (2 * n + 1)))

/-- Half of pi with 480 fraction bits, by Machin's formula. -/
def halfPi : Int := 2 * (4 * atanInv 5 105 - atanInv 239 32)

/-- 2 to the power of a fixed-point value. -/
def exp2Fx (y : Int) : Num :=
  let n := y / 2 ^ 320
  .fin false (expSeries (fxMul (y % 2 ^ 320) fxLn2) 80 fxOne).toNat (n - 320)

/-- A value far beyond the range of every exponential: its magnitude is 512 or more. -/
def Num.huge (x : Num) : Bool := !x.abs.lt (.fin false 512 0)

/-- 2^x. -/
def Num.exp2 : Num → Num
  | .nan => .nan
  | .inf n => if n then .fin false 0 0 else .inf false
  | .fin n m e =>
    if Num.huge (.fin n m e) then .fin false 1 (if n then -400 else 400) else exp2Fx (fxOf 320 n m e)

/-- e^x. -/
def Num.exp : Num → Num
  | .nan => .nan
  | .inf n => if n then .fin false 0 0 else .inf false
  | .fin n m e =>
    if Num.huge (.fin n m e) then .fin false 1 (if n then -400 else 400)
    else exp2Fx (fxDiv (fxOf 320 n m e) fxLn2)

/-- The natural logarithm of m * 2^e in fixed point, m not 0. -/
def fxLog (m : Nat) (e : Int) : Int :=
  let l := Nat.log2 m
  (e + l) * fxLn2 + 2 * fxAtanh (((m : Int) - 2 ^ l) * 2 ^ 320 / (m + 2 ^ l))

/-- A logarithm: of a zero minus infinity, of a negative value NaN. -/
def Num.logBy (f : Int → Int) : Num → Num
  | .nan => .nan
  | .inf n => if n then .nan else .inf false
  | .fin n m e => if m = 0 then .inf true else if n then .nan else .ofFx (f (fxLog m e))

/-- ln x. -/
def Num.log : Num → Num := Num.logBy id
/-- log2 x. -/
def Num.log2 : Num → Num := Num.logBy fun l => fxDiv l fxLn2

/-- Quotient of positive finite values with 200 further bits and a sticky bit. -/
def divFine (ma : Nat) (ea : Int) (mb : Nat) (eb : Int) : Num :=
  let s := Nat.log2 mb + 200
  .fin false (2 * (ma * 2 ^ s / mb) + (if ma * 2 ^ s % mb = 0 then 0 else 1)) (ea - eb - s - 1)

/-- A value below 1 by less than any F32 can say. -/
def belowOne (neg : Bool) : Num := .fin neg (2 ^ 400 - 1) (-400)

/-- 1 / (1 + e^-x). -/
def Num.sigm (x : Num) : Num :=
  match (x.neg).exp with
  | .nan => .nan
  | .inf _ => .fin false 0 0
  | .fin _ m e =>
    match (Num.fin false 1 0).add (.fin false m e) with
    | .fin _ m' e' => if m = 0 then .fin false 1 0 else divFine 1 0 m' e'
    | y => y

/-- tanh x. -/
def Num.tanh : Num → Num
  | .nan => .nan
  | .inf n => .fin n 1 0
  | .fin n m e =>
    if m = 0 then .fin n 0 0
    else if !(Num.fin false m e).lt (.fin false 64 0) then belowOne n
    else
      match (Num.fin true m (e + 1)).exp with
      | .fin _ m2 e2 =>
        let q := fxOf 320 false m2 e2
        let t := Num.ofInt (2 * fxDiv (fxOne - q) (fxOne + q) - 1) (-321)
        if n then t.neg else t
      | y => y

/-- The alternating series of erf: the sum over k of (-1)^k t^k / (k! (2k + 1)); `term` is t^k / k! with its sign. -/
def erfSeries (t : Int) : Nat → Nat → Int → Int → Int
  | 0, _, _, acc => acc
  | n + 1, k, term, acc =>
    erfSeries t n (k + 1) (-(fxMul term t / ((k : Int) + 1))) (acc + term / (2 * (k : Int) + 1))

/-- The square root of pi. -/
def fxSqrtPi : Int := (isqrtBits (halfPi * 2 ^ 161).toNat 330 0 : Nat)

/-- erf x. -/
def Num.erf : Num → Num
  | .nan => .nan
  | .inf n => .fin n 1 0
  | .fin n m e =>
    if m = 0 then .fin n 0 0
    else if !(Num.fin false m e).lt (.fin false 6 0) then belowOne n
    else
      let x := fxOf 320 n m e
      .ofFx (2 * fxDiv (fxMul x (erfSeries (fxMul x x) 300 0 fxOne 0)) fxSqrtPi)

/-- The sine series: the sum over k < n of (-1)^k r2^k / (2k + 1)! by Horner's rule (`o` = 1), or the cosine series (`o` = 0). -/
def trigSeries (o : Int) (r2 : Int) : Nat → Int → Int
  | 0, acc => acc
  | n + 1, acc => trigSeries o r2 n (fxOne - fxMul r2 acc / ((2 * (n : Int) + 1 + o) * (2 * (n : Int) + 2 + o)))

/-- sin x, or with `q` = 1 cos x: x is reduced by the nearest multiple of half of pi. -/
def Num.trig (q : Int) : Num → Num
  | .nan => .nan
  | .inf _ => .nan
  | .fin n m e =>
    if m = 0 then (if q = 0 then .fin n 0 0 else .fin false 1 0)
    else
      let x := fxOf 480 n m e
      let k := (2 * x + halfPi) / (2 * halfPi)
      let r := (x - k * halfPi) / 2 ^ 160
      let r2 := fxMul r r
      let s := fxMul r (trigSeries 1 r2 45 fxOne)
      let c := trigSeries 0 r2 45 fxOne
      let j := (k + q) % 4
      .ofFx (if j = 0 then s else if j = 1 then c else if j = 2 then -s else -c)

/-- 1 / sqrt x; of -0 it is minus infinity (DESIGN CHOICE, log entry 119: the spec does not state it). -/
def Num.rsqrt : Num → Num
  | .nan => .nan
  | .inf n => if n then .nan else .fin false 0 0
  | .fin n m e =>
    if m = 0 then .inf n
    else if n then .nan
    else
      let odd := e % 2 ≠ 0
      let m' := if odd then 2 * m else m
      let e' := if odd then e - 1 else e
      let s := Nat.log2 m' + 200
      let r := isqrtBits (2 ^ (2 * s) / m') (s + 1) 0
      .fin false (2 * r + (if r * r * m' = 2 ^ (2 * s) then 0 else 1)) (-(e' / 2) - s - 1)

/-- The exact function of an operation of R141, 0x21 and 0x24 to 0x2C. -/
def elementary (op : Nat) (x : Num) : Num :=
  if op = 0x21 then x.rsqrt
  else if op = 0x24 then x.exp2
  else if op = 0x25 then x.exp
  else if op = 0x26 then x.log2
  else if op = 0x27 then x.log
  else if op = 0x28 then x.tanh
  else if op = 0x29 then x.sigm
  else if op = 0x2A then x.erf
  else if op = 0x2B then x.trig 0
  else x.trig 1

/-- A word is a faithful result of an exact value: one of the two F32 values, infinity past the largest, between which the value lies, or
the value itself where it is an F32 value (R144). -/
def faithful (x : Num) (w : W32) : Bool :=
  match x with
  | .fin n m e =>
    let c := min (Fmt.f32.mag .zero m e) Fmt.f32.top
    let s := Fmt.f32.signBit n
    w == BitVec.ofNat 32 (s + c) || (!(Fmt.f32.decode (s + c)).eqv x && w == BitVec.ofNat 32 (s + c + 1))
  | _ => w == toF32 x

/-- The place of an F32 word among all, by value: the distance of two is the number of units in the last place between them. -/
def ordinal (w : W32) : Int := let m : Int := (w.toNat % 2 ^ 31 : Nat); if w.toNat.testBit 31 then -m else m

/-- A word lies within a number of units in the last place, or an absolute error of 2^-k, of another one (R144). -/
def withinUlps (ulps : Nat) (abs : Option Nat) (r w : W32) : Bool :=
  !(f32 w).isNan && !(f32 r).isNan &&
    (decide ((ordinal w - ordinal r).natAbs ≤ ulps) ||
      match abs with
      | some k => (f32 w).finite && (f32 r).finite && !(Num.fin false 1 (-(k : Int))).lt ((f32 w).add (f32 r).neg).abs
      | none => false)

end Sys2Proof.Machine
end

