-- ==== Sys2Proof/Machine/Signal.lean ====
section
/-! DEFINITION. What the media units compute in F32: grey values, resizing, resampling, the mel spectrum (R334 to R336, R349). Every
operation rounds to nearest even; where the spec states no order, sums run from the left and constants are rounded once (DESIGN
CHOICE, log entry 107). -/

namespace Sys2Proof.Machine

open Sys2Proof

/-- An integer as F32. -/
def f32Int (n : Nat) : W32 := toF32 (Num.ofInt (n : Int) 0)

/-- A quotient of integers as F32, rounded once. -/
def f32Ratio (a : Int) (b : Nat) : W32 := toF32 ((Num.ofInt a 0).div (Num.ofInt (b : Int) 0))

/-- 0.299 R + 0.587 G + 0.114 B (R334). -/
def grey (r g b : W32) : W32 := fadd (fadd (fmul (f32Ratio 299 1000) r) (fmul (f32Ratio 587 1000) g)) (fmul (f32Ratio 114 1000) b)

/-! ### Resizing (R349) -/

/-- Where an output position of n falls in w source positions, half-pixel centres: the position at or before it and the rest. -/
def halfPixel (w n x : Nat) : Int × W32 :=
  let s : Int := (2 * x + 1) * w - n
  let d : Int := 2 * n
  (s / d, f32Ratio (s % d) (2 * n))

/-- A value between two, as R357 writes it: a + (b - a) f. -/
def lerp (a b f : W32) : W32 := fadd a (fmul (fsub b a) f)

/-- Element (y, x) of a bilinear resize of a w x h picture to n x m, edges clamped: along the rows, then between them. -/
def bilinear (px : Nat → Nat → W32) (w h n m x y : Nat) : W32 :=
  let u := halfPixel w n x
  let v := halfPixel h m y
  let col (i : Int) : Nat := (max 0 (min i ((w : Int) - 1))).toNat
  let row (i : Int) : Nat := (max 0 (min i ((h : Int) - 1))).toNat
  let line (r : Nat) : W32 := lerp (px r (col u.1)) (px r (col (u.1 + 1))) u.2
  lerp (line (row v.1)) (line (row (v.1 + 1))) v.2

/-- The source positions that output position x of n covers in w, each with its share in units of 1 / n of a position. -/
def footprint (w n x : Nat) : List (Nat × Nat) :=
  let lo := x * w
  let hi := (x + 1) * w
  (List.range (ceilDiv hi n - lo / n)).map fun i =>
    let u := lo / n + i
    (u, min hi ((u + 1) * n) - max lo (u * n))

/-- Element (y, x) of an area resize: the average of its footprint, row by row. -/
def area (px : Nat → Nat → W32) (w h n m x y : Nat) : W32 :=
  ((footprint h m y).flatMap fun r => (footprint w n x).map fun c => (px r.1 c.1, r.2 * c.2)).foldl
    (fun s q => fadd s (fmul (f32Ratio q.2 (w * h)) q.1)) 0

/-! ### Resampling (R335) -/

/-- The last source sample that the first n output times of a resampled channel need, and one more (R335, R351). -/
def resampleNeed (rateIn rateOut n : Nat) : Nat := if n = 0 then 0 else (n - 1) * rateIn / max 1 rateOut + 33

/-- A channel at another rate: 64 taps of the phase at each output time, from the left, edges clamped. -/
def resample (rateIn rateOut : Nat) (src : List W32) : List W32 :=
  let g := max 1 (Nat.gcd rateIn rateOut)
  (List.range (ceilDiv (src.length * rateOut) (max 1 rateIn))).map fun i =>
    let at_ := i * rateIn
    let first : Int := (at_ / max 1 rateOut : Nat) - 31
    (List.range 64).foldl (fun (s : W32) (k : Nat) =>
      let j := (max 0 (min (first + (k : Int)) ((src.length : Int) - 1))).toNat
      fadd s (fmul (Config.filterTap rateIn rateOut (at_ % max 1 rateOut / g) k) (src.getD j 0))) 0

/-! ### The mel spectrum (R336) -/

/-- The Hann window of n samples at sample i: 0.5 - 0.5 cos (2 pi i / n). -/
def hann (n i : Nat) : W32 :=
  let c := Num.trig 1 (Num.ofInt (4 * halfPi * i / (max 1 n : Nat)) (-480))
  toF32 ((Num.fin false 1 (-1)).add ((Num.fin true 1 (-1)).mul c))

/-- Frequency, in fixed point, of edge i of `bins` triangular filters evenly spaced on the HTK mel scale from 0 Hz to half the rate:
equal steps in log (1 + f / 700). -/
def melEdge (rate bins i : Nat) : Int :=
  let top := fxLog (1400 + rate) 0 - fxLog 1400 0
  match Num.exp (Num.ofFx (top * i / ((bins : Int) + 1))) with
  | .fin n m e => 700 * (fxOf 320 n m e - fxOne)
  | _ => 0

/-- The weight of bin k of an n-point transform in filter b: a triangle over frequency between its edges. -/
def melWeight (rate n bins b k : Nat) : W32 :=
  let f : Int := (k : Int) * rate * fxOne / (max 1 n : Nat)
  let lo := melEdge rate bins b
  let mid := melEdge rate bins (b + 1)
  let hi := melEdge rate bins (b + 2)
  let up := if mid = lo then 0 else fxDiv (f - lo) (mid - lo)
  let down := if hi = mid then 0 else fxDiv (hi - f) (hi - mid)
  toF32 (Num.ofFx (max 0 (min up down)))

/-- cos (2 pi i / n), or the sine, in fixed point. -/
def fxTurn (q : Int) (n i : Nat) : Int :=
  match Num.trig q (Num.ofInt (4 * halfPi * (i % max 1 n : Nat) / (max 1 n : Nat)) (-480)) with
  | .fin g m e => fxOf 320 g m e
  | _ => 0

/-- A finite F32 word in fixed point. -/
def fxWord (w : W32) : Option Int :=
  match f32 w with
  | .fin g m e => some (fxOf 320 g m e)
  | _ => none

/-- A part of bin k of a frame's transform, exact: the sum of each sample times a cosine (`q` = 1) or sine (0). -/
def fxBin (q : Int) (xs : List Int) (k : Nat) : Int :=
  (xs.zipIdx.map fun ((x, i) : Int × Nat) => fxMul x (fxTurn q xs.length (k * i))).sum

/-- A part of a bin as F32 arithmetic gives it: a word within the rounding errors that any order of the operations can add up to, one unit of
2^-24 of the samples' absolute sum for each sample and two more (log entry 127); else the exact part, rounded. -/
def binPart (xs : List Int) (exact : Int) (w : W32) : W32 :=
  let room := ((xs.length : Int) + 2) * (xs.map fun x => (x.natAbs : Int)).sum
  match fxWord w with
  | some v => if ((v - exact).natAbs : Int) * 2 ^ 24 ≤ room then w else toF32 (Num.ofFx exact)
  | none => toF32 (Num.ofFx exact)

/-- The power in bin k of the Fourier transform of a windowed frame: the sum of the squares of its parts, NaN where a sample is not finite
(R336). -/
def fftPower (frame : List W32) (k : Nat) : W32 :=
  match frame.mapM fxWord with
  | none => 0x7FC00000
  | some xs =>
    let w := Config.fftBin frame k
    let re := binPart xs (fxBin 1 xs k) w.1
    let im := binPart xs (fxBin 0 xs k) w.2
    fadd (fmul re re) (fmul im im)

/-- Element b of a frame of the spectrum: log (power + 2^-24) of filter b over the windowed frame's transform. -/
def melValue (rate n bins : Nat) (frame : List W32) (b : Nat) : W32 :=
  let w := frame.zipIdx.map fun ((v, i) : W32 × Nat) => fmul v (hann n i)
  let power := (List.range (n / 2 + 1)).foldl (fun s k => fadd s (fmul (melWeight rate n bins b k) (fftPower w k))) 0
  toF32 (f32 (fadd power (toF32 (.fin false 1 (-24))))).log

end Sys2Proof.Machine
end

