-- ==== Sys2Proof/Machine/Text.lean ====
section
/-! DEFINITION. The text unit: UTF-8 validation with replacement, pre-tokens, byte-pair merging (R337, R338). -/

namespace Sys2Proof.Machine

open Sys2Proof

/-! ### UTF-8 (R337) -/

/-- What a lead byte asks for: how many continuation bytes, and the range of the first of them (RFC 3629); none: no lead. -/
def utf8Lead (b : Nat) : Option (Nat × Nat × Nat) :=
  if 0xC2 ≤ b ∧ b ≤ 0xDF then some (1, 0x80, 0xBF)
  else if b = 0xE0 then some (2, 0xA0, 0xBF)
  else if b = 0xED then some (2, 0x80, 0x9F)
  else if 0xE1 ≤ b ∧ b ≤ 0xEF then some (2, 0x80, 0xBF)
  else if b = 0xF0 then some (3, 0x90, 0xBF)
  else if b = 0xF4 then some (3, 0x80, 0x8F)
  else if 0xF1 ≤ b ∧ b ≤ 0xF3 then some (3, 0x80, 0xBF)
  else none

/-- Continuation bytes taken: how many in a row lie in range, at most n, the first in lo to hi. -/
def utf8Tail : Nat → Nat → Nat → List Byte → Nat
  | 0, _, _, _ => 0
  | _, _, _, [] => 0
  | n + 1, lo, hi, b :: t => if lo ≤ b.toNat ∧ b.toNat ≤ hi then 1 + utf8Tail n 0x80 0xBF t else 0

/-- A character of the sample: its bytes as tokenised, how many bytes of the sample it takes, whether they were valid. -/
structure Utf8Char where
  bytes : List Byte
  taken : Nat
  valid : Bool
  deriving DecidableEq, Repr, Inhabited

/-- The next character: a valid one, or U+FFFD for a maximal invalid subpart. -/
def utf8Next (b : Byte) (t : List Byte) : Utf8Char :=
  if b.toNat < 0x80 then ⟨[b], 1, true⟩
  else
    match utf8Lead b.toNat with
    | none => ⟨[0xEF, 0xBF, 0xBD], 1, false⟩
    | some (n, lo, hi) =>
      let k := utf8Tail n lo hi t
      if k = n then ⟨b :: t.take n, 1 + n, true⟩ else ⟨[0xEF, 0xBF, 0xBD], 1 + k, false⟩

/-- The characters of a byte string; `skip` bytes still belong to the character before. -/
def utf8Chars : (skip : Nat) → List Byte → List Utf8Char
  | _, [] => []
  | 0, b :: t => let c := utf8Next b t; c :: utf8Chars (c.taken - 1) t
  | n + 1, _ :: t => utf8Chars n t

/-- The code point of a character's bytes. -/
def utf8Point : List Byte → Nat
  | [a] => a.toNat
  | [a, b] => a.toNat % 32 * 64 + b.toNat % 64
  | [a, b, c] => (a.toNat % 16 * 64 + b.toNat % 64) * 64 + c.toNat % 64
  | [a, b, c, d] => ((a.toNat % 8 * 64 + b.toNat % 64) * 64 + c.toNat % 64) * 64 + d.toNat % 64
  | _ => 0

/-- Byte offset of the first invalid subpart, from an offset on. -/
def utf8Damage : Nat → List Utf8Char → Option Nat
  | _, [] => none
  | o, c :: t => if c.valid then utf8Damage (o + c.taken) t else some o

/-! ### Pre-tokens (R338) -/

/-- Group characters into runs of one class, oldest first. -/
def classRuns : List (Nat × List Byte) → List (Nat × List Byte)
  | [] => []
  | (k, b) :: t =>
    match classRuns t with
    | (j, c) :: r => if j = k then (k, b ++ c) :: r else (k, b) :: (j, c) :: r
    | [] => [(k, b)]

/-- A single U+0020 before a letter or digit run joins that run. -/
def joinSpaces : List (Nat × List Byte) → List (List Byte)
  | [] => []
  | [(_, b)] => [b]
  | (k, b) :: (j, c) :: t =>
    if k = 2 ∧ b = [0x20] ∧ j < 2 then
      match joinSpaces ((j, c) :: t) with
      | r :: u => (b ++ r) :: u
      | [] => [b]
    else b :: joinSpaces ((j, c) :: t)

/-- The pre-tokens of a text under SPLIT. -/
def preTokens (split : Nat) (cs : List Utf8Char) : List (List Byte) :=
  if split = 0 then [cs.flatMap (·.bytes)]
  else joinSpaces (classRuns (cs.map fun c => (unicodeClass (utf8Point c.bytes), c.bytes)))

/-! ### Merging (R338) -/

/-- The rank of an adjacent pair: the lowest merge that it is. -/
def mergeRank (merges : List (Nat × Nat)) (p : Nat × Nat) : Option Nat :=
  let i := merges.findIdx (· == p)
  if i < merges.length then some i else none

/-- The lowest rank among adjacent pairs. -/
def bestRank (merges : List (Nat × Nat)) : List Nat → Option Nat
  | a :: b :: t =>
    match mergeRank merges (a, b), bestRank merges (b :: t) with
    | some r, some q => some (min r q)
    | some r, none => some r
    | none, q => q
  | _ => none

/-- Merge the leftmost pair of a rank. -/
def mergeFirst (merges : List (Nat × Nat)) (r : Nat) : List Nat → List Nat
  | a :: b :: t => if mergeRank merges (a, b) = some r then (256 + r) :: t else a :: mergeFirst merges r (b :: t)
  | l => l

/-- Merge until no adjacent pair is a merge; each merge shortens the list, so its length bounds the rounds. -/
def bpe (merges : List (Nat × Nat)) : Nat → List Nat → List Nat
  | 0, l => l
  | n + 1, l =>
    match bestRank merges l with
    | some r => bpe merges n (mergeFirst merges r l)
    | none => l

/-- The token IDs of a sample under a vocabulary. -/
def tokenise (v : Vocab) (cs : List Utf8Char) : List Nat :=
  let one (w : W32) : List Nat := if w = 0xFFFFFFFF then [] else [w.toNat]
  let body := (preTokens v.split cs).flatMap fun t => bpe v.merges t.length (t.map (·.toNat))
  one v.bos ++ body ++ one v.eos

end Sys2Proof.Machine
end

