-- ==== Sys2Proof/Machine/Sample.lean ====
section
/-! DEFINITION. What one slot of a media job becomes: sample index, shuffle, limits, damage, output of image, audio, text and
video samples (R332 to R340, R348, R349, R351 to R355, R366 to R372). -/

namespace Sys2Proof.Machine

open Sys2Proof

/-! ### Samples and their order -/

/-- A sample index entry (R332). -/
structure Sample where
  addr : Nat
  len  : Nat
  fmt  : Nat
  bad  : Bool
  deriving DecidableEq, Repr, Inhabited

/-- Read a sample index entry; reserved bits and a zero length are malformed. -/
def sampleAt (m : Mem) (a : Nat) : Sample :=
  let w := m.le a 8
  ⟨w % 2 ^ 44, m.le (a + 8) 4, m.le (a + 12) 1, decide (w ≥ 2 ^ 44) || m.le (a + 8) 4 == 0 || m.le (a + 13) 3 != 0⟩

/-- Bits of a number. -/
def bitLen : Nat → Nat → Nat
  | 0, _ => 0
  | f + 1, n => if n = 0 then 0 else 1 + bitLen f (n / 2)

/-- One 4-round Feistel pass on 2h bits (R340). -/
def feistel (h : Nat) (key : W64) (x : Nat) : Nat :=
  let mask := 2 ^ h - 1
  let r := (List.range 4).foldl (fun (p : Nat × Nat) i =>
    (p.2, p.1 ^^^ ((mix (key ^^^ BitVec.ofNat 64 (i * 2 ^ 56) ^^^ BitVec.ofNat 64 p.2)).toNat &&& mask)))
    (x / 2 ^ h, x % 2 ^ h)
  r.1 * 2 ^ h + r.2

/-- Walk the cycle back into 0 to n - 1; a cycle through a value below n returns to one within its length. -/
def cycleWalk (h n : Nat) (key : W64) : Nat → Nat → Nat
  | 0, x => x
  | f + 1, x => if x < n then x else cycleWalk h n key f (feistel h key x)

/-- The sample at position p of an epoch: π(p) (R340). -/
def shuffle (p n : Nat) (seed : W64) (epoch : W32) : Nat :=
  let b := bitLen 33 (n - 1)
  let h := max 1 ((b + 1) / 2)
  let key := mix (seed ^^^ BitVec.ofNat 64 (epoch.toNat * 2 ^ 32) ^^^ 0x53485546464C4531)
  cycleWalk h n key (4 * n + 1) (feistel h key p)

/-! ### Parameter records (R348) -/

/-- A slot's parameter record. -/
structure MParam where
  tag   : Nat
  ops   : Nat
  cropX : Int
  cropY : Int
  cropW : Nat
  cropH : Nat
  cmat  : List W32
  tm0   : Nat
  tmLen : Nat
  fm0   : Nat
  fmLen : Nat
  fill  : W32
  rsv   : Bool
  deriving DecidableEq, Repr, Inhabited

/-- A B16 code as F32. -/
def b16Word (c : Nat) : W32 := toF32 (Fmt.b16.decode c)

/-- Read a parameter record. -/
def mparamOf (r : List Byte) : MParam where
  tag := field r 0 4
  ops := field r 4 1
  cropX := signed32 (field r 8 4)
  cropY := signed32 (field r 0xC 4)
  cropW := field r 0x10 4
  cropH := field r 0x14 4
  cmat := (List.range 12).map fun i => b16Word (field r (0x18 + 2 * i) 2)
  tm0 := field r 0x30 4
  tmLen := field r 0x34 2
  fm0 := field r 0x36 2
  fmLen := field r 0x38 2
  fill := b16Word (field r 0x3A 2)
  rsv := decide (field r 4 1 ≥ 64) || !zeros r 5 3 || !zeros r 0x3C 4

/-- The operations of a record. -/
def MParam.op (q : MParam) (i : Nat) : Bool := q.ops.testBit i
/-- A record refuses its slot (R348). -/
def MParam.refuses (q : MParam) (j : Mj) (seq : Nat) : Bool :=
  q.tag != seq % 2 ^ 32 || q.rsv || (q.op 3 && decide (j.extC < 3)) || ((q.op 4 || q.op 5) && !j.spec)

/-! ### Outcomes -/

/-- A frame that a video decoder took: its picture, its sample planes, whether it is concealed, and whether it references a concealed
picture since the last random-access point (R366, R371). -/
structure VideoFrame where
  pic    : VideoPic
  planes : VideoPlanes
  conc   : Bool
  prop   : Bool
  deriving DecidableEq, Repr, Inhabited

/-- What a unit makes of a slot: status, flags and fields of its record, the slot's values in memory order (none: VOID), and
for video each frame's statistics and map. -/
structure SlotOut where
  status  : W16
  trunc   : Bool
  damage  : Option (Nat × Nat)
  conceal : Nat
  cycles  : Nat
  len     : Nat
  vals    : Option (List Num)
  ids     : List Nat
  frames  : List (Option VideoFrame)
  /-- Media cycles worked when the first damage was found. -/
  found   : Nat

/-- A VOID slot with a status. -/
def voidOut (st : W16) (cycles : Nat) : SlotOut := ⟨st, false, none, 0, cycles, 0, none, [], [], 0⟩

/-- The earlier of two places of damage. -/
def earlier : Option (Nat × Nat) → Option (Nat × Nat) → Option (Nat × Nat)
  | some a, some b => if b.1 < a.1 then some b else some a
  | some a, none => some a
  | none, b => b

/-- The first damage of a sample of some bytes: what the decoder found, the byte where its output would have passed the claim, or the
sample's end where the data end before the claimed dimensions are filled (R351, R352). -/
def damageAt (len : Nat) (d : Damage) : Option (Nat × Nat) :=
  earlier (earlier d.first d.excess) (if d.short then some (len, 0) else none)

/-- The record of a slot whose decode its budget ends: damage found before the end stands in it (R343, R354). -/
def spentOut (out : SlotOut) (budget : Nat) : SlotOut :=
  { voidOut stVoid budget with damage := if out.found < budget then out.damage else none }

/-- The concealed share, percent, rounded up (R353). -/
def concealShare (concealed claimed : Nat) : Nat := if claimed = 0 then 0 else ceilDiv (100 * concealed) claimed

/-- Delivered, concealed or beyond CONCEAL_MAX (R353, R355); the frames of a clip are kept for their statistics, which are written
whether or not they are delivered (R371). -/
def settleDamage (j : Mj) (damage : Option (Nat × Nat)) (conceal : Nat) (out : SlotOut) : SlotOut :=
  match damage with
  | none => out
  | some d =>
    if conceal ≤ j.concealMax then { out with status := stConcealed, damage := some d, conceal := conceal }
    else { voidOut stCorrupt out.cycles with damage := some d, conceal := conceal, frames := out.frames }

/-- Header work of every sample (R359). -/
def headerCycles : Nat := 2048

/-! ### Images (R333, R334, R349) -/

/-- Clamp a coordinate to 0 to n - 1. -/
def clampTo (n : Nat) (v : Int) : Nat := (max 0 (min v ((n : Int) - 1))).toNat

/-- A source picture: size, channels, elements interleaved. -/
structure Picture where
  w  : Nat
  h  : Nat
  cs : Nat
  el : List W32

/-- A source element, clamped to the picture. -/
def Picture.at_ (p : Picture) (y x : Int) (c : Nat) : W32 :=
  p.el.getD ((clampTo p.h y * p.w + clampTo p.w x) * p.cs + min c (p.cs - 1)) 0

/-- Output channel c of a pixel: one grey channel of a colour source, else the source channel (R334). -/
def Picture.chan (p : Picture) (extC : Nat) (colour : Bool) (y x : Int) (c : Nat) : W32 :=
  if extC = 1 ∧ colour ∧ p.cs ≥ 3 then grey (p.at_ y x 0) (p.at_ y x 1) (p.at_ y x 2) else p.at_ y x c

/-- Crop and resize (R349 steps 1 and 2): element (y, x) of channel c of the target size; the same size copies exactly. -/
def Picture.scaled (p : Picture) (j : Mj) (colour : Bool) (crop : Int × Int × Nat × Nat) (y x c : Nat) : W32 :=
  let px (v u : Nat) : W32 := p.chan j.extC colour (crop.2.1 + v) (crop.1 + u) c
  if crop.2.2.1 = j.extW ∧ crop.2.2.2 = j.extH then px y x
  else if j.resize = 0 then bilinear px crop.2.2.1 crop.2.2.2 j.extW j.extH x y
  else area px crop.2.2.1 crop.2.2.2 j.extW j.extH x y

/-- The whole picture as a crop. -/
def Picture.whole (p : Picture) : Int × Int × Nat × Nat := (0, 0, p.w, p.h)

/-- An augmented element (R349): crop, resize, flips, colour matrix, whose terms are added from the left (log entry 107). -/
def Picture.augmented (p : Picture) (j : Mj) (colour : Bool) (q : Option MParam) (y x c : Nat) : W32 :=
  match q with
  | none => p.scaled j colour p.whole y x c
  | some q =>
    let crop := if q.op 0 then (q.cropX, q.cropY, q.cropW, q.cropH) else p.whole
    let x' := if q.op 1 then j.extW - 1 - x else x
    let y' := if q.op 2 then j.extH - 1 - y else y
    let v (k : Nat) : W32 := p.scaled j colour crop y' x' k
    if q.op 3 ∧ c < 3 then
      fadd (fadd (fadd (fmul (q.cmat.getD (3 * c) 0) (v 0)) (fmul (q.cmat.getD (3 * c + 1) 0) (v 1)))
        (fmul (q.cmat.getD (3 * c + 2) 0) (v 2))) (q.cmat.getD (9 + c) 0)
    else v c

/-- Position (y, x, c) of element i of an image in memory order (R334). -/
def Mj.place (j : Mj) (i : Nat) : Nat × Nat × Nat :=
  if j.planar then (i / j.extW % j.extH, i % j.extW, i / (j.extH * j.extW))
  else (i / j.extC / j.extW, i / j.extC % j.extW, i % j.extC)

/-- The elements of an image or frame in memory order. -/
def Mj.image (j : Mj) (f : Nat → Nat → Nat → W32) : List Num :=
  (List.range j.pixels).map fun i => let q := j.place i; f32 (f q.1 q.2.1 q.2.2)

/-- How many luma samples a JPEG's chroma sample covers, across and down: both chroma components alike, luma the finest (R333). -/
def chromaRatio (sampling : List (Nat × Nat)) : Option (Nat × Nat) :=
  match sampling with
  | [y, u, v] =>
    if u = v ∧ 1 ≤ u.1 ∧ 1 ≤ u.2 ∧ y.1 ≤ 4 ∧ y.2 ≤ 4 ∧ y.1 % u.1 = 0 ∧ y.2 % u.2 = 0 ∧ u.1 ≤ y.1 ∧ u.2 ≤ y.2 then
      some (y.1 / u.1, y.2 / u.2)
    else none
  | _ => none

/-- The features of an image are among those its decoder supports (R333). -/
def imageSupported (h : ImageHead) : Bool :=
  match h.kind with
  | .jpeg sof sampling =>
    (sof == 0 || sof == 2) && h.bits == 8 && (h.channels == 1 ||
      (h.channels == 3 && [some (1, 1), some (2, 1), some (2, 2), some (1, 2)].contains (chromaRatio sampling)))
  | .png colour interlace => [0, 2, 3, 4, 6].contains colour && [1, 2, 4, 8, 16].contains h.bits && decide (interlace ≤ 1)
  | .fits bitpix axes tiles =>
    [8, 16, 32, -32].contains bitpix && within axes 1 3 &&
      match tiles with
      | none => true
      | some t => decide (t.dither ≤ 2) && decide (t.code ≤ 3) &&
          (t.code != 0 || ([16, 32].contains t.blockSize && [1, 2, 4].contains t.bytePix))

/-- The planes that an image's limit counts: a FITS image's third axis; other channels share a pixel. -/
def imagePlanes (h : ImageHead) : Nat :=
  match h.kind with
  | .fits .. => h.channels
  | _ => 1

/-- An image beyond its format's largest size (R333). -/
def imageTooLarge (h : ImageHead) : Bool :=
  match h.kind with
  | .fits .. => decide (h.width > 65536) || decide (h.height > 65536) || decide (h.channels > 65536) ||
      decide (h.width * h.height * h.channels > 2 ^ 28)
  | _ => decide (h.width > 16384) || decide (h.height > 16384)

/-- The media cycles of an image's decode: the rates of R359, and the decoder's own figure where none is stated. -/
def imageCycles (h : ImageHead) (own : Nat) : Nat :=
  let n := h.width * h.height
  match h.kind with
  | .jpeg sof sampling =>
    if sof = 2 then 4 * n else if chromaRatio sampling = some (2, 2) then n
    else if chromaRatio sampling = some (1, 1) then 2 * n else own
  | .png .. => ceilDiv (n * h.channels * h.storedBytes) 4
  | .fits _ _ (some t) =>
    if t.code = 0 then ceilDiv (n * h.channels) 2
    else if t.code ≤ 2 then ceilDiv (n * h.channels * h.storedBytes) 4 else own
  | .fits .. => own

/-- The integer that an F32 word stands for, rounded down. -/
def intOf (w : W32) : Int :=
  match f32 w with
  | .fin n m e => fxOf 0 n m e
  | _ => 0

/-- R, G and B of 8-bit Y, Cb and Cr as ITU-T T.871 gives them, rounded to the nearest integer and clamped; in thousandths exact, G over
0.587 (R334; PRESUMED from T.871, log entry 107). -/
def t871 (y cb cr : Int) : Int × Int × Int :=
  let u := cb - 128
  let v := cr - 128
  let fit (n d : Int) : Int := max 0 (min 255 ((2 * n + d) / (2 * d)))
  (fit (1000 * y + 1402 * v) 1000, fit (587000 * y - (114 * 1772 * u + 299 * 1402 * v)) 587000, fit (1000 * y + 1772 * u) 1000)

/-- Element i of an image by what `stored` gives for each (R334): as stored under RAWV; else a JPEG of three components converted, then it and
a PNG over 2^bits - 1; a FITS element by one fused multiply-add, or NaN where it is blank. -/
def imageValue (h : ImageHead) (raw : Bool) (stored : Nat → ImageElem) (i : Nat) : W32 :=
  let e := stored i
  let scaledTo (w : W32) : W32 := fdiv w (f32Int (2 ^ h.bits - 1))
  if raw then e.stored
  else
    match h.kind with
    | .fits .. => if e.blank then 0x7FC00000 else ffma e.scale e.stored e.zero
    | .png .. => scaledTo e.stored
    | .jpeg .. =>
      if h.channels ≠ 3 then scaledTo e.stored
      else
        let c (k : Nat) : Int := intOf (stored (i / 3 * 3 + k)).stored
        let q := t871 (c 0) (c 1) (c 2)
        scaledTo (f32Int (if i % 3 = 0 then q.1 else if i % 3 = 1 then q.2.1 else q.2.2).toNat)

/-- Width and height of a JPEG's MCU. -/
def mcuSize (sampling : List (Nat × Nat)) : Nat × Nat :=
  if sampling.length ≤ 1 then (8, 8)
  else (8 * (sampling.map (·.1)).foldl max 1, 8 * (sampling.map (·.2)).foldl max 1)

/-- The MCU whose values MCU m shows, `per` in a row: itself, or, when it is lost, the nearest good one above; none when every one up to
the top row is lost. -/
def goodMcu (lost : List Nat) (per : Nat) : (fuel m : Nat) → Option Nat
  | 0, _ => none
  | f + 1, m => if !lost.contains m then some m else if m < per then none else goodMcu lost per f (m - per)

/-- MCUs in a row of a picture. -/
def mcusAcross (h : ImageHead) (sampling : List (Nat × Nat)) : Nat := ceilDiv h.width (mcuSize sampling).1

/-- Element i of an image as stored, lost parts concealed (R352): a lost MCU of a JPEG copies the one above it, 128 in the top row; a PNG's
rows from the first lost one repeat the last good row. -/
def concealedElem (d : ImageDecoded) (h : ImageHead) (i : Nat) : ImageElem :=
  let at_ (k : Nat) : ImageElem := d.elems.getD k default
  let row := h.width * h.channels
  let y := i / max 1 row
  match h.kind with
  | .jpeg _ sampling =>
    let s := mcuSize sampling
    let per := mcusAcross h sampling
    let x := i / max 1 h.channels % max 1 h.width
    match goodMcu d.lost per (y / s.2 + 1) (y / s.2 * per + x / s.1) with
    | some k => at_ ((k / max 1 per * s.2 + y % s.2) * row + i % max 1 row)
    | none => { (default : ImageElem) with stored := f32Int 128 }
  | .png .. =>
    let good := d.lost.foldl min h.height
    if y < good ∨ good = 0 then at_ i else at_ ((good - 1) * row + i % max 1 row)
  | .fits .. => at_ i

/-- The value of element i of an image; a lost FITS element is NaN, or ZBLANK (else 0) under RAWV (R334, R352). -/
def concealedValue (d : ImageDecoded) (h : ImageHead) (raw : Bool) (i : Nat) : W32 :=
  match h.kind with
  | .fits .. =>
    if d.lost.contains i then (if raw then d.zblank.getD 0 else 0x7FC00000) else imageValue h raw (concealedElem d h) i
  | _ => imageValue h raw (concealedElem d h) i

/-- Elements of an image that are concealed (R352, R353). -/
def lostElements (d : ImageDecoded) (h : ImageHead) : Nat :=
  d.damage.concealed +
    match h.kind with
    | .jpeg _ sampling =>
      let s := mcuSize sampling
      let per := mcusAcross h sampling
      (d.lost.map fun m => (min h.width ((m % max 1 per + 1) * s.1) - min h.width (m % max 1 per * s.1)) *
        (min h.height ((m / max 1 per + 1) * s.2) - min h.height (m / max 1 per * s.2)) * h.channels).sum
    | .png .. => (h.height - d.lost.foldl min h.height) * h.width * h.channels
    | .fits .. => d.lost.length

/-- An image sample (R333, R334, R349, R351 to R353). -/
def imageOut (j : Mj) (lim : Part) (fmt : Nat) (bs : List Byte) (q : Option MParam) : SlotOut :=
  if !(fmt == 1 || fmt == 2 || fmt == 3) then voidOut stFormat headerCycles
  else
    match Config.imageHead fmt bs with
    | none => { voidOut stCorrupt headerCycles with damage := Config.headDamage fmt bs, found := headerCycles }
    | some h =>
      if !imageSupported h then voidOut stFormat headerCycles
      else if h.width * h.height * imagePlanes h > lim.maxPixels ∨ imageTooLarge h ∨
          h.width * h.height * h.channels * h.storedBytes > lim.ratioCap * bs.length then voidOut stBounds headerCycles
      else
        let d := Config.imageDecode fmt bs
        let n := h.width * h.height * h.channels
        let p : Picture := ⟨h.width, h.height, h.channels, (List.range n).map (concealedValue d h j.rawv)⟩
        settleDamage j (damageAt bs.length d.damage) (concealShare (lostElements d h) n)
          ⟨stOk, false, none, 0, headerCycles + imageCycles h d.cycles, j.extH, some (j.image (p.augmented j (fmt != 3) q)), [], [],
            headerCycles + d.damage.at_⟩

/-! ### Audio (R335, R336) -/

/-- Sample times of a clip: as its header states, or as decoded. -/
def clipTimes (d : AudioDecoded) (h : AudioHead) : Nat :=
  if h.length = 0 then d.elems.length / max 1 h.channels else h.length

/-- A sample time is lost. -/
def clipLost (d : AudioDecoded) (h : AudioHead) (t : Nat) : Bool :=
  decide (d.elems.length / max 1 h.channels ≤ t) || d.lost.any fun r => decide (r.1 ≤ t) && decide (t < r.1 + r.2)

/-- One channel of interleaved samples; lost and missing ones are 0 (R352). -/
def clipChannel (d : AudioDecoded) (h : AudioHead) (c : Nat) : List W32 :=
  (List.range (clipTimes d h)).map fun t =>
    if clipLost d h t then 0 else d.elems.getD (t * h.channels + min c (h.channels - 1)) 0

/-- The features of a clip are among those its decoder supports (R335). -/
def audioSupported (h : AudioHead) : Bool :=
  decide (h.coding ≤ 3) && within h.channels 1 8 && decide (h.rate ≤ 192000) &&
    (h.coding == 1 || (if h.coding = 3 then h.bits == 32 else within h.bits 8 24))

/-- A sample's value (R335): an integer over 2^(bits - 1), a float as it is, Opus output over 32,768. -/
def audioValue (h : AudioHead) (w : W32) : W32 :=
  if h.coding = 3 then w else if h.coding = 1 then fdiv w (f32Int 32768) else fdiv w (f32Int (2 ^ (h.bits - 1)))

/-- The samples per channel that the slot needs of a clip whose header states no length: those that its output times are made of, with
the filter's look-ahead, from where its crop begins and as far as it goes (R335, R349, R351). -/
def Mj.audioNeed (j : Mj) (rate : Nat) (q : Option MParam) : Nat :=
  let out := if j.spec then (j.extW - 1) * j.hop + j.frame else j.extW
  let n := if j.outRate = 0 then out else resampleNeed rate j.outRate out
  match q with
  | some q => if q.op 0 then (q.cropX + (min n q.cropW : Nat)).toNat else n
  | none => n

/-- The channels of a clip, cropped in source samples and resampled. -/
def audioChans (j : Mj) (h : AudioHead) (d : AudioDecoded) (q : Option MParam) : List (List W32) :=
  (List.range (max 1 h.channels)).map fun c =>
    let src := (clipChannel d h c).map (audioValue h)
    let cut := match q with
      | some q => if q.op 0 then (List.range q.cropW).map fun (t : Nat) => src.getD (clampTo src.length (q.cropX + t)) 0 else src
      | none => src
    if j.outRate = 0 then cut else resample h.rate j.outRate cut

/-- The average of the channels at each sample time. -/
def monoOf (cs : List (List W32)) : List W32 :=
  match cs with
  | [] => []
  | c :: t => (List.range c.length).map fun i =>
      fdiv (t.foldl (fun a (k : List W32) => fadd a (k.getD i 0)) (c.getD i 0)) (f32Int (t.length + 1))

/-- An audio sample: waveform or spectrum, masks after the spectrum, cut at EXT_W (R335, R336, R349, R351 to R353). A clip whose
header states no length is decoded up to what the slot needs. -/
def audioOut (j : Mj) (lim : Part) (fmt : Nat) (bs : List Byte) (q : Option MParam) : SlotOut :=
  if !(fmt == 0x10 || fmt == 0x11 || fmt == 0x12) then voidOut stFormat headerCycles
  else
    match Config.audioHead fmt bs with
    | none => { voidOut stCorrupt headerCycles with damage := Config.headDamage fmt bs, found := headerCycles }
    | some h =>
      if !audioSupported h then voidOut stFormat headerCycles
      else if h.length > lim.maxSamples ∨ h.length * h.channels * ceilDiv h.bits 8 > lim.ratioCap * bs.length then
        voidOut stBounds headerCycles
      else
        let stop := if h.length = 0 then min lim.maxSamples (j.audioNeed h.rate q) else h.length
        let d := Config.audioDecode fmt stop bs
        let chans := audioChans j h d q
        let n := (chans.getD 0 []).length
        let rate := if j.outRate = 0 then h.rate else j.outRate
        let resampled := if j.outRate = 0 then 0 else ceilDiv (n * chans.length) 8
        let decoded := ceilDiv d.elems.length (if h.coding = 1 then 2 else 32)
        let frames := if n < j.frame then 0 else (n - j.frame) / j.hop + 1
        let have_ := if j.spec then frames else n
        let len := min have_ j.extW
        let mono := monoOf chans
        let masked (f b : Nat) : Bool :=
          match q with
          | some q => (q.op 4 && within f q.tm0 (q.tm0 + q.tmLen - 1) && decide (0 < q.tmLen)) ||
              (q.op 5 && within b q.fm0 (q.fm0 + q.fmLen - 1) && decide (0 < q.fmLen))
          | none => false
        let value (i : Nat) : Num :=
          if j.spec then
            let f := i / j.extH
            let b := i % j.extH
            if masked f b then f32 ((q.map (·.fill)).getD 0)
            else if f < len then f32 (melValue rate j.frame j.extH ((mono.drop (f * j.hop)).take j.frame) b)
            else .fin false 0 0
          else
            let t := i / j.extC
            if t < len then f32 ((chans.getD (min (i % j.extC) (chans.length - 1)) []).getD t 0) else .fin false 0 0
        let lost := (List.range (clipTimes d h)).countP (clipLost d h)
        settleDamage j (damageAt bs.length d.damage)
          (concealShare (d.damage.concealed + lost * h.channels) (clipTimes d h * h.channels))
          ⟨stOk, (h.length == 0 && d.more) || decide (have_ > j.extW), none, 0,
            headerCycles + decoded + resampled + (if j.spec then len * (j.frame / 8 + j.extH) else 0), len,
            some ((List.range j.slotElems).map value), [], [], headerCycles + d.damage.at_⟩

/-! ### Text (R337, R338) -/

/-- A text sample: tokens up to EXT_W; an invalid subpart is damage, its bytes the concealed share (log entry 40). -/
def textOut (j : Mj) (v : Vocab) (fmt : Nat) (bs : List Byte) : SlotOut :=
  if fmt ≠ 0x20 then voidOut stFormat headerCycles
  else
    let cs := utf8Chars 0 bs
    let ts := tokenise v cs
    let bad := ((cs.filter fun c => !c.valid).map (·.taken)).sum
    settleDamage j ((utf8Damage 0 cs).map fun o => (o, 0)) (concealShare bad bs.length)
      ⟨stOk, decide (ts.length > j.extW), none, 0, headerCycles + ceilDiv bs.length 2, min ts.length j.extW, some [],
        ts.take j.extW, [], headerCycles + ((utf8Damage 0 cs).elim 0 fun o => ceilDiv o 2)⟩

/-! ### Video (R361 to R372) -/

/-- Where chroma lies beside luma by its sample location type, in half luma samples, across and down: PRESUMED from H.265 (log entry
107). -/
def chromaShift : Nat → Nat × Nat
  | 0 => (0, 1)
  | 1 => (1, 1)
  | 2 => (0, 0)
  | 3 => (1, 0)
  | 4 => (0, 2)
  | _ => (1, 2)

/-- A chroma plane at luma position (y, x), by bilinear interpolation, edges clamped (R367). -/
def chromaAt (f : VideoFrame) (plane : List Nat) (y x : Nat) : W32 :=
  let w := (f.pic.codedW + 1) / 2
  let h := (f.pic.codedH + 1) / 2
  let o := chromaShift (f.pic.seq.loc.getD 0)
  let u : Int := 2 * (x : Int) - o.1
  let v : Int := 2 * (y : Int) - o.2
  let px (r c : Int) : W32 := f32Int (plane.getD (clampTo h r * w + clampTo w c) 0)
  let line (r : Int) : W32 := lerp (px r (u / 4)) (px r (u / 4 + 1)) (f32Ratio (u % 4) 4)
  lerp (line (v / 4)) (line (v / 4 + 1)) (f32Ratio (v % 4) 4)

/-- Kr and Kb of a matrix, in 1/10,000: BT.709 where it is unspecified or other (R367). -/
def matrixOf : Nat → Nat × Nat
  | 2 => (2990, 1140)
  | 3 => (2627, 593)
  | _ => (2126, 722)

/-- R, G and B of code values Y, Cb, Cr, in code units: the range expanded first (R367; DESIGN CHOICE, log entry 107). -/
def frameRgb (f : VideoFrame) (y cb cr : W32) : W32 × W32 × W32 :=
  let bits := f.pic.seq.bits
  let s := 2 ^ (bits - 8)
  let top : Nat := 2 ^ bits - 1
  let mid := f32Int (2 ^ (bits - 1))
  let y' := if f.pic.seq.full then y else fmul (fsub y (f32Int (16 * s))) (f32Ratio top (219 * s))
  let chroma (c : W32) : W32 := if f.pic.seq.full then fsub c mid else fmul (fsub c mid) (f32Ratio top (224 * s))
  let k := matrixOf f.pic.seq.matrix
  let kg := 10000 - k.1 - k.2
  let twice (n : Nat) : Nat := 2 * (10000 - n)
  let u := chroma cb
  let v := chroma cr
  (fadd y' (fmul (f32Ratio (twice k.1) 10000) v),
    fsub (fsub y' (fmul (f32Ratio (k.2 * twice k.2 : Nat) (10000 * kg)) u)) (fmul (f32Ratio (k.1 * twice k.1 : Nat) (10000 * kg)) v),
    fadd y' (fmul (f32Ratio (twice k.2) 10000) u))

/-- The channels of a frame at luma position (y, x) of its output window, in code units: Y, Cb, Cr, or R, G, B; a monochrome source has Cb
and Cr at the mid-value, and R = G = B = Y (R367). -/
def frameChannels (f : VideoFrame) (rgb : Bool) (y x : Nat) : List W32 :=
  let y := y + f.pic.top
  let x := x + f.pic.left
  let mid := f32Int (2 ^ (f.pic.seq.bits - 1))
  let l := f32Int (f.planes.luma.getD (y * f.pic.codedW + x) 0)
  match f.planes.chroma with
  | none => if rgb then [l, l, l] else [l, mid, mid]
  | some (cb, cr) =>
    let u := chromaAt f cb y x
    let v := chromaAt f cr y x
    if rgb then let q := frameRgb f l u v; [q.1, q.2.1, q.2.2] else [l, u, v]

/-- A frame's picture before its resize. -/
def framePicture (f : VideoFrame) (j : Mj) : Picture :=
  ⟨f.pic.width, f.pic.height, 3,
    (List.range f.pic.height).flatMap fun y => (List.range f.pic.width).flatMap fun x => frameChannels f j.rgb y x⟩

/-- The values of one frame of a video slot in memory order: resized, then normalised as R334 states; a missing frame's are +0
(R367). -/
def Mj.frameVals (j : Mj) : Option VideoFrame → List Num
  | none => List.replicate j.pixels (.fin false 0 0)
  | some f =>
    let p := framePicture f j
    j.image fun y x c =>
      let v := p.scaled j j.rgb p.whole y x c
      if j.rawv then v else fdiv v (f32Int (2 ^ f.pic.seq.bits - 1))

/-- Luma samples of the largest picture (R363). -/
def maxLuma : Nat := 35651584

/-- The coding that a format code names (R361). -/
def codingOf (fmt : Nat) : Nat := if fmt ≤ 0x31 then 1 else 2

/-- A format code of an ISO base media file. -/
def isoFmt (fmt : Nat) : Bool := fmt == 0x31 || fmt == 0x34

/-- Pictures of reference storage: the DPB size that HEVC declares and one more, 9 in AV1 (R368). -/
def seqStorage (fmt : Nat) (s : VideoSeq) : Nat := if codingOf fmt = 1 then s.dpb + 1 else 9

/-- A sequence header's tests (R363, R368): picture size, limit, the expansion of its first picture aside, reference storage. -/
def seqRefused (lim : Part) (fmt : Nat) (s : VideoSeq) : Bool :=
  let luma := s.width * s.height
  decide (luma > maxLuma) || decide (s.width > 16384) || decide (s.height > 16384) || decide (luma > lim.maxPixels) ||
    decide (3 * luma * seqStorage fmt s > lim.maxPixels * 16)

/-- The features of a sequence are among those the decoder of its coding supports: HEVC Main at 8 bits and Main 10, AV1 Main (R362). -/
def seqSupported (fmt : Nat) (s : VideoSeq) : Bool :=
  !s.other && decide (s.chroma ≤ 1) &&
    (if codingOf fmt = 1 then ((s.prof == 1 && s.bits == 8) || (s.prof == 2 && within s.bits 8 10)) && decide (s.level ≤ 186)
     else s.prof == 0 && decide (s.level ≤ 19) && (s.bits == 8 || s.bits == 10))

/-- The first track of the coding that a format code names; others are ignored (R361). -/
def videoTrack (fmt : Nat) (bs : List Byte) : Option VideoTrack := (Config.videoTracks fmt bs).find? (·.coding == codingOf fmt)

/-- A display index is one that the slot takes (R366). -/
def Mj.takes (j : Mj) (disp : Nat) : Bool :=
  decide (j.start ≤ disp) && (disp - j.start) % max 1 j.step == 0 && decide ((disp - j.start) / max 1 j.step < j.nfr)

/-- Where decoding begins: the first picture, or with SEEK the last random-access point at or before START, which an ISO base media file
lists in its sync-sample table; none: there is no such point (R366). -/
def Mj.firstPic (j : Mj) (fmt : Nat) (t : VideoTrack) : Option Nat :=
  let open_ (p : VideoPic) (n : Nat) : Bool := (if isoFmt fmt then t.sync.contains n else p.access) && decide (p.disp ≤ j.start)
  let ns := (t.pics.zipIdx.filter fun ((p, n) : VideoPic × Nat) => open_ p n).map (·.2)
  if j.seek then ns.getLast? else if ns = [] then none else some 0

/-- The picture after the last one that is decoded: the one after the last frame taken, or the clip's end where a frame is missing
(R366). -/
def Mj.endPic (j : Mj) (t : VideoTrack) (first : Nat) : Nat :=
  let ns := (t.pics.zipIdx.filter fun ((p, n) : VideoPic × Nat) => decide (first ≤ n) && j.takes p.disp).map (·.2)
  if ns.length < j.nfr then t.pics.length else ns.foldl max first + 1

/-- A picture is reconstructed: it is taken, or a later picture references it (R366). -/
def Mj.builds (j : Mj) (t : VideoTrack) (n : Nat) (p : VideoPic) : Bool :=
  j.takes p.disp || (t.pics.drop (n + 1)).any fun q => q.refs.contains n

/-- Elements of the planes of a picture of some size. -/
def seqElements (s : VideoSeq) (w h : Nat) : Nat := w * h + (if s.chroma = 0 then 0 else 2 * (ceilDiv w 2 * ceilDiv h 2))

/-- Bytes of a picture, at the stored bytes of an element (R368). -/
def picStored (p : VideoPic) : Nat := seqElements p.seq p.codedW p.codedH * (if p.seq.bits ≤ 8 then 1 else 2)

/-- The media cycles of a picture (R378): HEVC at 0.5 and AV1 at 0.4 luma samples a cycle, a frame taken the larger of that and its
output stage; one that is parsed alone 4,096 cycles and a quarter for each coded byte. -/
def Mj.picCycles (j : Mj) (fmt : Nat) (built : Bool) (p : VideoPic) : Nat :=
  let luma := p.codedW * p.codedH
  if !built then 4096 + ceilDiv p.bytes 4
  else max (if codingOf fmt = 1 then 2 * luma else ceilDiv (5 * luma) 2) (if j.takes p.disp then ceilDiv (j.extW * j.extH) 4 else 0)

/-- The position of a plane's sample in CTU or superblock units: the number of the one that holds it. -/
def picUnit (p : VideoPic) (side x y : Nat) : Nat := y / max 1 side * ceilDiv p.codedW (max 1 p.seq.side) + x / max 1 side

/-- One plane with its lost parts concealed: the co-located samples of the previous picture, or the mid-value (R369). -/
def concealPlane (p : VideoPic) (side w h : Nat) (plane : List Nat) (prev : Option (Nat × Nat × List Nat)) : List Nat :=
  (List.range (w * h)).map fun i =>
    let x := i % max 1 w
    let y := i / max 1 w
    if !p.lost.contains (picUnit p side x y) then plane.getD i 0
    else match prev with
      | some (pw, ph, l) => l.getD (min y (ph - 1) * pw + min x (pw - 1)) 0
      | none => 2 ^ (p.seq.bits - 1)

/-- A picture with its lost parts concealed. -/
def concealPicture (p : VideoPic) (own : VideoPlanes) (prev : Option (VideoPic × VideoPlanes)) : VideoPlanes :=
  let half (n : Nat) : Nat := (n + 1) / 2
  let side := p.seq.side
  let from_ (f : VideoPlanes → Option (List Nat)) (c : Nat → Nat) : Option (Nat × Nat × List Nat) :=
    prev.bind fun q => (f q.2).map fun l => (c q.1.codedW, c q.1.codedH, l)
  { luma := concealPlane p side p.codedW p.codedH own.luma (from_ (fun v => some v.luma) id)
    chroma := own.chroma.map fun (cb, cr) =>
      (concealPlane p (side / 2) (half p.codedW) (half p.codedH) cb (from_ (fun v => v.chroma.map (·.1)) half),
        concealPlane p (side / 2) (half p.codedW) (half p.codedH) cr (from_ (fun v => v.chroma.map (·.2)) half)) }

/-- Elements of a picture that are concealed directly: those of its lost CTUs or superblocks (R353, R369). -/
def picLost (p : VideoPic) : Nat :=
  let per := ceilDiv p.codedW (max 1 p.seq.side)
  (p.lost.map fun u =>
    let x := u % max 1 per * p.seq.side
    let y := u / max 1 per * p.seq.side
    seqElements p.seq (min p.codedW (x + p.seq.side) - min p.codedW x) (min p.codedH (y + p.seq.side) - min p.codedH y)).sum

/-- A decode in progress: media cycles, bytes decoded and read, the pictures reconstructed with their numbers, the frames taken, which pictures
are concealed or reference such since the last random-access point, elements concealed and claimed, the first damage with the cycles
worked until then, and the status that ends it. -/
structure VideoWork where
  cycles  : Nat
  decoded : Nat
  read    : Nat
  built   : List (Nat × VideoPic × VideoPlanes)
  frames  : List VideoFrame
  hurt    : List Nat
  conc    : Nat
  claimed : Nat
  damage  : Option (Nat × Nat)
  found   : Nat
  stop    : Option W16
  deriving DecidableEq, Repr, Inhabited

/-- The previous picture in output order of those reconstructed (R369). -/
def VideoWork.before (w : VideoWork) (disp : Nat) : Option (VideoPic × VideoPlanes) :=
  (w.built.map (·.2)).foldl (fun best q =>
    if q.1.disp < disp then
      match best with
      | some r => if r.1.disp < q.1.disp then some q else best
      | none => some q
    else best) none

/-- A component of a vector of AV1, in eighths, as quarter samples: rounded half away from zero (R371). -/
def quarterPel (v : Int) : Int := if v < 0 then -((1 - v) / 2) else (v + 1) / 2

/-- A picture with the vectors of its blocks in quarter samples (R371, R372). -/
def inQuarters (fmt : Nat) (p : VideoPic) : VideoPic :=
  if codingOf fmt = 1 then p
  else { p with blocks := p.blocks.map fun b => { b with mvX := quarterPel b.mvX, mvY := quarterPel b.mvY } }

/-- A picture is reconstructed, its damage concealed, and taken where the slot takes it; one whose headers cannot be read is the previous
picture again, and ends the decode where there is none (R363, R366, R369). -/
def VideoWork.build (w : VideoWork) (j : Mj) (fmt : Nat) (bs : List Byte) (n : Nat) (p : VideoPic) : VideoWork :=
  let prev := w.before p.disp
  let refs := p.refs.filterMap fun r => (w.built.find? (·.1 == r)).map (·.2.2)
  let made : Option (VideoPic × VideoPlanes) :=
    if p.header then
      let own := Config.videoRecon fmt bs n refs
      some (p, if p.lost = [] then own else concealPicture p own prev)
    else prev.map fun q => ({ q.1 with disp := p.disp, bytes := p.bytes, blocks := [], lost := [] }, q.2)
  match made with
  | none => { w with stop := some stCorrupt }
  | some (q, planes) =>
    let conc := !p.header || p.lost != []
    let prop := !p.access && p.refs.any w.hurt.contains
    let all := seqElements q.seq q.codedW q.codedH
    let w1 := { w with
      built := w.built ++ [(n, q, planes)], hurt := if conc || prop then w.hurt ++ [n] else w.hurt
      decoded := w.decoded + picStored q }
    if !j.takes p.disp then w1
    else { w1 with
      frames := w1.frames ++ [⟨inQuarters fmt q, planes, conc, prop⟩], claimed := w1.claimed + all
      conc := w1.conc + (if p.header then picLost p else all) }

/-- One picture of a clip in decoding order: its sequence headers' tests, its expansion test, then it is parsed or reconstructed (R362, R363,
R366, R368). Bytes read are the coded bytes of the pictures gone through, this one's among them (log entry 6). -/
def VideoWork.step (j : Mj) (lim : Part) (fmt : Nat) (bs : List Byte) (t : VideoTrack) (w : VideoWork) (r : VideoPic × Nat) : VideoWork :=
  let p := r.1
  let built := j.builds t r.2 p
  let read := w.read + p.bytes
  if w.stop.isSome then w
  else if !p.heads.all (seqSupported fmt) then { w with stop := some stFormat }
  else if p.heads.any (seqRefused lim fmt) || (built && decide (w.decoded > lim.ratioCap * read + picStored p)) then
    { w with stop := some stBounds }
  else
    let w1 := { w with
      damage := earlier w.damage p.damage, found := if w.damage.isNone && p.damage.isSome then w.cycles else w.found, read := read }
    let w2 := if built then w1.build j fmt bs r.2 p else w1
    { w2 with cycles := w2.cycles + j.picCycles fmt built p }

/-- Pictures first to last of a clip. -/
def Mj.decodeClip (j : Mj) (lim : Part) (fmt : Nat) (bs : List Byte) (t : VideoTrack) (first start : Nat) : VideoWork :=
  ((t.pics.zipIdx.take (j.endPic t first)).drop first).foldl (VideoWork.step j lim fmt bs t)
    ⟨start, 0, 0, [], [], [], 0, 0, none, 0, none⟩

/-- The frames of a slot by their place in it; a place whose frame the clip does not have is empty (R366, R367). -/
def Mj.placed (j : Mj) (fs : List VideoFrame) : List (Option VideoFrame) :=
  (List.range j.nfr).map fun i => fs.find? fun f => f.pic.disp == j.start + i * j.step

/-- A video sample (R361 to R369). -/
def videoOut (j : Mj) (lim : Part) (fmt : Nat) (bs : List Byte) : SlotOut :=
  let scan := if j.seek && !isoFmt fmt then ceilDiv (Config.videoScan fmt bs j.start) 16 else 0
  let corrupt : SlotOut := { voidOut stCorrupt headerCycles with damage := Config.headDamage fmt bs, found := headerCycles }
  if !within fmt 0x30 0x34 then voidOut stFormat headerCycles
  else
    match videoTrack fmt bs with
    | none => corrupt
    | some t =>
      let heads := (t.pics.head?.map (·.heads)).getD []
      if !heads.all (seqSupported fmt) then voidOut stFormat headerCycles
      else if !t.tableOk then corrupt
      else if heads.any (seqRefused lim fmt) then voidOut stBounds headerCycles
      else
        match j.firstPic fmt t with
        | none => { corrupt with cycles := headerCycles + scan }
        | some first =>
          let w := j.decodeClip lim fmt bs t first (headerCycles + scan)
          let fs := j.placed w.frames
          match w.stop with
          | some st => { voidOut st w.cycles with damage := if st = stCorrupt then w.damage else none, found := w.found, frames := fs }
          | none =>
            settleDamage j w.damage (concealShare w.conc w.claimed)
              ⟨stOk, false, none, 0, w.cycles, (fs.filterMap id).length, some (fs.flatMap j.frameVals), [], fs, w.found⟩

/-! ### A slot -/

/-- What a slot needs read: its index entry, its parameter record, and its sample's bytes. -/
structure SlotSrc where
  index  : Nat
  entry  : Nat
  param  : Option Nat
  deriving DecidableEq, Repr, Inhabited

/-- Where a slot's entry and record lie (R332, R340, R348). -/
def slotSrc (j : Mj) (t : Stream) (s : MediaSlot) : SlotSrc :=
  let i := shuffle s.pos t.n t.seed s.epoch
  ⟨i, t.indexBase + 16 * i, if j.aug then some (t.paramBase + s.seq % t.paramRing * 64) else none⟩

/-- The memory a slot reads, once its index entry is known to lie in the partition's DRAM. -/
def slotReads (o : Own) (m : Mem) (p : Fin 8) (r : SlotSrc) : List (Nat × Nat) :=
  if !o.inData p r.entry 16 then []
  else
    let e := sampleAt m r.entry
    (r.entry, 16) :: (match r.param with | some a => [(a, 64)] | none => []) ++
      (if !e.bad && o.inData p e.addr e.len then [(e.addr, e.len)] else [])

/-- The outcome of a slot's decode, its budget apart (R355). -/
def slotOutcome (o : Own) (m : Mem) (p : Fin 8) (lim : Part) (j : Mj) (s : MediaSlot) (r : SlotSrc) : SlotOut :=
  if !o.inData p r.entry 16 then voidOut stWorld 0
  else
    let e := sampleAt m r.entry
    let q := r.param.map fun a => mparamOf (m.bytes a 64)
    if e.bad then voidOut stFormat 0
    else if !o.inData p e.addr e.len then voidOut stWorld 0
    else if (match q with | some q => q.refuses j s.seq | none => false) then voidOut stFormat 0
    else
      let bs := m.bytes e.addr e.len
      if j.unit = 1 then imageOut j lim e.fmt bs q
      else if j.unit = 2 then videoOut j lim e.fmt bs
      else if j.unit = 3 then audioOut j lim e.fmt bs q
      else textOut j lim.vocab e.fmt bs

/-! ### What is written (R342, R343, R371, R372) -/

/-- A status record. -/
def statusRecord (st : W16) (void trunc : Bool) (index : Nat) (epoch : W32) (pos : Nat) (damage : Option (Nat × Nat))
    (conceal cycles len : Nat) : List Byte :=
  leBytes 2 st.toNat ++ [(if void then 1 else 0) + (if trunc then 2 else 0), 0] ++ leBytes 4 index ++ leBytes 4 epoch.toNat ++
    leBytes 4 pos ++ leBytes 4 ((damage.map (·.1)).getD 0xFFFFFFFF) ++
    [BitVec.ofNat 8 ((damage.map (·.2)).getD 0), BitVec.ofNat 8 conceal, 0, 0] ++ leBytes 4 cycles ++ leBytes 4 len

/-- The converted elements of a list of values, index from 0 (R47 to R50). -/
def Mj.convertAll (j : Mj) (vs : List Num) : List (List Byte × ConvEv) :=
  match Target.ofCode j.outFmt with
  | none => []
  | some t => vs.zipIdx.map fun ((v, i) : Num × Nat) => let c := convert t j.ccw i v; (leBytes t.bytes c.1, c.2)

/-- The bytes of a delivered slot and what its conversions counted: image and audio slots densely, a video slot frame by frame
at the frame pitch, text tokens and zeros. -/
def Mj.slotData (j : Mj) (out : SlotOut) : List Byte × List ConvEv :=
  match out.vals with
  | none => (List.replicate j.slotBytes 0, [])
  | some vs =>
    if j.unit = 4 then
      (out.ids.flatMap (leBytes 4) ++ List.replicate (4 * (j.extW - out.ids.length)) 0, [])
    else
      let cs := j.convertAll vs
      let bs := cs.map (·.1)
      if j.unit = 2 then
        ((List.range j.nfr).flatMap fun f =>
          let frame := ((bs.drop (f * j.pixels)).take j.pixels).flatten
          frame ++ List.replicate (j.framePitch - frame.length) 0, cs.map (·.2))
      else (bs.flatten, cs.map (·.2))

/-- Entries of the motion-vector map of a coded picture: its 16 × 16 luma blocks (R372). -/
def mvCount (w h : Nat) : Nat := ceilDiv w 16 * ceilDiv h 16

/-- The motion-vector map of a coded picture, from its 8 × 8 blocks: of each 16 × 16 block the top-left one's vector, 0x8000_8000 for an
intra one, as which a block that is not decoded counts (R372; log entry 128). -/
def mvMap (w h : Nat) (blocks : List VideoBlock) : List Byte :=
  let per := ceilDiv w 8
  (List.range (mvCount w h)).flatMap fun i =>
    let x := i % max 1 (ceilDiv w 16)
    let y := i / max 1 (ceilDiv w 16)
    match blocks[2 * y * per + 2 * x]? with
    | some b => if b.kind = 0 then leBytes 4 0x80008000
        else leBytes 2 (BitVec.ofInt 16 b.mvX).toNat ++ leBytes 2 (BitVec.ofInt 16 b.mvY).toNat
    | none => leBytes 4 0x80008000

/-- The bytes of QP_AVG to MV_MAXY of a statistics record but BITS, from the 8 × 8 blocks that were decoded: the mean quantiser in 1/256,
rounded down, the counts by kind, the vectors' sums and largest (R371; log entry 128): QP_AVG, then INTRA to MV_MAXY. -/
def blockStats (blocks : List VideoBlock) : List Byte × List Byte :=
  let mv := blocks.filter (·.kind != 0)
  let xs := mv.map fun b => b.mvX.natAbs
  let ys := mv.map fun b => b.mvY.natAbs
  let n (k : Nat) : Nat := blocks.countP (·.kind == k)
  (leBytes 2 ((blocks.map (·.qp)).sum * 256 / max 1 blocks.length),
    leBytes 4 (n 0) ++ leBytes 4 (n 1) ++ leBytes 4 (n 2) ++ leBytes 8 xs.sum ++ leBytes 8 ys.sum ++
      leBytes 2 (min 65535 (xs.foldl max 0)) ++ leBytes 2 (min 65535 (ys.foldl max 0)))

/-- The 8 × 8 luma block i of a picture lies in a lost CTU or superblock. -/
def blockLost (p : VideoPic) (i : Nat) : Bool :=
  let per := ceilDiv p.codedW 8
  p.lost.contains (picUnit p p.seq.side (i % max 1 per * 8) (i / max 1 per * 8))

/-- Blocks of a picture that were decoded. -/
def soundBlocks (p : VideoPic) : List VideoBlock := (p.blocks.zipIdx.filter fun ((_, i) : VideoBlock × Nat) => !blockLost p i).map (·.1)

/-- 8 × 8 luma blocks that are concealed directly (R371). -/
def VideoFrame.concealed (f : VideoFrame) : Nat :=
  let n := ceilDiv f.pic.codedW 8 * ceilDiv f.pic.codedH 8
  if f.conc && f.pic.lost == [] then n else (List.range n).countP (blockLost f.pic)

/-- The statistics records of a video slot: one for each frame, TYPE 0 for a frame that is missing; MVCUT where the map passes
MV_PITCH (R371, R372). -/
def Mj.statsData (j : Mj) (fs : List (Option VideoFrame)) : List Byte :=
  (List.range j.nfr).flatMap fun i =>
    match (fs[i]?).join with
    | none => leBytes 4 (j.start + i * j.step) ++ List.replicate 60 0
    | some f =>
      let upto := ((fs.take (i + 1)).map fun k => k.elim 0 fun g => 4 * mvCount g.pic.codedW g.pic.codedH).sum
      let cut := j.mvmap && decide (upto > j.mvPitch)
      let st := blockStats (soundBlocks f.pic)
      leBytes 4 f.pic.disp ++
        [BitVec.ofNat 8 f.pic.typ, BitVec.ofNat 8 ((if f.conc then 1 else 0) + (if f.prop then 2 else 0) + (if cut then 4 else 0))] ++
        st.1 ++ leBytes 4 (8 * f.pic.bytes) ++ st.2 ++ leBytes 4 f.concealed ++ List.replicate 16 0

/-- The motion-vector maps of a slot, one after another, cut at MV_PITCH. -/
def Mj.mvData (j : Mj) (fs : List (Option VideoFrame)) : List Byte :=
  (fs.flatMap fun f => f.elim [] fun g => mvMap g.pic.codedW g.pic.codedH
    (g.pic.blocks.zipIdx.map fun ((b, i) : VideoBlock × Nat) => if blockLost g.pic i then { b with kind := 0 } else b)).take j.mvPitch

end Sys2Proof.Machine
end

