-- ==== Sys2Proof/Machine/Media.lean ====
section
/-! DEFINITION. The media front end: its commands, and MJs of image, audio, text and video decode units as they run (R338, R339,
R342 to R347, R350, R354, R355, R360, R370, R417). -/

namespace Sys2Proof.Machine

open Sys2Proof

/-! ### Commands (R417) -/

/-- n bytes at a lie in one memory that partition p owns: data region, cellar run, cave region, a vat of its cores. -/
def Own.ownsMem (o : Own) (p : Fin 8) (a n : Nat) : Bool :=
  o.present p &&
    (inside (o.prec p).block.dataRange a n || inside (o.prec p).block.cellarRange a n || inside (caveRegion p.val, 0x6000) a n ||
      (o.cores p).any fun c => inside (vatBase c.val, vatSize) a n)

/-- A power of two from 1 to 65,536. -/
def ringOk (n : Nat) : Bool := (List.range 17).any fun i => n == 2 ^ i

/-- MEDIA_CFG's rule (R350). -/
def mediaCfgAct (x : Xnx) (o : Own) (b : Body) : Xres :=
  onPart x fun p =>
    let px := xArg x 0 4
    let sm := xArg x 4 4
    let ra := xArg x 8 2
    let work := xArg x 0x10 8
    let bytes := xArg x 0x18 8
    let k := (o.prec p).block
    if !zeros x.args 0xA 6 then .refused stFormat 0
    else if !o.inData p work bytes then .foreign (o.outside p work)
    else if !within px 1 (2 ^ 28) || !within sm 1 (2 ^ 28) || decide (ra < 16) then .refused stBounds 0
    else if (b.part p).mjs ≠ [] then .refused stBusy 0
    else if bytes < px * 16 * (k.nImg + k.nVdec) then .refused stFit 0
    else .done o (b.updPart p fun y =>
      { y with maxPixels := px, maxSamples := sm, ratioCap := ra, work := some (work, bytes) }) stOk 0 []

/-- MEDIA_CFG. -/
def execMediaCfg (x : Xnx) (s : State) : Result := s.xnx 0x0401 x .part (x.len == 32) (x.arg0 == 0) (mediaCfgAct x)

/-- An MJ that takes positions of a stream. -/
def MjRun.ofStream (m : MjRun) (i : Nat) : Bool := m.unit != 5 && m.session == none && m.stream == i

/-- MEDIA_STREAM's rule (R339). -/
def mediaStreamAct (x : Xnx) (o : Own) (b : Body) : Xres :=
  onPart x fun p =>
    let at_ := xArg x 0 8
    let n := xArg x 8 4
    let ring := xArg x 0x1C 4
    let par := xArg x 0x20 8
    let mean := xArg x 0x28 4
    if !o.inData p at_ (16 * n) then .foreign (o.outside p at_)
    else if !o.ownsMem p par (64 * ring) then .foreign par
    else if n = 0 ∨ xArg x 0x18 4 ≥ n ∨ !ringOk ring ∨ mean < 1024 then .refused stBounds 0
    else if (b.part p).mjs.any (·.ofStream x.arg0) then .refused stBusy 0
    else
      let t : Stream :=
        { Stream.reset with
          configured := true, indexBase := at_, n := n, epoch := BitVec.ofNat 32 (xArg x 0xC 4)
          seed := BitVec.ofNat 64 (xArg x 0x10 8), pos := BitVec.ofNat 32 (xArg x 0x18 4), paramRing := ring
          paramBase := par, mean := BitVec.ofNat 32 mean, meanPrev := BitVec.ofNat 32 mean, mean0 := BitVec.ofNat 32 mean }
      .done o (b.updPart p fun y => { y with streams := y.streams.set x.arg0 t }) stOk 0 []

/-- MEDIA_STREAM. -/
def execMediaStream (x : Xnx) (s : State) : Result :=
  s.xnx 0x0402 x .part (x.len == 44) (decide (x.arg0 < 16)) (mediaStreamAct x)

/-- MEDIA_VOCAB's rule: accepted as PENDING, or BUSY while a text MJ of the partition is queued or running (R338, R417). -/
def mediaVocabAct (x : Xnx) (o : Own) (b : Body) : Xres :=
  onPart x fun p =>
    let at_ := xArg x 0 8
    let n := xArg x 8 4
    if !o.ownsMem p at_ n then .foreign at_
    else if n < 16 then .refused stBounds 0
    else if (b.part p).mjs.any (·.unit == 4) then .refused stBusy 0
    else .pending o (b.updPart p fun y => { y with vocabReqs := y.vocabReqs ++ [(at_, n, xTicket x)] })

/-- MEDIA_VOCAB. -/
def execMediaVocab (x : Xnx) (s : State) : Result := s.xnx 0x0403 x .part (x.len == 12) (x.arg0 == 0) (mediaVocabAct x)

/-- A vocabulary's merges in rank order. -/
def mergesAt (m : Mem) (a n : Nat) : List (Nat × Nat) := (List.range n).map fun i => (m.le (a + 8 * i) 4, m.le (a + 8 * i + 4) 4)

/-- MEDIA_VOCAB_COMPLETE: the oldest vocabulary asked for is read whole, checked and taken, or nothing changes; a refused one leaves
only its refusal's log (R11); one that its stack holds up waits (R19, R226, R227, R338, R417, R512), as all do once the steward has
stopped (R420). -/
def vocabDone (o : Own) (b : Body) (p : Fin 8) : Body :=
  match (b.part p).vocabReqs with
  | [] => b
  | (at_, n, t) :: rest =>
    let reads := [(at_, n)]
    let b0 := b.updPart p fun y => { y with vocabReqs := rest }
    if !b.stewardUp || !b.flows o reads then b
    else
    match b.readRefused o (.media p 0 0) reads, b.firstBad o reads with
    | some (st, a), _ => (b0.logRefusal o p st (4, 0) a).respond o t st 0 []
    | none, some w => (b0.stewardBad o p w).respond o t ftEcc 0 []
    | none, none =>
      let k := b.mem.le at_ 4
      let split := b.mem.le (at_ + 12) 1
      let ms := mergesAt b.mem (at_ + 16) k
      if b.mem.le (at_ + 13) 3 ≠ 0 then b0.respond o t stFormat 0 []
      else if k > 261888 ∨ n ≠ 16 + 8 * k ∨ split > 1 ∨
          !(ms.zipIdx.all fun (((l, r), i) : (Nat × Nat) × Nat) => decide (l < 256 + i) && decide (r < 256 + i)) then
        b0.respond o t stBounds 0 []
      else
        (((b0.countReadsOf o reads).correctedIn o reads).updPart p fun y =>
          { y with vocab := ⟨true, BitVec.ofNat 32 (b.mem.le (at_ + 4) 4), BitVec.ofNat 32 (b.mem.le (at_ + 8) 4), split, ms⟩ }).respond
            o t stOk 0 []

/-- MEDIA_VOCAB_COMPLETE. -/
def execMediaVocabComplete (p : Fin 8) (s : State) : Result := s.onBody fun o b => vocabDone o b p

/-! ### MJs in progress (R345) -/

/-- The MJ that an entry of a core holds and that the media island may work on: a module trip stops the island (R227). -/
def Body.mjRunOf (b : Body) (p : Fin 8) (core : Fin 32) (ae : Nat) : Option MjRun :=
  if b.board.tripped then none
  else (b.part p).mjs.find? fun m => m.core == core && m.idx == ae && (b.core core).ctx == some m.ctx

/-- The MJ's descriptor. -/
def Body.mjDesc (b : Body) (m : MjRun) : Mj := mjOf (b.imageOf m.ctx) m.ref
/-- Its context's invocation is running, not being pre-empted. -/
def Body.mjLive (b : Body) (x : CtxId) : Bool := (b.slot x.part x.slot).run == .running

/-- Two MJs are one. -/
def MjRun.same (m n : MjRun) : Bool := m.ctx == n.ctx && m.core == n.core && m.idx == n.idx
/-- Replace an MJ. -/
def Part.setMj (p : Part) (m : MjRun) : Part := { p with mjs := p.mjs.map fun n => if n.same m then m else n }

/-- Start slots in ascending order while units are free; the units left. -/
def startSlots : Nat → List MediaSlot → List MediaSlot × Nat
  | n, [] => ([], n)
  | 0, l => (l, 0)
  | n + 1, s :: t =>
    if s.started then
      let r := startSlots (n + 1) t
      (s :: r.1, r.2)
    else
      let r := startSlots n t
      ({ s with started := true } :: r.1, r.2)

/-- Slots that a unit works on. -/
def MjRun.working (m : MjRun) : Nat := m.slots.countP fun s => s.started && !s.done

/-- Free units of one kind take slots, MJ by MJ (R345 step 3); slots of a pre-empted invocation wait (R347). -/
def Part.dispatchUnit (live : CtxId → Bool) (units : Nat) (u : Nat) (p : Part) : Part :=
  let of (m : MjRun) : Bool := m.unit == u && m.session == none && m.started
  let free := units - ((p.mjs.filter of).map MjRun.working).sum
  let r := p.mjs.foldl (fun (r : List MjRun × Nat) m =>
    if of m && live m.ctx then
      let q := startSlots r.2 m.slots
      (r.1 ++ [{ m with slots := q.1 }], q.2)
    else (r.1 ++ [m], r.2)) ([], free)
  { p with mjs := r.1 }

/-- Dispatch of every kind. -/
def Body.dispatch (o : Own) (b : Body) (p : Fin 8) : Body :=
  let k := (o.prec p).block
  b.updPart p fun y =>
    [(1, k.nImg), (2, k.nVdec), (3, k.nAud), (4, k.nTxt)].foldl (fun y u => y.dispatchUnit b.mjLive u.2 u.1) y

/-- The slots that a MEDIA entry takes from its stream (R345 step 1). -/
def Stream.take (t : Stream) (count : Nat) : List MediaSlot :=
  (List.range count).map fun i =>
    let q := t.pos.toNat + i
    ⟨q % max 1 t.n, t.epoch + BitVec.ofNat 32 (q / max 1 t.n), t.seq + i, false, false, false, 0, 0⟩

/-- The stream after that. -/
def Stream.advance (t : Stream) (count : Nat) : Stream :=
  let q := t.pos.toNat + count
  { t with
    pos := BitVec.ofNat 32 (q % max 1 t.n), epoch := t.epoch + BitVec.ofNat 32 (q / max 1 t.n), seq := t.seq + count
    issued := t.issued + 1 }

/-- An MJ as its entry issues. -/
def MjRun.new (x : CtxId) (core : Fin 32) (idx : Nat) (e : Ae) (j : Mj) (number arrival : Nat) (slots : List MediaSlot) : MjRun where
  ctx := x
  core := core
  idx := idx
  evt := BitVec.ofNat 8 e.evt
  ref := e.ref
  unit := j.unit
  stream := j.stream
  session := if j.encodes then some j.session else none
  number := number
  arrival := arrival
  budget := 0
  started := j.unit == 5
  slots := slots
  frame := 0
  slice := 0
  bytes := 0
  cycles := 0
  picBits := 0
  picRetry := 0
  picFall := false
  picData := []

/-- A slot of an encode MJ. -/
def encodeSlot : MediaSlot := ⟨0, 0, 0, true, false, false, 0, 0⟩

/-- The place in arrival order of the next MJ to issue. -/
def Body.nextArrival (b : Body) : Nat := (b.parts.flatMap fun (p : Part) => p.mjs.map (·.arrival + 1)).foldl max 0

/-- Why an alignment MJ's bitmap is refused at issue: its set's present inputs make it leave the vat, or overlap what the conversion
reads or writes (R53). -/
def Mj.bitmapRefused (j : Mj) (p : Part) (core : Fin 32) : Option W16 :=
  let flag := j.flagRange p core.val
  if flagOutside core.val flag then some stBounds else if j.overlaps p flag then some stOverlap else none

/-- MEDIA: the entry takes its stream's next positions, or its alignment set's next ticks (R345, R358); an alignment entry whose bitmap
is refused takes none and completes (R53; log entry 108). -/
def mediaIssue (o : Own) (b : Body) (x : CtxId) (core : Fin 32) (e : Ae) : Body :=
  let j := mjOf (b.imageOf x) e.ref
  let idx := (b.core core).cx.aeIdx.toNat
  let p := b.part x.part
  let new (n : Nat) (sl : List MediaSlot) : MjRun := MjRun.new x core idx e j n b.nextArrival sl
  let b1 := b.updCx core fun k => k.launch e
  if j.unit = 5 then
    match j.bitmapRefused p core with
    | some st => (b1.complete x core idx).logEntry o x.part core idx st (((j.flagRange p core.val).map (·.1.toNat)).getD 0)
    | none =>
      let s := j.alignSet p
      let sl := (List.range j.count).map fun i => MediaSlot.mk (s.tick + i) 0 0 true false false 0 0
      b1.updPart x.part fun y =>
        { y with aligns := y.aligns.set j.stream { s with tick := s.tick + j.count }, mjs := y.mjs ++ [new 0 sl] }
  else if j.encodes then b1.updPart x.part fun y => { y with mjs := y.mjs ++ [new 0 [encodeSlot]] }
  else
    let t := p.streams.getD j.stream Stream.reset
    b1.updPart x.part fun y =>
      { y with streams := y.streams.set j.stream (t.advance j.count), mjs := y.mjs ++ [new t.issued (t.take j.count)] }

/-- A MEDIA is issued when an entry may be launched (R103, R125). -/
def mediaGo (o : Own) (b : Body) (core : Fin 32) : Body :=
  match b.nextAe core kMedia with
  | none => b
  | some (x, e) => if b.mayLaunch core then mediaIssue o b x core e else b

/-- MEDIA. -/
def execMedia (core : Fin 32) (s : State) : Result := s.onBody fun o b => b.issuing o core fun b => mediaGo o b core

/-- The mean in force for MJ number j (R354): MEAN0 for the first two, else the mean after MJ j - 2. -/
def Stream.meanFor (t : Stream) (j : Nat) : W32 :=
  if j < 2 then t.mean0 else if t.applied ≤ j - 1 then t.mean else t.meanPrev

/-- MJs in progress on the module. -/
def Body.mjsRunning (b : Body) : Nat := (b.parts.map fun (p : Part) => p.mjs.countP fun m => m.started && m.unit != 5).sum

/-- An MJ may start: MJ j - 2 of its stream has ended and updated the mean; an encode MJ is its session's oldest and finds an
encoder (R345, R374). -/
def Body.mjReady (o : Own) (b : Body) (p : Fin 8) (m : MjRun) : Bool :=
  let y := b.part p
  !m.started && b.mjLive m.ctx &&
    match m.session with
    | some i =>
      (y.mjs.find? fun n => n.session == some i).any (·.same m) &&
        decide ((y.mjs.countP fun n => n.started && n.session.isSome) < (o.prec p).block.nVenc)
    | none =>
      let t := y.streams.getD m.stream Stream.reset
      decide (m.number < 2) || decide (m.number ≤ t.applied + 1)

/-- CPB fullness before the first picture of a sequence, in units of 1 / (90,000 FPS_NUM) bit (R375). -/
def EncSession.initialFullness (e : EncSession) : Nat :=
  min (e.bitrate * e.initDelay * e.fpsNum) (e.cpbSize * 90000 * e.fpsNum)

/-- A session as an MJ of it starts: a new sequence where NEWSEQ or the session asks for one (R373, R374). -/
def EncSession.begin (e : EncSession) (j : Mj) : EncSession :=
  if e.newSeq || j.newSeq then { e with newSeq := false, picture := 0, fullness := e.initialFullness } else e

/-- An MJ of the module that arrived earlier may start too. -/
def Body.mjBehind (o : Own) (b : Body) (m : MjRun) : Bool :=
  (List.finRange 8).any fun p => (b.part p).mjs.any fun n => decide (n.arrival < m.arrival) && b.mjReady o p n

/-- MJ_START: the earliest MJ of the module that may start does so, while fewer than 32 are in progress (R345). -/
def mjStart (o : Own) (b : Body) (p : Fin 8) (core : Fin 32) (ae : Nat) : Body :=
  match b.mjRunOf p core ae with
  | none => b
  | some m =>
    if !b.mjReady o p m || decide (b.mjsRunning ≥ 32) || b.mjBehind o m then b
    else
      let j := b.mjDesc m
      match m.session with
      | some i => b.updPart p fun y =>
          { y.setMj { m with started := true } with encs := y.encs.modify i (·.begin j) }
      | none =>
        let t := (b.part p).streams.getD m.stream Stream.reset
        let budget := min j.cap (j.useFactor * (t.meanFor m.number).toNat)
        (b.updPart p (·.setMj { m with started := true, budget := budget })).dispatch o p

/-- MJ_START. -/
def execMjStart (p : Fin 8) (core : Fin 32) (ae : Nat) (s : State) : Result := s.onBody fun o b => mjStart o b p core ae

/-! ### A slot ends (R342, R343, R354, R355, R360, R370) -/

/-- A status that refuses a slot. -/
def slotRefused (st : W16) : Bool := st == stFormat || st == stBounds || st == stWorld

/-- The partition's media counters after a slot. -/
def Part.countSlot (p : Part) (st : W16) (void : Bool) (index : Nat) : Part :=
  { p with
    medDone := p.medDone + 1
    medConc := if st = stConcealed then satAdd p.medConc 1 else p.medConc
    medVoid := if st = stVoid then satAdd p.medVoid 1 else p.medVoid
    medCorrupt := if st = stCorrupt then satAdd p.medCorrupt 1 else p.medCorrupt
    medRefused := if slotRefused st then satAdd p.medRefused 1 else p.medRefused
    medLastVoid := if void then BitVec.ofNat 32 index else p.medLastVoid }

/-- The KIND 0 record of a slot whose status is not OK. -/
def Body.mediaEvent (o : Own) (b : Body) (p : Fin 8) (st : W16) (r : List Byte) : Body :=
  if st = stOk then b else b.appendEvent o p ⟨r ++ leBytes 8 (b.fab.time % 2 ^ 64)⟩

/-- The batch-table entry of a slot (R342). -/
def btwWrite (s : Slot) (j : Mj) (i len : Nat) : List (Nat × List Byte) :=
  if !j.btw then []
  else
    match btFind s.image j.btList with
    | none => []
    | some r =>
      [(r.inactive (s.bt r.id) + 16 * i, leBytes 4 (i * j.pitch) ++ leBytes 4 0 ++ leBytes 4 len ++
        leBytes 2 (if i + 1 = j.count then 0xFFFF else i + 1) ++ leBytes 2 0)]

/-- Increment an event n times. -/
def Slot.eventTimes (s : Slot) (evt n : Nat) : Slot := (List.range n).foldl (fun (s : Slot) _ => s.event evt) s

/-- The writes of a media unit for an MJ: a refused request is reported in the slot's KIND 0 record alone (R511); bytes lost in a
poisoned word raise the fault of R172. -/
def Body.mediaPut (o : Own) (b : Body) (m : MjRun) (ws : List (Nat × List Byte)) : Body :=
  let who : Requester := .media m.ctx.part m.core m.idx
  let r := b.putOrdered o who (ws.map whole)
  match r.2.lost with
  | some a => r.1.eccFault o who a
  | none => r.1

/-- The first of some writes of a media unit that the memories refuse: its status (R19, R119). -/
def Body.mediaRefused (o : Own) (b : Body) (m : MjRun) (ws : List (Nat × Nat)) : Option W16 :=
  ws.findSome? fun w => (b.refusedIn o (.media m.ctx.part m.core m.idx) w.1 w.2).map (·.1)

/-- What slot i of a decode MJ writes beside its status record: elements, batch-table entry, statistics, maps, flag bitmap. A VOID slot
is no conversion and writes no flag bit (R52; DESIGN CHOICE, log entry 109). -/
def Body.slotWrites (b : Body) (m : MjRun) (i : Nat) (out : SlotOut) : List (Nat × List Byte) :=
  let j := b.mjDesc m
  let data := j.slotData out
  let flags := match j.ccw.ofs with
    | some f => if out.vals.isNone ∨ j.unit = 4 then []
        else [(vatBase m.core.val + f + i * j.flagBytes, flagBitmap (data.2.map (·.flag)) (ceilDiv j.slotElems 32))]
    | none => []
  [(j.slotAt i, data.1)] ++ btwWrite (b.slot m.ctx.part m.ctx.slot) j i out.len ++
    (if j.stats then [(j.statsBase + i * j.nfr * 64, j.statsData out.frames)] else []) ++
    (if j.mvmap then [(j.mvBase + i * j.mvPitch, j.mvData out.frames)] else []) ++ flags

/-- A slot whose writes the memories refuse is VOID with the refusal's status (R19, R511; log entry 108). -/
def Body.slotOut (o : Own) (b : Body) (m : MjRun) (i : Nat) (out : SlotOut) : SlotOut :=
  match b.mediaRefused o m ((b.slotWrites m i out).map fun w => (w.1, w.2.length)) with
  | some st => voidOut st out.cycles
  | none => out

/-- Everything slot i of a decode MJ leaves, with its outcome. -/
def finishSlot (o : Own) (b : Body) (p : Fin 8) (m : MjRun) (i index : Nat) (s : MediaSlot) (out : SlotOut) : Body :=
  let j := b.mjDesc m
  let void := out.vals.isNone
  let r := statusRecord out.status void out.trunc index s.epoch s.pos out.damage out.conceal out.cycles out.len
  let done := { s with done := true, void := void, cycles := out.cycles, bands := j.bands }
  let b1 := b.updCore m.core (·.countEvs (j.slotData out).2)
  let b2 := b1.updPart p fun y => (y.setMj { m with slots := m.slots.set i done }).countSlot out.status void index
  let b3 := b2.updSlot m.ctx.part m.ctx.slot (·.eventTimes j.pevt (j.bands - s.bands))
  ((b3.mediaEvent o p out.status r).dispatch o p).mediaPut o m ((j.stat + 32 * i, r) :: b.slotWrites m i out)

/-- What becomes of a slot in work: its reads wait (R226, R227), a word of them cannot be read, or its unit makes this of it. -/
inductive SlotWork where
  | waits
  | unreadable (word : Nat)
  | made (out : SlotOut)

/-- What a slot in work reads: its index entry, parameter record and sample. -/
def Body.slotSources (o : Own) (b : Body) (p : Fin 8) (m : MjRun) (s : MediaSlot) : SlotSrc × List (Nat × Nat) :=
  let r := slotSrc (b.mjDesc m) ((b.part p).streams.getD m.stream Stream.reset) s
  (r, slotReads o b.mem p r)

/-- The outcome of a slot in work; a read that the world map refuses makes it VOID with the refusal's status (R19, R355, R511). -/
def Body.slotWork (o : Own) (b : Body) (p : Fin 8) (m : MjRun) (i : Nat) (s : MediaSlot) : SlotWork :=
  let j := b.mjDesc m
  let r := b.slotSources o p m s
  if !b.flows o ((j.slotAt i, j.slotBytes) :: r.2) then .waits
  else
    match b.readRefused o (.media p m.core m.idx) r.2, b.firstBad o r.2 with
    | some (st, _), _ => .made (voidOut st 0)
    | none, some w => .unreadable w
    | none, none => .made (slotOutcome o b.mem p (b.part p) j s r.1)

/-- The decode of a slot would reach its budget; a slot refused before its decode began does not (R354, R355). -/
def SlotOut.exhausts (out : SlotOut) (budget : Nat) : Bool :=
  decide (out.cycles ≥ budget) && !(slotRefused out.status && decide (out.cycles ≤ headerCycles))

/-- The slot that a unit works on, by its MJ. -/
def Body.workingSlot (b : Body) (p : Fin 8) (core : Fin 32) (ae slot : Nat) : Option (MjRun × MediaSlot) :=
  match b.mjRunOf p core ae with
  | none => none
  | some m =>
    match m.slots[slot]? with
    | none => none
    | some s => if m.started && m.unit != 5 && m.session == none && s.started && !s.done then some (m, s) else none

/-- A slot's decode ends: `spent` says that the budget is what ends it. -/
def slotEnds (o : Own) (b : Body) (p : Fin 8) (core : Fin 32) (ae slot : Nat) (spent : Bool) : Body :=
  match b.workingSlot p core ae slot with
  | none => b
  | some (m, s) =>
    let r := b.slotSources o p m s
    match b.slotWork o p m slot s with
    | .waits => b
    | .unreadable w => b.readBad o (.media p core ae) w
    | .made out =>
      if out.exhausts m.budget != spent then b
      else
        finishSlot o ((b.correctedIn o r.2).countReadsOf o r.2) p m slot r.1.index s (b.slotOut o m slot (if spent then spentOut out m.budget else out))

/-- SAMPLE_DECODE_COMPLETE: the slot is written delivered, concealed or VOID; a decode that reaches its budget does not come to
this (R342, R354). -/
def execSampleDecodeComplete (p : Fin 8) (core : Fin 32) (ae : Nat) (slot : Nat) (s : State) : Result :=
  s.onBody fun o b => slotEnds o b p core ae slot false

/-- DECODE_BUDGET_EXHAUSTED: the decode is abandoned at its budget, its slot VOID with MEDIA_VOID (R354). -/
def execDecodeBudgetExhausted (p : Fin 8) (core : Fin 32) (ae : Nat) (slot : Nat) (s : State) : Result :=
  s.onBody fun o b => slotEnds o b p core ae slot true

/-- Rows of a band: its frame, its first row and the row after its last. -/
def Mj.bandRowsOf (j : Mj) (band : Nat) : Nat × Nat × Nat :=
  let rows := if j.bandRows = 0 then j.extH else j.bandRows
  let per := ceilDiv j.extH (max 1 rows)
  (band / max 1 per, band % max 1 per * rows, min j.extH (band % max 1 per * rows + rows))

/-- VIDEO_BAND_PROGRESS: the next band of a slot's next frame is in memory and PEVT increments (R370). -/
def bandProgress (o : Own) (b : Body) (p : Fin 8) (core : Fin 32) (ae slot band : Nat) : Body :=
  match b.workingSlot p core ae slot with
  | none => b
  | some (m, s) =>
    let j := b.mjDesc m
    match b.slotWork o p m slot s with
    | .waits => b
    | .unreadable w => b.readBad o (.media p core ae) w
    | .made out =>
      let q := j.bandRowsOf band
      match (out.frames[q.1]?).join with
      | none => b
      | some f =>
        if !j.video ∨ band ≠ s.bands ∨ band ≥ j.bands then b
        else
          let cs := (j.convertAll ((out.frames.take q.1).flatMap j.frameVals ++ j.frameVals (some f))).drop (q.1 * j.pixels)
          let ws := (cs.zipIdx.filter fun ((_, i) : (List Byte × ConvEv) × Nat) =>
              let y := (j.place i).1
              decide (q.2.1 ≤ y) && decide (y < q.2.2)).map fun ((c, i) : (List Byte × ConvEv) × Nat) =>
            (j.slotAt slot + q.1 * j.framePitch + i * j.elem, c.1)
          let b1 := b.updPart p (·.setMj { m with slots := m.slots.set slot { s with bands := band + 1 } })
          (b1.updSlot m.ctx.part m.ctx.slot (·.event j.pevt)).mediaPut o m ws

/-- VIDEO_BAND_PROGRESS. -/
def execVideoBandProgress (p : Fin 8) (core : Fin 32) (ae : Nat) (slot : Nat) (band : Nat) (s : State) : Result :=
  s.onBody fun o b => bandProgress o b p core ae slot band

/-! ### An MJ ends (R345 step 4, R354) -/

/-- J: the truncated mean CYCLES of the slots that were not VOID. -/
def MjRun.meanCycles (m : MjRun) : Option Nat :=
  let l := m.slots.filter fun s => !s.void
  if l = [] then none else some ((l.map (·.cycles)).sum / l.length)

/-- MJ_COMPLETE: every slot and record is written; the stream's mean is updated in MJ order and the event increments. -/
def mjComplete (b : Body) (p : Fin 8) (core : Fin 32) (ae : Nat) : Body :=
  match b.mjRunOf p core ae with
  | none => b
  | some m =>
    if !m.started || !m.slots.all (·.done) then b
    else
      let b1 := b.updPart p fun y =>
        { y with
          mjs := y.mjs.filter fun n => !n.same m
          streams := if m.ofStream m.stream then y.streams.modify m.stream fun t =>
              ({ t with mjs := t.mjs + 1, ended := t.ended ++ [(m.number, m.meanCycles)] }).settled else y.streams }
      b1.complete m.ctx core m.idx

/-- MJ_COMPLETE. -/
def execMjComplete (p : Fin 8) (core : Fin 32) (ae : Nat) (s : State) : Result := s.onBody fun _ b => mjComplete b p core ae

end Sys2Proof.Machine
end

