-- ==== Sys2Proof/Machine/Video.lean ====
section
/-! DEFINITION. Video encode sessions and encode MJs (R373 to R377, R380, R381). -/

namespace Sys2Proof.Machine

open Sys2Proof

/-! ### Sessions (R373) -/

/-- Read a session block. -/
def sessionOf (a : List Byte) : EncSession where
  configured := true
  profile := field a 0 1
  level := field a 1 1
  rc := field a 2 1
  nref := field a 3 1
  width := field a 4 2
  height := field a 6 2
  fpsNum := field a 8 4
  fpsDen := field a 0xC 4
  bitrate := field a 0x10 4
  cpbSize := field a 0x14 4
  initDelay := field a 0x18 4
  qpInit := field a 0x1C 1
  qpMin := field a 0x1D 1
  qpMax := field a 0x1E 1
  sliceRows := field a 0x1F 1
  gop := field a 0x20 4
  srcPitch := field a 0x24 4
  refBuf := field a 0x28 8
  newSeq := true
  picture := 0
  fullness := 0

/-- Bytes of the session buffer. -/
def EncSession.refBytes (e : EncSession) : Nat := (e.nref + 1) * e.width * e.height * 3

/-- Every field lies in its range. -/
def EncSession.inRange (e : EncSession) : Bool :=
  within e.profile 1 2 && decide (e.level ≤ 186) && decide (e.rc ≤ 2) && within e.nref 1 2 && within e.width 64 8192 &&
    e.width % 8 == 0 && within e.height 64 4352 && e.height % 8 == 0 && decide (1 ≤ e.fpsNum) && decide (1 ≤ e.fpsDen) &&
    (e.rc == 0 || decide (1 ≤ e.bitrate)) && decide (e.qpInit ≤ 51) && decide (e.qpMin ≤ e.qpMax) && decide (e.qpMax ≤ 51) &&
    decide (e.sliceRows ≤ 68) && within e.gop 1 65535 && e.srcPitch % 64 == 0 && decide (e.frameBytes ≤ e.srcPitch) &&
    e.refBuf % 64 == 0

/-- MEDIA_ENCODE's rule (R373): the session buffer has what the partition's DRAM holds from REFBUF on. -/
def mediaEncodeAct (x : Xnx) (o : Own) (b : Body) : Xres :=
  onPart x fun p =>
    let e := sessionOf x.args
    if !o.inData p e.refBuf 1 then .foreign e.refBuf
    else if !e.inRange then .refused stBounds 0
    else if (b.part p).mjs.any fun m => m.session == some x.arg0 then .refused stBusy 0
    else if !o.inData p e.refBuf e.refBytes then .refused stFit 0
    else .done o (b.updPart p fun y => { y with encs := y.encs.set x.arg0 e }) stOk 0 []

/-- MEDIA_ENCODE (R373, R417). -/
def execMediaEncode (x : Xnx) (s : State) : Result :=
  s.xnx 0x0405 x .part (x.len == 48) (decide (x.arg0 < 8)) (mediaEncodeAct x)

/-! ### Coding (R374, R375, R377) -/

/-- The fields of a session that its bit stream depends on. -/
def EncSession.params (e : EncSession) : List Nat :=
  [e.profile, e.level, e.rc, e.nref, e.width, e.height, e.fpsNum, e.fpsDen, e.bitrate, e.cpbSize, e.initDelay, e.qpInit, e.qpMin,
    e.qpMax, e.sliceRows, e.gop]

/-- The next picture is an IDR. -/
def EncSession.idr (e : EncSession) : Bool := e.picture % max 1 e.gop == 0
/-- Units of the CPB model in a bit. -/
def EncSession.unit (e : EncSession) : Nat := 90000 * e.fpsNum
/-- The QP that the rate model chooses, clamped; QP_INIT at constant QP. -/
def EncSession.qp (e : EncSession) : Nat :=
  if e.rc = 0 then e.qpInit else max e.qpMin (min e.qpMax (Config.rateModelQp e.fullness e.picture))

/-- Coded bytes of a piece of the next picture. -/
def EncSession.code (e : EncSession) (qp : Nat) (fallback : Bool) (slice : Nat) (src ref : List Byte) : List Byte :=
  Config.encode (e.params ++ [qp, if e.idr then 1 else 0, if fallback then 1 else 0, e.picture, slice]) src ref

/-- A coded piece: bytes, re-encode passes, whether it is the fallback. -/
structure Coded where
  bytes : List Byte
  retry : Nat
  fall  : Bool

/-- Code a piece within `room` CPB units: at the QP chosen, then at QP + 6 and QP + 12, then as the fallback, whose bits the
bound limits (R375, R377). -/
def EncSession.fit (e : EncSession) (slice room bound : Nat) (src ref : List Byte) : Coded :=
  let t (d : Nat) : List Byte := e.code (if d = 0 then e.qp else min 51 (e.qp + d)) false slice src ref
  let fits (l : List Byte) : Bool := e.rc == 0 || decide (8 * l.length * e.unit ≤ room)
  if fits (t 0) then ⟨t 0, 0, false⟩
  else if fits (t 6) then ⟨t 6, 1, false⟩
  else if fits (t 12) then ⟨t 12, 2, false⟩
  else ⟨(e.code 51 true slice src ref).take (bound / 8), 2, true⟩

/-- A coded piece in what an output buffer has left, which the conditions of R376 leave it. -/
def Coded.within (c : Coded) (left : Nat) : Coded := { c with bytes := c.bytes.take left }

/-- CTU rows of a picture. -/
def EncSession.ctuRows (e : EncSession) : Nat := ceilDiv e.height 64
/-- Slice segments of a picture. -/
def EncSession.slices (e : EncSession) : Nat := if e.sliceRows = 0 then 1 else ceilDiv e.ctuRows e.sliceRows
/-- CTUs of slices from s on. -/
def EncSession.ctusFrom (e : EncSession) (s : Nat) : Nat := (e.ctuRows - s * e.sliceRows) * ceilDiv e.width 64
/-- Bits a fallback needs for some CTUs. -/
def EncSession.ctuBits (e : EncSession) (n : Nat) : Nat := (if e.idr then 40 else 8) * n
/-- Luma samples of slice s. -/
def EncSession.sliceLuma (e : EncSession) (s : Nat) : Nat :=
  if e.sliceRows = 0 then e.width * e.height
  else e.width * (min e.height ((s + 1) * e.sliceRows * 64) - min e.height (s * e.sliceRows * 64))

/-- Media cycles of coding a piece of n luma samples (R378). -/
def Coded.cycles (c : Coded) (n : Nat) : Nat := (c.retry + 1) * 2 * n + (if c.fall then ceilDiv n 16 else 0)

/-- Filler data NAL units of at least n bits, PRESUMED from H.265: start code, header, bytes 0xFF, 0x80 (R375; log entry 107). -/
def fillerNal (n : Nat) : List Byte := [0, 0, 0, 1, 0x4C, 1] ++ List.replicate (ceilDiv n 8 - 7) 0xFF ++ [0x80]

/-- The CPB after a picture of some bits: filler bytes appended under CBR, and the fullness before the next removal (R375). -/
def EncSession.settle (e : EncSession) (bits : Nat) : List Byte × Nat :=
  let next (n : Nat) : Nat := e.fullness - n * e.unit + e.bitrate * e.fpsDen * 90000
  let cap := e.cpbSize * e.unit
  if e.rc = 1 ∧ next bits > cap then
    let f := fillerNal (ceilDiv (next bits - cap) (max 1 e.unit))
    (f, next (bits + 8 * f.length))
  else if e.rc = 2 then ([], min (next bits) cap)
  else ([], next bits)

/-! ### Encode MJs -/

/-- An encode MJ that runs, its descriptor and its session. -/
def Body.encoding (b : Body) (p : Fin 8) (core : Fin 32) (ae : Nat) : Option (MjRun × Mj × Nat × EncSession) :=
  match b.mjRunOf p core ae with
  | none => none
  | some m =>
    match m.session with
    | none => none
    | some i =>
      let j := b.mjDesc m
      if m.started ∧ m.frame < j.nfr ∧ !m.slots.all (·.done) ∧ (b.mjLive m.ctx ∨ m.slice ≠ 0) then
        some (m, j, i, (b.part p).encs.getD i EncSession.reset)
      else none

/-- Address of the source frame in work. -/
def Mj.frameAt (j : Mj) (e : EncSession) (f : Nat) : Nat := j.src + f * e.srcPitch

/-- The end of an encode MJ's slot: its status record, counters and event; an output that the memories refuse makes it VOID with the
refusal's status (R19, R511; log entry 108). -/
def encodeEnds (o : Own) (b : Body) (p : Fin 8) (m : MjRun) (j : Mj) (st : W16) : Body :=
  let st := if st = stOk then
      (b.mediaRefused o m ([(j.dst, m.bytes)] ++ (if j.stats then [(j.statsBase, j.nfr * 64)] else []) ++
        (if j.mvmap then [(j.mvBase, j.mvPitch)] else []))).getD stOk
    else st
  let void := st != stOk
  let f (i : Nat) : Nat := (Config.freeWord (b.free + i)).toNat
  let r := statusRecord st void false (f 0) (BitVec.ofNat 32 (f 1)) (f 2) none 0 m.cycles (if void then 0 else m.bytes)
  let done : MediaSlot := { encodeSlot with done := true, void := void, cycles := m.cycles }
  let b1 := { b with free := b.free + 3 }.updPart p fun y => (y.setMj { m with slots := [done] }).countSlot st void (f 0)
  (b1.mediaEvent o p st r).mediaPut o m ((if void then [(j.dst, List.replicate j.pitch 0)] else []) ++ [(j.stat, r)])

/-- What coding a picture reads: its source frame and the session buffer. -/
def Mj.picReads (j : Mj) (e : EncSession) (frame : Nat) : List (Nat × Nat) := [(j.frameAt e frame, e.frameBytes), (e.refBuf, e.refBytes)]

/-- What coding a picture finds in memory: reads that wait (R226, R227), that are refused with a status (R19, R159), that meet an
unreadable word, or source frame and session buffer. -/
inductive PicSource where
  | waits
  | refused (status : W16)
  | unreadable (word : Nat)
  | found (src ref : List Byte)

/-- The source frame and session buffer of the picture in work. -/
def encodeSource (o : Own) (b : Body) (m : MjRun) (j : Mj) (e : EncSession) (frame : Nat) : PicSource :=
  let reads := j.picReads e frame
  if !b.flows o ((j.dst, j.pitch) :: reads) then .waits
  else
    match b.readRefused o (.media m.ctx.part m.core m.idx) reads, b.firstBad o reads with
    | some (st, _), _ => .refused st
    | none, some w => .unreadable w
    | none, none => .found (b.mem.bytes (j.frameAt e frame) e.frameBytes) (b.mem.bytes e.refBuf e.refBytes)

/-- The statistics record of a coded picture: its place in the sequence, I or P, the counts of its blocks, the SATD over 256, rounded down
(R371; DISP and the rounding DESIGN CHOICE, log entry 128). -/
def encodeStatsData (e : EncSession) (j : Mj) (frame : Nat) (data src ref : List Byte) (c : Coded) : List Byte :=
  let cut := j.mvmap && decide ((frame + 1) * (4 * mvCount e.width e.height) > j.mvPitch)
  let st := blockStats (Config.encodeBlocks c.bytes src ref)
  leBytes 4 e.picture ++ [if e.idr then 1 else 2, if cut then 4 else 0] ++ st.1 ++ leBytes 4 (8 * data.length) ++ st.2 ++
    leBytes 4 0 ++ leBytes 4 (Config.encodeSatd c.bytes src ref / 256) ++ leBytes 4 (e.fullness / max 1 e.unit) ++ [BitVec.ofNat 8 c.retry, if c.fall then 1 else 0] ++ List.replicate 6 0

/-- A picture is coded: filler, statistics, map, session buffer, CPB and counters; after the last frame the slot ends. -/
def pictureEnds (o : Own) (b : Body) (p : Fin 8) (m : MjRun) (j : Mj) (i : Nat) (e : EncSession) (src ref : List Byte) (c : Coded) :
    Body :=
  let q := e.settle (8 * c.bytes.length)
  let data := c.bytes ++ q.1
  let n := 4 * mvCount e.width e.height
  let map := (mvMap e.width e.height (Config.encodeBlocks c.bytes src ref)).take (j.mvPitch - m.frame * n)
  let ws := (if q.1 = [] then [] else [(j.dst + m.bytes, q.1)]) ++
    (if j.stats then [(j.statsBase + m.frame * 64, encodeStatsData e j m.frame data src ref c)] else []) ++
    (if j.mvmap then [(j.mvBase + m.frame * n, map)] else []) ++
    [(e.refBuf, (Config.refBuffer c.bytes src ref ++ ref).take e.refBytes)]
  let m' := { m with
    frame := m.frame + 1, slice := 0, bytes := m.bytes + q.1.length, picBits := 0, picRetry := 0, picFall := false, picData := [] }
  let reads := j.picReads e m.frame
  let b1 := (((b.correctedIn o reads).countReadsOf o reads).mediaPut o m ws).updPart p fun y =>
    { y.setMj m' with
      encs := y.encs.set i { e with picture := e.picture + 1, fullness := q.2 }
      vidPics := y.vidPics + 1 }
  if m'.frame = j.nfr then encodeEnds o b1 p m' j stOk else b1

/-- Counters of a coded piece (R381). -/
def Part.countCoded (p : Part) (c : Coded) : Part :=
  { p with vidRetry := satAdd p.vidRetry c.retry, vidFallback := if c.fall then satAdd p.vidFallback 1 else p.vidFallback }

/-- ENCODE_PICTURE: one picture is coded under the CPB model (R375), or, coded as slice segments, is complete with its last
(R377); a source frame or session buffer that the memories refuse ends the slot with the refusal's status. -/
def encodePicture (o : Own) (b : Body) (p : Fin 8) (core : Fin 32) (ae : Nat) : Body :=
  match b.encoding p core ae with
  | none => b
  | some (m, j, i, e) =>
      match encodeSource o b m j e m.frame with
      | .waits => b
      | .refused st => encodeEnds o b p { m with frame := j.nfr } j st
      | .unreadable w => b.readBad o (.media p core ae) w
      | .found src ref =>
        if e.sliceRows ≠ 0 then
          if m.slice = e.slices then pictureEnds o b p m j i e src ref ⟨m.picData, m.picRetry, m.picFall⟩ else b
        else
          let c := (e.fit 0 e.fullness (e.fallbackBits e.idr) src ref).within (j.pitch - m.bytes)
          let m1 := { m with bytes := m.bytes + c.bytes.length, cycles := m.cycles + c.cycles (e.width * e.height) }
          let b1 := (b.updPart p (·.countCoded c)).mediaPut o m [(j.dst + m.bytes, c.bytes)]
          pictureEnds o (b1.updSlot m.ctx.part m.ctx.slot (·.event j.pevt)) p m1 j i e src ref c

/-- ENCODE_PICTURE. -/
def execEncodePicture (p : Fin 8) (core : Fin 32) (ae : Nat) (s : State) : Result :=
  s.onBody fun o b => encodePicture o b p core ae

/-- ENCODE_SLICE_COMPLETE: the next slice segment is coded within what the slices after it leave, written, and PEVT increments
(R377). -/
def encodeSlice (o : Own) (b : Body) (p : Fin 8) (core : Fin 32) (ae : Nat) : Body :=
  match b.encoding p core ae with
  | none => b
  | some (m, j, _, e) =>
    if e.sliceRows = 0 ∨ m.slice ≥ e.slices then b
    else
      match encodeSource o b m j e m.frame with
      | .waits | .refused _ => b
      | .unreadable w => b.readBad o (.media p core ae) w
      | .found src ref =>
        let after := e.ctuBits (e.ctusFrom (m.slice + 1))
        let bound := (if m.slice = 0 then 2048 else 0) + e.ctuBits (e.ctusFrom m.slice) - after
        let c := (e.fit m.slice (e.fullness - (after + m.picBits) * e.unit) bound src ref).within (j.pitch - m.bytes)
        let m1 := { m with
          slice := m.slice + 1, bytes := m.bytes + c.bytes.length, picBits := m.picBits + 8 * c.bytes.length
          picRetry := max m.picRetry c.retry, picFall := m.picFall || c.fall, picData := m.picData ++ c.bytes
          cycles := m.cycles + c.cycles (e.sliceLuma m.slice) }
        let b1 := (b.correctedIn o (j.picReads e m.frame)).updPart p fun y => (y.setMj m1).countCoded c
        (b1.updSlot m.ctx.part m.ctx.slot (·.event j.pevt)).mediaPut o m [(j.dst + m.bytes, c.bytes)]

/-- ENCODE_SLICE_COMPLETE. -/
def execEncodeSliceComplete (p : Fin 8) (core : Fin 32) (ae : Nat) (s : State) : Result :=
  s.onBody fun o b => encodeSlice o b p core ae

end Sys2Proof.Machine
end

