-- ==== Sys2Proof/Machine/Context.lean ====
section
/-! DEFINITION. Job contexts and invocations: starting, pre-empting, saving, restoring, ending (R117, R125, R133, R134, R168, R253,
R257, R271, R272, R307, R344, R376, R414, R428 to R433, R513). -/

namespace Sys2Proof.Machine

open Sys2Proof

/-- Change every core of a context. -/
def Body.mapCtx (b : Body) (x : CtxId) (f : Core → Core) : Body :=
  { b with cores := b.cores.map fun c => if c.ctx == some x then f c else c }

/-! ### Starting an invocation -/

/-- The COLL entries of an almanac keep an invocation from starting (R307). -/
def Part.collBlocks (p : Part) (img : List Byte) : Bool :=
  ((imgCores img).flatMap fun c => (aeList img c.val).filter (·.kind == kColl)).any fun e =>
    let c := cdOf img e.ref
    match p.coll.getD c.group none with
    | none => true
    | some g =>
      (c.op == cdPermute && (ptabOf img c.ptab).n != g.n) || (c.op == cdGather && c.nmem != g.n)

/-- The UPD entries of an almanac keep an invocation from starting (R253): the STEP accepted for this start is not UPD_STEP.STEP
+ 1, or a COMPARE's group is not configured. -/
def Part.updBlocks (p : Part) (s : Slot) : Bool :=
  let us := imageUds s.image
  let step := (s.newParams.map (·.1)).getD s.step
  (us.any (fun u => u.op == opApply) && (!p.stepValid || step.toNat != p.step.toNat + 1)) ||
    us.any fun u => u.op == opCompare && (p.repl.getD u.group none).isNone

/-- An invocation of a slot may not start (R253, R307, R344, R376). -/
def startRefused (o : Own) (b : Body) (p : Fin 8) (k : Fin 4) : Bool :=
  let s := b.slot p k
  let y := b.part p
  y.collBlocks s.image || y.updBlocks s || y.mediaBlocks (o.prec p).block s.image

/-- The norm-vector region of an almanac that holds a NORM (R257). -/
def normRegion (img : List Byte) : Option Nat := ((imageUds img).find? fun u => u.op == opNorm).map (·.nvec)

/-- A list as an invocation starts: a pending swap is made (R117). -/
def BtList.atStart (l : BtList) : BtList := if l.swap then { l with slot1 := !l.slot1, empty := false, swap := false } else l

/-- A slot as its invocation starts: events zero, swaps made, accepted parameters taken (R117, R126, R252). -/
def Slot.started (s : Slot) : Slot :=
  { s with
    run := .running, resuming := false, bts := s.bts.map BtList.atStart, events := [], halt := none
    repaired := false, decision := 0, skipStat := 0, appliesDone := 0, commitsDone := 0, digests := [], held := none
    reported := []
    params := (s.newParams.map (·.2)).getD s.params, step := (s.newParams.map (·.1)).getD s.step, newParams := none }

/-- A PREEMPT that came while a context was starting takes effect at once (R430). -/
def Slot.stopIfAsked (s : Slot) : Slot := if s.preempts = [] then s else { s with run := .stopping }

/-- The start itself: flags and first-event records cleared (R135), DECISION 0, the norm vectors zeroed before any entry issues
(R257), every list at its first entry. Scratch, whose contents are undefined then, keeps the bytes that the memory last held (DESIGN
CHOICE, log entry 96; R168). -/
def startRun (b : Body) (p : Fin 8) (k : Fin 4) : Body :=
  let s := b.slot p k
  let b1 := match normRegion s.image with
    | some a => b.updMem (·.zero a 0x5000)
    | none => b
  let b2 := b1.mapCtx ⟨p, k⟩ fun c => { c with cx := { CoreCtx.idle with seq := .running } }
  (b2.updPart p fun y => { y with decision := 0 }).updSlot p k fun s => s.started.stopIfAsked

/-! ### Residence (R428, R429) -/

/-- Two almanacs share a core. -/
def shareCores (a c : List Byte) : Bool := decide ((hdrOf a).cores &&& (hdrOf c).cores ≠ 0)

/-- The other loaded slots of a partition that share a core with a slot's almanac. -/
def Body.rivals (b : Body) (p : Fin 8) (k : Fin 4) : List (Fin 4) :=
  (List.finRange 4).filter fun i => i != k && (b.slot p i).loaded && shareCores (b.slot p i).image (b.slot p k).image

/-- A slot's invocation runs, or is pre-empted with its context still resident, or is being made resident; or a guest has its cores, or
is on the way there or back (R272, R429). -/
def Slot.holdsCores (s : Slot) : Bool :=
  (s.ctx == .resident && s.run != .idle && !(s.run == .saving && s.invoke.isNone)) || s.run == .restoring || s.underGuest.isSome

/-- The rivals of a slot that hold its cores; the training context of a guest's own SLOT is none. -/
def Body.heldBy (b : Body) (p : Fin 8) (k : Fin 4) : List (Fin 4) :=
  (b.rivals p k).filter fun i => (b.slot p i).holdsCores && (b.slot p i).underGuest != some k

/-- What a save keeps: everything of R168, or for a training context under its guest presses and batch-table slots (R272). -/
def savedRanges (img : List Byte) (guest : Bool) : List (Nat × Nat) :=
  if guest then btRanges img ++ pressRanges img else saveRanges img

/-- The cores of a context. -/
def Body.coresOf (b : Body) (x : CtxId) : List (Fin 32) := (List.finRange 32).filter fun c => (b.core c).ctx == some x

/-- A core's registers once its context has been saved: nothing runs; flags, position and STATE read as they were. -/
def CoreCtx.left (x : CoreCtx) : CoreCtx :=
  { CoreCtx.idle with
    seq := x.seq, aeIdx := x.aeIdx, aovf := x.aovf, ovr := x.ovr, btref := x.btref, aovfAe := x.aovfAe, ovrAe := x.ovrAe
    ovrKind := x.ovrKind, ovrThr := x.ovrThr }

/-- The saved image of a context, poison carried with the data (R168, R428, R513). -/
def Body.snapshot (b : Body) (x : CtxId) (guest : Bool) : SaveImage :=
  let rs := savedRanges (b.imageOf x) guest
  { cells := b.mem.cells.filter fun (c : Host.Cell) => inRanges rs c.1
    poison := b.mem.poison.filter (inRanges rs)
    cores := (b.coresOf x).map fun c => (c.val, (b.core c).cx)
    quads := b.quads.zipIdx.flatMap fun ((q, i) : Quad × Nat) => (q.harv.filter fun (h : CtxId × HarvAcc) => h.1 == x).map fun (h : CtxId × HarvAcc) => (i, h.2) }

/-- What the codes find as a context is saved: a unit that cannot be read goes into the save area as poisoned, uncounted; a
corrected error counts (R513). -/
def Body.saveReads (o : Own) (b : Body) (x : CtxId) (guest : Bool) : Body :=
  let rs := savedRanges (b.imageOf x) guest
  (upsetsIn o.maps b.mem.upsets .bad rs).foldl (fun b a => b.updMem fun m => m.poisonUnit (wordSize o.maps a) a) (b.correctedIn o rs)

/-- The part of a slot's save area that a save fills. -/
def Body.savedArea (o : Own) (b : Body) (x : CtxId) (guest : Bool) : Nat × Nat :=
  ((b.saveArea o x.part x.slot).1, ((savedRanges (b.imageOf x) guest).map (·.2)).sum)

/-- A context is saved into its save area and its cores are free (R428, R513). -/
def saveContext (o : Own) (b0 : Body) (x : CtxId) (guest : Bool) : Body :=
  let b := (b0.saveReads o x guest).storeWritten o (b0.savedArea o x guest)
  let img := b.snapshot x guest
  let b1 := (b.releaseCores x CoreCtx.left).updSlot x.part x.slot fun s => { s with ctx := .saved, save := img }
  { b1 with quads := b1.quads.map fun (q : Quad) => { q with harv := q.harv.filter fun (h : CtxId × HarvAcc) => h.1 != x } }

/-- Memory with ranges replaced by saved cells and poison. -/
def Mem.putBack (m : Mem) (rs : List (Nat × Nat)) (img : SaveImage) : Mem :=
  let m1 := rs.foldl (fun (m : Mem) r => m.zero r.1 r.2) m
  { m1 with cells := img.cells.foldl (fun cs c => putCell cs c.1 c.2) m1.cells, poison := m1.poison ++ img.poison }

/-- A saved context is read from its save area and put back on its cores. -/
def restoreContext (o : Own) (b0 : Body) (x : CtxId) (guest : Bool) : Body :=
  let b := b0.bulkMove o false (b0.savedArea o x guest)
  let s := b.slot x.part x.slot
  let b1 := b.updMem (·.putBack (savedRanges s.image guest) s.save)
  let b2 := { b1 with cores := b1.cores.zipIdx.map fun ((c, i) : Core × Nat) =>
      match s.save.cores.find? (fun (h : Nat × CoreCtx) => h.1 == i) with
      | some cx => { c with ctx := some x, cx := cx.2 }
      | none => if (hdrOf s.image).cores.testBit i then { c with ctx := some x, cx := CoreCtx.idle } else c }
  let b3 := { b2 with quads := b2.quads.zipIdx.map fun ((q, i) : Quad × Nat) =>
      { q with harv := q.harv ++ (s.save.quads.filter fun (h : Nat × HarvAcc) => h.1 == i).map fun (h : Nat × HarvAcc) => (x, h.2) } }
  b3.updSlot x.part x.slot fun s => { s with ctx := .resident, save := ⟨[], [], [], []⟩ }

/-- An unrun context becomes resident: its KEEP regions and presses are zeroed (R428). -/
def firstResidence (b : Body) (x : CtxId) : Body :=
  let img := b.imageOf x
  let b1 := b.updMem fun m => (keepRanges img ++ pressRanges img).foldl (fun (m : Mem) r => m.zero r.1 r.2) m
  let b2 := { b1 with cores := b1.cores.zipIdx.map fun ((c, i) : Core × Nat) =>
      if (hdrOf img).cores.testBit i then { c with ctx := some x, cx := CoreCtx.idle } else c }
  b2.updSlot x.part x.slot fun s => { s with ctx := .resident }

/-- Save every resident idle context that holds one of a slot's cores: eviction (R429). -/
def evict (o : Own) (b : Body) (p : Fin 8) (k : Fin 4) : Body :=
  (b.rivals p k).foldl (fun (b : Body) i => if (b.slot p i).ctx = .resident then saveContext o b ⟨p, i⟩ false else b) b

/-- A slot's context becomes resident, whatever it was. -/
def makeResident (o : Own) (b : Body) (x : CtxId) : Body :=
  match (b.slot x.part x.slot).ctx with
  | .resident => b
  | .unrun => firstResidence (evict o b x.part x.slot) x
  | .saved => restoreContext o (evict o b x.part x.slot) x false

/-! ### Going on after a pre-emption (R134) -/

/-- The job that a launched entry of a core had on a quadrant engine, to be queued again at the position it stopped at. -/
def CoreCtx.jobAgain (k : CoreCtx) (x : CtxId) (c : Fin 32) (l : Launched) : QJob :=
  let s := (k.partSums.find? (·.1 == l.idx)).elim (0, 0, 0) (·.2)
  let at_ := (k.stopped.find? (·.1 == l.idx)).elim 0 (·.2)
  ⟨x, c, l.idx, l.evt, l.ref, at_, s.1, s.2.1, s.2.2, false, decide (0 < at_)⟩

/-- An entry's job stands on an engine of its quadrant. -/
def Quad.hasJob (q : Quad) (x : CtxId) (c : Fin 32) (idx : Nat) : Bool :=
  (q.rindQ ++ q.rindRun.toList ++ q.xfQ ++ q.xfRun ++ q.udQ ++ q.udRun).any fun j => j.ctx == x && j.core == c && j.idx == idx

/-- Queue one launched entry again: rind, transform and update jobs in their queues, a COLL in its group's; a held COMPARE goes
back to where it held. -/
def requeue (b : Body) (x : CtxId) (c : Fin 32) (l : Launched) : Body :=
  let k := (b.core c).cx
  let img := b.imageOf x
  let q := quadOf c
  let j := k.jobAgain x c l
  let kind := l.kind.toNat
  if kind = kColl then
    if (b.part x.part).collRuns.any fun r => r.ctx == x && r.core == c && r.idx == l.idx then b
    else
      b.updPart x.part fun p =>
        { p with collRuns := p.collRuns ++ [⟨Fin.ofNat 16 (cdOf img l.ref).group, x, c, l.idx, l.evt, l.ref, false, [], [], [], []⟩] }
  else if (b.quad q).hasJob x c l.idx then b
  else if kind = kTile ∧ (tdOf img l.ref).rind then b.updQuad q fun t => { t with rindQ := t.rindQ ++ [j] }
  else if kind = kXform then b.updQuad q fun t => { t with xfQ := t.xfQ ++ [j] }
  else if kind = kUpd then
    if (udOf img l.ref).op = opCompare ∧ (b.slot x.part x.slot).held.isSome then
      b.updQuad q fun t => { t with udRun := t.udRun ++ [j] }
    else b.updQuad q fun t => { t with udQ := t.udQ ++ [j] }
  else b

/-- Jobs of a context that have not started are withdrawn (R96, R199, R256, R320). -/
def withdraw (b : Body) (x : CtxId) : Body :=
  let q (l : List QJob) : List QJob := l.filter fun j => j.ctx != x
  let b1 := { b with quads := b.quads.map fun (k : Quad) => { k with rindQ := q k.rindQ, xfQ := q k.xfQ, udQ := q k.udQ } }
  b1.updPart x.part fun p => { p with collRuns := p.collRuns.filter fun r => r.ctx != x || r.started }

/-- Jobs withdrawn keep the position that an earlier pre-emption gave them. -/
def keepPositions (b : Body) (x : CtxId) : Body :=
  (b.quads.flatMap fun (q : Quad) => (q.xfQ ++ q.udQ).filter fun j => j.ctx == x && decide (0 < j.pos)).foldl
    (fun (b : Body) j => b.updCx j.core fun k =>
      { k.stopAt j.idx j.pos with partSums := (j.idx, j.sumHi, j.sumLo, j.nf) :: k.partSums.filter (·.1 != j.idx) }) b

/-- The jobs of a context on the quadrant engines, each engine's in start order and then as they are queued. -/
def Body.jobOrder (b : Body) (x : CtxId) : List (Fin 32 × Nat) :=
  ((b.quads.flatMap fun (q : Quad) => q.rindRun.toList ++ q.rindQ ++ q.xfRun ++ q.xfQ ++ q.udRun ++ q.udQ).filter fun j =>
    j.ctx == x).map fun j => (j.core, j.idx)

/-- A pre-emption request reaches a slot's invocation. -/
def askStop (b : Body) (p : Fin 8) (k : Fin 4) : Body :=
  (withdraw (keepPositions b ⟨p, k⟩) ⟨p, k⟩).updSlot p k fun s => { s with run := .stopping, order := b.jobOrder ⟨p, k⟩ }

/-- Queue the jobs that a context had on the engines again, in their order there (R199, R256, R257). -/
def requeueJobs (b : Body) (x : CtxId) : Body :=
  (b.slot x.part x.slot).order.foldl (fun (b : Body) (r : Fin 32 × Nat) =>
    match (b.core r.1).cx.launched.find? (·.idx == r.2) with
    | some l => requeue b x r.1 l
    | none => b) b

/-- A pre-empted invocation goes on: every launched entry is queued again, the jobs of the engines in their order there, every sequencer
runs from where it stopped (R134, R199, R256). -/
def resumeRun (o : Own) (b : Body) (p : Fin 8) (k : Fin 4) : Body :=
  let x : CtxId := ⟨p, k⟩
  let s := b.slot p k
  let b1 := (b.coresOf x).foldl (fun (b : Body) c => ((b.core c).cx.launched).foldl (fun (b : Body) l => requeue b x c l) b)
    (requeueJobs b x)
  let b2 := b1.mapCtx x fun c =>
    { c with cx := { c.cx with seq := if c.cx.seq = .preempted then .running else c.cx.seq, stopped := [], partSums := [] } }
  let b3 := (b2.updSlot p k fun t =>
    { t with run := if s.held.isSome then .held else .running, resuming := false, underGuest := none }).updPart p fun y =>
      { y with decision := s.decision }
  (if s.preempts = [] then b3 else askStop b3 p k).dispatch o p

/-- An engine has no place for the COMPARE that a context held: four UDs run there, and the resumption waits (R251, R256). -/
def Body.heldCrowded (b : Body) (p : Fin 8) (k : Fin 4) : Bool :=
  (b.slot p k).held.isSome && (b.slot p k).save.cores.any fun r =>
    decide (4 ≤ (b.quads.getD (r.1 / 8) Quad.reset).udRun.length) &&
      r.2.launched.any fun l => l.kind.toNat == kUpd && (udOf (b.slot p k).image l.ref).op == opCompare

/-! ### Pre-emption (R133, R430, R433) -/

/-- Every block that works for a context is at its pre-emption point (R433). -/
def canSave (b : Body) (x : CtxId) : Bool :=
  let mine (j : QJob) : Bool := j.ctx == x
  (b.coresOf x).all (fun c =>
      let k := (b.core c).cx
      k.seq != .running && k.outs == [] && !(k.tile.any (·.running))) &&
    b.quads.all (fun (q : Quad) => !q.xfRun.any mine && !q.udRun.any mine && !q.rindRun.any mine) &&
    !(b.part x.part).collRuns.any (fun r => r.ctx == x && r.started) &&
    !(b.part x.part).mjs.any fun m => m.ctx == x && (decide (m.session.isNone ∧ m.unit ≠ 5 ∧ m.working ≠ 0) || decide (m.slice ≠ 0))

/-- PREEMPT's rule (R430); with nothing in its slot to save it completes at once. -/
def preemptAct (x : Xnx) (o : Own) (b : Body) : Xres :=
  onPart x fun p =>
    let k := slotArg x
    let s := b.slot p k
    let t := xTicket x
    let join (b : Body) : Xres := .pending o (b.updSlot p k fun s => { s with preempts := s.preempts ++ [t] })
    if !s.loaded then .done o b stOk 0 []
    else
      match s.run with
      | .running | .held => join (askStop b p k)
      | .stopping | .saving | .restoring => join b
      | .preempted => if s.underGuest.isSome then join b else .done o b stOk 0 []
      | .idle =>
        if s.ctx = .resident then join (b.updSlot p k fun s => { s with run := .saving }) else .done o b stOk 0 []

/-- The GO taken last is a PREEMPT's: its pre-emption request reaches the cores ahead of what waits for the steward, which answers it in
its turn (R402, R433). -/
def Body.forwardPreempt (b : Body) : Body :=
  match b.gos.getLast? with
  | some (.mailbox (.part p) mb) =>
    let m := b.mailbox (.part p) mb
    match finOf 4 (m.field 0xC 4) with
    | some k =>
      if b.stewardUp && m.field 0 2 == 0x0104 && m.field 4 4 == 0 && decide (m.field 8 4 < 2) &&
          ((b.slot p k).run == .running || (b.slot p k).run == .held) then askStop b p k
      else b
    | none => b
  | _ => b

/-- PREEMPT (R402, R414, R430). -/
def execPreempt (x : Xnx) (s : State) : Result :=
  s.both fun o b =>
    let r := runXnx o b 0x0104 x .part (x.len == 0) (decide (x.arg0 < 4)) (preemptAct x)
    if b.gos.getLast? != r.2.gos.getLast? then (r.1, r.2.forwardPreempt) else r

/-- A guest of a slot whose invocation waits for a SLOT (R272). -/
def Body.guestWaiting (b : Body) (p : Fin 8) (k : Fin 4) : Option (Fin 4) :=
  (List.finRange 4).find? fun g => (b.slot p g).hostSlot.toNat == k.val && (b.slot p g).guest.isSome

/-- The path between a partition's store region and its cores can move data. -/
def Body.storeFlows (o : Own) (b : Body) (p : Fin 8) : Bool :=
  !b.board.tripped && (o.stacksIn [(o.prec p).block.storeRange]).all fun n => (b.stks.getD n Stack.reset).admits

/-- CONTEXT_SAVE_COMPLETE: the context is in its save area, PREEMPTs complete (R430, R431); for a guest that its SLOT has admitted a
training context is saved in part (R272), but a PREEMPT of it puts the guest back to wait; an INVOKE that came during the save goes
on. -/
def saveComplete (o : Own) (b : Body) (p : Fin 8) (k : Fin 4) : Body :=
  let s := b.slot p k
  let x : CtxId := ⟨p, k⟩
  if !b.storeFlows o p then b
  else if s.run = .stopping ∧ canSave b x then
    if s.underGuest.isSome && s.preempts == [] then (saveContext o b x true).updSlot p k fun s => { s with run := .preempted }
    else
      ((saveContext o (b.guestBack p s.underGuest) x false).updSlot p k fun s => { s with run := .preempted, preempts := [], underGuest := none }).respondAll o
        s.preempts stOk
  else if s.run = .saving then
    ((saveContext o b x false).updSlot p k fun s =>
      { s with run := if s.invoke.isSome then .restoring else .idle, preempts := [] }).respondAll o s.preempts stOk
  else b

/-- CONTEXT_SAVE_COMPLETE. -/
def execContextSaveComplete (p : Fin 8) (reads : SlotReads) (s : State) : Result :=
  s.onBody fun o b => saveComplete o (b.upset reads.ecc) p reads.slot

/-- A core of the almanac is still being zeroed (R180). -/
def Body.zeroingCores (b : Body) (img : List Byte) : Bool :=
  (imgCores img).any fun c => b.mem.zeroing.contains (.vat c) || b.mem.zeroing.contains (.press c)

/-- A context that is being restored may take its cores: they are zeroed (R180), the path to the store flows, no save of a context on them
that a PREEMPT waits for is under way on the one path (R429), a guest's training context has been saved (R272), and a held COMPARE finds
its place. -/
def Body.mayRestore (o : Own) (b : Body) (p : Fin 8) (k : Fin 4) : Bool :=
  let s := b.slot p k
  let host := b.slot p (Fin.ofNat 4 s.hostSlot.toNat)
  !b.zeroingCores s.image && b.storeFlows o p && !b.heldCrowded p k &&
    (b.rivals p k).all (fun i => (b.slot p i).run != .saving) &&
    (s.hostSlot == 0xFF || (host.run == .preempted && host.underGuest == some k))

/-- The guest of a training context's SLOT has run to its end, or is gone, and has left the cores (R272). -/
def Body.guestGone (b : Body) (p : Fin 8) (g : Fin 4) : Bool :=
  let t := b.slot p g
  t.invoke.isNone && t.ctx != .resident && t.run != .restoring && t.run != .saving

/-- CONTEXT_RESTORE_COMPLETE: the context is resident and issues its entries: from its start, or from where it was pre-empted
(R134, R431); a training context comes back when the invocation of its SLOT's guest is over, a guest that was pre-empted itself in the
SLOT going on in it (R272; log entry 122). An uncorrectable error in the save area resets the partition (R437, R513). The start's own
tests were made at the INVOKE or the SLOT, before any effect (R11). -/
def restoreComplete (o : Own) (b0 : Body) (p : Fin 8) (k : Fin 4) : Body :=
  let s := b0.slot p k
  let x : CtxId := ⟨p, k⟩
  let comesBack := match s.underGuest with
    | some g => s.run == .preempted && b0.guestGone p g
    | none => false
  let reads := if s.ctx = .saved then [b0.savedArea o x comesBack] else []
  if !(s.run == .restoring || comesBack) || !b0.mayRestore o p k then b0
  else
    match b0.firstBad o reads with
    | some w => b0.stewardBad o p w
    | none =>
      let b := b0.correctedIn o reads
      if comesBack then resumeRun o (restoreContext o b x true) p k
      else if s.resuming then resumeRun o (makeResident o b x) p k
      else startRun (makeResident o b x) p k

/-- CONTEXT_RESTORE_COMPLETE. -/
def execContextRestoreComplete (p : Fin 8) (reads : SlotReads) (s : State) : Result :=
  s.onBody fun o b => restoreComplete o (b.upset reads.ecc) p reads.slot

/-- RESUME's rule: nothing is done for a context that is not pre-empted, nor for an empty slot (R429, R430). -/
def resumeAct (x : Xnx) (o : Own) (b : Body) : Xres :=
  onPart x fun p =>
    let k := slotArg x
    let s := b.slot p k
    if s.run ≠ .preempted ∨ s.underGuest.isSome then .done o b stOk 0 []
    else if b.heldBy p k ≠ [] then .refused stBusy 0
    else .done o (b.updSlot p k fun s => { s with run := .restoring, resuming := true }) stOk 0 []

/-- RESUME (R414, R430). -/
def execResume (x : Xnx) (s : State) : Result := s.xnx 0x0105 x .part (x.len == 0) (decide (x.arg0 < 4)) (resumeAct x)

/-! ### INVOKE (R414) -/

/-- INVOKE's rule: a guest's invocation waits for its training almanac's next SLOT, which tests whether it may start (R272); any other
is tested now, before any effect (R11, R253); a resident context starts at once; a
context that needs no eviction, no restore and no zeroing still under way becomes resident and starts at once; else it is restored
first. -/
def invokeAct (x : Xnx) (o : Own) (b : Body) : Xres :=
  onPart x fun p =>
    let k := slotArg x
    let s := b.slot p k
    let t := xTicket x
    let rivals := b.rivals p k
    if !s.loaded then .refused stBounds 0
    else if s.invoke.isSome || s.guest.isSome then .refused stBusy 0
    else if s.hostSlot ≠ 0xFF then .pending o (b.updSlot p k fun s => { s with guest := some t })
    else if b.heldBy p k ≠ [] then .refused stBusy 0
    else if startRefused o b p k then .refused stBounds 0
    else
      let b1 := b.updSlot p k fun s => { s with invoke := some t }
      if s.run = .saving then .pending o b1
      else if s.ctx = .resident then .pending o (startRun b1 p k)
      else if s.ctx = .unrun ∧ !rivals.any (fun i => (b.slot p i).ctx == .resident) ∧ !b.zeroingCores s.image then
        .pending o (startRun (firstResidence b1 ⟨p, k⟩) p k)
      else .pending o (b1.updSlot p k fun s => { s with run := .restoring, resuming := false })

/-- INVOKE (R414). -/
def execInvoke (x : Xnx) (s : State) : Result := s.xnx 0x0103 x .part (x.len == 0) (decide (x.arg0 < 4)) (invokeAct x)

/-- The status that an invocation ends with: the skip of its update (R260), a repaired comparison (R268), or OK. -/
def Slot.endStatus (s : Slot) : W16 := if s.skips then s.skipStat else if s.repaired then ftDigest else stOk

/-- Every list of a context has ended. -/
def Body.allEnded (b : Body) (x : CtxId) : Bool :=
  (b.coresOf x).all (fun c => (b.core c).cx.ended && (b.core c).cx.launched == [])

/-- INVOCATION_COMPLETE: INVOKE's final response with status and decision; the context stays resident (R429), or, a guest's, is
saved (R272) as one that a PREEMPT waits for is. -/
def invocationComplete (o : Own) (b : Body) (p : Fin 8) (k : Fin 4) : Body :=
  let s := b.slot p k
  let x : CtxId := ⟨p, k⟩
  if (s.run = .running ∨ s.run = .stopping) ∧ b.allEnded x then
    let b1 := b.mapCtx x fun c => { c with invoc := c.invoc + 1, cx := { c.cx with seq := .idle, aeIdx := 0, ended := false } }
    let b2 := b1.updSlot p k fun s =>
      { s with run := if s.preempts = [] ∧ s.hostSlot = 0xFF then .idle else .saving, invoke := none }
    match s.invoke with
    | some t => b2.respond o t s.endStatus 0 (invokeResult s.endStatus s.decision s.repaired 0xFF 0xFFFF)
    | none => b2
  else b

/-- INVOCATION_COMPLETE (R125). -/
def execInvocationComplete (p : Fin 8) (slot : Fin 4) (s : State) : Result := s.onBody fun o b => invocationComplete o b p slot

/-! ### The XNX commit (R117, R120) -/

/-- The entries that a commit's walk reaches, in order. -/
def btReached (m : Mem) (r : BtRec) (slot : Nat) : (n i : Nat) → List Nat
  | 0, _ => []
  | n + 1, i =>
    let e := btEntryAt m slot i
    if e.next = 0xFFFF ∨ e.next ≥ r.maxEnt then [i] else i :: btReached m r slot n e.next

/-- The first entry of a walk that cannot be read, with the word at fault (R512). -/
def btUnread (o : Own) (m : Mem) (slot : Nat) (l : List Nat) : Option (Nat × Nat) :=
  l.findSome? fun i =>
    let a := slot + 16 * i
    (m.firstBad (wordSize o.maps a) a 16).map fun w => (i, w)

/-- The entries of a walk as reads. -/
def btReads (slot : Nat) (l : List Nat) : List (Nat × Nat) := l.map fun i => (slot + 16 * i, 16)

/-- BT_COMMIT's rule: a saved context's slot is read where it was saved, in the store region, whose own errors reset the partition
(R437); poison carried there with the data ends the command as R512 says and touches no memory (log entry 97). -/
def btCommitAct (x : Xnx) (o : Own) (b : Body) : Xres :=
  onPart x fun p =>
    let k := slotArg x
    let s := b.slot p k
    match (if s.loaded then btFind s.image (xArg x 0 2) else none) with
    | none => .refused stBounds 0
    | some r =>
      let l := s.bt r.id
      let saved := s.ctx = .saved
      if l.swap then .refused stBusy 0
      else if saved ∧ b.board.tripped then .pending o b
      else
        let at_ := r.inactive l
        let m : Mem := if saved then { b.mem with cells := s.save.cells, poison := s.save.poison, upsets := [] } else b.mem
        let reached := btReached m r at_ r.maxEnt 0
        let store := if saved then [b.savedArea o ⟨p, k⟩ s.underGuest.isSome] else []
        let b1 := if saved then (b.bulkMove o false ((b.saveArea o p k).1, 16 * reached.length)).correctedIn o store
          else b.correctedIn o (btReads at_ reached)
        match b.firstBad o store, btUnread o m at_ reached, btWalk m r at_ r.maxEnt 0 with
        | some w, _, _ => .done o (b1.stewardBad o p w) ftEcc 0 []
        | none, some (i, w), _ =>
          .done o (if saved then b1.faultEvent o p ftEcc (4, 0) (unitOf w) else b1.stewardBad o p w) ftEcc i []
        | none, none, some i => .refused stBounds i
        | none, none, none => .done o (b1.updSlot p k (·.updBt r.id fun l => { l with swap := true })) stOk 0 []

/-- BT_COMMIT (R117, R120, R414). -/
def execBtCommit (x : Xnx) (s : State) : Result := s.xnx 0x0106 x .part (x.len == 2) (decide (x.arg0 < 4)) (btCommitAct x)

end Sys2Proof.Machine
end

