-- ==== Sys2Proof/Machine/Vector.lean ====
section
/-! DEFINITION. Vector programs: layout, load checks, and execution row by row (R137 to R147). -/

namespace Sys2Proof.Machine

open Sys2Proof

/-! ### Layout (R139, R140) -/

/-- A stream record. -/
structure VStream where
  base   : Nat
  stride : Int
  fmt    : Nat
  sflags : Nat
  rsv    : Nat
  deriving DecidableEq, Repr, Inhabited

/-- The PRESS flag. -/
def VStream.press (s : VStream) : Bool := s.sflags.testBit 0

/-- An instruction word. -/
structure VInst where
  op     : Nat
  strict : Bool
  d      : Nat
  a      : Nat
  b      : Nat
  c      : Nat
  rsv    : Nat
  imm    : W32
  deriving DecidableEq, Repr, Inhabited

/-- A vector program. -/
structure Vp where
  ninst   : Nat
  flags   : Nat
  htag    : Byte
  hkind   : Byte
  rows    : Nat
  cols    : Nat
  streams : List VStream
  ccw     : Ccw
  insts   : List VInst
  deriving DecidableEq, Repr, Inhabited

/-- HARM. -/
def Vp.harm (v : Vp) : Bool := v.flags.testBit 0
/-- HFL. -/
def Vp.hfl (v : Vp) : Bool := v.flags.testBit 1
/-- Stream i: IN0 to IN2, OUT0, OUT1. -/
def Vp.stream (v : Vp) (i : Nat) : VStream := v.streams.getD i ⟨0, 0, 0, 0, 0⟩

/-- Read a stream record. -/
def vStreamOf (img : List Byte) (o : Nat) : VStream :=
  ⟨field img o 8, signed32 (field img (o + 8) 4), field img (o + 0xC) 1, field img (o + 0xD) 1, field img (o + 0xE) 2⟩

/-- Read an instruction word. -/
def vInstOf (w : Nat) : VInst :=
  ⟨bitsOf w 63 56, w.testBit 55, bitsOf w 54 50, bitsOf w 49 45, bitsOf w 44 40, bitsOf w 39 35, bitsOf w 34 32,
    BitVec.ofNat 32 w⟩

/-- Read a vector program at an image offset. -/
def vpOf (img : List Byte) (o : Nat) : Vp where
  ninst := field img o 1
  flags := field img (o + 1) 1
  htag := BitVec.ofNat 8 (field img (o + 2) 1)
  hkind := BitVec.ofNat 8 (field img (o + 3) 1)
  rows := field img (o + 4) 4
  cols := field img (o + 8) 4
  streams := (List.range 5).map fun i => vStreamOf img (o + 0x10 + 16 * i)
  ccw := ccwOf img (o + 0x60)
  insts := (List.range (field img o 1)).map fun i => vInstOf (field img (o + 0x80 + 8 * i) 8)

/-- Divide a program at its PASS words into sections. -/
def vSections : List VInst → List (List VInst)
  | [] => [[]]
  | i :: t =>
    if i.op = 0 then [] :: vSections t
    else
      match vSections t with
      | s :: r => (i :: s) :: r
      | [] => [[i]]

/-- Section n of a program: 0 PRE, 1 BODY1, 2 MID1, 3 BODY2, 4 MID2, 5 BODY3. -/
def Vp.section_ (v : Vp) (n : Nat) : List VInst := (vSections v.insts).getD n []

/-! ### Costs (R141, R146) -/

/-- The fast cost of an operation. -/
def vCost (op : Nat) : Nat := if op = 0 then 0 else if 0x20 ≤ op ∧ op ≤ 0x2C then 2 else 1
/-- Summed cost of words, four times for a strict one. -/
def vCosts (l : List VInst) : Nat := (l.map fun i => vCost i.op * (if i.strict then 4 else 1)).sum
/-- Chunks of a row. -/
def Vp.chunks (v : Vp) : Nat := ceilDiv v.cols 256
/-- Cost of one row. -/
def Vp.rowCost (v : Vp) : Nat :=
  vCosts (v.section_ 2) + vCosts (v.section_ 4) +
    v.chunks * (vCosts (v.section_ 1) + vCosts (v.section_ 3) + vCosts (v.section_ 5))
/-- The static minimum of a VEC entry, its exact run time. -/
def Vp.minBound (v : Vp) : Nat := 16 + vCosts (v.section_ 0) + v.rows * v.rowCost

/-! ### Load checks (R145) -/

/-- A known operation. -/
def vKnown (op : Nat) : Bool :=
  decide (op ≤ 4) || (decide (0x10 ≤ op) && decide (op ≤ 0x1A)) || (decide (0x20 ≤ op) && decide (op ≤ 0x2C)) ||
    (decide (0x30 ≤ op) && decide (op ≤ 0x34))
/-- An operation is allowed in a section (R141). -/
def vAllowed (op sec : Nat) : Bool :=
  if op = 2 ∨ op = 3 ∨ 0x30 ≤ op then sec % 2 == 1 else if op = 4 then decide (sec ≥ 2) else true

/-- Words with their section. -/
def Vp.placed (v : Vp) : List (VInst × Nat) :=
  (vSections v.insts).zipIdx.flatMap fun ((l, n) : List VInst × Nat) => l.map fun i => (i, n)

/-- A value occurs twice. -/
def hasDup : List Nat → Bool
  | [] => false
  | a :: t => t.contains a || hasDup t

/-- Stream i's range: the R106 formula. -/
def Vp.streamRange (v : Vp) (i : Nat) : Rng :=
  let s := v.stream i
  rowsRange s.base s.stride v.rows (v.cols * elemBytes s.fmt)

/-- The checks of a vector program for a core; of one whose words run past the image, those on the words inside it too. -/
def LoadCtx.vpFails (x : LoadCtx) (core off : Nat) : Fails :=
  if !x.has off 0x80 then itemFail off [(off % 64 != 0, stFormat), (true, stBounds)]
  else
    let v := { vpOf x.img off with insts := (vpOf x.img off).insts.take ((x.img.length - (off + 0x80)) / 8) }
    let used (i : Nat) : Bool := (v.stream i).fmt != 0
    let ins := (List.range 3).filter used
    let outs := [3, 4].filter used
    let okFmt (out : Bool) (f : Nat) : Bool :=
      f == 0 || isEight f || f == 8 || f == 9 || (f == 10 && !out)
    let sts := v.insts.filter (·.op == 3)
    let reds := v.insts.filter fun i => decide (0x30 ≤ i.op)
    let vat (i : Nat) : Bool := !(decide (i < 3) && (v.stream i).press)
    let rng := v.streamRange
    let same (i j : Nat) : Bool :=
      let a := v.stream i
      let b := v.stream j
      a.base == b.base && a.stride == b.stride && elemBytes a.fmt == elemBytes b.fmt
    let flag : Option Rng := if used 3 then v.ccw.ofs.map fun f => ((vatBase core + f : Nat), ceilDiv (v.rows * v.cols) 256)
      else none
    itemFail off
      ([(off % 64 != 0 || v.ninst == 0 || decide (v.ninst > 64) || decide (v.flags ≥ 4) || decide (v.hkind.toNat > 5) ||
          !zeros x.img (off + 0xC) 4 || !zeros x.img (off + 0x70) 16 || ccwBad x.img (off + 0x60) ||
          v.insts.any (fun i => !vKnown i.op || i.rsv != 0) || decide (v.insts.countP (·.op == 0) > 5) ||
          v.placed.any (fun i => !vAllowed i.1.op i.2) ||
          v.insts.any (fun i => i.op == 2 && (decide (i.a > 2) || !used i.a)) ||
          sts.any (fun i => decide (i.d > 1) || !used (3 + i.d)) || hasDup (sts.map (·.d)) ||
          v.insts.any (fun i => i.op == 4 && decide (i.a > 3)) ||
          reds.any (fun i => decide (i.d > 3) || reds.any fun j => j.d == i.d && j.op != i.op) ||
          (List.range 5).any (fun i =>
            let s := v.stream i
            !okFmt (decide (i ≥ 3)) s.fmt || decide (s.sflags ≥ 2) || s.rsv != 0 || addrBad s.base ||
              (decide (i ≥ 3) && s.press)), stFormat),
        (v.rows == 0 || decide (v.rows > 65536) || v.cols == 0 || decide (v.cols > 1048576) || decide (v.rowCost > 12000),
          stShape)] ++
      x.ranges ((((ins ++ outs).filter vat).map rng ++ flag.toList).map fun r => (vatPlace core, r)) ++
      [(!x.has off (0x80 + 8 * v.ninst) || (ins.filter fun i => !vat i).any (fun i => !inPlaces [(0, pressSize)] (rng i)), stBounds),
        (outs.any (fun i =>
          let s := v.stream i
          let w : Int := s.stride
          if w.natAbs = 0 then decide (v.rows > 1) else decide (w.natAbs < v.cols * elemBytes s.fmt)), stAlias),
        (outs.any (fun i => ins.any fun j => vat j && (rng i).meets (rng j) && !same i j) ||
          (used 3 && used 4 && (rng 3).meets (rng 4)) ||
          (match flag with | some f => (ins ++ outs).any fun i => vat i && f.meets (rng i) | none => false), stOverlap)])

/-! ### Arithmetic (R142 to R144) -/

/-- Every NaN result is the canonical NaN. -/
def canon (w : W32) : W32 := if (f32 w).isNan then 0x7FC00000 else w

/-- A finite result moved by a number of units in the last place. -/
def nudge (w : W32) (n : Int) : W32 :=
  let m : Int := ((w.toNat % 2 ^ 31 : Nat) : Int) + n
  if isFinite w then BitVec.ofNat 32 (w.toNat / 2 ^ 31 * 2 ^ 31 + (max 0 (min m 0x7F800000)).toNat) else w

/-- A result within a bound of the correctly rounded one: the error is free (log entry 5). -/
def approx (op bound : Nat) (a b r : W32) : W32 :=
  nudge r (max (-(bound : Int)) (min (bound : Int) (Config.ulpError op a b)))

/-- Units in the last place, and the place of the absolute error, that bound a fast result of an operation (R144). -/
def fastBound (op : Nat) : Nat × Option Nat :=
  if op = 0x21 ∨ op = 0x24 ∨ op = 0x26 then (2, none)
  else if op = 0x25 ∨ op = 0x27 then (3, none)
  else if op = 0x28 ∨ op = 0x29 then (3, some 23)
  else if op = 0x2A then (4, some 23)
  else (0, some 20)

/-- A result of RSQRT, EXP2 to LOG, TANH, SIGM, ERF, SIN or COS: in strict mode a free choice of the faithful words, the F32 values next
to the exact one on either side, or that value itself where it is one; in fast mode a free word within the bound of R144 around the
correctly rounded result; where the free word is none of these, that result itself (log entry 5). -/
def elemLane (op : Nat) (strict : Bool) (a : W32) : W32 :=
  let x := elementary op (f32 a)
  let r := toF32 x
  let w := Config.transcend op strict a
  if (if strict then faithful x w else withinUlps (fastBound op).1 (fastBound op).2 r w) then w else r

/-- 1.0 or 0.0. -/
def fbool (x : Bool) : W32 := if x then 0x3F800000 else 0

/-- One lane of an arithmetic operation. -/
def vLane (op : Nat) (strict : Bool) (a b c : W32) : W32 :=
  let f (w : W32) : W32 := if strict then w else flushSub w
  let a := f a
  let b := f b
  let c := f c
  let near (bound : Nat) (r : W32) : W32 := if strict then r else approx op bound a b r
  let r : W32 :=
    match op with
    | 0x10 => fadd a b
    | 0x11 => fsub a b
    | 0x12 => fmul a b
    | 0x13 => ffma a b c
    | 0x14 => fmin a b
    | 0x15 => fmax a b
    | 0x16 => fabs a
    | 0x17 => a ^^^ 0x80000000
    | 0x18 => fbool ((f32 a).lt (f32 b))
    | 0x19 => fbool ((f32 a).eqv (f32 b))
    | 0x1A => if (f32 a).isZero then c else b
    | 0x20 => near 1 (fdiv 0x3F800000 a)
    | 0x22 => near 1 (fsqrt a)
    | 0x23 => near 2 (fdiv a b)
    | _ =>
      if !strict ∧ (op = 0x2B ∨ op = 0x2C) ∧ (Num.fin false 65536 0).lt (f32 a).abs then 0x7FC00000
      else elemLane op strict a
  canon (f r)

/-! ### Execution (R138 to R143, R147) -/

/-- An accumulator of a row: a pair (its curd alone for RMAX, RMIN, RAMAX). -/
abbrev VAcc := Pair

/-- The identity of an accumulator by the reduction that uses it (R143). -/
def accIdentity (op : Nat) : VAcc :=
  if op = 0x32 then ⟨0xFF800000, 0⟩ else if op = 0x33 then ⟨0x7F800000, 0⟩ else ⟨0, 0⟩

/-- Fold lanes in the balanced tree of R143: n halvings. -/
def treeFold (f : W32 → W32 → W32) : Nat → List W32 → W32
  | 0, l => l.headD 0
  | n + 1, l =>
    let rec pairs : List W32 → List W32
      | a :: b :: t => f a b :: pairs t
      | [a] => [a]
      | [] => []
    treeFold f n (pairs l)

/-- Combine a chunk's lanes into an accumulator. R143 rounds its squares, its tree and the pair's additions to nearest even, subnormals
honoured (R69), in both modes: R39's flush of fast-mode results is taken to reach the lane inputs of RSUM and RSSQ alone (log entry
48). -/
def accFold (op : Nat) (acc : VAcc) (lanes : List W32) : VAcc :=
  let pad (i : W32) (l : List W32) : List W32 := l ++ List.replicate (256 - l.length) i
  match op with
  | 0x30 => acc.add (treeFold fadd 8 (pad 0 lanes))
  | 0x31 => acc.add (treeFold fadd 8 (pad 0 (lanes.map fun x => fmul x x)))
  | 0x32 => ⟨fmax acc.hi (treeFold fmax 8 (pad 0xFF800000 lanes)), 0⟩
  | 0x33 => ⟨fmin acc.hi (treeFold fmin 8 (pad 0x7F800000 lanes)), 0⟩
  | _ => ⟨fmax acc.hi (treeFold fmax 8 (pad 0 (lanes.map fabs))), 0⟩

/-- A program while it runs: registers as lanes, accumulators, the state it writes, what its writes left to report, its
conversion events, the OUT0 flags in logical order, the OUT0 values by chunk; the memory that the section at hand reads. -/
structure VRun where
  who   : Requester
  regs  : List (List W32)
  accs  : List VAcc
  body  : Body × Written
  evs   : List ConvEv
  flags : List Bool
  seen  : List (List W32)
  from_ : Mem

/-- What a word needs of its place: the row and the chunk (lanes 0 to n - 1 are inside the row). -/
structure VAt where
  core : Nat
  row  : Nat
  chunk : Nat
  n    : Nat

/-- The address of a stream's element. -/
def Vp.elemAddr (v : Vp) (core i row col : Nat) : Nat :=
  let s := v.stream i
  let a : Int := (s.base : Int) + row * s.stride + (col * elemBytes s.fmt : Nat)
  (if i < 3 ∧ s.press then (pressBase core : Int) + a else a).toNat

/-- A register's lanes. -/
def VRun.reg (r : VRun) (i : Nat) : List W32 := r.regs.getD i []

/-- A loaded element: widened by the conversion rules, so that a NaN becomes the canonical one and a non-finite element counts (R40,
R48, R54, R142). -/
def loadElem (fmt : Nat) (bytes : List Byte) : W32 × ConvEv :=
  let w := widen fmt bytes
  (canon w, ⟨false, !isFinite w, false⟩)

/-- LD: the chunk's elements, widened; lanes beyond the row keep what they hold. -/
def Vp.load (v : Vp) (r : VRun) (p : VAt) (i : VInst) : VRun :=
  let f := (v.stream i.a).fmt
  let vals := (List.range p.n).map fun l =>
    loadElem f (r.from_.bytes (v.elemAddr p.core i.a p.row (p.chunk * 256 + l)) (elemBytes f))
  { r with regs := r.regs.set i.d (vals.map (·.1) ++ (r.reg i.d).drop p.n), evs := r.evs ++ vals.map (·.2) }

/-- ST: the chunk converted and written (R142). -/
def Vp.storeChunk (v : Vp) (o : Own) (r : VRun) (p : VAt) (i : VInst) : VRun :=
  let s := v.stream (3 + i.d)
  match Target.ofCode s.fmt with
  | none => r
  | some t =>
    let ccw := { v.ccw with stream := (v.ccw.stream + i.d) % 2 ^ 24 }
    let cs := ((r.reg i.a).take p.n).zipIdx.map fun ((w, l) : W32 × Nat) =>
      convert t ccw (p.row * v.cols + p.chunk * 256 + l) (f32 w)
    let bytes := cs.map fun c => leBytes t.bytes c.1
    { r with
      body := Body.putOne o r.who r.body (v.elemAddr p.core (3 + i.d) p.row (p.chunk * 256), bytes.flatten.map some)
      evs := r.evs ++ cs.map (·.2)
      flags := if i.d = 0 then r.flags ++ cs.map (·.2.flag) else r.flags
      seen := if i.d = 0 then r.seen ++ [bytes.map (widen s.fmt)] else r.seen }

/-- One word. A word that computes writes all 256 lanes, those beyond COLS too, which nothing stores or reduces; R138 and R140 do not say
whether masked lanes are written (log entry 88). -/
def Vp.word (v : Vp) (o : Own) (p : VAt) (r : VRun) (i : VInst) : VRun :=
  let f (w : W32) : W32 := canon (if i.strict then w else flushSub w)
  if i.op = 1 then { r with regs := r.regs.set i.d (List.replicate 256 (f i.imm)) }
  else if i.op = 2 then v.load r p i
  else if i.op = 3 then v.storeChunk o r p i
  else if i.op = 4 then { r with regs := r.regs.set i.d (List.replicate 256 (f (r.accs.getD i.a ⟨0, 0⟩).hi)) }
  else if 0x30 ≤ i.op then
    let l := ((r.reg i.a).take p.n).map fun w => if i.strict then w else flushSub w
    { r with accs := r.accs.modify i.d fun a => accFold i.op a l }
  else
    { r with regs := r.regs.set i.d ((List.range 256).map fun l =>
        vLane i.op i.strict ((r.reg i.a).getD l 0) ((r.reg i.b).getD l 0) ((r.reg i.c).getD l 0)) }

/-- A section on a chunk: it reads the chunk as it stands before any ST of the section writes it (R145). -/
def Vp.sec (v : Vp) (o : Own) (n : Nat) (p : VAt) (r : VRun) : VRun :=
  (v.section_ n).foldl (v.word o p) { r with from_ := r.body.1.mem }

/-- A BODY section over all chunks of a row, ascending. -/
def Vp.bodySec (v : Vp) (o : Own) (n core row : Nat) (r : VRun) : VRun :=
  (List.range v.chunks).foldl (fun r ch => v.sec o n ⟨core, row, ch, min 256 (v.cols - 256 * ch)⟩ r) r

/-- The accumulators at the start of a row; one that no reduction uses starts at the pair (0, 0) (DESIGN CHOICE, log entry 117: R143 gives
the identities by reduction). -/
def Vp.accs0 (v : Vp) : List VAcc :=
  (List.range 4).map fun d =>
    accIdentity ((v.insts.find? fun i => decide (0x30 ≤ i.op) && i.d == d).elim 0x30 (·.op))

/-- One row: BODY1, MID1, BODY2, MID2, BODY3. -/
def Vp.row (v : Vp) (o : Own) (core : Nat) (r : VRun) (row : Nat) : VRun :=
  let r := { r with accs := v.accs0 }
  let mid (n : Nat) (r : VRun) : VRun := v.sec o n ⟨core, row, 0, 256⟩ r
  v.bodySec o 5 core row (mid 4 (v.bodySec o 3 core row (mid 2 (v.bodySec o 1 core row r))))

/-- The contents that the registers of a program have before it writes them: free (log entry 2). -/
def freeRegs (n : Nat) : List (List W32) :=
  (List.range 32).map fun i => (List.range 256).map fun l => Config.freeWord (n + 256 * i + l)

/-- Rows from the run's position up to a row, with PRE first when none has run; the run as it then stands. -/
def vecRows (o : Own) (b : Body) (x : CtxId) (c : Fin 32) (v : Vp) (run : VecRun) (upto : Nat) : VRun :=
  let fresh := run.regs = []
  let b0 := if fresh then { b with free := b.free + 8192 } else b
  let r0 : VRun := ⟨entryOf x c run.idx, if fresh then freeRegs b.free else run.regs, [], (b0, ⟨none, none⟩), [], run.flags, [], b0.mem⟩
  let r1 := if fresh then v.sec o 0 ⟨c.val, 0, 0, 256⟩ r0 else r0
  ((List.range upto).drop run.row).foldl (v.row o c.val) r1

/-- The write of the OUT0 flag bitmap (R52, R142); of an OUT0 that no ST stores it holds zeros (DESIGN CHOICE, log entry 118: the spec is
silent on it). -/
def Vp.flagWrite (v : Vp) (core : Nat) (flags : List Bool) : List (Nat × List (Option Byte)) :=
  match v.ccw.ofs with
  | some f => if (v.stream 3).fmt = 0 then [] else [whole (vatBase core + f, flagBitmap flags (ceilDiv (v.rows * v.cols) 32))]
  | none => []

/-- Rows run: events counted, OUT0 harvested chunk by chunk under the entry's setting, refused and lost bytes reported. A group of R150
that is not full ends with its chunk, in a tile with its write-out (DESIGN CHOICE, log entry 50). -/
def vecSettle (o : Own) (x : CtxId) (c : Fin 32) (idx : Nat) (r : VRun) : Body :=
  let set := (r.body.1.core c).cx.setting idx
  let b1 := r.body.1.updCore c fun k => k.countEvs r.evs
  let b2 := b1.updCx c fun k => { k with harv := r.seen.foldl (fun h l => harvest h set.1 set.2 l) k.harv }
  let b3 := match r.body.2.refused with
    | some (st, a) => b2.logEntry o x.part c idx st a
    | none => b2
  match r.body.2.lost with
  | some a => b3.eccFault o (entryOf x c idx) a
  | none => b3

/-- The rows, from one up to another, of the input streams that a program loads. -/
def Vp.reads (v : Vp) (core lo hi : Nat) : List (Nat × Nat) :=
  ((List.range 3).filter fun i => v.insts.any fun w => w.op == 2 && w.a == i).flatMap fun i =>
    ((List.range hi).drop lo).map fun r => (v.elemAddr core i r 0, v.cols * elemBytes (v.stream i).fmt)

/-- VEC: issued when no other VEC runs; HARM arms the setting first (R138, R149). -/
def vecIssue (o : Own) (b : Body) (c : Fin 32) : Body :=
  match b.nextAe c kVec with
  | none => b
  | some (x, e) =>
    if !b.mayLaunch c ∨ (b.core c).cx.vec.isSome then b
    else
      let v := vpOf (b.imageOf x) e.ref
      let idx := (b.core c).cx.aeIdx.toNat
      let b1 := b.updCx c fun k =>
        let k1 := if v.harm then { k with htag := v.htag, hkind := v.hkind } else k
        { k1.launch e with vec := some ⟨idx, 0, [], []⟩ }
      (b1.operands o x c idx (v.reads c.val 0 v.rows)).1

/-- VEC. -/
def execVec (core : Fin 32) (ecc : Found) (s : State) : Result :=
  s.onBody fun o b => (b.upset ecc).issuing o core fun b => vecIssue o b core

/-- VEC_COMPLETE: the rows not yet run are run, the flag bitmap is written, the entry completes; with HFL its flush is due
(R146, R152). An entry that has stopped at its pre-emption point runs on only once its context has resumed (R147); a row that cannot be
read, of a restored context too, faults (R171, R513). -/
def vecComplete (o : Own) (b : Body) (c : Fin 32) : Body :=
  match b.holds c, (b.core c).cx.vec with
  | some x, some run =>
    if (b.core c).cx.seq ≠ .running then b else
    let v := vpOf (b.imageOf x) (((b.core c).cx.launched.find? (·.idx == run.idx)).elim 0 (·.ref))
    let g := b.operands o x c run.idx (v.reads c.val run.row v.rows)
    if !g.2 then g.1 else
    let r := vecRows o g.1 x c v run v.rows
    let r1 := { r with body := (v.flagWrite c.val r.flags).foldl (Body.putOne o r.who) r.body }
    let b1 := { r1.body.1 with cores := r1.body.1.cores.modify c.val fun k =>
      { k with cx := { k.cx with vec := none, flushes := if v.hfl then k.cx.flushes ++ [run.idx] else k.cx.flushes } } }
    let b2 := vecSettle o x c run.idx { r1 with body := (b1, r1.body.2) }
    b2.complete x c run.idx
  | _, _ => b

/-- VEC_COMPLETE. -/
def execVecComplete (core : Fin 32) (s : State) : Result := s.onBody fun o b => vecComplete o b core

/-- A pre-emption point inside a VEC entry: the rows below a row are done, and the entry will go on from there (R147). -/
def vecStop (o : Own) (b : Body) (c : Fin 32) (x : CtxId) (row : Nat) : Body :=
  match (b.core c).cx.vec with
  | some run =>
    let v := vpOf (b.imageOf x) (((b.core c).cx.launched.find? (·.idx == run.idx)).elim 0 (·.ref))
    let upto := min v.rows (max row run.row)
    let g := b.operands o x c run.idx (v.reads c.val run.row upto)
    if upto = run.row then b
    else if !g.2 then g.1
    else
      let r := vecRows o g.1 x c v run upto
      let b1 := { r.body.1 with cores := r.body.1.cores.modify c.val fun k =>
        { k with cx := { k.cx with vec := some ⟨run.idx, upto, r.regs, r.flags⟩ } } }
      vecSettle o x c run.idx { r with body := (b1, r.body.2) }
  | none => b

end Sys2Proof.Machine
end

