-- ==== Sys2Proof/Machine/Almanac.lean ====
section
/-! DEFINITION. The almanac loader: ALM_LOAD and ALM_UNLOAD (R99 to R102, R111, R124, R129, R151, R242, R271, R414, R432, R509, R510,
R512, R514). -/

namespace Sys2Proof.Machine

open Sys2Proof

/-! ### CRC-64 (R509) -/

/-- One bit of the reflected ECMA-182 division. -/
def crcBit (c : W64) : W64 := if c.getLsbD 0 then (c >>> 1) ^^^ 0xC96C5795D7870F42 else c >>> 1
/-- One byte. -/
def crcByte (c : W64) (v : Byte) : W64 := (List.range 8).foldl (fun (c : W64) _ => crcBit c) (c ^^^ v.setWidth 64)
/-- The CRC-64 of a byte string. -/
def crc64 (l : List Byte) : W64 := l.foldl crcByte 0xFFFFFFFFFFFFFFFF ^^^ 0xFFFFFFFFFFFFFFFF

/-- The CRC of an image with its CRC field taken as zero (R102). -/
def imageCrc (img : List Byte) : W64 := crc64 (img.take 0x30 ++ List.replicate 8 0 ++ img.drop 0x38)

/-! ### Header, list records, entries (R102, R124) -/

/-- The header's own failures; CORES may name no core that is withdrawn (R438). -/
def LoadCtx.hdrFails (x : LoadCtx) (out : W32) : Fails :=
  let h := x.h
  let owned (c : Nat) : Bool := x.o.hasCore x.p c && !out.toNat.testBit c
  itemFail 0
    [(h.magic != 0x4E4D4C41 || h.gen != 4 || decide (h.ceil < 10) || decide (h.ceil > 30) || !zeros x.img 6 2 ||
        !zeros x.img 0x1E 2 || !zeros x.img 0x2E 2 || !zeros x.img 0x38 8 || decide (h.btCount > 1024) ||
        decide (h.events > 255) || (imageCrc x.img).toNat != h.crc, stFormat),
      (!x.has h.aeTab 256 || !x.has h.btDir (max 1 (32 * h.btCount)) || !x.has h.valloc 8, stBounds),
      ((List.range 32).any (fun c => h.cores.testBit c && !owned c) || decide (h.cellar > x.block.cellarRange.2), stFit)]

/-- The list record of a core. -/
def LoadCtx.recFails (x : LoadCtx) (c : Nat) : Fails :=
  let at_ := x.h.aeTab + 8 * c
  if x.h.cores.testBit c then
    itemFail at_
      [(!zeros x.img (at_ + 6) 2 || aeCount x.img c == 0 || aeFirst x.img c % 16 != 0, stFormat),
        (!x.has (aeFirst x.img c) (16 * aeCount x.img c), stBounds)]
  else itemFail at_ [(!zeros x.img at_ 8, stFormat)]

/-- The FORMAT failures of an entry at place i of n (R124). -/
def LoadCtx.aeFormatBad (x : LoadCtx) (e : Ae) (i n : Nat) : Bool :=
  let d := descOf e.kind
  e.kind == 0 || decide (e.kind > kEnd) || (decide (i + 1 = n) != (e.kind == kEnd)) ||
    (match d with | some (al, _) => e.ref % al != 0 | none => e.ref != 0) ||
    (e.evt != 0xFF && decide (e.evt ≥ x.h.events)) || ((e.kind == kWait || e.kind == kSignal) && e.evt == 0xFF) ||
    (if e.kind = kWait then e.arg == 0 else if e.kind = kBtCommit then (btFind x.img e.arg).isNone else e.arg != 0) ||
    ((e.kind == kSignal || e.kind == kEnd) && e.bound != 0)

/-- The failures of the descriptor that an entry names, each at its own item; an MJ's progress event is below EVENTS. -/
def LoadCtx.descFails (x : LoadCtx) (core : Nat) (e : Ae) : Fails :=
  if e.kind = kTile then x.tdFails core e.ref
  else if e.kind = kVec then x.vpFails core e.ref
  else if e.kind = kXform then x.xdFails core e.ref
  else if e.kind = kColl then x.cdFails e.ref
  else if e.kind = kUpd then x.udFails core e.ref
  else if e.kind = kMedia then
    let j := mjOf x.img e.ref
    x.mjFails core e.ref ++ itemFail e.ref [(j.unit == 2 && j.pevt != 0xFF && decide (j.pevt ≥ x.h.events), stFormat)]
  else []

/-- The list that a TD reads. -/
def LoadCtx.tdList (x : LoadCtx) (t : Td) : Option BtRec := if t.listed then btFind x.img t.btList else none

/-- The static minimum of an entry's BOUND (R129). -/
def LoadCtx.minBound (x : LoadCtx) (b : Body) (e : Ae) : Nat :=
  let c := x.h.ceil
  if e.kind = kTile then let t := tdOf x.img e.ref; t.minBound c (x.tdList t)
  else if e.kind = kVec then (vpOf x.img e.ref).minBound
  else if e.kind = kXform then (xdOf x.img e.ref).minBound (x.xdPlane e.ref) c
  else if e.kind = kColl then b.collMin x.p (cdOf x.img e.ref) c
  else if e.kind = kUpd then x.udMin e.ref c
  else if e.kind = kMedia then
    let j := mjOf x.img e.ref
    j.minBound ((b.part x.p).encs.getD j.session EncSession.reset) c
  else 0

/-- An entry's descriptor, if its kind has one, lies in the image: it is checked, and the entry takes its part in the walks over several
entries, whatever else of it fails (R100: the first failing item is reported, and a failing descriptor may lie before or behind the
entry). -/
def LoadCtx.aeRead (x : LoadCtx) (e : Ae) : Bool :=
  match descOf e.kind with | some (al, size) => e.ref % al == 0 && x.has e.ref size | none => true

/-- The checks of one entry that look at nothing before it, and those of its descriptor. -/
def LoadCtx.aeFails (x : LoadCtx) (b : Body) (core off : Nat) (e : Ae) (i n : Nat) : Fails :=
  let inImage := match descOf e.kind with | some (_, size) => x.has e.ref size | none => true
  (if x.aeRead e then x.descFails core e else []) ++
    itemFail off [(x.aeFormatBad e i n, stFormat), (x.aeRead e && decide (e.bound < x.minBound b e), stShape), (!inImage, stBounds)]

/-- The entries of a core's list, with image offset, when its record passes. -/
def LoadCtx.entries (x : LoadCtx) (c : Nat) : List (Nat × Nat × Ae) :=
  if x.h.cores.testBit c ∧ x.recFails c = [] then
    (aeList x.img c).zipIdx.map fun ((e, i) : Ae × Nat) => (aeFirst x.img c + 16 * i, i, e)
  else []

/-! ### Walks over a list (R100, R109, R151) -/

/-- The press walk of one list (R109, R111): the first entry that breaks it. -/
def LoadCtx.pressFails (x : LoadCtx) : (opn : List OpenTile) → List (Nat × Nat × Ae) → Fails
  | _, [] => []
  | opn, (off, _, e) :: t =>
    if e.kind = kTile ∧ x.aeRead e ∧ !(tdOf x.img e.ref).rind then
      let d := tdOf x.img e.ref
      match pressStep opn d ((x.tdList d).elim 1 (·.maxEnt)) with
      | some opn2 => x.pressFails opn2 t
      | none => [(off, stFit)]
    else x.pressFails opn t

/-- The tags live in a harvest unit between flushes, one more coming (R151). -/
def addTag (live : List (Nat × Nat)) (tag kind : Nat) : List (Nat × Nat) × Option W16 :=
  if kind = 0 then (live, none)
  else if live.any (fun h => h.1 == tag && h.2 != kind) then (live, some stFormat)
  else if live.contains (tag, kind) then (live, none)
  else (live ++ [(tag, kind)], if live.length ≥ 16 then some stFit else none)

/-- Entry i of a list is known to have completed when entry q issues: a WAIT between them, on its event, needs all of the event's
incrementers; or it is a VEC and a later one has issued (R126, R138). -/
def knownDone (img : List Byte) (es : List Ae) (i q : Nat) : Bool :=
  let e := es.getD i (aeOf [] 0 0)
  waitsAll img ((es.take q).drop (i + 1)) e.evt || (e.kind == kVec && ((es.take (q + 1)).drop (i + 1)).any fun v => v.kind == kVec)

/-- The harvest setting that entry i of a list is issued under (R149). -/
def LoadCtx.armed (x : LoadCtx) (es : List Ae) (i : Nat) : Nat × Nat :=
  (es.take (i + 1)).foldl (fun set e =>
    if e.kind = kVec ∧ x.aeRead e ∧ (vpOf x.img e.ref).harm then
      ((vpOf x.img e.ref).htag.toNat, (vpOf x.img e.ref).hkind.toNat)
    else set) (0, 0)

/-- The tag that entry i of a list brings to its core's press-side unit. -/
def LoadCtx.observes (x : LoadCtx) (es : List Ae) (i : Nat) : List (Nat × Nat) :=
  let e := es.getD i (aeOf [] 0 0)
  let out := x.aeRead e && (if e.kind = kTile then !(tdOf x.img e.ref).rind && (tdOf x.img e.ref).fmtO != 0
    else e.kind == kVec && ((vpOf x.img e.ref).stream 3).fmt != 0)
  if out && (x.armed es i).2 != 0 then [x.armed es i] else []

/-- The flush of entry i, a VEC with HFL, is known to be over when entry q issues: the VEC and every harvested entry before it are (R152). -/
def LoadCtx.flushOver (x : LoadCtx) (es : List Ae) (i q : Nat) : Bool :=
  let e := es.getD i (aeOf [] 0 0)
  e.kind == kVec && x.aeRead e && (vpOf x.img e.ref).hfl && knownDone x.img es i q &&
    (List.range i).all fun j => x.observes es j == [] || knownDone x.img es j q

/-- The tags that can stand in a core's press-side unit as entry q issues: of all entries behind the last flush that is known to be over
(R151). -/
def LoadCtx.pressLive (x : LoadCtx) (es : List Ae) (q : Nat) : List (Nat × Nat) :=
  let p := (((List.range q).filter fun i => x.flushOver es i q).getLast?).elim 0 (· + 1)
  (((List.range q).drop p).flatMap (x.observes es)).eraseDups

/-- The tag walk of one core's press-side unit (R151). -/
def LoadCtx.tagFails (x : LoadCtx) (c : Nat) (es : List Ae) : Fails :=
  (List.range es.length).flatMap fun q => (x.observes es q).flatMap fun g =>
    ((addTag (x.pressLive es q) g.1 g.2).2.map fun st => (aeFirst x.img c + 16 * q, st)).toList

/-- The tags that a UD gives its quadrant's unit. -/
def Ud.tags (u : Ud) : List (Nat × Nat) :=
  if u.op = opApply ∧ u.dig ∧ !u.hv then [(u.htagB.toNat, 1)]
  else if !u.hv then []
  else if u.op = opNorm then [(u.htagA.toNat, 2)]
  else if u.op = opApply then [(u.htagA.toNat, 3), (u.htagB.toNat, 1)]
  else []

/-- The tags of a live set joined to another. -/
def joinTags (a b : List (Nat × Nat)) : List (Nat × Nat) := a ++ b.filter fun g => !a.contains g

/-- The UD of entry i of a list. -/
def LoadCtx.udAt (x : LoadCtx) (es : List Ae) (i : Nat) : Option Ud :=
  let e := es.getD i (aeOf [] 0 0)
  if e.kind = kUpd ∧ x.aeRead e then some (udOf x.img e.ref) else none

/-- The tags of the NORMs among the first n entries of a list. An invocation that skips its update runs them all, and its APPLYs observe
and flush nothing (R260), so all of these can stand together, also as the next invocation starts. -/
def LoadCtx.normTags (x : LoadCtx) (es : List Ae) (n : Nat) : List (Nat × Nat) :=
  ((List.range n).flatMap fun i => ((((x.udAt es i).filter fun u => u.op == opNorm)).map Ud.tags).getD []).eraseDups

/-- The tags that a list can have standing in its quadrant's update-path unit as entry q issues in an update that is not skipped. The unit
flushes as an APPLY completes (R263); UDs of one list run together until a WAIT orders them (R251), so behind the last APPLY known to be
complete count all UDs issued after it, and those that were not known to be complete when it was issued; before the first, what a skipped
invocation left. -/
def LoadCtx.udLive (x : LoadCtx) (es : List Ae) (q : Nat) : List (Nat × Nat) :=
  let a := ((List.range q).filter fun i => ((x.udAt es i).any fun u => u.op == opApply) && knownDone x.img es i q).getLast?
  ((if a.isNone then x.normTags es es.length else []) ++ (List.range q).flatMap fun i =>
    if a.all fun a => decide (a < i) || (i != a && !knownDone x.img es i a) then ((x.udAt es i).map Ud.tags).getD [] else []).eraseDups

/-- The tag walk of one list of a quadrant's update-path unit, in an update that is carried out and in one that is skipped. `before`: what
earlier lists can bring between two flushes, one segment of each; the lists are taken to run in any order against each other (DESIGN
CHOICE, log entry 93). -/
def LoadCtx.udTagFails (x : LoadCtx) (before : List (List (Nat × Nat))) (c : Nat) (es : List Ae) : Fails :=
  let bad (l : List (Nat × Nat)) (g : Nat × Nat) : Option W16 :=
    (before.map fun b => (addTag (joinTags b l) g.1 g.2).2).foldl (fun a r =>
      if a = some stFormat ∨ r = some stFormat then some stFormat else if a.isSome then a else r) none
  (List.range es.length).flatMap fun q =>
    let norm := (x.udAt es q).any fun u => u.op == opNorm
    let walk (live : List (Nat × Nat)) : Option W16 :=
      ((((x.udAt es q).map Ud.tags).getD []).foldl (fun (r : List (Nat × Nat) × Option W16) g =>
        ((addTag r.1 g.1 g.2).1, r.2 <|> bad r.1 g)) (live, none)).2
    (walk (x.udLive es q) <|> if norm then walk (x.normTags es q) else none).toList.map fun st => (aeFirst x.img c + 16 * q, st)

/-- What a list can bring between two flushes. -/
def LoadCtx.udSegs (x : LoadCtx) (es : List Ae) : List (List (Nat × Nat)) :=
  (((List.range (es.length + 1)).map (x.udLive es))).eraseDups

/-- The update-path unit of one quadrant, list by list. -/
def LoadCtx.quadTagFails (x : LoadCtx) : (before : List (List (Nat × Nat))) → List (Nat × List Ae) → Fails
  | _, [] => []
  | before, (c, es) :: t =>
    x.udTagFails before c es ++ x.quadTagFails ((before.flatMap fun b => (x.udSegs es).map (joinTags b)).eraseDups) t

/-- R151 over the whole almanac. -/
def LoadCtx.harvestFails (x : LoadCtx) : Fails :=
  let list (c : Fin 32) : List Ae := (x.entries c.val).map (·.2.2)
  ((imgCores x.img).flatMap fun c => x.tagFails c.val (list c)) ++
    (List.range 4).flatMap fun q =>
      x.quadTagFails [[]] (((imgCores x.img).filter fun c => c.val / 8 == q).map fun c => (c.val, list c))

/-! ### What entries write (R242, R271) -/

/-- The range of a tile's write-out, the largest OBASE included. -/
def LoadCtx.tdOut (x : LoadCtx) (t : Td) : List Rng :=
  if t.fmtO = 0 then []
  else
    let r := x.tdList t
    let e := t.extents (if t.ragDim = 0 then none else r.map (·.maxLen))
    [(rowsRange t.outBase t.outStride e.1 (e.2.1 * elemBytes t.fmtO)).grow (if t.applyO then r.elim 0 (·.obaseMax) else 0)]

/-- The ranges that a TILE, VEC or XFORM entry writes as its results. -/
def LoadCtx.outs (x : LoadCtx) (e : Ae) : List Rng :=
  if e.kind = kTile then x.tdOut (tdOf x.img e.ref)
  else if e.kind = kVec then
    let v := vpOf x.img e.ref
    ([3, 4].filter fun i => (v.stream i).fmt != 0).map v.streamRange
  else if e.kind = kXform then (xdOf x.img e.ref).dstRanges (x.xdPlane e.ref)
  else []

/-- The flag bitmap of a TILE, VEC or XFORM entry (R52). -/
def LoadCtx.flagOf (x : LoadCtx) (core : Nat) (e : Ae) : List Rng :=
  if e.kind = kTile then
    let t := tdOf x.img e.ref
    let r := x.tdList t
    (t.flagRange core (t.extents (if t.ragDim = 0 then none else r.map (·.maxLen))) (r.elim 1 (·.maxEnt))).toList
  else if e.kind = kVec then
    let v := vpOf x.img e.ref
    if (v.stream 3).fmt = 0 then [] else (v.ccw.ofs.map fun f => (((vatBase core + f : Nat) : Int), ceilDiv (v.rows * v.cols) 256)).toList
  else if e.kind = kXform then
    let d := xdOf x.img e.ref
    if d.copies then [] else (d.ccw.ofs.map fun f => (((vatBase core + f : Nat) : Int), ceilDiv (d.count (x.xdPlane e.ref)) 256)).toList
  else []

/-- The ranges that an entry of any kind writes, a core's flag bitmaps, a COLL's staging and a NORM's two slices of its NVEC
vector among them (R52, R257, R312). -/
def LoadCtx.writesOf (x : LoadCtx) (core : Nat) (e : Ae) : List Rng :=
  if e.kind = kColl then
    let c := cdOf x.img e.ref
    [((c.dst : Int), c.dstBytes), ((c.stage : Int), c.stageN)]
  else if e.kind = kMedia then
    let j := mjOf x.img e.ref
    let slots := match (if j.btw then btFind x.img j.btList else none) with
      | some r => [((r.slot0 : Int), 16 * j.count), ((r.slot1 : Int), 16 * j.count)]
      | none => []
    (j.writes.map fun (r : Nat × Nat) => ((r.1 : Int), r.2)) ++ slots ++ (j.flagRange x.part core).toList
  else if e.kind = kUpd then
    let u := udOf x.img e.ref
    let s := shardOf ((x.shardBytes u).getD [])
    if u.op = opApply then
      (if u.vatw then [((u.vatFwd : Int), s.wBytes), ((u.vatTrn : Int), if s.ns > 1 then s.wBytes else 0)] else []) ++
        ([u.ccwM, u.ccwW].filterMap fun c => c.ofs.map fun f => (((vatBase core + f : Nat) : Int), ceilDiv s.elems 256))
    else if u.op = opNorm then [((u.nvec : Int), 0x5000)] else []
  else x.outs e ++ x.flagOf core e

/-- Every entry whose descriptor can be read. -/
def LoadCtx.soundAes (x : LoadCtx) : List (Nat × AePos) :=
  (imgCores x.img).flatMap fun c =>
    ((x.entries c.val).filter fun (e : Nat × Nat × Ae) => x.aeRead e.2.2).map
      fun (e : Nat × Nat × Ae) => (e.1, ⟨c.val, e.2.1, e.2.2⟩)

/-- R242 over the whole almanac. -/
def LoadCtx.bucketFails (x : LoadCtx) : Fails :=
  let bs := bucketsOf x
  if bs = [] then []
  else x.soundAes.filterMap fun (w : Nat × AePos) => (bucketSt x bs w.2 (x.outs w.2.ae)).map fun st => (w.1, st)

/-- R271: a guest uses only its training almanac's cores, and declares and writes none of its KEEP regions. -/
def LoadCtx.guestFails (x : LoadCtx) (host : List Byte) : Fails :=
  let keep := keepRanges host
  let hits (r : Rng) : Bool := keep.any fun k => Rng.meets ((k.1 : Int), k.2) r
  itemFail 0 [((List.range 32).any (fun c => x.h.cores.testBit c && !(hdrOf host).cores.testBit c), stFit)] ++
    ((vallocOf x.img).zipIdx.flatMap fun ((v, i) : VEntry × Nat) =>
      itemFail (x.h.valloc + 8 + 16 * i) [(hits ((v.addr : Int), v.size), stOverlap)]) ++
    x.soundAes.flatMap fun (w : Nat × AePos) => itemFail w.2.ae.ref [((x.writesOf w.2.core w.2.ae).any hits, stOverlap)]

/-! ### Store space (R432) -/

/-- The store region cannot hold an almanac beside those of the other loaded slots. -/
def Body.storeFull (o : Own) (b : Body) (p : Fin 8) (k : Fin 4) (img : List Byte) : Bool :=
  let others := ((List.finRange 4).filter fun i => i != k && ((b.slot p i).loaded || (b.slot p i).unload.isSome)).map
    fun i => storeNeed (b.slot p i).image
  decide ((o.prec p).block.storeRange.2 < others.sum + storeNeed img)

/-! ### The whole load -/

/-- What a load is checked against. -/
def Body.loadCtx (o : Own) (b : Body) (p : Fin 8) (at_ : Nat) (img : List Byte) : LoadCtx :=
  ⟨o, p, img, at_, b.mem, b.part p⟩

/-- Every failure of an image whose header passes. -/
def LoadCtx.allFails (x : LoadCtx) (b : Body) (host : Option (List Byte)) : Fails :=
  ((List.range x.h.btCount).flatMap x.btFails) ++ x.vallocFails ++ ((List.range 32).flatMap x.recFails) ++
    ((imgCores x.img).flatMap fun c =>
      let n := aeCount x.img c.val
      let es := x.entries c.val
      (es.flatMap fun (e : Nat × Nat × Ae) => x.aeFails b c.val e.1 e.2.2 e.2.1 n) ++ x.pressFails [] es) ++
    x.udSetFails ((bucketsOf x).map fun k => (k.base, k.size)) ++ x.collSetFails ++ x.bucketFails ++ x.harvestFails ++
    host.elim [] x.guestFails

/-- The image offset of the 64-byte unit that holds an address; 0 of a unit that begins before the image (R512). -/
def imageUnit (at_ w : Nat) : Nat := unitOf w - at_

/-- The first shard header that a UD names and that cannot be read: the UD's image offset and the unit (R512). -/
def LoadCtx.shardUnread (x : LoadCtx) : Option (Nat × Nat) :=
  (udAes x).findSome? fun a =>
    let u := a.ud x.img
    if (x.shardBytes u).isSome then
      (x.mem.firstBad 64 u.shard 64).map fun w => (a.ae.ref, w)
    else none

/-- The outcome of a load: an ECC failure (offset and unit), a refusal (offset and status), or acceptance. -/
inductive LoadEnd where
  | ecc (off unit : Nat)
  | refused (off : Nat) (status : W16)
  | accepted
  deriving DecidableEq, Repr

/-- Check an image at an address (R100, R432, R512). -/
def checkImage (o : Own) (b : Body) (p : Fin 8) (k : Fin 4) (at_ : Nat) (img : List Byte) (host : Option (List Byte)) : LoadEnd :=
  let x := b.loadCtx o p at_ img
  match b.firstBad o [(at_, img.length)] with
  | some w => .ecc (imageUnit at_ w) w
  | none =>
    match firstFail (x.hdrFails b.board.cause.coreOut), x.shardUnread with
    | some f, _ => .refused f.1 f.2
    | none, some s => .ecc s.1 s.2
    | none, none =>
      match firstFail (x.allFails b host ++ if b.storeFull o p k img then [(0, stFit)] else []) with
      | some f => .refused f.1 f.2
      | none => .accepted

/-- ALM_LOAD's rule: the header and its extent first (R514), then PENDING. -/
def almLoadAct (x : Xnx) (o : Own) (b : Body) : Xres :=
  onPart x fun p =>
    let k := slotArg x
    let s := b.slot p k
    let at_ := xArg x 0 8
    let host := xArg x 8 1
    let size := field (b.mem.bytes at_ 64) 0xC 4
    let hostBad := host ≠ 0xFF ∧ (decide (host ≥ 4) || !(b.slot p (Fin.ofNat 4 host)).loaded)
    if !o.inData p at_ 64 then .foreign (o.outside p at_)
    else if b.board.tripped then .pending o b
    else
      let b := b.stewardRead o [(at_, 64)]
      match b.firstBad o [(at_, 64)] with
      | some w => .done o (b.stewardBad o p w) ftEcc (imageUnit at_ w) []
      | none =>
        if !o.inData p at_ size then .foreign (o.outside p at_)
        else if size < 64 then .refused stFormat 0
        else if hostBad then .refused stBounds 0
        else if s.loaded || s.loading.isSome || s.unload.isSome then .refused stBusy 0
        else .pending o (b.updSlot p k fun s => { s with loading := some (at_, size, BitVec.ofNat 8 host, xTicket x) })

/-- ALM_LOAD (R414, R514). -/
def execAlmLoad (x : Xnx) (s : State) : Result := s.xnx 0x0101 x .part (x.len == 9) (decide (x.arg0 < 4)) (almLoadAct x)

/-- A core's registers as a job context is created on it (R54, R135, R174, R323). -/
def Core.newContext (c : Core) : Core :=
  { c with
    leap := 0, run := 0, sat := 0, nfOut := 0, nfIn := 0, vatCe := 0, vatUe := 0, prsCe := 0, prsUe := 0, eccAddr := none
    vig := List.replicate 9 0, capWas := 0, kat := 0 }

/-- A slot with an accepted image: its context is unrun, slot 0 of every list active and empty (R117, R428). -/
def Slot.create (x : LoadCtx) (host : Byte) : Slot :=
  { Slot.empty with
    loaded := true, image := x.img, imageAt := x.at_, hostSlot := host, bts := btsFresh x.img, shards := x.shardCopies }

/-- ALM_LOAD_COMPLETE: the image is checked; accepted, it is copied into the almanac store and its job context created (R99, R100); a load
waits while the stacks that hold the image or its store do not flow (R226, R227), and for ever once the steward has stopped (R420). A
refused load leaves only its response (R11). -/
def almLoadComplete (o : Own) (b0 : Body) (p : Fin 8) (k : Fin 4) : Body :=
  match (b0.slot p k).loading with
  | none => b0
  | some (at_, size, host, t) =>
    if !b0.stewardUp || !b0.flows o [(at_, size)] || !b0.storeFlows o p then b0 else
    let img := b0.mem.bytes at_ size
    let guest := if host = 0xFF then none else some (b0.slot p (Fin.ofNat 4 host.toNat)).image
    let b := b0.updSlot p k fun s => { s with loading := none }
    match checkImage o b0 p k at_ img guest with
    | .ecc off w => (b.stewardBad o p w).respond o t ftEcc off []
    | .refused off st => b.respond o t st off []
    | .accepted =>
      let x := b0.loadCtx o p at_ img
      let b1 := b.stewardRead o ((at_, size) :: x.shardCopies.map fun h => (h.1, 64))
      let b2 := { b1 with cores := b1.cores.zipIdx.map fun ((c, i) : Core × Nat) =>
          if (hdrOf img).cores.testBit i then c.newContext else c }
      let b3 := b2.updSlot p k fun _ => Slot.create x host
      (b3.storeWritten o (b3.imageArea o p k)).respond o t stOk 0 []

/-- ALM_LOAD_COMPLETE. -/
def execAlmLoadComplete (p : Fin 8) (reads : SlotReads) (s : State) : Result :=
  s.onBody fun o b => almLoadComplete o (b.upset reads.ecc) p reads.slot

/-! ### ALM_UNLOAD (R414, R437) -/

/-- ALM_UNLOAD's rule: the context is torn down; the slot is free once its cores are zeroed. -/
def almUnloadAct (x : Xnx) (o : Own) (b : Body) : Xres :=
  onPart x fun p =>
    let k := slotArg x
    let s := b.slot p k
    if s.loading.isSome then .refused stBusy 0
    else if !s.loaded then .refused stBounds 0
    else
      let b1 := b.teardown o p k ftReset 0xFF 0xFFFF
      .pending o (b1.updSlot p k fun t => { t with loaded := false, unload := some (xTicket x) })

/-- ALM_UNLOAD (R414). -/
def execAlmUnload (x : Xnx) (s : State) : Result := s.xnx 0x0102 x .part (x.len == 0) (decide (x.arg0 < 4)) (almUnloadAct x)

/-- ALM_UNLOAD_COMPLETE: once the context's cores are zeroed (R180, R414). -/
def almUnloadComplete (o : Own) (b : Body) (p : Fin 8) (k : Fin 4) : Body :=
  let s := b.slot p k
  match s.unload with
  | none => b
  | some t => if !b.stewardUp || b.zeroingCores s.image then b else (b.updSlot p k fun _ => Slot.empty).respond o t stOk 0 []

/-- ALM_UNLOAD_COMPLETE. -/
def execAlmUnloadComplete (p : Fin 8) (slot : Fin 4) (s : State) : Result := s.onBody fun o b => almUnloadComplete o b p slot

end Sys2Proof.Machine
end

