-- ==== Sys2Proof/Machine/Power.lean ====
section
/-! DEFINITION. Core clocks, the module power cap, the thermal ladder and the trip (R22 to R29, R225 to R228). Times are
counted in the 10 µs samples that drive them: n samples span n - 1 intervals. -/

namespace Sys2Proof.Machine

open Sys2Proof

/-! ### Module power (R27, R461) -/

/-- The lowest clock of a cap: 1.0 GHz. -/
def clkFloor : Nat := 10

/-- The mean of a list of samples. -/
def meanOf (l : List Nat) : Nat := l.sum / max 1 l.length

/-- The average exceeds the limit: in exact arithmetic over the samples of the window (R27). -/
def overLimit (tdp : Nat) (w : List Nat) : Bool := decide (w.sum > tdp * w.length)
/-- The average is below 97 % of the limit. -/
def under97 (tdp : Nat) (w : List Nat) : Bool := decide (w.sum * 100 < 97 * tdp * w.length)
/-- One sample exceeds 115 % of the limit. -/
def fastStep (tdp watts : Nat) : Bool := decide (watts * 100 > 115 * tdp)

/-- The cap stepped down by a number of 100 MHz units, from the cap in force or the ceiling, not below 1.0 GHz. -/
def capDown (ceil : Nat) (cap : Option Nat) (n : Nat) : Nat := max clkFloor (cap.getD ceil - n)
/-- The cap stepped up by 100 MHz; at the ceiling it is removed (PWR_CAP reads 0 when none is in force, R29). -/
def capUp (ceil c : Nat) : Option Nat := if c + 1 ≥ ceil then none else some (c + 1)

/-- Every core island that is clocked runs at 1.0 GHz. -/
def Body.allAtFloor (b : Body) : Bool := b.cores.all fun (k : Core) => k.clk == 0 || k.clk == clkFloor

/-- A sample taken into the power cap; `floor` says that every core island runs at 1.0 GHz. -/
def PowerCap.sample (c : PowerCap) (tdp ceil watts : Nat) (floor : Bool) : PowerCap :=
  let w := (watts :: c.window).take 100
  let fast := fastStep tdp watts
  { cap := if fast then some (capDown ceil c.cap 3) else c.cap
    window := w
    sinceStep := if fast then 0 else c.sinceStep + 1
    belowCount := if under97 tdp w then c.belowCount + 1 else 0
    floorCount := if overLimit tdp w && floor then c.floorCount + 1 else 0 }

/-- POWER_SAMPLE: PWR_IN, the 1 ms average, and the fast step (R27, R461). The control island runs. -/
def execPowerSample (watts vin iin : W16) (s : State) : Result :=
  s.onBody fun _ b =>
    if b.board.phase = .off then b
    else b.updBoard fun x =>
      let c := x.powerCap.sample x.tdp.toNat x.ceil.toNat watts.toNat b.allAtFloor
      { x with
        powerCap := c
        pwrIn := ⟨BitVec.ofNat 16 (meanOf c.window), if x.pwrIn.peak < watts then watts else x.pwrIn.peak, vin, iin⟩ }

/-- POWER_CAP_STEP_DOWN: while the average exceeds the limit, 100 MHz at most every 100 µs (R27). -/
def execPowerCapStepDown (s : State) : Result :=
  s.onBody fun _ b =>
    let c := b.board.powerCap
    if overLimit b.board.tdp.toNat c.window ∧ (c.cap = none ∨ c.sinceStep ≥ 10) then
      b.updBoard fun x =>
        { x with powerCap := { c with cap := some (capDown x.ceil.toNat c.cap 1), sinceStep := 0 } }
    else b

/-- Before a cap rises, every core that runs at the clock its caps allow keeps the cause that holds it there (R324). -/
def Body.noteCauses (b : Body) : Body :=
  { b with cores := b.cores.map fun (k : Core) =>
      if k.clk = b.clockTarget k ∧ b.capCause k ≠ 0 then { k with clkCause := b.capCause k } else k }

/-- POWER_CAP_STEP_UP: after 1 ms below 97 % of the limit, 100 MHz at most every 100 µs (R27). -/
def execPowerCapStepUp (s : State) : Result :=
  s.onBody fun _ b =>
    let c := b.board.powerCap
    match c.cap with
    | some k =>
      if c.belowCount ≥ 101 ∧ c.sinceStep ≥ 10 then
        b.noteCauses.updBoard fun x => { x with powerCap := { c with cap := capUp x.ceil.toNat k, sinceStep := 0 } }
      else b
    | none => b

/-- A slot's invocation runs: it has started, and is not saved or still to be restored (R428, R437). -/
def Slot.runs (s : Slot) : Bool := s.invoke.isSome && (s.run == .running || s.run == .held || s.run == .stopping)

/-- The slots of every partition whose invocation runs. -/
def Body.invoking (b : Body) : List (Fin 8 × Fin 4) :=
  (List.finRange 8).flatMap fun p => ((List.finRange 4).filter fun k => (b.slot p k).runs).map fun k => (p, k)

/-- A KIND 1 record in the event queue of every partition that exists (R227). -/
def Body.faultAll (o : Own) (b : Body) (status : W16) (src : Nat × Nat) : Body :=
  ((List.finRange 8).filter o.present).foldl (fun b p => b.faultEvent o p status src 0) b

/-- POWER_FLOOR_FAULT: the average has exceeded the limit for 10 ms with every core island at 1.0 GHz: FAULT_THERMAL, and the
teardown of every running invocation on the module (R27, R437). -/
def execPowerFloorFault (s : State) : Result :=
  s.onBody fun o b =>
    if b.board.powerCap.floorCount ≥ 1001 then
      let b1 := b.updBoard fun x => { x with powerCap := { x.powerCap with floorCount := 0 } }
      let b2 := b1.faultAll o ftThermal (4, 0)
      b2.invoking.foldl (fun b r => b.teardown o r.1 r.2 ftThermal 0xFF 0xFFFF) b2
    else b

/-! ### The trip (R227) -/

/-- A module trip: every core island and the media island stop, refresh doubles, FAULT_THERMAL goes to every partition,
vector 0 fires; a module already tripped stays so. -/
def Body.trip (o : Own) (b : Body) (src : Nat × Nat) : Body :=
  if b.board.tripped then b
  else
    let b1 : Body := { b with
      board := { b.board with tripped := true }
      cores := b.cores.map fun (k : Core) => { k with clk := 0, relock := false }
      stks := b.stks.map fun (x : Stack) => { x with doubled := true } }
    (b1.faultAll o ftThermal src).noteModule b

/-! ### The thermal ladder (R225) -/

/-- The lower of the variant ceiling and the present clocks of the cores beneath a stack (R24, R225). -/
def Body.clockUnder (b : Body) (st : Nat) : Nat :=
  ((b.cores.filter fun (k : Core) => (stacksOver k.physical).contains st && k.clk != 0).map fun (k : Core) => k.clk).foldl min
    b.board.ceil.toNat

/-- The counters of a reading: readings taken, latest, largest, and how many in a row lie on each side of a threshold. -/
def Stack.reading (x : Stack) (t : Nat) : Stack :=
  { x with
    valid := true, temp := BitVec.ofNat 8 t, maxT := BitVec.ofNat 8 (max x.maxT.toNat (min t 255)), samples := x.samples + 1,
    sinceCap := x.sinceCap + 1, sinceLim := x.sinceLim + 1,
    sensor := false,
    below83 := if t < 83 then x.below83 + 1 else 0, below90 := if t < 90 then x.below90 + 1 else 0,
    below93 := if t < 93 then x.below93 + 1 else 0, above92 := if t ≥ 92 then x.above92 + 1 else 0,
    above95 := if t ≥ 95 then x.above95 + 1 else 0 }

/-- The steps a reading takes at once: doubled refresh at 85, the cap at 92, the traffic limit at 95; a step already in
force stays as it is. -/
def Stack.ladder (x : Stack) (t under : Nat) : Stack :=
  let x1 := if t ≥ 85 then { x with doubled := true } else x
  let x2 := if t ≥ 92 ∧ x1.cap = none then { x1 with cap := some (max clkFloor (under - 1)), sinceCap := 0 } else x1
  if t ≥ 95 ∧ x2.limit = 0 then { x2 with limit := 1, sinceLim := 0 } else x2

/-- STACK_TEMP_SAMPLE: the reading and the steps it takes; 100 degrees trips the module (R225, R227). -/
def tempSample (o : Own) (b : Body) (st : Fin 24) (t : Nat) : Body :=
  let u := b.clockUnder st.val
  let b1 := (b.updStack st fun x => (x.reading t).ladder t u).noteModule b
  if t ≥ 100 then b1.trip o (2, st.val) else b1

/-- STACK_TEMP_SAMPLE. -/
def execStackTempSample (st : Fin 24) (temp : Nat) (s : State) : Result :=
  s.onBody fun o b => if b.board.phase = .off then b else tempSample o b st temp

/-- THERMAL_CAP_LOWER: each further 100 µs at or above 92 degrees, down to 1.0 GHz (R225); a stack with a sensor fault
counts as at 95 degrees, and has no samples to count by (R228). -/
def execThermalCapLower (st : Fin 24) (s : State) : Result :=
  s.onBody fun _ b => b.updStack st fun x =>
    match x.cap with
    | some c =>
      if x.sensor ∨ (x.above92 ≥ 11 ∧ x.sinceCap ≥ 10) then { x with cap := some (max clkFloor (c - 1)), sinceCap := 0 } else x
    | none => x

/-- TRAFFIC_LIMIT_HALVE: each further 100 µs at or above 95 degrees, or of a sensor fault, down to 12.5 % (R225, R228). -/
def execTrafficLimitHalve (st : Fin 24) (s : State) : Result :=
  s.onBody fun _ b => b.updStack st fun x =>
    if x.limit ≠ 0 ∧ x.limit.toNat < 3 ∧ (x.sensor ∨ (x.above95 ≥ 11 ∧ x.sinceLim ≥ 10)) then
      { x with limit := x.limit + 1, sinceLim := 0 }
    else x

/-- REFRESH_RATE_RELEASE: after 1 ms below 83 degrees; a tripped module keeps the doubled rate (R225, R227). -/
def execRefreshRateRelease (st : Fin 24) (s : State) : Result :=
  s.onBody fun _ b => b.updStack st fun x =>
    if x.below83 ≥ 101 ∧ !b.board.tripped then { x with doubled := false } else x

/-- THERMAL_CAP_RISE: after 1 ms below 90 degrees the cap rises 100 MHz every 100 µs and is removed at the ceiling. -/
def execThermalCapRise (st : Fin 24) (s : State) : Result :=
  s.onBody fun _ b => b.noteCauses.updStack st fun x =>
    match x.cap with
    | some c => if x.below90 ≥ 101 ∧ x.sinceCap ≥ 10 then { x with cap := capUp b.board.ceil.toNat c, sinceCap := 0 } else x
    | none => x

/-- TRAFFIC_LIMIT_RELEASE: after 1 ms below 93 degrees the limit doubles every 100 µs until it is removed (R225). -/
def execTrafficLimitRelease (st : Fin 24) (s : State) : Result :=
  s.onBody fun _ b =>
    (b.updStack st fun x =>
      if x.limit ≠ 0 ∧ x.below93 ≥ 101 ∧ x.sinceLim ≥ 10 then { x with limit := x.limit - 1, sinceLim := 0 } else x).noteModule b

/-- STACK_SENSOR_FAULT: three samples in a row unread, or an invalid reading: the stack is treated as at 95 degrees, and
STEP shows the fault until a valid reading (R228). -/
def sensorFault (b : Body) (st : Fin 24) : Body :=
  let u := b.clockUnder st.val
  (b.updStack st fun x =>
    { (x.ladder 95 u) with valid := false, sensor := true, below83 := 0, below90 := 0, below93 := 0 }
  ).noteModule b

/-- STACK_SENSOR_FAULT. -/
def execStackSensorFault (st : Fin 24) (s : State) : Result :=
  s.onBody fun _ b => if b.board.phase = .off then b else sensorFault b st

/-- STACK_SENSOR_TIMEOUT: a stack with a sensor fault has given no valid reading within 1 ms: the module trips (R228). -/
def execStackSensorTimeout (st : Fin 24) (s : State) : Result :=
  s.onBody fun o b => if (b.stack st).sensor then b.trip o (2, st.val) else b

/-- SRC_KIND and SRC_INDEX of a junction sensor's island. -/
def junctionSrc : Junction → Nat × Nat
  | .core c => (0, c.val)
  | .quadrant q => (1, q.val)

/-- JUNCTION_TRIP: a reading of 105 degrees or above trips the module (R26). -/
def execJunctionTrip (j : Junction) (temp : Nat) (s : State) : Result :=
  s.onBody fun o b =>
    let b1 := b.updBoard fun x => { x with junction := temp }
    if temp ≥ 105 ∧ b.board.phase ≠ .off then b1.trip o (junctionSrc j) else b1

/-! ### Core clocks (R22) -/

/-- A matrix-engine tile of the core is within its span (R84). -/
def Core.tileBusy (c : Core) : Bool :=
  match c.cx.tile with
  | some t => t.running
  | none => false

/-- CORE_CLOCK_CHANGE: at a tile boundary the core takes the clock its caps allow, and its PLL relocks; a core that
already runs at it, or an unclocked one, is left (R22, R25). The pause is laid to the cause whose cap brought the change about: the
one that lowered it, or the one that held the core at its clock and rose (R324). -/
def execCoreClockChange (core : Fin 32) (s : State) : Result :=
  s.onBody fun _ b =>
    let c := b.core core
    let t := b.clockTarget c
    let now := b.capCause c
    if c.clk = 0 ∨ c.clk = t ∨ c.tileBusy then b
    else b.updCore core fun k =>
      { k with clk := t, relock := true, clkCause := now, relockWhy := if c.clk < t ∧ k.clkCause ≠ 0 then k.clkCause else now }

/-- PLL_RELOCK_DONE: the core goes on with no state lost (R22). -/
def execPllRelockDone (core : Fin 32) (s : State) : Result :=
  s.onBody fun _ b => b.updCore core fun k => { k with relock := false }

end Sys2Proof.Machine
end

