-- ==== Sys2Proof/Machine/Sequencer.lean ====
section
/-! DEFINITION. The sequencer's own entries, its bounds and pre-emption points, and the known-answer tile in service (R118, R125,
R128, R130, R133, R147, R272, R473). -/

namespace Sys2Proof.Machine

open Sys2Proof

/-- An event's count in an invocation (R126). -/
def Slot.count (s : Slot) (evt : Nat) : Nat := s.events.getD evt 0

/-! ### WAIT and SIGNAL -/

/-- WAIT: passes at once when its event has reached ARG, else blocks the sequencer (R125). -/
def waitIssue (b : Body) (c : Fin 32) : Body :=
  match b.nextAe c kWait with
  | none => b
  | some (x, e) =>
    b.updCx c fun k =>
      if e.arg ≤ (b.slot x.part x.slot).count e.evt then k.advance
      else { k.advance with waiting := some { Launched.new k e with ref := e.arg }, fabSeen := false }

/-- WAIT. -/
def execWait (core : Fin 32) (s : State) : Result := s.onBody fun o b => b.issuing o core fun b => waitIssue b core

/-- WAIT_RELEASE: the blocking WAIT's event has reached ARG (R125). -/
def waitRelease (b : Body) (c : Fin 32) : Body :=
  match b.holds c, (b.core c).cx.waiting with
  | some x, some w =>
    let s := b.slot x.part x.slot
    if s.run = .running ∧ w.ref ≤ s.count w.evt.toNat then b.updCx c fun k => { k with waiting := none } else b
  | _, _ => b

/-- WAIT_RELEASE. -/
def execWaitRelease (core : Fin 32) (s : State) : Result := s.onBody fun _ b => waitRelease b core

/-- SIGNAL: increments its event and completes at issue (R125). -/
def signalIssue (b : Body) (c : Fin 32) : Body :=
  match b.nextAe c kSignal with
  | none => b
  | some (x, e) => (b.updCx c CoreCtx.advance).updSlot x.part x.slot (·.event e.evt)

/-- SIGNAL. -/
def execSignal (core : Fin 32) (s : State) : Result := s.onBody fun o b => b.issuing o core fun b => signalIssue b core

/-! ### BT_COMMIT (R118, R120) -/

/-- A list whose committed slot is now active. -/
def BtList.swapped (l : BtList) : BtList := { l with slot1 := !l.slot1, empty := false, swap := false }

/-- The outcome of a BT_COMMIT's walk that failed at an entry. -/
def btFailed (o : Own) (b : Body) (x : CtxId) (c : Fin 32) (id i : Nat) : Body :=
  let b1 := b.updSlot x.part x.slot (·.updBt id fun l => { l with empty := true })
  (b1.updCx c fun k => { k with btref := true }).appendEvent o x.part
    (faultRecord 2 stBounds (0, c.val) (id * 2 ^ 32 + i) b1.fab.time)

/-- A BT_COMMIT entry that has been issued: it walks the slot or makes the pending swap, and completes. -/
def btCommitRun (o : Own) (b : Body) (x : CtxId) (c : Fin 32) (r : BtRec) (idx : Nat) : Body :=
  let l := (b.slot x.part x.slot).bt r.id
  let swapNow (b : Body) : Body := (b.updSlot x.part x.slot (·.updBt r.id BtList.swapped)).complete x c idx
  if l.swap then swapNow b
  else
    let at_ := r.inactive l
    let reached := btReached b.mem r at_ r.maxEnt 0
    let b1 := b.correctedIn o (btReads at_ reached)
    match btUnread o b.mem at_ reached, btWalk b.mem r at_ r.maxEnt 0 with
    | some w, _ => b.readBad o (entryOf x c idx) w.2
    | none, some i => (btFailed o b1 x c r.id i).complete x c idx
    | none, none => swapNow b1

/-- BT_COMMIT_ENTRY. -/
def btCommitIssue (o : Own) (b : Body) (c : Fin 32) : Body :=
  match b.nextAe c kBtCommit with
  | none => b
  | some (x, e) =>
    let idx := (b.core c).cx.aeIdx.toNat
    if !b.mayLaunch c then b
    else
      let b1 := b.updCx c fun k => k.launch e
      match btFind (b.imageOf x) e.arg with
      | none => b1.complete x c idx
      | some r => btCommitRun o b1 x c r idx

/-- BT_COMMIT_ENTRY (R118, R120). -/
def execBtCommitEntry (core : Fin 32) (s : State) : Result := s.onBody fun o b => b.issuing o core fun b => btCommitIssue o b core

/-! ### SLOT and END -/

/-- SLOT: completes at once; with a guest pending whose invocation may start, the training invocation is then pre-empted and the guest
waits for its cores; one that may not start is refused here, before any effect of it (R11, R253, R272). -/
def slotIssue (o : Own) (b : Body) (c : Fin 32) : Body :=
  match b.nextAe c kSlot with
  | none => b
  | some (x, e) =>
    let b1 := (b.updCx c CoreCtx.advance).updSlot x.part x.slot (·.event e.evt)
    match b.guestWaiting x.part x.slot with
    | none => b1
    | some g =>
      let t := b.slot x.part g
      if startRefused o b x.part g then
        (b1.updSlot x.part g fun t => { t with guest := none }).respondEach o t.guest.toList stBounds
          (invokeResult stBounds t.decision false 0xFF 0xFFFF)
      else
        ((askStop (b1.updCx c fun k => { k with seq := .preempted }) x.part x.slot).updSlot x.part x.slot fun s =>
          { s with underGuest := some g }).updSlot x.part g fun t =>
            { t with run := .restoring, resuming := false, invoke := t.guest, guest := none }

/-- SLOT. -/
def execSlot (core : Fin 32) (s : State) : Result := s.onBody fun o b => b.issuing o core fun b => slotIssue o b core

/-- END is issued: it waits for the entries before it. -/
def endIssue (b : Body) (c : Fin 32) : Body :=
  match b.nextAe c kEnd with
  | none => b
  | some _ => b.updCx c CoreCtx.advance

/-- END. -/
def execEnd (core : Fin 32) (s : State) : Result := s.onBody fun o b => b.issuing o core fun b => endIssue b core

/-- An END has been issued and every earlier entry of its list has completed. -/
def CoreCtx.listDone (k : CoreCtx) (img : List Byte) (c : Nat) : Bool :=
  k.seq == .running && k.waiting.isNone && !k.ended && k.aeIdx.toNat == aeCount img c && k.launched == [] && k.outs == []

/-- END_COMPLETE: the press-side harvest unit flushes (R152), END's event increments, the list has ended (R125). -/
def endComplete (o : Own) (b : Body) (c : Fin 32) : Body :=
  match b.holds c with
  | none => b
  | some x =>
    let s := b.slot x.part x.slot
    let k := (b.core c).cx
    let e := aeOf s.image c.val (k.aeIdx.toNat - 1)
    if (s.run = .running ∨ s.run = .stopping) ∧ k.listDone s.image c.val ∧ e.kind = kEnd ∧ b.flushFlows o x.part c then
      ((b.flushCore o x.part c).updCx c fun k => { k with flushes := [], ended := true }).updSlot x.part x.slot (·.event e.evt)
    else b

/-- END_COMPLETE. -/
def execEndComplete (core : Fin 32) (s : State) : Result := s.onBody fun o b => endComplete o b core

/-! ### Bounds (R128, R130) -/

/-- A stack used by a partition holds traffic (R130). -/
def Body.throttled (o : Own) (b : Body) (p : Fin 8) : Bool := (o.stacksOf p).any fun n => (b.stks.getD n Stack.reset).limit != 0

/-- The launched entry, or the blocking WAIT, with an index. -/
def CoreCtx.timed (k : CoreCtx) (ae : Nat) : Option Launched := (k.launched ++ k.waiting.toList).find? (·.idx == ae)

/-- Steps 1 to 3 of an overrun: OVR and the first record of the core, the fault's event record, the halt (R130, R411). -/
def overrunMark (o : Own) (x : CtxId) (b : Body) (c : Fin 32) (l : Launched) : Body :=
  let b1 := b.updCx c fun k =>
    let first := !k.ovr
    { k with
      ovr := true
      ovrAe := if first then BitVec.ofNat 16 l.idx else k.ovrAe
      ovrKind := if first then l.kind else k.ovrKind
      ovrThr := if first then l.thr || b.throttled o x.part else k.ovrThr
      seq := .halted }
  b1.faultEvent o x.part ftOverrun (0, c.val) l.idx

/-- The other entries of a context whose counters have passed their BOUND too: core and entry. -/
def Body.overrunsBeside (b : Body) (x : CtxId) (c : Fin 32) (ae : Nat) : List (Fin 32 × Launched) :=
  (List.finRange 32).flatMap fun d =>
    if (b.core d).ctx = some x then
      ((b.core d).cx.launched ++ (b.core d).cx.waiting.toList).filterMap fun (l : Launched) =>
        if l.bound < l.counter ∧ !(d == c && l.idx == ae) then some (d, l) else none
    else []

/-- The tile in a halted core's engines finishes: its lane results, overflow flag and counts, then the write-outs before it and its own
(R130). -/
def finishTile (o : Own) (b : Body) (c : Fin 32) : Body :=
  let b1 := tileComplete o b c
  (List.range (b1.core c).cx.outs.length).foldl (fun b _ => writeOut o b c) b1

/-- BOUND_OVERRUN: the entry overruns, and with it every other entry of the job that has passed its bound by then: each has its
event record; the one teardown carries the first fault (R130, R437). -/
def boundOverrun (o : Own) (b : Body) (c : Fin 32) (ae : Nat) : Body :=
  match (b.core c).ctx, (b.core c).cx.timed ae with
  | some x, some l =>
    if l.bound < l.counter then
      let hits := (c, l) :: b.overrunsBeside x c ae
      let b1 := hits.foldl (fun b r => overrunMark o x b r.1 r.2) b
      ((hits.map (·.1)).eraseDups.foldl (finishTile o) b1).teardown o x.part x.slot ftOverrun (BitVec.ofNat 8 c.val) (BitVec.ofNat 16 ae)
    else b
  | _, _ => b

/-- BOUND_OVERRUN. -/
def execBoundOverrun (core : Fin 32) (ae : Nat) (s : State) : Result := s.onBody fun o b => boundOverrun o b core ae

/-! ### Pre-emption points (R133) -/

/-- No tile of the core is within its span and no write-out is under way. -/
def CoreCtx.quiet (k : CoreCtx) : Bool := !(k.tile.any (·.running)) && k.outs == []

/-- PREEMPTION_POINT: a core of a pre-empted invocation stops; a VEC entry stops before a row (R133, R147). -/
def preemptionPoint (o : Own) (b : Body) (c : Fin 32) (vecRow : Nat) : Body :=
  match (b.core c).ctx with
  | none => b
  | some x =>
    let k := (b.core c).cx
    if (b.slot x.part x.slot).run = .stopping ∧ k.seq = .running ∧ k.quiet then
      let b1 := vecStop o b c x vecRow
      if (b1.core c).ctx = some x then b1.updCx c fun k => { k with seq := .preempted } else b1
    else b

/-- PREEMPTION_POINT. -/
def execPreemptionPoint (core : Fin 32) (vecRow : Nat) (s : State) : Result := s.onBody fun o b => preemptionPoint o b core vecRow

/-! ### The known-answer tile in service (R473) -/

/-- A core is withdrawn: RST_CAUSE.CORE_OUT and the record in the steward's cave region (R474). -/
def Body.withdrawCore (b : Body) (c : Fin 32) : Body :=
  b.updBoard fun x => { x with cause := { x.cause with coreOut := x.cause.coreOut ||| BitVec.ofNat 32 (2 ^ c.val) } }

/-- KAT_TILE: for 2,048 core cycles the core counts as pre-empted; a failing core is withdrawn and its partition is reset (R80, R437,
R473). -/
def katTile (o : Own) (b : Body) (c : Fin 32) (pass : Bool) : Body :=
  let k := b.core c
  if b.board.phase ≠ .ready ∨ k.clk = 0 ∨ k.relock ∨ k.kat ≠ 0 ∨ !k.cx.quiet ∨ b.board.cause.coreOut.toNat.testBit c.val then b
  else
    let b1 := b.updCore c fun k => { k with kat := 2048 }
    if pass then b1
    else
      let b2 := b1.withdrawCore c
      match o.coreOwner c.val with
      | some p => b2.faultPartition o p ftKat (0, c.val) k.cx.aeIdx.toNat
      | none => b2

/-- KAT_TILE. -/
def execKatTile (core : Fin 32) (pass : Bool) (s : State) : Result := s.onBody fun o b => katTile o b core pass

end Sys2Proof.Machine
end

