-- ==== Sys2Proof/Machine/Firmware.lean ====
section
/-! DEFINITION. Firmware distribution, commit, and steward-to-steward messages (R299, R321, R476 to R483). -/

namespace Sys2Proof.Machine

open Sys2Proof

/-- Bytes of a chunk (R478). -/
def chunkBytes : Nat := 4032

/-- The image slot that staging writes: the one that is not running (R476). -/
def Board.inactive (x : Board) : Nat := if x.cause.image then 0 else 1

/-- Change the firmware distribution state. -/
def Body.updFw (b : Body) (f : Fw → Fw) : Body := b.updBoard fun x => { x with fw := f x.fw }

/-- The inactive slot as given. -/
def Body.setImage (b : Body) (i : FwImage) : Body :=
  b.updBoard fun x => { x with flash := { x.flash with images := x.flash.images.set x.inactive i } }

/-- Staging or verifying is in progress. -/
def Fw.busy (f : Fw) : Bool := f.phase == .receiving || f.phase == .verifying

/-- Chunks of an image of n bytes. -/
def chunkCount (n : Nat) : Nat := ceilDiv n chunkBytes
/-- Bytes of chunk i. -/
def Fw.chunkLen (f : Fw) (i : Nat) : Nat := min chunkBytes (f.bytes - i * chunkBytes)
/-- Every chunk has arrived. -/
def Fw.full (f : Fw) : Bool := (List.range f.chunks).all f.got.contains

/-- The ranks of this module's children (R478). -/
def Fw.children (f : Fw) : List Nat :=
  ((List.range f.fanout).map fun i => f.fanout * f.rank + 1 + i).filter fun r => decide (r < f.tree.length)
/-- The parent's rank. -/
def Fw.parent (f : Fw) : Nat := (f.rank - 1) / f.fanout

/-- The body of a chunk message (R478). -/
def Fw.chunkBody (f : Fw) (i : Nat) (data : List Byte) : List Byte :=
  leBytes 4 f.imageId.toNat ++ leBytes 4 i ++ leBytes 8 (crc64 data).toNat ++ List.replicate 48 0 ++ data

/-- Send one chunk to a device. -/
def Body.sendChunk (b : Body) (dev : BitVec 12) (part : Fin 8) (i : Nat) (data : List Byte) : Body :=
  b.route none (mgmtMsg b 2 dev part (b.board.fw.chunkBody i data))

/-- Send one chunk to every child. -/
def Body.toChildren (b : Body) (i : Nat) (data : List Byte) : Body :=
  b.board.fw.children.foldl (fun (b : Body) r => b.sendChunk (b.board.fw.tree.getD r 0) 0 i data) b

/-! ### FW_STAGE, FW_STATUS, FW_COMMIT -/

/-- FW_STAGE's arguments in range: IMAGE_ID, BYTES, TREE_N, FANOUT (R477). -/
def stageInRange (x : Xnx) : Bool :=
  xArg x 0 4 != 0 && decide (4096 ≤ xArg x 4 4) && decide (xArg x 4 4 ≤ 33554432) && xArg x 4 4 % 64 == 0 &&
    decide (1 ≤ xArg x 8 2) && decide (xArg x 8 2 ≤ 4096) && decide (1 ≤ xArg x 0xA 1) && decide (xArg x 0xA 1 ≤ 8)

/-- The distribution state as staging begins. -/
def Fw.begin (f : Fw) (x : Xnx) (tree : List (BitVec 12)) : Fw :=
  { f with
    phase := .receiving, imageId := BitVec.ofNat 32 (xArg x 0 4), bytes := xArg x 4 4, tree := tree.take (xArg x 8 2)
    fanout := xArg x 0xA 1, rank := x.arg0, deadline := xArg x 0x20 8, chunks := chunkCount (xArg x 4 4), got := []
    data := [], repaired := 0, version := 0, asked := none, toRoot := false
    commit := f.commit.filter fun c => c.2 == 0
    ticket := some (xTicket x) }

/-- Rank 0 has the whole image: every chunk is stored and sent, in index order (R478). -/
def Body.sourceImage (b : Body) (image : List Byte) : Body :=
  let n := b.board.fw.chunks
  let img := (image ++ List.replicate b.board.fw.bytes 0).take b.board.fw.bytes
  let cs := (List.range n).map fun i => (i, (img.drop (i * chunkBytes)).take chunkBytes)
  let b1 := cs.foldl (fun (b : Body) c => b.toChildren c.1 c.2) b
  b1.updFw fun f => { f with phase := .verifying, got := List.range n, data := cs }

/-- FW_STAGE's rule. -/
def fwStageAct (x : Xnx) (tree : List (BitVec 12)) (image : List Byte) (o : Own) (b : Body) : Xres :=
  if xArg x 0xB 5 ≠ 0 ∨ (x.arg0 ≠ 0 ∧ xArg x 0x18 8 ≠ 0) then .refused stFormat 0
  else if !stageInRange x ∨ xArg x 8 2 ≤ x.arg0 ∨ b.fab.devId.isNone ∨ tree[x.arg0]? ≠ b.fab.devId ∨
      xArg x 0x20 8 < b.fab.time then .refused stBounds 0
  else if b.board.fw.busy then .refused stBusy 0
  else
    let b1 := ((b.setImage ⟨false, 0⟩).updFw fun f => f.begin x tree).updBoard fun y => { y with fwStaged := 0 }
    .pending o (if x.arg0 = 0 then b1.sourceImage image else b1)

/-- FW_STAGE (R477). -/
def execFwStage (x : Xnx) (tree : List (BitVec 12)) (image : List Byte) (s : State) : Result :=
  s.xnx 0x0701 x .module (x.len == 40) true (fwStageAct x tree image)

/-- FW_STATUS's rule. -/
def fwStatusAct (o : Own) (b : Body) : Xres := .done o b stOk 0 (fwStatusBytes b.board)

/-- FW_STATUS (R481). -/
def execFwStatus (x : Xnx) (s : State) : Result := s.xnx 0x0702 x .module (x.len == 0) (x.arg0 == 0) fwStatusAct

/-- Some invocation on the module runs or is pre-empted. -/
def Body.anyInvocation (b : Body) : Bool := b.parts.any fun (p : Part) => p.slots.any fun (s : Slot) => s.invoke.isSome

/-- FW_COMMIT's rule (R482). -/
def fwCommitAct (x : Xnx) (o : Own) (b : Body) : Xres :=
  let id := xArg x 0 4
  let flags := xArg x 4 4
  let at_ := xArg x 8 8
  if flags ≥ 2 then .refused stFormat 0
  else if (id ≠ 0 ∧ !(b.board.fw.phase == .staged && b.board.fw.imageId.toNat == id)) ∨ b.fab.time + 10000000000 < at_ ∨
      (at_ ≠ 0 ∧ !b.fab.locked) then .refused stBounds 0
  else if b.anyInvocation ∧ flags = 0 then .refused stBusy 0
  else .done o (b.updFw fun f => { f with commit := some (at_, BitVec.ofNat 32 id) }) stOk 0 []

/-- FW_COMMIT (R482). -/
def execFwCommit (x : Xnx) (s : State) : Result := s.xnx 0x0703 x .module (x.len == 16) (x.arg0 == 0) (fwCommitAct x)

/-- FW_COMMIT_ACTIVATE: at AT the image-select record names the new slot, on trial, and a warm reset is taken (R483). -/
def fwActivate (b : Body) : Body :=
  match b.board.fw.commit with
  | none => b
  | some (at_, id) =>
    if b.board.phase = .ready ∧ b.board.modRef ∧ at_ ≤ b.fab.time then
      let b1 := b.updFw fun f => { f with commit := none }
      let b2 := if id = 0 then b1
        else b1.updBoard fun x => { x with flash := { x.flash with select := !x.cause.image, trial := true, trialBoots := 0 } }
      b2.requestWarm .fwCommit
    else b

/-- FW_COMMIT_ACTIVATE. -/
def execFwCommitActivate (s : State) : Result := s.onBody fun _ b => fwActivate b

/-! ### Chunks and repair (R478, R479) -/

/-- A chunk message that staging takes: its IMAGE_ID, a place in the image, its length, its CRC. -/
def Fw.takes (f : Fw) (m : Msg) : Bool :=
  let i := field m.data 4 4
  let data := m.data.drop 0x40
  f.phase == .receiving && decide (field m.data 0 4 = f.imageId.toNat) && decide (i < f.chunks) &&
    decide (data.length = f.chunkLen i) && decide (field m.data 8 8 = (crc64 data).toNat)

/-- Ask a rank for chunks. -/
def Body.askChunks (b : Body) (rank : Nat) (cs : List Nat) : Body :=
  let f := b.board.fw
  (b.route none (mgmtMsg b 3 (f.tree.getD rank 0) 0 (leBytes 4 f.imageId.toNat ++ cs.flatMap (leBytes 4)))).updFw fun f =>
    { f with asked := some (rank, cs) }

/-- The first 256 chunks that are missing. -/
def Fw.missing (f : Fw) : List Nat := ((List.range f.chunks).filter fun i => !f.got.contains i).take 256

/-- A new chunk is stored. -/
def Fw.keep (f : Fw) (i : Nat) (data : List Byte) (repair : Bool) : Fw :=
  { f with
    got := f.got ++ [i], data := f.data ++ [(i, data)], repaired := if repair then f.repaired + 1 else f.repaired
    asked := f.asked.map fun (a : Nat × List Nat) => (a.1, a.2.filter (· != i)) }

/-- A chunk for this device: forwarded once and stored; the last one begins verification; a request wholly answered is
followed by the next (R478, R479 step 2). -/
def chunkHere (m : Msg) (repair : Bool) (b : Body) : Body :=
  let i := field m.data 4 4
  let data := m.data.drop 0x40
  if !b.stewardRuns ∨ !b.board.fw.takes m ∨ b.board.fw.got.contains i then b
  else
    let b1 := (b.toChildren i data).updFw fun f => f.keep i data repair
    if b1.board.fw.full then b1.updFw fun f => { f with phase := .verifying, asked := none }
    else
      match b1.board.fw.asked with
      | some (r, []) => b1.askChunks r b1.board.fw.missing
      | _ => b1

/-- FIRMWARE_CHUNK (R478). -/
def execFirmwareChunk (link : Fin 24) (m : Msg) (repair : Bool) (s : State) : Result :=
  s.onBody fun _ b => b.arriveMgmt link m 2 (chunkHere m repair)

/-- FW_REPAIR_TIMEOUT: nothing has arrived for 5 ms: ask the parent, or repeat an unanswered request to rank 0 (R479). -/
def fwRepair (b : Body) : Body :=
  let f := b.board.fw
  if !b.stewardRuns ∨ f.phase ≠ .receiving then b
  else
    match f.asked with
    | some (_, cs) => (b.updFw fun f => { f with toRoot := true }).askChunks 0 cs
    | none => b.askChunks (if f.toRoot then 0 else f.parent) f.missing

/-- FW_REPAIR_TIMEOUT. -/
def execFwRepairTimeout (s : State) : Result := s.onBody fun _ b => fwRepair b

/-- A repair request: every chunk of the same image that this rank holds is sent back, until DEADLINE (R479 step 4). -/
def answerRepair (m : Msg) (id : W32) (cs : List Nat) (b : Body) : Body :=
  let f := b.board.fw
  if !b.stewardRuns ∨ f.imageId ≠ id ∨ f.deadline < b.fab.time then b
  else
    (f.data.filter fun (d : Nat × List Byte) => cs.contains d.1).foldl
      (fun (b : Body) (d : Nat × List Byte) => b.sendChunk m.srcDev m.srcPart d.1 d.2) b

/-- STEWARD_MESSAGE (R299): a repair request, an abort notice (R321), or another content, which changes nothing here. -/
def execStewardMessage (link : Fin 24) (m : Msg) (body : StewardMsg) (s : State) : Result :=
  s.onBody fun o b => b.arriveMgmt link m 3 fun b =>
    match body with
    | .repairRequest id cs => answerRepair m id cs b
    | .abortNotice => abortNotice o link m.dstPart b
    | .other => b

/-! ### Verification and deadline (R480) -/

/-- Staging ends with a status. -/
def stageEnd (o : Own) (b : Body) (status : W16) (phase : FwPhase) : Body :=
  let t := b.board.fw.ticket
  let b1 := b.updFw fun f => { f with phase := phase, last := status, asked := none, ticket := none }
  match t with
  | some t => b1.respond o t status 0 []
  | none => b1

/-- FW_VERIFY_COMPLETE: digest, signature and version floor (R446, R480). -/
def fwVerify (o : Own) (b : Body) (version : W32) (sigOk : Bool) : Body :=
  if !b.stewardRuns ∨ b.board.fw.phase ≠ .verifying then b
  else if sigOk ∧ b.board.policy.floor.toNat ≤ version.toNat then
    let b1 := ((b.setImage ⟨true, version⟩).updFw fun f => { f with version := version }).updBoard fun x =>
      { x with fwStaged := version }
    stageEnd o b1 stOk .staged
  else stageEnd o b stAuth .idle

/-- FW_VERIFY_COMPLETE. -/
def execFwVerifyComplete (version : W32) (sigOk : Bool) (s : State) : Result := s.onBody fun o b => fwVerify o b version sigOk

/-- FW_DEADLINE: an image not verified by DEADLINE is abandoned (R480). -/
def fwDeadline (o : Own) (b : Body) : Body :=
  if b.stewardRuns ∧ b.board.fw.busy ∧ b.board.fw.deadline ≤ b.fab.time then stageEnd o b stIncomplete .idle else b

/-- FW_DEADLINE. -/
def execFwDeadline (s : State) : Result := s.onBody fun o b => fwDeadline o b

end Sys2Proof.Machine
end

