-- ==== Sys2Proof/Machine/Host.lean ====
section
/-! DEFINITION. The host ports: configuration, window, BAR0 writes, semaphores, port events (R383 to R397, R420). -/

namespace Sys2Proof.Machine

open Sys2Proof

/-! ### Semaphores -/

/-- A port may take a semaphore: SEM(p + 1) only when partition p exists and its record allows the port (R395). -/
def mayAcquire (o : Own) (q : Port) (n : Fin 32) : Bool :=
  if h : 1 ≤ n.val ∧ n.val ≤ 8 then
    let p : Fin 8 := ⟨n.val - 1, by omega⟩
    o.present p && (o.prec p).block.ports.toNat.testBit (portIx q)
  else true

/-- A semaphore taken. -/
def Own.take (o : Own) (n : Nat) (q : Port) (token : W16) : Own := o.updSem n fun _ => ⟨true, q, token⟩
/-- A semaphore freed; PORT and TOKEN read zero (log entry 10). -/
def Own.free (o : Own) (n : Nat) : Own := o.updSem n fun _ => ⟨false, .a, 0⟩
/-- Count contention, stopping at the maximum (R396). -/
def Own.contend (o : Own) (k : Nat) : Own := { o with cont := satAdd o.cont k }

/-- One ACQUIRE alone (R395, R396): refused and counted in XPORT, contended, or taken. -/
def acquireOne (o : Own) (b : Body) (q : Port) (n : Fin 32) (token : W16) : Own × Body :=
  if !mayAcquire o q n then (o, b.xport)
  else if (o.sem n.val).held then (o.contend 1, b)
  else (o.take n.val q token, b)

/-- SEM_ACQUIRE: one port's ACQUIRE, or both ports' in one cycle, where the port named by PRIO wins a contest for a free
semaphore and PRIO inverts (R396). -/
def acquire (o : Own) (b : Body) (q : Port) (n : Fin 32) (token : W16) (rival : Option W16) : Own × Body :=
  if !(b.port q).linkUp then (o, b)
  else if !b.hostServed then (o, b.xport)
  else
    match if (b.port (otherPort q)).linkUp then rival else none with
    | none => acquireOne o b q n token
    | some t2 =>
      let q2 := otherPort q
      if mayAcquire o q n && mayAcquire o q2 n && !(o.sem n.val).held then
        let win := o.prio
        let tok := if win = q then token else t2
        ({ (o.take n.val win tok).contend 1 with prio := otherPort win }, b)
      else
        let r := acquireOne o b q n token
        acquireOne r.1 r.2 q2 n t2

/-- SEM_ACQUIRE. -/
def execSemAcquire (port : Port) (sem : Fin 32) (token : W16) (rival : Option W16) (s : State) : Result :=
  s.both fun o b => acquire o b port sem token rival

/-- A mailbox cleared: OWNER and PEND 0, both areas zero; DONE and DROPPED stand (R397 step 2). -/
def Mailbox.cleared (m : Mailbox) : Mailbox := { m with cmd := [], resp := [], pend := false, owner := false }

/-- Clear a partition's four mailboxes; a GO of theirs that waits is gone (R397 step 2). -/
def Body.clearMail (b : Body) (pg : Page) : Body :=
  { b with
    mail := b.mail.modify (pageIx pg) fun l => l.map Mailbox.cleared
    gos := b.gos.filter fun g =>
      match g with
      | .mailbox q _ => q != pg
      | .sideBand => true }

/-- What a release does beside freeing the semaphore: for SEM(p + 1) the partition reset, the mailboxes cleared, the
event queue emptied, in this order; for SEM00 and SEM09 to SEM31 nothing (R397). -/
def releaseEffects (o : Own) (b : Body) (n : Fin 32) : Body :=
  if h : 1 ≤ n.val ∧ n.val ≤ 8 then
    let p : Fin 8 := ⟨n.val - 1, by omega⟩
    ((b.partitionReset o p).clearMail (.part p)).updPart p fun x => { x with events := [], lost := 0 }
  else b

/-- Release a semaphore whatever its token. -/
def releaseSem (o : Own) (b : Body) (n : Fin 32) : Own × Body :=
  let o' := o.free n.val
  (o', releaseEffects o' b n)

/-- SEM_RELEASE: frees the semaphore only for the holding port with the holding token (R396). -/
def execSemRelease (port : Port) (sem : Fin 32) (token : W16) (s : State) : Result :=
  s.both fun o b =>
    if !(b.port port).linkUp then (o, b)
    else if !b.hostServed then (o, b.xport)
    else
      let x := o.sem sem.val
      if x.held && x.port == port && x.token == token then releaseSem o b sem else (o, b)

/-- Release every semaphore a port holds (R397). -/
def releasePort (o : Own) (b : Body) (q : Port) : Own × Body :=
  (List.finRange 32).foldl (fun r n =>
    if (r.1.sem n.val).held && (r.1.sem n.val).port == q then releaseSem r.1 r.2 n else r) (o, b)

/-! ### Port events -/

/-- A port's configuration space, MSI-X table and responder as a port reset leaves them. -/
def PortState.resetConfig (s : PortState) : PortState :=
  { s with cfg := [], msix := PortState.reset.msix, spdm := PortState.reset.spdm }

/-- PORT_RESET: the port's semaphores are released, its configuration space reset, and its link retrained: it is down until it has
trained again, a function-level reset being a port reset too (R397, R455, R457). A reset that is asserted while the islands are not
clocked takes effect before anything else does (R451). -/
def execPortReset (port : Port) (kind : PortResetKind) (s : State) : Result :=
  s.always fun o b =>
    let b1 := b.updPort port fun x =>
      { x.resetConfig with perst := x.perst || kind == .perstLow, inReset := true, linkUp := false, width := 0, rate := 0 }
    releasePort o b1 port

/-- PORT_LINK_DOWN: the link is down; OTHER_UP of the other port reads 0 (R393, R397). -/
def execPortLinkDown (port : Port) (s : State) : Result :=
  s.onBody fun _ b => b.updPort port fun x => { x with linkUp := false, width := 0, rate := 0 }

/-- PORT_LINK_DOWN_TIMEOUT: a link that has stayed down for 1 s releases its port's semaphores (R397). -/
def execPortLinkDownTimeout (port : Port) (s : State) : Result :=
  s.both fun o b => if (b.port port).linkUp then (o, b) else releasePort o b port

/-- The widths and rates a port can train to (R383). -/
def trainable (width rate : Nat) : Bool := [8, 4, 2, 1].contains width && [64, 32, 16, 8].contains rate

/-- PORT_LINK_TRAINED: once the control island runs, PERST is released and the port's 100 MHz reference is present, the port brings its
link up at a width and rate it supports (R383, R384, R453). -/
def execPortLinkTrained (port : Port) (width rate : Nat) (s : State) : Result :=
  s.onBody fun _ b =>
    if b.board.padsSet ∧ b.board.portRef.getD (portIx port) false ∧ trainable width rate then
      b.updPort port fun x => { x with linkUp := true, perst := false, inReset := false, width := width, rate := rate }
    else b

/-- CXL_CACHE_SNOOP: every snoop is answered with RspIHitI (R383). -/
def execCxlCacheSnoop (port : Port) (s : State) : Result :=
  s.onBody fun _ b => if (b.port port).linkUp then b.emit (.snoopReply port) else b

/-- DOE_DISCOVERY: Discovery (index 0) and CMA/SPDM (index 1) are the protocols of the DOE mailbox; an index past them is
answered with no protocol (R383). -/
def execDoeDiscovery (port : Port) (index : Nat) (s : State) : Result :=
  s.onBody fun _ b =>
    if (b.port port).linkUp ∧ b.board.phase = .ready then
      b.emit (if index = 0 then .doe port 0 1 else if index = 1 then .doe port 1 0 else .doe port 0xFF 0)
    else b

/-! ### Configuration requests (R385, R386) -/

/-- Link speeds as PCIe codes them. -/
def rateCode (rate : Nat) : Nat := if rate = 64 then 6 else if rate = 32 then 5 else if rate = 16 then 4 else if rate = 8 then 3 else 0

/-- The configuration register of the port's PCIe link status, in its upper half (R384; log entry 123). -/
def linkStatusReg : Nat := 0x70

/-- The bits of a configuration register that a write sets (R383; log entry 123): memory space and bus master enables, the address bits of
BAR0 (16 MiB) and BAR2 (8 TiB), MSI-X Enable and Function Mask, device and link control, the DOE mailbox, and base, size and control
of the eight HDM decoders. -/
def cfgMask (reg : Nat) : W32 :=
  if reg = 0x04 then 0x00000406
  else if reg = 0x10 then 0xFF000000
  else if reg = 0x14 then 0xFFFFFFFF
  else if reg = 0x1C then 0xFFFFF800
  else if reg = msixCap then 0xC0000000
  else if reg = 0x68 then 0x00007FFF
  else if reg = linkStatusReg then 0x0000FFFF
  else if reg = 0x108 ∨ reg = 0x110 then 0xFFFFFFFF
  else if 0x200 ≤ reg ∧ reg < 0x300 then (if reg % 32 < 20 then 0xFFFFFFFF else 0)
  else 0

/-- The bits of a configuration register that the port gives: identity, class code and revision (R385); BAR0 64-bit and not
prefetchable, BAR2 64-bit and prefetchable; the capabilities MSI-X of 48 vectors at their BAR0 offsets, PCI Express with function-level
reset, the link's abilities and its present rate and width, and DOE (R383, R384, R391; log entry 123). -/
def cfgFixed (b : Body) (q : Port) (reg : Nat) : W32 :=
  let p := b.port q
  if reg = 0x00 then 0x48241C7B
  else if reg = 0x04 then 0x00100000
  else if reg = 0x08 then BitVec.ofNat 32 (0x120000 * 256 + b.board.stepping.toNat)
  else if reg = 0x10 then 0x00000004
  else if reg = 0x18 then 0x0000000C
  else if reg = 0x34 then BitVec.ofNat 32 msixCap
  else if reg = msixCap then BitVec.ofNat 32 (0x11 + 0x60 * 2 ^ 8 + 47 * 2 ^ 16)
  else if reg = 0x44 then 0x000C0000
  else if reg = 0x48 then 0x000C1000
  else if reg = 0x60 then 0x00020010
  else if reg = 0x64 then 0x10000000
  else if reg = 0x6C then BitVec.ofNat 32 (6 + 8 * 2 ^ 4)
  else if reg = linkStatusReg then BitVec.ofNat 32 ((rateCode p.rate + p.width * 2 ^ 4) * 2 ^ 16)
  else if reg = 0x100 then 0x0001002E
  else 0

/-- A configuration register as it reads (R383 to R385). -/
def cfgRead (b : Body) (q : Port) (reg : Nat) : W32 := cfgFixed b q reg ||| ((b.port q).written reg &&& cfgMask reg)

/-- The vectors of a port that are pending and no longer masked send their messages (R406). -/
def Body.releaseMsix (b : Body) (q : Port) : Body :=
  if !(b.port q).signals || (b.port q).msixMask then b
  else
    (List.range 48).foldl (fun b v =>
      match (b.port q).msix[v]? with
      | some e =>
        if e.pending && !e.masked then
          (b.updPort q fun x => { x with msix := x.msix.modify v fun e => { e with pending := false } }).emit (.msix q v)
        else b
      | none => b) b

/-- CONFIG_REQUEST: CRS until the module is READY; then a read returns the register and a write sets the bits of it that are not
fixed (R386). The function-level reset that a write of device control may ask for is the row PORT_RESET. -/
def execConfigRequest (port : Port) (reg : Nat) (wr : Option W32) (s : State) : Result :=
  s.onBody fun _ b =>
    if !(b.port port).linkUp then b
    else if b.board.phase ≠ .ready then b.emit (.cfgReply port true 0)
    else
      match wr with
      | none => b.emit (.cfgReply port false (cfgRead b port reg))
      | some v =>
        let b1 := b.updPort port fun x => { x with cfg := (reg, v &&& cfgMask reg) :: x.cfg.filter (·.1 != reg) }
        (if reg = msixCap then b1.releaseMsix port else b1).emit (.cfgReply port false 0)

/-! ### The partition window (R387, R388) -/

/-- The internal address of window offset off, when it lies in the data region of a partition that the port owns. -/
def windowAddr (o : Own) (q : Port) (off n : Nat) : Option (Fin 8 × Nat) :=
  match finOf 8 (off / 2 ^ 40) with
  | some p =>
    let r := (o.prec p).block.dataRange
    if o.owns q p && o.present p && decide (off % 2 ^ 40 + n ≤ r.2) then some (p, r.1 + off % 2 ^ 40) else none
  | none => none

/-- Bytes of an access. -/
def accessLen : WindowAccess → Nat
  | .read n => n
  | .write d => d.length

/-- HOST_WINDOW_ACCESS: outside the partition or a partition the port does not own, a read gives zeros and a write does
nothing, counted in XPORT, and so in a warm-reset boot (R392, R458); otherwise the access passes the world map and goes to its DRAM
controller; a poisoned unit is returned marked and raises no fault (R388). -/
def windowAccess (o : Own) (b : Body) (q : Port) (off : Nat) (acc : WindowAccess) (ecc : Found) : Body :=
  if !(b.port q).linkUp then b
  else
    let n := accessLen acc
    let refusedRead (b : Body) : Body :=
      match acc with
      | .read n => b.emit (.cxlData q (List.replicate n 0) false)
      | .write _ => b
    if !b.hostServed then refusedRead b.xport
    else
      match windowAddr o q off n with
      | none => refusedRead b.xport
      | some (p, a) =>
        match netCheck o b (.host p q) a n with
        | some st => refusedRead (b.refuse o (.host p q) st a)
        | none =>
          match locate o.maps a with
          | none => b
          | some l =>
            match acc with
            | .write d => arrive o (b.upset ecc) l (netReq (.host p q) a n (some d))
            | .read n => arrive o (b.upset ecc) l { netReq (.host p q) a n none with via := .window q }

/-- HOST_WINDOW_ACCESS: through CXL.mem or BAR2 alike. -/
def execHostWindowAccess (port : Port) (_bar2 : Bool) (off : Nat) (acc : WindowAccess) (ecc : Found) (s : State) : Result :=
  s.onBody fun o b => windowAccess o b port off acc ecc

/-! ### BAR0 (R391, R392, R398 to R402, R405) -/

/-- Set a byte of a mailbox command area, zeros unlisted. -/
def setArea (l : List (Nat × Byte)) (i : Nat) (v : Byte) : List (Nat × Byte) :=
  let r := l.filter (·.1 != i)
  if v = 0 then r else (i, v) :: r

/-- Set bytes of a byte string under byte enables, extending it with zeros. -/
def setBytes (l : List Byte) (i : Nat) (d : List (Option Byte)) : List Byte :=
  let l' := l ++ List.replicate (i + d.length - l.length) 0
  l'.zipIdx.map fun ((x, j) : Byte × Nat) => (maskedAt i d j).getD x

/-- What stands at a BAR0 offset (R391, R398). -/
inductive BarPlace where
  /-- The global status page and the reset/power status page. -/
  | status
  /-- Registers that both ports reach: semaphores, pending bits, world map. -/
  | shared
  /-- A mailbox page, and the offset in it. -/
  | mail (pg : Page) (off : Nat)
  /-- The port's MSI-X table. -/
  | msix (off : Nat)
  /-- The telemetry window of a partition. -/
  | telem (p : Fin 8) (off : Nat)
  | reserved
  deriving DecidableEq, Repr

/-- The layout of BAR0 (R391, R393, R396, R405, R407, R409, R410). -/
def barPlace (off : Nat) : BarPlace :=
  if off < 0x30 ∨ (0xD0000 ≤ off ∧ off < 0xD0020) then .status
  else if (0x10000 ≤ off ∧ off < 0x10108) ∨ (0xC1000 ≤ off ∧ off < 0xC1008) ∨ (0xE0000 ≤ off ∧ off < 0xE0400) then .shared
  else if 0x20000 ≤ off ∧ off < 0xA0000 then .mail (.part (Fin.ofNat 8 ((off - 0x20000) / 0x10000))) ((off - 0x20000) % 0x10000)
  else if 0xA0000 ≤ off ∧ off < 0xB0000 then .mail .module (off - 0xA0000)
  else if 0xC0000 ≤ off ∧ off < 0xC0300 then .msix (off - 0xC0000)
  else if 0x100000 ≤ off ∧ off < 0x200000 ∧ (off - 0x100000) % 0x20000 < 0x2E00 then
    .telem (Fin.ofNat 8 ((off - 0x100000) / 0x20000)) ((off - 0x100000) % 0x20000)
  else .reserved

/-- A register access of 4 or 8 aligned bytes (R392). -/
def regAccess (off n : Nat) : Bool := (n == 4 && off % 4 == 0) || (n == 8 && off % 8 == 0)

/-- Where a mailbox offset lies: command area, response area, MBX_CTL (R398). -/
def inAreas (i : Nat) : Bool := decide (i % 0x4000 < 0x3FC0)
/-- MBX_CTL. -/
def atCtl (i : Nat) : Bool := decide (0x3FC0 ≤ i % 0x4000) && decide (i % 0x4000 < 0x3FC8)

/-- The access is one that the page takes from this port: of a register's size where it meets a register, on a page the port reaches,
and, but for the status pages, while BAR0 is served (R391, R392, R458). -/
def barTakes (o : Own) (b : Body) (q : Port) (off n : Nat) : Bool :=
  match barPlace off with
  | .status => regAccess off n
  | .shared => b.hostServed && regAccess off n
  | .mail pg i => b.hostServed && reaches o b q pg && (inAreas i || (atCtl i && regAccess i n))
  | .msix _ => b.hostServed && regAccess off n
  | .telem p _ => b.hostServed && o.owns q p && regAccess off n
  | .reserved => false

/-! #### Reads -/

/-- n bytes of a 64-bit register from an offset. -/
def regBytes (v : W64) (off n : Nat) : List Byte := ((leBytes 8 v.toNat).drop (off % 8)).take n

/-- A byte of a mailbox page's areas. -/
def Mailbox.area (m : Mailbox) (i : Nat) : Byte :=
  if i < 0x2000 then (m.cmd.find? (·.1 == i)).elim 0 (·.2) else m.resp.getD (i - 0x2000) 0

/-- The pending-bit array of a port (R391). -/
def PortState.pending (s : PortState) : Nat :=
  (s.msix.zipIdx.map fun ((e, i) : MsixEntry × Nat) => if e.pending then 2 ^ i else 0).sum

/-- The bytes that a read of BAR0 returns where it is taken (R391, R393, R396, R399, R405, R407 to R410). -/
def barBytes (o : Own) (b : Body) (q : Port) (off n : Nat) : List Byte :=
  match barPlace off with
  | .mail pg i =>
    let m := b.mailbox pg (Fin.ofNat 4 (i / 0x4000))
    if inAreas i then (List.range n).map fun k => m.area (i % 0x4000 + k) else regBytes m.ctl i n
  | .msix i => (((b.port q).msix.getD (i / 16) ⟨[], false⟩).bytes.drop (i % 16)).take n
  | .telem p i => regBytes (b.telem o p (i / 8 * 8)) i n
  | _ => if 0xC1000 ≤ off ∧ off < 0xC1008 then regBytes (BitVec.ofNat 64 (b.port q).pending) off n
    else regBytes (b.bar0Reg o q (off / 8 * 8)) off n

/-! #### Writes -/

/-- Set bytes of a mailbox command area under byte enables. -/
def setCommand (l : List (Nat × Byte)) (i : Nat) (d : List (Option Byte)) : List (Nat × Byte) :=
  d.zipIdx.foldl (fun l ((v, j) : Option Byte × Nat) =>
    match v with
    | some v => setArea l (i + j) v
    | none => l) l

/-- A write in a mailbox page (R402): areas while the steward owns the mailbox, and a GO while it is owned or pending, are dropped
and counted; a GO on a free mailbox hands it to the steward. -/
def mailWrite (b : Body) (pg : Page) (off : Nat) (d : List (Option Byte)) : Body :=
  let m : Fin 4 := Fin.ofNat 4 (off / 0x4000)
  let i := off % 0x4000
  let x := b.mailbox pg m
  if inAreas off then
    if x.owner then b.dropWrite pg m
    else b.updMail pg m fun x =>
      { x with
        cmd := setCommand x.cmd i (d.take (0x2000 - i))
        resp := if i + d.length ≤ 0x2000 then x.resp
          else setBytes x.resp (i - 0x2000) ((d.drop (0x2000 - i)).take (0x3FC0 - max i 0x2000)) }
  else if (maskedAt i d 0x3FC0).any fun v => v.toNat.testBit 0 then
    if x.owner || x.pend then b.dropWrite pg m else (b.takeGo pg m).forwardPreempt
  else b

/-- A write to a port's MSI-X table; unmasking a vector whose pending bit is set sends its message (R405, R406). -/
def msixWrite (b : Body) (q : Port) (off : Nat) (d : List (Option Byte)) : Body :=
  let v := off / 16
  let b' := b.updPort q fun x => { x with msix := x.msix.modify v fun e => { e with bytes := setBytes e.bytes (off % 16) d } }
  match (b'.port q).msix[v]? with
  | some e =>
    if e.pending && !e.masked && !(b'.port q).msixMask && (b'.port q).signals then
      (b'.updPort q fun x => { x with msix := x.msix.modify v fun e => { e with pending := false } }).emit (.msix q v)
    else b'
  | none => b'

/-- BAR0_REGISTER_WRITE: an access to a register or area without a row of its own takes effect under its access code: a write to one
that is read-only changes nothing; an access that is not taken reads as zero, has no effect and counts in XPORT (R392; log entry 74). -/
def bar0Access (o : Own) (b : Body) (q : Port) (off : Nat) (acc : BarAccess) : Body :=
  if !(b.port q).linkUp then b
  else
    match acc with
    | .read n =>
      if barTakes o b q off n then b.emit (.barData q (barBytes o b q off n)) else b.xport.emit (.barData q (List.replicate n 0))
    | .write d =>
      if !barTakes o b q off d.length then b.xport
      else
        match barPlace off with
        | .mail pg i => mailWrite b pg i d
        | .msix i => msixWrite b q i d
        | _ => b

/-- BAR0_REGISTER_WRITE. -/
def execBar0RegisterWrite (port : Port) (off : Nat) (acc : BarAccess) (s : State) : Result :=
  s.onBody fun o b => bar0Access o b port off acc

end Sys2Proof.Machine
end

