-- ==== Sys2Proof/Machine/Partition.lean ====
section
/-! DEFINITION. Partitions: creation, change, reset and removal (R421 to R427, R443). -/

namespace Sys2Proof.Machine

open Sys2Proof

/-- Read a partition block from a command's arguments (R424). -/
def pblockOf (a : List Byte) : PBlock where
  groups := BitVec.ofNat 8 (field a 0 1)
  ports := BitVec.ofNat 2 (field a 1 1)
  secure := field a 2 1 == 1
  dset := field a 4 1
  dsel := field a 5 1
  sliceLo := field a 6 1
  sliceN := field a 7 1
  storeN := field a 8 1
  sect := (field a 9 1).testBit 0
  celFirst := field a 0xA 2
  celCount := field a 0xC 2
  nImg := field a 0xE 1
  nVdec := field a 0xF 1
  nVenc := field a 0x10 1
  nAud := field a 0x11 1
  nTxt := field a 0x12 1
  dbase := field a 0x14 2

/-- The block's fields that are malformed: PORTS zero or past bit 1, WORLD above 1, reserved bytes and bits (R424). -/
def pblockFormat (a : List Byte) : Bool :=
  field a 1 1 == 0 || decide (field a 1 1 > 3) || decide (field a 2 1 > 1) || field a 3 1 != 0 || decide (field a 9 1 > 1) ||
    field a 0x13 1 != 0 || field a 0x16 2 != 0

/-- The block's numbers lie in their ranges (R424). -/
def PBlock.inBounds (k : PBlock) : Bool :=
  decide (k.dset ≤ 2) && decide (k.dsel < if k.dset = 0 then 1 else if k.dset = 1 then 4 else 24) &&
    decide (k.sliceLo ≤ 35) && decide (1 ≤ k.sliceN) && decide (k.sliceN ≤ 35) && decide (1 ≤ k.storeN) &&
    decide (k.storeN ≤ 35) && decide (k.celFirst ≤ 255) && decide (k.celCount ≤ 256) &&
    decide (k.celFirst + k.celCount ≤ 256) && decide (k.nImg ≤ 16) && decide (k.nVdec ≤ 8) && decide (k.nVenc ≤ 2) &&
    decide (k.nAud ≤ 8) && decide (k.nTxt ≤ 4)

/-- The map descriptor of the data region. -/
def PBlock.dataMap (k : PBlock) : MapDesc where
  valid := true
  sect := k.sect
  set := BitVec.ofNat 3 k.dset
  sel := BitVec.ofNat 5 k.dsel
  sliceLo := BitVec.ofNat 6 k.sliceLo
  sliceN := BitVec.ofNat 6 k.sliceN
  base := BitVec.ofNat 10 k.dbase
/-- The map descriptor of the store region, on the slices and addresses that follow (R424); always ordinary (R215). -/
def PBlock.storeMap (k : PBlock) : MapDesc where
  valid := true
  sect := false
  set := BitVec.ofNat 3 k.dset
  sel := BitVec.ofNat 5 k.dsel
  sliceLo := BitVec.ofNat 6 (k.sliceLo + k.sliceN)
  sliceN := BitVec.ofNat 6 k.storeN
  base := BitVec.ofNat 10 (k.storeRange.1 / 2 ^ 30)

/-- Two regions share an address. -/
def MapDesc.sharesAddr (d e : MapDesc) : Bool := decide (d.lo < e.lo + e.size) && decide (e.lo < d.lo + d.size)
/-- Two regions share a slice of one stack. -/
def MapDesc.sharesSlice (d e : MapDesc) : Bool :=
  decide (d.first < e.first + e.k) && decide (e.first < d.first + d.k) &&
    decide (d.sliceLo.toNat < e.sliceLo.toNat + e.sliceN.toNat) && decide (e.sliceLo.toNat < d.sliceLo.toNat + d.sliceN.toNat)
/-- The acceptance of a set of descriptors (R209). -/
def mapsAccepted : List MapDesc → Bool
  | [] => true
  | d :: t =>
    (!d.valid || (decide (d.lo + d.size ≤ 0xD800000000) && t.all fun e => !e.valid || (!d.sharesAddr e && !d.sharesSlice e)))
      && mapsAccepted t

/-- No partition exists or is being made or removed (R208, R229). -/
def Own.noPartition (o : Own) : Bool := o.recs.all fun r => r.phase == .absent

/-- The descriptors with the two of partition p replaced, DRM_MAP00 gone (R208); partition p's descriptors stand at 2p and
2p + 1 (log entry 11). -/
def Own.withMaps (o : Own) (p : Fin 8) (k : PBlock) : List MapDesc :=
  let base := if o.noPartition then List.replicate 16 MapDesc.off else o.maps
  (base.set (2 * p.val) k.dataMap).set (2 * p.val + 1) k.storeMap

/-- Media units of a kind: first bit in the unit numbering and count (R331, R466). -/
def mediaKinds : List (Nat × Nat) := [(0, 16), (16, 8), (24, 2), (26, 8), (34, 4)]
/-- Counts of a block by kind. -/
def PBlock.media (k : PBlock) : List Nat := [k.nImg, k.nVdec, k.nVenc, k.nAud, k.nTxt]
/-- Units of a kind that are not withdrawn. -/
def Body.mediaFree (b : Body) (i : Nat) : Nat :=
  let r := mediaKinds.getD i (0, 0)
  ((List.range r.2).filter fun j => !b.board.mediaOff.toNat.testBit (r.1 + j)).length

/-- Every block that holds resources beside partition p's. -/
def otherBlocks (o : Own) (p : Fin 8) : List PBlock :=
  (List.finRange 8).filterMap fun q => if q = p ∨ (o.prec q).phase = .absent then none else some (o.prec q).block

/-- Groups, granules and media units named by a block are free (R425). -/
def unitsFree (o : Own) (b : Body) (p : Fin 8) (k : PBlock) : Bool :=
  let others := otherBlocks o p
  others.all (fun e => (e.groups &&& k.groups) == 0 &&
      (decide (k.celFirst + k.celCount ≤ e.celFirst) || decide (e.celFirst + e.celCount ≤ k.celFirst) ||
        k.celCount == 0 || e.celCount == 0)) &&
    (List.range 5).all fun i =>
      decide (k.media.getD i 0 + (others.map fun e => e.media.getD i 0).sum ≤ b.mediaFree i)

/-- PORTS names secure ports alone. -/
def portsSecure (b : Body) (k : PBlock) : Bool := (k.ports &&& ~~~b.board.secure) == 0

/-- The cores of a block's groups. -/
def PBlock.cores (k : PBlock) : List (Fin 32) := (List.finRange 32).filter fun c => k.groups.toNat.testBit (c.val / 4)

/-- Zero cores' vats and presses. -/
def Mem.zeroCores (m : Mem) (cs : List (Fin 32)) : Mem :=
  let m' := cs.foldl (fun m c => (m.zero (vatBase c.val) vatSize).zero (pressBase c.val) pressSize) m
  { m' with zeroing := (m'.zeroing ++ cs.flatMap fun c => [ZeroTarget.vat c, ZeroTarget.press c]).eraseDups }

/-- Zero the memory of a partition that is created: both DRAM regions, cellar run, vats and presses, cave region (R425). The DRAM
controllers of a tripped module take no write (R227). -/
def Body.zeroBlock (b : Body) (p : Fin 8) (k : PBlock) (cores : Bool) : Body :=
  b.updMem fun m =>
    let m2 := if b.board.tripped then m
      else (m.zero k.dataRange.1 k.dataRange.2).zero k.storeRange.1 k.storeRange.2
    let m3 := m2.zero k.cellarRange.1 k.cellarRange.2
    let m4 := m3.zero (caveRegion p.val) 0x6000
    if cores then m4.zeroCores k.cores else m4

/-- Runs of adjacent core groups of a bitmap, from group g (R443). -/
def groupRuns (groups : BitVec 8) : List (Nat × Nat) :=
  (List.range 8).filterMap fun g =>
    if groups.toNat.testBit g && (g == 0 || !groups.toNat.testBit (g - 1)) then
      some (g, ((List.range (8 - g)).takeWhile fun i => groups.toNat.testBit (g + i)).length)
    else none

/-- A world-map descriptor over n bytes at a. -/
def worldOver (p : Fin 8) (secure : Bool) (a n : Nat) : WldDesc :=
  ⟨true, secure, BitVec.ofNat 3 p.val, BitVec.ofNat 44 a, BitVec.ofNat 44 (a + n - 1)⟩

/-- The world-map descriptors of a partition (R443): runs of vats, data region, cellar run when there is one, cave. -/
def worldsOf (p : Fin 8) (k : PBlock) : List WldDesc :=
  ((groupRuns k.groups).map fun r => worldOver p k.secure (vatBase (4 * r.1)) (4 * r.2 * vatSize)) ++
    [worldOver p k.secure k.dataRange.1 k.dataRange.2] ++
    (if k.celCount = 0 then [] else [worldOver p k.secure k.cellarRange.1 k.cellarRange.2]) ++
    [worldOver p k.secure (caveRegion p.val) 0x6000]

/-- The whole world map, from the records of the partitions that exist, in partition order (log entry 11). -/
def Own.buildWorlds (o : Own) : List WldDesc :=
  let ds := (List.finRange 8).flatMap fun p =>
    if o.present p || (o.prec p).phase == .deleting then worldsOf p (o.prec p).block else []
  (ds ++ List.replicate 64 (WldDesc.mk false false 0 0 0)).take 64

/-- The world map rewritten. -/
def Own.remap (o : Own) : Own := { o with worlds := o.buildWorlds }

/-- The checks of R425, in order; none: accepted. -/
def createCheck (o : Own) (b : Body) (p : Fin 8) (k : PBlock) : Option W16 :=
  if (o.prec p).phase ≠ .absent then some stBusy
  else if !unitsFree o b p k then some stFit
  else if k.sliceLo + k.sliceN + k.storeN > 36 ∨ k.storeRange.1 + k.storeRange.2 > 0xD800000000 ∨
      !mapsAccepted (o.withMaps p k) then some stFit
  else if k.secure && !portsSecure b k then some stWorld
  else none

/-- The partition number of a module command. -/
def partArg (x : Xnx) : Fin 8 := Fin.ofNat 8 x.arg0

/-- The record of partition p in a phase with a block. -/
def Own.setRec (o : Own) (p : Fin 8) (ph : PartPhase) (k : PBlock) : Own := o.updRec p fun _ => ⟨ph, k⟩

/-- Partition p's pair of backup registers zeroed, and with them any error they held (R178, R425). -/
def Body.zeroPair (b : Body) (p : Fin 8) : Body :=
  { b with
    bkp := (b.bkp.set (16 + 2 * p.val) 0).set (17 + 2 * p.val) 0
    bkpBad := b.bkpBad &&& ~~~(BitVec.ofNat 32 (3 * 2 ^ (16 + 2 * p.val))) }

/-- Steps 1 and 2 of PART_CREATE (R425): map descriptors, zeroing; the partition then waits for its world map. -/
def createStart (o : Own) (b : Body) (p : Fin 8) (k : PBlock) (t : Ticket) : Own × Body :=
  ({ o with maps := o.withMaps p k }.setRec p .creating k,
    ((b.zeroBlock p k true).zeroPair p).updPart p fun _ => { Part.reset with create := some t })

/-- Steps 3 and 4 of PART_CREATE: world map, record. -/
def createEnd (o : Own) (p : Fin 8) : Own := (o.setRec p .present (o.prec p).block).remap

/-- PART_CREATE's rule. -/
def partCreateAct (x : Xnx) (o : Own) (b : Body) : Xres :=
  let p := partArg x
  let k := pblockOf x.args
  if pblockFormat x.args then .refused stFormat 0
  else if !k.inBounds then .refused stBounds 0
  else
    match createCheck o b p k with
    | some st => .refused st 0
    | none =>
      let r := createStart o b p k (xTicket x)
      .pending r.1 r.2

/-- PART_CREATE (R424, R425). -/
def execPartCreate (x : Xnx) (s : State) : Result :=
  s.xnx 0x0501 x .module (x.len == 24) (decide (x.arg0 < 8)) (partCreateAct x)

/-- PART_CREATE_COMPLETE: the world map and the record are written, then the final response (R425); on a tripped module the zeroing
of DRAM cannot end (R227). -/
def execPartCreateComplete (p : Fin 8) (s : State) : Result :=
  s.both fun o b =>
    match (b.part p).create with
    | some t =>
      if b.board.tripped || !b.stewardUp then (o, b)
      else
        let o' := createEnd o p
        (o', (b.updPart p fun x => { x with create := none }).respond o' t stOk 0 [])
    | none => (o, b)

/-- The fields that PART_MODIFY may not change are as they stand (R426). -/
def sameFixed (k e : PBlock) : Bool :=
  k.dset == e.dset && k.dsel == e.dsel && k.sliceLo == e.sliceLo && k.sliceN == e.sliceN && k.storeN == e.storeN &&
    k.sect == e.sect && k.dbase == e.dbase && k.secure == e.secure

/-- A loaded almanac, or one being loaded. -/
def Part.hasAlmanac (p : Part) : Bool := p.slots.any fun s => s.loaded || s.loading.isSome

/-- The cores in one block and not in the other. -/
def coresBut (k e : PBlock) : List (Fin 32) := k.cores.filter fun c => !e.groups.toNat.testBit (c.val / 4)

/-- The part of a range that lies outside another one: what stands before it and what stands after it. -/
def rangeBut (r t : Nat × Nat) : List (Nat × Nat) :=
  [(r.1, min (r.1 + r.2) t.1 - r.1), (max r.1 (t.1 + t.2), r.1 + r.2 - max r.1 (t.1 + t.2))]

/-- The granules of one cellar run that the other does not hold, as ranges (R426). -/
def PBlock.cellarBut (k e : PBlock) : List (Nat × Nat) :=
  if e.celCount = 0 then [k.cellarRange] else rangeBut k.cellarRange e.cellarRange

/-- The change of a PART_MODIFY: resources added and removed are zeroed or reset, those kept stand, the block takes its new value, the
world map follows, and a holder that PORTS now excludes loses the semaphore with the effects of R397 (R426). It is made when the command
is accepted, on the conditions tested then; PENDING lasts until PART_MODIFY_COMPLETE (DESIGN CHOICE, log entry 66). -/
def modifyNow (o : Own) (b : Body) (p : Fin 8) (t : Ticket) (k : PBlock) : Own × Body :=
  let e := (o.prec p).block
  let moved := coresBut k e ++ coresBut e k
  let b1 := b.updMem fun m =>
    (k.cellarBut e ++ e.cellarBut k).foldl (fun m r => m.zero r.1 r.2) (m.zeroCores moved)
  let b2 := moved.foldl (fun b c => b.updCore c fun x => x.cleared c.val) b1
  let b3 := b2.updPart p fun x => { x with modifies := x.modifies ++ [t] }
  let o1 := (o.setRec p .present k).remap
  let sem : Fin 32 := ⟨p.val + 1, by omega⟩
  match o1.holder p with
  | some q => if k.ports.toNat.testBit (portIx q) then (o1, b3) else releaseSem o1 b3 sem
  | none => (o1, b3)

/-- PART_MODIFY's rule. -/
def partModifyAct (x : Xnx) (o : Own) (b : Body) : Xres :=
  let p := partArg x
  let k := pblockOf x.args
  let e := (o.prec p).block
  if pblockFormat x.args then .refused stFormat 0
  else if !k.inBounds then .refused stBounds 0
  else if (o.prec p).phase == .deleting then .refused stBusy 0
  else if !o.present p then .refused stBounds 0
  else if !sameFixed k e then .refused stFormat 0
  else if (k.groups ≠ e.groups ∨ k.celFirst ≠ e.celFirst ∨ k.celCount ≠ e.celCount) ∧ (b.part p).hasAlmanac then
    .refused stBusy 0
  else if k.media ≠ e.media ∧ (b.part p).mjs ≠ [] then .refused stBusy 0
  else if !unitsFree o b p k then .refused stFit 0
  else if k.secure && !portsSecure b k then .refused stWorld 0
  else
    let r := modifyNow o b p (xTicket x) k
    .pending r.1 r.2

/-- PART_MODIFY (R424, R426). -/
def execPartModify (x : Xnx) (s : State) : Result :=
  s.xnx 0x0504 x .module (x.len == 24) (decide (x.arg0 < 8)) (partModifyAct x)

/-- PART_MODIFY_COMPLETE: the final response of the partition's oldest PART_MODIFY (R426). -/
def partModifyEnd (o : Own) (b : Body) (p : Fin 8) : Body :=
  match (b.part p).modifies with
  | t :: rest => if b.stewardUp then (b.updPart p fun x => { x with modifies := rest }).respond o t stOk 0 [] else b
  | [] => b

/-- PART_MODIFY_COMPLETE. -/
def execPartModifyComplete (p : Fin 8) (s : State) : Result := s.onBody fun o b => partModifyEnd o b p

/-- PART_RESET's rule; one that comes during a reset of the partition joins it (R440; log entry 66). -/
def partResetAct (x : Xnx) (o : Own) (b : Body) : Xres :=
  let p := partArg x
  if (o.prec p).phase == .deleting then .refused stBusy 0
  else if !o.present p then .refused stBounds 0
  else
    let b1 := if (b.part p).resetting then b else b.partitionReset o p
    .pending o (b1.updPart p fun y => { y with resets := y.resets ++ [xTicket x] })

/-- PART_RESET (R427, R436). -/
def execPartReset (x : Xnx) (s : State) : Result :=
  s.xnx 0x0503 x .module (x.len == 0) (decide (x.arg0 < 8)) (partResetAct x)

/-- PARTITION_RESET_COMPLETE: the reset is done; PART_RESETs get their final response (R427). -/
def execPartitionResetComplete (p : Fin 8) (s : State) : Result :=
  s.onBody fun o b =>
    let ts := (b.part p).resets
    if !b.stewardUp then b else
    (b.updPart p fun x => { x with resets := [], resetting := false }).respondAll o ts stOk

/-- Steps 1 to 3 of PART_DELETE (R427) on a record marked as being deleted. -/
def deleteStart (o : Own) (b : Body) (p : Fin 8) (t : Ticket) : Own × Body :=
  let k := (o.prec p).block
  let b1 := b.partitionReset o p
  let held := (o.sem (p.val + 1)).held
  let o1 := (if held then o.free (p.val + 1) else o).setRec p .deleting k
  let b2 := if held then (b1.clearMail (.part p)).updPart p fun x => { x with events := [], lost := 0 } else b1
  let lost := (b2.part p).modifies ++ (b2.part p).resets
  let b3 := (b2.zeroBlock p k false).updPart p fun x => { x with modifies := [], resets := [], delete := some t }
  (o1, b3.respondAll o1 lost ftReset)

/-- PART_DELETE's rule. -/
def partDeleteAct (x : Xnx) (o : Own) (b : Body) : Xres :=
  let p := partArg x
  if (o.prec p).phase == .deleting then .refused stBusy 0
  else if !o.present p then .refused stBounds 0
  else
    let r := deleteStart o b p (xTicket x)
    .pending r.1 r.2

/-- PART_DELETE (R427). -/
def execPartDelete (x : Xnx) (s : State) : Result :=
  s.xnx 0x0502 x .module (x.len == 0) (decide (x.arg0 < 8)) (partDeleteAct x)

/-- Steps 4 and 5 of PART_DELETE: the resources are free, the descriptors go, the record last; with no partition left
DRM_MAP00 maps all of DRAM again (R208, R427). -/
def deleteEnd (o : Own) (p : Fin 8) : Own :=
  let o1 := { o with maps := (o.maps.set (2 * p.val) MapDesc.off).set (2 * p.val + 1) MapDesc.off }
  let o2 := (o1.updRec p fun _ => PartRec.none).remap
  if o2.noPartition then { o2 with maps := o2.maps.set 0 MapDesc.default } else o2

/-- PART_DELETE_COMPLETE; on a tripped module the zeroing of DRAM cannot end (R227). -/
def execPartDeleteComplete (p : Fin 8) (s : State) : Result :=
  s.both fun o b =>
    match (b.part p).delete with
    | some t =>
      if (o.prec p).phase = .deleting ∧ !b.board.tripped ∧ b.stewardUp then
        let o' := deleteEnd o p
        (o', (b.updPart p fun _ => Part.reset).respond o' t stOk 0 [])
      else (o, b)
    | none => (o, b)

end Sys2Proof.Machine
end

