-- ==== Sys2Proof/Machine/Boot.lean ====
section
/-! DEFINITION. Rails, references, resets and the boot (R177, R206, R223, R224, R444 to R446, R451 to R475, R484, R492 to R497). -/

namespace Sys2Proof.Machine

open Sys2Proof

/-! ### Signed records (R444, R445, R460, R465 to R467) -/

/-- The variant record verifies (R460, R465). -/
def VariantRec.ok (v : VariantRec) : Bool :=
  v.sigOk && v.magic == 0x56524157 && decide (v.qual.toNat < 2 ^ 24) && v.rsv == [] && decide (v.ceil.toNat ≤ 30) && decide (v.tdp.toNat ≤ 2600) && decide (30 ≤ v.th1.toNat) && decide (v.th1.toNat ≤ 80) &&
    decide (80 ≤ v.th2.toNat) && decide (v.th2.toNat ≤ 120) && decide (v.th1.toNat < v.th2.toNat)

/-- Two disabled lanes of an engine are well formed (R466). -/
def lanesOk (l : Byte × Byte) : Bool :=
  let ok (v : Byte) : Bool := v == 0xFF || decide (v.toNat ≤ 129)
  ok l.1 && ok l.2 && (l.1 == 0xFF || l.2 == 0xFF || decide (l.1.toNat < l.2.toNat))

/-- The repair record verifies against the variant record (R15, R79, R466). -/
def RepairRec.ok (r : RepairRec) (v : VariantRec) : Bool :=
  r.sigOk && r.magic == 0x52504157 && decide (r.mediaOff.toNat < 2 ^ 45) && r.rsv == [] && r.serial == v.serial && (r.sub32 == 0xFF || decide (r.sub32.toNat < 16)) &&
    (r.sub33 == 0xFF || (decide (16 ≤ r.sub33.toNat) && decide (r.sub33.toNat < 32))) && r.lanes.all lanesOk

/-- The physical core that serves a logical core (R15). -/
def RepairRec.physical (r : RepairRec) (c : Nat) : Nat :=
  if r.sub32.toNat = c then 32 else if r.sub33.toNat = c then 33 else c

/-- The disabled lanes of an engine as CORE_LMAP reports them: a single one stands in LO, wherever the record gives it (R81). -/
def laneReport (l : Byte × Byte) : List Byte := if l.1 = 0xFF then [l.2, 0xFF] else [l.1, l.2]

/-- CORE_LMAP of a physical core (R81, R467). -/
def RepairRec.lmap (r : RepairRec) (p : Nat) : W64 :=
  BitVec.ofNat 64 (ofLe ((List.range 4).flatMap fun e => laneReport (r.lanes.getD (4 * p + e) (0xFF, 0xFF))))

/-- The plan's partitions can be created one after another (R425, R445). -/
def planOk (b : Body) : Own → List (Fin 8 × PBlock) → Bool
  | _, [] => true
  | o, (p, k) :: t =>
    k.inBounds && k.ports != 0 && (createCheck o b p k).isNone &&
      planOk b (({ o with maps := o.withMaps p k }.setRec p .present k)) t

/-- A policy copy verifies (R445). -/
def Policy.ok (k : Policy) (b : Body) : Bool :=
  k.sigOk && !(k.secure == 0 && k.plan == []) && planOk (b.updBoard fun x => { x with secure := k.secure }) Own.reset k.plan

/-- An owner record stands in flash and verifies (R444). -/
def Flash.ownerOk (f : Flash) : Bool := f.owner.elim false (·.sigOk)

/-- The boot policy in force: of the copies that verify the one with the higher SEQ, else the factory policy (R444, R445). -/
def Body.bootPolicy (b : Body) : Policy :=
  let f := b.board.flash
  if !f.ownerOk then Policy.factory
  else
    ((f.policies.filter fun k => k.ok b).foldl (fun (r : Option Policy) k =>
      match r with
      | some q => if q.seq.toNat < k.seq.toNat then some k else some q
      | none => some k) none).getD Policy.factory

/-- BOOTERR of the boot ROM: 1 root key digest, 2 variant record, 3 repair record (R475). -/
def Flash.bootErr (f : Flash) : Byte :=
  if !f.rootOk then 1 else if !f.variant.ok then 2 else if !f.repair.ok f.variant then 3 else 0

/-! ### The boot ROM (R177, R467, R468) -/

/-- The cave regions that hold an uncorrectable word: the steward's, and each partition's (R177). -/
def Body.caveLost (b : Body) : Bool × Byte :=
  let bad (a n : Nat) : Bool := b.mem.poison.any fun w => inside (a, n) w 1
  (bad caveBase 0x10000, BitVec.ofNat 8 (((List.range 8).map fun p => if bad (caveRegion p) 0x6000 then 2 ^ p else 0).sum))

/-- The backup registers whose uncorrectable error the boot read finds, as the LOST bits of their owners: BKP00 to BKP15 are the
steward's, BKP(16 + 2p) and BKP(17 + 2p) partition p's (R178). -/
def bkpLost (bad : W32) : Bool × Byte :=
  (bad.toNat % 2 ^ 16 != 0,
    BitVec.ofNat 8 (((List.range 8).map fun p => if bad.toNat / 2 ^ (16 + 2 * p) % 4 != 0 then 2 ^ p else 0).sum))

/-- The boot read of the cave: a region with an uncorrectable word is zeroed whole; what the steward keeps in its region is
lost with it: partition records, withdrawn cores, saved link settings, repair candidates, fault log (R177, R214, R297, R427, R474). A
backup register with an uncorrectable error is zeroed, and its owner's LOST bit set (R178). -/
def caveRead (o : Own) (b : Body) : Own × Body :=
  let l := b.caveLost
  let k := bkpLost b.bkpBad
  let m0 := if l.1 then b.mem.zero caveBase 0x10000 else b.mem
  let m := (List.range 8).foldl (fun (m : Mem) p => if l.2.toNat.testBit p then m.zero (caveRegion p) 0x6000 else m) m0
  let b0 := { b with
    mem := m, bkpBad := 0
    bkp := b.bkp.zipIdx.map fun ((v, i) : W64 × Nat) => if b.bkpBad.toNat.testBit i then 0 else v }
  let b1 := b0.updBoard fun x =>
    { x with cave := { x.cave with scrubbed := true, stwLost := l.1 || k.1, pLost := l.2 ||| k.2 } }
  if l.1 then
    let b2 := (b1.updBoard fun x => { x with cause := { x.cause with coreOut := 0 }, faultLog := [] }).updFab fun f =>
      { f with cfg := f.cfg.map fun (c : LinkCfg) => { c with savedKey := none, savedCoef := [] } }
    ({ o with recs := List.replicate 8 PartRec.none },
      { b2 with stks := b2.stks.map fun (s : Stack) => { s with cands := [], corrected := [] } })
  else (o, b1)

/-- The repair map applied: each core island is clocked at the ceiling and shows its lane map (R1, R467, R468). -/
def Body.applyRepair (b : Body) : Body :=
  let r := b.board.flash.repair
  { b with cores := b.cores.zipIdx.map fun ((c, i) : Core × Nat) =>
      { c with physical := r.physical i, lmap := r.lmap (r.physical i), clk := b.board.flash.variant.ceil.toNat, relock := false } }

/-- The records and the policy verified and applied; a record that fails stops the boot (R454, R465 to R468). -/
def bootRecords (b : Body) : Body :=
  let f := b.board.flash
  let e := f.bootErr
  if e ≠ 0 then b.updBoard fun x => { x with phase := .bootError, cause := { x.cause with bootErr := e } }
  else
    let v := f.variant
    let b1 := b.updBoard fun x =>
      { x with
        phase := .bootRom, mediaOff := f.repair.mediaOff.setWidth 45, var := v.var, ceil := v.ceil, tdp := v.tdp, serial := v.serial
        sag := { x.sag with th1 := v.th1, th2 := v.th2 } }
    let k := b1.bootPolicy
    (b1.updBoard fun x => { x with policy := k, secure := k.secure }).applyRepair

/-- The map descriptors as the records give them; DRM_MAP00 alone without a partition (R208, R458). -/
def Own.bootMaps (o : Own) : Own :=
  let keep := (List.finRange 8).filter fun p => (o.prec p).phase = .present ∨ (o.prec p).phase = .deleting
  let o1 := { o with
    recs := o.recs.map fun (r : PartRec) => if r.phase = PartPhase.creating then PartRec.none else r
    maps := if keep = [] then MapDesc.default :: List.replicate 15 MapDesc.off
      else (List.finRange 8).flatMap fun p =>
        if keep.contains p then [(o.prec p).block.dataMap, (o.prec p).block.storeMap] else [MapDesc.off, MapDesc.off] }
  o1.remap

/-- Ownership after a warm reset: semaphores cleared, records and map descriptors kept (R396, R457). -/
def Own.warm (o : Own) : Own := { o with sems := Own.reset.sems, prio := .a, cont := 0 }

/-- A boot from the boot ROM's first step; every boot begins with the semaphores cleared (R396). -/
def bootRom (o : Own) (b : Body) : Own × Body :=
  let r := caveRead o.warm b
  (r.1.bootMaps, bootRecords r.2)

/-- Some cause holds the reset: RESET_N low, a sag not yet over, a test instruction (R455, R460, R502). -/
def tapHolds : TapInstr → Bool
  | .extest | .clamp | .highz | .extestPulse | .extestTrain => true
  | .bypass | .idcode | .samplePreload => false

/-- The reset is held. -/
def Board.holdsReset (x : Board) : Bool := x.resetNHeld || x.sagHeld || tapHolds x.tap

/-! ### Power-on -/

/-- A stack that has lost power: the rows that hard repair replaced stay replaced, by the spares they took (R229). -/
def Stack.unpowered (x : Stack) : Stack :=
  { Stack.reset with
    spareRows := x.spareRows, hardRows := x.hardRows, identity := x.identity
    used := ((x.hardRows.map fun r => locGroup r.toNat).eraseDups).map fun g =>
      (g, x.hardRows.countP fun r => locGroup r.toNat == g) }

/-- Everything that loses power: flash, the fuses of hard repair and the inputs stay (R229, R457, R461). -/
def unpowered (b : Body) (ph : Phase) : Body :=
  { Body.reset with
    board := { Board.reset with
      phase := ph, pwrEn := b.board.pwrEn, railTries := b.board.railTries, gaveUp := b.board.gaveUp, modRef := b.board.modRef
      rails := if ph = .off then [] else [.vin], sbAddr := b.board.sbAddr
      fabRef := b.board.fabRef, portRef := b.board.portRef, resetNHeld := b.board.resetNHeld, stepping := b.board.stepping
      flash := b.board.flash, cave := ⟨0, true, false, false, 0⟩ }
    stks := b.stks.map Stack.unpowered
    out := b.out, free := b.free }

/-- The boot of a power-on reset. -/
def bootPower (b : Body) : Own × Body :=
  bootRom Own.reset ((unpowered b .powerOn).updBoard fun x => { x with railTries := 0, rails := railOrder, tap := b.board.tap, cells := b.board.cells })

/-- The end of a hold, or the reference's first edges: a module held in reset begins its boot, one that waits for its power-on reset that
reset's boot (R451, R455). -/
def releaseHold (o : Own) (b : Body) : Own × Body :=
  if b.board.holdsReset ∨ !b.board.modRef then (o, b)
  else if b.board.phase = .resetHeld then bootRom o b
  else if b.board.phase = .powerOn ∧ b.board.porWaits then bootPower b
  else (o, b)

/-- POWER_ON_RESET: every rail is good: the power-on reset acts and the boot ROM runs, once the reference runs and nothing holds the reset
(R451, R455, R468). -/
def powerOn (o : Own) (b : Body) : Own × Body :=
  if b.board.phase = .powerOn then releaseHold o (b.updBoard fun x => { x with rails := railOrder, porWaits := true }) else (o, b)

/-- POWER_ON_RESET. -/
def execPowerOnReset (s : State) : Result := s.always powerOn

/-- RAIL_SEQUENCE_START: VIN is good with PWR_EN high: the rails rise (R493). -/
def execRailSequenceStart (s : State) : Result :=
  s.always fun o b =>
    (o, if b.board.phase = .off ∧ !b.board.gaveUp then (unpowered b .powerOn).updBoard fun x => { x with pwrEn := true } else b)

/-- The next rail in the order of R493 becomes good; each starts only when the one before it is good (log entry 126). -/
def Board.riseRail (x : Board) : Board :=
  if x.phase = .powerOn then { x with rails := railOrder.take (x.rails.length + 1) } else x

/-- RAIL_START_TIMEOUT: a rail is not good in time: the module shuts down; after the third failed retry it stays off (R493). -/
def execRailStartTimeout (rail : AnyRail) (s : State) : Result :=
  s.always fun o b =>
    (o, if b.board.phase = .powerOn ∧ !b.board.rails.contains rail then
      (unpowered b .off).updBoard fun x => { x with railTries := x.railTries + 1, gaveUp := decide (x.railTries ≥ 3) }
    else b)

/-- SHUTDOWN_RETRY: the sequence again, 1 s after a failed start, at most three times (R493). -/
def execShutdownRetry (s : State) : Result :=
  s.always fun o b =>
    (o, if b.board.phase = .off ∧ 0 < b.board.railTries ∧ !b.board.gaveUp ∧ b.board.pwrEn then unpowered b .powerOn else b)

/-- MODULE_SHUTDOWN: the rails fall and DRAM is lost; VIN or PWR_EN low ends a stay off after failed starts (R461, R493,
R494). -/
def execModuleShutdown (cause : ShutdownCause) (s : State) : Result :=
  s.always fun _ b =>
    (Own.reset, (unpowered b .off).updBoard fun x =>
      match cause with
      | .vinLow => { x with railTries := 0, gaveUp := false }
      | .pwrEnLow => { x with railTries := 0, gaveUp := false, pwrEn := false }
      | .railLow _ => x)

/-! ### Warm reset (R455 to R458, R469) -/

/-- A stack's registers and queues after a warm reset: MAXT, RATE and the repair candidates kept; the controllers go on refreshing;
the accepted writes, whose bytes are in place, are complete, and what no controller had accepted is gone (R223, R231). -/
def Stack.warm (x : Stack) : Stack :=
  { Stack.reset with
    maxT := x.maxT, rate := x.rate, cands := x.cands, corrected := x.corrected, used := x.used, spareRows := x.spareRows
    softRows := x.softRows, hardRows := x.hardRows, identity := x.identity, setting := x.setting, rfm := x.rfm, reissue := x.reissue, refreshes := x.refreshes
    queues := x.queues.map fun (q : PcQueues) => { q with waiting := [], writes := [], batch := 0, lcRow := 0 } }

/-- A link after a warm reset: its registers kept, everything in flight gone, its transmitter squelched until the steward
releases it (R301, R457, R468). -/
def Link.warm (l : Link) : Link :=
  { Link.reset with
    saved := l.saved, rtt := l.rtt, trains := l.trains, fecSym := l.fecSym, replay := l.replay, disc := l.disc, lost := l.lost
    peerId := l.peerId, peerLink := l.peerLink }

/-- The fabric island after a warm reset: configuration and routes cleared, saved settings and time kept (R457). -/
def Fab.warm (f : Fab) : Fab :=
  { Fab.reset with
    links := f.links.map Link.warm, time := f.time, half := f.half
    cfg := f.cfg.map fun (c : LinkCfg) => { LinkCfg.reset with savedKey := c.savedKey, savedCoef := c.savedCoef } }

/-- Firmware staging after a warm reset: abandoned; LAST tells it (R480). -/
def Fw.warm (f : Fw) : Fw := { Fw.idle with last := if f.busy then stIncomplete else f.last }

/-- An address in DRAM or the cave, whose contents a warm reset keeps (R179, R223). -/
def keptWarm (a : Nat) : Bool := decide (a < 0xD800000000) || inside (caveBase, 0x40000) a 1

/-- The board after a warm reset of a source. -/
def Board.warm (x : Board) (src : ResetSrc) : Board :=
  { x with
    phase := .resetHeld
    cause := { x.cause with src := BitVec.ofNat 3 (srcNum src), bootErr := 0 }
    cave := { x.cave with warm := satAdd x.cave.warm 1, cold := false, scrubbed := false, stwLost := false, pLost := 0 }
    pwrIn := { x.pwrIn with peak := 0 }, warmReq := none, wdogArmed := false
    wdogRecent := if src = .resetN ∧ x.phase = .held then [] else x.wdogRecent
    katDone := false, heartbeat := 0, tripped := false, xport := 0, world := 0, fwStaged := 0
    powerCap := Board.reset.powerCap, smbResp := [], smbCmd := none, fw := x.fw.warm }

/-- The state after a warm reset of a source, before the boot (R457). -/
def Body.warm (b : Body) (src : ResetSrc) : Body :=
  { Body.reset with
    board := b.board.warm src
    ports := b.ports.map fun (x : PortState) => { x with spdm := PortState.reset.spdm }
    stks := b.stks.map Stack.warm, fab := b.fab.warm, mem := { b.mem.keepOnly keptWarm with zeroing := [] }, bkp := b.bkp, bkpBad := b.bkpBad
    out := b.out, free := b.free }

/-- A warm reset may take effect: not while the module trips until every stack reads below 85 degrees (R225, R456); a held
steward restarts by RESET_N alone (R464). -/
def warmMay (b : Body) (src : ResetSrc) : Bool :=
  b.board.modRef && !(b.board.phase == .off) && !(b.board.phase == .powerOn) && (b.board.phase != .held || src == .resetN) &&
    (!b.board.tripped || b.stks.all fun (x : Stack) => x.valid && decide (x.temp.toNat < 85))

/-- The errors that the next boot read will find: backup registers and cave words whose codes no longer correct, which are free values
(R169, R177, R178; log entry 111). -/
def upset (b : Body) : Body :=
  { b with
    bkpBad := b.bkpBad ||| Config.bkpUpset b.free
    mem := (Config.caveUpset b.free).foldl
      (fun m a => if inside (caveBase, 0x40000) a.toNat 1 then m.poisonUnit 8 a.toNat else m) b.mem
    free := b.free + 1 }

/-- WARM_RESET: the reset takes effect; held, the module waits, else its boot ROM runs (R455 to R458, R469). -/
def warmReset (o : Own) (b : Body) : Own × Body :=
  match b.board.warmReq with
  | none => (o, b)
  | some src =>
    if warmMay b src then
      let r := releaseHold o.warm ((upset b).warm src)
      (r.1, r.2.noteModule b)
    else (o, b)

/-- WARM_RESET, with the errors its boot will find in the cave and in the backup registers. -/
def execWarmReset (s : State) : Result := s.both warmReset

/-- RESET_N_LOW: the pin low for 1 µs requests a warm reset that lasts while it stays low; its return ends the hold (R455). -/
def resetPin (low : Bool) (o : Own) (b : Body) : Own × Body :=
  let b1 := b.updBoard fun x => { x with resetNHeld := low }
  if low then (o, b1.requestWarm .resetN) else releaseHold o b1

/-- RESET_N_LOW. -/
def execResetNLow (low : Bool) (s : State) : Result := s.always (resetPin low)

/-! ### Watchdog and heartbeat (R394, R462 to R464) -/

/-- Ceiling cycles of 10 minutes. -/
def Board.tenMinutes (x : Board) : Nat := 600 * x.ceil.toNat * 100000000

/-- The expiry is the third within 10 minutes of the first of the three (which lies after power-on). -/
def Board.thirdExpiry (x : Board) : Bool :=
  match x.wdogRecent with
  | _ :: t :: _ => decide (x.uptime ≤ t + x.tenMinutes)
  | _ => false

/-- WATCHDOG_EXPIRY: a warm reset, or, at a third expiry while no image is on trial, the steward is held (R463, R464). -/
def watchdogExpiry (b : Body) : Body :=
  if !b.stewardRuns ∨ !b.board.wdogArmed then b
  else
    let third := b.board.thirdExpiry && !b.board.cause.trial
    let b1 := b.updBoard fun x =>
      { x with
        cause := { x.cause with wdog := if x.cause.wdog = 15 then 15 else x.cause.wdog + 1 }
        wdogRecent := (x.uptime :: x.wdogRecent).take 3, wdogArmed := false }
    if third then (b1.updBoard fun x => { x with phase := .held }).noteModule b else b1.requestWarm .watchdog

/-- WATCHDOG_EXPIRY. -/
def execWatchdogExpiry (s : State) : Result := s.onBody fun _ b => watchdogExpiry b

/-- HEARTBEAT: every 100 µs while the steward runs (R394). -/
def execHeartbeat (s : State) : Result :=
  s.onBody fun _ b => if b.stewardRuns then b.updBoard fun x => { x with heartbeat := x.heartbeat + 1 } else b

/-! ### Supply sags (R459, R460) -/

/-- Place of a monitored rail in BELOW1. -/
def railIx : Rail → Nat
  | .vin => 0
  | .vcore => 1
  | .vmem => 2
  | .vio => 3

/-- SAG_WARNING: the rail's bit, its count and vector 0 (R459). -/
def sagWarning (b : Body) (r : Rail) : Body :=
  let s := b.board.sag
  if b.board.phase = .off ∨ s.below1.toNat.testBit (railIx r) then b
  else
    let b1 := b.updBoard fun x =>
      { x with sag := { s with
          below1 := s.below1 ||| BitVec.ofNat 4 (2 ^ railIx r), warn := s.warn.modify (railIx r) fun n => satAdd n 1 } }
    (b1.fire .a 0).fire .b 0

/-- SAG_WARNING. -/
def execSagWarning (rail : Rail) (s : State) : Result := s.onBody fun _ b => sagWarning b rail

/-- SAG_WARNING_RELEASE: the rail has stayed above TH1 + 1 % for 100 µs (R459). -/
def sagRelease (b : Body) (r : Rail) : Body :=
  (b.updBoard fun x =>
    { x with sag := { x.sag with below1 := x.sag.below1 &&& ~~~(BitVec.ofNat 4 (2 ^ railIx r)) } }).noteModule b

/-- SAG_WARNING_RELEASE. -/
def execSagWarningRelease (rail : Rail) (s : State) : Result := s.onBody fun _ b => sagRelease b rail

/-- SUPPLY_SAG_RESET: the rails below TH2 are recorded and a warm reset with SRC 3 is asked for, held until the sag is over
(R460). -/
def execSupplySagReset (rails : BitVec 4) (s : State) : Result :=
  s.always fun o b =>
    (o, if b.board.phase = .off then b
      else (b.updBoard fun x => { x with cause := { x.cause with sagRails := rails }, sagHeld := true }).requestWarm .sag)

/-- SAG_RESET_RELEASE: every rail has stayed above TH1 for 1 ms (R460). -/
def execSagResetRelease (s : State) : Result :=
  s.always fun o b => releaseHold o (b.updBoard fun x => { x with sagHeld := false })

/-! ### References (R451, R497) -/

/-- A link whose transmitter has no reference: squelched, STATE 0. -/
def Link.noRef (l : Link) : Link := { l.lose with state := .off, lost := l.lost }

/-- REFERENCE_CLOCK_LOSS (R497). -/
def refLoss (b : Body) : RefClock → Body
  | .module => b.updBoard fun x => { x with modRef := false }
  | .fabric =>
    (b.updBoard fun x => { x with fabRef := false }).updFab fun f => { f with links := f.links.map Link.noRef }
  | .port q =>
    (b.updBoard fun x => { x with portRef := x.portRef.set (portIx q) false }).updPort q fun x =>
      { x with linkUp := false, width := 0, rate := 0 }

/-- REFERENCE_CLOCK_LOSS. -/
def execReferenceClockLoss (ref : RefClock) (s : State) : Result := s.always fun o b => (o, refLoss b ref)

/-- The steward releases the fabric transmitters from squelch, but for those that LINK_DISABLE has squelched (R296, R416). -/
def Body.releaseLinks (b : Body) : Body :=
  if b.board.fabRef then
    b.updFab fun f => { f with links := f.links.map fun (l : Link) => if l.state = .off ∧ !l.disabled then { l with state := .training } else l }
  else b

/-- REFERENCE_CLOCK_RETURN: taken up without a reset; the module's lets stopped islands go on, and a reset that was asserted meanwhile
takes effect before they do anything else (R451, R497). -/
def refReturn (o : Own) (b : Body) : RefClock → Own × Body
  | .module =>
    let b1 := b.updBoard fun x => { x with modRef := true }
    if b1.board.warmReq.isSome then warmReset o b1 else releaseHold o b1
  | .fabric =>
    let b1 := b.updBoard fun x => { x with fabRef := true }
    (o, if b1.board.phase = .firmware ∨ b1.board.phase = .ready then b1.releaseLinks else b1)
  | .port q => (o, b.updBoard fun x => { x with portRef := x.portRef.set (portIx q) true })

/-- REFERENCE_CLOCK_RETURN. -/
def execReferenceClockReturn (ref : RefClock) (s : State) : Result := s.always fun o b => refReturn o b ref

/-! ### From the boot ROM to READY (R468 to R472, R476, R484) -/

/-- An image slot may start: it verifies and is not below FW_FLOOR (R446, R476). -/
def Board.starts (x : Board) (slot : Bool) : Bool :=
  let i := x.flash.images.getD (if slot then 1 else 0) ⟨false, 0⟩
  i.valid && decide (x.policy.floor.toNat ≤ i.version.toNat)

/-- The selection as the boot ROM reads it: the fourth boot of a trial image that has not reached READY goes back (R484). -/
def Board.selected (x : Board) : Board :=
  if !x.flash.trial then x
  else if x.flash.trialBoots ≥ 3 then
    { x with flash := { x.flash with select := !x.flash.select, trial := false, trialBoots := 0 }, wdogRecent := [] }
  else { x with flash := { x.flash with trialBoots := x.flash.trialBoots + 1 } }

/-- FIRMWARE_START: the selected image, or the other, starts; without either BOOTERR 4 (R468, R476). -/
def firmwareStart (b : Body) : Body :=
  if b.board.phase ≠ .bootRom ∨ !b.board.modRef then b
  else
    let x := b.board.selected
    let pick := if x.starts x.flash.select then some x.flash.select else if x.starts !x.flash.select then some !x.flash.select else none
    match pick with
    | none => { b with board := { x with phase := .bootError, cause := { x.cause with bootErr := 4 } } }
    | some s =>
      let img := x.flash.images.getD (if s then 1 else 0) ⟨false, 0⟩
      { b with board := { x with
          phase := .firmware, wdogArmed := true, fwActive := img.version
          cause := { x.cause with image := s, trial := x.flash.trial && s == x.flash.select } } }.releaseLinks

/-- FIRMWARE_START. -/
def execFirmwareStart (s : State) : Result := s.onBody fun _ b => firmwareStart b

/-- Boot stops after the steward has started (R454). -/
def Body.bootFails (b : Body) (e : Byte) : Body := b.updBoard fun x => { x with cause := { x.cause with bootErr := e } }

/-- All 24 stacks. -/
def allStacks : BitVec 24 := 0xFFFFFF

/-- A stack starts from saved results: their key, the stack's identity at its position, matches, and they serve (R470). -/
def trainsFromSaved (k : Option SavedTraining) (x : Stack) (serves : Bool) : Bool := k.elim false fun k => k.identity == x.identity && serves

/-- The stacks as trained at one rate, with the results in force. -/
def Body.trainStacks (b : Body) (t : TrainTry) (rate : BitVec 2) : List Stack :=
  b.stks.zipIdx.map fun ((x, i) : Stack × Nat) =>
    let k := (b.board.flash.savedTraining.getD i none)
    { x with rate := rate, setting := if trainsFromSaved k x (t.savedServes.toNat.testBit i) then k.elim [] (·.results) else t.results.getD i [] }

/-- The results of each full training that passed, saved under the stack's identity and position (R470). -/
def Body.saveTraining (b : Body) (t : TrainTry) : List (Option SavedTraining) :=
  b.stks.zipIdx.map fun ((x, i) : Stack × Nat) =>
    let k := (b.board.flash.savedTraining.getD i none)
    if trainsFromSaved k x (t.savedServes.toNat.testBit i) || !t.passes.toNat.testBit i then k else some ⟨x.identity, t.results.getD i []⟩

/-- DRAM_TRAINING_COMPLETE: one pin rate for all stacks; what was trained in full is saved to flash; DRAM is zeroed (R206, R224, R470).
Training begins in the boot ROM, and from saved results it may end there; a failure is reported once the steward has started (R454,
R468). -/
def dramTrained (b : Body) (fast slow : TrainTry) : Body :=
  if (b.board.phase ≠ .bootRom ∧ b.board.phase ≠ .firmware) ∨ b.board.rate ≠ 0 ∨ b.board.cause.bootErr ≠ 0 then b
  else
    let quick := b.board.flash.variant.qual.toNat == 0xFFFFFF && fast.passes == allStacks
    let t := if quick then fast else slow
    let b1 := b.updBoard fun x => { x with flash := { x.flash with savedTraining := b.saveTraining t } }
    if t.passes ≠ allStacks then (if b.board.phase = .firmware then b1.bootFails 5 else b)
    else
      let rate : BitVec 2 := if quick then 2 else 1
      { b1 with
        board := { b1.board with rate := rate }
        stks := b.trainStacks t rate
        mem := b.mem.zero 0 0xD800000000 }

/-- DRAM_TRAINING_COMPLETE. -/
def execDramTrainingComplete (fast slow : TrainTry) (s : State) : Result := s.onBody fun _ b => dramTrained b fast slow

/-- KNOWN_ANSWER_RUNS: failing cores and media units are withdrawn, a failing quadrant engine stops the boot (R472). -/
def knownAnswers (b : Body) (coreFail : W32) (mediaFail : BitVec 45) (quadFail : BitVec 4) : Body :=
  if b.board.phase ≠ .firmware ∨ b.board.rate = 0 ∨ b.board.cause.bootErr ≠ 0 then b
  else
    let b1 := b.updBoard fun x =>
      let off : BitVec 45 := x.flash.repair.mediaOff.setWidth 45
      let new := mediaFail &&& ~~~off
      { x with
        cause := { x.cause with
          coreOut := x.cause.coreOut ||| coreFail
          mediaOut := BitVec.ofNat 6 ((List.range 45).countP fun u => new.toNat.testBit u) }
        mediaOff := off ||| mediaFail, katDone := true }
    if quadFail = 0 then b1 else b1.bootFails 6

/-- KNOWN_ANSWER_RUNS. -/
def execKnownAnswerRuns (coreFail : W32) (mediaFail : BitVec 45) (quadFail : BitVec 4) (s : State) : Result :=
  s.onBody fun _ b => knownAnswers b coreFail mediaFail quadFail

/-- An interrupted PART_DELETE is completed: the partition's memory is zeroed, its record goes (R427, R458). -/
def finishDelete (r : Own × Body) (p : Fin 8) : Own × Body :=
  if (r.1.prec p).phase = .deleting then (deleteEnd r.1 p, r.2.zeroBlock p (r.1.prec p).block false) else r

/-- A planned partition that can be created is (R425, R446). -/
def plan (r : Own × Body) (e : Fin 8 × PBlock) : Own × Body :=
  if (createCheck r.1 r.2 e.1 e.2).isSome then r
  else
    (createEnd ({ r.1 with maps := r.1.withMaps e.1 e.2 }.setRec e.1 .creating e.2) e.1,
      ((r.2.zeroBlock e.1 e.2 true).zeroPair e.1).updPart e.1 fun _ => Part.reset)

/-- MODULE_READY: deletions finished, in the first boot since power-on to come this far the plan's partitions created, trial state cleared, READY (R427, R446,
R458, R468, R484, R499). -/
def moduleReady (gpio : BitVec 4) (o : Own) (b : Body) : Own × Body :=
  if b.board.phase ≠ .firmware ∨ !b.board.modRef ∨ b.board.cause.bootErr ≠ 0 ∨ b.board.rate = 0 ∨ !b.board.katDone then (o, b)
  else
    let r1 := (List.finRange 8).foldl finishDelete (o, b)
    let r2 := if b.board.planMade then r1 else b.board.policy.plan.foldl plan r1
    (r2.1, (r2.2.updBoard fun x =>
      { x with
        phase := .ready, gpio := gpio, planMade := true, cause := { x.cause with trial := false }
        flash := { x.flash with trial := false, trialBoots := 0 } }).noteModule b)

/-- MODULE_READY. -/
def execModuleReady (gpio : BitVec 4) (s : State) : Result := s.both (moduleReady gpio)

end Sys2Proof.Machine
end

