-- ==== Sys2Proof/Machine/SideBand.lean ====
section
/-! DEFINITION. The side-band management bus and the boundary-scan port (R453, R454, R498 to R503). -/

namespace Sys2Proof.Machine

open Sys2Proof

/-! ### State code and alert (R454, R503) -/

/-- The 3-bit code of STAT2 to STAT0 (R454). -/
def Body.statCode (b : Body) : Nat :=
  if !b.board.modRef then 7
  else match b.board.phase with
    | .off | .powerOn | .resetHeld => 7
    | .bootRom => 6
    | .bootError => 1
    | .firmware => if b.board.tripped then 3 else if b.board.cause.bootErr ≠ 0 then 1 else 5
    | .ready => if b.board.tripped then 3 else 4
    | .held => 2

/-- The alert causes: ALERT_N is low while any holds (R503). -/
def Body.alertCauses (b : Body) : Nat :=
  (if b.board.tripped then 1 else 0) + (if b.board.phase = .held then 2 else 0) + (if b.board.cause.bootErr ≠ 0 then 4 else 0) +
    (if b.throtNow then 8 else 0)

/-! ### Pins (R452, R453, R459, R504) -/

/-- VIO is good: the rail has risen (R493, R504). -/
def Board.vioGood (x : Board) : Bool := !(x.phase == .off) && x.rails.contains .vio

/-- A port's lanes in service (R453, R504). -/
def Body.portLanes (b : Body) (q : Port) : PortLanes :=
  if !b.board.vioGood then .highZ
  else if b.board.padsSet && !(b.port q).perst && b.board.portRef.getD (portIx q) false then .operating
  else .electricalIdle

/-- A link's transmitter in service (R296, R453, R497, R504). -/
def Body.fabricTx (b : Body) (l : Link) : FabricTx :=
  if !b.board.vioGood then .highZ
  else if !b.board.padsSet || !b.board.fabRef || l.state == .off then .squelched
  else if l.state == .up then .flits
  else .trainingBlocks

/-- A link's receiver (R453, R504). -/
def Body.fabricRx (b : Body) (l : Link) : FabricRx :=
  match b.fabricTx l with
  | .highZ | .scan _ => .highZ
  | .squelched => .nothing
  | .trainingBlocks => .trainingBlocks
  | .flits => .payload

/-- The general-purpose pins: inputs with weak pulls from VIO on, as firmware configures them once it has started; it never drives
them (R453, R499, R504). -/
def Body.gpioPins (b : Body) : GpioPins :=
  if !b.board.vioGood then .highZ
  else if b.board.padsSet && (b.board.phase == .firmware || b.board.phase == .ready || b.board.phase == .held) then .configuredInputs
  else .pulledInputs

/-- Every pin of R453 in service; the side-band bus is not acknowledged before the steward runs. -/
def Body.servicePins (b : Body) : Pins where
  alertN := !b.board.padsSet || b.alertCauses == 0
  sagWarnN := !b.board.padsSet || b.board.sag.below1 == 0
  stat := BitVec.ofNat 3 b.statCode
  ports := [b.portLanes .a, b.portLanes .b]
  tx := b.fab.links.map b.fabricTx
  rx := b.fab.links.map b.fabricRx
  smbNaks := !b.stewardRuns
  gpio := b.gpioPins
  scanned := false

/-- The pins under a test instruction, which overrides every state of R453 in every phase: under HIGHZ no pin is driven; else the
boundary register's cells drive them, by the order of pins that the module's description file gives (R453, R501; log entry 42). -/
def Body.scanPins (b : Body) : Pins :=
  let level (i : Nat) : Nat := Config.scanLevel b.board.cells i
  let z := b.board.tap == .highz
  { alertN := z || level 0 != 0
    sagWarnN := z || level 1 != 0
    stat := if z then 7 else BitVec.ofNat 3 ((level 2 % 2) + 2 * (level 3 % 2) + 4 * (level 4 % 2))
    ports := (List.range 2).map fun i => if z then .highZ else .scan (level (5 + i))
    tx := (List.range 24).map fun i => if z then .highZ else .scan (level (7 + i))
    rx := List.replicate 24 .highZ
    smbNaks := true
    gpio := .pulledInputs
    scanned := true }

/-- Every pin of R453: a test instruction overrides the rest wherever VIO is good. -/
def Body.pins (b : Body) : Pins := if b.board.vioGood && tapHolds b.board.tap then b.scanPins else b.servicePins

/-! ### Block reads (R498, R499) -/

/-- The target's 7-bit address, by the straps (R498). -/
def Board.smbAddr (x : Board) : Nat := 0x58 + x.sbAddr.toNat

/-- A transaction: NAKed until the steward runs (R453, R498). -/
def Body.smb (b : Body) (f : Body → Body) : Body :=
  if b.board.phase = .off then b else if b.stewardRuns then f b else b.emit .smbNak

/-- Answer a block read. -/
def smbRead (f : Body → List Byte) (s : State) : Result := s.always fun o b => (o,  b.smb fun b => b.emit (.smb b.board.smbAddr (f b)))

/-- The status block. -/
def smbStatus (b : Body) : List Byte :=
  [b.statCode, b.devState, b.board.var.toNat, b.alertCauses, (b.stks.map fun (x : Stack) => x.temp.toNat).foldl max 0,
    b.board.junction, b.board.gpio.toNat, 0].map (BitVec.ofNat 8) ++ leBytes 4 b.board.heartbeat.toNat ++
    [BitVec.ofNat 8 b.board.cause.src.toNat, b.board.cause.bootErr, 0, 0]

/-- SMB_STATUS_READ. -/
def execSmbStatusRead (s : State) : Result := smbRead smbStatus s
/-- SMB_PWR_IN_READ. -/
def execSmbPwrInRead (s : State) : Result := smbRead (fun b => leBytes 8 b.board.pwrIn.reg.toNat) s
/-- SMB_PWR_SAG_READ. -/
def execSmbPwrSagRead (s : State) : Result := smbRead (fun b => leBytes 8 b.board.sag.reg.toNat) s
/-- SMB_STACK_TEMP_READ. -/
def execSmbStackTempRead (s : State) : Result := smbRead (fun b => b.stks.map fun (x : Stack) => x.temp) s
/-- SMB_IDENTITY_READ. -/
def execSmbIdentityRead (s : State) : Result :=
  smbRead (fun b => leBytes 2 0x1C7B ++ leBytes 2 0x4824 ++ [b.board.stepping, 0, 0, 0] ++ leBytes 8 b.board.serial.toNat) s
/-- SMB_FW_VER_READ. -/
def execSmbFwVerRead (s : State) : Result := smbRead (fun b => leBytes 8 b.fwVer.toNat) s

/-! ### XNX over the side-band bus (R500) -/

/-- SMB_XNX_COMMAND_WRITE: NAKed while a command is outstanding, on a PEC that does not match, or with a length that the block
write does not have; else the command is outstanding until the steward takes it. -/
def smbWrite (data : List Byte) (pec : Option Bool) (b : Body) : Body :=
  if b.board.smbCmd.isSome ∨ pec = some false ∨ data.length < 16 ∨ 240 < data.length then b.emit .smbNak
  else { b.updBoard fun x =>
      { x with smbCmd := some data, smbResp := respBytes stPending (BitVec.ofNat 16 (field data 2 2)) 0 [] } with
    gos := b.gos ++ [.sideBand] }

/-- SMB_XNX_COMMAND_WRITE. -/
def execSmbXnxCommandWrite (data : List Byte) (pec : Option Bool) (s : State) : Result :=
  s.always fun o b => (o, b.smb (smbWrite data pec))

/-- SMB_XNX_RESPONSE_READ (R500). -/
def execSmbXnxResponseRead (s : State) : Result := smbRead (fun b => b.board.smbResp) s

/-! ### Boundary scan (R501, R502) -/

/-- A new current instruction, wherever VIO is good: one that holds reset asks for a warm reset with SRC 1; leaving it ends the hold. -/
def tapLoad (t : TapInstr) (o : Own) (b : Body) : Own × Body :=
  if !b.board.vioGood then (o, b)
  else
    let was := tapHolds b.board.tap
    let b1 := b.updBoard fun x => { x with tap := t }
    if tapHolds t then (o, if was then b1 else b1.requestWarm .resetN) else if was then releaseHold o b1 else (o, b1)

/-- TAP_RESET: Test-Logic-Reset, with IDCODE selected. -/
def execTapReset (s : State) : Result := s.always (tapLoad .idcode)
/-- BYPASS. -/
def execBypass (s : State) : Result := s.always (tapLoad .bypass)

/-- The identification register (R501). -/
def Board.idcode (x : Board) : W32 := BitVec.ofNat 32 (x.stepping.toNat % 16 * 2 ^ 28 + 0x04824F8F)

/-- IDCODE: the identification register shifts out. -/
def execIdcode (s : State) : Result :=
  s.always fun o b =>
    let r := tapLoad .idcode o b
    (r.1, if !b.board.vioGood then r.2 else r.2.emit (.tdo b.board.idcode))

/-- SAMPLE_PRELOAD: the boundary register takes the preloaded cells. -/
def execSamplePreload (cells : List Bool) (s : State) : Result :=
  s.always fun o b =>
    let r := tapLoad .samplePreload o b
    (r.1, if !b.board.vioGood then r.2 else r.2.updBoard fun x => { x with cells := cells })

/-- EXTEST. -/
def execExtest (s : State) : Result := s.always (tapLoad .extest)
/-- CLAMP. -/
def execClamp (s : State) : Result := s.always (tapLoad .clamp)
/-- HIGHZ. -/
def execHighz (s : State) : Result := s.always (tapLoad .highz)
/-- EXTEST_PULSE. -/
def execExtestPulse (s : State) : Result := s.always (tapLoad .extestPulse)
/-- EXTEST_TRAIN. -/
def execExtestTrain (s : State) : Result := s.always (tapLoad .extestTrain)

/-- TAP_LEAVE_EXTEST: the TAP leaves an instruction that holds reset; IDCODE is then current (log entry 42). -/
def execTapLeaveExtest (s : State) : Result :=
  s.always fun o b => if tapHolds b.board.tap then tapLoad .idcode o b else (o, b)

end Sys2Proof.Machine
end

