-- ==== Sys2Proof/Machine/Clock.lean ====
section
/-! DEFINITION. What a tick does: the step on an empty queue, one cycle of a clock at the variant ceiling (log entry 8). Fabric
time, the vigil counters and the bound counters advance (R128, R130, R300, R323 to R325), the DRAM controllers go on (R217, R222, R226),
and the steward takes the side-band
command that waits (R500). -/

namespace Sys2Proof.Machine

open Sys2Proof

/-- How far a clock at f has stepped between cycles n and n + 1 of a clock at c, kept in phase with cycle 0: 0 or 1 when f ≤ c. -/
def phaseStep (n f c : Nat) : Nat := (n + 1) * f / c - n * f / c

/-! ### Vigil counters (R323 to R325) -/

/-- Order of the nine counters in `Core.vig`. -/
def vBusy : Nat := 0
/-- FABRIC. -/
def vFabric : Nat := 1
/-- PEER. -/
def vPeer : Nat := 2
/-- DRAM. -/
def vDram : Nat := 3
/-- HOST. -/
def vHost : Nat := 4
/-- BUBBLE. -/
def vBubble : Nat := 5
/-- PREEMPT. -/
def vPreempt : Nat := 6
/-- THERMAL. -/
def vThermal : Nat := 7
/-- POWER. -/
def vPower : Nat := 8

/-- An entry has a DRAM operand: an XFORM whose source or destination lies there, of a plane set its arrays; a UPD that works on shards, or
that reads gradients there (R325). -/
def aeUsesDram (s : Slot) (e : Ae) : Bool :=
  if e.kind = kXform then
    let x := xdOf s.image e.ref
    (x.srcRanges (s.xdPlane x) ++ x.dstRanges (s.xdPlane x)).any fun r => decide (r.1 < 0xD800000000)
  else if e.kind = kUpd then
    let u := udOf s.image e.ref
    u.op == opApply || u.op == opCompare || u.op == opCommit || (u.op == opNorm && decide (u.grad < 0xD800000000))
  else false

/-- An entry of a core's list has not completed: it is launched, or its turn to issue has not come. -/
def CoreCtx.uncompleted (k : CoreCtx) (i : Nat) : Bool := decide (k.aeIdx.toNat ≤ i) || k.launched.any (·.idx == i)

/-- The entries of an almanac that increment an event, an MJ's progress event among them: which core, which index, and the entry (the
loader's record). -/
def incrementing (img : List Byte) (evt : Nat) : List AePos := (allAes img).filter fun a => a.ae.increments img evt

/-- The cause that a wait on an event counts as (R325). -/
def waitCause (b : Body) (x : CtxId) (evt : Nat) (seen : Bool) : Nat :=
  let img := b.imageOf x
  let all := incrementing img evt
  let left := all.filter fun a =>
    match finOf 32 a.core with
    | some c => (b.core c).cx.uncompleted a.pos
    | none => false
  if left.any (·.ae.kind == kColl) then vPeer
  else if left.any (·.ae.kind == kMedia) then vHost
  else if left.any (fun (a : AePos) => aeUsesDram (b.slot x.part x.slot) a.ae) then vDram
  else if all.isEmpty && evt != 0xFF && seen then vFabric
  else vBubble

/-- The sequencer is at the launch limit: its next entry would be launched and 16 are out (R125). -/
def CoreCtx.atLimit (k : CoreCtx) (img : List Byte) (c : Nat) : Bool :=
  let e := aeOf img c k.aeIdx.toNat
  decide (16 ≤ k.launched.length) && decide (k.aeIdx.toNat < aeCount img c) &&
    !(e.kind == kWait || e.kind == kSignal || e.kind == kSlot || e.kind == kEnd)

/-- The engines that a core's next entry goes to can take it: a rind TILE while the core has no rind job outstanding (R95), another in an
empty press, a VEC in an idle vector unit, an XFORM or UPD while its queue has room. -/
def Body.engineFree (b : Body) (img : List Byte) (c : Fin 32) (e : Ae) : Bool :=
  let k := (b.core c).cx
  let q := b.quad (quadOf c)
  if e.kind = kTile then (if (tdOf img e.ref).rind then !q.rindOf c else k.tile.isNone && k.outs == [])
  else if e.kind = kVec then k.vec.isNone
  else if e.kind = kXform then decide (q.xfQ.length < 128)
  else if e.kind = kUpd then decide (q.udQ.length < 128)
  else true

/-- The sequencer waits for nothing but DRAM: its next entry for its descriptor, which is read from the store region, no engine holding it
back, or its END for the flush before it, whose writes are not admitted (R101, R152, R226, R325; log entry 95). -/
def Body.awaitsDram (o : Own) (b : Body) (x : CtxId) (c : Fin 32) : Bool :=
  let img := b.imageOf x
  let k := (b.core c).cx
  let e := aeOf img c.val k.aeIdx.toNat
  (decide (k.aeIdx.toNat < aeCount img c.val) && (descOf e.kind).isSome && !k.atLimit img c.val && b.engineFree img c e) ||
    (k.listDone img c.val && !b.flushFlows o x.part c)

/-- A context is being restored onto a core: its own restore, or that of a training context whose guest has left (R272, R430). -/
def Body.restoringOn (b : Body) (i : Nat) : Bool :=
  b.parts.any fun (p : Part) => p.slots.any fun (s : Slot) =>
    (s.run == .restoring || (s.run == .preempted && s.underGuest.isSome)) && (hdrOf s.image).cores.testBit i

/-- The cause of an idle core cycle (R325). An idle context that a restore of another on its cores evicts is being saved (R429). -/
def idleCause (o : Own) (b : Body) (x : CtxId) (c : Fin 32) : Nat :=
  let s := b.slot x.part x.slot
  let k := (b.core c).cx
  if s.run = .restoring ∨ s.run = .stopping ∨ s.run = .saving ∨ s.run = .preempted ∨ (s.run = .idle ∧ b.restoringOn c.val) then
    vPreempt
  else if s.run = .idle ∨ k.seq ≠ .running then vHost
  else match k.waiting with
    | some w => waitCause b x w.evt.toNat k.fabSeen
    | none =>
      if b.awaitsDram o x c then vDram
      else
        match k.launched with
        | l :: _ => if k.atLimit s.image c.val then waitCause b x l.evt.toNat false else vBubble
        | [] => vBubble

/-- The cause to which the share of a core below the ceiling goes: the one in force, else the last one that was (R324). -/
def Core.shareCause (c : Core) (cause : Nat) : Nat := if (if cause = 0 then c.capWas else cause) = 2 then vPower else vThermal

/-- The core is BUSY: a matrix-engine tile within its span or a VEC entry running (R84, R325). -/
def Core.busy (c : Core) : Bool := c.tileBusy || (c.cx.vec.isSome && c.cx.seq == .running)

/-- A ceiling cycle of a core is a cycle of its own clock, which is at or below the ceiling (R324). -/
def Body.coreCycle (b : Body) (c : Core) : Bool :=
  !(decide (c.clk < b.board.ceil.toNat) && phaseStep b.board.uptime c.clk b.board.ceil.toNat == 0)

/-- The counter that a ceiling cycle of a core counts in; the cycles of a known-answer tile are PREEMPT's (R473). -/
def vigCause (o : Own) (b : Body) (i : Fin 32) (c : Core) (x : CtxId) : Nat :=
  if c.relock then (if c.relockWhy = 2 then vPower else vThermal)
  else if !b.coreCycle c then c.shareCause (b.capCause c)
  else if c.kat ≠ 0 then vPreempt
  else if c.busy then vBusy
  else idleCause o b x i

/-- One ceiling cycle of the vigil counters of a core: they advance while a job context holds it, a restore of one counting PREEMPT
(R323, R325, R430); a cycle of a known-answer tile passes. -/
def tickVig (o : Own) (b : Body) (i : Fin 32) (c : Core) : Core :=
  let cause := b.capCause c
  let c1 := if cause = 0 then c else { c with capWas := cause }
  let c2 := if !c.relock && b.coreCycle c then { c1 with kat := c1.kat - 1 } else c1
  match c.ctx with
  | some x => { c2 with vig := c2.vig.modify (vigCause o b i c x) (· + 1) }
  | none => if b.restoringOn i.val then { c2 with vig := c2.vig.modify vPreempt (· + 1) } else c2

/-! ### Bound counters (R128) -/

/-- The count clock of an invocation, in 100 MHz units: the lower of CEIL and the lowest clock of the almanac's cores; 0 while one of
them is paused, unclocked or runs a known-answer tile (R473), or the invocation is pre-empted: tiles on their way to a pre-emption point and a COMPARE that holds are
timed on. -/
def countClock (b : Body) (x : CtxId) : Nat :=
  let s := b.slot x.part x.slot
  let cs := (imgCores s.image).map b.core
  if !(s.run = .running ∨ s.run = .stopping ∨ s.run = .held) ∨ cs.any (fun (c : Core) => c.relock || c.kat != 0) then 0
  else (cs.map fun (c : Core) => c.clk).foldl min (hdrOf s.image).ceil

/-- An entry's counter, and the note that a stack was throttled while it ran (R130). -/
def Launched.count (n : Nat) (throttled : Bool) (l : Launched) : Launched :=
  { l with counter := l.counter + n, thr := l.thr || throttled }

/-- One ceiling cycle of the bound counters of a core. -/
def tickBounds (o : Own) (b : Body) (c : Core) : Core :=
  match c.ctx with
  | none => c
  | some x =>
    let n := phaseStep b.board.uptime (countClock b x) b.board.ceil.toNat
    let t := b.throttled o x.part
    { c with cx := { c.cx with launched := c.cx.launched.map (Launched.count n t), waiting := c.cx.waiting.map (Launched.count n t) } }

/-! ### The tick -/

/-- One ceiling cycle of every core's counters. -/
def tickCores (o : Own) (b : Body) : List Core := b.cores.zipIdx.map fun (r : Core × Nat) => tickBounds o b (tickVig o b (Fin.ofNat 32 r.2) r.1)

/-- Nanoseconds of fabric time in the ceiling cycle that starts now; none without the fabric reference (R300, R451). -/
def tickNs (b : Body) : Nat := if b.board.fabRef then phaseStep b.board.uptime 10 b.board.ceil.toNat else 0

/-- The codes of the commands (R413 to R419, R424 to R427, R477 to R482). -/
def xnxCodes : List Nat :=
  [(0, 9), (1, 6), (2, 4), (3, 6), (4, 5), (5, 4), (6, 5), (7, 3)].flatMap fun (f : Nat × Nat) =>
    (List.range f.2).map fun i => 256 * f.1 + i + 1

/-- A GO whose command has no known CODE: the steward answers it, once it is the oldest, with REFUSED_FORMAT (R402, R412). -/
def serveUnknown (o : Own) (b : Body) : Body :=
  match b.gos with
  | .mailbox pg mb :: rest =>
    let m := b.mailbox pg mb
    if b.stewardUp && !xnxCodes.contains (m.field 0 2) then
      { b with gos := rest }.respond o ⟨pg, mb, BitVec.ofNat 16 (m.field 2 2), (m.field 8 4).testBit 0⟩ stFormat 0 []
    else b
  | _ => b

/-- A tick of a powered module with its reference: fabric time, counters and the time since power-on advance, the DRAM controllers
go on, and the steward
takes the side-band command that waits, or answers a command it does not know, where it is the oldest. While the rails rise, a tick is
the next rail's coming good (log entry 126). -/
def tick (o : Own) (b : Body) : Body :=
  if b.board.phase = .powerOn ∧ b.board.rails.length < railOrder.length then b.updBoard Board.riseRail
  else if !b.clocked then b
  else
    let b1 : Body := { b with
      cores := tickCores o b
      fab := { b.fab with time := b.fab.time + tickNs b }
      board := { b.board with uptime := b.board.uptime + 1 } }
    serveUnknown o (tickStacks o b1).smbServe

end Sys2Proof.Machine
end

