-- ==== Sys2Proof/Machine/Align.lean ====
section
/-! DEFINITION. Sensor alignment: sets, write indices, ticks (R356 to R358). -/

namespace Sys2Proof.Machine

open Sys2Proof

/-! ### Sets (R356, R417) -/

/-- A 10-byte IEEE 1588 timestamp in ns: 48-bit seconds, 32-bit nanoseconds (log entry 35). -/
def stampNs (l : List Byte) (o : Nat) : Nat := field l o 6 * 1000000000 + field l (o + 6) 4
/-- The timestamp of a time. -/
def stampBytes (t : Nat) : List Byte := leBytes 6 (t / 1000000000) ++ leBytes 4 (t % 1000000000)

/-- Input record s of MEDIA_ALIGN. -/
def alignInOf (a : List Byte) (s : Nat) : AlignIn :=
  let o := 0x20 + 32 * s
  ⟨field a o 8, field a (o + 8) 4, field a (o + 0xC) 2, field a (o + 0xE) 1, field a (o + 0x10) 8, field a (o + 0x18) 8, 0, [], none⟩

/-- MEDIA_ALIGN's rule. -/
def mediaAlignAct (x : Xnx) (o : Own) (b : Body) : Xres :=
  onPart x fun p =>
    let nin := xArg x 0 1
    let ins := (List.range nin).map (alignInOf x.args)
    let rsv := !zeros x.args 3 1 || !zeros x.args 0x1A 6 || (List.range nin).any fun s => !zeros x.args (0x20 + 32 * s + 0xF) 1
    if rsv || ins.any (fun i => i.fmt != 8 && i.fmt != 9) then .refused stFormat 0
    else
      match (ins.flatMap fun i => [(i.ring, i.rlen * i.recBytes), (i.widx, 8), (i.ridx, 8)]).find? fun r => !o.ownsMem p r.1 r.2 with
      | some r => .foreign r.1
      | none =>
        if !within nin 1 8 || decide (xArg x 1 1 > 1) || decide (xArg x 2 1 > 2) || !within (xArg x 4 4) 1000 1000000000 ||
            decide (xArg x 8 4 > 1000000000) ||
            ins.any (fun i => !(List.range 33).any (fun k => i.rlen == 2 ^ k) || !within i.es 1 1024) then .refused stBounds 0
        else
          let t : AlignSet := ⟨true, xArg x 1 1, xArg x 2 1, xArg x 4 4, xArg x 8 4, xArg x 0xC 4, stampNs x.args 0x10, ins, 0⟩
          .done o (b.updPart p fun y => { y with aligns := y.aligns.set x.arg0 t }) stOk 0 []

/-- MEDIA_ALIGN: LEN covers its inputs. -/
def execMediaAlign (x : Xnx) (s : State) : Result :=
  s.xnx 0x0404 x .part (x.len == 32 + 32 * xArg x 0 1) (decide (x.arg0 < 4)) (mediaAlignAct x)

/-! ### Write indices (R356) -/

/-- One record becomes visible: discarded when its stamp is below its predecessor's. -/
def AlignIn.see (src : Nat) (now : Nat) (m : Mem) (r : AlignIn × Nat) (n : Nat) : AlignIn × Nat :=
  let i := r.1
  let a := i.ring + n % max 1 i.rlen * i.recBytes
  let ts := if src = 0 then stampNs (m.bytes a 10) 0 else now
  let old := match i.lastTs with | some l => decide (ts < l) | none => false
  if old then ({ i with seen := n + 1 }, r.2 + 1)
  else ({ i with seen := n + 1, recs := i.recs ++ [(ts, a)], lastTs := some ts }, r.2)

/-- An input as its write index is sampled: the records newly visible, at most a ring of them; how many were discarded. -/
def AlignIn.sample (i : AlignIn) (src now : Nat) (m : Mem) : AlignIn × Nat :=
  let w := m.le i.widx 8
  let first := max i.seen (w - i.rlen)
  ((List.range (w - first)).map (first + ·)).foldl (AlignIn.see src now m) (i, 0)

/-- The words a sample of an input reads. -/
def AlignIn.reads (i : AlignIn) (m : Mem) : List (Nat × Nat) :=
  let w := m.le i.widx 8
  let first := max i.seen (w - i.rlen)
  (i.widx, 8) :: (List.range (w - first)).map fun k => (i.ring + (first + k) % max 1 i.rlen * i.recBytes, 64)

/-- One configured set of a partition sampled; an unreadable word faults as a read of the steward's (R512); a read that the memories
refuse samples nothing and is logged (R19, R159), and so does one that its stack holds up (R226, R227). -/
def sampleSet (o : Own) (p : Fin 8) (b : Body) (n : Nat) : Body :=
  let y := b.part p
  let s := y.aligns.getD n AlignSet.reset
  if !s.configured then b
  else
    let reads := s.inputs.flatMap fun (i : AlignIn) => i.reads b.mem
    if !b.flows o reads then b
    else
    match b.readRefused o (.media p 0 0) reads, b.firstBad o reads with
    | some (st, a), _ => b.logRefusal o p st (4, 0) a
    | none, some w => b.readBad o .steward w
    | none, none =>
      let b := b.correctedIn o reads
      let r := s.inputs.map fun (i : AlignIn) => i.sample s.tssrc b.fab.time b.mem
      (b.countReadsOf o reads).updPart p fun y =>
        { y with
          aligns := y.aligns.set n { s with inputs := r.map (·.1) }
          medRefused := satAdd y.medRefused (r.map (·.2)).sum }

/-- WRITE_INDEX_SAMPLE: every input of every set on the module (R356); a trip stops the aligners (R227). -/
def execWriteIndexSample (s : State) : Result :=
  s.onBody fun o b => if b.board.tripped then b else (List.finRange 8).foldl (fun b p => (List.range 4).foldl (sampleSet o p) b) b

/-! ### Ticks (R357, R358) -/

/-- Time of tick k. -/
def AlignSet.time (s : AlignSet) (k : Nat) : Nat := s.t0 + k * s.period
/-- An element of a record as F32. -/
def AlignIn.word (i : AlignIn) (m : Mem) (a e : Nat) : W32 :=
  if i.fmt = 9 then BitVec.ofNat 32 (m.le (a + 16 + 4 * e) 4) else b16Word (m.le (a + 16 + 2 * e) 2)

/-- Distance of two times. -/
def apart (a b : Nat) : Nat := (a - b) + (b - a)

/-- The record nearest to a time, of equally near ones the earliest (R357). -/
def nearest (t : Nat) (recs : List (Nat × Nat)) : Option (Nat × Nat) :=
  recs.foldl (fun best r =>
    match best with
    | some q => if apart r.1 t < apart q.1 t then some r else best
    | none => some r) none

/-- The records that an input's value at a time is made of: one record, or two with the fraction between them (R357); none:
absent. -/
def AlignIn.pick (i : AlignIn) (mode t gap : Nat) : Option (Nat × Option (Nat × W32)) :=
  let before := (i.recs.filter fun r => r.1 ≤ t).getLast?
  let after := i.recs.find? fun r => r.1 ≥ t
  let near (r : Nat × Nat) : Bool := decide (apart r.1 t ≤ gap)
  let one (r : Option (Nat × Nat)) : Option (Nat × Option (Nat × W32)) :=
    match r with
    | some r => if near r then some (r.2, none) else none
    | none => none
  if mode = 0 then one before
  else if mode = 1 then one (nearest t i.recs)
  else
    match before, after with
    | some l, some r =>
      if l.1 = t then one (some l)
      else if near l && near r then
        some (l.2, some (r.2, fdiv (toF32 (Num.ofInt ((t - l.1 : Nat) : Int) 0)) (toF32 (Num.ofInt ((r.1 - l.1 : Nat) : Int) 0))))
      else none
    | _, _ => none

/-- An input's elements at a tick: NaN when it is absent. -/
def AlignIn.values (i : AlignIn) (m : Mem) (mode t gap : Nat) : Bool × List W32 :=
  match i.pick mode t gap with
  | none => (false, List.replicate i.es 0x7FC00000)
  | some (a, none) => (true, (List.range i.es).map (i.word m a))
  | some (a, some (b, w)) => (true, (List.range i.es).map fun e =>
      let x := i.word m a e
      fadd x (fmul (fsub (i.word m b e) x) w))

/-- Drop the records that no later tick can use: those before the last at or before a time; in mode NEAR records with its stamp stay. -/
def AlignIn.pass (i : AlignIn) (mode t : Nat) : AlignIn :=
  let seen := i.recs.takeWhile fun r => r.1 ≤ t
  let same := if mode = 1 then (seen.filter fun r => some r.1 == seen.getLast?.map (·.1)).length else 1
  { i with recs := i.recs.drop (seen.length - same) }

/-- The read index: the number of the oldest record that is kept, or of the next to come (R356); records are counted from 0 and a
record's place in the ring is its number modulo the ring's length. -/
def AlignIn.readIndex (i : AlignIn) : Nat :=
  match i.recs.head? with
  | none => i.seen
  | some r => i.seen - ((i.seen + i.rlen - 1 - (r.2 - i.ring) / i.recBytes) % max 1 i.rlen + 1)

/-- The bytes of a tick's slot, and what its conversions counted; elements are numbered over the slot. -/
def tickData (s : AlignSet) (j : Mj) (m : Mem) (k : Nat) (late : Bool) : List Byte × List ConvEv :=
  let t := s.time k
  let vs := s.inputs.map fun (i : AlignIn) => i.values m s.mode t s.maxGap
  let cs := j.convertAll (vs.flatMap fun v => v.2.map f32)
  let present := (vs.zipIdx.map fun ((v, i) : (Bool × List W32) × Nat) => if v.1 then 2 ^ i else 0).sum
  let head := leBytes 8 k ++ stampBytes t ++ [BitVec.ofNat 8 present, if late then 1 else 0] ++ List.replicate 44 0
  let body := (vs.foldl (fun (r : List Byte × List (List Byte × ConvEv)) v =>
    let bs := ((r.2.take v.2.length).map (·.1)).flatten
    (r.1 ++ bs ++ List.replicate (ceilDiv bs.length 64 * 64 - bs.length) 0, r.2.drop v.2.length)) ([], cs)).1
  (head ++ body, cs.map (·.2))

/-- The alignment MJ that awaits a tick, none on a tripped module (R227): the oldest of the set in a running invocation, and its first slot not written. -/
def Body.tickWanted (b : Body) (p : Fin 8) (set : Nat) : Option (MjRun × Nat × MediaSlot) :=
  if b.board.tripped then none
  else (b.part p).mjs.findSome? fun m =>
    if m.unit = 5 ∧ m.stream = set ∧ b.mjLive m.ctx then
      (m.slots.zipIdx.find? fun ((s, _) : MediaSlot × Nat) => !s.done).map fun ((s, i) : MediaSlot × Nat) => (m, i, s)
    else none

/-- Every input holds a record at or after a time. -/
def AlignSet.full (s : AlignSet) (t : Nat) : Bool := s.inputs.all fun (i : AlignIn) => i.recs.any fun r => r.1 ≥ t

/-- What a tick reads: the records that its inputs hold. -/
def AlignSet.reads (s : AlignSet) : List (Nat × Nat) := s.inputs.flatMap fun (k : AlignIn) => k.recs.map fun r => (r.2, k.recBytes)

/-- A tick's writes but its status record: its slot, read indices (R356 to R358), flag bitmap (R52). -/
def tickWrites (s s' : AlignSet) (j : Mj) (core : Fin 32) (i : Nat) (d : List Byte × List ConvEv) : List (Nat × List Byte) :=
  let n := ceilDiv d.2.length 32
  let flags := match j.ccw.ofs with
    | some f => if s.inputs = [] then [] else [(vatBase core.val + f + i * ceilDiv n 8, flagBitmap (d.2.map (·.flag)) n)]
    | none => []
  [(j.slotAt i, d.1)] ++ (s'.inputs.map fun (k : AlignIn) => (k.ridx, leBytes 8 k.readIndex)) ++ flags

/-- A tick is emitted: its slot, its status record, the read indices (R356 to R358). A tick whose requests the memories refuse is VOID
with the refusal's status, its slot zeros (R19, R511; log entry 108). The fields of the record that the spec states for samples
alone are free (log entry 2). -/
def emitTick (o : Own) (b : Body) (p : Fin 8) (set : Nat) (s : AlignSet) (m : MjRun) (i : Nat) (q : MediaSlot) (late : Bool) : Body :=
  let j := b.mjDesc m
  let t := s.time q.pos
  let reads := s.reads
  match b.firstBad o reads with
  | some w => b.readBad o (.media p m.core m.idx) w
  | none =>
    let b := b.correctedIn o reads
    let d := tickData s j b.mem q.pos late
    let s' := { s with inputs := s.inputs.map fun (k : AlignIn) => k.pass s.mode t }
    let ws := tickWrites s s' j m.core i d
    let hit := (b.readRefused o (.media p m.core m.idx) reads).map (·.1) <|>
      b.mediaRefused o m (ws.map fun w => (w.1, w.2.length))
    let st := hit.getD stOk
    let f (n : Nat) : Nat := (Config.freeWord (b.free + n)).toNat
    let r := statusRecord st hit.isSome false (f 0) (BitVec.ofNat 32 (f 1)) (f 2) none 0 (f 3) (f 4)
    let b1 := { b.countReadsOf o reads with free := b.free + 5 }.updCore m.core (·.countEvs (if hit.isSome then [] else d.2))
    let b2 := b1.updPart p fun y =>
      { (y.setMj { m with slots := m.slots.set i { q with done := true, void := hit.isSome } }).countSlot st hit.isSome (f 0) with
        aligns := y.aligns.set set s' }
    (b2.mediaEvent o p st r).mediaPut o m
      ((j.stat + 32 * i, r) :: (if hit.isSome then [(j.slotAt i, List.replicate j.pitch 0)] else ws))

/-- A tick of a set is due: every input has reached it, or its LATE limit has come; while its stacks hold its requests up it waits
(R226, R227). -/
def alignTick (o : Own) (b : Body) (p : Fin 8) (set : Nat) (late : Bool) : Body :=
  let s := (b.part p).aligns.getD set AlignSet.reset
  match b.tickWanted p set with
  | none => b
  | some (m, i, q) =>
    let t := s.time q.pos
    let j := b.mjDesc m
    if !s.configured || s.full t == late || (late && decide (b.fab.time < t + s.late)) ||
        !b.flows o ((j.slotAt i, s.slotBytes j.outFmt) :: s.reads) then b
    else emitTick o b p set s m i q late

/-- ALIGN_TICK_EMIT (R357). -/
def execAlignTickEmit (p : Fin 8) (set : Fin 4) (s : State) : Result := s.onBody fun o b => alignTick o b p set.val false

/-- ALIGN_LATE_LIMIT (R357). -/
def execAlignLateLimit (p : Fin 8) (set : Fin 4) (s : State) : Result := s.onBody fun o b => alignTick o b p set.val true

end Sys2Proof.Machine
end

