-- ==== Sys2Proof/Machine/Attest.lean ====
section
/-! DEFINITION. The SPDM responder of a port's DOE mailbox (R447 to R449). Message codes, error codes and their order are those of
DSP0274, which the spec names and does not print (log entry 7). -/

namespace Sys2Proof.Machine

open Sys2Proof

/-- A response of version 1.2: code and its two parameters, then its body. -/
def spdmMsg (code p1 p2 : Nat) (body : List Byte) : List Byte := [0x12, BitVec.ofNat 8 code, BitVec.ofNat 8 p1, BitVec.ofNat 8 p2] ++ body

/-- ERROR responses. -/
def spdmError (e data : Nat) : List Byte := spdmMsg 0x7F e data []
/-- InvalidRequest. -/
def errInvalid : List Byte := spdmError 1 0
/-- UnexpectedRequest. -/
def errUnexpected : List Byte := spdmError 4 0
/-- UnsupportedRequest. -/
def errUnsupported (code : Nat) : List Byte := spdmError 7 code

/-- The port's responder. -/
def Body.spdm (b : Body) (q : Port) : Spdm := (b.port q).spdm

/-- Change a port's responder. -/
def Body.updSpdm (b : Body) (q : Port) (f : Spdm → Spdm) : Body := b.updPort q fun x => { x with spdm := f x.spdm }

/-- A request reaches the responder: link up, READY (R449). -/
def Body.attests (b : Body) (q : Port) : Bool := (b.port q).linkUp && b.board.phase == .ready && b.board.modRef

/-- Answer a request: the exchange joins the port's transcript (R449). -/
def Body.answer (b : Body) (q : Port) (req resp : List Byte) : Body :=
  (b.updSpdm q fun x => { x with transcript := x.transcript ++ req ++ resp }).emit (.spdm q resp)

/-- A request that needs the negotiation behind it. -/
def Body.negotiated (b : Body) (q : Port) (f : Body → Body) : Body :=
  if !b.attests q then b else if (b.spdm q).negotiated then f b else b.emit (.spdm q errUnexpected)

/-! ### Negotiation -/

/-- GET_VERSION: version 1.2 alone; the exchange starts anew. -/
def execGetVersion (port : Port) (s : State) : Result :=
  s.onBody fun _ b =>
    if !b.attests port then b
    else
      (b.updSpdm port fun _ => ⟨true, false, false, [], none⟩).answer port [0x10, 0x84, 0, 0]
        [0x10, 0x04, 0, 0, 0, 1, 0x00, 0x12]

/-- CAPABILITIES: CERT_CAP, CHAL_CAP, MEAS_CAP with signature; CTExponent 15; DataTransferSize and MaxSPDMmsgSize. -/
def capabilities : List Byte :=
  spdmMsg 0x61 0 0 ([0, 15, 0, 0] ++ leBytes 4 0x16 ++ leBytes 4 Config.spdmTransfer.toNat ++ leBytes 4 Config.spdmTransfer.toNat)

/-- GET_CAPABILITIES. -/
def execGetCapabilities (port : Port) (s : State) : Result :=
  s.onBody fun _ b =>
    if !b.attests port then b
    else if !(b.spdm port).versioned then b.emit (.spdm port errUnexpected)
    else (b.updSpdm port fun x => { x with capable := true }).answer port [0x12, 0xE1, 0, 0] capabilities

/-- ALGORITHMS: DMTF measurements, TPM_ALG_SHA_512, TPM_ALG_RSAPSS_4096. -/
def algorithms : List Byte :=
  spdmMsg 0x63 0 0 (leBytes 2 36 ++ [0x01, 0] ++ leBytes 4 0x8 ++ leBytes 4 0x40 ++ leBytes 4 0x4 ++ List.replicate 16 0)

/-- NEGOTIATE_ALGORITHMS. -/
def execNegotiateAlgorithms (port : Port) (s : State) : Result :=
  s.onBody fun _ b =>
    if !b.attests port then b
    else if !(b.spdm port).capable then b.emit (.spdm port errUnexpected)
    else (b.updSpdm port fun x => { x with negotiated := true }).answer port [0x12, 0xE3, 0, 0] algorithms

/-! ### Certificates -/

/-- Slot 0's chain: its identity certificate names the module's part number, serial number and variant (R3, R447). -/
def Body.certChain (b : Body) : List Byte := Config.certChain 0x4824 b.board.serial b.board.var

/-- GET_DIGESTS: the digest of slot 0's chain. -/
def execGetDigests (port : Port) (s : State) : Result :=
  s.onBody fun _ b => b.negotiated port fun b =>
    b.answer port [0x12, 0x81, 0, 0] (spdmMsg 0x01 0 1 (Config.sha512 b.certChain))

/-- A portion of a chain. -/
def certificate (chain : List Byte) (off len : Nat) : List Byte :=
  let part := (chain.drop off).take len
  spdmMsg 0x02 0 0 (leBytes 2 part.length ++ leBytes 2 (chain.length - off - part.length) ++ part)

/-- GET_CERTIFICATE: slot 0 alone holds a chain. -/
def execGetCertificate (port : Port) (slot off len : Nat) (s : State) : Result :=
  s.onBody fun _ b => b.negotiated port fun b =>
    if slot ≠ 0 ∨ b.certChain.length ≤ off then b.emit (.spdm port errInvalid)
    else b.answer port ([0x12, 0x82, 0, 0] ++ leBytes 2 off ++ leBytes 2 len) (certificate b.certChain off len)

/-! ### Measurements (R448) -/

/-- The partition block's 24 bytes (R424). -/
def PBlock.bytes (k : PBlock) : List Byte :=
  [k.groups.toNat, k.ports.toNat, if k.secure then 1 else 0, 0, k.dset, k.dsel, k.sliceLo, k.sliceN, k.storeN,
    if k.sect then 1 else 0].map (BitVec.ofNat 8) ++ leBytes 2 k.celFirst ++ leBytes 2 k.celCount ++
    [k.nImg, k.nVdec, k.nVenc, k.nAud, k.nTxt, 0].map (BitVec.ofNat 8) ++ leBytes 2 k.dbase ++ [0, 0]

/-- The layout measured under index 7: eight blocks, zero where absent, each with its existence flag. -/
def Own.layoutBytes (o : Own) : List Byte :=
  (List.finRange 8).flatMap fun p =>
    if o.present p then (o.prec p).block.bytes ++ [1] else List.replicate 24 0 ++ [0]

/-- Bytes with those of a record's reserved fields that are not zero put in place. -/
def withReserved (body : List Byte) (rsv : List (Nat × Byte)) : List Byte := rsv.foldl (fun l r => l.set r.1 r.2) body

/-- A signed record: its fields, then its signature. -/
def signedRecord (body : List Byte) : List Byte := body ++ Config.recordSig body

/-- The variant record (R465). -/
def VariantRec.bytes (v : VariantRec) : List Byte :=
  signedRecord (withReserved (leBytes 4 v.magic.toNat ++ leBytes 8 v.serial.toNat ++ [v.var, v.ceil] ++ leBytes 2 v.tdp.toNat ++
    leBytes 4 v.qual.toNat ++ [v.th1, v.th2] ++ List.replicate 490 0) v.rsv)

/-- The repair record (R466). -/
def RepairRec.bytes (r : RepairRec) : List Byte :=
  signedRecord (withReserved (leBytes 4 r.magic.toNat ++ leBytes 8 r.serial.toNat ++ [r.sub32, r.sub33, 0, 0] ++
    leBytes 8 r.mediaOff.toNat ++ (r.lanes.flatMap fun l => [l.1, l.2]) ++ List.replicate 216 0) r.rsv)

/-- A boot policy (R445). -/
def Policy.bytes (k : Policy) : List Byte :=
  signedRecord (leBytes 4 0x59434C50 ++ leBytes 4 k.seq.toNat ++ [BitVec.ofNat 8 k.secure.toNat, BitVec.ofNat 8 k.plan.length, 0, 0] ++
    leBytes 4 k.floor.toNat ++
    ((List.range 8).flatMap fun i =>
      match k.plan[i]? with
      | some e => BitVec.ofNat 8 e.1.val :: List.replicate 7 0 ++ e.2.bytes
      | none => List.replicate 32 0) ++ List.replicate 240 0)

/-- The owner record (R444). -/
def OwnerRec.bytes (r : OwnerRec) : List Byte := signedRecord r.key

/-- The digest of index i (R448): of what the state holds; the boot ROM's and the firmware image's are free values. -/
def measured (o : Own) (b : Body) (i : Nat) : List Byte :=
  let f := b.board.flash
  if i = 2 then Config.fwImage b.board.fwActive
  else if i = 3 then Config.sha512 f.variant.bytes
  else if i = 4 then Config.sha512 f.repair.bytes
  else if i = 5 then Config.sha512 b.board.policy.bytes
  else if i = 6 then (if f.ownerOk then f.owner.elim [] fun r => Config.sha512 r.bytes else List.replicate 64 0)
  else if i = 7 then Config.sha512 o.layoutBytes
  else Config.romRecord

/-- The digest of index i. -/
def measurement (o : Own) (b : Body) (i : Nat) : List Byte := measured o b i

/-- The DMTF type of an index. -/
def dmtfType (i : Nat) : Nat := if i = 1 then 0 else if i = 2 then 1 else if i = 3 ∨ i = 4 then 2 else 3

/-- A measurement block in digest form. -/
def measBlock (o : Own) (b : Body) (i : Nat) : List Byte :=
  let d := measurement o b i
  [BitVec.ofNat 8 i, 1] ++ leBytes 2 (3 + d.length) ++ [BitVec.ofNat 8 (dmtfType i)] ++ leBytes 2 d.length ++ d

/-- The record of measurements asked for: none for 0, all for 255. -/
def measRecord (o : Own) (b : Body) (i : Nat) : List Byte :=
  if i = 0 then [] else if i = 0xFF then (List.range 7).flatMap fun j => measBlock o b (j + 1) else measBlock o b i

/-! ### Signed responses (R449) -/

/-- A signed response: given at once, or, where the responder defers it, ResponseNotReady now and itself on RESPOND_IF_READY. The
spec does not say when a response is deferred: a free value decides (log entry 43). -/
def Body.signed (b : Body) (q : Port) (req resp : List Byte) : Body :=
  let full := resp ++ Config.sign ((b.spdm q).transcript ++ req ++ resp)
  let b1 := { b with free := b.free + 1 }
  if Config.defers b.free then
    (b1.updSpdm q fun x => { x with deferred := some full, transcript := x.transcript ++ req }).emit (.spdm q (spdmError 0x42 0))
  else b1.answer q req full

/-- CHALLENGE: a signed CHALLENGE_AUTH. -/
def execChallenge (port : Port) (slot : Nat) (nonce : List Byte) (s : State) : Result :=
  s.onBody fun o b => b.negotiated port fun b =>
    if slot ≠ 0 ∨ nonce.length ≠ 32 then b.emit (.spdm port errInvalid)
    else
      b.signed port ([0x12, 0x83, 0, 0] ++ nonce)
        (spdmMsg 0x03 0 1 (Config.sha512 b.certChain ++ Config.nonce b.free ++ Config.sha512 (measRecord o b 0xFF) ++ [0, 0]))

/-- GET_MEASUREMENTS: index 0 asks their number, 255 all of them; signed on request. -/
def execGetMeasurements (port : Port) (index : Nat) (signed : Bool) (nonce : List Byte) (s : State) : Result :=
  s.onBody fun o b => b.negotiated port fun b =>
    if 7 < index ∧ index ≠ 0xFF then b.emit (.spdm port errInvalid)
    else
      let rec_ := measRecord o b index
      let n := if index = 0 then 0 else if index = 0xFF then 7 else 1
      let resp := spdmMsg 0x60 (if index = 0 then 7 else 0) 0
        ([BitVec.ofNat 8 n] ++ leBytes 3 rec_.length ++ rec_ ++ Config.nonce b.free ++ [0, 0])
      let req := [0x12, 0xE0, if signed then 1 else 0, BitVec.ofNat 8 index] ++ nonce
      if signed then b.signed port req resp else b.answer port req resp

/-- RESPOND_IF_READY: the deferred response. -/
def execRespondIfReady (port : Port) (s : State) : Result :=
  s.onBody fun _ b => b.negotiated port fun b =>
    match (b.spdm port).deferred with
    | some r =>
      (b.updSpdm port fun x => { x with deferred := none, transcript := x.transcript ++ r }).emit (.spdm port r)
    | none => b.emit (.spdm port errUnexpected)

/-- SPDM_UNSUPPORTED_REQUEST: ERROR UnsupportedRequest (R447). -/
def execSpdmUnsupportedRequest (port : Port) (code : Byte) (s : State) : Result :=
  s.onBody fun _ b => if b.attests port then b.emit (.spdm port (errUnsupported code.toNat)) else b

end Sys2Proof.Machine
end

