-- ==== Sys2Proof/Machine/Dram.lean ====
section
/-! DEFINITION. The DRAM controllers: queues and priority, read-merge-write, refresh, patrol scrub, repair candidates,
test and repair commands (R205 to R232, R418). -/

namespace Sys2Proof.Machine

open Sys2Proof

/-- The bytes that a read of n bytes at a fetches: its unit, or in a sector-mode region the half-units it needs (R215): address and
bytes. -/
def readSpan (maps : List MapDesc) (a n : Nat) : Nat × Nat :=
  let w := wordSize maps a
  (a / w * w, (a + (n - 1)) / w * w + w - a / w * w)

/-- DRAM_READ: refused with no effect by R19; else it goes to its controller (R210 to R212, R217 to R219). -/
def dramRead (o : Own) (b : Body) (who : Requester) (addr : Addr) (n : Nat) (lc : Bool) (latency : Nat) (ecc : Found) : Body :=
  let a := addr.toNat
  match locate o.maps a, netCheck o b who a n with
  | none, _ => (b.refuse o who stBounds a).emit (.netStatus who stBounds)
  | _, some st => (b.refuse o who st a).emit (.netStatus who st)
  | some l, none =>
    let r := readSpan o.maps a n
    arrive o (b.upset ecc) l { netReq who r.1 r.2 none with lc := readClass o who lc a n, latency := latency }

/-- DRAM_READ. -/
def execDramRead (who : Requester) (span : ReadAt) (lc : Bool) (latency : Nat) (ecc : Found) (s : State) : Result :=
  s.onBody fun o b => dramRead o b who span.addr span.n lc latency ecc

/-- DRAM_WRITE: refused with no effect by R19 or a protected slot; else it goes to its controller's write queue, as a read, a merge and
a write when it covers a unit or half-unit in part (R172, R215, R217). -/
def dramWrite (o : Own) (b : Body) (who : Requester) (addr : Addr) (data : List (Option Byte)) (ecc : Found) : Body :=
  let a := addr.toNat
  match locate o.maps a, writeCheck o b who a data.length with
  | none, _ => (b.refuse o who stBounds a).emit (.netStatus who stBounds)
  | _, some (st, x) => (b.refuse o who st x).emit (.netStatus who st)
  | some l, none => arrive o (b.upset ecc) l (netReq who a data.length (some data))

/-- DRAM_WRITE (R215, R217). -/
def execDramWrite (who : Requester) (addr : Addr) (w : UnitWrite) (s : State) : Result :=
  s.onBody fun o b => dramWrite o b who addr w.data w.ecc

/-- A write batch may begin: none is under way, and 64 writes are queued, or no read is and at least one write is (R217). -/
def batchReady (q : PcQueues) : Bool :=
  q.batch == 0 && (decide (q.writes.length ≥ 64) || (q.waiting.all (·.data.isSome) && !q.writes.isEmpty))

/-- WRITE_BATCH: a batch of up to 64 writes begins with the oldest on the bus; each tick puts the next one on it (R217). -/
def writeBatch (o : Own) (b : Body) (st : Fin 24) (pc : Fin 64) : Body :=
  let l : DramLoc := ⟨st.val, pc.val, 0, 0, 0⟩
  let q := (b.stack st).pcOf pc.val
  if batchReady q then
    (drainOne o b l).atStack l fun s => s.updPc pc.val fun k =>
      { k with batch := min 64 q.writes.length - if q.drains o.maps then 1 else 0 }
  else b

/-- WRITE_BATCH. -/
def execWriteBatch (st : Fin 24) (pc : Fin 64) (s : State) : Result := s.onBody fun o b => writeBatch o b st pc

/-- Mark the request with an arrival number. -/
def markAged (n : Nat) (l : List DReq) : List DReq := l.map fun r => if r.seq = n then { r with aged := true } else r

/-- BULK_REQUEST_AGED: of the bulk requests that wait and the queued writes, the oldest one not yet marked has waited 2 µs: it is served
before any younger one (R217). -/
def bulkAged (o : Own) (b : Body) (st : Fin 24) (pc : Fin 64) : Body :=
  let l : DramLoc := ⟨st.val, pc.val, 0, 0, 0⟩
  let q := (b.stack st).pcOf pc.val
  match (((q.waiting ++ q.writes).filter fun r => !r.lc && !r.aged).map (·.seq)).min? with
  | some n =>
    pumpAll o (b.atStack l fun s => s.updPc pc.val fun q =>
      { q with waiting := markAged n q.waiting, writes := markAged n q.writes }) l
  | none => b

/-- BULK_REQUEST_AGED. -/
def execBulkRequestAged (st : Fin 24) (pc : Fin 64) (s : State) : Result := s.onBody fun o b => bulkAged o b st pc

/-- PER_BANK_REFRESH: an interval of a bank is over: it is owed a refresh, two at the doubled rate. The controller refreshes one bank of
a pseudo-channel at a time, idle banks first; a busy bank's refresh is postponed by up to eight intervals and never skipped; data is
kept (R222). -/
def execPerBankRefresh (st : Fin 24) (pc : Fin 64) (bank : Fin 48) (s : State) : Result :=
  s.onBody fun o b => b.updStack st fun x =>
    (x.updPc pc.val fun q => { q with
      owed := (bank.val, ((q.owed.find? (·.1 == bank.val)).elim 0 (·.2)) + (if x.doubled then 2 else 1)) ::
        q.owed.filter (·.1 != bank.val) }).refresh o.maps b.board.uptime pc.val

/-- The address of the unit at a packed location of a stack under the valid regions: the inverse of R210. -/
def unitAddr (maps : List MapDesc) (st loc : Nat) : Option Nat :=
  let g := (bitsOf loc 17 4 * 48 + bitsOf loc 23 18) * 64 + bitsOf loc 29 24
  maps.findSome? fun d =>
    if d.valid ∧ d.first ≤ st ∧ st < d.first + d.k ∧ d.sliceLo.toNat * 2 ^ 20 ≤ g ∧ g < (d.sliceLo.toNat + d.sliceN.toNat) * 2 ^ 20 then
      some (d.lo + ((g - d.sliceLo.toNat * 2 ^ 20) * d.k + (st - d.first)) * 1024 + loc % 16 * 64)
    else none

/-- What the patrol scrubber makes of one code word of its unit: an uncorrectable error poisons it and is recorded with SCRUB = 1 and no
fault, as it is again while the word stays poisoned; a correctable one is counted, and its write-back queued (R213, R214). -/
def patrolWord (o : Own) (st : Fin 24) (loc : BitVec 30) (b : Body) (f : Nat × Ecc) : Body :=
  let w := wordSize o.maps f.1
  if f.2 = .bad || b.mem.bad w f.1 w then
    (b.updMem (·.poisonUnit w f.1)).updStack st fun s =>
      { s with ue := satAdd s.ue 1, eccAddr := s.eccAddr <|> some (true, loc) }
  else if f.2 = .corrected || upsetsIn o.maps b.mem.upsets .corrected [(f.1, w)] != [] then
    (b.updMem fun m => { m with
      writeBack := m.writeBack ++ [(f.1, 64)], upsets := m.upsets.filter fun u => u.2 != .corrected || u.1 / w * w != f.1 }).updStack st
      fun s => { (s.noteCorrected (loc &&& 0x3FFFFFF0) b.fab.time) with ce := satAdd s.ce 1 }
  else b

/-- PATROL_SCRUB of a unit: read from its stack, each half-unit by its own code in a sector-mode region; a finished pass is counted. A
unit that no region maps holds no data, and its errors count all the same (R211, R213, R214, R226). -/
def patrolScrub (o : Own) (b : Body) (unit : StackUnit) (ecc : Ecc) (passDone : Bool) : Body :=
  let st := unit.st
  let loc := unit.loc
  let l : DramLoc := ⟨st.val, bitsOf loc.toNat 29 24, bitsOf loc.toNat 23 18, bitsOf loc.toNat 17 4, loc.toNat % 16⟩
  let b0 := b.traffic false [(l, 2)]
  let b1 :=
    match unitAddr o.maps st.val loc.toNat with
    | none =>
      if ecc = .bad then b0.updStack st fun s => { s with ue := satAdd s.ue 1, eccAddr := s.eccAddr <|> some (true, loc) }
      else if ecc = .corrected then
        b0.updStack st fun s => { (s.noteCorrected (loc &&& 0x3FFFFFF0) b.fab.time) with ce := satAdd s.ce 1 }
      else b0
    | some a =>
      (if wordSize o.maps a = 32 then [(a, ecc), (a + 32, unit.upper)] else [(a, ecc)]).foldl (patrolWord o st loc) b0
  if passDone then b1.updStack st fun s => { s with scrub := s.scrub + 1 } else b1

/-- PATROL_SCRUB (R213, R214). -/
def execPatrolScrub (unit : StackUnit) (ecc : Ecc) (passDone : Bool) (s : State) : Result :=
  s.onBody fun o b => patrolScrub o b unit ecc passDone

/-- ODECC_READ: a stack's on-die counts are added to ODECC (R214). -/
def execOdeccRead (st : Fin 24) (count : Nat) (s : State) : Result :=
  s.onBody fun _ b => b.updStack st fun x => { x with odecc := satAdd x.odecc count }

/-- REFRESH_MANAGEMENT_REQUEST: the controller issues refresh management (R205). -/
def execRefreshManagementRequest (st : Fin 24) (s : State) : Result :=
  s.onBody fun _ b => b.updStack st fun x => { x with rfm := x.rfm + 1 }

/-- CA_PARITY_ERROR: the command is reissued once (R205). -/
def execCaParityError (st : Fin 24) (s : State) : Result :=
  s.onBody fun _ b => b.updStack st fun x => { x with reissue := x.reissue + 1 }

/-! ### Test and repair (R229, R230, R418) -/

/-- The conditions of R229 on a repair or test command: no partition exists, else BUSY. -/
def repairAct (x : Xnx) (o : Own) (f : Fin 24 → Xres) : Xres :=
  match finOf 24 x.arg0 with
  | none => .refused stFormat 0
  | some st => if !o.noPartition then .refused stBusy 0 else f st

/-- STK_TEST's rule: PENDING until the stack's test ends. -/
def stkTestAct (x : Xnx) (o : Own) (b : Body) : Xres :=
  if xArg x 0 1 > 15 then .refused stBounds 0
  else repairAct x o fun st =>
    .pending o (b.updStack st fun y => { y with tests := y.tests ++ [xTicket x] })

/-- STK_TEST (R229, R418). -/
def execStkTest (x : Xnx) (s : State) : Result :=
  s.xnx 0x0601 x .module (x.len == 1) (decide (x.arg0 < 24)) (stkTestAct x)

/-- STK_TEST_COMPLETE: pass, failures, first failing location, of the oldest test of the stack; once the steward has stopped nothing
completes (R229, R418). -/
def execStkTestComplete (st : Fin 24) (pass : Bool) (fails loc : W32) (s : State) : Result :=
  s.onBody fun o b =>
    match (b.stack st).tests with
    | t :: rest =>
      if !b.stewardUp then b
      else (b.updStack st fun y => { y with tests := rest }).respond o t stOk 0
        ([if pass then 1 else 0, 0, 0, 0] ++ leBytes 4 fails.toNat ++ leBytes 4 loc.toNat)
    | [] => b

/-- Spare rows used in a bank group, numbered by pseudo-channel, stack identifier, bank group (R418). -/
def Stack.usedIn (s : Stack) (g : Nat) : Nat := (s.used.find? (·.1 == g)).elim 0 (·.2)
/-- Spare rows left in a bank group. -/
def Stack.sparesLeft (s : Stack) (g : Nat) : Nat := s.spareRows - s.usedIn g
/-- A row location exists: bank, row, UNIT zero (R418). -/
def locOk (loc : Nat) : Bool :=
  decide (loc < 2 ^ 30) && decide (bitsOf loc 23 18 < 48) && decide (bitsOf loc 17 4 < 12288) && decide (loc % 16 = 0)
/-- The address of a row under DRM_MAP00 (R208, R210). -/
def rowAddr (st loc : Nat) : Nat :=
  (((bitsOf loc 17 4 * 48 + bitsOf loc 23 18) * 64 + bitsOf loc 29 24) * 24 + st) * 1024

/-- Use a spare row; the row's contents are destroyed (R230): free bytes until the steward zeroes a region over them. -/
def Body.repairRow (b : Body) (st : Fin 24) (loc : Nat) : Body :=
  let g := locGroup loc
  let bytes := (List.range 256).flatMap fun i => leBytes 4 (Config.freeWord (b.free + i)).toNat
  let b1 := b.updStack st fun y => { y with used := (g, y.usedIn g + 1) :: y.used.filter (·.1 != g) }
  { (b1.updMem fun m => { m with cells := putCells m.cells (rowAddr st.val loc) bytes }) with free := b.free + 256 }

/-- PPR_QUERY's rule: spare rows left, one byte a bank group. -/
def pprQueryAct (x : Xnx) (o : Own) (b : Body) : Xres :=
  repairAct x o fun st => .done o b stOk 0 ((List.range 768).map fun g => BitVec.ofNat 8 ((b.stack st).sparesLeft g))

/-- PPR_QUERY (R229, R418). -/
def execPprQuery (x : Xnx) (s : State) : Result :=
  s.xnx 0x0602 x .module (x.len == 0) (decide (x.arg0 < 24)) (pprQueryAct x)

/-- PPR_CAND's rule: the candidates listed. -/
def pprCandAct (x : Xnx) (o : Own) (b : Body) : Xres :=
  repairAct x o fun st =>
    .done o b stOk 0 (leBytes 4 (b.stack st).cands.length ++ (b.stack st).cands.flatMap fun r => leBytes 4 r.toNat)

/-- PPR_CAND (R214, R418). -/
def execPprCand (x : Xnx) (s : State) : Result :=
  s.xnx 0x0603 x .module (x.len == 0) (decide (x.arg0 < 24)) (pprCandAct x)

/-- PPR_SOFT's rule: REFUSED_BOUNDS with no spare row left in the bank group. -/
def pprSoftAct (x : Xnx) (o : Own) (b : Body) : Xres :=
  let loc := xArg x 0 4
  if !locOk loc then .refused stBounds 0
  else repairAct x o fun st =>
    if (b.stack st).sparesLeft (locGroup loc) = 0 then .refused stBounds 0
    else .done o ((b.repairRow st loc).updStack st fun y => { y with softRows := y.softRows ++ [BitVec.ofNat 30 loc] }) stOk 0 []

/-- PPR_SOFT (R229, R230). -/
def execPprSoft (x : Xnx) (s : State) : Result :=
  s.xnx 0x0604 x .module (x.len == 4) (decide (x.arg0 < 24)) (pprSoftAct x)

/-- PPR_HARD's rule: permanent, and appended to the fault log and the flash log (R230). -/
def pprHardAct (x : Xnx) (o : Own) (b : Body) : Xres :=
  let loc := xArg x 0 4
  if !locOk loc then .refused stBounds 0
  else repairAct x o fun st =>
    if (b.stack st).sparesLeft (locGroup loc) = 0 then .refused stBounds 0
    else
      let e := (st, BitVec.ofNat 32 loc)
      .done o (((b.repairRow st loc).updStack st fun y => { y with hardRows := y.hardRows ++ [BitVec.ofNat 30 loc] }).updBoard
        fun y => { y with faultLog := y.faultLog ++ [e], flash := { y.flash with log := y.flash.log ++ [e] } }) stOk 0 []

/-- PPR_HARD (R229, R230). -/
def execPprHard (x : Xnx) (s : State) : Result :=
  s.xnx 0x0605 x .module (x.len == 4) (decide (x.arg0 < 24)) (pprHardAct x)

end Sys2Proof.Machine
end

