-- ==== Sys2Proof/Machine/Ptp.lean ====
section
/-! DEFINITION. Fabric time under IEEE 1588-2019: the messages, the peer delay, two-step synchronisation (R300). The layout of the
messages is the standard's and is PRESUMED (log entry 103). Stamps are fabric times in units of 0.5 ns. -/

namespace Sys2Proof.Machine

open Sys2Proof

/-- n bytes of a number, most significant first. -/
def beBytes (n v : Nat) : List Byte := (leBytes n v).reverse
/-- The n-byte field at an offset, most significant first. -/
def beField (bs : List Byte) (off n : Nat) : Nat := ofLe ((bs.drop off).take n).reverse

/-- Fabric time in units of 0.5 ns. -/
def Fab.stamp (f : Fab) : Nat := 2 * f.time + (if f.half then 1 else 0)

/-- The seconds and nanoseconds of a stamp. -/
def ptpStamp (t : Nat) : List Byte := beBytes 6 (t / 2000000000) ++ beBytes 4 (t % 2000000000 / 2)

/-- The correction field of a stamp: its half nanosecond, in units of 2^-16 ns. -/
def stampCorr (t : Nat) : List Byte := beBytes 8 (t % 2 * 0x8000)

/-- The stamp that a message's body and correction field tell. -/
def bodyStamp (bs : List Byte) : Int :=
  let c := beField bs 8 8
  ((beField bs 34 6 * 2000000000 + 2 * beField bs 40 4 : Nat) : Int) +
    (if c < 2 ^ 63 then (c : Int) else (c : Int) - 2 ^ 64) / 0x8000

/-- The identity of a port: the module's fabric identity and the link's number from 1. -/
def Body.portIdentity (b : Body) (l : Fin 24) : List Byte :=
  beBytes 8 (Config.fabricId b.board.serial).toNat ++ beBytes 2 (l.val + 1)

/-- A time message: common header and body, in whole granules. -/
def Body.ptpBytes (b : Body) (l : Fin 24) (typ seq : Nat) (two : Bool) (corr body : List Byte) : List Byte :=
  let n := 34 + body.length
  let ctl : Byte := if typ = 0 then 0 else if typ = 8 then 2 else 5
  let log : Byte := if typ = 0 ∨ typ = 8 then b.fab.sync else 0x7F
  [BitVec.ofNat 8 typ, 0x12] ++ beBytes 2 n ++ [0, 0, if two then 2 else 0, 0] ++ corr ++ [0, 0, 0, 0] ++ b.portIdentity l ++
    beBytes 2 seq ++ [ctl, log] ++ body ++ List.replicate (granular n - n) 0

/-- Send a time message on a port; the device ID it names is a free value (log entry 103). -/
def Body.sendPtp (b : Body) (l : Fin 24) (typ seq : Nat) (two : Bool) (corr body : List Byte) : Body :=
  if (b.link l).up then
    { b with free := b.free + 1 }.enqueue l false
      (mgmtMsg b 1 (BitVec.truncate 12 (Config.freeWord b.free)) 0 (b.ptpBytes l typ seq two corr body))
  else b

/-- Change a port's time state. -/
def Body.updPtp (b : Body) (l : Fin 24) (f : PtpPort → PtpPort) : Body := b.updLink l fun k => { k with ptp := f k.ptp }

/-- A link's asymmetry correction in units of 0.5 ns: ASYM is signed picoseconds (R416). -/
def LinkCfg.asymmetry (c : LinkCfg) : Int := c.asym.toInt / 500

/-- A slave port's follow-up: the fabric time moves by what the Sync's receipt differs from its sending, the path's delay and the
asymmetry, and is locked; the grandmaster's own time stays. -/
def Body.follow (b : Body) (l : Fin 24) (bs : List Byte) : Body :=
  match (b.link l).ptp.sync with
  | some (seq, rx) =>
    if seq.toNat ≠ beField bs 30 2 then b
    else
      let off := (rx : Int) - (bodyStamp bs + (b.link l).ptp.delay + (b.linkCfg l).asymmetry)
      let b1 := b.updPtp l fun p => { p with sync := none }
      if b.fab.devId = some (BitVec.truncate 12 b.fab.gm) then b1
      else b1.updFab fun f =>
        let t := ((f.stamp : Int) - off).toNat
        { f with time := t / 2, half := decide (t % 2 = 1), locked := true }
  | none => b

/-- A time message for a port that is not disabled, by its message type: Sync, Follow_Up, Pdelay_Req, Pdelay_Resp and its
follow-up; others change nothing. `rx` is its receive stamp; the transmit stamp of the answer it calls for lies a free delay later. -/
def ptpHere (l : Fin 24) (bs : List Byte) (rx : Nat) (b : Body) : Body :=
  let typ := beField bs 0 1 % 16
  let seq : W16 := BitVec.ofNat 16 (beField bs 30 2)
  let role := (b.linkCfg l).role
  if role = 0 then b
  else if typ = 0 then (if role = 2 then b.updPtp l fun p => { p with sync := some (seq, rx) } else b)
  else if typ = 8 then (if role = 2 then b.follow l bs else b)
  else if typ = 2 then
    let who := (bs.drop 20).take 10
    let tx := rx + Config.sendDelay b.free
    (b.sendPtp l 3 seq.toNat true (stampCorr rx) (ptpStamp rx ++ who)).sendPtp l 0xA seq.toNat false (stampCorr tx)
      (ptpStamp tx ++ who)
  else if typ = 3 then
    b.updPtp l fun p => if p.req.map (·.1) = some seq then { p with resp := some ((bodyStamp bs).toNat, rx) } else p
  else if typ = 0xA then
    b.updPtp l fun p =>
      match p.req, p.resp with
      | some (q, t1), some (t2, t4) =>
        if q = seq then
          { p with delay := (((t4 : Int) - (t1 : Int)) - (bodyStamp bs - (t2 : Int))) / 2, req := none, resp := none }
        else p
      | _, _ => p
  else b

/-- PTP_MESSAGE (R300). -/
def execPtpMessage (link : Fin 24) (m : Msg) (rx : Nat) (s : State) : Result :=
  s.onBody fun _ b => b.arriveMgmt link m 1 (ptpHere link m.data rx)

/-- The sync interval in ns: 2 to the power of SYNC seconds (R300, R416). -/
def Fab.interval (f : Fab) : Nat := 1000000000 / 2 ^ ((256 - f.sync.toNat) % 256)

/-- The Sync messages of fabric time `now` are due: the interval has passed, or the time was set back. -/
def Fab.syncDue (f : Fab) : Bool := decide (f.syncAt ≤ f.time) || decide (f.time + f.interval < f.syncAt)

/-- One port at a sync interval: a master sends Sync and Follow_Up, every port that is not disabled asks for its peer's delay;
`at_` holds the transmit stamps of the Sync and of the request. -/
def syncPort (b : Body) (l : Fin 24) (at_ : Nat × Nat) : Body :=
  let role := (b.linkCfg l).role
  if !(b.link l).up || role == 0 then b
  else
    let q := b.fab.ptpSeq.toNat
    let b1 := if role = 1 then
        (b.sendPtp l 0 q true (beBytes 8 0) (beBytes 10 0)).sendPtp l 8 q false (stampCorr at_.1) (ptpStamp at_.1)
      else b
    let p := (b.link l).ptp
    (b1.sendPtp l 2 p.seq.toNat false (beBytes 8 0) (beBytes 20 0)).updPtp l fun x =>
      { x with seq := x.seq + 1, req := some (p.seq, at_.2), resp := none }

/-- The transmit stamps of a port's Sync and of its request: free delays after the present time. -/
def Body.sendStamps (b : Body) (l : Fin 24) : Nat × Nat :=
  (b.fab.stamp + Config.sendDelay (b.free + 2 * l.val), b.fab.stamp + Config.sendDelay (b.free + 2 * l.val + 1))

/-- PTP_SYNC: at each sync interval every port that is up sends (R300; how often the peer delay is measured is not stated, log entry
103). -/
def execPtpSync (s : State) : Result :=
  s.onBody fun _ b =>
    if !b.fab.syncDue then b
    else
      ((List.finRange 24).foldl (fun (c : Body) l => syncPort c l (b.sendStamps l)) { b with free := b.free + 48 }).updFab fun f =>
        { f with ptpSeq := f.ptpSeq + 1, syncAt := f.time + f.interval }

end Sys2Proof.Machine
end

