-- ==== Sys2Proof/Machine/Dispatch.lean ====
section
/-! DEFINITION. One arm per command: a direct call of its meaning. -/

namespace Sys2Proof.Machine

open Sys2Proof

def exec (i : Instr) (s : State) : Host.Outcome State Fault Refusal :=
  match i with
  | .configRequest port reg wr => Sys2Proof.Machine.execConfigRequest port reg wr s
  | .hostWindowAccess port bar2 off acc ecc => Sys2Proof.Machine.execHostWindowAccess port bar2 off acc ecc s
  | .bar0RegisterWrite port off data => Sys2Proof.Machine.execBar0RegisterWrite port off data s
  | .semAcquire port sem token rival => Sys2Proof.Machine.execSemAcquire port sem token rival s
  | .semRelease port sem token => Sys2Proof.Machine.execSemRelease port sem token s
  | .portReset port kind => Sys2Proof.Machine.execPortReset port kind s
  | .portLinkDownTimeout port => Sys2Proof.Machine.execPortLinkDownTimeout port s
  | .nop x => Sys2Proof.Machine.execNop x s
  | .telemSnap x => Sys2Proof.Machine.execTelemSnap x s
  | .eventRead x => Sys2Proof.Machine.execEventRead x s
  | .pressRead x => Sys2Proof.Machine.execPressRead x s
  | .caveRead x => Sys2Proof.Machine.execCaveRead x s
  | .caveWrite x => Sys2Proof.Machine.execCaveWrite x s
  | .backupWrite x => Sys2Proof.Machine.execBackupWrite x s
  | .harvestCfg x => Sys2Proof.Machine.execHarvestCfg x s
  | .hostCopy x => Sys2Proof.Machine.execHostCopy x s
  | .hostCopyComplete p mb hostData => Sys2Proof.Machine.execHostCopyComplete p mb hostData s
  | .almLoad x => Sys2Proof.Machine.execAlmLoad x s
  | .almLoadComplete p reads => Sys2Proof.Machine.execAlmLoadComplete p reads s
  | .almUnload x => Sys2Proof.Machine.execAlmUnload x s
  | .almUnloadComplete p slot => Sys2Proof.Machine.execAlmUnloadComplete p slot s
  | .invoke x => Sys2Proof.Machine.execInvoke x s
  | .invocationComplete p slot => Sys2Proof.Machine.execInvocationComplete p slot s
  | .preempt x => Sys2Proof.Machine.execPreempt x s
  | .contextSaveComplete p reads => Sys2Proof.Machine.execContextSaveComplete p reads s
  | .resume x => Sys2Proof.Machine.execResume x s
  | .contextRestoreComplete p reads => Sys2Proof.Machine.execContextRestoreComplete p reads s
  | .btCommit x => Sys2Proof.Machine.execBtCommit x s
  | .updParams x => Sys2Proof.Machine.execUpdParams x s
  | .updRecover x => Sys2Proof.Machine.execUpdRecover x s
  | .replCfg x => Sys2Proof.Machine.execReplCfg x s
  | .replRepair x data => Sys2Proof.Machine.execReplRepair x data s
  | .fabCfg x => Sys2Proof.Machine.execFabCfg x s
  | .linkEnable x => Sys2Proof.Machine.execLinkEnable x s
  | .linkDisable x => Sys2Proof.Machine.execLinkDisable x s
  | .fabAdmit x => Sys2Proof.Machine.execFabAdmit x s
  | .fabTime x => Sys2Proof.Machine.execFabTime x s
  | .collCfg x => Sys2Proof.Machine.execCollCfg x s
  | .mediaCfg x => Sys2Proof.Machine.execMediaCfg x s
  | .mediaStream x => Sys2Proof.Machine.execMediaStream x s
  | .mediaVocab x => Sys2Proof.Machine.execMediaVocab x s
  | .mediaVocabComplete p => Sys2Proof.Machine.execMediaVocabComplete p s
  | .mediaAlign x => Sys2Proof.Machine.execMediaAlign x s
  | .mediaEncode x => Sys2Proof.Machine.execMediaEncode x s
  | .stkTest x => Sys2Proof.Machine.execStkTest x s
  | .stkTestComplete st pass fails loc => Sys2Proof.Machine.execStkTestComplete st pass fails loc s
  | .pprQuery x => Sys2Proof.Machine.execPprQuery x s
  | .pprCand x => Sys2Proof.Machine.execPprCand x s
  | .pprSoft x => Sys2Proof.Machine.execPprSoft x s
  | .pprHard x => Sys2Proof.Machine.execPprHard x s
  | .partCreate x => Sys2Proof.Machine.execPartCreate x s
  | .partCreateComplete p => Sys2Proof.Machine.execPartCreateComplete p s
  | .partModify x => Sys2Proof.Machine.execPartModify x s
  | .partModifyComplete p => Sys2Proof.Machine.execPartModifyComplete p s
  | .partReset x => Sys2Proof.Machine.execPartReset x s
  | .partitionResetComplete p => Sys2Proof.Machine.execPartitionResetComplete p s
  | .partDelete x => Sys2Proof.Machine.execPartDelete x s
  | .partDeleteComplete p => Sys2Proof.Machine.execPartDeleteComplete p s
  | .fwStage x tree image => Sys2Proof.Machine.execFwStage x tree image s
  | .fwStatus x => Sys2Proof.Machine.execFwStatus x s
  | .fwCommit x => Sys2Proof.Machine.execFwCommit x s
  | .fwCommitActivate => Sys2Proof.Machine.execFwCommitActivate s
  | .getVersion port => Sys2Proof.Machine.execGetVersion port s
  | .getCapabilities port => Sys2Proof.Machine.execGetCapabilities port s
  | .negotiateAlgorithms port => Sys2Proof.Machine.execNegotiateAlgorithms port s
  | .getDigests port => Sys2Proof.Machine.execGetDigests port s
  | .getCertificate port slot off len => Sys2Proof.Machine.execGetCertificate port slot off len s
  | .challenge port slot nonce => Sys2Proof.Machine.execChallenge port slot nonce s
  | .getMeasurements port index signed nonce => Sys2Proof.Machine.execGetMeasurements port index signed nonce s
  | .respondIfReady port => Sys2Proof.Machine.execRespondIfReady port s
  | .spdmUnsupportedRequest port code => Sys2Proof.Machine.execSpdmUnsupportedRequest port code s
  | .smbStatusRead => Sys2Proof.Machine.execSmbStatusRead s
  | .smbPwrInRead => Sys2Proof.Machine.execSmbPwrInRead s
  | .smbPwrSagRead => Sys2Proof.Machine.execSmbPwrSagRead s
  | .smbStackTempRead => Sys2Proof.Machine.execSmbStackTempRead s
  | .smbIdentityRead => Sys2Proof.Machine.execSmbIdentityRead s
  | .smbFwVerRead => Sys2Proof.Machine.execSmbFwVerRead s
  | .smbXnxCommandWrite data pec => Sys2Proof.Machine.execSmbXnxCommandWrite data pec s
  | .smbXnxResponseRead => Sys2Proof.Machine.execSmbXnxResponseRead s
  | .tapReset => Sys2Proof.Machine.execTapReset s
  | .bypass => Sys2Proof.Machine.execBypass s
  | .idcode => Sys2Proof.Machine.execIdcode s
  | .samplePreload cells => Sys2Proof.Machine.execSamplePreload cells s
  | .extest => Sys2Proof.Machine.execExtest s
  | .clamp => Sys2Proof.Machine.execClamp s
  | .highz => Sys2Proof.Machine.execHighz s
  | .extestPulse => Sys2Proof.Machine.execExtestPulse s
  | .extestTrain => Sys2Proof.Machine.execExtestTrain s
  | .tapLeaveExtest => Sys2Proof.Machine.execTapLeaveExtest s
  | .railSequenceStart => Sys2Proof.Machine.execRailSequenceStart s
  | .railStartTimeout rail => Sys2Proof.Machine.execRailStartTimeout rail s
  | .shutdownRetry => Sys2Proof.Machine.execShutdownRetry s
  | .moduleShutdown cause => Sys2Proof.Machine.execModuleShutdown cause s
  | .powerOnReset => Sys2Proof.Machine.execPowerOnReset s
  | .resetNLow low => Sys2Proof.Machine.execResetNLow low s
  | .warmReset => Sys2Proof.Machine.execWarmReset s
  | .watchdogExpiry => Sys2Proof.Machine.execWatchdogExpiry s
  | .heartbeat => Sys2Proof.Machine.execHeartbeat s
  | .sagWarning rail => Sys2Proof.Machine.execSagWarning rail s
  | .sagWarningRelease rail => Sys2Proof.Machine.execSagWarningRelease rail s
  | .supplySagReset rails => Sys2Proof.Machine.execSupplySagReset rails s
  | .sagResetRelease => Sys2Proof.Machine.execSagResetRelease s
  | .referenceClockLoss ref => Sys2Proof.Machine.execReferenceClockLoss ref s
  | .referenceClockReturn ref => Sys2Proof.Machine.execReferenceClockReturn ref s
  | .firmwareStart => Sys2Proof.Machine.execFirmwareStart s
  | .dramTrainingComplete fast slow => Sys2Proof.Machine.execDramTrainingComplete fast slow s
  | .knownAnswerRuns coreFail mediaFail quadFail => Sys2Proof.Machine.execKnownAnswerRuns coreFail mediaFail quadFail s
  | .moduleReady gpio => Sys2Proof.Machine.execModuleReady gpio s
  | .powerSample watts vin iin => Sys2Proof.Machine.execPowerSample watts vin iin s
  | .powerCapStepDown => Sys2Proof.Machine.execPowerCapStepDown s
  | .powerCapStepUp => Sys2Proof.Machine.execPowerCapStepUp s
  | .powerFloorFault => Sys2Proof.Machine.execPowerFloorFault s
  | .stackTempSample st temp => Sys2Proof.Machine.execStackTempSample st temp s
  | .thermalCapLower st => Sys2Proof.Machine.execThermalCapLower st s
  | .trafficLimitHalve st => Sys2Proof.Machine.execTrafficLimitHalve st s
  | .refreshRateRelease st => Sys2Proof.Machine.execRefreshRateRelease st s
  | .thermalCapRise st => Sys2Proof.Machine.execThermalCapRise st s
  | .trafficLimitRelease st => Sys2Proof.Machine.execTrafficLimitRelease st s
  | .stackSensorFault st => Sys2Proof.Machine.execStackSensorFault st s
  | .stackSensorTimeout st => Sys2Proof.Machine.execStackSensorTimeout st s
  | .junctionTrip j temp => Sys2Proof.Machine.execJunctionTrip j temp s
  | .dramRead who span lc latency ecc => Sys2Proof.Machine.execDramRead who span lc latency ecc s
  | .dramWrite who addr w => Sys2Proof.Machine.execDramWrite who addr w s
  | .writeBatch st pc => Sys2Proof.Machine.execWriteBatch st pc s
  | .bulkRequestAged st pc => Sys2Proof.Machine.execBulkRequestAged st pc s
  | .perBankRefresh st pc bank => Sys2Proof.Machine.execPerBankRefresh st pc bank s
  | .patrolScrub unit ecc passDone => Sys2Proof.Machine.execPatrolScrub unit ecc passDone s
  | .odeccRead st count => Sys2Proof.Machine.execOdeccRead st count s
  | .networkRead who addr n ecc => Sys2Proof.Machine.execNetworkRead who addr n ecc s
  | .networkWrite who addr w => Sys2Proof.Machine.execNetworkWrite who addr w s
  | .eccWriteBack addr => Sys2Proof.Machine.execEccWriteBack addr s
  | .sramScrub addr ecc => Sys2Proof.Machine.execSramScrub addr ecc s
  | .memoryZeroingComplete z => Sys2Proof.Machine.execMemoryZeroingComplete z s
  | .tile core ecc => Sys2Proof.Machine.execTile core ecc s
  | .listTilePiece core => Sys2Proof.Machine.execListTilePiece core s
  | .tileComplete core => Sys2Proof.Machine.execTileComplete core s
  | .writeOutComplete core => Sys2Proof.Machine.execWriteOutComplete core s
  | .vec core ecc => Sys2Proof.Machine.execVec core ecc s
  | .vecComplete core => Sys2Proof.Machine.execVecComplete core s
  | .harvestFlush core => Sys2Proof.Machine.execHarvestFlush core s
  | .xform core => Sys2Proof.Machine.execXform core s
  | .xdStart quad => Sys2Proof.Machine.execXdStart quad s
  | .xdComplete quad core ae => Sys2Proof.Machine.execXdComplete quad core ae s
  | .xdPreemptStop quad core ae group => Sys2Proof.Machine.execXdPreemptStop quad core ae group s
  | .rindJobStart quad => Sys2Proof.Machine.execRindJobStart quad s
  | .rindJobComplete quad => Sys2Proof.Machine.execRindJobComplete quad s
  | .coll core => Sys2Proof.Machine.execColl core s
  | .collStart p group => Sys2Proof.Machine.execCollStart p group s
  | .collStartNotice who => Sys2Proof.Machine.execCollStartNotice who s
  | .permuteReadoutNotice who place => Sys2Proof.Machine.execPermuteReadoutNotice who place s
  | .collComplete p group inputs => Sys2Proof.Machine.execCollComplete p group inputs s
  | .media core => Sys2Proof.Machine.execMedia core s
  | .mjStart p core ae => Sys2Proof.Machine.execMjStart p core ae s
  | .sampleDecodeComplete p core ae slot => Sys2Proof.Machine.execSampleDecodeComplete p core ae slot s
  | .decodeBudgetExhausted p core ae slot => Sys2Proof.Machine.execDecodeBudgetExhausted p core ae slot s
  | .videoBandProgress p core ae slot band => Sys2Proof.Machine.execVideoBandProgress p core ae slot band s
  | .encodePicture p core ae => Sys2Proof.Machine.execEncodePicture p core ae s
  | .encodeSliceComplete p core ae => Sys2Proof.Machine.execEncodeSliceComplete p core ae s
  | .mjComplete p core ae => Sys2Proof.Machine.execMjComplete p core ae s
  | .writeIndexSample => Sys2Proof.Machine.execWriteIndexSample s
  | .alignTickEmit p set => Sys2Proof.Machine.execAlignTickEmit p set s
  | .alignLateLimit p set => Sys2Proof.Machine.execAlignLateLimit p set s
  | .upd core => Sys2Proof.Machine.execUpd core s
  | .norm quad upto => Sys2Proof.Machine.execNorm quad upto s
  | .check quad => Sys2Proof.Machine.execCheck quad s
  | .apply quad upto => Sys2Proof.Machine.execApply quad upto s
  | .compare quad others data => Sys2Proof.Machine.execCompare quad others data s
  | .commit quad => Sys2Proof.Machine.execCommit quad s
  | .udComplete quad core ae => Sys2Proof.Machine.execUdComplete quad core ae s
  | .udPreemptStop quad core ae => Sys2Proof.Machine.execUdPreemptStop quad core ae s
  | .wait core => Sys2Proof.Machine.execWait core s
  | .waitRelease core => Sys2Proof.Machine.execWaitRelease core s
  | .signal core => Sys2Proof.Machine.execSignal core s
  | .btCommitEntry core => Sys2Proof.Machine.execBtCommitEntry core s
  | .slot core => Sys2Proof.Machine.execSlot core s
  | .end_ core => Sys2Proof.Machine.execEnd core s
  | .endComplete core => Sys2Proof.Machine.execEndComplete core s
  | .boundOverrun core ae => Sys2Proof.Machine.execBoundOverrun core ae s
  | .preemptionPoint core vecRow => Sys2Proof.Machine.execPreemptionPoint core vecRow s
  | .coreClockChange core => Sys2Proof.Machine.execCoreClockChange core s
  | .pllRelockDone core => Sys2Proof.Machine.execPllRelockDone core s
  | .katTile core pass => Sys2Proof.Machine.execKatTile core pass s
  | .blockReceive link lanes => Sys2Proof.Machine.execBlockReceive link lanes s
  | .trainingBlockReceive link peerId peerLink ready => Sys2Proof.Machine.execTrainingBlockReceive link peerId peerLink ready s
  | .laneLockLoss link => Sys2Proof.Machine.execLaneLockLoss link s
  | .ackTimeout link => Sys2Proof.Machine.execAckTimeout link s
  | .linkTrainingComplete link peerId peerLink t => Sys2Proof.Machine.execLinkTrainingComplete link peerId peerLink t s
  | .partnerReady link => Sys2Proof.Machine.execPartnerReady link s
  | .fabricWrite link m => Sys2Proof.Machine.execFabricWrite link m s
  | .fabricColl link m => Sys2Proof.Machine.execFabricColl link m s
  | .fabricResp link m => Sys2Proof.Machine.execFabricResp link m s
  | .ptpMessage link m rx => Sys2Proof.Machine.execPtpMessage link m rx s
  | .ptpSync => Sys2Proof.Machine.execPtpSync s
  | .firmwareChunk link m repair => Sys2Proof.Machine.execFirmwareChunk link m repair s
  | .stewardMessage link m body => Sys2Proof.Machine.execStewardMessage link m body s
  | .fwRepairTimeout => Sys2Proof.Machine.execFwRepairTimeout s
  | .fwVerifyComplete version sigOk => Sys2Proof.Machine.execFwVerifyComplete version sigOk s
  | .fwDeadline => Sys2Proof.Machine.execFwDeadline s
  | .blockTransmit link => Sys2Proof.Machine.execBlockTransmit link s
  | .unknownXnxCode x code => Sys2Proof.Machine.execUnknownXnxCode x code s
  | .cxlCacheSnoop port => Sys2Proof.Machine.execCxlCacheSnoop port s
  | .doeDiscovery port index => Sys2Proof.Machine.execDoeDiscovery port index s
  | .portLinkDown port => Sys2Proof.Machine.execPortLinkDown port s
  | .portLinkTrained port width rate => Sys2Proof.Machine.execPortLinkTrained port width rate s
  | .refreshManagementRequest st => Sys2Proof.Machine.execRefreshManagementRequest st s
  | .caParityError st => Sys2Proof.Machine.execCaParityError st s

end Sys2Proof.Machine
end

