-- ==== Sys2Proof/Machine/Step.lean ====
section
/-! DEFINITION. The step: the command at the front of the queue, or a tick of the clocks when none waits. -/

namespace Sys2Proof.Machine

open Sys2Proof

/-- One step: run the command at the front on the state with the rest of the queue; on an empty queue one cycle of the
clock passes (log entry 8). -/
def step (s : State) : Host.Outcome State Fault Refusal :=
  match s.pending with
  | c :: rest => exec c { s with pending := rest }
  | [] => .next { s with body := tick s.own s.body }

/-- The command that the word spells put at the front of the queue; no word spells one, so s itself. -/
def State.withFetchWord (s : State) (nbits w : Nat) : State :=
  match decodeTableWord nbits w with
  | some c => { s with pending := c :: s.pending }
  | none => s

end Sys2Proof.Machine
end

