-- ==== Sys2Proof/Safety.lean ====
section
/-! DEFINITION. What counts as a legal state, and the words in which claims speak of commands: a legal ownership, the
conditions under which a mailbox command acts, what a response says, and which bytes of memory a claim is about. -/

namespace Sys2Proof.Machine

open Sys2Proof

/-! ### Legal ownership (R395, R425, R443) -/

/-- A held SEM(p + 1) belongs to a partition that exists and whose record allows the holding port (R395). -/
def Own.heldWell (o : Own) (p : Fin 8) : Bool :=
  !(o.sem (p.val + 1)).held || (o.present p && (o.prec p).block.ports.toNat.testBit (portIx (o.sem (p.val + 1)).port))

/-- Ownership is legal: 32 semaphores and 8 records; every held partition semaphore is held well; the world map is the one
that the partition records give (R395, R396, R443). -/
def Own.legal (o : Own) : Bool :=
  decide (o.sems.length = 32) && decide (o.recs.length = 8) && (List.finRange 8).all o.heldWell && decide (o.worlds = o.buildWorlds)

/-- A legal state: legal ownership. -/
def State.legal (s : State) : Bool := s.own.legal

/-! ### Words for claims -/

/-- s with an observation driven. -/
def State.emits (s : State) (o : Out) : State := { s with body := { s.body with out := s.body.out ++ [o] } }

/-- s with the board changed. -/
def State.onBoard (s : State) (f : Board → Board) : State := { s with body := { s.body with board := f s.body.board } }

/-- The DRAM controllers have nothing to do at a tick: no stack owes admission, and at no pseudo-channel is a batch or a refresh under
way or a request waiting (R217, R222, R226). -/
def Body.dramIdle (b : Body) : Bool :=
  b.stks.all fun x => x.debt == 0 && x.queues.all fun q =>
    q.batch == 0 && q.refreshing.isNone && q.waiting == [] && q.owed.all (·.2 == 0) && q.writes.all fun r => !r.aged

/-- No stored word is poisoned or holds an error (R170, R171). -/
def Mem.sound (m : Mem) : Bool := m.poison == [] && m.upsets == []

/-- The controller at a DRAM location serves a request as it arrives: the module is not tripped, the stack admits traffic, and no
request, queued write, batch or refresh is there before it (R217, R222, R226, R227). -/
def Body.servesAt (b : Body) (l : DramLoc) : Bool :=
  let s := b.stks.getD l.stack Stack.reset
  let q := s.pcOf l.pc
  !b.board.tripped && s.admits && q.waiting == [] && q.writes == [] && q.batch == 0 && q.refreshing.isNone

/-- The n bytes at a in a state's memory. -/
def State.bytes (s : State) (a n : Nat) : List Byte := (List.range n).map fun i => s.body.mem.byte (a + i)

/-- t's memory differs from s's at most in the n bytes at a. -/
def State.sameOutside (s t : State) (a n : Nat) : Prop := ∀ x, ¬ (a ≤ x ∧ x < a + n) → t.body.mem.byte x = s.body.mem.byte x

/-- A GO of x is taken and carried out at once: the module is READY with its reference, the port's link is up and it reaches the page, the
mailbox is free, and nothing older waits for the steward (R391, R402). -/
def State.takes (s : State) (x : Xnx) : Bool :=
  s.body.board.phase == .ready && s.body.board.modRef && (s.body.port x.port).linkUp && reaches s.own s.body x.port x.page &&
    !(s.body.mailbox x.page x.mb).owner && !(s.body.mailbox x.page x.mb).pend && s.body.gos == []

/-- A GO of x is taken on a partition's page, with FLAGS' reserved bits zero. -/
def State.takesOn (s : State) (x : Xnx) (p : Fin 8) : Bool := s.takes x && x.page == .part p && decide (x.flags.toNat < 2)
/-- A GO of x is taken on the module page, with FLAGS' reserved bits zero. -/
def State.takesModule (s : State) (x : Xnx) : Bool := s.takes x && x.page == .module && decide (x.flags.toNat < 2)

/-- The command area holds the command with this CODE. -/
def State.commanded (s : State) (code : Nat) (x : Xnx) : Body :=
  s.body.updMail x.page x.mb fun m => { m with cmd := xArea code x }

/-- The same, with the errors that memory holds as the command's rule reads it (R512). -/
def State.commandedWith (s : State) (code : Nat) (x : Xnx) : Body := (s.commanded code x).upset x.ecc

/-- The state after the final response to x, from ownership o and body b (R401, R402). -/
def State.answer (s : State) (o : Own) (b : Body) (x : Xnx) (status : W16) (detail : Nat) (result : List Byte) : State :=
  { s with own := o, body := b.respond o (xTicket x) status detail result }

/-- The state after a PENDING response to x, from ownership o and body b (R402). -/
def State.promise (s : State) (o : Own) (b : Body) (x : Xnx) : State :=
  { s with own := o, body := b.respondPending (xTicket x) }

end Sys2Proof.Machine
end

