-- ==== Sys2Proof/Certificates/Slice0/Obligations.lean ====
section
/-! DEFINITION. The statements for the provers. -/

open Sys2Proof Sys2Proof.Machine

/-! ### The step -/

/-- The step takes the command at the front of the queue and runs it on the state with the rest of the queue. -/
def Obligations.StepRunsFrontCommand : Prop :=
  ∀ (c : Instr) (rest : List Instr) (s : State),
    step { s with pending := c :: rest } = exec c { s with pending := rest }

/-- On an empty queue the step is one cycle of the clock (log entry 8): it changes no ownership; where the DRAM controllers have
nothing to do either (log entry 87) and no GO waits for the steward (log entry 124), it changes no memory, mailbox, partition state,
stack, quadrant, port or backup register, and nothing is driven. -/
def Obligations.IdleStepFrame : Prop :=
  ∀ s : State, s.pending = [] → ∃ t, step s = .next t ∧ t.pending = [] ∧ t.own = s.own ∧
    (s.body.dramIdle = true → s.body.gos = [] → t.body.mem = s.body.mem ∧
      t.body.mail = s.body.mail ∧ t.body.parts = s.body.parts ∧ t.body.stks = s.body.stks ∧ t.body.quads = s.body.quads ∧
      t.body.ports = s.body.ports ∧ t.body.bkp = s.body.bkp ∧ t.body.bkpBad = s.body.bkpBad ∧ t.body.out = s.body.out)

/-- Every command completes with a next state and leaves the queue of waiting commands as it is. -/
def Obligations.ExecKeepsQueue : Prop := ∀ (c : Instr) (s : State), ∃ t, exec c s = .next t ∧ t.pending = s.pending

/-- The commands that may change who owns what: semaphores, partition records, map and world descriptors (R208, R396, R397,
R425 to R427, R443, R457). -/
def changesOwnership : Instr → Bool
  | .semAcquire .. | .semRelease .. | .portReset .. | .portLinkDownTimeout .. | .partCreate .. | .partCreateComplete ..
  | .partModify .. | .partModifyComplete .. | .partDelete .. | .partDeleteComplete .. | .tapReset | .bypass | .idcode | .samplePreload ..
  | .tapLeaveExtest | .moduleShutdown .. | .powerOnReset | .resetNLow .. | .warmReset | .sagResetRelease
  | .referenceClockReturn .. | .moduleReady .. => true
  | _ => false

/-- No other command changes a semaphore, a partition record, a map descriptor or a world-map descriptor. -/
def Obligations.OwnershipChangedOnlyBy : Prop :=
  ∀ (c : Instr) (s t : State), changesOwnership c = false → exec c s = .next t → t.own = s.own

/-- Ownership is legal at reset. -/
def Obligations.ResetOwnershipLegal : Prop := State.reset.legal = true

/-- Every step keeps ownership legal: a held partition semaphore belongs to a partition that exists and allows its port, and
the world map is the one that the partition records give (R395, R397, R426, R443). -/
def Obligations.StepKeepsOwnershipLegal : Prop :=
  ∀ s t : State, s.legal = true → step s = .next t → t.legal = true

/-- After power-on reset the semaphores, SEM_PRIO, every partition record, the heartbeat, the backup registers and the
registers of cores, quadrants and stacks stand at the values the spec gives, and DRM_MAP00 alone maps DRAM (R135, R174,
R178, R208, R393, R394, R396). -/
def Obligations.ResetRegisters : Prop :=
  (∀ n : Fin 32, State.reset.own.sem n.val = ⟨false, .a, 0⟩) ∧ State.reset.own.prio = .a ∧ State.reset.own.cont = 0 ∧
    (∀ p : Fin 8, State.reset.own.present p = false) ∧
    (State.reset.own.maps.filter (·.valid)).length = 1 ∧ State.reset.body.board.heartbeat = 0 ∧
    State.reset.body.bkp = List.replicate 32 0 ∧
    (∀ c : Fin 32, (State.reset.body.core c).seqStat = 0 ∧ (State.reset.body.core c).seqFirst = 0xFFFFFFFF00000000 ∧
      (State.reset.body.core c).seqLeap = 0 ∧ (State.reset.body.core c).ecc = 0 ∧ (State.reset.body.core c).eccAddrReg = 0 ∧
      (State.reset.body.core c).satCnt = 0 ∧ (State.reset.body.core c).nfCnt = 0) ∧
    (∀ q : Fin 4, (State.reset.body.quad q).udDone = 0 ∧ (State.reset.body.quad q).xfDone = 0 ∧ (State.reset.body.quad q).celCe = 0)

/-! ### Host ports (R383 to R388, R391 to R397) -/

/-- A READY module's configuration space carries vendor ID 0x1C7B, device ID 0x4824, class code 0x120000 and the silicon stepping as
revision ID, the same on both ports; a write completes and leaves them as they are (R385). -/
def Obligations.PortIdentity : Prop :=
  ∀ (s : State) (q : Port), (s.body.port q).linkUp = true → s.body.board.phase = .ready → s.body.board.modRef = true →
    exec (.configRequest q 0 none) s = .next (s.emits (.cfgReply q false 0x48241C7B)) ∧
    exec (.configRequest q 8 none) s =
      .next (s.emits (.cfgReply q false (BitVec.ofNat 32 (0x120000 * 256 + s.body.board.stepping.toNat)))) ∧
    ∀ v, ∀ reg ∈ [0, 8], ∃ t, exec (.configRequest q reg (some v)) s = .next t ∧ t.body.out = s.body.out ++ [.cfgReply q false 0] ∧
      exec (.configRequest q 0 none) t = .next (t.emits (.cfgReply q false 0x48241C7B)) ∧
      exec (.configRequest q 8 none) t =
        .next (t.emits (.cfgReply q false (BitVec.ofNat 32 (0x120000 * 256 + s.body.board.stepping.toNat))))

/-- Until the module is READY a configuration request is answered with CRS and changes nothing (R386). Once READY, a register reads what
the port gives it, among it the present link rate and width, with the bits of it that a write sets as last written; nothing else is
changed by the write (R383, R384; which offset holds what, log entry 123, is the model's). Over a link that is down, or without the
module's reference, a request has no effect (R451). -/
def Obligations.ConfigRequests : Prop :=
  ∀ (s : State) (q : Port),
    (∀ reg wr, ((s.body.port q).linkUp = false ∨ s.body.clocked = false) → exec (.configRequest q reg wr) s = .next s) ∧
    ((s.body.port q).linkUp = true → s.body.clocked = true →
      (∀ reg wr, s.body.board.phase ≠ .ready → exec (.configRequest q reg wr) s = .next (s.emits (.cfgReply q true 0))) ∧
      (s.body.board.phase = .ready → s.body.ports.length = 2 →
        (∀ reg, exec (.configRequest q reg none) s = .next (s.emits (.cfgReply q false
          (cfgFixed s.body q reg ||| ((s.body.port q).written reg &&& cfgMask reg))))) ∧
        (cfgFixed s.body q linkStatusReg).toNat / 2 ^ 16 = (rateCode (s.body.port q).rate + (s.body.port q).width * 16) % 2 ^ 16 ∧
        ∀ reg (v : W32), ∃ t, exec (.configRequest q reg (some v)) s = .next t ∧
          exec (.configRequest q reg none) t = .next (t.emits (.cfgReply q false (cfgFixed s.body q reg ||| (v &&& cfgMask reg)))) ∧
          t.own = s.own ∧ t.body.board = s.body.board ∧ t.body.mem = s.body.mem ∧ t.body.parts = s.body.parts ∧
          t.body.out.getLast? = some (.cfgReply q false 0) ∧
          (∀ r, r ≠ q → t.body.port r = s.body.port r)))

/-- Semaphore commands (R395 to R397).

An ACQUIRE of a free semaphore that the port may take takes it with the written TOKEN; one of a held semaphore has no effect
and counts in CONT; one of a partition semaphore whose partition does not exist or does not allow the port has no effect and
counts in XPORT. Where both ports write ACQUIRE in one cycle and both may take the free semaphore, PRIO's port wins, PRIO inverts and
the loser counts in CONT; otherwise the two act one after the other. While BAR0 is not served the write counts in XPORT; over a link
that is down it does not arrive. Nothing else changes (R392, R395, R396, R458).

A RELEASE by the holding port with the holding TOKEN frees the semaphore, whose PORT and TOKEN then read zero (the model's
choice, log entry 10); for SEM00 and SEM09 to SEM31 nothing else changes; for SEM(p + 1) partition p is reset: its almanacs are
unloaded, its four mailboxes are left with no words, no pending command and no owner, its event queue is emptied, its cellar run is
zeroed, and DRAM (where no transform of it runs, R199), every other partition's slots and every other semaphore are kept. Any other RELEASE has
no effect; while BAR0 is not served it counts in XPORT (R392, R396, R397, R436, R458). -/
def Obligations.Semaphores : Prop :=
  (∀ (s : State) (q : Port) (n : Fin 32) (tok tok2 : W16),
     ((s.body.port q).linkUp = false → ∀ w, exec (.semAcquire q n tok w) s = .next s) ∧
     ((s.body.port q).linkUp = true → s.body.clocked = true → s.body.hostServed = false → ∀ w,
       exec (.semAcquire q n tok w) s = .next (s.onBoard fun b => { b with xport := satAdd b.xport 1 })) ∧
     ((s.body.port q).linkUp = true → s.body.hostServed = true →
       (mayAcquire s.own q n = true → (s.own.sem n.val).held = false →
         exec (.semAcquire q n tok none) s = .next { s with own := { s.own with sems := s.own.sems.modify n.val (fun _ => ⟨true, q, tok⟩) } }) ∧
       (mayAcquire s.own q n = true → (s.own.sem n.val).held = true →
         exec (.semAcquire q n tok none) s = .next { s with own := { s.own with cont := satAdd s.own.cont 1 } }) ∧
       (mayAcquire s.own q n = false →
         exec (.semAcquire q n tok none) s = .next (s.onBoard fun b => { b with xport := satAdd b.xport 1 })) ∧
       ((s.body.port (otherPort q)).linkUp = true →
         (mayAcquire s.own .a n = true → mayAcquire s.own .b n = true → (s.own.sem n.val).held = false →
           exec (.semAcquire q n tok (some tok2)) s =
             .next { s with own := { s.own with
               sems := s.own.sems.modify n.val (fun _ => ⟨true, s.own.prio, if s.own.prio = q then tok else tok2⟩)
               prio := otherPort s.own.prio
               cont := satAdd s.own.cont 1 } }) ∧
         ((mayAcquire s.own .a n = false ∨ mayAcquire s.own .b n = false ∨ (s.own.sem n.val).held = true) →
           ∃ t, exec (.semAcquire q n tok none) s = .next t ∧
             exec (.semAcquire q n tok (some tok2)) s = exec (.semAcquire (otherPort q) n tok2 none) t)))) ∧
  (∀ (s : State) (q : Port) (n : Fin 32) (tok : W16),
     ((s.body.port q).linkUp = false → exec (.semRelease q n tok) s = .next s) ∧
     ((s.body.port q).linkUp = true → s.body.clocked = true → s.body.hostServed = false →
       exec (.semRelease q n tok) s = .next (s.onBoard fun b => { b with xport := satAdd b.xport 1 })) ∧
     ((s.body.port q).linkUp = true → s.body.hostServed = true →
       (s.own.sem n.val = ⟨true, q, tok⟩ → (n.val = 0 ∨ 9 ≤ n.val) →
         exec (.semRelease q n tok) s =
           .next { s with own := { s.own with sems := s.own.sems.modify n.val (fun _ => ⟨false, .a, 0⟩) } }) ∧
       (∀ p : Fin 8, n.val = p.val + 1 → s.own.sem n.val = ⟨true, q, tok⟩ → s.body.mail.length = 9 → s.body.parts.length = 8 →
         ∃ t, exec (.semRelease q n tok) s = .next t ∧ t.pending = s.pending ∧
           t.own = { s.own with sems := s.own.sems.modify n.val (fun _ => ⟨false, .a, 0⟩) } ∧
           (∀ m, (t.body.mailbox (.part p) m).cmd = [] ∧ (t.body.mailbox (.part p) m).resp = [] ∧
             (t.body.mailbox (.part p) m).pend = false ∧ (t.body.mailbox (.part p) m).owner = false) ∧
           (t.body.part p).events = [] ∧ (t.body.part p).lost = 0 ∧ (∀ k, t.body.slot p k = Slot.empty) ∧
           (∀ r, r ≠ p → ∀ k, t.body.slot r k = s.body.slot r k) ∧
           ((∀ k ∈ s.body.quads, ∀ j ∈ k.xfRun, j.ctx.part ≠ p) → ∀ a, a < 0xD800000000 → t.body.mem.byte a = s.body.mem.byte a) ∧
           (∀ a, (s.own.prec p).block.cellarRange.1 ≤ a →
             a < (s.own.prec p).block.cellarRange.1 + (s.own.prec p).block.cellarRange.2 → t.body.mem.byte a = 0)) ∧
       (s.own.sem n.val ≠ ⟨true, q, tok⟩ → exec (.semRelease q n tok) s = .next s)))

/-- A port reset of any kind, clocked or not, takes the link down until it has trained again, resets the port's configuration space and
releases every semaphore the port holds and no other; a link that has stayed down for 1 s releases them too; both keep every
partition record, map and world descriptor. A link that goes down changes that port's link, width and rate alone; it trains, once
the control island runs and the port's reference is present, at a width and rate the port supports, and else not (R383, R384, R397, R451,
R453, R455, R457). -/
def Obligations.PortEvents : Prop :=
  ∀ (s : State) (q : Port),
    (∀ kind, ∃ t, exec (.portReset q kind) s = .next t ∧ t.pending = s.pending ∧
      (∀ n : Fin 32, t.own.sem n.val =
        if (s.own.sem n.val).held = true ∧ (s.own.sem n.val).port = q then ⟨false, .a, 0⟩ else s.own.sem n.val) ∧
      t.own.recs = s.own.recs ∧ t.own.maps = s.own.maps ∧ t.own.worlds = s.own.worlds ∧
      (s.body.ports.length = 2 → (t.body.port q).cfg = [] ∧ (t.body.port q).linkUp = false ∧ (t.body.port q).width = 0 ∧
        (t.body.port q).rate = 0 ∧ (t.body.port q).perst = ((s.body.port q).perst || kind == .perstLow))) ∧
    ((s.body.port q).linkUp = false → s.body.clocked = true → ∃ t, exec (.portLinkDownTimeout q) s = .next t ∧
      (∀ n : Fin 32, t.own.sem n.val =
        if (s.own.sem n.val).held = true ∧ (s.own.sem n.val).port = q then ⟨false, .a, 0⟩ else s.own.sem n.val) ∧
      t.own.recs = s.own.recs ∧ t.own.maps = s.own.maps ∧ t.own.worlds = s.own.worlds) ∧
    ((s.body.port q).linkUp = true → exec (.portLinkDownTimeout q) s = .next s) ∧
    (s.body.clocked = true → exec (.portLinkDown q) s = .next { s with body := s.body.updPort q fun x =>
      { x with linkUp := false, width := 0, rate := 0 } }) ∧
    (∀ w r, s.body.board.padsSet = true →
      (s.body.board.portRef.getD (portIx q) false = true → w ∈ [8, 4, 2, 1] → r ∈ [64, 32, 16, 8] →
        exec (.portLinkTrained q w r) s = .next { s with body := s.body.updPort q fun x =>
          { x with linkUp := true, perst := false, inReset := false, width := w, rate := r } }) ∧
      ((s.body.board.portRef.getD (portIx q) false = false ∨ ¬ (w ∈ [8, 4, 2, 1]) ∨ ¬ (r ∈ [64, 32, 16, 8])) →
        exec (.portLinkTrained q w r) s = .next s)) ∧
    (s.body.board.padsSet = false → ∀ w r, exec (.portLinkTrained q w r) s = .next s)

/-- A window access in the port's own partition, passed by the world map and served as it arrives at its DRAM controller: a read of sound
memory returns the bytes and counts the units read; one that meets units it cannot read returns its bytes marked as poisoned, and no
partition sees a fault (R388); a write stores its bytes under byte enables and changes no other
byte. On a tripped module, whose controllers accept nothing, neither does anything (R227). An access outside the partition, to
one the port does not own, or while accesses are not served, reads as zeros, or writes nothing, and counts in XPORT; one that the world map refuses reads as zeros
and stores nothing (R19, R387, R388, R392, R458). Over a link that is down nothing arrives. -/
def Obligations.WindowAccess : Prop :=
  ∀ (s : State) (q : Port) (bar2 : Bool) (off : Nat),
    ((s.body.port q).linkUp = false → ∀ acc ecc, exec (.hostWindowAccess q bar2 off acc ecc) s = .next s) ∧
    ((s.body.port q).linkUp = true → s.body.clocked = true →
    (s.body.hostServed = true → ∀ p a n, windowAddr s.own q off n = some (p, a) →
      (netCheck s.own s.body (.host p q) a n = none → s.body.board.tripped = true →
        exec (.hostWindowAccess q bar2 off (.read n) []) s = .next s ∧
        ∀ d, d.length = n → exec (.hostWindowAccess q bar2 off (.write d) []) s = .next s) ∧
      (∀ l, netCheck s.own s.body (.host p q) a n = none → locate s.own.maps a = some l → s.body.servesAt l = true →
        s.body.mem.upsets = [] →
        (s.body.badUnits s.own a n = [] →
          ∃ t, exec (.hostWindowAccess q bar2 off (.read n) []) s = .next t ∧
            t.body.out = s.body.out ++ [.cxlData q (s.bytes a n) false] ∧ t.own = s.own ∧ t.body.board = s.body.board ∧
            t.body.mail = s.body.mail ∧ t.body.parts = s.body.parts ∧ t.body.mem = s.body.mem ∧
            ∀ st : Nat, st < s.body.stks.length → (t.body.stks.getD st Stack.reset).rd =
              (s.body.stks.getD st Stack.reset).rd +
                BitVec.ofNat 64 (stackUnits st (dramUnits s.own a n fun h => touches 32 h a n))) ∧
        (s.body.badUnits s.own a n ≠ [] → s.own.storeOwner a = none → a + n ≤ 0xD800000000 →
          (∀ u ∈ s.body.badUnits s.own a n, s.own.storeOwner u = none) →
          ∃ t, exec (.hostWindowAccess q bar2 off (.read n) []) s = .next t ∧
            t.body.out = s.body.out ++ [.cxlData q (s.bytes a n) true] ∧ t.own = s.own ∧ t.body.parts = s.body.parts ∧
            t.body.mem.cells = s.body.mem.cells)) ∧
      (∀ d l, d.length = n → netCheck s.own s.body (.host p q) a n = none → locate s.own.maps a = some l → s.body.servesAt l = true →
        s.body.mem.upsets = [] → s.body.mem.lostWords (wordSize s.own.maps a) a d = [] →
        ∃ t, exec (.hostWindowAccess q bar2 off (.write d) []) s = .next t ∧ t.own = s.own ∧ t.body.board = s.body.board ∧
          t.body.mail = s.body.mail ∧ t.body.parts = s.body.parts ∧ s.sameOutside t a d.length ∧
          ∀ i : Nat, ∀ h : i < d.length, t.body.mem.byte (a + i) = (d[i]'h).getD (s.body.mem.byte (a + i))) ∧
      (∀ st, netCheck s.own s.body (.host p q) a n = some st →
        (∃ t, exec (.hostWindowAccess q bar2 off (.read n) []) s = .next t ∧ t.own = s.own ∧ t.body.mem = s.body.mem ∧
          t.body.out.getLast? = some (.cxlData q (List.replicate n 0) false)) ∧
        ∀ d, d.length = n → ∃ t, exec (.hostWindowAccess q bar2 off (.write d) []) s = .next t ∧ t.own = s.own ∧
          t.body.mem = s.body.mem)) ∧
    (∀ n, (s.body.hostServed = false ∨ windowAddr s.own q off n = none) →
      (∀ ecc, exec (.hostWindowAccess q bar2 off (.read n) ecc) s =
        .next ((s.onBoard fun b => { b with xport := satAdd b.xport 1 }).emits (.cxlData q (List.replicate n 0) false))) ∧
      ∀ d ecc, d.length = n → exec (.hostWindowAccess q bar2 off (.write d) ecc) s =
        .next (s.onBoard fun b => { b with xport := satAdd b.xport 1 })))

/-- BAR0 accesses over a link that is up (R392, R393, R398, R399, R407, R409). A read that is taken returns the bytes of its register or
area and changes nothing, so the status page's DEV_ID; one that is not taken, on a page the port does not reach, of a wrong size, or while
BAR0 is not served, reads as zeros and counts in XPORT. A write to the global status page or the reset/power status page has no effect,
and counts in XPORT unless it is an aligned 4-byte or 8-byte access; one that is not taken counts in XPORT; a write of a byte into the
command area of a free mailbox of an owned partition sets that byte of the area and changes nothing else; while the steward owns the
mailbox it is dropped and counted. -/
def Obligations.Bar0Write : Prop :=
  ∀ (s : State) (q : Port), (s.body.port q).linkUp = true → s.body.clocked = true →
    (∀ off n, (barTakes s.own s.body q off n = true →
        exec (.bar0RegisterWrite q off (.read n)) s = .next (s.emits (.barData q (barBytes s.own s.body q off n)))) ∧
      (barTakes s.own s.body q off n = false → exec (.bar0RegisterWrite q off (.read n)) s =
        .next ((s.onBoard fun b => { b with xport := satAdd b.xport 1 }).emits (.barData q (List.replicate n 0)))) ∧
      ∀ d, d.length = n → barTakes s.own s.body q off n = false → exec (.bar0RegisterWrite q off (.write d)) s =
        .next (s.onBoard fun b => { b with xport := satAdd b.xport 1 })) ∧
    (∀ off d, (off < 0x30 ∨ (0xD0000 ≤ off ∧ off < 0xD0020)) →
      exec (.bar0RegisterWrite q off (.write d)) s =
        .next (if (d.length = 4 ∧ off % 4 = 0) ∨ (d.length = 8 ∧ off % 8 = 0) then s
          else s.onBoard fun b => { b with xport := satAdd b.xport 1 })) ∧
    (∀ (p : Fin 8) (m : Fin 4) (i : Nat) (v : Byte), s.body.hostServed = true → s.own.owns q p = true → i < 0x2000 →
      ((s.body.mailbox (.part p) m).owner = false →
        exec (.bar0RegisterWrite q (0x20000 + p.val * 0x10000 + m.val * 0x4000 + i) (.write [some v])) s =
          .next { s with body := s.body.updMail (.part p) m fun x => { x with cmd := setArea x.cmd i v } }) ∧
      ((s.body.mailbox (.part p) m).owner = true →
        exec (.bar0RegisterWrite q (0x20000 + p.val * 0x10000 + m.val * 0x4000 + i) (.write [some v])) s =
          .next { s with body := s.body.updMail (.part p) m fun x => { x with dropped := satAdd x.dropped 1 } }))

/-- Over a link that is up every CXL.cache snoop is answered with RspIHitI, and on a READY module DOE Discovery names Discovery itself,
then CMA/SPDM, and past them no protocol; nothing else changes (R383). -/
def Obligations.SnoopAndDiscovery : Prop :=
  ∀ (s : State) (q : Port), (s.body.port q).linkUp = true → s.body.clocked = true →
    exec (.cxlCacheSnoop q) s = .next (s.emits (.snoopReply q)) ∧
    (s.body.board.phase = .ready → exec (.doeDiscovery q 0) s = .next (s.emits (.doe q 0 1)) ∧
      exec (.doeDiscovery q 1) s = .next (s.emits (.doe q 1 0)) ∧
      ∀ i, 2 ≤ i → exec (.doeDiscovery q i) s = .next (s.emits (.doe q 0xFF 0)))
/-! ### Mailbox commands: the general family (R401, R402, R412, R413) -/

/-- The response header: STATUS in bytes 0 and 1, TAG in bytes 2 and 3, LEN in bytes 4 to 7, DETAIL in bytes 8 to 15, the results
from byte 16 (R401). -/
def Obligations.ResponseHeader : Prop :=
  ∀ (st tag : W16) (detail : Nat) (r : List Byte), detail < 2 ^ 64 → r.length < 2 ^ 32 →
    field (respBytes st tag detail r) 0 2 = st.toNat ∧ field (respBytes st tag detail r) 2 2 = tag.toNat ∧
      field (respBytes st tag detail r) 4 4 = r.length ∧ field (respBytes st tag detail r) 8 8 = detail ∧
      (respBytes st tag detail r).drop 16 = r

/-- How a command reaches the steward, shown with NOP (R392, R399, R402; that its row stands for the host's writes and the steward's work, log
entry 124, is the model's). Over a link that is down nothing arrives. While BAR0 is not served, or on a page that the port does not
reach, the writes count in XPORT and have no effect. On a mailbox that the steward owns, whose command is not the oldest, the GO is
dropped and counts in DROPPED; on one with a pending command the words are written and the GO is dropped. On a free mailbox, while an older command
waits or the steward is held, the GO hands the mailbox over: OWNER is 1 and the command waits. The command that a host handed over is
carried out once it is the oldest, which leaves those behind it waiting. -/
def Obligations.GoDropped : Prop :=
  ∀ (s : State) (x : Xnx),
    ((s.body.port x.port).linkUp = false → exec (.nop x) s = .next s) ∧
    ((s.body.port x.port).linkUp = true → s.body.clocked = true →
      (s.body.hostServed = false ∨ reaches s.own s.body x.port x.page = false) →
      exec (.nop x) s = .next (s.onBoard fun b => { b with xport := satAdd b.xport 1 })) ∧
    ((s.body.port x.port).linkUp = true → s.body.hostServed = true → reaches s.own s.body x.port x.page = true →
      s.body.gos.head? ≠ some .sideBand →
      let m := s.body.mailbox x.page x.mb
      (m.owner = true → s.body.gos.head? ≠ some (.mailbox x.page x.mb) →
        exec (.nop x) s = .next { s with body := s.body.updMail x.page x.mb fun m => { m with dropped := satAdd m.dropped 1 } }) ∧
      (m.owner = false → m.pend = true → exec (.nop x) s =
        .next { s with body := (s.commanded 0x0001 x).updMail x.page x.mb fun m => { m with dropped := satAdd m.dropped 1 } }) ∧
      (m.owner = false → m.pend = false → (s.body.gos ≠ [] ∨ s.body.board.phase = .held) → exec (.nop x) s =
        .next { s with body := { (s.commanded 0x0001 x).updMail x.page x.mb fun m => { m with owner := true } with
          gos := s.body.gos ++ [.mailbox x.page x.mb] } }) ∧
      (∀ rest, m.owner = true → s.body.board.phase = .ready → s.body.gos = .mailbox x.page x.mb :: rest → m.cmd = xArea 0x0001 x →
        x.len = 0 → x.arg0 = 0 → x.flags.toNat < 2 →
        exec (.nop x) s = .next (s.answer s.own ({ s.body with gos := rest }.upset x.ecc) x stOk 0 [])))

/-- The reporting commands and EVENT_READ (R408, R411 to R413).

The checks that every command shares (R412): with FLAGS' reserved bits set each command, and with an argument past its range each
that has one, is answered REFUSED_FORMAT; a command of a partition on the module page, and one of the module on a partition's page, is
answered REFUSED_WORLD. Nothing else changes.

The commands that only report: each answers OK with what its row says and changes nothing but its mailbox (and the counts of
words that its reads correct, R170). NOP reports nothing; an unknown CODE is answered REFUSED_FORMAT; TELEM_SNAP returns COUNT window
entries; PRESS_READ of a core that does not run, and CAVE_READ, the bytes. Out of their ranges they answer REFUSED_BOUNDS, PRESS_READ of
another partition's core REFUSED_WORLD, of a running core BUSY; data that cannot be read end both with FAULT_ECC_UNCORR and no result (R165, R176, R408, R412, R413,
R512).

EVENT_READ returns the oldest MAX records, or all there are, with COUNT and LOST before them, takes them off the queue and clears LOST;
records left behind fire the queue's vector; MAX out of its range is REFUSED_BOUNDS (R405, R411, R413). -/
def Obligations.GeneralReports : Prop :=
  (∀ (s : State) (x : Xnx) (tree : List (BitVec 12)) (image : List Byte) (data : RepairData), s.takes x = true →
     let parts : List (Instr × Nat × Nat) := [(.telemSnap x, 0x0002, 8), (.eventRead x, 0x0003, 4), (.pressRead x, 0x0004, 8),
       (.caveRead x, 0x0005, 8), (.caveWrite x, 0x0006, 8 + xArg x 4 4), (.backupWrite x, 0x0007, 8), (.harvestCfg x, 0x0008, 8),
       (.hostCopy x, 0x0009, 24), (.almLoad x, 0x0101, 9), (.almUnload x, 0x0102, 0), (.invoke x, 0x0103, 0), (.preempt x, 0x0104, 0),
       (.resume x, 0x0105, 0), (.btCommit x, 0x0106, 2), (.updParams x, 0x0201, 520), (.updRecover x, 0x0202, 8), (.replCfg x, 0x0203, 16),
       (.replRepair x data, 0x0204, 2), (.fabAdmit x, 0x0304, 4 + 2 * xArg x 2 2), (.fabTime x, 0x0305, 0), (.collCfg x, 0x0306, 44),
       (.mediaCfg x, 0x0401, 32), (.mediaStream x, 0x0402, 44), (.mediaVocab x, 0x0403, 12), (.mediaAlign x, 0x0404, 32 + 32 * xArg x 0 1),
       (.mediaEncode x, 0x0405, 48)]
     let modules : List (Instr × Nat × Nat) := [(.fabCfg x, 0x0301, 24), (.linkEnable x, 0x0302, 0), (.linkDisable x, 0x0303, 0),
       (.partCreate x, 0x0501, 24), (.partDelete x, 0x0502, 0), (.partReset x, 0x0503, 0), (.partModify x, 0x0504, 24),
       (.stkTest x, 0x0601, 1), (.pprQuery x, 0x0602, 0), (.pprCand x, 0x0603, 0), (.pprSoft x, 0x0604, 4), (.pprHard x, 0x0605, 4),
       (.fwStage x tree image, 0x0701, 40), (.fwStatus x, 0x0702, 0), (.fwCommit x, 0x0703, 16)]
     (2 ≤ x.flags.toNat → ∀ r ∈ (.nop x, 0x0001, 0) :: (parts ++ modules),
       exec r.1 s = .next (s.answer s.own (s.commanded r.2.1 x) x stFormat 0 [])) ∧
     (32 ≤ x.arg0 → ∀ r ∈ (.nop x, 0x0001, 0) :: (parts ++ modules), r.2.1 ≠ 0x0701 →
       exec r.1 s = .next (s.answer s.own (s.commanded r.2.1 x) x stFormat 0 [])) ∧
     (∀ r ∈ parts ++ modules, x.len ≠ r.2.2 → exec r.1 s = .next (s.answer s.own (s.commanded r.2.1 x) x stFormat 0 [])) ∧
     (x.flags.toNat < 2 → x.arg0 = 0 →
       (x.page = .module → ∀ r ∈ parts, x.len = r.2.2 → exec r.1 s = .next (s.answer s.own (s.commanded r.2.1 x) x stWorld 0 [])) ∧
       (∀ p, x.page = .part p → ∀ r ∈ modules, x.len = r.2.2 →
         exec r.1 s = .next (s.answer s.own (s.commanded r.2.1 x) x stWorld 0 [])))) ∧
  (∀ (s : State) (x : Xnx), s.takes x = true → x.flags.toNat < 2 →
     (x.len = 0 → x.arg0 = 0 → exec (.nop x) s = .next (s.answer s.own (s.commandedWith 0x0001 x) x stOk 0 [])) ∧
     (∀ code : W16, exec (.unknownXnxCode x code) s = .next (s.answer s.own (s.commanded code.toNat x) x stFormat 0 [])) ∧
     (∀ p, x.page = .part p → x.len = 8 →
       let ofs := xArg x 0 4
       let n := xArg x 4 4
       (x.arg0 = 0 →
         (ofs % 8 = 0 → 1 ≤ n → n ≤ 1014 → ofs + 8 * n ≤ 0x20000 →
           exec (.telemSnap x) s = .next (s.answer s.own (s.commandedWith 0x0002 x) x stOk 0
             ((List.range n).flatMap fun i => leBytes 8 ((s.commandedWith 0x0002 x).telem s.own p (ofs + 8 * i)).toNat))) ∧
         ((ofs % 8 ≠ 0 ∨ n = 0 ∨ 1014 < n ∨ 0x20000 < ofs + 8 * n) →
           exec (.telemSnap x) s = .next (s.answer s.own (s.commanded 0x0002 x) x stBounds 0 []))) ∧
       (∀ c : Fin 32, x.arg0 = c.val →
         let rs := [(0xF3000000000 + c.val * 0x400000 + ofs, n)]
         let fits := ofs % 64 = 0 ∧ 64 ≤ n ∧ n ≤ 8064 ∧ n % 64 = 0 ∧ ofs + n ≤ 0x400000
         (s.own.hasCore p c.val = false → exec (.pressRead x) s = .next (s.answer s.own (s.commanded 0x0004 x) x stWorld 0 [])) ∧
         (s.own.hasCore p c.val = true → ¬ fits →
           exec (.pressRead x) s = .next (s.answer s.own (s.commanded 0x0004 x) x stBounds 0 [])) ∧
         (s.own.hasCore p c.val = true → fits → (s.body.core c).cx.seq = .running →
           exec (.pressRead x) s = .next (s.answer s.own (s.commanded 0x0004 x) x stBusy 0 [])) ∧
         (s.own.hasCore p c.val = true → fits → (s.body.core c).cx.seq ≠ .running →
           ((s.commandedWith 0x0004 x).firstBad s.own rs = none →
             exec (.pressRead x) s = .next (s.answer s.own ((s.commandedWith 0x0004 x).correctedIn s.own rs) x stOk 0
               (s.bytes (0xF3000000000 + c.val * 0x400000 + ofs) n))) ∧
           (∀ w, (s.commandedWith 0x0004 x).firstBad s.own rs = some w →
             exec (.pressRead x) s = .next (s.answer s.own ((s.commandedWith 0x0004 x).stewardBad s.own p w) x ftEcc 0 [])))) ∧
       (x.arg0 = 0 →
         let rs := [(0xF2000010000 + p.val * 0x6000 + ofs, n)]
         ((n = 0 ∨ 8064 < n ∨ 0x6000 < ofs + n) →
           exec (.caveRead x) s = .next (s.answer s.own (s.commanded 0x0005 x) x stBounds 0 [])) ∧
         (1 ≤ n → n ≤ 8064 → ofs + n ≤ 0x6000 →
           ((s.commandedWith 0x0005 x).firstBad s.own rs = none →
             exec (.caveRead x) s = .next (s.answer s.own ((s.commandedWith 0x0005 x).correctedIn s.own rs) x stOk 0
               (s.bytes (0xF2000010000 + p.val * 0x6000 + ofs) n))) ∧
           (∀ w, (s.commandedWith 0x0005 x).firstBad s.own rs = some w →
             exec (.caveRead x) s = .next (s.answer s.own ((s.commandedWith 0x0005 x).stewardBad s.own p w) x ftEcc 0 [])))))) ∧
  (∀ (s : State) (x : Xnx) (p : Fin 8), s.takesOn x p = true → x.len = 4 → x.arg0 = 0 →
     let n := xArg x 0 4
     let evs := (s.body.part p).events
     let b := (s.commandedWith 0x0003 x).updPart p fun y => { y with events := evs.drop n, lost := 0 }
     let res := leBytes 4 (evs.take n).length ++ leBytes 4 (s.body.part p).lost.toNat ++ (evs.take n).flatMap (·.bytes)
     ((n = 0 ∨ 202 < n) → exec (.eventRead x) s = .next (s.answer s.own (s.commanded 0x0003 x) x stBounds 0 [])) ∧
     (1 ≤ n → n ≤ 202 → evs.length ≤ n → exec (.eventRead x) s = .next (s.answer s.own b x stOk 0 res)) ∧
     (1 ≤ n → n ≤ 202 → n < evs.length →
       exec (.eventRead x) s = .next (s.answer s.own (b.firePart s.own p (33 + p.val)) x stOk 0 res)))

/-- BKP_WRITE and CAVE_WRITE.

BACKUP_WRITE sets one of the partition's two backup registers, RST_BKP(16 + 2p) or the next, to VALUE with fresh check bits, so that
an error it held is gone, and changes nothing but that register and its mailbox (R169, R178, R413).

CAVE_WRITE into readable words stores its data at OFS of the partition's 24 KiB cave region and changes no other byte of memory,
no ownership, no partition state and no register but its mailbox; out of the region it is REFUSED_BOUNDS; where a word that it covers
only in part cannot be read it stores nothing and ends FAULT_ECC_UNCORR (R172, R175, R176, R413, R512). -/
def Obligations.BackupAndCave : Prop :=
  (∀ (s : State) (x : Xnx) (p : Fin 8), s.takesOn x p = true → x.len = 8 → x.arg0 < 2 →
     exec (.backupWrite x) s = .next (s.answer s.own
       { s.commandedWith 0x0007 x with
         bkp := s.body.bkp.set (16 + 2 * p.val + x.arg0) (BitVec.ofNat 64 (xArg x 0 8))
         bkpBad := s.body.bkpBad &&& ~~~(BitVec.ofNat 32 (2 ^ (16 + 2 * p.val + x.arg0))) } x stOk 0 [])) ∧
  (∀ (s : State) (x : Xnx) (p : Fin 8), s.takesOn x p = true → x.arg0 = 0 → x.len = 8 + xArg x 4 4 →
     let ofs := xArg x 0 4
     let n := xArg x 4 4
     let a := 0xF2000010000 + p.val * 0x6000 + ofs
     ((n = 0 ∨ 8064 < n ∨ 0x6000 < ofs + n) →
       exec (.caveWrite x) s = .next (s.answer s.own (s.commanded 0x0006 x) x stBounds 0 [])) ∧
     (1 ≤ n → n ≤ 8064 → ofs + n ≤ 0x6000 →
       (∀ w, (s.commandedWith 0x0006 x).firstBad s.own (mergeWords a n) = some w →
         exec (.caveWrite x) s = .next (s.answer s.own ((s.commandedWith 0x0006 x).stewardBad s.own p w) x ftEcc 0 [])) ∧
       ((s.commandedWith 0x0006 x).firstBad s.own (mergeWords a n) = none → x.args.length = 8 + n →
         ∃ t, exec (.caveWrite x) s = .next t ∧ t.own = s.own ∧ t.body.board = s.body.board ∧ t.body.parts = s.body.parts ∧
           t.body.bkp = s.body.bkp ∧ t.body.stks = s.body.stks ∧ t.body.cores = s.body.cores ∧
           s.sameOutside t a n ∧ t.bytes a n = x.args.drop 8)))

/-- HARVEST_CFG with TABLE = 0 removes the partition's harvest table; with a table of 576 KiB in the partition's data region it sets
and zeroes it, and changes no byte of memory outside it; on a tripped module, whose DRAM takes no write, such a command stays
PENDING. A table that is not aligned is REFUSED_BOUNDS; while an invocation of the partition runs the command is BUSY; a table outside the
data region is REFUSED_WORLD, with its record of KIND 2 (R152, R227, R412, R413, R511). -/
def Obligations.HarvestCfg : Prop :=
  ∀ (s : State) (x : Xnx) (p : Fin 8), s.takesOn x p = true → x.len = 8 → x.arg0 = 0 →
    let t0 := xArg x 0 8
    (t0 ≠ 0 → s.own.inData p t0 589824 = false → exec (.harvestCfg x) s = .next (s.answer s.own
      ((s.commanded 0x0008 x).logForeign s.own (.part p) (s.own.outside p t0)) x stWorld 0 [])) ∧
    ((t0 = 0 ∨ s.own.inData p t0 589824 = true) →
      (t0 % 64 ≠ 0 → exec (.harvestCfg x) s = .next (s.answer s.own (s.commanded 0x0008 x) x stBounds 0 [])) ∧
      (t0 % 64 = 0 → (s.body.part p).invoking = true →
        exec (.harvestCfg x) s = .next (s.answer s.own (s.commanded 0x0008 x) x stBusy 0 [])) ∧
      (t0 % 64 = 0 → (s.body.part p).invoking = false →
        (t0 = 0 → exec (.harvestCfg x) s = .next (s.answer s.own
          ((s.commandedWith 0x0008 x).updPart p fun y => { y with harvTab := none, harvSeq := [] }) x stOk 0 [])) ∧
        (t0 ≠ 0 → s.body.board.tripped = true →
          exec (.harvestCfg x) s = .next (s.promise s.own (s.commandedWith 0x0008 x) x)) ∧
        (t0 ≠ 0 → s.body.board.tripped = false → s.body.parts.length = 8 →
          ∃ t, exec (.harvestCfg x) s = .next t ∧ t.own = s.own ∧ (t.body.part p).harvTab = some t0 ∧
            (∀ q, q ≠ p → t.body.part q = s.body.part q) ∧
            s.sameOutside t t0 589824 ∧ t.bytes t0 589824 = List.replicate 589824 0)))

/-- HOST_COPY of whole 64-byte units within the partition's data region is accepted as PENDING with no other effect; one that is not
aligned or too long is REFUSED_BOUNDS; one outside the region REFUSED_WORLD, with its record of KIND 2. Its completion,
once its DRAM admits the traffic and the module is not tripped: a copy to DRAM writes the bytes that the host memory held and no others;
one to the host drives the bytes of the partition's memory, counted as DRAM reads, up to the first unit that cannot be read, whose address
is the DETAIL of FAULT_ECC_UNCORR, and answers OK where there is none. Until then, and once the steward has stopped, it does not end
(R226, R227, R231, R390, R412, R420, R511, R512). -/
def Obligations.HostCopy : Prop :=
  (∀ (s : State) (x : Xnx) (p : Fin 8), s.takesOn x p = true → x.len = 24 → x.arg0 < 2 →
    let h := xArg x 0 8
    let d := xArg x 8 8
    let n := xArg x 16 8
    (s.own.inData p d n = false → exec (.hostCopy x) s = .next (s.answer s.own
      ((s.commanded 0x0009 x).logForeign s.own (.part p) (s.own.outside p d)) x stWorld 0 [])) ∧
    (s.own.inData p d n = true →
      ((h % 64 ≠ 0 ∨ d % 64 ≠ 0 ∨ n % 64 ≠ 0 ∨ 2 ^ 40 < n) →
        exec (.hostCopy x) s = .next (s.answer s.own (s.commanded 0x0009 x) x stBounds 0 [])) ∧
      (h % 64 = 0 → d % 64 = 0 → n % 64 = 0 → n ≤ 2 ^ 40 →
        exec (.hostCopy x) s = .next (s.promise s.own ((s.commandedWith 0x0009 x).updPart p fun y =>
          { y with copies := y.copies ++ [⟨xTicket x, x.arg0 == 1, h, d, n⟩] }) x)))) ∧
  (∀ (s : State) (p : Fin 8) (mb : Fin 4) (c : CopyJob) (d : List Byte),
    (s.body.part p).copies.find? (fun y => y.ticket.mb == mb) = some c → d.length = c.bytes →
    ((s.body.stewardUp = false ∨ s.body.flows s.own [(c.daddr, c.bytes)] = false) → exec (.hostCopyComplete p mb d) s = .next s) ∧
    (s.body.stewardUp = true → s.body.flows s.own [(c.daddr, c.bytes)] = true →
      let b := (s.body.correctedIn s.own [(c.daddr, c.bytes)]).updPart p fun y =>
        { y with copies := y.copies.filter fun z => z.ticket.mb != mb }
      (c.toHost = true → b.firstBad s.own [(c.daddr, c.bytes)] = none →
        exec (.hostCopyComplete p mb d) s = .next { s with body :=
          ((b.countReads s.own c.daddr c.bytes).emit (.hostWrite c.haddr (s.bytes c.daddr c.bytes))).respond s.own c.ticket stOk 0 [] }) ∧
      (∀ w, c.toHost = true → b.firstBad s.own [(c.daddr, c.bytes)] = some w →
        let n := w / 64 * 64 - c.daddr
        exec (.hostCopyComplete p mb d) s = .next { s with body :=
          (((b.countReads s.own c.daddr n).emit (.hostWrite c.haddr (s.bytes c.daddr n))).stewardBad s.own p w).respond s.own c.ticket ftEcc (w / 64 * 64) [] }) ∧
      (c.toHost = false → s.body.mem.bad (wordSize s.own.maps c.daddr) c.daddr c.bytes = false →
        ∃ t, exec (.hostCopyComplete p mb d) s = .next t ∧ t.own = s.own ∧ s.sameOutside t c.daddr c.bytes ∧
          t.bytes c.daddr c.bytes = d ∧ (∀ y ∈ (t.body.part p).copies, y.ticket.mb ≠ mb ∨ s.body.parts.length ≠ 8))))

/-! ### Partitions (R424 to R427, R443) -/

/-- PART_CREATE of a partition that passes the checks of R425 writes its two map descriptors, marks the record as being created,
zeroes the partition's regions and backup pair and answers PENDING; one that fails them is refused with the check's status, malformed or
out of range REFUSED_FORMAT or REFUSED_BOUNDS. PART_CREATE_COMPLETE makes the record present, rewrites the world
map from the records, and answers OK. Semaphores are untouched. A tripped module's DRAM is not zeroed, and the creation does not
end there, nor once the steward has stopped (R227, R420, R425, R443). -/
def Obligations.PartCreate : Prop :=
  (∀ (s : State) (x : Xnx) (p : Fin 8), s.takesModule x = true → x.len = 24 → x.arg0 = p.val →
    (pblockFormat x.args = true → exec (.partCreate x) s = .next (s.answer s.own (s.commanded 0x0501 x) x stFormat 0 [])) ∧
    (pblockFormat x.args = false → (pblockOf x.args).inBounds = false →
      exec (.partCreate x) s = .next (s.answer s.own (s.commanded 0x0501 x) x stBounds 0 [])) ∧
    (pblockFormat x.args = false → (pblockOf x.args).inBounds = true →
      (∀ st, createCheck s.own s.body p (pblockOf x.args) = some st →
        exec (.partCreate x) s = .next (s.answer s.own (s.commanded 0x0501 x) x st 0 [])) ∧
      (createCheck s.own s.body p (pblockOf x.args) = none → s.own.recs.length = 8 →
        ∃ t, exec (.partCreate x) s = .next t ∧ t.own.sems = s.own.sems ∧ t.own.worlds = s.own.worlds ∧
          t.own.maps = s.own.withMaps p (pblockOf x.args) ∧ t.own.prec p = ⟨.creating, pblockOf x.args⟩ ∧
          (∀ q, q ≠ p → t.own.prec q = s.own.prec q) ∧
          (s.body.parts.length = 8 → (t.body.part p).create = some (xTicket x)) ∧
          (s.body.board.tripped = false → ∀ a, (pblockOf x.args).dataRange.1 ≤ a →
            a < (pblockOf x.args).dataRange.1 + (pblockOf x.args).dataRange.2 → t.body.mem.byte a = 0) ∧
          (∀ a, 0xF2000010000 + p.val * 0x6000 ≤ a → a < 0xF2000010000 + p.val * 0x6000 + 0x6000 → t.body.mem.byte a = 0)))) ∧
  (∀ (s : State) (p : Fin 8) (k : Ticket), (s.body.part p).create = some k →
    ((s.body.board.tripped = true ∨ s.body.stewardUp = false) → exec (.partCreateComplete p) s = .next s) ∧
    (s.body.board.tripped = false → s.body.stewardUp = true → s.own.recs.length = 8 →
      ∃ t, exec (.partCreateComplete p) s = .next t ∧ t.own.sems = s.own.sems ∧ t.own.maps = s.own.maps ∧
        t.own.prec p = ⟨.present, (s.own.prec p).block⟩ ∧ (∀ q, q ≠ p → t.own.prec q = s.own.prec q) ∧
        t.own.worlds = t.own.buildWorlds ∧ t.body.mem = s.body.mem ∧
        t.body = (s.body.updPart p fun y => { y with create := none }).respond t.own k stOk 0 []))

/-- PART_MODIFY of a block that keeps its fixed fields and whose resources are free is accepted as PENDING: the record has its new block,
the world map is rewritten, every map descriptor and every other record is kept, the vats of cores that the block gains or loses read
as zeros, and SEM(p + 1) is released only when PORTS now excludes its holder (that the change is made at acceptance is the model's, log
entry 66). A changed fixed field is REFUSED_FORMAT; cores or granules under a loaded almanac, and media counts under a queued MJ, are
BUSY; an absent partition is REFUSED_BOUNDS. PART_MODIFY_COMPLETE answers the oldest one with OK (R426, R443). -/
def Obligations.PartModify : Prop :=
  (∀ (s : State) (x : Xnx) (p : Fin 8), s.takesModule x = true → x.len = 24 → x.arg0 = p.val → pblockFormat x.args = false →
    (pblockOf x.args).inBounds = true →
    let k := pblockOf x.args
    let e := (s.own.prec p).block
    let refuses (st : W16) : Prop := exec (.partModify x) s = .next (s.answer s.own (s.commanded 0x0504 x) x st 0 [])
    let almanac := (k.groups ≠ e.groups ∨ k.celFirst ≠ e.celFirst ∨ k.celCount ≠ e.celCount) ∧ (s.body.part p).hasAlmanac = true
    let media := k.media ≠ e.media ∧ (s.body.part p).mjs ≠ []
    ((s.own.prec p).phase = .deleting → refuses stBusy) ∧
    ((s.own.prec p).phase ≠ .deleting → s.own.present p = false → refuses stBounds) ∧
    (s.own.present p = true → (s.own.prec p).phase ≠ .deleting →
      (sameFixed k e = false → refuses stFormat) ∧
      (sameFixed k e = true → (almanac ∨ media) → refuses stBusy) ∧
      (sameFixed k e = true → ¬ (almanac ∨ media) → unitsFree s.own s.body p k = false → refuses stFit) ∧
      (sameFixed k e = true → ¬ (almanac ∨ media) → unitsFree s.own s.body p k = true →
        (k.secure = true → portsSecure s.body k = false → refuses stWorld) ∧
        ((k.secure = false ∨ portsSecure s.body k = true) → s.own.recs.length = 8 → s.own.sems.length = 32 → s.body.parts.length = 8 →
          ∃ t, exec (.partModify x) s = .next t ∧ t.own.maps = s.own.maps ∧ t.own.prec p = ⟨.present, k⟩ ∧
            (∀ q, q ≠ p → t.own.prec q = s.own.prec q) ∧ t.own.worlds = t.own.buildWorlds ∧
            (t.body.part p).modifies = (s.body.part p).modifies ++ [xTicket x] ∧
            (∀ c ∈ coresBut k e ++ coresBut e k, ∀ a, 0xF0000000000 + c.val * 0x4000000 ≤ a →
              a < 0xF0000000000 + (c.val + 1) * 0x4000000 → t.body.mem.byte a = 0) ∧
            t.own.sem (p.val + 1) = (if (s.own.sem (p.val + 1)).held = true ∧
              k.ports.toNat.testBit (portIx (s.own.sem (p.val + 1)).port) = false then ⟨false, .a, 0⟩
              else s.own.sem (p.val + 1)))))) ∧
  (∀ (s : State) (p : Fin 8) (k : Ticket) (rest : List Ticket), (s.body.part p).modifies = k :: rest →
    (s.body.stewardUp = false → exec (.partModifyComplete p) s = .next s) ∧
    (s.body.stewardUp = true → exec (.partModifyComplete p) s = .next
      { s with body := (s.body.updPart p fun y => { y with modifies := rest }).respond s.own k stOk 0 [] }))

/-- PART_RESET of a partition that exists empties its event queue, unloads its almanacs and zeroes its cellar run, keeping its DRAM and
ownership, and answers PENDING (a running XD of the partition first completes its group, R199: DRAM is kept where none runs); one that
comes during a reset of the partition joins it; of a partition that is being deleted it is BUSY, of an absent one REFUSED_BOUNDS.
PARTITION_RESET_COMPLETE answers every PART_RESET with OK (R179, R427, R436, R440). -/
def Obligations.PartReset : Prop :=
  (∀ (s : State) (x : Xnx) (p : Fin 8), s.takesModule x = true → x.len = 0 → x.arg0 = p.val →
    ((s.own.prec p).phase = .deleting → exec (.partReset x) s = .next (s.answer s.own (s.commanded 0x0503 x) x stBusy 0 [])) ∧
    ((s.own.prec p).phase ≠ .deleting → s.own.present p = false →
      exec (.partReset x) s = .next (s.answer s.own (s.commanded 0x0503 x) x stBounds 0 [])) ∧
    ((s.own.prec p).phase ≠ .deleting → s.own.present p = true →
      ((s.body.part p).resetting = true → exec (.partReset x) s = .next (s.promise s.own
        ((s.commandedWith 0x0503 x).updPart p fun y => { y with resets := y.resets ++ [xTicket x] }) x)) ∧
      ((s.body.part p).resetting = false → s.body.parts.length = 8 →
        ∃ t, exec (.partReset x) s = .next t ∧ t.own = s.own ∧ (t.body.part p).events = [] ∧ (∀ k, t.body.slot p k = Slot.empty) ∧
          (t.body.part p).resets = (s.body.part p).resets ++ [xTicket x] ∧ (t.body.part p).resetting = true ∧
          ((∀ k ∈ s.body.quads, ∀ j ∈ k.xfRun, j.ctx.part ≠ p) → ∀ a, a < 0xD800000000 → t.body.mem.byte a = s.body.mem.byte a) ∧
          (∀ a, (s.own.prec p).block.cellarRange.1 ≤ a →
            a < (s.own.prec p).block.cellarRange.1 + (s.own.prec p).block.cellarRange.2 → t.body.mem.byte a = 0)))) ∧
  (∀ (s : State) (p : Fin 8),
    (s.body.stewardUp = false → exec (.partitionResetComplete p) s = .next s) ∧
    (s.body.stewardUp = true → exec (.partitionResetComplete p) s = .next { s with body :=
      (s.body.updPart p fun y => { y with resets := [], resetting := false }).respondAll s.own (s.body.part p).resets stOk }))

/-- PART_DELETE of a partition that exists marks its record as being deleted, frees SEM(p + 1) and no other semaphore, keeps the map
and world descriptors and answers PENDING; of one already being deleted it is BUSY, of an absent one REFUSED_BOUNDS. PART_DELETE_COMPLETE
removes the record and its two map descriptors, rewrites the world map and answers OK, with DRM_MAP00 over all of DRAM again when no
partition is left; on a tripped module, and once the steward has stopped, the deletion does not end (R208, R227, R420, R427, R443). -/
def Obligations.PartDelete : Prop :=
  (∀ (s : State) (x : Xnx) (p : Fin 8), s.takesModule x = true → x.len = 0 → x.arg0 = p.val →
    ((s.own.prec p).phase = .deleting → exec (.partDelete x) s = .next (s.answer s.own (s.commanded 0x0502 x) x stBusy 0 [])) ∧
    ((s.own.prec p).phase ≠ .deleting → s.own.present p = false →
      exec (.partDelete x) s = .next (s.answer s.own (s.commanded 0x0502 x) x stBounds 0 [])) ∧
    ((s.own.prec p).phase ≠ .deleting → s.own.present p = true → s.own.recs.length = 8 → s.own.sems.length = 32 →
      ∃ t, exec (.partDelete x) s = .next t ∧ t.own.maps = s.own.maps ∧ t.own.worlds = s.own.worlds ∧
        t.own.prec p = ⟨.deleting, (s.own.prec p).block⟩ ∧ (∀ q, q ≠ p → t.own.prec q = s.own.prec q) ∧
        (s.body.parts.length = 8 → (t.body.part p).delete = some (xTicket x)) ∧
        (t.own.sem (p.val + 1)).held = false ∧ (∀ n : Fin 32, n.val ≠ p.val + 1 → t.own.sem n.val = s.own.sem n.val))) ∧
  (∀ (s : State) (p : Fin 8) (k : Ticket), (s.body.part p).delete = some k → (s.own.prec p).phase = .deleting →
    ((s.body.board.tripped = true ∨ s.body.stewardUp = false) → exec (.partDeleteComplete p) s = .next s) ∧
    (s.body.board.tripped = false → s.body.stewardUp = true → s.own.recs.length = 8 → s.own.maps.length = 16 →
      ∃ t, exec (.partDeleteComplete p) s = .next t ∧ t.own.sems = s.own.sems ∧ t.own.prec p = PartRec.none ∧
        (∀ q, q ≠ p → t.own.prec q = s.own.prec q) ∧ t.own.worlds = t.own.buildWorlds ∧
        t.own.maps[2 * p.val + 1]? = some MapDesc.off ∧
        (t.own.noPartition = true → t.own.maps[0]? = some MapDesc.default) ∧
        t.body = (s.body.updPart p fun _ => Part.reset).respond t.own k stOk 0 []))

/-! ### Stack tests and row repair (R229, R230, R418) -/

/-- While no partition exists: PPR_QUERY returns the spare rows left of all 768 bank groups, PPR_CAND the listed rows, STK_TEST is
accepted as PENDING and the end of the stack's oldest test is answered with pass, failures and first location; a repair of a row whose
bank group has a spare uses one, changes no byte outside the row's 1 KiB, whose contents are free, and PPR_HARD appends to the fault log
and the flash log; with no spare left, and for a location that does not exist, it is REFUSED_BOUNDS, as is a pattern above 15. While a partition exists each
command is BUSY (R229, R230, R418). -/
def Obligations.StackRepair : Prop :=
  (∀ (s : State) (x : Xnx) (st : Fin 24), s.takesModule x = true → x.arg0 = st.val →
    (s.own.noPartition = false →
      (x.len = 0 → exec (.pprQuery x) s = .next (s.answer s.own (s.commanded 0x0602 x) x stBusy 0 []) ∧
        exec (.pprCand x) s = .next (s.answer s.own (s.commanded 0x0603 x) x stBusy 0 [])) ∧
      (x.len = 1 → xArg x 0 1 ≤ 15 → exec (.stkTest x) s = .next (s.answer s.own (s.commanded 0x0601 x) x stBusy 0 [])) ∧
      (x.len = 4 → locOk (xArg x 0 4) = true → exec (.pprSoft x) s = .next (s.answer s.own (s.commanded 0x0604 x) x stBusy 0 []) ∧
        exec (.pprHard x) s = .next (s.answer s.own (s.commanded 0x0605 x) x stBusy 0 []))) ∧
    (x.len = 1 → 15 < xArg x 0 1 → exec (.stkTest x) s = .next (s.answer s.own (s.commanded 0x0601 x) x stBounds 0 [])) ∧
    (s.own.noPartition = true →
      (x.len = 0 → exec (.pprQuery x) s = .next (s.answer s.own (s.commandedWith 0x0602 x) x stOk 0
        ((List.range 768).map fun g => BitVec.ofNat 8 ((s.body.stack st).sparesLeft g)))) ∧
      (x.len = 0 → exec (.pprCand x) s = .next (s.answer s.own (s.commandedWith 0x0603 x) x stOk 0
        (leBytes 4 (s.body.stack st).cands.length ++ (s.body.stack st).cands.flatMap fun r => leBytes 4 r.toNat))) ∧
      (x.len = 1 → xArg x 0 1 ≤ 15 → exec (.stkTest x) s = .next (s.promise s.own
        ((s.commandedWith 0x0601 x).updStack st fun y => { y with tests := y.tests ++ [xTicket x] }) x)) ∧
      (x.len = 4 → (locOk (xArg x 0 4) = false ∨ (s.body.stack st).sparesLeft (locGroup (xArg x 0 4)) = 0) →
        exec (.pprSoft x) s = .next (s.answer s.own (s.commanded 0x0604 x) x stBounds 0 []) ∧
        exec (.pprHard x) s = .next (s.answer s.own (s.commanded 0x0605 x) x stBounds 0 [])) ∧
      (x.len = 4 → locOk (xArg x 0 4) = true → (s.body.stack st).sparesLeft (locGroup (xArg x 0 4)) ≠ 0 → s.body.stks.length = 24 →
        (∃ t, exec (.pprSoft x) s = .next t ∧ t.own = s.own ∧ t.body.board = s.body.board ∧
          s.sameOutside t (rowAddr st.val (xArg x 0 4)) 1024 ∧
          (t.body.stack st).sparesLeft (locGroup (xArg x 0 4)) + 1 = (s.body.stack st).sparesLeft (locGroup (xArg x 0 4)) ∧
          (t.body.stack st).softRows = (s.body.stack st).softRows ++ [BitVec.ofNat 30 (xArg x 0 4)]) ∧
        (∃ t, exec (.pprHard x) s = .next t ∧ t.own = s.own ∧ s.sameOutside t (rowAddr st.val (xArg x 0 4)) 1024 ∧
          (t.body.stack st).sparesLeft (locGroup (xArg x 0 4)) + 1 = (s.body.stack st).sparesLeft (locGroup (xArg x 0 4)) ∧
          (t.body.stack st).hardRows = (s.body.stack st).hardRows ++ [BitVec.ofNat 30 (xArg x 0 4)] ∧
          t.body.board.faultLog = s.body.board.faultLog ++ [(st, BitVec.ofNat 32 (xArg x 0 4))] ∧
          t.body.board.flash.log = s.body.board.flash.log ++ [(st, BitVec.ofNat 32 (xArg x 0 4))])))) ∧
  (∀ (s : State) (st : Fin 24) (k : Ticket) (rest : List Ticket) (pass : Bool) (fails loc : W32), (s.body.stack st).tests = k :: rest →
    (s.body.stewardUp = false → exec (.stkTestComplete st pass fails loc) s = .next s) ∧
    (s.body.stewardUp = true → exec (.stkTestComplete st pass fails loc) s = .next { s with
      body := (s.body.updStack st fun y => { y with tests := rest }).respond s.own k stOk 0
        ([if pass then 1 else 0, 0, 0, 0] ++ leBytes 4 fails.toNat ++ leBytes 4 loc.toNat) }))

/-! ### Side-band bus and boundary scan (R498 to R502) -/

/-- The side-band bus.

While the steward runs, each block read answers, at the address that the straps give, with the block that its command names and
changes nothing: status (STAT code, STATE, variant, alert causes, hottest stack, junction, GPIO, HEARTBEAT, SRC, BOOTERR), PWR_IN,
PWR_SAG, the 24 stack temperatures, identity, firmware version, and the last XNX response; before the steward runs the transaction is
NAKed, and without power nothing answers (R453, R498 to R500).

A side-band XNX command is NAKed before the steward runs, while one is outstanding, when its PEC does not match, or when its length is
not that of a command; otherwise it is outstanding, with the response PENDING, behind the commands that came before it, until a step on an
empty queue at which it is the oldest takes it (the model's choice, log entries 8 and 124): NOP is then answered OK, and any command but
NOP and FW_STATUS with REFUSED_WORLD (R402, R500). -/
def Obligations.SideBand : Prop :=
  (∀ s : State,
     let rows : List (Instr × List Byte) := [
       (.smbStatusRead, [s.body.statCode, s.body.devState, s.body.board.var.toNat, s.body.alertCauses,
         (s.body.stks.map fun x => x.temp.toNat).foldl max 0, s.body.board.junction, s.body.board.gpio.toNat, 0].map (BitVec.ofNat 8) ++
         leBytes 4 s.body.board.heartbeat.toNat ++ [BitVec.ofNat 8 s.body.board.cause.src.toNat, s.body.board.cause.bootErr, 0, 0]),
       (.smbPwrInRead, leBytes 8 s.body.board.pwrIn.reg.toNat), (.smbPwrSagRead, leBytes 8 s.body.board.sag.reg.toNat),
       (.smbStackTempRead, s.body.stks.map fun x => x.temp),
       (.smbIdentityRead, [0x7B, 0x1C, 0x24, 0x48, s.body.board.stepping, 0, 0, 0] ++ leBytes 8 s.body.board.serial.toNat),
       (.smbFwVerRead, leBytes 8 s.body.fwVer.toNat), (.smbXnxResponseRead, s.body.board.smbResp)]
     (s.body.stewardRuns = true → ∀ r ∈ rows, exec r.1 s = .next (s.emits (.smb (0x58 + s.body.board.sbAddr.toNat) r.2))) ∧
     (s.body.board.phase ≠ .off → s.body.stewardRuns = false → ∀ r ∈ rows, exec r.1 s = .next (s.emits .smbNak)) ∧
     (s.body.board.phase = .off → ∀ r ∈ rows, exec r.1 s = .next s)) ∧
  (∀ (s : State) (d : List Byte) (pec : Option Bool),
     (s.body.board.phase = .off → exec (.smbXnxCommandWrite d pec) s = .next s) ∧
     (s.body.board.phase ≠ .off → s.body.stewardRuns = false → exec (.smbXnxCommandWrite d pec) s = .next (s.emits .smbNak)) ∧
     (s.body.stewardRuns = true →
       (s.body.board.smbCmd.isSome = true ∨ pec = some false ∨ d.length < 16 ∨ 240 < d.length →
         exec (.smbXnxCommandWrite d pec) s = .next (s.emits .smbNak)) ∧
       (s.body.board.smbCmd = none → pec ≠ some false → 16 ≤ d.length → d.length ≤ 240 →
         exec (.smbXnxCommandWrite d pec) s = .next { s with body :=
           { s.body with
             board := { s.body.board with smbCmd := some d, smbResp := respBytes stPending (BitVec.ofNat 16 (field d 2 2)) 0 [] }
             gos := s.body.gos ++ [.sideBand] } }) ∧
       (∀ rest, s.pending = [] → s.body.board.smbCmd = some d → s.body.gos = .sideBand :: rest →
         (field d 0 2 ≠ 0x0001 ∧ field d 0 2 ≠ 0x0702 → ∃ t, step s = .next t ∧ t.body.board.smbCmd = none ∧
           t.body.board.smbResp = respBytes stWorld (BitVec.ofNat 16 (field d 2 2)) 0 []) ∧
         (d.length = 16 → field d 0 2 = 0x0001 → field d 4 4 = 0 → field d 8 4 < 2 → field d 0xC 4 = 0 →
           ∃ t, step s = .next t ∧ t.body.board.smbCmd = none ∧
             t.body.board.smbResp = respBytes stOk (BitVec.ofNat 16 (field d 2 2)) 0 []))))

/-- The test access port.

Instructions that hold the module in reset: wherever VIO is good, from one that does not, each asks for a warm reset with SRC 1 and
holds it; from one that does, only the instruction changes. Without VIO nothing does (R501, R502).

From an instruction that does not hold reset, Test-Logic-Reset and IDCODE select IDCODE, BYPASS and SAMPLE/PRELOAD their own
registers; they disturb nothing else, and IDCODE shifts out the identification code with the stepping in bits 31 to 28. Without VIO none
has an effect (R501, R502).

When the TAP leaves an instruction that holds reset, by whichever row, the hold ends: with no other hold and the reference present
a module held in reset goes on to its boot, the semaphores cleared; with another hold, or in another phase, only the instruction
changes (R502; that IDCODE is current after TAP_LEAVE_EXTEST is the model's choice, log entry 42). -/
def Obligations.TapAndReset : Prop :=
  (∀ s : State,
     let rows : List (Instr × TapInstr) := [(.extest, .extest), (.clamp, .clamp), (.highz, .highz), (.extestPulse, .extestPulse),
       (.extestTrain, .extestTrain)]
     (s.body.board.vioGood = false → ∀ r ∈ rows, exec r.1 s = .next s) ∧
     (s.body.board.vioGood = true → ∀ r ∈ rows,
       (tapHolds s.body.board.tap = true → exec r.1 s = .next (s.onBoard fun b => { b with tap := r.2 })) ∧
       (tapHolds s.body.board.tap = false → (s.body.board.warmReq = none ∨ s.body.board.warmReq = some .memory) →
         exec r.1 s = .next (s.onBoard fun b => { b with tap := r.2, warmReq := some .resetN })) ∧
       (tapHolds s.body.board.tap = false → s.body.board.warmReq = some .resetN →
         exec r.1 s = .next (s.onBoard fun b => { b with tap := r.2 })))) ∧
  (∀ (s : State) (cells : List Bool),
     (s.body.board.vioGood = false → exec .tapReset s = .next s ∧ exec .bypass s = .next s ∧ exec .idcode s = .next s ∧
       exec (.samplePreload cells) s = .next s ∧ exec .tapLeaveExtest s = .next s) ∧
     (s.body.board.vioGood = true → tapHolds s.body.board.tap = false →
       exec .tapReset s = .next (s.onBoard fun b => { b with tap := .idcode }) ∧
       exec .bypass s = .next (s.onBoard fun b => { b with tap := .bypass }) ∧
       exec .idcode s = .next ((s.onBoard fun b => { b with tap := .idcode }).emits
         (.tdo (BitVec.ofNat 32 (s.body.board.stepping.toNat % 16 * 2 ^ 28 + 0x04824F8F)))) ∧
       exec (.samplePreload cells) s = .next (s.onBoard fun b => { b with tap := .samplePreload, cells := cells }) ∧
       exec .tapLeaveExtest s = .next s)) ∧
  (∀ (s : State) (cells : List Bool), s.body.board.vioGood = true → tapHolds s.body.board.tap = true →
     let rows : List (Instr × TapInstr) := [(.tapLeaveExtest, .idcode), (.tapReset, .idcode), (.bypass, .bypass), (.idcode, .idcode),
       (.samplePreload cells, .samplePreload)]
     (s.body.board.phase = .resetHeld → s.body.board.resetNHeld = false → s.body.board.sagHeld = false → s.body.board.modRef = true →
       ∀ r ∈ rows, ∃ t, exec r.1 s = .next t ∧ t.body.board.tap = r.2 ∧
         (t.body.board.phase = .bootRom ∨ t.body.board.phase = .bootError) ∧
         (∀ n : Fin 32, (t.own.sem n.val).held = false)) ∧
     ((s.body.board.resetNHeld = true ∨ s.body.board.sagHeld = true ∨ s.body.board.modRef = false ∨
         s.body.board.phase ∉ [.resetHeld, .powerOn]) →
       exec .tapLeaveExtest s = .next (s.onBoard fun b => { b with tap := .idcode }) ∧
       exec .tapReset s = .next (s.onBoard fun b => { b with tap := .idcode }) ∧
       exec .bypass s = .next (s.onBoard fun b => { b with tap := .bypass }) ∧
       exec (.samplePreload cells) s = .next (s.onBoard fun b => { b with tap := .samplePreload, cells := cells })))

/-- Pins as R453, R454, R459, R503 and R504 give them. In service ALERT_N is low exactly while the control island runs and the module is
tripped, the steward held, a boot error stands or a stack is at the 95 °C step; SAG_WARN_N exactly while it runs and a rail is below TH1;
STAT reads 7 exactly while the module is unpowered, without its clock or held in reset; without VIO every lane and general-purpose pin
is high impedance; without the clock ports idle and fabric transmitters are squelched; flits leave, and payload is accepted, on a link
that is up alone; general-purpose pins stand at their weak pulls until firmware configures them; the side-band bus is not acknowledged
before the steward runs. A test instruction overrides them in every phase wherever VIO is good, HIGHZ with no pin driven. -/
def Obligations.PinStates : Prop :=
  ∀ s : State,
    ((s.body.board.vioGood = false ∨ tapHolds s.body.board.tap = false) →
      (s.body.pins.alertN = false ↔ s.body.board.padsSet = true ∧ (s.body.board.tripped = true ∨ s.body.board.phase = .held ∨
        s.body.board.cause.bootErr ≠ 0 ∨ ∃ x ∈ s.body.stks, x.limit ≠ 0)) ∧
      (s.body.pins.sagWarnN = false ↔ s.body.board.padsSet = true ∧ s.body.board.sag.below1 ≠ 0) ∧
      (s.body.pins.stat = 7 ↔ s.body.board.modRef = false ∨ s.body.board.phase = .off ∨ s.body.board.phase = .powerOn ∨
        s.body.board.phase = .resetHeld) ∧
      (s.body.board.vioGood = false → s.body.pins.ports = [.highZ, .highZ] ∧ (∀ l ∈ s.body.pins.tx, l = .highZ) ∧
        (∀ l ∈ s.body.pins.rx, l = .highZ) ∧ s.body.pins.gpio = .highZ) ∧
      (s.body.board.modRef = false → s.body.board.vioGood = true → s.body.pins.ports = [.electricalIdle, .electricalIdle] ∧
        (∀ l ∈ s.body.pins.tx, l = .squelched) ∧ (∀ l ∈ s.body.pins.rx, l = .nothing) ∧ s.body.pins.gpio = .pulledInputs) ∧
      (s.body.pins.gpio = .configuredInputs ↔
        s.body.board.vioGood = true ∧ s.body.board.modRef = true ∧ s.body.board.phase ∈ [.firmware, .ready, .held]) ∧
      (s.body.pins.smbNaks = true ↔ s.body.stewardRuns = false) ∧ s.body.pins.scanned = false) ∧
    (∀ l, (s.body.fabricTx l = .flits ∨ s.body.fabricRx l = .payload) → l.state = .up) ∧
    (s.body.board.vioGood = true → tapHolds s.body.board.tap = true → s.body.pins.scanned = true ∧
      (s.body.board.tap = .highz → s.body.pins.alertN = true ∧ s.body.pins.sagWarnN = true ∧ s.body.pins.ports = [.highZ, .highZ] ∧
        ∀ l ∈ s.body.pins.tx, l = .highZ))

/-! ### Rails, resets, sags, references (R455 to R464, R493 to R497) -/

/-- Rails and resets.

The rails: a module that is off, and has not given up, starts them; each rises only when the one before it in the order of R493 is
good (one at each tick: log entry 126); one that is not good in time shuts the module down and counts, the fourth failed start for good;
the retry starts them again; every shutdown loses ownership, DRAM and everything but flash and the rows that PPR_HARD replaced (R229,
R461, R493, R494). In any other state each of these leaves the module as it is.

POWER_ON_RESET with the reference running and nothing holding reset: ownership as at reset, all memory zero, COLD set, WARM 0, the
boot read of the cave done, and the boot ROM running; with a signed record that fails, its BOOTERR instead. Without the reference, or
while something holds reset, it waits with every rail good; with no rails rising it changes nothing (R177, R224, R451, R455, R457, R468,
R475).

RESET_N low asks for a warm reset with SRC 1 and holds it, in every state; its return ends its hold, and nothing else where the module
is not held in reset. WARM_RESET without a request, or while the module trips or is not clocked, changes nothing; one that takes effect
clears the semaphores, keeps partition records that are present, DRAM, the cave and the backup registers with the errors in them and those
that have come (free values, log entry 111), clears the vats, the cellar and the presses, counts in WARM, clears COLD and shows its source,
and waits while something holds reset; else the boot ROM runs at once (R179, R223, R396, R455 to R457). -/
def Obligations.PowerAndResets : Prop :=
  (∀ s : State,
     (s.body.board.phase = .off → s.body.board.gaveUp = false → ∃ t, exec .railSequenceStart s = .next t ∧ t.own = s.own ∧
       t.body.board.phase = .powerOn ∧ t.body.board.pwrEn = true ∧ t.body.board.rails = [.vin] ∧
       t.body.board.flash = s.body.board.flash ∧ t.body.mem.cells = []) ∧
     ((s.body.board.phase ≠ .off ∨ s.body.board.gaveUp = true) → exec .railSequenceStart s = .next s) ∧
     (∀ n, s.pending = [] → s.body.board.phase = .powerOn → n < 7 → s.body.board.rails = railOrder.take n →
       step s = .next (s.onBoard fun b => { b with rails := railOrder.take (n + 1) })) ∧
     (∀ r, s.body.board.phase = .powerOn → r ∉ s.body.board.rails → ∃ t, exec (.railStartTimeout r) s = .next t ∧ t.own = s.own ∧
       t.body.board.phase = .off ∧ t.body.board.railTries = s.body.board.railTries + 1 ∧
       t.body.board.gaveUp = decide (3 ≤ s.body.board.railTries) ∧ t.body.board.flash = s.body.board.flash) ∧
     (∀ r, (s.body.board.phase ≠ .powerOn ∨ r ∈ s.body.board.rails) → exec (.railStartTimeout r) s = .next s) ∧
     (s.body.board.phase = .off → 0 < s.body.board.railTries → s.body.board.gaveUp = false → s.body.board.pwrEn = true →
       ∃ t, exec .shutdownRetry s = .next t ∧ t.body.board.phase = .powerOn ∧ t.body.board.rails = [.vin] ∧
         t.body.board.railTries = s.body.board.railTries) ∧
     ((s.body.board.phase ≠ .off ∨ s.body.board.railTries = 0 ∨ s.body.board.gaveUp = true ∨ s.body.board.pwrEn = false) →
       exec .shutdownRetry s = .next s) ∧
     (∀ c, ∃ t, exec (.moduleShutdown c) s = .next t ∧ t.own = Own.reset ∧ t.body.board.phase = .off ∧ t.body.board.rails = [] ∧
       t.body.mem.cells = [] ∧ t.body.board.flash = s.body.board.flash ∧ t.body.board.heartbeat = 0 ∧
       t.body.bkp = List.replicate 32 0 ∧
       (∀ st, (t.body.stack st).hardRows = (s.body.stack st).hardRows ∧ (t.body.stack st).softRows = []) ∧
       (c = .pwrEnLow → t.body.board.pwrEn = false))) ∧
  (∀ s : State,
     (s.body.board.phase ≠ .powerOn → exec .powerOnReset s = .next s) ∧
     (s.body.board.phase = .powerOn → (s.body.board.modRef = false ∨ s.body.board.holdsReset = true) →
       exec .powerOnReset s = .next (s.onBoard fun b => { b with rails := railOrder, porWaits := true })) ∧
     (s.body.board.phase = .powerOn → s.body.board.modRef = true → s.body.board.holdsReset = false →
       ∃ t, exec .powerOnReset s = .next t ∧ t.own.sems = Own.reset.sems ∧ t.own.recs = Own.reset.recs ∧ t.own.maps = Own.reset.maps ∧
         t.body.mem.cells = [] ∧ t.body.mem.poison = [] ∧ t.body.board.cave.cold = true ∧ t.body.board.cave.warm = 0 ∧
         t.body.board.cave.scrubbed = true ∧ t.body.board.cause.src = 0 ∧
         t.body.board.cause.bootErr = s.body.board.flash.bootErr ∧
         (s.body.board.flash.bootErr = 0 → t.body.board.phase = .bootRom ∧ t.body.board.ceil = s.body.board.flash.variant.ceil ∧
           t.body.board.tdp = s.body.board.flash.variant.tdp) ∧
         (s.body.board.flash.bootErr ≠ 0 → t.body.board.phase = .bootError))) ∧
  ((∀ s : State,
     (s.body.board.warmReq = none →
       exec (.resetNLow true) s = .next (s.onBoard fun b => { b with resetNHeld := true, warmReq := some .resetN })) ∧
     (s.body.board.phase ∉ [.resetHeld, .powerOn] →
       exec (.resetNLow false) s = .next (s.onBoard fun b => { b with resetNHeld := false })) ∧
     ((s.body.clocked = false ∨ s.body.board.warmReq = none ∨ ∃ src, s.body.board.warmReq = some src ∧ warmMay s.body src = false) →
       exec .warmReset s = .next s)) ∧
   (∀ (s : State) (src : ResetSrc), s.body.board.warmReq = some src → warmMay s.body src = true →
     (s.body.board.holdsReset = true →
       ∃ t, exec .warmReset s = .next t ∧ t.body.board.phase = .resetHeld ∧ (∀ n : Fin 32, (t.own.sem n.val).held = false) ∧
         t.own.recs = s.own.recs ∧ t.own.maps = s.own.maps ∧ t.own.worlds = s.own.worlds ∧
         (∀ a, a < 0xD800000000 → t.body.mem.byte a = s.body.mem.byte a) ∧
         (∀ a, 0xF2000000000 ≤ a → a < 0xF2000040000 → t.body.mem.byte a = s.body.mem.byte a) ∧
         (∀ a, 0xF0000000000 ≤ a → a < 0xF2000000000 → t.body.mem.byte a = 0) ∧
         t.body.bkp = s.body.bkp ∧ t.body.bkpBad = s.body.bkpBad ||| Config.bkpUpset s.body.free ∧
         t.body.board.cave.warm = satAdd s.body.board.cave.warm 1 ∧ t.body.board.cave.cold = false ∧
         t.body.board.cause.src = BitVec.ofNat 3 (srcNum src) ∧ t.body.board.heartbeat = 0 ∧ t.body.board.warmReq = none) ∧
     (s.body.board.holdsReset = false →
       ∃ t, exec .warmReset s = .next t ∧ (t.body.board.phase = .bootRom ∨ t.body.board.phase = .bootError) ∧
         (∀ n : Fin 32, (t.own.sem n.val).held = false) ∧
         (∀ a, a < 0xD800000000 → t.body.mem.byte a = s.body.mem.byte a) ∧
         t.body.board.cave.warm = satAdd s.body.board.cave.warm 1 ∧ t.body.board.cave.cold = false ∧
         t.body.board.cause.src = BitVec.ofNat 3 (srcNum src) ∧ t.body.board.warmReq = none)))

/-- While the steward runs, HEARTBEAT counts one; an expiry of the armed watchdog that is not the third within 10 minutes, or that comes
while an image is on trial, adds 1 to WDOG, up to 15, and asks for a warm reset with SRC 2; any other third holds the steward. While it
does not run, and for an expiry of a watchdog that is not armed, nothing changes (R394, R462 to R464). -/
def Obligations.HeartbeatAndWatchdog : Prop :=
  ∀ s : State,
    (s.body.stewardRuns = false → exec .heartbeat s = .next s ∧ exec .watchdogExpiry s = .next s) ∧
    (s.body.board.wdogArmed = false → exec .watchdogExpiry s = .next s) ∧
    (s.body.stewardRuns = true →
      exec .heartbeat s = .next (s.onBoard fun b => { b with heartbeat := b.heartbeat + 1 }) ∧
      (s.body.board.wdogArmed = true → (s.body.board.thirdExpiry = false ∨ s.body.board.cause.trial = true) →
        s.body.board.warmReq = none →
        ∃ t, exec .watchdogExpiry s = .next t ∧ t.own = s.own ∧ t.body.board.warmReq = some .watchdog ∧
          t.body.board.cause.wdog.toNat = min 15 (s.body.board.cause.wdog.toNat + 1) ∧ t.body.board.wdogArmed = false ∧
          t.body.board.phase = s.body.board.phase ∧ t.body.mem = s.body.mem ∧ t.body.parts = s.body.parts) ∧
      (s.body.board.wdogArmed = true → s.body.board.thirdExpiry = true → s.body.board.cause.trial = false →
        ∃ t, exec .watchdogExpiry s = .next t ∧ t.own = s.own ∧ t.body.board.phase = .held ∧ t.body.devState = 3))

/-- What happens to the module whether its islands are clocked or not: supplies, references, pins, the side-band bus's NAK and the
boundary scan (R451, R453, R501). -/
def needsNoClock : Instr → Bool
  | .portReset .. | .tapReset | .bypass | .idcode | .samplePreload .. | .extest | .clamp | .highz | .extestPulse | .extestTrain
  | .tapLeaveExtest | .smbStatusRead | .smbPwrInRead | .smbPwrSagRead | .smbStackTempRead | .smbIdentityRead | .smbFwVerRead
  | .smbXnxCommandWrite .. | .smbXnxResponseRead | .railSequenceStart | .railStartTimeout .. | .shutdownRetry | .moduleShutdown ..
  | .powerOnReset | .resetNLow .. | .supplySagReset .. | .sagResetRelease | .referenceClockLoss .. | .referenceClockReturn .. => true
  | _ => false

/-- Supplies and reference clocks.

A rail below TH1 sets its bit of BELOW1 and counts one warning, once until its bit is cleared; above TH1 + 1 % its bit is cleared; a
rail below TH2 records the rails and asks for a warm reset with SRC 3, held until the sag is over; its end without a module in reset
changes nothing more (R459, R460). Of a module without power nothing of this changes anything.

A missing reference stops what runs on it and nothing else: the module's stops its islands, so that every command that needs a clock
then leaves the state as it is; the fabric's puts every link off and squelched; a port's takes that port's link down. Its return is taken
up without a reset: the fabric's lets the links that the steward has released train, and with the module's a reset that was asked for
meanwhile takes effect at once (R451, R497). -/
def Obligations.SuppliesAndReferences : Prop :=
  (∀ (s : State),
     (s.body.board.phase = .off → (∀ r, exec (.sagWarning r) s = .next s ∧ exec (.sagWarningRelease r) s = .next s) ∧
       ∀ rails, exec (.supplySagReset rails) s = .next s) ∧
     (∀ r, s.body.clocked = true → s.body.board.sag.below1.toNat.testBit (railIx r) = true → exec (.sagWarning r) s = .next s) ∧
     (∀ r, s.body.clocked = true → s.body.board.sag.below1.toNat.testBit (railIx r) = false →
       ∃ t, exec (.sagWarning r) s = .next t ∧ t.own = s.own ∧
         t.body.board.sag.below1 = s.body.board.sag.below1 ||| BitVec.ofNat 4 (2 ^ railIx r) ∧
         t.body.board.sag.warn = s.body.board.sag.warn.modify (railIx r) (fun n => satAdd n 1) ∧ t.body.mem = s.body.mem ∧
         t.body.parts = s.body.parts) ∧
     (∀ r, s.body.clocked = true → ∃ t, exec (.sagWarningRelease r) s = .next t ∧ t.own = s.own ∧
       t.body.board.sag.below1 = s.body.board.sag.below1 &&& ~~~(BitVec.ofNat 4 (2 ^ railIx r)) ∧
       t.body.board.sag.warn = s.body.board.sag.warn ∧ t.body.mem = s.body.mem) ∧
     (∀ rails, s.body.board.phase ≠ .off → s.body.board.warmReq = none → exec (.supplySagReset rails) s = .next (s.onBoard fun b =>
       { b with cause := { b.cause with sagRails := rails }, sagHeld := true, warmReq := some .sag })) ∧
     (s.body.board.phase ∉ [.resetHeld, .powerOn] → exec .sagResetRelease s = .next (s.onBoard fun b => { b with sagHeld := false }))) ∧
  (∀ s : State,
     (s.body.clocked = false → ∀ c, needsNoClock c = false → exec c s = .next s) ∧
     exec (.referenceClockLoss .module) s = .next (s.onBoard fun b => { b with modRef := false }) ∧
     (∃ t, exec (.referenceClockLoss .fabric) s = .next t ∧ t.own = s.own ∧ t.body.board.fabRef = false ∧
       (∀ l ∈ t.body.fab.links, l.state = .off) ∧ t.body.fab.time = s.body.fab.time ∧ t.body.mem = s.body.mem ∧
       t.body.parts = s.body.parts) ∧
     (∀ q, ∃ t, exec (.referenceClockLoss (.port q)) s = .next t ∧ t.own = s.own ∧ (t.body.port q).linkUp = false ∧
       (∀ r, r ≠ q → t.body.port r = s.body.port r) ∧ t.body.mem = s.body.mem) ∧
     (s.body.board.warmReq = none → s.body.board.phase ∉ [.resetHeld, .powerOn] →
       exec (.referenceClockReturn .module) s = .next (s.onBoard fun b => { b with modRef := true })) ∧
     (s.body.board.warmReq ≠ none → s.body.board.phase ≠ .off →
       exec (.referenceClockReturn .module) s = exec .warmReset (s.onBoard fun b => { b with modRef := true })) ∧
     (∃ t, exec (.referenceClockReturn .fabric) s = .next t ∧ t.own = s.own ∧ t.body.board.fabRef = true ∧ t.body.mem = s.body.mem ∧
       t.body.fab.links = (if s.body.board.phase = .firmware ∨ s.body.board.phase = .ready then
         s.body.fab.links.map fun l => if l.state = .off ∧ l.disabled = false then { l with state := .training } else l
         else s.body.fab.links)) ∧
     (∀ q, exec (.referenceClockReturn (.port q)) s =
       .next (s.onBoard fun b => { b with portRef := b.portRef.set (portIx q) true })))

/-! ### From the boot ROM to READY (R206, R224, R454, R468 to R472, R484) -/

/-- The stages of the boot.

FIRMWARE_START runs the selected image if it may start, else the other, arms the watchdog, shows the image and releases the fabric
transmitters; with no image that may start the boot stops with BOOTERR 4; outside the boot ROM nothing changes (R446, R454, R462, R468,
R476): shown while no image is on trial.

DRAM training, which may end in the boot ROM or under the firmware, sets one pin rate for all stacks, saves it, and zeroes DRAM and
nothing else: 12.5 Gb/s only when the variant record qualifies all stacks and training passes on all 24, else 8.0 Gb/s when that passes
on all, else BOOTERR 5 under the firmware. It happens once in a boot (R206, R224, R468, R470).

The known-answer runs, once DRAM is trained, add failing cores to CORE_OUT and withdraw failing media units; a failing quadrant engine
stops the boot with BOOTERR 6. MODULE_READY, with the boot's steps done, makes the module READY and clears the trial state; while a step
is missing neither changes anything (R454, R468, R472, R484). -/
def Obligations.BootStages : Prop :=
  (∀ s : State,
     (s.body.board.phase ≠ .bootRom → exec .firmwareStart s = .next s) ∧
     (s.body.board.phase = .bootRom → s.body.board.modRef = true → s.body.board.flash.trial = false →
       (∀ i, s.body.board.starts i = true → (i = s.body.board.flash.select ∨ s.body.board.starts s.body.board.flash.select = false) →
         ∃ t, exec .firmwareStart s = .next t ∧ t.own = s.own ∧
           t.body.board.phase = .firmware ∧ t.body.board.wdogArmed = true ∧ t.body.board.cause.image = i ∧
           t.body.mem = s.body.mem ∧ t.body.parts = s.body.parts) ∧
       (s.body.board.starts false = false → s.body.board.starts true = false →
         exec .firmwareStart s = .next (s.onBoard fun b => { b with phase := .bootError, cause := { b.cause with bootErr := 4 } })))) ∧
  (∀ (s : State) (fast slow : TrainTry),
     let quick := fast.passes = 0xFFFFFF ∧ s.body.board.flash.variant.qual = 0xFFFFFF
     ((s.body.board.phase ∉ [.bootRom, .firmware] ∨ s.body.board.rate ≠ 0 ∨ s.body.board.cause.bootErr ≠ 0) →
       exec (.dramTrainingComplete fast slow) s = .next s) ∧
     (s.body.board.phase ∈ [.bootRom, .firmware] → s.body.board.modRef = true → s.body.board.rate = 0 →
       s.body.board.cause.bootErr = 0 →
       (slow.passes = 0xFFFFFF ∨ quick → ∃ t, exec (.dramTrainingComplete fast slow) s = .next t ∧
         t.own = s.own ∧ (quick → t.body.board.rate = 2) ∧ (¬ quick → t.body.board.rate = 1) ∧
         (∀ x ∈ t.body.stks, x.rate = t.body.board.rate) ∧ (∀ a, a < 0xD800000000 → t.body.mem.byte a = 0) ∧
         (∀ a, 0xD800000000 ≤ a → t.body.mem.byte a = s.body.mem.byte a)) ∧
       (slow.passes ≠ 0xFFFFFF → ¬ quick → ∃ t, exec (.dramTrainingComplete fast slow) s = .next t ∧ t.own = s.own ∧
         t.body.mem = s.body.mem ∧ t.body.board.rate = 0 ∧
         t.body.board.cause.bootErr = (if s.body.board.phase = .firmware then 5 else 0)))) ∧
  (∀ s : State,
     (s.body.board.phase = .firmware → s.body.board.modRef = true → s.body.board.cause.bootErr = 0 → s.body.board.rate ≠ 0 →
       (∀ cf mf qf, ∃ t, exec (.knownAnswerRuns cf mf qf) s = .next t ∧ t.own = s.own ∧ t.body.mem = s.body.mem ∧
         t.body.board.cause.coreOut = s.body.board.cause.coreOut ||| cf ∧ t.body.board.katDone = true ∧
         t.body.board.mediaOff = s.body.board.flash.repair.mediaOff.setWidth 45 ||| mf ∧
         t.body.board.cause.bootErr = (if qf = 0 then 0 else 6) ∧ t.body.board.phase = .firmware) ∧
       (∀ g, s.body.board.katDone = true → ∃ t, exec (.moduleReady g) s = .next t ∧
         t.own.sems = s.own.sems ∧ t.body.board.phase = .ready ∧ t.body.board.gpio = g ∧ t.body.board.flash.trial = false ∧
         t.body.board.cause.trial = false ∧ (∀ p, s.own.present p = true → t.own.prec p = s.own.prec p))) ∧
     ((s.body.board.phase ≠ .firmware ∨ s.body.board.cause.bootErr ≠ 0 ∨ s.body.board.rate = 0) →
       (∀ cf mf qf, exec (.knownAnswerRuns cf mf qf) s = .next s) ∧ ∀ g, exec (.moduleReady g) s = .next s) ∧
     (s.body.board.katDone = false → ∀ g, exec (.moduleReady g) s = .next s))

/-! ### Power and thermal (R22, R25 to R29, R225 to R228) -/

/-- A power sample shows VIN and IIN, keeps the peak, enters the 1 ms window of at most 100 samples, and above 115 % of the limit lowers
the cap by 300 MHz, not below 1.0 GHz; samples in a row whose average exceeds the limit with every clocked core at 1.0 GHz are
counted; the slow steps move the cap by 100 MHz when their condition has held, and else nothing: down while the average
exceeds the limit, up after 1 ms below 97 %, removed at the ceiling, each core that runs at the clock its caps allow keeping the cause
that held it (R324). 10 ms over the limit at the floor raise FAULT_THERMAL in every partition. They change nothing else (R27, R29, R437,
R461; that the average runs over the samples taken so far is the model's choice, log entry 5). -/
def Obligations.PowerCap : Prop :=
  ∀ s : State, s.body.clocked = true →
    (∀ w vin iin : W16, ∃ t, exec (.powerSample w vin iin) s = .next t ∧ t.own = s.own ∧ t.body.board.pwrIn.vin = vin ∧
      t.body.board.pwrIn.iin = iin ∧ t.body.board.pwrIn.peak.toNat = max s.body.board.pwrIn.peak.toNat w.toNat ∧
      t.body.board.powerCap.window = (w.toNat :: s.body.board.powerCap.window).take 100 ∧
      t.body.board.powerCap.cap = (if w.toNat * 100 > 115 * s.body.board.tdp.toNat then
        some (max 10 (s.body.board.powerCap.cap.getD s.body.board.ceil.toNat - 3)) else s.body.board.powerCap.cap) ∧
      t.body.board.powerCap.floorCount = (if ((w.toNat :: s.body.board.powerCap.window).take 100).sum >
          s.body.board.tdp.toNat * ((w.toNat :: s.body.board.powerCap.window).take 100).length ∧
          (∀ k ∈ s.body.cores, k.clk = 0 ∨ k.clk = 10) then s.body.board.powerCap.floorCount + 1 else 0) ∧
      t.body.cores = s.body.cores ∧ t.body.mem = s.body.mem ∧ t.body.parts = s.body.parts ∧ t.body.stks = s.body.stks) ∧
    (let exceeds := s.body.board.powerCap.window.sum > s.body.board.tdp.toNat * s.body.board.powerCap.window.length ∧
        (s.body.board.powerCap.cap = none ∨ 10 ≤ s.body.board.powerCap.sinceStep);
      (exceeds → exec .powerCapStepDown s = .next (s.onBoard fun b => { b with powerCap := { b.powerCap with
        cap := some (max 10 (b.powerCap.cap.getD b.ceil.toNat - 1)), sinceStep := 0 } })) ∧
      (¬ exceeds → exec .powerCapStepDown s = .next s)) ∧
    (let rises := 101 ≤ s.body.board.powerCap.belowCount ∧ 10 ≤ s.body.board.powerCap.sinceStep;
      (∀ k, s.body.board.powerCap.cap = some k → rises →
        exec .powerCapStepUp s = .next ({ s with body := s.body.noteCauses }.onBoard fun b => { b with powerCap := { b.powerCap with
          cap := if b.ceil.toNat ≤ k + 1 then none else some (k + 1), sinceStep := 0 } })) ∧
      ((s.body.board.powerCap.cap = none ∨ ¬ rises) → exec .powerCapStepUp s = .next s)) ∧
    (s.body.board.powerCap.floorCount < 1001 → exec .powerFloorFault s = .next s) ∧
    (∀ p : Fin 8, 1001 ≤ s.body.board.powerCap.floorCount → s.own.present p = true → s.body.parts.length = 8 →
      (s.body.part p).events.length < 1017 → s.body.invoking = [] →
      ∃ t r, exec .powerFloorFault s = .next t ∧ t.own = s.own ∧ t.body.board.powerCap.floorCount = 0 ∧
        (t.body.part p).events = (s.body.part p).events ++ [r] ∧ field r.bytes 0 2 = 0x0207 ∧ field r.bytes 3 1 = 1)

/-- Temperatures.

Steps of the thermal ladder at one reading below the trip: doubled refresh at 85 °C, the stack's cap set 100 MHz below the clocks
beneath it at 92 °C, the traffic limit at 95 °C, a step in force left as it is; the reading, MAXT and the sample count are kept
(R225, R231).

The later steps of the ladder, each when its time has passed and else none: the cap lowered by 100 MHz to no less than 1.0 GHz, the
traffic halved to no less than 12.5 %, both also while a sensor fault lasts (R228), the normal refresh rate back unless the module is
tripped, the cap raised by 100 MHz and removed at the ceiling, the traffic limit released by one step. Each changes its stack alone, but
that cores keep the cause that held them as the cap rises (R225, R227, R324).

A trip stops every core island's clock and doubles every stack's refresh, keeping memory and ownership. A reading of 100 °C on a
stack, a sensor fault that outlasts 1 ms, and a junction reading of 105 °C trip the module; a sensor fault alone takes the steps of
95 °C and marks the reading invalid; a cooler junction reading is only kept (R26, R225, R227, R228). -/
def Obligations.Thermal : Prop :=
  (∀ (s : State) (st : Fin 24) (t : Nat), s.body.clocked = true → t < 100 → s.body.stks.length = 24 →
     ∃ u, exec (.stackTempSample st t) s = .next u ∧ u.own = s.own ∧
       (u.body.stack st).temp = BitVec.ofNat 8 t ∧ (u.body.stack st).samples = (s.body.stack st).samples + 1 ∧
       (u.body.stack st).maxT.toNat = max (s.body.stack st).maxT.toNat t ∧ (u.body.stack st).valid = true ∧
       (u.body.stack st).doubled = (decide (85 ≤ t) || (s.body.stack st).doubled) ∧
       (u.body.stack st).cap = (if 92 ≤ t ∧ (s.body.stack st).cap = none then some (max 10 (s.body.clockUnder st.val - 1))
         else (s.body.stack st).cap) ∧
       (u.body.stack st).limit = (if 95 ≤ t ∧ (s.body.stack st).limit = 0 then 1 else (s.body.stack st).limit) ∧
       (∀ st', st' ≠ st → u.body.stack st' = s.body.stack st') ∧ u.body.cores = s.body.cores ∧ u.body.mem = s.body.mem ∧
       u.body.parts = s.body.parts) ∧
  (∀ (s : State) (st : Fin 24), s.body.clocked = true →
     let x := s.body.stack st
     let lowers := x.sensor = true ∨ (11 ≤ x.above92 ∧ 10 ≤ x.sinceCap)
     let halves := x.limit ≠ 0 ∧ x.limit ≠ 3 ∧ (x.sensor = true ∨ (11 ≤ x.above95 ∧ 10 ≤ x.sinceLim))
     let releases := 101 ≤ x.below83 ∧ s.body.board.tripped = false
     (∀ c, x.cap = some c → lowers → exec (.thermalCapLower st) s =
       .next { s with body := s.body.updStack st fun _ => { x with cap := some (max 10 (c - 1)), sinceCap := 0 } }) ∧
     ((x.cap = none ∨ ¬ lowers) → exec (.thermalCapLower st) s = .next s) ∧
     (halves → exec (.trafficLimitHalve st) s =
       .next { s with body := s.body.updStack st fun _ => { x with limit := x.limit + 1, sinceLim := 0 } }) ∧
     (¬ halves → exec (.trafficLimitHalve st) s = .next s) ∧
     (releases → exec (.refreshRateRelease st) s = .next { s with body := s.body.updStack st fun _ => { x with doubled := false } }) ∧
     (¬ releases → exec (.refreshRateRelease st) s = .next s) ∧
     (∀ c, x.cap = some c → 101 ≤ x.below90 → 10 ≤ x.sinceCap →
       exec (.thermalCapRise st) s = .next { s with body := s.body.noteCauses.updStack st fun _ =>
         { x with
           cap := if s.body.board.ceil.toNat ≤ c + 1 then none else some (c + 1)
           sinceCap := 0 } }) ∧
     (x.limit ≠ 0 → 101 ≤ x.below93 → 10 ≤ x.sinceLim → s.body.stks.length = 24 →
       ∃ t, exec (.trafficLimitRelease st) s = .next t ∧ t.own = s.own ∧
         (t.body.stack st).limit = x.limit - 1 ∧ (∀ st', st' ≠ st → t.body.stack st' = s.body.stack st') ∧
         t.body.mem = s.body.mem ∧ t.body.parts = s.body.parts)) ∧
  (∀ (s : State), s.body.clocked = true → s.body.board.tripped = false → s.body.stks.length = 24 →
     (∀ st t, 100 ≤ t → ∃ u, exec (.stackTempSample st t) s = .next u ∧ u.own = s.own ∧ u.body.board.tripped = true ∧
       (∀ c ∈ u.body.cores, c.clk = 0) ∧ (∀ x ∈ u.body.stks, x.doubled = true) ∧ u.body.mem = s.body.mem) ∧
     (∀ st, (s.body.stack st).sensor = true → ∃ u, exec (.stackSensorTimeout st) s = .next u ∧ u.own = s.own ∧
       u.body.board.tripped = true ∧ (∀ c ∈ u.body.cores, c.clk = 0) ∧ (∀ x ∈ u.body.stks, x.doubled = true) ∧ u.body.mem = s.body.mem) ∧
     (∀ j t, 105 ≤ t → ∃ u, exec (.junctionTrip j t) s = .next u ∧ u.own = s.own ∧ u.body.board.junction = t ∧
       u.body.board.tripped = true ∧ (∀ c ∈ u.body.cores, c.clk = 0) ∧ u.body.mem = s.body.mem) ∧
     (∀ st, (s.body.stack st).sensor = false → exec (.stackSensorTimeout st) s = .next s) ∧
     (∀ j t, t < 105 → exec (.junctionTrip j t) s = .next (s.onBoard fun b => { b with junction := t })) ∧
     (∀ st, ∃ u, exec (.stackSensorFault st) s = .next u ∧ u.own = s.own ∧ (u.body.stack st).valid = false ∧
       (u.body.stack st).sensor = true ∧ (u.body.stack st).doubled = true ∧ (u.body.stack st).cap.isSome = true ∧
       (u.body.stack st).limit ≠ 0 ∧ (∀ st', st' ≠ st → u.body.stack st' = s.body.stack st') ∧ u.body.mem = s.body.mem))

/-- A core runs at the lowest of the variant ceiling, the caps of the stacks above it and the power cap: that is the clock a change at
a tile boundary gives it, its PLL relocking and the pause laid to the cap that brought it about (R324); within a tile, at that clock
already, or with its clock stopped it is left; the end of the relock changes nothing else. The commands that move the power cap leave
every stack's cap, and those that move a stack's cap leave the power cap (R25). -/
def Obligations.CoreClock : Prop :=
  ∀ (s : State) (c : Fin 32), s.body.clocked = true →
    (let k := s.body.core c
      let t := s.body.clockTarget k
      let caps := (stacksOver k.physical).filterMap fun st => (s.body.stks.getD st Stack.reset).cap
      (k.tileBusy = false → k.clk ≠ 0 → k.clk ≠ t → exec (.coreClockChange c) s =
        .next { s with body := s.body.updCore c fun x => { x with
          clk := t, relock := true, clkCause := s.body.capCause k
          relockWhy := if k.clk < t ∧ x.clkCause ≠ 0 then x.clkCause else s.body.capCause k } }) ∧
      ((k.tileBusy = true ∨ k.clk = 0 ∨ k.clk = t) → exec (.coreClockChange c) s = .next s) ∧
      exec (.pllRelockDone c) s = .next { s with body := s.body.updCore c fun k => { k with relock := false } } ∧
      t ≤ s.body.board.ceil.toNat ∧ (∀ x, s.body.board.powerCap.cap = some x → t ≤ x) ∧ (∀ x ∈ caps, t ≤ x) ∧
      (t = s.body.board.ceil.toNat ∨ s.body.board.powerCap.cap = some t ∨ t ∈ caps)) ∧
    (∀ w v i, ∀ x ∈ [Instr.powerSample w v i, .powerCapStepDown, .powerCapStepUp],
      ∃ t, exec x s = .next t ∧ t.body.stks = s.body.stks) ∧
    ∀ st temp, ∀ x ∈ [Instr.stackTempSample st temp, .thermalCapLower st, .thermalCapRise st],
      ∃ t, exec x s = .next t ∧ t.body.board.powerCap = s.body.board.powerCap

/-! ### DRAM controllers and memories (R18, R19, R119, R170 to R173, R180, R205 to R222) -/

/-- DRAM.

A read that passes its check and is served as it arrives returns its bytes (its unit, or the half-units it needs), counts one unit
read and changes no memory: a latency-critical read goes before a write batch, a bulk read waits for its end. A queued write to the
unit answers the read instead; a tripped module accepts nothing; a read of no DRAM, or one that a check refuses, changes no memory and
returns its status (R19, R215, R217, R218, R227, R231).

A write that passes its check joins the write queue of its pseudo-channel and stores its bytes under the mask, changing no other
byte; at a full queue, or at a stack whose traffic limit admits nothing, it waits and stores nothing yet; a tripped module accepts
nothing; a write of no DRAM, or one that a check or a descriptor refuses, changes no memory and returns its status (R18, R19, R215, R217,
R218, R226, R227): the bytes are shown for a unit without an error.

A write batch that may begin puts the oldest queued write on the bus and leaves at most 63 to follow, and one that may not changes
nothing; a bulk read that has waited 2 µs is served, in a batch too, and with none that waits nothing changes; a bank that is owed no
other refresh and has no request is refreshed at once, a busy one, and any during another bank's refresh, is owed the new one, two at the
doubled rate; refresh management, a reissued command and the on-die counts are counted. None changes memory or ownership (R205, R214,
R217, R222). -/
def Obligations.Dram : Prop :=
  (∀ (s : State) (who : Requester) (addr : Addr) (n : Nat) (lc : Bool) (lat : Nat), s.body.clocked = true →
     (∀ ecc, locate s.own.maps addr.toNat = none → ∃ t, exec (.dramRead who ⟨addr, n⟩ lc lat ecc) s = .next t ∧ t.own = s.own ∧
       t.body.mem = s.body.mem ∧ t.body.out.getLast? = some (.netStatus who stBounds)) ∧
     (∀ ecc l st, locate s.own.maps addr.toNat = some l → netCheck s.own s.body who addr.toNat n = some st →
       ∃ t, exec (.dramRead who ⟨addr, n⟩ lc lat ecc) s = .next t ∧ t.own = s.own ∧
         t.body.mem = s.body.mem ∧ t.body.out.getLast? = some (.netStatus who st)) ∧
     (∀ l, locate s.own.maps addr.toNat = some l → netCheck s.own s.body who addr.toNat n = none → 1 ≤ n → addr.toNat % 64 + n ≤ 64 →
       (s.body.board.tripped = true → exec (.dramRead who ⟨addr, n⟩ lc lat []) s = .next s) ∧
       (let x := s.body.stks.getD l.stack Stack.reset;
         let q := x.pcOf l.pc;
         let r := readSpan s.own.maps addr.toNat n;
         let met := q.writes.any fun w => w.reaches r.1 r.2
         s.body.board.tripped = false → q.waiting = [] → s.body.mem.upsets = [] →
         s.body.mem.firstBad (wordSize s.own.maps r.1) r.1 r.2 = none →
         (met = true ∨ (x.admits = true ∧ q.refreshing = none ∧
             (readClass s.own who lc addr.toNat n = true ∧ q.lcRow < 8 ∨ readClass s.own who lc addr.toNat n = false ∧ q.batch = 0) ∧
             l.stack < s.body.stks.length) →
           ∃ t, exec (.dramRead who ⟨addr, n⟩ lc lat []) s = .next t ∧ t.own = s.own ∧ t.body.mem = s.body.mem ∧
             t.body.out = s.body.out ++ [.netData who (s.bytes r.1 r.2)] ∧
             (t.body.stks.getD l.stack Stack.reset).rd = (if met = true then x.rd else x.rd + 1) ∧ t.body.parts = s.body.parts ∧
             t.body.board = s.body.board)))) ∧
  (∀ (s : State) (who : Requester) (addr : Addr) (d : List (Option Byte)), s.body.clocked = true →
     (∀ ecc, locate s.own.maps addr.toNat = none → ∃ t, exec (.dramWrite who addr ⟨d, ecc⟩) s = .next t ∧ t.own = s.own ∧
       t.body.mem = s.body.mem ∧ t.body.out.getLast? = some (.netStatus who stBounds)) ∧
     (∀ ecc l st x, locate s.own.maps addr.toNat = some l → writeCheck s.own s.body who addr.toNat d.length = some (st, x) →
       ∃ t, exec (.dramWrite who addr ⟨d, ecc⟩) s = .next t ∧ t.own = s.own ∧ t.body.mem = s.body.mem ∧
         t.body.out.getLast? = some (.netStatus who st)) ∧
     (∀ l, locate s.own.maps addr.toNat = some l → writeCheck s.own s.body who addr.toNat d.length = none →
       (s.body.board.tripped = true → exec (.dramWrite who addr ⟨d, []⟩) s = .next s) ∧
       (let x := s.body.stks.getD l.stack Stack.reset;
         let q := x.pcOf l.pc;
         let r : DReq := { netReq who addr.toNat d.length (some d) with seq := q.arrivals }
         s.body.board.tripped = false → q.waiting = [] → l.stack < s.body.stks.length → s.body.mem.upsets = [] →
         (q.writes.length < 96 → x.admits = true → s.body.mem.lostWords (wordSize s.own.maps addr.toNat) addr.toNat d = [] →
           ∃ t, exec (.dramWrite who addr ⟨d, []⟩) s = .next t ∧ t.own = s.own ∧ t.body.parts = s.body.parts ∧
             t.body.board = s.body.board ∧ ((t.body.stks.getD l.stack Stack.reset).pcOf l.pc).writes = q.writes ++ [r] ∧
             s.sameOutside t addr.toNat d.length ∧
             ∀ i : Nat, ∀ h : i < d.length, t.body.mem.byte (addr.toNat + i) = (d[i]'h).getD (s.body.mem.byte (addr.toNat + i))) ∧
         ((x.admits = false ∨ (96 ≤ q.writes.length ∧ ∀ w ∈ q.writes, w.aged = false)) →
           ∃ t, exec (.dramWrite who addr ⟨d, []⟩) s = .next t ∧ t.own = s.own ∧ t.body.parts = s.body.parts ∧
             t.body.board = s.body.board ∧ t.body.mem = s.body.mem ∧
             ((t.body.stks.getD l.stack Stack.reset).pcOf l.pc).waiting = [r])))) ∧
  (∀ (s : State) (st : Fin 24) (pc : Fin 64), s.body.clocked = true → s.body.stks.length = 24 →
     (let x := s.body.stack st
       let q := x.pcOf pc.val
       let n := if x.doubled then 2 else 1
       (batchReady q = false → exec (.writeBatch st pc) s = .next s) ∧
       (batchReady q = true → q.refreshing = none → ∃ t, exec (.writeBatch st pc) s = .next t ∧ t.own = s.own ∧
         t.body.mem = s.body.mem ∧ ((t.body.stack st).pcOf pc.val).writes = q.writes.drop 1 ∧
         ((t.body.stack st).pcOf pc.val).batch = min 64 q.writes.length - 1 ∧
         ((t.body.stack st).pcOf pc.val).waiting = q.waiting) ∧
       ((∀ r ∈ q.waiting ++ q.writes, r.lc = true ∨ r.aged = true) → exec (.bulkRequestAged st pc) s = .next s) ∧
       (∀ r, q.waiting = [r] → q.writes = [] → r.data = none → r.lc = false → r.aged = false → r.via = .network →
         q.refreshing = none → s.body.board.tripped = false → x.admits = true → s.body.mem.upsets = [] →
         s.body.mem.firstBad (wordSize s.own.maps r.addr) r.addr r.n = none →
         ∃ t, exec (.bulkRequestAged st pc) s = .next t ∧ t.own = s.own ∧ t.body.mem = s.body.mem ∧
           ((t.body.stack st).pcOf pc.val).waiting = [] ∧
           t.body.out = s.body.out ++ [.netData r.who (s.bytes r.addr r.n)]) ∧
       (∀ bank : Fin 48, q.owed = [] → q.refreshing = none → q.busyBank s.own.maps bank.val = false →
         ∃ t, exec (.perBankRefresh st pc bank) s = .next t ∧ t.own = s.own ∧ t.body.mem = s.body.mem ∧
           ((t.body.stack st).refreshes.find? (fun r => r.1 == pc.val * 48 + bank.val)).elim 0 (·.2) =
             (x.refreshes.find? (fun r => r.1 == pc.val * 48 + bank.val)).elim 0 (·.2) + 1 ∧
           ((t.body.stack st).pcOf pc.val).refreshing = some (bank.val, s.body.board.uptime) ∧
           ((t.body.stack st).pcOf pc.val).owed = [(bank.val, n - 1)]) ∧
       (∀ bank : Fin 48, (q.refreshing.isSome = true ∨ (q.owed = [] ∧ q.busyBank s.own.maps bank.val = true)) →
         ∃ t, exec (.perBankRefresh st pc bank) s = .next t ∧ t.own = s.own ∧ t.body.mem = s.body.mem ∧
           (t.body.stack st).refreshes = x.refreshes ∧
           (((t.body.stack st).pcOf pc.val).owed.find? (fun r => r.1 == bank.val)).elim 0 (·.2) =
             (q.owed.find? (fun r => r.1 == bank.val)).elim 0 (·.2) + n)) ∧
     exec (.refreshManagementRequest st) s = .next { s with body := s.body.updStack st fun x => { x with rfm := x.rfm + 1 } } ∧
     exec (.caParityError st) s = .next { s with body := s.body.updStack st fun x => { x with reissue := x.reissue + 1 } } ∧
     (∀ n, exec (.odeccRead st n) s = .next { s with body := s.body.updStack st fun x => { x with odecc := satAdd x.odecc n } }))

/-- A network access outside DRAM, or to a DRAM controller that serves it as it arrives: a read that passes its check returns the bytes
of sound memory and leaves it unchanged; a write that passes stores its bytes under the mask and changes no other byte. A tripped
module's DRAM takes neither (R227). A request that fails its check changes no memory and returns its status (R18, R19, R119). -/
def Obligations.NetworkAccess : Prop :=
  ∀ (s : State) (who : Requester) (addr : Addr), s.body.clocked = true →
    ((∀ l, locate s.own.maps addr.toNat = some l → s.body.servesAt l = true) → s.body.mem.upsets = [] →
      (∀ n, netCheck s.own s.body who addr.toNat n = none →
        s.body.mem.firstBad (wordSize s.own.maps addr.toNat) addr.toNat n = none →
        ∃ t, exec (.networkRead who addr n []) s = .next t ∧ t.own = s.own ∧ t.body.mem = s.body.mem ∧
          t.body.out = s.body.out ++ [.netData who (s.bytes addr.toNat n)] ∧ t.body.parts = s.body.parts ∧
          t.body.cores = s.body.cores ∧ t.body.board = s.body.board) ∧
      (∀ d, writeCheck s.own s.body who addr.toNat d.length = none →
        s.body.mem.lostWords (wordSize s.own.maps addr.toNat) addr.toNat d = [] →
        ∃ t, exec (.networkWrite who addr ⟨d, []⟩) s = .next t ∧ t.own = s.own ∧ t.body.parts = s.body.parts ∧
          t.body.cores = s.body.cores ∧ t.body.board = s.body.board ∧ s.sameOutside t addr.toNat d.length ∧
          ∀ i : Nat, ∀ h : i < d.length, t.body.mem.byte (addr.toNat + i) = (d[i]'h).getD (s.body.mem.byte (addr.toNat + i)))) ∧
    (s.body.board.tripped = true → ∀ l, locate s.own.maps addr.toNat = some l →
      (∀ n, netCheck s.own s.body who addr.toNat n = none → ∃ t, exec (.networkRead who addr n []) s = .next t ∧ t.own = s.own ∧
        t.body = { s.body with free := t.body.free }) ∧
      (∀ d, writeCheck s.own s.body who addr.toNat d.length = none → exec (.networkWrite who addr ⟨d, []⟩) s = .next s)) ∧
    (∀ n st ecc, netCheck s.own s.body who addr.toNat n = some st → ∃ t, exec (.networkRead who addr n ecc) s = .next t ∧
      t.own = s.own ∧ t.body.mem = s.body.mem ∧ t.body.out.getLast? = some (.netStatus who st)) ∧
    (∀ d st x ecc, writeCheck s.own s.body who addr.toNat d.length = some (st, x) →
      ∃ t, exec (.networkWrite who addr ⟨d, ecc⟩) s = .next t ∧
        t.own = s.own ∧ t.body.mem = s.body.mem ∧ t.body.out.getLast? = some (.netStatus who st))

/-- Scrubbing: a clean word of sound SRAM is left as it is; one corrected is counted and written back later; an uncorrectable word that no
loaded almanac declares is zeroed and counted, one of the steward's cave region, or of its own memory, asks for a warm reset with SRC 5; a
patrol scrub counts a finished pass, and poisons and counts an uncorrectable unit without a fault, and counts one alike where no region
maps the unit. A write-back removes its own mark, in DRAM once its stack admits the traffic, and the end of a zeroing its own (R170, R173,
R180, R213, R226, R455). -/
def Obligations.Scrubbing : Prop :=
  ∀ (s : State) (a : Addr), s.body.clocked = true →
    (s.body.mem.upsets = [] → ∀ c : Fin 32,
      (0xF0000000000 + c.val * 0x4000000 ≤ a.toNat ∧ a.toNat < 0xF0000000000 + (c.val + 1) * 0x4000000) →
      (s.body.mem.bad 8 (a.toNat / 8 * 8) 8 = false →
        exec (.sramScrub (.at_ a) .clean) s = .next s ∧
        (s.body.cores.length = 32 →
          ∃ t, exec (.sramScrub (.at_ a) .corrected) s = .next t ∧ t.own = s.own ∧ t.body.mem.cells = s.body.mem.cells ∧
            (t.body.core c).vatCe = satAdd (s.body.core c).vatCe 1 ∧
            t.body.mem.writeBack = s.body.mem.writeBack ++ [(a.toNat / 8 * 8, 64)])) ∧
      (declaredBy s.body (a.toNat / 8 * 8) = none → s.body.cores.length = 32 →
        ∃ t, exec (.sramScrub (.at_ a) .bad) s = .next t ∧ t.own = s.own ∧ t.body.parts = s.body.parts ∧
          (t.body.core c).vatUe = satAdd (s.body.core c).vatUe 1 ∧ s.sameOutside t (a.toNat / 8 * 8) 8 ∧
          ∀ i, i < 8 → t.body.mem.byte (a.toNat / 8 * 8 + i) = 0)) ∧
    ((0xF2000000000 ≤ a.toNat ∧ a.toNat < 0xF2000010000) → s.body.board.warmReq = none →
      ∃ t, exec (.sramScrub (.at_ a) .bad) s = .next t ∧ t.own = s.own ∧ t.body.board.warmReq = some .memory ∧
        t.body.parts = s.body.parts) ∧
    (exec (.sramScrub .steward .clean) s = .next s ∧ exec (.sramScrub .steward .corrected) s = .next s ∧
      (s.body.board.warmReq = none → exec (.sramScrub .steward .bad) s = .next (s.onBoard fun b => { b with warmReq := some .memory }))) ∧
    (∀ (st : Fin 24) (loc : BitVec 30), s.body.stks.length = 24 → s.body.mem.upsets = [] →
      (∀ u, unitAddr s.own.maps st.val loc.toNat = some u → s.body.mem.bad (wordSize s.own.maps u) u 64 = false →
        (∃ t, exec (.patrolScrub ⟨st, loc, .clean⟩ .clean true) s = .next t ∧ t.own = s.own ∧ t.body.mem = s.body.mem ∧
          (t.body.stack st).scrub = (s.body.stack st).scrub + 1) ∧
        (∃ t, exec (.patrolScrub ⟨st, loc, .clean⟩ .bad false) s = .next t ∧ t.own = s.own ∧ t.body.mem.cells = s.body.mem.cells ∧
          t.body.mem = s.body.mem.poisonUnit (wordSize s.own.maps u) u ∧ (t.body.stack st).ue = satAdd (s.body.stack st).ue 1 ∧
          t.body.parts = s.body.parts)) ∧
      (unitAddr s.own.maps st.val loc.toNat = none → ∀ up,
        ∃ t, exec (.patrolScrub ⟨st, loc, up⟩ .bad true) s = .next t ∧ t.own = s.own ∧ t.body.mem = s.body.mem ∧
          (t.body.stack st).ue = satAdd (s.body.stack st).ue 1 ∧ (t.body.stack st).scrub = (s.body.stack st).scrub + 1 ∧
          t.body.parts = s.body.parts)) ∧
    (let k := a.toNat / wordSize s.own.maps a.toNat * wordSize s.own.maps a.toNat
      let m := { s.body.mem with writeBack := s.body.mem.writeBack.filter fun x => x.1 != k }
      (s.body.mem.writeBack.any (fun x => x.1 == k) = false → exec (.eccWriteBack a) s = .next s) ∧
      (locate s.own.maps k = none → exec (.eccWriteBack a) s = .next { s with body := { s.body with mem := m } }) ∧
      (∀ l, a.toNat < 0xD800000000 → locate s.own.maps k = some l → s.body.mem.writeBack.any (fun x => x.1 == k) = true →
        ((s.body.board.tripped = true ∨ (s.body.stks.getD l.stack Stack.reset).admits = false) →
          exec (.eccWriteBack a) s = .next s) ∧
        (s.body.board.tripped = false → (s.body.stks.getD l.stack Stack.reset).admits = true → l.stack < s.body.stks.length →
          ∃ t, exec (.eccWriteBack a) s = .next t ∧ t.own = s.own ∧ t.body.mem = m ∧ t.body.parts = s.body.parts ∧
            (t.body.stks.getD l.stack Stack.reset).wr = (s.body.stks.getD l.stack Stack.reset).wr + 1))) ∧
    (∀ z, exec (.memoryZeroingComplete z) s = .next { s with body := s.body.updMem fun m =>
      { m with zeroing := m.zeroing.filter fun x => x != z } })

/-- The commands whose effect on memory is a network, window, cave, DRAM or scrub access keep memory in its canonical form: addresses
rising, no zero byte listed. -/
def Obligations.MemoryStaysCanonical : Prop :=
  ∀ (s t : State), s.body.mem.wf = true →
    ((∃ who a w, exec (.networkWrite who a w) s = .next t) ∨ (∃ who a n e, exec (.networkRead who a n e) s = .next t) ∨
      (∃ q b o acc e, exec (.hostWindowAccess q b o acc e) s = .next t) ∨ (∃ who a w, exec (.dramWrite who a w) s = .next t) ∨
      (∃ x, exec (.caveWrite x) s = .next t) ∨ (∃ x, exec (.harvestCfg x) s = .next t) ∨ (∃ a e, exec (.sramScrub a e) s = .next t) ∨
      (∃ u e d, exec (.patrolScrub u e d) s = .next t) ∨ (∃ st pc, exec (.bulkRequestAged st pc) s = .next t) ∨ (∃ f g, exec (.dramTrainingComplete f g) s = .next t) ∨
      (∃ p, exec (.partModifyComplete p) s = .next t) ∨ (∃ x, exec (.pprSoft x) s = .next t) ∨ exec .warmReset s = .next t) →
    t.body.mem.wf = true

/-! ### Attestation (R447 to R449) -/

/-- A step whose whole visible effect is one SPDM message on a port: only that port's responder and the free-value counter may
differ besides. -/
def Claims.spdmReply (s t : State) (q : Port) (resp : List Byte) : Prop :=
  t.own = s.own ∧ t.pending = s.pending ∧ t.body.board = s.body.board ∧ t.body.mem = s.body.mem ∧ t.body.parts = s.body.parts ∧
    t.body.mail = s.body.mail ∧ t.body.cores = s.body.cores ∧ t.body.fab = s.body.fab ∧
    (∀ r, r ≠ q → t.body.port r = s.body.port r) ∧ t.body.out = s.body.out ++ [.spdm q resp]

/-- A signed response comes at once, or later: ResponseNotReady now and the response itself, which a RESPOND_IF_READY then
brings (log entry 43: which of the two is left open). -/
def Claims.signedReply (s : State) (c : Instr) (q : Port) (full : List Byte) : Prop :=
  ∃ t, exec c s = .next t ∧ (Claims.spdmReply s t q full ∨ (Claims.spdmReply s t q [0x12, 0x7F, 0x42, 0] ∧
    ∃ u, exec (.respondIfReady q) t = .next u ∧ Claims.spdmReply t u q full))

/-- Negotiation and evidence together.

Attestation works only once the module is READY with the port's link up; a request of another kind is answered with ERROR
UnsupportedRequest (R447, R449). The negotiation goes version, capabilities, algorithms, each answered with what R447 lists
(version 1.2 alone; CERT, CHAL and signed MEAS with CTExponent 15; SHA-512 and RSA-PSS 4096); a request before the ones that it needs
is answered with ERROR UnexpectedRequest. Message codes and layouts are DSP0274's (log entry 7).

After the negotiation: the digest and any portion of slot 0's certificate chain, which is that of the module's part number, serial
number and variant (R3, R447); seven measurements, each as a DMTF block of
its type and digest (index 6 is that of the owner record, 64 zero bytes while the module has no owner), or their number alone; signed
responses over the port's transcript; a slot, offset, nonce or index that does not exist is answered with ERROR InvalidRequest; no request
changes anything but the port's responder (R447 to R449). -/
def Obligations.Attestation : Prop :=
  (∀ (s : State) (q : Port), s.body.ports.length = 2 →
     (s.body.attests q = false → ∀ (slot off len index : Nat) (n : List Byte) (sg : Bool) (code : Byte),
       ∀ c ∈ [Instr.getVersion q, .getCapabilities q, .negotiateAlgorithms q, .getDigests q, .getCertificate q slot off len,
         .challenge q slot n, .getMeasurements q index sg n, .respondIfReady q, .spdmUnsupportedRequest q code],
         exec c s = .next s) ∧
     (s.body.attests q = true →
       (∃ t, exec (.getVersion q) s = .next t ∧ Claims.spdmReply s t q [0x10, 0x04, 0, 0, 0, 1, 0x00, 0x12] ∧
         (t.body.spdm q).versioned = true ∧ (t.body.spdm q).capable = false ∧ (t.body.spdm q).negotiated = false) ∧
       ((s.body.spdm q).versioned = false → exec (.getCapabilities q) s = .next (s.emits (.spdm q [0x12, 0x7F, 4, 0]))) ∧
       ((s.body.spdm q).capable = false → exec (.negotiateAlgorithms q) s = .next (s.emits (.spdm q [0x12, 0x7F, 4, 0]))) ∧
       ((s.body.spdm q).versioned = true → ∃ t, exec (.getCapabilities q) s = .next t ∧ (t.body.spdm q).capable = true ∧
         Claims.spdmReply s t q ([0x12, 0x61, 0, 0, 0, 15, 0, 0, 0x16, 0, 0, 0] ++ leBytes 4 Config.spdmTransfer.toNat ++
           leBytes 4 Config.spdmTransfer.toNat)) ∧
       ((s.body.spdm q).capable = true → ∃ t, exec (.negotiateAlgorithms q) s = .next t ∧ (t.body.spdm q).negotiated = true ∧
         Claims.spdmReply s t q ([0x12, 0x63, 0, 0, 36, 0, 1, 0, 8, 0, 0, 0, 0x40, 0, 0, 0, 4, 0, 0, 0] ++ List.replicate 16 0)) ∧
       ((s.body.spdm q).negotiated = false → ∀ (slot off len index : Nat) (n : List Byte) (sg : Bool),
         ∀ c ∈ [Instr.getDigests q, .getCertificate q slot off len, .challenge q slot n, .getMeasurements q index sg n,
           .respondIfReady q], exec c s = .next (s.emits (.spdm q [0x12, 0x7F, 4, 0]))) ∧
       ∀ code : Byte, exec (.spdmUnsupportedRequest q code) s = .next (s.emits (.spdm q [0x12, 0x7F, 7, code])))) ∧
  (∀ (s : State) (q : Port), s.body.ports.length = 2 → s.body.attests q = true → (s.body.spdm q).negotiated = true →
     s.body.certChain = Config.certChain 0x4824 s.body.board.serial s.body.board.var ∧
     (∃ t, exec (.getDigests q) s = .next t ∧ Claims.spdmReply s t q ([0x12, 0x01, 0, 1] ++ Config.sha512 s.body.certChain)) ∧
     (∀ off len, off < s.body.certChain.length →
       let part := (s.body.certChain.drop off).take len
       ∃ t, exec (.getCertificate q 0 off len) s = .next t ∧ Claims.spdmReply s t q ([0x12, 0x02, 0, 0] ++ leBytes 2 part.length ++
         leBytes 2 (s.body.certChain.length - off - part.length) ++ part)) ∧
     (∀ slot off len, (slot ≠ 0 ∨ s.body.certChain.length ≤ off) →
       exec (.getCertificate q slot off len) s = .next (s.emits (.spdm q [0x12, 0x7F, 1, 0]))) ∧
     (∀ (slot : Nat) (nonce : List Byte), (slot ≠ 0 ∨ nonce.length ≠ 32) →
       exec (.challenge q slot nonce) s = .next (s.emits (.spdm q [0x12, 0x7F, 1, 0]))) ∧
     (∀ i sg nonce, 7 < i → i ≠ 255 → exec (.getMeasurements q i sg nonce) s = .next (s.emits (.spdm q [0x12, 0x7F, 1, 0]))) ∧
     (∀ nonce, (∃ t, exec (.getMeasurements q 0 false nonce) s = .next t ∧
         Claims.spdmReply s t q ([0x12, 0x60, 7, 0, 0, 0, 0, 0] ++ Config.nonce s.body.free ++ [0, 0])) ∧
       ∃ t, exec (.getMeasurements q 255 false nonce) s = .next t ∧
         Claims.spdmReply s t q ([0x12, 0x60, 0, 0, 7] ++ leBytes 3 (measRecord s.own s.body 255).length ++
           ((List.range 7).flatMap fun j => measBlock s.own s.body (j + 1)) ++ Config.nonce s.body.free ++ [0, 0])) ∧
     (∀ nonce : List Byte, nonce.length = 32 →
       let body := [0x12, 0x03, 0, 1] ++ (Config.sha512 s.body.certChain ++ Config.nonce s.body.free ++
         Config.sha512 (measRecord s.own s.body 0xFF) ++ [0, 0])
       Claims.signedReply s (.challenge q 0 nonce) q
         (body ++ Config.sign ((s.body.spdm q).transcript ++ ([0x12, 0x83, 0, 0] ++ nonce) ++ body))) ∧
     (∀ (i : Nat) (nonce : List Byte), 1 ≤ i → i ≤ 7 →
       let d := measurement s.own s.body i
       let body := [0x12, 0x60, 0, 0] ++ ([1] ++ leBytes 3 (measBlock s.own s.body i).length ++ measBlock s.own s.body i ++
         Config.nonce s.body.free ++ [0, 0])
       measBlock s.own s.body i = [BitVec.ofNat 8 i, 1] ++ leBytes 2 (3 + d.length) ++
         [if i = 1 then 0 else if i = 2 then 1 else if i ≤ 4 then 2 else 3] ++ leBytes 2 d.length ++ d ∧
       (∃ t, exec (.getMeasurements q i false nonce) s = .next t ∧ Claims.spdmReply s t q body) ∧
       Claims.signedReply s (.getMeasurements q i true nonce) q
         (body ++ Config.sign ((s.body.spdm q).transcript ++ ([0x12, 0xE0, 1, BitVec.ofNat 8 i] ++ nonce) ++ body))) ∧
     (s.body.board.flash.ownerOk = false → measurement s.own s.body 6 = List.replicate 64 0) ∧
     (∀ r, s.body.board.flash.owner = some r → r.sigOk = true → measurement s.own s.body 6 = Config.sha512 r.bytes) ∧
     ((s.body.spdm q).deferred = none → exec (.respondIfReady q) s = .next (s.emits (.spdm q [0x12, 0x7F, 4, 0]))) ∧
     (∀ r, (s.body.spdm q).deferred = some r →
       ∃ t, exec (.respondIfReady q) s = .next t ∧ Claims.spdmReply s t q r ∧ (t.body.spdm q).deferred = none))

/-! ### Firmware distribution (R477 to R483) -/

/-- FW_STATUS's result, field by field (R481). -/
def Claims.statusBytes (y : Board) : List Byte :=
  [if y.fw.commit.isSome then 4 else match y.fw.phase with | .idle => 0 | .receiving => 1 | .verifying => 2 | .staged => 3,
    BitVec.ofNat 8 ((if y.cause.image then 1 else 0) + (if y.cause.trial then 128 else 0))] ++
    leBytes 2 y.fw.last.toNat ++ leBytes 4 y.fw.imageId.toNat ++ leBytes 4 y.fw.chunks ++ leBytes 4 y.fw.got.length ++
    leBytes 4 y.fw.repaired.toNat ++ leBytes 4 (if y.fw.phase = .staged then y.fw.version.toNat else 0)

/-- Staging, commit, chunks, repair and verification together.

FW_STAGE of an image in range, on a module that stages nothing, with its own rank in the tree: the inactive slot is invalid,
STAGED reads 0, the image is being received (rank 0 has it whole and verifies), its chunks counted as ⌈BYTES / 4,032⌉; memory,
ownership and partitions are untouched. Reserved bytes set are REFUSED_FORMAT, arguments out of range REFUSED_BOUNDS, a staging under way
is BUSY (R477, R478).

FW_STATUS reports and changes nothing but its mailbox; FW_COMMIT of the staged image, or of 0, at a time within 10 s (with the
clock locked when it is not 0), with nothing invoked or FORCE set, schedules the commit; a flag past FORCE is REFUSED_FORMAT, another image
or time REFUSED_BOUNDS, an invocation without FORCE BUSY; at its time, while the steward carries out commands, the image-select record names
the other slot on trial, and a warm reset is asked for with SRC = 4 (R481 to R483).

A management message is dealt with by the command of its kind (PTP 1, chunk 2, steward message 3) when it is first in its class on a
link; the one that is not there leaves the state as it is. A malformed one is discarded, one of an unknown kind is discarded at its
destination, and one for another device is forwarded, each freeing its receive buffer (R280, R285, R294, R299).

A chunk of the image being received, with its length and CRC right and not held yet, for this device and first in its class on a
link, is stored; the last one starts the verification; memory, partitions and ownership are untouched. Any other chunk only frees its
receive buffer (R478).

With nothing asked for, the repair timer asks the parent for the first 256 missing chunks, by a steward message; with a request that
is not wholly answered it asks rank 0 for the same, and rank 0 from then on; it changes nothing but the links and what is asked for, and
nothing at all while no image is being received (R479). A steward message that arrives here completes whatever it says (R299): it frees its
receive buffer; a repair request for the image held here, until DEADLINE and while the steward runs, has every chunk asked for and held
sent back, and changes nothing but the links (R479); an abort notice halts the partition's invocations that hold COLL entries, with
FAULT_PEER (R321), and changes nothing besides where none does; another content changes nothing besides.

The verification of a whole image: signature good and version at least FW_FLOOR, the inactive slot is valid, STAGED shows the
version and the command ends OK; else the command ends AUTH_FAIL and no slot changes. At DEADLINE a staging not yet verified ends
IMAGE_INCOMPLETE. The running image stays. While the steward does not run, with no image to verify, and before the deadline nothing
changes (R446, R480). -/
def Obligations.FirmwareDistribution : Prop :=
  (∀ (s : State) (x : Xnx) (tree : List (BitVec 12)) (image : List Byte), s.takesModule x = true → x.len = 40 →
     let format := xArg x 0xB 5 = 0 ∧ (x.arg0 = 0 ∨ xArg x 0x18 8 = 0)
     let bounds := xArg x 0 4 ≠ 0 ∧ 4096 ≤ xArg x 4 4 ∧ xArg x 4 4 ≤ 2 ^ 25 ∧ xArg x 4 4 % 64 = 0 ∧
       1 ≤ xArg x 8 2 ∧ xArg x 8 2 ≤ 4096 ∧ 1 ≤ xArg x 0xA 1 ∧ xArg x 0xA 1 ≤ 8 ∧ x.arg0 < xArg x 8 2 ∧
       s.body.fab.devId.isSome = true ∧ tree[x.arg0]? = s.body.fab.devId ∧ s.body.fab.time ≤ xArg x 0x20 8
     let busy := s.body.board.fw.phase = .receiving ∨ s.body.board.fw.phase = .verifying
     let refuses (st : W16) : Prop := exec (.fwStage x tree image) s = .next (s.answer s.own (s.commanded 0x0701 x) x st 0 [])
     (¬ format → refuses stFormat) ∧ (format → ¬ bounds → refuses stBounds) ∧ (format → bounds → busy → refuses stBusy) ∧
     (format → bounds → ¬ busy →
       ∃ t, exec (.fwStage x tree image) s = .next t ∧ t.own = s.own ∧ t.body.mem = (s.commandedWith 0x0701 x).mem ∧
         t.body.parts = s.body.parts ∧
         t.body.board.fw.phase = (if x.arg0 = 0 then .verifying else .receiving) ∧ t.body.board.fwStaged = 0 ∧
         t.body.board.fw.imageId.toNat = xArg x 0 4 ∧ t.body.board.fw.rank = x.arg0 ∧
         t.body.board.fw.chunks = (xArg x 4 4 + 4031) / 4032 ∧ t.body.board.fw.deadline = xArg x 0x20 8 ∧
         (x.arg0 ≠ 0 → t.body.board.fw.got = []) ∧ (x.arg0 = 0 → t.body.board.fw.full = true) ∧
         (t.body.board.flash.images.getD s.body.board.inactive ⟨false, 0⟩).valid = false ∧
         (s.body.mail.length = 9 → (s.body.mail.getD 8 []).length = 4 → (t.body.mailbox .module x.mb).pend = true))) ∧
  ((∀ (s : State) (x : Xnx), s.takesModule x = true → x.arg0 = 0 →
     (x.len = 0 → exec (.fwStatus x) s = .next (s.answer s.own (s.commandedWith 0x0702 x) x stOk 0 (Claims.statusBytes s.body.board))) ∧
     (x.len = 16 →
       let refuses (st : W16) : Prop := exec (.fwCommit x) s = .next (s.answer s.own (s.commanded 0x0703 x) x st 0 [])
       let bounds := xArg x 8 8 ≤ s.body.fab.time + 10000000000 ∧ (xArg x 8 8 = 0 ∨ s.body.fab.locked = true) ∧
         (xArg x 0 4 = 0 ∨ (s.body.board.fw.phase = .staged ∧ s.body.board.fw.imageId.toNat = xArg x 0 4))
       (2 ≤ xArg x 4 4 → refuses stFormat) ∧
       (xArg x 4 4 < 2 → ¬ bounds → refuses stBounds) ∧
       (xArg x 4 4 = 0 → bounds → s.body.anyInvocation = true → refuses stBusy) ∧
       (xArg x 4 4 < 2 → bounds → (xArg x 4 4 = 1 ∨ s.body.anyInvocation = false) →
         exec (.fwCommit x) s = .next (s.answer s.own ((s.commandedWith 0x0703 x).updBoard fun y =>
           { y with fw := { y.fw with commit := some (xArg x 8 8, BitVec.ofNat 32 (xArg x 0 4)) } }) x stOk 0 [])))) ∧
   (∀ s : State, (s.body.board.fw.commit = none ∨ s.body.board.phase ≠ .ready) → exec .fwCommitActivate s = .next s) ∧
   ∀ (s : State) (at_ : Nat) (id : W32), s.body.board.fw.commit = some (at_, id) → s.body.board.phase = .ready →
     s.body.board.modRef = true →
     (s.body.fab.time < at_ → exec .fwCommitActivate s = .next s) ∧
     (at_ ≤ s.body.fab.time → s.body.board.warmReq = none →
       exec .fwCommitActivate s = .next (s.onBoard fun y =>
         { y with
           fw := { y.fw with commit := none },
           warmReq := some .fwCommit,
           flash := if id = 0 then y.flash else { y.flash with select := !y.cause.image, trial := true, trialBoots := 0 } }))) ∧
  (∀ (s : State) (l : Fin 24) (m : Msg) (rx : Nat) (repair : Bool) (body : StewardMsg), s.body.clocked = true →
     ∀ c ∈ [(Instr.ptpMessage l m rx, 1), (.firmwareChunk l m repair, 2), (.stewardMessage l m body, 3)],
       ((s.body.link l).takeMsg m = none → exec c.1 s = .next s) ∧
       (∀ k, (s.body.link l).takeMsg m = some k →
         let b := s.body.updLink l fun _ => k
         let typ := m.addr.toNat % 256
         (msgFormed m = false → exec c.1 s = .next { s with body := b.discard l }) ∧
         (msgFormed m = true → (m.op ≠ 5 ∨ (1 ≤ typ ∧ typ ≤ 3 ∧ typ ≠ c.2)) → exec c.1 s = .next s) ∧
         (msgFormed m = true → m.op = 5 → (typ = 0 ∨ 3 < typ ∨ typ = c.2) → routeLocal (s.body.fab.entry m.dstDev.toNat) = false →
           exec c.1 s = .next { s with body := b.forward l m }) ∧
         (msgFormed m = true → m.op = 5 → (typ = 0 ∨ 3 < typ) → routeLocal (s.body.fab.entry m.dstDev.toNat) = true →
           exec c.1 s = .next { s with body := b.discard l }))) ∧
  (∀ (s : State) (l : Fin 24) (m : Msg) (repair : Bool) (k : Link), s.body.clocked = true → (s.body.link l).takeMsg m = some k →
     m.op = 5 → msgFormed m = true → m.addr.toNat % 256 = 2 → routeLocal (s.body.fab.entry m.dstDev.toNat) = true →
     let takes := s.body.stewardRuns = true ∧ s.body.board.fw.takes m = true ∧ s.body.board.fw.got.contains (field m.data 4 4) = false
     (¬ takes → exec (.firmwareChunk l m repair) s = .next { s with body := s.body.updLink l fun _ => k }) ∧
     (takes → ∃ t, exec (.firmwareChunk l m repair) s = .next t ∧ t.own = s.own ∧ t.body.mem = s.body.mem ∧ t.body.parts = s.body.parts ∧
       t.body.board.fw.got = s.body.board.fw.got ++ [field m.data 4 4] ∧
       t.body.board.fw.data = s.body.board.fw.data ++ [(field m.data 4 4, m.data.drop 0x40)] ∧
       (t.body.board.fw.phase = .verifying ↔ t.body.board.fw.full = true))) ∧
  ((∀ s : State, (s.body.stewardRuns = false ∨ s.body.board.fw.phase ≠ .receiving) → exec .fwRepairTimeout s = .next s) ∧
   (∀ s : State, s.body.stewardRuns = true → s.body.board.fw.phase = .receiving →
     let f := s.body.board.fw
     let missing := ((List.range f.chunks).filter fun i => !f.got.contains i).take 256
     ∃ t, exec .fwRepairTimeout s = .next t ∧ t.own = s.own ∧ t.body.mem = s.body.mem ∧ t.body.parts = s.body.parts ∧
       (f.asked = none → t.body.board = { s.body.board with fw := { f with
         asked := some (if f.toRoot then 0 else (f.rank - 1) / f.fanout, missing) } }) ∧
       (∀ r cs, f.asked = some (r, cs) → t.body.board = { s.body.board with fw := { f with asked := some (0, cs), toRoot := true } })) ∧
   ∀ (s : State) (l : Fin 24) (m : Msg) (k : Link), s.body.clocked = true → (s.body.link l).takeMsg m = some k → m.op = 5 →
     msgFormed m = true → m.addr.toNat % 256 = 3 → routeLocal (s.body.fab.entry m.dstDev.toNat) = true →
     (let b := s.body.updLink l fun _ => k;
       exec (.stewardMessage l m .other) s = .next { s with body := b } ∧
       (∀ (id : W32) (cs : List Nat), ∃ t, exec (.stewardMessage l m (.repairRequest id cs)) s = .next t ∧ t.own = s.own ∧
         t.body.mem = s.body.mem ∧ t.body.parts = s.body.parts ∧ t.body.board = s.body.board ∧
         t.body = (if s.body.stewardRuns = true ∧ s.body.board.fw.imageId = id ∧ s.body.fab.time ≤ s.body.board.fw.deadline then
             (s.body.board.fw.data.filter fun d => cs.contains d.1).foldl (fun c d => c.sendChunk m.srcDev m.srcPart d.1 d.2) b
           else b)) ∧
       (∃ t, exec (.stewardMessage l m .abortNotice) s = .next t ∧ t.own = s.own ∧
         ((∀ j, (s.body.slot m.dstPart j).invoke.isSome = true → hasColl (s.body.slot m.dstPart j).image = false) → t.body = b) ∧
         ∀ j, (s.body.slot m.dstPart j).invoke.isSome = true → hasColl (s.body.slot m.dstPart j).image = true →
           (t.body.slot m.dstPart j).invoke = none))) ∧
  ((∀ (s : State) (v : W32) (ok : Bool),
     ((s.body.stewardRuns = false ∨ s.body.board.fw.phase ≠ .verifying) → exec (.fwVerifyComplete v ok) s = .next s) ∧
     ((s.body.stewardRuns = false ∨ (s.body.board.fw.phase ≠ .receiving ∧ s.body.board.fw.phase ≠ .verifying) ∨
       s.body.fab.time < s.body.board.fw.deadline) → exec .fwDeadline s = .next s)) ∧
   ∀ (s : State) (v : W32) (ok : Bool) (k : Ticket), s.body.stewardRuns = true → s.body.board.fw.ticket = some k →
     (s.body.board.fw.phase = .verifying →
       (ok = true → s.body.board.policy.floor.toNat ≤ v.toNat →
         exec (.fwVerifyComplete v ok) s = .next { s with
           body := (s.body.updBoard fun y => { y with
             flash := { y.flash with images := y.flash.images.set y.inactive ⟨true, v⟩ }
             fw := { y.fw with phase := .staged, version := v, last := 0, asked := none, ticket := none }
             fwStaged := v }).respond s.own k stOk 0 [] }) ∧
       ((ok = false ∨ v.toNat < s.body.board.policy.floor.toNat) →
         exec (.fwVerifyComplete v ok) s = .next { s with body := (s.body.updBoard fun y =>
           { y with fw := { y.fw with phase := .idle, last := 0x0401, asked := none, ticket := none } }).respond s.own k 0x0401 0 [] })) ∧
     ((s.body.board.fw.phase = .receiving ∨ s.body.board.fw.phase = .verifying) → s.body.board.fw.deadline ≤ s.body.fab.time →
       exec .fwDeadline s = .next { s with body := (s.body.updBoard fun y =>
         { y with fw := { y.fw with phase := .idle, last := 0x0402, asked := none, ticket := none } }).respond s.own k 0x0402 0 [] }))

/-! ### Almanacs: load and unload (R100, R102, R124, R129, R414, R514) -/

/-- Every partition has its four almanac slots: the shape that every reachable state has. -/
def Claims.slotsWhole (s : State) : Prop := s.body.parts.length = 8 ∧ ∀ p, (s.body.part p).slots.length = 4

/-- ALM_LOAD and ALM_UNLOAD and their completions together.

ALM_LOAD into a free slot, with header and image inside the partition's data region, is accepted as PENDING with no other
effect but that of reading the header (R170, R219, R231). In this order: a header outside the region is refused with REFUSED_WORLD, with
its record; on a tripped module, whose DRAM takes no read, the command stays PENDING; a header that cannot be read ends FAULT_ECC_UNCORR;
an image outside the region is REFUSED_WORLD, one shorter than its header REFUSED_FORMAT, a HOST_SLOT that is not loaded REFUSED_BOUNDS,
and a slot that is loaded, or being loaded or unloaded, BUSY (R227, R414, R511, R512, R514).

The end of a load whose image passes every check: the slot holds the image, its context is unrun, slot 0 of every batch-table
list is active and counts as empty, and ALM_LOAD ends OK; of one that fails, the status and image offset of its first failing
item, the slot staying free; of one that cannot be read, FAULT_ECC_UNCORR. No memory changes but the almanac store's copy, no other
slot and no ownership. While the stacks that hold the image or the store admit no traffic, while the module is tripped, and once the
steward has stopped, the load does not end (R99, R100, R117, R226, R227, R420, R428, R432, R512; where in the store region the copy
stands is the model's choice, log entry 113).

ALM_UNLOAD of a loaded slot tears its context down and answers PENDING: no core holds the context, the slot is no longer
loaded, DRAM is untouched (where no XD of the context runs: a running one first completes its group, R199); once the context's cores are
zeroed the slot is free and the command ends OK, and not before, nor once the steward has stopped. While the slot's load is
pending it is BUSY, of an empty slot REFUSED_BOUNDS, with nothing changed (R180, R414, R420). -/
def Obligations.AlmanacSlots : Prop :=
  (∀ (s : State) (x : Xnx) (p : Fin 8) (k : Fin 4), s.takesOn x p = true → x.len = 9 → x.arg0 = k.val →
     let a := xArg x 0 8
     let host := xArg x 8 1
     let b := (s.commandedWith 0x0101 x).stewardRead s.own [(a, 64)]
     let size := field (s.body.mem.bytes a 64) 0xC 4
     let refuses (st : W16) : Prop := exec (.almLoad x) s = .next (s.answer s.own (s.commanded 0x0101 x) x st 0 [])
     let foreign : Prop := exec (.almLoad x) s = .next (s.answer s.own
       ((s.commanded 0x0101 x).logForeign s.own (.part p) (s.own.outside p a)) x stWorld 0 [])
     let hostBad := host ≠ 0xFF ∧ (4 ≤ host ∨ (s.body.slot p (Fin.ofNat 4 host)).loaded = false)
     let occupied := (s.body.slot p k).loaded = true ∨ (s.body.slot p k).loading.isSome = true ∨ (s.body.slot p k).unload.isSome = true
     (s.own.inData p a 64 = false → foreign) ∧
     (s.own.inData p a 64 = true → s.body.board.tripped = true →
       exec (.almLoad x) s = .next (s.promise s.own (s.commandedWith 0x0101 x) x)) ∧
     (s.own.inData p a 64 = true → s.body.board.tripped = false →
       (∀ w, b.firstBad s.own [(a, 64)] = some w → exec (.almLoad x) s =
         .next (s.answer s.own (b.stewardBad s.own p w) x ftEcc (imageUnit a w) [])) ∧
       (b.firstBad s.own [(a, 64)] = none →
         (s.own.inData p a size = false → foreign) ∧
         (s.own.inData p a size = true → size < 64 → refuses stFormat) ∧
         (s.own.inData p a size = true → 64 ≤ size → hostBad → refuses stBounds) ∧
         (s.own.inData p a size = true → 64 ≤ size → ¬ hostBad → occupied → refuses stBusy) ∧
         (s.own.inData p a size = true → 64 ≤ size → ¬ hostBad → ¬ occupied →
           exec (.almLoad x) s = .next (s.promise s.own (b.updSlot p k fun y =>
             { y with loading := some (a, size, BitVec.ofNat 8 host, xTicket x) }) x))))) ∧
  ((∀ (s : State) (p : Fin 8) (k : Fin 4) (found : Found), s.body.clocked = true → (s.body.slot p k).loading = none →
     exec (.almLoadComplete p ⟨k, found⟩) s = .next { s with body := s.body.upset found }) ∧
   ∀ (s : State) (p : Fin 8) (k : Fin 4) (at_ size : Nat) (host : Byte) (t : Ticket) (found : Found), Claims.slotsWhole s →
     (s.body.slot p k).loading = some (at_, size, host, t) → s.body.clocked = true →
     let b := s.body.upset found
     let img := s.body.mem.bytes at_ size
     let guest := if host = 0xFF then none else some (s.body.slot p (Fin.ofNat 4 host.toNat)).image
     let ends := s.body.stewardUp = true ∧ s.body.flows s.own [(at_, size)] = true ∧ s.body.storeFlows s.own p = true
     (¬ ends → exec (.almLoadComplete p ⟨k, found⟩) s = .next { s with body := b }) ∧
     (ends →
       (checkImage s.own b p k at_ img guest = .accepted →
         ∃ u, exec (.almLoadComplete p ⟨k, found⟩) s = .next u ∧ u.own = s.own ∧
           (let r := u.body.imageArea s.own p k; s.sameOutside u r.1 r.2) ∧
           (u.body.slot p k).loaded = true ∧ (u.body.slot p k).image = img ∧ (u.body.slot p k).hostSlot = host ∧
           (u.body.slot p k).ctx = .unrun ∧ (u.body.slot p k).run = .idle ∧ (u.body.slot p k).loading = none ∧
           (∀ l ∈ (u.body.slot p k).bts, l.slot1 = false ∧ l.empty = true ∧ l.swap = false) ∧
           (∀ j, j ≠ k → u.body.slot p j = s.body.slot p j) ∧ (∀ q, q ≠ p → u.body.part q = s.body.part q)) ∧
       (∀ off st, checkImage s.own b p k at_ img guest = .refused off st →
         exec (.almLoadComplete p ⟨k, found⟩) s = .next { s with body :=
           (b.updSlot p k fun y => { y with loading := none }).respond s.own t st off [] }) ∧
       (∀ off w, checkImage s.own b p k at_ img guest = .ecc off w →
         exec (.almLoadComplete p ⟨k, found⟩) s = .next { s with body :=
           ((b.updSlot p k fun y => { y with loading := none }).stewardBad s.own p w).respond s.own t ftEcc off [] }))) ∧
  ((∀ (s : State) (x : Xnx) (p : Fin 8) (k : Fin 4), s.takesOn x p = true → x.len = 0 → x.arg0 = k.val →
     ((s.body.slot p k).loading.isSome = true →
       exec (.almUnload x) s = .next (s.answer s.own (s.commanded 0x0102 x) x stBusy 0 [])) ∧
     ((s.body.slot p k).loading = none → (s.body.slot p k).loaded = false →
       exec (.almUnload x) s = .next (s.answer s.own (s.commanded 0x0102 x) x stBounds 0 [])) ∧
     ((s.body.slot p k).loading = none → (s.body.slot p k).loaded = true → Claims.slotsWhole s →
       ∃ t, exec (.almUnload x) s = .next t ∧ t.own = s.own ∧ (t.body.slot p k).loaded = false ∧
         (t.body.slot p k).unload = some (xTicket x) ∧ (∀ c, (t.body.core c).ctx ≠ some ⟨p, k⟩) ∧
         ((∀ q ∈ s.body.quads, ∀ j ∈ q.xfRun, j.ctx ≠ ⟨p, k⟩) →
           ∀ a, a < 0xD800000000 → t.body.mem.byte a = s.body.mem.byte a))) ∧
   ∀ (s : State) (p : Fin 8) (k : Fin 4),
     (((s.body.slot p k).unload = none ∨ s.body.stewardUp = false ∨ s.body.zeroingCores (s.body.slot p k).image = true) →
       exec (.almUnloadComplete p k) s = .next s) ∧
     (∀ t, (s.body.slot p k).unload = some t → s.body.stewardUp = true → s.body.zeroingCores (s.body.slot p k).image = false →
       exec (.almUnloadComplete p k) s = .next { s with body :=
         (s.body.updSlot p k fun _ => Slot.empty).respond s.own t stOk 0 [] }))

/-- What passing the load's checks guarantees: the header's magic, generation, CRC and limits; every core named in CORES is the
partition's and in service; each core's list ends in its one END; every entry's kind is one of R124's and its event is below
EVENTS, or none; and every entry with a descriptor has a BOUND of at least its static minimum (R100, R102, R124, R129, R438). -/
def Obligations.LoadCheckIsSound : Prop :=
  (∀ (o : Own) (b : Body) (p : Fin 8) (k : Fin 4) (at_ : Nat) (img : List Byte) (host : Option (List Byte)),
     checkImage o b p k at_ img host = .accepted →
     (hdrOf img).magic = 0x4E4D4C41 ∧ (hdrOf img).gen = 4 ∧ 10 ≤ (hdrOf img).ceil ∧ (hdrOf img).ceil ≤ 30 ∧
     (hdrOf img).btCount ≤ 1024 ∧ (hdrOf img).events ≤ 255 ∧ (imageCrc img).toNat = (hdrOf img).crc ∧
     ∀ c : Fin 32, (hdrOf img).cores.testBit c.val = true →
       o.hasCore p c.val = true ∧ b.board.cause.coreOut.toNat.testBit c.val = false ∧ 1 ≤ aeCount img c.val ∧
       ∀ i, i < aeCount img c.val → let e := aeOf img c.val i
         1 ≤ e.kind ∧ e.kind ≤ 11 ∧ (e.kind = kEnd ↔ i + 1 = aeCount img c.val) ∧
           (e.evt = 0xFF ∨ e.evt < (hdrOf img).events) ∧
           ((descOf e.kind).isSome = true → (b.loadCtx o p at_ img).minBound b e ≤ e.bound))

/-! ### Invocations (R125, R135, R254, R272, R414, R428 to R430) -/

/-- INVOKE, its end, PREEMPT, RESUME and the ends of save and restore together.

INVOKE of a context whose almanac may start, on cores that nothing else holds, is PENDING: a resident one, or an unrun one whose cores
are free and zeroed, runs at once: every event at zero, every pending swap made, DECISION 0, each of its cores at its first entry with its
flags clear, an unrun one's KEEP regions and presses zero; memory changes at most there and in the 20 KiB norm-vector region; any other is
restored first, or goes on once its save is over. One that may not start is REFUSED_BOUNDS, as is an empty slot's; with its cores held, or
with an invocation of the slot waiting or running, it is BUSY; a guest's waits for its training almanac's next SLOT (R117, R126, R135,
R253, R257, R272, R414, R428, R429).

The end of an invocation whose every list has ended: each of its cores counts it and is idle, the slot is idle with its context
resident (a guest's, or one that a PREEMPT waits for, is then saved), and INVOKE's final response carries the status and decision; until
then it does not end (R125, R414, R429).

PREEMPT of a running invocation answers PENDING, withdraws its jobs that have not started, and lets it go on only to its
pre-emption points; of one that is stopping, being saved or being restored it joins what is under way; of an idle resident context it
asks for its save; of a context that was never run or is saved, and of an empty slot, it completes OK at once with no effect. RESUME of a
context that is not pre-empted, or whose guest runs, completes OK with no effect; of a pre-empted one whose cores are held it is BUSY,
and with its cores free it completes OK and the restore begins (R133, R320, R429, R430).

With every block of the context at its pre-emption point and the path to the store flowing, the save completes: the context is saved,
no core holds it, no byte changes outside the save area, and the slot is pre-empted with no PREEMPT left, its guest, if a SLOT had admitted
one, waiting again; without a PREEMPT the guest's cores are free for it. A save that an idle context waits for leaves it idle, or lets the
INVOKE that came meanwhile go on (R272, R428, R430, R513). Once a restore has its cores, zeroed, and the path to the store (R180, R226),
the slot's context is resident and starts, or goes on where it was pre-empted, as does a training context whose guest is gone; an
uncorrectable error in the save area resets the partition instead (R437, R513). Until then neither ends. -/
def Obligations.Invocations : Prop :=
  (∀ (s : State) (x : Xnx) (p : Fin 8) (k : Fin 4), s.takesOn x p = true → x.len = 0 → x.arg0 = k.val → Claims.slotsWhole s →
     let y := s.body.slot p k
     let refuses (st : W16) : Prop := exec (.invoke x) s = .next (s.answer s.own (s.commanded 0x0103 x) x st 0 [])
     let waiting := y.invoke.isSome = true ∨ y.guest.isSome = true
     let starts (t : State) : Prop := exec (.invoke x) s = .next t ∧ t.own = s.own ∧ (t.body.slot p k).invoke = some (xTicket x) ∧
       (t.body.slot p k).run = .running ∧ (∀ e, (t.body.slot p k).count e = 0) ∧
       (∀ l ∈ (t.body.slot p k).bts, l.swap = false) ∧ (t.body.slot p k).decision = 0 ∧ (t.body.part p).decision = 0
     let free := s.body.rivals p k |>.all fun i => (s.body.slot p i).ctx != .resident
     (y.loaded = false → refuses stBounds) ∧
     (y.loaded = true → waiting → refuses stBusy) ∧
     (y.loaded = true → ¬ waiting → y.hostSlot ≠ 0xFF → exec (.invoke x) s = .next (s.promise s.own
       ((s.commandedWith 0x0103 x).updSlot p k fun y => { y with guest := some (xTicket x) }) x)) ∧
     (y.loaded = true → ¬ waiting → y.hostSlot = 0xFF → s.body.heldBy p k ≠ [] → refuses stBusy) ∧
     (y.loaded = true → ¬ waiting → y.hostSlot = 0xFF → s.body.heldBy p k = [] →
       (startRefused s.own s.body p k = true → refuses stBounds) ∧
       (startRefused s.own s.body p k = false →
         (y.run = .saving → exec (.invoke x) s = .next (s.promise s.own
           ((s.commandedWith 0x0103 x).updSlot p k fun y => { y with invoke := some (xTicket x) }) x)) ∧
         (y.run ≠ .saving → y.ctx = .resident → y.preempts = [] →
           ∃ t, starts t ∧
             (∀ c, (s.body.core c).ctx = some ⟨p, k⟩ → (t.body.core c).cx = { CoreCtx.idle with seq := .running }) ∧
             (∀ c, (s.body.core c).ctx ≠ some ⟨p, k⟩ → t.body.core c = s.body.core c) ∧
             (∀ a, t.body.mem.byte a = if inRanges ((normRegion y.image).toList.map fun n => (n, 0x5000)) a then 0
               else s.body.mem.byte a)) ∧
         (y.run ≠ .saving → y.ctx = .unrun → free = true → s.body.zeroingCores y.image = false → y.preempts = [] →
           s.body.cores.length = 32 →
           ∃ t, starts t ∧ (t.body.slot p k).ctx = .resident ∧
             (∀ c : Fin 32, (hdrOf y.image).cores.testBit c.val = true → (t.body.core c).ctx = some ⟨p, k⟩ ∧
               (t.body.core c).cx = { CoreCtx.idle with seq := .running }) ∧
             (∀ a, t.body.mem.byte a = if inRanges (keepRanges y.image ++ pressRanges y.image ++
                 (normRegion y.image).toList.map fun n => (n, 0x5000)) a then 0 else s.body.mem.byte a)) ∧
         (y.run ≠ .saving → (y.ctx = .saved ∨ (y.ctx = .unrun ∧ (free = false ∨ s.body.zeroingCores y.image = true))) →
           exec (.invoke x) s = .next (s.promise s.own ((s.commandedWith 0x0103 x).updSlot p k fun y =>
             { y with invoke := some (xTicket x), run := .restoring, resuming := false }) x))))) ∧
  (∀ (s : State) (p : Fin 8) (k : Fin 4), s.body.clocked = true →
     (((s.body.slot p k).run ∉ [.running, .stopping] ∨ s.body.allEnded ⟨p, k⟩ = false) →
       exec (.invocationComplete p k) s = .next s) ∧
     ((s.body.slot p k).run ∈ [.running, .stopping] → s.body.allEnded ⟨p, k⟩ = true → Claims.slotsWhole s →
       ∃ t, exec (.invocationComplete p k) s = .next t ∧ t.own = s.own ∧ t.body.mem = s.body.mem ∧
         (∀ c, (s.body.core c).ctx = some ⟨p, k⟩ → (t.body.core c).invoc = (s.body.core c).invoc + 1 ∧
           (t.body.core c).cx.seq = .idle ∧ (t.body.core c).ctx = some ⟨p, k⟩) ∧
         (∀ c, (s.body.core c).ctx ≠ some ⟨p, k⟩ → t.body.core c = s.body.core c) ∧ (t.body.slot p k).invoke = none ∧
         (t.body.slot p k).run = (if (s.body.slot p k).preempts = [] ∧ (s.body.slot p k).hostSlot = 0xFF then .idle else .saving) ∧
         (∀ k1, (s.body.slot p k).invoke = some k1 → s.body.mail.length = 9 → (∀ l ∈ s.body.mail, l.length = 4) →
           let y := s.body.slot p k
           (t.body.mailbox k1.page k1.mb).resp = respBytes y.endStatus k1.tag 0 (leBytes 2 y.endStatus.toNat ++
             [BitVec.ofNat 8 y.decision.toNat, if y.repaired then 1 else 0, 0xFF, 0, 0xFF, 0xFF])))) ∧
  (∀ (s : State) (x : Xnx) (p : Fin 8) (k : Fin 4), s.takesOn x p = true → x.len = 0 → x.arg0 = k.val → Claims.slotsWhole s →
     let y := s.body.slot p k
     let nothing := y.loaded = false ∨ (y.run = .preempted ∧ y.underGuest = none) ∨ (y.run = .idle ∧ y.ctx ≠ .resident)
     (y.loaded = true → y.run ∈ [.running, .held] → ∃ t, exec (.preempt x) s = .next t ∧ t.own = s.own ∧
       t.body.mem = (s.commandedWith 0x0104 x).mem ∧
       (t.body.slot p k).run = .stopping ∧ (t.body.slot p k).preempts = y.preempts ++ [xTicket x] ∧ (t.body.slot p k).invoke = y.invoke ∧
       (∀ q, ∀ j ∈ (t.body.quad q).rindQ ++ (t.body.quad q).xfQ ++ (t.body.quad q).udQ, j.ctx ≠ ⟨p, k⟩) ∧
       (∀ r ∈ (t.body.part p).collRuns, r.ctx = ⟨p, k⟩ → r.started = true)) ∧
     (y.loaded = true → (y.run ∈ [.stopping, .saving, .restoring] ∨ (y.run = .preempted ∧ y.underGuest.isSome = true)) →
       exec (.preempt x) s = .next (s.promise s.own ((s.commandedWith 0x0104 x).updSlot p k fun z =>
         { z with preempts := z.preempts ++ [xTicket x] }) x)) ∧
     (y.loaded = true → y.run = .idle → y.ctx = .resident →
       exec (.preempt x) s = .next (s.promise s.own ((s.commandedWith 0x0104 x).updSlot p k fun z =>
         { z with run := .saving, preempts := z.preempts ++ [xTicket x] }) x)) ∧
     (nothing → exec (.preempt x) s = .next (s.answer s.own (s.commandedWith 0x0104 x) x stOk 0 [])) ∧
     ((y.run ≠ .preempted ∨ y.underGuest.isSome = true) →
       exec (.resume x) s = .next (s.answer s.own (s.commandedWith 0x0105 x) x stOk 0 [])) ∧
     (y.run = .preempted → y.underGuest = none →
       (s.body.heldBy p k ≠ [] → exec (.resume x) s = .next (s.answer s.own (s.commanded 0x0105 x) x stBusy 0 [])) ∧
       (s.body.heldBy p k = [] → exec (.resume x) s = .next (s.answer s.own
         ((s.commandedWith 0x0105 x).updSlot p k fun z => { z with run := .restoring, resuming := true }) x stOk 0 [])))) ∧
  ((∀ (s : State) (p : Fin 8) (k : Fin 4) (found : Found), Claims.slotsWhole s → s.body.clocked = true →
     let y := s.body.slot p k
     let b := s.body.upset found
     let ready := s.body.storeFlows s.own p = true ∧ (y.run = .saving ∨ (y.run = .stopping ∧ canSave s.body ⟨p, k⟩ = true))
     let part := y.run = .stopping ∧ y.underGuest.isSome = true ∧ y.preempts = []
     let area := s.body.savedArea s.own ⟨p, k⟩ (decide (y.run = .stopping) && y.underGuest.isSome && y.preempts == [])
     (¬ ready → exec (.contextSaveComplete p ⟨k, found⟩) s = .next { s with body := b }) ∧
     (ready → ∃ t, exec (.contextSaveComplete p ⟨k, found⟩) s = .next t ∧ t.own = s.own ∧ s.sameOutside t area.1 area.2 ∧
       (t.body.slot p k).ctx = .saved ∧ (t.body.slot p k).preempts = [] ∧ (∀ c, (t.body.core c).ctx ≠ some ⟨p, k⟩) ∧
       (t.body.slot p k).invoke = y.invoke ∧
       (t.body.slot p k).run = (if y.run = .stopping then .preempted else if y.invoke.isSome then .restoring else .idle) ∧
       (part → (t.body.slot p k).underGuest = y.underGuest) ∧ (y.run = .stopping → ¬ part → (t.body.slot p k).underGuest = none) ∧
       (b.mem.upsets = [] → ∀ c, (s.body.core c).ctx ≠ some ⟨p, k⟩ → t.body.core c = s.body.core c))) ∧
   (∀ (s : State) (p : Fin 8) (k : Fin 4) (found : Found), s.body.clocked = true →
     let y := s.body.slot p k
     let x : CtxId := ⟨p, k⟩
     let b := s.body.upset found
     let back := y.run = .preempted ∧ ∃ g, y.underGuest = some g ∧ s.body.guestGone p g = true
     ((y.run ≠ .restoring ∧ ¬ back ∨ s.body.mayRestore s.own p k = false) →
       exec (.contextRestoreComplete p ⟨k, found⟩) s = .next { s with body := b }) ∧
     (s.body.mayRestore s.own p k = true → (y.run = .restoring ∨ back) →
       let reads := if y.ctx = .saved then [s.body.savedArea s.own x (decide (y.run = .preempted))] else []
       let c := b.correctedIn s.own reads
       (∀ w, b.firstBad s.own reads = some w → exec (.contextRestoreComplete p ⟨k, found⟩) s =
         .next { s with body := b.stewardBad s.own p w }) ∧
       (b.firstBad s.own reads = none →
         (back → exec (.contextRestoreComplete p ⟨k, found⟩) s =
           .next { s with body := resumeRun s.own (restoreContext s.own c x true) p k }) ∧
         (y.run = .restoring → y.resuming = true → exec (.contextRestoreComplete p ⟨k, found⟩) s =
           .next { s with body := resumeRun s.own (makeResident s.own c x) p k }) ∧
         (y.run = .restoring → y.resuming = false → exec (.contextRestoreComplete p ⟨k, found⟩) s =
           .next { s with body := startRun (makeResident s.own c x) p k })))))

/-- A context that is saved and later restored to go on has every byte of its KEEP regions, batch-table slots and presses back as it
was, whatever happened to them in between, and every other byte as it then was (R134, R168, R428): shown for a save area that lies apart
from them, and that can be read when it is restored. -/
def Obligations.SaveThenRestoreGivesBack : Prop :=
  ∀ (s t u : State) (p : Fin 8) (k : Fin 4), Claims.slotsWhole s → s.body.clocked = true → s.body.mem.wf = true →
    (s.body.slot p k).run = .stopping → canSave s.body ⟨p, k⟩ = true → s.body.storeFlows s.own p = true →
    (s.body.slot p k).underGuest = none →
    (∀ a, inRanges (saveRanges (s.body.slot p k).image) a = true → inRanges [s.body.savedArea s.own ⟨p, k⟩ false] a = false) →
    exec (.contextSaveComplete p ⟨k, []⟩) s = .next t →
    Claims.slotsWhole u → u.body.clocked = true → u.body.slot p k = { t.body.slot p k with run := .restoring, resuming := true } →
    u.body.rivals p k = [] → u.body.mayRestore u.own p k = true →
    u.body.firstBad u.own [u.body.savedArea u.own ⟨p, k⟩ false] = none →
    ∃ v, exec (.contextRestoreComplete p ⟨k, []⟩) u = .next v ∧
      ∀ a, v.body.mem.byte a = if inRanges (saveRanges (s.body.slot p k).image) a then s.body.mem.byte a else u.body.mem.byte a

/-- BT_COMMIT of a list with no swap pending and a readable inactive slot: a slot whose walk passes is committed (its swap is made at
the next start or BT_COMMIT entry), one whose walk fails is refused with REFUSED_BOUNDS and the failing entry, one that cannot be read ends
FAULT_ECC_UNCORR with the entry; with a swap pending it is BUSY; a list that the almanac does not have, and a slot that is not loaded, are
REFUSED_BOUNDS; a saved context's slot is read where it was saved, and on a tripped module not at all (R117, R118, R120, R227, R512). -/
def Obligations.BatchTableCommit : Prop :=
  ∀ (s : State) (x : Xnx) (p : Fin 8) (k : Fin 4), s.takesOn x p = true → x.len = 2 → x.arg0 = k.val →
    let y := s.body.slot p k
    let refuses (st : W16) (d : Nat) : Prop := exec (.btCommit x) s = .next (s.answer s.own (s.commanded 0x0106 x) x st d [])
    ((y.loaded = false ∨ btFind y.image (xArg x 0 2) = none) → refuses stBounds 0) ∧
    ∀ r, y.loaded = true → btFind y.image (xArg x 0 2) = some r →
      let l := y.bt r.id
      let a := r.inactive l
      let b := s.commandedWith 0x0106 x
      (l.swap = true → refuses stBusy 0) ∧
      (l.swap = false → y.ctx = .saved → s.body.board.tripped = true → exec (.btCommit x) s = .next (s.promise s.own b x)) ∧
      (l.swap = false → y.ctx = .saved → s.body.board.tripped = false →
        b.firstBad s.own [s.body.savedArea s.own ⟨p, k⟩ y.underGuest.isSome] = none →
        let m : Mem := { b.mem with cells := y.save.cells, poison := y.save.poison, upsets := [] }
        btUnread s.own m a (btReached m r a r.maxEnt 0) = none →
        (∀ i, btWalk m r a r.maxEnt 0 = some i → refuses stBounds i) ∧
        (btWalk m r a r.maxEnt 0 = none → Claims.slotsWhole s → ∃ t, exec (.btCommit x) s = .next t ∧ t.own = s.own ∧
          ((t.body.slot p k).bt r.id).swap = true ∧ (∀ z, t.body.mem.byte z = s.body.mem.byte z))) ∧
      (l.swap = false → y.ctx ≠ .saved →
        let reached := btReached b.mem r a r.maxEnt 0
        let c := b.correctedIn s.own (reached.map fun i => (a + 16 * i, 16))
        (∀ i w, btUnread s.own b.mem a reached = some (i, w) →
          exec (.btCommit x) s = .next (s.answer s.own (c.stewardBad s.own p w) x ftEcc i [])) ∧
        (btUnread s.own b.mem a reached = none →
          (∀ i, btWalk b.mem r a r.maxEnt 0 = some i → refuses stBounds i) ∧
          (btWalk b.mem r a r.maxEnt 0 = none → exec (.btCommit x) s = .next (s.answer s.own (c.updSlot p k fun y =>
            y.updBt r.id fun l => { l with swap := true }) x stOk 0 []))))

/-! ### Sequencers (R117, R118, R120, R125 to R135, R272, R473) -/

/-- Nothing outside the engines and memory changes: ownership, board, ports, mailboxes, links, backup registers, outputs. -/
def Claims.quiet (s t : State) : Prop :=
  t.own = s.own ∧ t.pending = s.pending ∧ t.body.board = s.body.board ∧ t.body.ports = s.body.ports ∧ t.body.mail = s.body.mail ∧
    t.body.fab = s.body.fab ∧ t.body.bkp = s.body.bkp ∧ t.body.out = s.body.out

/-- The byte at an address after a list of writes, made in order. -/
def Claims.after (m : Mem) (ws : List (Nat × List Byte)) (a : Nat) : Byte :=
  ws.foldl (fun v w => if w.1 ≤ a ∧ a < w.1 + w.2.length then w.2.getD (a - w.1) 0 else v) (m.byte a)

/-- t's memory is s's with these writes made, in order, and no other byte changed. -/
def Claims.stored (s t : State) (ws : List (Nat × List Byte)) : Prop := ∀ a, t.body.mem.byte a = Claims.after s.body.mem ws a

/-- Memory is sound, no older request waits for a unit that a requester's writes touch, and the memories refuse none of them: it may
reach every byte of them, and none lies in a protected batch-table slot (R19, R119, R120, R218). -/
def Claims.unguarded (s : State) (who : Requester) (ws : List (Nat × List Byte)) : Prop :=
  s.body.mem.sound = true ∧ ∀ w ∈ joinWrites (ws.map whole),
    s.body.refusedIn s.own who w.1 w.2.length = none ∧ s.body.noneWaits w.1 w.2.length = true

/-- One event of an invocation is counted once, and no other (R126); none for 0xFF. -/
def Claims.counts (s t : State) (x : CtxId) (evt : Nat) : Prop :=
  ∀ e, (t.body.slot x.part x.slot).count e = (s.body.slot x.part x.slot).count e + (if e = evt ∧ evt ≠ 0xFF then 1 else 0)

/-- The block is clocked, and what a core's sequencer reads to issue its next entry (the entry and its descriptor, in the almanac store)
is admitted by its stack and meets no error (R99, R216, R226, R451). -/
def Claims.fetched (s : State) (c : Fin 32) : Prop :=
  s.body.clocked = true ∧ s.body.flows s.own (s.body.fetchReads s.own c) = true ∧
    s.body.firstBad s.own (s.body.fetchReads s.own c) = none ∧
    upsetsIn s.own.maps s.body.mem.upsets .corrected (s.body.fetchReads s.own c) = []

/-- No core of a context has a tile in its engines or a write-out under way. -/
def Claims.noTiles (s : State) (x : CtxId) : Prop :=
  ∀ d, (s.body.core d).ctx = some x → (s.body.core d).cx.tile = none ∧ (s.body.core d).cx.outs = []

/-- The entries that a sequencer handles itself, its reads, and its pre-emption points.

An entry is issued only when what its sequencer reads for it is admitted: before, nothing happens; a read that meets an
uncorrectable error is the store's, and resets the partition (R171, R216, R226, R437). With no entry of a command's kind next (another
kind, no context, a core that waits, has ended, is stopped or runs its known-answer tile), nothing happens (R125, R133, R473).

WAIT passes when its event has reached ARG and else blocks, in both cases having been issued; WAIT_RELEASE unblocks it once the
event has, while the invocation runs, and does nothing else; SIGNAL counts its event and completes at issue. Nothing else changes but
what the sequencer's own reads count (R125, R126, R216).

The BT_COMMIT entry: with a commit pending, or with a walk of the inactive slot that passes, the list's slots swap and the list is
no longer empty; with a walk that fails at entry i the list counts as empty, SEQ_STAT.BTREF is set and a record names list and
entry; in both cases the entry completes. With sixteen entries out it is not issued (R117, R118, R120, R125, R126).

SLOT completes at once. With a guest's INVOKE waiting that may start, the training invocation stops and the guest waits for its
cores; a guest that may not start is refused, with REFUSED_BOUNDS, and the training invocation goes on (R11, R125, R253, R272).

END is issued and, once every earlier entry has completed, the invocation runs or stops and its flush is admitted, ends the list,
flushes the core's live accumulators and counts its event; before that nothing happens (R125, R133, R152, R226).

A core of an invocation that is being pre-empted stops once no tile of it is within its span and no write-out is under way: without
a VEC entry to move on nothing but its STATE changes; a VEC entry stops before the row named, or where it stands. One within a span, one
that does not run, and one whose invocation is not being pre-empted go on (R133, R147). -/
def Obligations.SequencerEntries : Prop :=
  (∀ (s : State) (c : Fin 32) (cmd : Instr) (kind : Nat), s.body.clocked = true →
     (cmd, kind) ∈ [(Instr.wait c, kWait), (.signal c, kSignal), (.btCommitEntry c, kBtCommit), (.slot c, kSlot), (.end_ c, kEnd),
       (.tile c [], kTile), (.vec c [], kVec), (.xform c, kXform), (.upd c, kUpd), (.coll c, kColl), (.media c, kMedia)] →
     let reads := s.body.fetchReads s.own c
     (s.body.flows s.own reads = false → exec cmd s = .next s) ∧
     (∀ x w, s.body.flows s.own reads = true → s.body.holds c = some x → s.body.firstBad s.own reads = some w →
       exec cmd s = .next { s with body := s.body.readBad s.own (entryOf x c (s.body.core c).cx.aeIdx.toNat) w }) ∧
     (s.body.flows s.own reads = true → s.body.firstBad s.own reads = none → s.body.nextAe c kind = none → exec cmd s = .next s)) ∧
  ((∀ (s : State) (c : Fin 32) (x : CtxId) (e : Ae), Claims.fetched s c → s.body.nextAe c kWait = some (x, e) →
     (e.arg ≤ (s.body.slot x.part x.slot).count e.evt → exec (.wait c) s = .next { s with
       body := (s.body.updCx c fun k => { k with aeIdx := k.aeIdx + 1 }).stewardRead s.own (s.body.fetchReads s.own c) }) ∧
     ((s.body.slot x.part x.slot).count e.evt < e.arg → ∃ t, exec (.wait c) s = .next t ∧ Claims.quiet s t ∧
       t.body.mem = s.body.mem ∧ t.body.parts = s.body.parts ∧ (t.body.core c).cx.aeIdx = (s.body.core c).cx.aeIdx + 1 ∧
       (t.body.core c).cx.waiting.map (fun w => (w.idx, w.evt.toNat, w.ref, w.counter)) =
         some ((s.body.core c).cx.aeIdx.toNat, e.evt % 256, e.arg, 0) ∧
       (t.body.core c).cx.launched = (s.body.core c).cx.launched)) ∧
   (∀ (s : State) (c : Fin 32) (x : CtxId) (w : Launched), s.body.clocked = true → s.body.holds c = some x →
     (s.body.core c).cx.waiting = some w →
     ((s.body.slot x.part x.slot).run = .running → w.ref ≤ (s.body.slot x.part x.slot).count w.evt.toNat →
       exec (.waitRelease c) s = .next { s with body := s.body.updCx c fun k => { k with waiting := none } }) ∧
     (((s.body.slot x.part x.slot).run ≠ .running ∨ (s.body.slot x.part x.slot).count w.evt.toNat < w.ref) →
       exec (.waitRelease c) s = .next s)) ∧
   (∀ (s : State) (c : Fin 32), s.body.clocked = true → (s.body.holds c = none ∨ (s.body.core c).cx.waiting = none) →
     exec (.waitRelease c) s = .next s) ∧
   (∀ (s : State) (c : Fin 32) (x : CtxId) (e : Ae), Claims.fetched s c → s.body.nextAe c kSignal = some (x, e) →
     ∃ t, exec (.signal c) s = .next t ∧ Claims.quiet s t ∧ t.body.mem = s.body.mem ∧ Claims.counts s t x e.evt ∧
       (t.body.core c).cx = { (s.body.core c).cx with aeIdx := (s.body.core c).cx.aeIdx + 1 } ∧
       ∀ d, d ≠ c → t.body.core d = s.body.core d)) ∧
  (∀ (s : State) (c : Fin 32) (x : CtxId) (e : Ae), Claims.fetched s c → s.body.nextAe c kBtCommit = some (x, e) →
     (s.body.mayLaunch c = false → exec (.btCommitEntry c) s = .next s) ∧
     ∀ (r : BtRec), s.body.mayLaunch c = true →
     (∀ l ∈ (s.body.core c).cx.launched, l.idx ≠ (s.body.core c).cx.aeIdx.toNat) → e.evt < 256 →
     btFind (s.body.imageOf x) e.arg = some r → (s.body.slot x.part x.slot).bts.any (·.id == r.id) = true → s.body.mem.sound = true →
     let l := (s.body.slot x.part x.slot).bt r.id
     ∃ t, exec (.btCommitEntry c) s = .next t ∧ t.own = s.own ∧ t.body.mem = s.body.mem ∧ Claims.counts s t x e.evt ∧
       (t.body.core c).cx.aeIdx = (s.body.core c).cx.aeIdx + 1 ∧ (t.body.core c).cx.launched = (s.body.core c).cx.launched ∧
       ((l.swap = true ∨ btWalk s.body.mem r (r.inactive l) r.maxEnt 0 = none) → Claims.quiet s t ∧
         (t.body.slot x.part x.slot).bt r.id = ⟨l.id, !l.slot1, false, false⟩ ∧
         (t.body.core c).cx.btref = (s.body.core c).cx.btref) ∧
       (∀ i, l.swap = false → btWalk s.body.mem r (r.inactive l) r.maxEnt 0 = some i →
         (t.body.slot x.part x.slot).bt r.id = { l with empty := true } ∧ (t.body.core c).cx.btref = true ∧
         ((s.body.part x.part).events.length < 1024 → (t.body.part x.part).events = (s.body.part x.part).events ++
           [faultRecord 2 stBounds (0, c.val) (r.id * 2 ^ 32 + i) s.body.fab.time]))) ∧
  (∀ (s : State) (c : Fin 32) (x : CtxId) (e : Ae), Claims.fetched s c → s.body.nextAe c kSlot = some (x, e) →
     ∃ t, exec (.slot c) s = .next t ∧ t.own = s.own ∧ t.body.mem = s.body.mem ∧ Claims.counts s t x e.evt ∧
       (t.body.core c).cx.aeIdx = (s.body.core c).cx.aeIdx + 1 ∧
       (s.body.guestWaiting x.part x.slot = none → Claims.quiet s t ∧ (t.body.core c).cx.seq = .running ∧
         (t.body.slot x.part x.slot).run = .running) ∧
       (∀ g, s.body.guestWaiting x.part x.slot = some g → g ≠ x.slot → Claims.slotsWhole s →
         (startRefused s.own s.body x.part g = false → Claims.quiet s t ∧ (t.body.core c).cx.seq = .preempted ∧
           (t.body.slot x.part x.slot).run = .stopping ∧ (t.body.slot x.part x.slot).underGuest = some g ∧
           (t.body.slot x.part g).run = .restoring ∧ (t.body.slot x.part g).invoke = (s.body.slot x.part g).guest ∧
           (t.body.slot x.part g).guest = none) ∧
         (startRefused s.own s.body x.part g = true → (t.body.core c).cx.seq = .running ∧
           (t.body.slot x.part x.slot).run = .running ∧ (t.body.slot x.part g).guest = none ∧
           (t.body.slot x.part g).ctx = (s.body.slot x.part g).ctx ∧
           ∀ k1, (s.body.slot x.part g).guest = some k1 → s.body.mail.length = 9 → (∀ m ∈ s.body.mail, m.length = 4) →
             (t.body.mailbox k1.page k1.mb).resp = respBytes stBounds k1.tag 0 (invokeResult stBounds
               (s.body.slot x.part g).decision false 0xFF 0xFFFF)))) ∧
  ((∀ (s : State) (c : Fin 32) (x : CtxId) (e : Ae), Claims.fetched s c → s.body.nextAe c kEnd = some (x, e) →
     exec (.end_ c) s = .next { s with body :=
       (s.body.updCx c fun k => { k with aeIdx := k.aeIdx + 1 }).stewardRead s.own (s.body.fetchReads s.own c) }) ∧
   (∀ (s : State) (c : Fin 32), s.body.clocked = true → s.body.holds c = none → exec (.endComplete c) s = .next s) ∧
   (∀ (s : State) (c : Fin 32) (x : CtxId), s.body.clocked = true → s.body.holds c = some x →
     let e := aeOf (s.body.imageOf x) c.val ((s.body.core c).cx.aeIdx.toNat - 1)
     let may := ((s.body.slot x.part x.slot).run = .running ∨ (s.body.slot x.part x.slot).run = .stopping) ∧
       (s.body.core c).cx.listDone (s.body.imageOf x) c.val = true ∧ e.kind = kEnd ∧ s.body.flushFlows s.own x.part c = true
     (¬ may → exec (.endComplete c) s = .next s) ∧
     (may → (∀ tab h, (s.body.part x.part).harvTab = some tab → h ∈ (s.body.core c).cx.harv →
         s.body.noneWaits (tab + (h.tag.toNat * 36 + c.val) * 64) 64 = true) →
       ∃ t, exec (.endComplete c) s = .next t ∧ Claims.quiet s t ∧ Claims.counts s t x e.evt ∧
         (t.body.core c).cx = { (s.body.core c).cx with flushes := [], harv := [], ended := true } ∧
         (∀ a, (∀ tab h, (s.body.part x.part).harvTab = some tab → h ∈ (s.body.core c).cx.harv →
           ¬ (tab + (h.tag.toNat * 36 + c.val) * 64 ≤ a ∧ a < tab + (h.tag.toNat * 36 + c.val) * 64 + 64)) →
           t.body.mem.byte a = s.body.mem.byte a)))) ∧
  (∀ (s : State) (c : Fin 32) (row : Nat), s.body.clocked = true →
     ((s.body.core c).ctx = none → exec (.preemptionPoint c row) s = .next s) ∧
     ∀ x, (s.body.core c).ctx = some x →
       let may := (s.body.slot x.part x.slot).run = .stopping ∧ (s.body.core c).cx.seq = .running ∧ (s.body.core c).cx.quiet = true
       (¬ may → exec (.preemptionPoint c row) s = .next s) ∧
       (may → (s.body.core c).cx.vec = none → exec (.preemptionPoint c row) s = .next { s with
         body := s.body.updCx c fun k => { k with seq := .preempted } }) ∧
       (∀ v l, may → (s.body.core c).cx.vec = some v → (s.body.core c).cx.launched.find? (·.idx == v.idx) = some l →
         s.body.mem.sound = true →
         ∃ t, exec (.preemptionPoint c row) s = .next t ∧ t.own = s.own ∧ (t.body.core c).cx.seq = .preempted ∧
           (t.body.core c).cx.launched = (s.body.core c).cx.launched ∧
           (t.body.core c).cx.vec.map (fun w => (w.idx, w.row)) =
             some (v.idx, min (vpOf (s.body.imageOf x) l.ref).rows (max row v.row))))

/-- Bounds and the known-answer tile: the faults that a core's own work raises.

An entry whose counter has passed its BOUND halts its core with OVR set (the first such entry of the core recorded), appends a
FAULT_OVERRUN record naming it, and tears its job down: the context is unrun with its almanac still loaded, no core holds it, and
INVOKE ends with FAULT_OVERRUN, the core and the entry; every core of the job with another entry past its bound shows OVR too. DRAM is
untouched where no transform of the job runs and no tile of it has a write-out to finish. Within its bound, and for an entry that is
not out, nothing happens (R128, R130, R199, R411, R414, R435, R437).

The known-answer tile on a clocked core in service that stands between spans: its sequencer stands for the tile's 2,048 cycles,
which count as PREEMPT (R323); a core that passes is otherwise untouched; one that fails is withdrawn and its partition is reset,
FAULT_KAT standing as the one record of its event queue, or joining a reset under way. A core that is not in service, has no clock,
is within a span or already runs the tile does not begin it (R80, R436, R437, R440, R473, R474). -/
def Obligations.OverrunAndKnownAnswer : Prop :=
  ((∀ (s : State) (c : Fin 32) (ae : Nat), s.body.clocked = true →
     ((s.body.core c).ctx = none ∨ (s.body.core c).cx.timed ae = none) → exec (.boundOverrun c ae) s = .next s) ∧
   ∀ (s : State) (c : Fin 32) (ae : Nat) (x : CtxId) (l : Launched), s.body.clocked = true → (s.body.core c).ctx = some x →
     (s.body.core c).cx.timed ae = some l →
     (l.counter ≤ l.bound → exec (.boundOverrun c ae) s = .next s) ∧
     (l.bound < l.counter → Claims.slotsWhole s → (s.body.mem.sound = true ∨ Claims.noTiles s x) →
       ∃ t, exec (.boundOverrun c ae) s = .next t ∧ t.own = s.own ∧
         (t.body.core c).cx.ovr = true ∧ (t.body.core c).cx.seq = .halted ∧
         ((s.body.core c).cx.ovr = false → (t.body.core c).cx.ovrAe = BitVec.ofNat 16 ae ∧ (t.body.core c).cx.ovrKind = l.kind) ∧
         ((s.body.core c).cx.ovr = true → (t.body.core c).cx.ovrAe = (s.body.core c).cx.ovrAe) ∧
         (∀ d m, (s.body.core d).ctx = some x → m ∈ (s.body.core d).cx.launched → m.bound < m.counter →
           (t.body.core d).cx.ovr = true) ∧
         (∀ d, (t.body.core d).ctx ≠ some x) ∧ (t.body.slot x.part x.slot).ctx = .unrun ∧
         (t.body.slot x.part x.slot).invoke = none ∧ (t.body.slot x.part x.slot).loaded = (s.body.slot x.part x.slot).loaded ∧
         (Claims.noTiles s x → (∀ q ∈ s.body.quads, ∀ j ∈ q.xfRun, j.ctx ≠ x) →
           ∀ a, a < 0xD800000000 → t.body.mem.byte a = s.body.mem.byte a) ∧
         ((s.body.part x.part).events.length < 1024 →
           faultRecord 1 0x0204 (0, c.val) ae (s.body.fab.time % 2 ^ 64) ∈ (t.body.part x.part).events) ∧
         (∀ k1, (s.body.slot x.part x.slot).invoke = some k1 → (s.body.slot x.part x.slot).preempts = [] →
           (s.body.slot x.part x.slot).replTicket = none → s.body.mail.length = 9 → (∀ m ∈ s.body.mail, m.length = 4) →
           (t.body.mailbox k1.page k1.mb).resp = respBytes 0x0204 k1.tag 0 (invokeResult 0x0204
             (s.body.slot x.part x.slot).decision (s.body.slot x.part x.slot).repaired (BitVec.ofNat 8 c.val) (BitVec.ofNat 16 ae))))) ∧
  (∀ (s : State) (c : Fin 32), s.body.clocked = true →
     let begins := s.body.board.phase = .ready ∧ (s.body.core c).clk ≠ 0 ∧ (s.body.core c).relock = false ∧ (s.body.core c).kat = 0 ∧
       (s.body.core c).cx.quiet = true ∧ s.body.board.cause.coreOut.toNat.testBit c.val = false
     (¬ begins → ∀ pass, exec (.katTile c pass) s = .next s) ∧
     (begins →
       exec (.katTile c true) s = .next { s with body := s.body.updCore c fun k => { k with kat := 2048 } } ∧
       (s.own.coreOwner c.val = none → exec (.katTile c false) s = .next { s with
         body := (s.body.updCore c fun k => { k with kat := 2048 }).updBoard fun y =>
           { y with cause := { y.cause with coreOut := y.cause.coreOut ||| BitVec.ofNat 32 (2 ^ c.val) } } }) ∧
       (∀ p, s.own.coreOwner c.val = some p → s.body.parts.length = 8 →
         let rec_ := faultRecord 1 0x020A (0, c.val) (s.body.core c).cx.aeIdx.toNat (s.body.fab.time % 2 ^ 64)
         ∃ t, exec (.katTile c false) s = .next t ∧ t.own = s.own ∧ t.body.board.cause.coreOut.toNat.testBit c.val = true ∧
           (∀ q, q ≠ p → t.body.part q = s.body.part q) ∧
           ((s.body.part p).resetting = false → (t.body.part p).events = [rec_] ∧ (∀ k, t.body.slot p k = Slot.empty) ∧
             ((∀ q ∈ s.body.quads, ∀ j ∈ q.xfRun, j.ctx.part ≠ p) →
               ∀ a, a < 0xD800000000 → t.body.mem.byte a = s.body.mem.byte a)) ∧
           ((s.body.part p).resetting = true → t.body.mem = s.body.mem ∧ (∀ k, t.body.slot p k = s.body.slot p k) ∧
             ((s.body.part p).events.length < 1024 → (t.body.part p).events = (s.body.part p).events ++ [rec_])))))

/-! ### Tiles (R95, R106, R109, R114, R118, R121 to R126, R131) -/

/-- Tiles: issue, list pieces, results and write-outs.

A TILE entry whose operands can be read is launched: a matrix tile without a list begins its one piece, its press range waiting
for no write-out; with a list over a slot that counts as empty the entry completes at once, else its first list entry is read
next; a rind tile joins its quadrant's queue. Memory is unchanged. With sixteen entries out, with a tile in the engines, with a
write-out of the press range to come, or with a rind job of the core outstanding, it is not issued (R95, R114, R118, R121, R125).

The next list entry of a tile over a batch table is read: a piece with LEN above RAG_OFS (or no ragged dimension, which is the
model's choice, log entry 116) runs with the entry's BASE, OBASE, LEN and NEXT, counted in SEQ_RUN; another is leapt, counted in
SEQ_LEAP, and writes no memory but the press range that a K leap with ACC = 0 clears. Nothing happens while a write-out of the press range is to come, a piece runs, or the
core or its invocation does not run (R114, R121 to R123, R135).

A piece's last step: the press holds the results, element by element, and no other byte of memory changes; the core counts the
overflows; the first overflow of a context is recorded in AOVF_AE; the entry's tile goes on to its next list entry or leaves the
engines (R44, R54, R77, R109, R123, R131). The end of a write-out: the rows, converted to FMT_O, and the flag bitmap are in memory, and
no other byte changes; the core counts its conversions' saturations and non-finite values (R52, R54, R114). With no piece running, or
no write-out to come, nothing happens. -/
def Obligations.Tiles : Prop :=
  (∀ (s : State) (c : Fin 32) (x : CtxId) (e : Ae), Claims.fetched s c → s.body.nextAe c kTile = some (x, e) →
     let t0 := tdOf (s.body.imageOf x) e.ref
     let reads := s.body.fetchReads s.own c
     let held := s.body.mayLaunch c = false ∨
       if t0.rind then (s.body.quad (quadOf c)).rindOf c = true
       else (s.body.core c).cx.tile ≠ none ∨ (t0.listed = false ∧ pressFree (s.body.imageOf x) (s.body.core c).cx c.val t0 0 = false)
     (held → exec (.tile c []) s = .next s) ∧
     (¬ held → t0.rind = true → s.body.quads.length = 4 →
       ∃ t, exec (.tile c []) s = .next t ∧ Claims.quiet s t ∧ t.body.mem = s.body.mem ∧
         (t.body.core c).cx = (s.body.core c).cx.launch e ∧
         (t.body.quad (quadOf c)).rindQ = (s.body.quad (quadOf c)).rindQ ++ [QJob.new x c (s.body.core c).cx.aeIdx.toNat e 0]) ∧
     (¬ held → t0.rind = false → t0.listed = false → s.body.mem.sound = true →
       exec (.tile c []) s = .next { s with body := (s.body.updCx c fun k =>
         { k.launch e with tile := some ⟨k.aeIdx.toNat, e.ref, false, 0, 0, 0, 0, 0, none, 0xFFFF, true⟩ }).stewardRead s.own reads }) ∧
     (∀ r, ¬ held → t0.rind = false → t0.listed = true → btFind (s.body.imageOf x) t0.btList = some r →
       (((s.body.slot x.part x.slot).bt t0.btList).empty = false →
         exec (.tile c []) s = .next { s with body := (s.body.updCx c fun k =>
           { k.launch e with tile := some ⟨k.aeIdx.toNat, e.ref, true, r.active ((s.body.slot x.part x.slot).bt t0.btList),
             0, 0, 0, 0, none, 0, false⟩ }).stewardRead s.own reads }) ∧
       (((s.body.slot x.part x.slot).bt t0.btList).empty = true → e.evt < 256 →
         (∀ l ∈ (s.body.core c).cx.launched, l.idx ≠ (s.body.core c).cx.aeIdx.toNat) →
         ∃ t, exec (.tile c []) s = .next t ∧ Claims.quiet s t ∧ t.body.mem = s.body.mem ∧ Claims.counts s t x e.evt ∧
           (t.body.core c).cx.launched = (s.body.core c).cx.launched ∧ (t.body.core c).cx.tile = none))) ∧
  ((∀ (s : State) (c : Fin 32), s.body.clocked = true → (s.body.holds c = none ∨ (s.body.core c).cx.tile = none) →
     exec (.listTilePiece c) s = .next s) ∧
   ∀ (s : State) (c : Fin 32) (x : CtxId) (r : TileRun), s.body.clocked = true → s.body.holds c = some x →
     (s.body.core c).cx.tile = some r →
     let t0 := tdOf (s.body.imageOf x) r.td
     let e := btEntryAt s.body.mem r.slot r.cur
     let free := pressFree (s.body.imageOf x) (s.body.core c).cx c.val t0 r.j = true
     let may := r.listed = true ∧ r.running = false ∧ (s.body.slot x.part x.slot).run = .running ∧ (s.body.core c).cx.seq = .running
     (¬ may → exec (.listTilePiece c) s = .next s) ∧
     (may → s.body.mem.sound = true → ¬ free → exec (.listTilePiece c) s = .next s) ∧
     (may → s.body.mem.sound = true → free → (t0.ragDim = 0 ∨ t0.ragOfs < e.len) →
       ∃ t, exec (.listTilePiece c) s = .next t ∧ Claims.quiet s t ∧
         t.body.mem = s.body.mem ∧ t.body.parts = s.body.parts ∧ (t.body.core c).run = satAdd (s.body.core c).run 1 ∧
         (t.body.core c).leap = (s.body.core c).leap ∧ (t.body.core c).cx.tile =
           some { r with base := e.base, obase := e.obase, len := some e.len, next := e.next, running := true }) ∧
     (may → s.body.mem.sound = true → free → t0.ragDim ≠ 0 → e.len ≤ t0.ragOfs →
       ∃ t, exec (.listTilePiece c) s = .next t ∧ Claims.quiet s t ∧
         (t.body.core c).leap = satAdd (s.body.core c).leap 1 ∧ (t.body.core c).run = (s.body.core c).run ∧
         (∀ a, ¬ (t0.ragDim = 3 ∧ t0.acc = false ∧ (t0.pressRange c.val r.j).1 ≤ a ∧
           a < (t0.pressRange c.val r.j).1 + (t0.pressRange c.val r.j).2) → t.body.mem.byte a = s.body.mem.byte a) ∧
         (t0.ragDim = 3 → t0.acc = false → ∀ a, (t0.pressRange c.val r.j).1 ≤ a →
           a < (t0.pressRange c.val r.j).1 + (t0.pressRange c.val r.j).2 → t.body.mem.byte a = 0))) ∧
  ((∀ (s : State) (c : Fin 32), s.body.clocked = true →
     ((s.body.holds c = none ∨ ∀ r, (s.body.core c).cx.tile = some r → r.running = false) → exec (.tileComplete c) s = .next s) ∧
     ((s.body.holds c = none ∨ (s.body.core c).cx.outs = []) → exec (.writeOutComplete c) s = .next s)) ∧
   (∀ (s : State) (c : Fin 32) (x : CtxId) (r : TileRun), s.body.clocked = true → s.body.holds c = some x →
     (s.body.core c).cx.tile = some r → r.running = true → s.body.mem.sound = true →
     let pc := (s.body.slot x.part x.slot).piece s.body.mem r
     let rs := pc.results c.val r.j
     let ovf : Nat := (rs.map fun q => q.2.ovf).sum
     ∃ t, exec (.tileComplete c) s = .next t ∧ Claims.quiet s t ∧
       Claims.stored s t (rs.map fun q => (pc.t.pressAddr c.val r.j q.1.1 q.1.2, pc.t.pressBytes q.2.v)) ∧
       (t.body.core c).cx.aovf = ((s.body.core c).cx.aovf || decide (ovf ≠ 0)) ∧
       ((s.body.core c).cx.aovf = false → ovf ≠ 0 → (t.body.core c).cx.aovfAe = BitVec.ofNat 16 r.idx) ∧
       (t.body.core c).nfOut = satAdd (s.body.core c).nfOut ovf ∧
       (t.body.core c).cx.tile = if r.listed = false ∨ r.next = 0xFFFF then none
         else some { r with j := r.j + 1, cur := r.next, running := false }) ∧
   (∀ (s : State) (c : Fin 32) (x : CtxId) (q : TileOut) (rest : List TileOut), s.body.clocked = true → s.body.holds c = some x →
     (s.body.core c).cx.outs = q :: rest →
     let t0 := tdOf (s.body.imageOf x) q.td
     let vals := t0.outVals s.body.mem c.val q.j (t0.extents q.len)
     Claims.unguarded s (entryOf x c q.idx) (t0.outWrites c.val q.j q.obase (t0.extents q.len) vals) →
     ∃ t, exec (.writeOutComplete c) s = .next t ∧ Claims.quiet s t ∧
       Claims.stored s t (t0.outWrites c.val q.j q.obase (t0.extents q.len) vals) ∧
       (t.body.core c).sat = satAdd (s.body.core c).sat (vals.flatten.countP (·.2.sat)) ∧
       (t.body.core c).nfIn = satAdd (s.body.core c).nfIn (vals.flatten.countP (·.2.nfIn)) ∧
       (t.body.core c).nfOut = satAdd (s.body.core c).nfOut (vals.flatten.countP (·.2.nfOut))))

/-! ### Vector unit and harvest (R138, R142, R146 to R153) -/

/-- The vector unit and the press-side harvest unit.

A VEC entry that finds the unit free and its inputs readable is launched, HARM setting the harvest setting first; it begins at
row 0; memory is unchanged; with the unit taken, or sixteen entries out, it is not issued (R138, R149). Its completion writes only the
elements of its outputs and the flag bitmap of OUT0: every other byte of memory is unchanged; the entry completes, its event counted,
and with HFL its flush is due (R142, R146, R152); with every write admitted it reports nothing. One that has stopped at a pre-emption
point does not end before its context resumes (R147).

A due flush, with a harvest table: the 64-byte record of each live accumulator goes to the table at (tag × 36 + core) × 64 with
the next SEQ of that place, nothing else in memory changes, the accumulators are gone, FLUSHED counts them and LAST_TAG is the greatest
tag of them; without a table nothing is written and DROP counts them. A flush waits for the write-outs of earlier harvested tiles and
for its stacks (R152, R153, R156, R226). -/
def Obligations.VectorAndHarvest : Prop :=
  ((∀ (s : State) (c : Fin 32) (x : CtxId) (e : Ae), Claims.fetched s c → s.body.nextAe c kVec = some (x, e) →
     ((s.body.mayLaunch c = false ∨ (s.body.core c).cx.vec ≠ none) → exec (.vec c []) s = .next s) ∧
     (s.body.mayLaunch c = true → (s.body.core c).cx.vec = none → s.body.mem.sound = true →
       let v := vpOf (s.body.imageOf x) e.ref
       exec (.vec c []) s = .next { s with body := (s.body.updCx c fun k =>
         { (if v.harm then { k with htag := v.htag, hkind := v.hkind } else k).launch e with
           vec := some ⟨(s.body.core c).cx.aeIdx.toNat, 0, [], []⟩ }).stewardRead s.own (s.body.fetchReads s.own c) })) ∧
   (∀ (s : State) (c : Fin 32), s.body.clocked = true →
     (s.body.holds c = none ∨ (s.body.core c).cx.vec = none ∨ (s.body.core c).cx.seq ≠ .running) → exec (.vecComplete c) s = .next s) ∧
   (∀ (s : State) (c : Fin 32) (x : CtxId) (run : VecRun) (l : Launched), s.body.clocked = true → s.body.holds c = some x →
     (s.body.core c).cx.vec = some run →
     (s.body.core c).cx.seq = .running → (s.body.core c).cx.launched.find? (·.idx == run.idx) = some l → s.body.mem.sound = true →
     let v := vpOf (s.body.imageOf x) l.ref
     (∀ i ∈ v.section_ 0 ++ v.section_ 2 ++ v.section_ 4, i.op ≠ 3) →
     (∀ i row, 3 ≤ i → row < v.rows → (0 : Int) ≤ ((v.stream i).base : Int) + row * (v.stream i).stride) →
     ∃ t, exec (.vecComplete c) s = .next t ∧ t.own = s.own ∧ t.body.mail = s.body.mail ∧
       ((∀ i ∈ v.section_ 1 ++ v.section_ 3 ++ v.section_ 5, i.op = 3 → ∀ row ch, row < v.rows → ch < v.chunks →
           s.body.refusedIn s.own (entryOf x c run.idx) (v.elemAddr c.val (3 + i.d) row (ch * 256))
             (min 256 (v.cols - 256 * ch) * elemBytes (v.stream (3 + i.d)).fmt) = none) →
         (∀ f, ∀ w ∈ v.flagWrite c.val f, s.body.refusedIn s.own (entryOf x c run.idx) w.1 w.2.length = none) →
         t.body.board = s.body.board ∧ t.body.out = s.body.out) ∧
       (t.body.core c).cx.vec = none ∧
       (t.body.core c).cx.flushes = (s.body.core c).cx.flushes ++ (if v.hfl then [run.idx] else []) ∧
       Claims.counts s t x l.evt.toNat ∧
       ∀ a, (∀ i row col, 3 ≤ i → row < v.rows → col < v.cols → ¬ (v.elemAddr c.val i row col ≤ a ∧
           a < v.elemAddr c.val i row col + elemBytes (v.stream i).fmt)) →
         (∀ f, v.ccw.ofs = some f → ¬ (vatBase c.val + f ≤ a ∧ a < vatBase c.val + f + ((v.rows * v.cols + 31) / 32 + 7) / 8)) →
         t.body.mem.byte a = s.body.mem.byte a)) ∧
  ((∀ (s : State) (c : Fin 32), s.body.clocked = true → (s.body.holds c = none ∨ (s.body.core c).cx.flushes = []) →
     exec (.harvestFlush c) s = .next s) ∧
   ∀ (s : State) (c : Fin 32) (x : CtxId) (f : Nat) (rest : List Nat), s.body.clocked = true → s.body.holds c = some x →
     (s.body.core c).cx.flushes = f :: rest →
     let hs := (s.body.core c).cx.harv
     let key (h : HarvAcc) : Nat := h.tag.toNat * 36 + c.val
     let may := (∀ l ∈ (s.body.core c).cx.launched, ¬ (l.idx < f ∧ l.hkind ≠ 0 ∧ l.kind = 1)) ∧
       s.body.flushFlows s.own x.part c = true
     (¬ may → exec (.harvestFlush c) s = .next s) ∧
     (may → s.body.mem.sound = true →
       ((s.body.part x.part).harvTab = none → ∃ t, exec (.harvestFlush c) s = .next t ∧ Claims.quiet s t ∧ t.body.mem = s.body.mem ∧
         (t.body.core c).cx.harv = [] ∧ (t.body.core c).cx.flushes = rest ∧
         (t.body.core c).drop = satAdd (s.body.core c).drop hs.length ∧ (t.body.core c).flushed = (s.body.core c).flushed) ∧
       (∀ tab, (s.body.part x.part).harvTab = some tab → (hs.map (·.tag)).Nodup →
         (∀ h ∈ hs, s.body.noneWaits (tab + key h * 64) 64 = true) →
         ∃ t, exec (.harvestFlush c) s = .next t ∧ Claims.quiet s t ∧ (t.body.core c).cx.harv = [] ∧
           (t.body.core c).cx.flushes = rest ∧
           Claims.stored s t (hs.map fun h => (tab + key h * 64, h.record c.val
             ((((s.body.part x.part).harvSeq.find? (·.1 == key h)).elim (0 : W32) (·.2)) + 1).toNat)) ∧
           (t.body.core c).flushed = (s.body.core c).flushed + BitVec.ofNat 16 hs.length ∧
           (∀ h ∈ hs, h.tag.toNat ≤ (t.body.core c).lastTag.toNat) ∧ (hs ≠ [] → ∃ h ∈ hs, (t.body.core c).lastTag = h.tag) ∧
           (t.body.core c).drop = (s.body.core c).drop)))

/-! ### Transform and rind engines (R93 to R97, R187 to R199) -/

/-- The quadrant's transform and rind engines.

An XFORM entry joins its quadrant's queue, at most 128 long; the oldest starts while fewer than eight run; its completion, while its
operands flow, has stored its elements, or packed blocks, with side list and flag bitmap (a MOVE onto itself stores nothing), and no
other byte of memory, counted in XF_DONE, and its event is counted; one of a pre-empted invocation stops at the end of its current
group, or of a later one, with its position kept (R187 to R191, R196 to R199). Operands held up by the traffic limit or a trip leave it
as it is (R226, R227).

The oldest rind job starts on an idle engine; its completion has stored its converted results and flags, and no other byte of
memory, RIND_STAT.JOBS counts it and its entry completes; a job whose context was torn down leaves nothing (R93, R95 to R97). -/
def Obligations.QuadrantEngines : Prop :=
  ((∀ (s : State) (c : Fin 32) (x : CtxId) (e : Ae), Claims.fetched s c → s.body.nextAe c kXform = some (x, e) →
     let may := s.body.mayLaunch c = true ∧ (s.body.quad (quadOf c)).xfQ.length < 128
     (¬ may → exec (.xform c) s = .next s) ∧
     (may → exec (.xform c) s = .next { s with body :=
       ((s.body.updCx c fun k => k.launch e).updQuad (quadOf c) fun q =>
         { q with xfQ := q.xfQ ++ [QJob.new x c (s.body.core c).cx.aeIdx.toNat e 0] }).stewardRead s.own (s.body.fetchReads s.own c) })) ∧
   (∀ (s : State) (q : Fin 4), s.body.clocked = true →
     (((s.body.quad q).xfQ = [] ∨ 8 ≤ (s.body.quad q).xfRun.length) → exec (.xdStart q) s = .next s) ∧
     (∀ j rest, (s.body.quad q).xfQ = j :: rest → (s.body.quad q).xfRun.length < 8 → exec (.xdStart q) s = .next { s with
       body := s.body.updQuad q fun k => { k with xfQ := rest, xfRun := k.xfRun ++ [j] } })) ∧
   (∀ (s : State) (q : Fin 4) (c : Fin 32) (ae group : Nat), s.body.clocked = true → findJob (s.body.quad q).xfRun c ae = none →
     exec (.xdComplete q c ae) s = .next s ∧ exec (.xdPreemptStop q c ae group) s = .next s) ∧
   (∀ (s : State) (q : Fin 4) (c : Fin 32) (ae : Nat) (j : QJob), s.body.clocked = true →
     findJob (s.body.quad q).xfRun c ae = some j →
     let x := xdOf (s.body.imageOf j.ctx) j.ref
     let ps := (s.body.slot j.ctx.part j.ctx.slot).xdPlane x
     let ws := if x.identity then [] else (x.span s.body.mem ps (4096 * j.pos) (x.count ps)).1 ++ x.final s.body.mem ps c.val
     (x.flows s.own s.body ps = false → exec (.xdComplete q c ae) s = .next s) ∧
     (∀ l, x.flows s.own s.body ps = true → Claims.unguarded s (entryOf j.ctx c ae) ws → Claims.slotsWhole s →
       (s.body.core c).ctx = some j.ctx → (s.body.core c).cx.launched.find? (·.idx == ae) = some l →
       ∃ t, exec (.xdComplete q c ae) s = .next t ∧ Claims.quiet s t ∧ Claims.stored s t ws ∧
         findJob (t.body.quad q).xfRun c ae = none ∧ (t.body.quad q).xfDone = (s.body.quad q).xfDone + 1 ∧
         Claims.counts s t j.ctx l.evt.toNat)) ∧
   (∀ (s : State) (q : Fin 4) (c : Fin 32) (ae group : Nat) (j : QJob), s.body.clocked = true →
     findJob (s.body.quad q).xfRun c ae = some j →
     let x := xdOf (s.body.imageOf j.ctx) j.ref
     let ps := (s.body.slot j.ctx.part j.ctx.slot).xdPlane x
     let stops := (s.body.slot j.ctx.part j.ctx.slot).run = .stopping ∧ x.flows s.own s.body ps = true
     let g := min (max group (j.pos + 1)) ((x.count ps + 4095) / 4096)
     let ws := if x.identity then [] else (x.span s.body.mem ps (4096 * j.pos) (min (4096 * g) (x.count ps))).1
     (¬ stops → exec (.xdPreemptStop q c ae group) s = .next s) ∧
     (stops → Claims.unguarded s (entryOf j.ctx c ae) ws → (s.body.core c).ctx = some j.ctx →
       ∃ t, exec (.xdPreemptStop q c ae group) s = .next t ∧ Claims.quiet s t ∧ Claims.stored s t ws ∧
         findJob (t.body.quad q).xfRun c ae = none ∧ (t.body.quad q).xfStopped = satAdd (s.body.quad q).xfStopped 1 ∧
         (t.body.core c).cx.stopped.head? = some (ae, g)))) ∧
  ((∀ (s : State) (q : Fin 4), s.body.clocked = true →
     (((s.body.quad q).rindQ = [] ∨ (s.body.quad q).rindRun ≠ none) → exec (.rindJobStart q) s = .next s) ∧
     (∀ j rest, (s.body.quad q).rindQ = j :: rest → (s.body.quad q).rindRun = none → exec (.rindJobStart q) s = .next { s with
       body := s.body.updQuad q fun k => { k with rindQ := rest, rindRun := some j } }) ∧
     ((s.body.quad q).rindRun = none → exec (.rindJobComplete q) s = .next s)) ∧
   (∀ (s : State) (q : Fin 4) (j : QJob), s.body.clocked = true → (s.body.quad q).rindRun = some j →
     ((s.body.core j.core).ctx ≠ some j.ctx → exec (.rindJobComplete q) s = .next { s with
       body := s.body.updQuad q fun k => { k with rindRun := none, rindJobs := k.rindJobs + 1 } }) ∧
     (∀ l, (s.body.core j.core).ctx = some j.ctx → (s.body.core j.core).cx.launched.find? (·.idx == j.idx) = some l →
       Claims.slotsWhole s →
       let t0 := tdOf (s.body.imageOf j.ctx) j.ref
       let ws := t0.outWrites j.core.val 0 0 (t0.extents none) (rindVals t0 s.body.mem)
       Claims.unguarded s (entryOf j.ctx j.core j.idx) ws →
       ∃ t, exec (.rindJobComplete q) s = .next t ∧ Claims.quiet s t ∧ Claims.stored s t ws ∧ (t.body.quad q).rindRun = none ∧
         (t.body.quad q).rindJobs = (s.body.quad q).rindJobs + 1 ∧ Claims.counts s t j.ctx l.evt.toNat)))

/-! ### Update commands and update engines (R247, R251 to R270, R415) -/

/-- A job is the only NORM of its quadrant whose elements can all be summed and whose pair is still to be added, and its place in the
engine is its own. -/
def Claims.soleNorm (s : State) (b1 : Body) (q : Fin 4) (j : QJob) : Prop :=
  j.done = false ∧ (∀ k ∈ (b1.quad q).udRun, k.core = j.core → k.idx = j.idx → k = j) ∧
    ∀ k ∈ (b1.quad q).udRun, k ≠ j → (s.body.udOfJob k).op = opNorm → k.done = false → k.pos < (s.body.udOfJob k).elems

/-- Commands of the update and replica family.

UPD_PARAMS: a reserved byte that is not zero is REFUSED_FORMAT; a parameter outside R252's range, or a STEP that is not one above
UPD_STEP.STEP, REFUSED_BOUNDS; else the sets wait for the slot's next start (R252). UPD_RECOVER of a slot without an almanac:
REFUSED_BOUNDS; in a tripped module, whose DRAM takes no read, it stays PENDING (R227); a record that cannot be read ends it
FAULT_ECC_UNCORR (R512); one that does not allow the STEP: REFUSED_BOUNDS with no effect; else every record has that STEP, no byte but
the records' changes, and UPD_STEP.STEP is it (R270, R415).

REPL_CFG: a member list outside the partition's data region is refused REFUSED_WORLD, with its record; a parameter out of range
REFUSED_BOUNDS; while an invocation compares over the group BUSY; in a tripped module it stays PENDING; a list that cannot be read ends
FAULT_ECC_UNCORR, one with a member that names no partition REFUSED_FORMAT; else the group is configured (R227, R266, R511, R512).
REPL_REPAIR without a held COMPARE, or from a rank that the group has not: REFUSED_BOUNDS (the model's choice of status). Else it ends
an earlier repair of the COMPARE that still waits, and stays PENDING: when the roots agree after the repair the invocation goes on, and
the command ends with the COMPARE; when they do not the COMPARE still holds (R269, R415; log entry 120). The members' roots after their
own repairs are the command's input. -/
def Obligations.UpdateCommands : Prop :=
  (∀ (s : State) (x : Xnx) (p : Fin 8) (k : Fin 4), s.takesOn x p = true → x.arg0 = k.val →
     (x.len = 520 →
       let sets := x.args.drop 8
       let reserved := ∃ i, i < 16 ∧ field (paramSet sets i) 0x1C 4 ≠ 0
       let bad := (∃ i, i < 16 ∧ paramSetOk (paramSet sets i) = false) ∨ (s.body.part p).stepValid = false ∨
         xArg x 0 8 ≠ (s.body.part p).step.toNat + 1
       let refuses (st : W16) : Prop := exec (.updParams x) s = .next (s.answer s.own (s.commanded 0x0201 x) x st 0 [])
       (reserved → refuses stFormat) ∧ (¬ reserved → bad → refuses stBounds) ∧
       (¬ reserved → ¬ bad → exec (.updParams x) s = .next (s.answer s.own ((s.commandedWith 0x0201 x).updSlot p k fun y =>
         { y with newParams := some (BitVec.ofNat 64 (xArg x 0 8), sets.take 512) }) x stOk 0 []))) ∧
     (x.len = 8 →
       let tgt := xArg x 0 8
       let hs := (s.body.slot p k).shards.map (·.1)
       let reads := hs.map fun a => (a, 64)
       let b := ((s.commandedWith 0x0202 x).ordered s.own reads).stewardRead s.own reads
       let allows (a : Nat) : Prop := recMark (b.mem.le a 8) = 0xC7 ∧ (recStep (b.mem.le a 8) = tgt ∨
         (recStep (b.mem.le a 8) = tgt + 1 ∧ recDirty (b.mem.le a 8) = false))
       let refuses : Prop := exec (.updRecover x) s = .next (s.answer s.own (s.commanded 0x0202 x) x stBounds 0 [])
       ((s.body.slot p k).loaded = false → refuses) ∧
       ((s.body.slot p k).loaded = true → s.body.board.tripped = true →
         exec (.updRecover x) s = .next (s.promise s.own (s.commandedWith 0x0202 x) x)) ∧
       ((s.body.slot p k).loaded = true → s.body.board.tripped = false →
         (∀ w, b.firstBad s.own reads = some w →
           exec (.updRecover x) s = .next (s.answer s.own (b.stewardBad s.own p w) x ftEcc 0 [])) ∧
         (b.firstBad s.own reads = none →
           ((∃ a ∈ hs, ¬ allows a) → refuses) ∧
           ((∀ a ∈ hs, allows a) → b.mem.sound = true → s.body.parts.length = 8 →
             (∀ a ∈ hs, ∀ c ∈ hs, a = c ∨ a + 8 ≤ c ∨ c + 8 ≤ a) →
             ∃ b2, exec (.updRecover x) s = .next (s.answer s.own b2 x stOk 0 []) ∧
               (b2.part p).step = BitVec.ofNat 54 tgt ∧ (b2.part p).stepValid = true ∧
               (∀ a ∈ hs, recStep (b2.mem.le a 8) = tgt) ∧
               (∀ i, (∀ a ∈ hs, ¬ (a ≤ i ∧ i < a + 8)) → b2.mem.byte i = b.mem.byte i)))))) ∧
  (∀ (s : State) (x : Xnx) (p : Fin 8) (segs : List (Nat × List Byte)) (after : List (List W64)), s.takesOn x p = true →
     x.arg0 < 16 →
     (x.len = 16 →
       let n := xArg x 0 2
       let at_ := xArg x 8 8
       let b := ((s.commandedWith 0x0203 x).ordered s.own [(at_, 2 * n)]).stewardRead s.own [(at_, 2 * n)]
       let wide := n < 2 ∨ 4096 < n ∨ n ≤ xArg x 2 2 ∨ n ≤ xArg x 4 2 ∨ 2 < xArg x 6 1 ∨ (xArg x 6 1 = 2 ∧ n < 3) ∨ xArg x 7 1 = 0 ∨
         64 < xArg x 7 1
       let ends (b : Body) (st : W16) : Prop := exec (.replCfg x) s = .next (s.answer s.own b x st 0 [])
       (s.own.inData p at_ (2 * n) = false →
         ends ((s.commanded 0x0203 x).logForeign s.own (.part p) (s.own.outside p at_)) stWorld) ∧
       (s.own.inData p at_ (2 * n) = true → wide → ends (s.commanded 0x0203 x) stBounds) ∧
       (s.own.inData p at_ (2 * n) = true → ¬ wide → (s.body.part p).comparing x.arg0 = true → ends (s.commanded 0x0203 x) stBusy) ∧
       (s.own.inData p at_ (2 * n) = true → ¬ wide → (s.body.part p).comparing x.arg0 = false →
         (s.body.board.tripped = true → exec (.replCfg x) s = .next (s.promise s.own (s.commandedWith 0x0203 x) x)) ∧
         (s.body.board.tripped = false →
           (∀ w, b.firstBad s.own [(at_, 2 * n)] = some w → ends (b.stewardBad s.own p w) ftEcc) ∧
           (b.firstBad s.own [(at_, 2 * n)] = none →
             ((∃ i, i < n ∧ 0x8000 ≤ b.mem.le (at_ + 2 * i) 2) → ends (s.commanded 0x0203 x) stFormat) ∧
             ((∀ i, i < n → b.mem.le (at_ + 2 * i) 2 < 0x8000) → ends (b.updPart p fun y =>
               { y with repl := y.repl.set x.arg0 (some ⟨membersAt b.mem at_ n, xArg x 2 2, xArg x 4 2, xArg x 6 1, xArg x 7 1⟩) })
                 stOk))))) ∧
     (x.len = 2 →
       let refuses : Prop := exec (.replRepair x ⟨segs, after⟩) s = .next (s.answer s.own (s.commanded 0x0204 x) x stBounds 0 [])
       ((s.body.heldOf p x.arg0 = none ∨ (s.body.part p).repl.getD x.arg0 none = none) → refuses) ∧
       ∀ k q j g, s.body.heldOf p x.arg0 = some (k, q, j) → (s.body.part p).repl.getD x.arg0 none = some g →
         let cs := s.body.compared j.ctx
         let reads := digestReads cs
         let b := (((s.commandedWith 0x0204 x).repairFails s.own p k).ordered s.own reads).correctedIn s.own reads
         let own := ownDigests cs b.mem
         let others := (s.body.slot p k).held.getD []
         let found := differing g cs own others
         let r := repair s.own (b.countReadsOf s.own reads) j.ctx j.core j.idx g cs found own
           (targetDigest g own others false (xArg x 0 2)) segs after
         (g.members.length ≤ xArg x 0 2 → refuses) ∧
         (xArg x 0 2 < g.members.length → s.body.board.tripped = true →
           exec (.replRepair x ⟨segs, after⟩) s = .next (s.promise s.own (s.commandedWith 0x0204 x) x)) ∧
         (xArg x 0 2 < g.members.length → s.body.board.tripped = false →
           (∀ w, b.firstBad s.own reads = some w →
             exec (.replRepair x ⟨segs, after⟩) s = .next (s.answer s.own (b.stewardBad s.own p w) x ftEcc 0 [])) ∧
           (b.firstBad s.own reads = none → Claims.slotsWhole s →
             (r.2 = true → ∃ b2, exec (.replRepair x ⟨segs, after⟩) s = .next (s.promise s.own b2 x) ∧ b2.mem = r.1.mem ∧
               (b2.slot p k).run = .running ∧ (b2.slot p k).held = none ∧ (b2.slot p k).replTicket = some (xTicket x) ∧
               (b2.slot p k).repaired = true) ∧
             (r.2 = false → exec (.replRepair x ⟨segs, after⟩) s = .next (s.promise s.own
               (r.1.updSlot p k fun y => { y with replTicket := some (xTicket x) }) x))))))

/-- The update engines.

An UPD entry joins its quadrant's queue of at most 128. With no UD of a row's OP to start or go on with, nothing happens. A NORM
reads gradients, as far as they flow, in order up to a 65,536-element boundary or the end; at the end its pair and count are added to
its entry of the norm vector, and nothing else in memory changes; behind an earlier NORM of its quadrant, running or stopped by the
pre-emption under way, its pair waits (R226, R251, R256, R257). A CHECK writes no memory; it sets the decision in the slot and in
UPD_STEP, and under a skip counts it and appends the fault's record (R258 to R260).

An APPLY of an invocation that skips its update is done with no write. While its operands flow: one whose commit record is not valid
for UPD_STEP.STEP tears its job down with FAULT_JOURNAL before any write to DRAM; a valid record is first written back with DIRTY set.
From then on each element from its position up to a 65,536-element boundary or the end is written, masters, moments and weights, to the
alternate slot (and to the vats under VATW); at the end the flag bitmaps and, with DIG, the digest array over the new slot; and nothing
else; operands that do not flow hold it up (R226, R247, R260 to R265).

A COMMIT of an invocation that skips its update is done with no write. While its header flows: it waits until every APPLY of its
invocation has completed; then the shard's record takes STEP + 1, DIRTY 0 and SLOT inverted, in one header write, and with the almanac's
last COMMIT UPD_STEP.STEP is the invocation's STEP (R247, R260, R264).

A COMPARE over a group that is not configured, that is not due, or whose digests all agree, is done with no effect; one that holds
waits; one whose digest arrays do not flow waits. A difference is counted and recorded; without repair, or in more segments than MAXSEG,
the COMPARE holds: its core halts and the invocation waits; else the segments are repaired, and when the roots then agree the COMPARE is
done, FIXED counting them, and when not it holds (R226, R267 to R269).

A finished UD leaves the engine, counted in UD_STAT.DONE, and its entry completes; an APPLY that was not skipped flushes its
quadrant's harvest unit first (here one live accumulator or none), to the table or, without one, as dropped; a COMPARE ends the
REPL_REPAIR that waits for it, with OK as it completes and with FAULT_DIGEST while it still holds. A UD of an invocation that is being
pre-empted stops with its position and sums kept, but a CHECK, a COMPARE that does not hold and a COMMIT that may go on end first (R152,
R251, R256, R263, R269, R415). -/
def Obligations.UpdateEngines : Prop :=
  ((∀ (s : State) (c : Fin 32) (x : CtxId) (e : Ae), Claims.fetched s c → s.body.nextAe c kUpd = some (x, e) →
     let may := s.body.mayLaunch c = true ∧ (s.body.quad (quadOf c)).udQ.length < 128
     (¬ may → exec (.upd c) s = .next s) ∧
     (may → exec (.upd c) s = .next { s with body :=
       ((s.body.updCx c fun k => k.launch e).updQuad (quadOf c) fun q =>
         { q with udQ := q.udQ ++ [QJob.new x c (s.body.core c).cx.aeIdx.toNat e 0] }).stewardRead s.own (s.body.fetchReads s.own c) })) ∧
   (∀ (s : State) (q : Fin 4) (upto : Nat) (others : List (List W64)) (d : RepairData), s.body.clocked = true →
     ∀ r ∈ [(Instr.norm q upto, opNorm), (.check q, opCheck), (.apply q upto, opApply), (.commit q, opCommit),
       (.compare q others d, opCompare)], s.body.pickUd q r.2 = none → exec r.1 s = .next s) ∧
   (∀ (s : State) (q : Fin 4) (upto : Nat) (b1 : Body) (j : QJob), s.body.clocked = true → s.body.pickUd q opNorm = some (b1, j) →
     let u := s.body.udOfJob j
     let a := u.nvec + q.val * 4096 + 16 * u.layer
     let hi := stopAt65536 upto j.pos u.elems
     let norm (k : QJob) : Bool := (s.body.udOfJob k).op == opNorm && !k.done
     (s.body.flows s.own [(u.grad + 4 * j.pos, 4 * (hi - j.pos))] = false → exec (.norm q upto) s = .next s) ∧
     (s.body.flows s.own [(u.grad + 4 * j.pos, 4 * (hi - j.pos))] = true → j.pos ≤ u.elems → s.body.mem.sound = true →
       Claims.soleNorm s b1 q j →
     (upto < u.elems → j.pos ≤ upto → ∃ t, exec (.norm q upto) s = .next t ∧ Claims.quiet s t ∧ t.body.mem = s.body.mem ∧
       (findJob (t.body.quad q).udRun j.core j.idx).map (fun k => (k.pos, k.done)) =
         some (max j.pos (upto / 65536 * 65536), false)) ∧
     (u.elems ≤ upto → ((b1.quad q).udRun.find? norm ≠ some j ∨ b1.normBefore q j = true) →
       ∃ t, exec (.norm q upto) s = .next t ∧ Claims.quiet s t ∧ t.body.mem = s.body.mem ∧
         (findJob (t.body.quad q).udRun j.core j.idx).map (fun k => (k.pos, k.done)) = some (u.elems, false)) ∧
     (u.elems ≤ upto → (b1.quad q).udRun.find? norm = some j → b1.normBefore q j = false →
       let vals := wordsAt s.body.mem (u.grad + 4 * j.pos) (u.elems - j.pos)
       let h := { HarvAcc.new 0 0 with ssqHi := j.sumHi, ssqLo := j.sumLo, nf := j.nf }.observe vals (vals.length / 256 + 1)
       Claims.unguarded s (entryOf j.ctx j.core j.idx) [(a, normAdd s.body.mem s.body.free a h)] →
       ∃ t, exec (.norm q upto) s = .next t ∧ Claims.quiet s t ∧
         Claims.stored s t [(a, normAdd s.body.mem s.body.free a h)] ∧
         (findJob (t.body.quad q).udRun j.core j.idx).map (·.done) = some true))) ∧
   (∀ (s : State) (q : Fin 4) (b1 : Body) (j : QJob), s.body.clocked = true → s.body.pickUd q opCheck = some (b1, j) →
     s.body.mem.sound = true → Claims.slotsWhole s →
     let u := s.body.udOfJob j
     let y := s.body.slot j.ctx.part j.ctx.slot
     let d := checkDecision ((List.range u.layer).map (nvecReduced s.body.mem u.nvec)) u.gmax
       ((List.range u.layer).map fun i => wordAt y.image (u.lmax - y.imageAt + 4 * i))
     ∃ t, exec (.check q) s = .next t ∧ t.own = s.own ∧ t.body.mem = s.body.mem ∧
       (t.body.slot j.ctx.part j.ctx.slot).decision = BitVec.ofNat 2 d ∧ (t.body.part j.ctx.part).decision = BitVec.ofNat 2 d ∧
       (findJob (t.body.quad q).udRun j.core j.idx).map (·.done) = some true ∧
       (d = 1 → (t.body.part j.ctx.part).events = (s.body.part j.ctx.part).events ∧
         (t.body.part j.ctx.part).skipNf = (s.body.part j.ctx.part).skipNf ∧
         (t.body.part j.ctx.part).skipNorm = (s.body.part j.ctx.part).skipNorm) ∧
       (d ≠ 1 → (s.body.part j.ctx.part).events.length < 1024 → (t.body.part j.ctx.part).events =
         (s.body.part j.ctx.part).events ++ [faultRecord 1 (if d = 2 then 0x0201 else 0x0202) (0, j.core.val) j.idx
           (s.body.fab.time % 2 ^ 64)]))) ∧
  (∀ (s : State) (q : Fin 4) (upto : Nat) (b1 : Body) (j : QJob), s.body.clocked = true → s.body.pickUd q opApply = some (b1, j) →
     let y := s.body.slot j.ctx.part j.ctx.slot
     let u := s.body.udOfJob j
     let r := s.body.mem.le u.shard 8
     let sh := shardOf (y.header u.shard)
     (y.skips = true → ∃ t, exec (.apply q upto) s = .next t ∧ Claims.quiet s t ∧ t.body.mem = s.body.mem ∧
       (findJob (t.body.quad q).udRun j.core j.idx).map (·.done) = some true) ∧
     (y.skips = false → s.body.flows s.own [(u.shard, 64)] = false → exec (.apply q upto) s = .next s) ∧
     (y.skips = false → s.body.flows s.own [(u.shard, 64)] = true → s.body.mem.sound = true → Claims.slotsWhole s →
       (j.begun = false → (recMark r ≠ 0xC7 ∨ recStep r ≠ (s.body.part j.ctx.part).step.toNat) →
         (s.body.core j.core).ctx = some j.ctx → (s.body.part j.ctx.part).events.length < 1024 →
         ∃ t, exec (.apply q upto) s = .next t ∧ t.own = s.own ∧ (t.body.slot j.ctx.part j.ctx.slot).ctx = .unrun ∧
           faultRecord 1 0x0208 (0, j.core.val) j.idx (s.body.fab.time % 2 ^ 64) ∈ (t.body.part j.ctx.part).events ∧
           ((∀ k ∈ s.body.quads, ∀ i ∈ k.xfRun, i.ctx ≠ j.ctx) →
             ∀ a, a < 0xD800000000 → t.body.mem.byte a = s.body.mem.byte a)) ∧
       (j.begun = false → recMark r = 0xC7 → recStep r = (s.body.part j.ctx.part).step.toNat → j.pos = 0 →
         y.shards.any (·.1 == u.shard) = true → upto < 65536 → 65536 ≤ sh.elems →
         let hd := leBytes 8 (mkRec (recStep r) true (recSlot r)) ++ (y.header u.shard).drop 8
         Claims.unguarded s (entryOf j.ctx j.core j.idx) [(u.shard, hd)] →
         Claims.unguarded s (entryOf j.ctx j.core j.idx) (applyWrites u (shardOf hd) 0 []) →
         ∃ t, exec (.apply q upto) s = .next t ∧ Claims.quiet s t ∧ Claims.stored s t [(u.shard, hd)]) ∧
       (j.begun = true →
         let who := entryOf j.ctx j.core j.idx
         let lo := j.pos
         let hi := stopAt65536 upto lo sh.elems
         let elem := applyElem s.body.mem u sh (paramSet y.params u.pset) y.step
         let ws := applyWrites u sh lo (((List.range hi).drop lo).map elem)
         let fs := applyFlags s.body.free u sh j.core.val ((List.range sh.elems).map elem)
         let alt := sh.alternate sh.commit
         (s.body.flows s.own (applyReads u sh lo hi) = false → exec (.apply q upto) s = .next { s with body := b1 }) ∧
         (s.body.flows s.own (applyReads u sh lo hi) = true → Claims.unguarded s who ws →
           (hi ≠ sh.elems → ∃ t, exec (.apply q upto) s = .next t ∧ Claims.quiet s t ∧ Claims.stored s t ws ∧
             (findJob (t.body.quad q).udRun j.core j.idx).map (fun k => (k.pos, k.done)) = some (hi, false)) ∧
           (hi = sh.elems → Claims.unguarded s who fs →
             (u.dig = false → ∃ t, exec (.apply q upto) s = .next t ∧ Claims.quiet s t ∧ Claims.stored s t (ws ++ fs) ∧
               (findJob (t.body.quad q).udRun j.core j.idx).map (fun k => (k.pos, k.done)) = some (hi, true)) ∧
             (u.dig = true → Claims.unguarded s who [(u.diga, digArray (sh.digests s.body.mem alt))] →
               ∃ (t : State) (m : Mem), exec (.apply q upto) s = .next t ∧ Claims.quiet s t ∧
                 (∀ a, m.byte a = Claims.after s.body.mem (ws ++ fs) a) ∧
                 Claims.stored s t (ws ++ fs ++ [(u.diga, digArray (sh.digests m alt))]) ∧
                 (findJob (t.body.quad q).udRun j.core j.idx).map (fun k => (k.pos, k.done)) = some (hi, true))))))) ∧
  (∀ (s : State) (q : Fin 4) (b1 : Body) (j : QJob), s.body.clocked = true → s.body.pickUd q opCommit = some (b1, j) →
     let y := s.body.slot j.ctx.part j.ctx.slot
     let u := s.body.udOfJob j
     let r := (shardOf (y.header u.shard)).commit
     (y.skips = true → exec (.commit q) s = .next { s with body := b1.setJob q { j with done := true } }) ∧
     (y.skips = false → s.body.flows s.own [(u.shard, 64)] = false → exec (.commit q) s = .next s) ∧
     (y.skips = false → s.body.flows s.own [(u.shard, 64)] = true →
       (y.appliesDone ≠ udCount y.image opApply → exec (.commit q) s = .next { s with body := b1 }) ∧
       (y.appliesDone = udCount y.image opApply → y.shards.any (·.1 == u.shard) = true → Claims.slotsWhole s →
         let hd := leBytes 8 (mkRec (recStep r + 1) false (!recSlot r)) ++ (y.header u.shard).drop 8
         Claims.unguarded s (entryOf j.ctx j.core j.idx) [(u.shard, hd)] →
         ∃ t, exec (.commit q) s = .next t ∧ Claims.quiet s t ∧ Claims.stored s t [(u.shard, hd)] ∧
           (t.body.slot j.ctx.part j.ctx.slot).commitsDone = y.commitsDone + 1 ∧
           (y.commitsDone + 1 = udCount y.image opCommit → (t.body.part j.ctx.part).step = BitVec.ofNat 54 y.step.toNat) ∧
           (y.commitsDone + 1 ≠ udCount y.image opCommit → (t.body.part j.ctx.part).step = (s.body.part j.ctx.part).step)))) ∧
  (∀ (s : State) (q : Fin 4) (b1 : Body) (j : QJob) (others : List (List W64)) (segs : List (Nat × List Byte)) (rt : List (List W64)),
     s.body.clocked = true → s.body.pickUd q opCompare = some (b1, j) →
     let y := s.body.slot j.ctx.part j.ctx.slot
     let u := s.body.udOfJob j
     let cs := b1.compared j.ctx
     let isDone : Prop := exec (.compare q others ⟨segs, rt⟩) s = .next { s with body := b1.setJob q { j with done := true } }
     let due := y.decision = 1 ∧ y.step.toNat % u.every = 0
     ((s.body.part j.ctx.part).repl.getD u.group none = none → isDone) ∧
     ∀ g, (s.body.part j.ctx.part).repl.getD u.group none = some g →
       (y.held.isSome = true → exec (.compare q others ⟨segs, rt⟩) s = .next { s with body := b1 }) ∧
       (y.held = none → ¬ due → isDone) ∧
       (y.held = none → due → s.body.flows s.own (digestReads cs) = false → exec (.compare q others ⟨segs, rt⟩) s = .next s) ∧
       (y.held = none → due → s.body.flows s.own (digestReads cs) = true → s.body.mem.sound = true → Claims.slotsWhole s →
         let own := ownDigests cs s.body.mem
         let found := differing g cs own others
         (found = [] → ∃ t, exec (.compare q others ⟨segs, rt⟩) s = .next t ∧ Claims.quiet s t ∧ t.body.mem = s.body.mem ∧
           t.body.parts = s.body.parts ∧ (findJob (t.body.quad q).udRun j.core j.idx).map (·.done) = some true) ∧
         (found ≠ [] → (g.repair = 0 ∨ g.maxSeg < found.length) → y.run = .running →
           (s.body.part j.ctx.part).events.length < 1024 → s.body.cores.length = 32 →
           ∃ t, exec (.compare q others ⟨segs, rt⟩) s = .next t ∧ t.own = s.own ∧ t.body.mem = s.body.mem ∧
             (t.body.part j.ctx.part).digFail = satAdd (s.body.part j.ctx.part).digFail 1 ∧
             (t.body.part j.ctx.part).digRec.map (fun d => d.2.1) = some (BitVec.ofNat 16 (min found.length 65535)) ∧
             (t.body.part j.ctx.part).events = (s.body.part j.ctx.part).events ++
               [faultRecord 1 0x0203 (0, j.core.val) j.idx (s.body.fab.time % 2 ^ 64)] ∧
             (t.body.core j.core).cx.seq = .halted ∧ (t.body.slot j.ctx.part j.ctx.slot).run = .held) ∧
         (found ≠ [] → g.repair ≠ 0 → found.length ≤ g.maxSeg →
           ∃ b2, b2.mem = s.body.mem ∧ (b2.part j.ctx.part).digFail = satAdd (s.body.part j.ctx.part).digFail 1 ∧
             let r := repair s.own b2 j.ctx j.core j.idx g cs found own (targetDigest g own others (g.repair == 2) g.srcRank) segs rt
             (r.2 = true → ∃ t, exec (.compare q others ⟨segs, rt⟩) s = .next t ∧ t.own = s.own ∧ t.body.mem = r.1.mem ∧
               (t.body.part j.ctx.part).digFixed = satAdd (r.1.part j.ctx.part).digFixed found.length ∧
               (t.body.slot j.ctx.part j.ctx.slot).repaired = true ∧
               (findJob (t.body.quad q).udRun j.core j.idx).map (·.done) = (findJob (r.1.quad q).udRun j.core j.idx).map fun _ => true) ∧
             (r.2 = false → exec (.compare q others ⟨segs, rt⟩) s = .next { s with body := r.1.holdCompare j others })))) ∧
  ((∀ (s : State) (q : Fin 4) (c : Fin 32) (ae : Nat), s.body.clocked = true → findJob (s.body.quad q).udRun c ae = none →
     exec (.udComplete q c ae) s = .next s ∧ exec (.udPreemptStop q c ae) s = .next s) ∧
   (∀ (s : State) (q : Fin 4) (c : Fin 32) (ae : Nat) (j : QJob), s.body.clocked = true →
     findJob (s.body.quad q).udRun c ae = some j → j.done = false →
     let y := s.body.slot j.ctx.part j.ctx.slot
     let holds := (s.body.udOfJob j).op = opCompare ∧ y.held.isSome = true
     ((¬ holds ∨ y.replTicket = none) → exec (.udComplete q c ae) s = .next s) ∧
     (∀ k1, holds → y.replTicket = some k1 → Claims.slotsWhole s → s.body.mail.length = 9 → (∀ m ∈ s.body.mail, m.length = 4) →
       ∃ t, exec (.udComplete q c ae) s = .next t ∧ t.own = s.own ∧ t.body.mem = s.body.mem ∧
         (t.body.mailbox k1.page k1.mb).resp = respBytes 0x0203 k1.tag 0 [] ∧
         (t.body.slot j.ctx.part j.ctx.slot).replTicket = none ∧ findJob (t.body.quad q).udRun c ae = some j)) ∧
   (∀ (s : State) (q : Fin 4) (c : Fin 32) (ae : Nat) (j : QJob) (l : Launched), s.body.clocked = true →
     findJob (s.body.quad q).udRun c ae = some j →
     j.done = true → (s.body.core c).cx.launched.find? (·.idx == ae) = some l → Claims.slotsWhole s →
     let u := s.body.udOfJob j
     let y := s.body.slot j.ctx.part j.ctx.slot
     let mine := ((s.body.quad q).harv.filter (·.1 == j.ctx)).map (·.2)
     let key (h : HarvAcc) : Nat := h.tag.toNat * 36 + (32 + q.val)
     (∀ tab, (s.body.part j.ctx.part).harvTab = some tab → ∀ h ∈ mine, s.body.noneWaits (tab + key h * 64) 64 = true) →
     ∃ t, exec (.udComplete q c ae) s = .next t ∧ t.own = s.own ∧
       findJob (t.body.quad q).udRun c ae = none ∧ (t.body.quad q).udDone = (s.body.quad q).udDone + 1 ∧
       Claims.counts s t j.ctx l.evt.toNat ∧
       ((u.op ≠ opCompare ∨ y.replTicket = none) → Claims.quiet s t) ∧
       (∀ k1, u.op = opCompare → y.replTicket = some k1 → s.body.mail.length = 9 → (∀ m ∈ s.body.mail, m.length = 4) →
         (t.body.mailbox k1.page k1.mb).resp = respBytes stOk k1.tag 0 [] ∧
         (t.body.slot j.ctx.part j.ctx.slot).replTicket = none) ∧
       ((u.op ≠ opApply ∨ y.skips = true ∨ mine = [] ∨ (s.body.part j.ctx.part).harvTab = none) → t.body.mem = s.body.mem) ∧
       (∀ h tab, u.op = opApply → y.skips = false → mine = [h] → (s.body.part j.ctx.part).harvTab = some tab →
         s.body.mem.sound = true →
         Claims.stored s t [(tab + key h * 64, h.record (32 + q.val)
           ((((s.body.part j.ctx.part).harvSeq.find? (·.1 == key h)).elim (0 : W32) (·.2)) + 1).toNat)] ∧
         (t.body.quad q).lastTag = h.tag ∧ ∀ k ∈ (t.body.quad q).harv, k.1 ≠ j.ctx)) ∧
   (∀ (s : State) (q : Fin 4) (c : Fin 32) (ae : Nat) (j : QJob), s.body.clocked = true →
     findJob (s.body.quad q).udRun c ae = some j →
     let y := s.body.slot j.ctx.part j.ctx.slot
     let op := (s.body.udOfJob j).op
     let stops := y.run = .stopping ∧ j.done = false ∧ op ≠ opCheck ∧ (op = opCompare → y.held.isSome = true) ∧
       (op = opCommit → y.skips = false ∧ y.appliesDone ≠ udCount y.image opApply)
     (¬ stops → exec (.udPreemptStop q c ae) s = .next s) ∧
     (stops → exec (.udPreemptStop q c ae) s = .next { s with body :=
       (s.body.updQuad q fun k => { k with udRun := dropJob k.udRun c ae }).updCx c fun k => { k with
         stopped := (ae, j.pos) :: k.stopped.filter (·.1 != ae)
         partSums := (ae, j.sumHi, j.sumLo, j.nf) :: k.partSums.filter (·.1 != ae) } })))

/-! ### Fabric configuration (R293, R298, R300, R305, R416) -/

/-- The admission that FAB_ADMIT's arguments spell: classes, and sources by device and partition; none for COUNT 0. -/
def Claims.admission (x : Xnx) : Option (BitVec 2 × List W16) :=
  if xArg x 2 2 = 0 then none
  else some (BitVec.ofNat 2 (xArg x 0 1), (List.range (xArg x 2 2)).map fun i => BitVec.ofNat 16 (xArg x (4 + 2 * i) 2))

/-- Configuration of the fabric and its links.

FAB_CFG, in the order of its checks: a reserved byte that is not zero is REFUSED_FORMAT; a table or link records outside DRAM
REFUSED_WORLD, counted; an identity, weight or SYNC out of range REFUSED_BOUNDS; on a tripped module it stays PENDING; what cannot be
read ends it FAULT_ECC_UNCORR; a role or link out of range is REFUSED_BOUNDS, and a link that is up, an own entry that is not LOCAL or
names a link, a reserved bit or a reserved byte REFUSED_FORMAT. Else it sets identity, weights, PTP settings, every route entry and every
link record; LOCKED is 1 on the grandmaster and 0 elsewhere until it has locked (log entry 35), the next sync being due at once; other
state is untouched (R227, R293, R300, R416, R511, R512).

LINK_ENABLE of a link that is up answers OK with no effect; of one switched off it starts the training, or lets it start when
FAB_REFCLK returns (R497); of one in training it is refused (log entry 34); of a trained one it enables a partner that is the expected
one within 1,900 ns, and refuses another with STATE 5 or 6 (R298; log entry 101). LINK_DISABLE empties and squelches the link, which
stays off. FAB_ADMIT sets the partition's admission, COUNT 0 removing it; a reserved field or source is REFUSED_FORMAT, more than 1,024
sources REFUSED_BOUNDS. FAB_TIME reads the fabric time and LOCKED (log entry 35). None changes another link or partition (R284, R298,
R300, R416). -/
def Obligations.FabricConfiguration : Prop :=
  (∀ (s : State) (x : Xnx), s.takesModule x = true → x.len = 24 → x.arg0 = 0 → s.body.fab.links.length = 24 →
     s.body.fab.cfg.length = 24 →
     let rt := xArg x 8 8
     let lk := xArg x 16 8
     let reads := [(rt, 16384), (lk, 384)]
     let b := s.commandedWith 0x0301 x
     let ends (b : Body) (st : W16) : Prop := exec (.fabCfg x) s = .next (s.answer s.own b x st 0 [])
     let dram := inDram s.own rt 16384 = true ∧ inDram s.own lk 384 = true
     let wide := 4096 ≤ xArg x 0 2 ∨ 4096 ≤ xArg x 4 2 ∨ xArg x 2 1 = 0 ∨ 15 < xArg x 2 1 ∨ xArg x 3 1 = 0 ∨ 15 < xArg x 3 1 ∨
       ¬ (xArg x 6 1 = 0 ∨ 249 ≤ xArg x 6 1)
     let own := s.body.mem.le (rt + 4 * xArg x 0 2) 4
     let recBad := ∃ i, i < 24 ∧ (3 < (linkRecAt s.body.mem lk i).role ∨ 23 < (linkRecAt s.body.mem lk i).link)
     let badForm := (∃ l, (s.body.link l).up = true) ∨ own / 2 ^ 25 % 2 = 0 ∨ own % 2 ^ 24 ≠ 0 ∨
       (∃ i, i < 4096 ∧ 2 ^ 26 ≤ s.body.mem.le (rt + 4 * i) 4) ∨ ∃ i, i < 24 ∧ (linkRecAt s.body.mem lk i).rsv ≠ 0
     (xArg x 7 1 ≠ 0 → ends (s.commanded 0x0301 x) stFormat) ∧
     (xArg x 7 1 = 0 → ¬ dram → ends ((s.commanded 0x0301 x).logForeign s.own .module (if inDram s.own rt 16384 then lk else rt)) stWorld) ∧
     (xArg x 7 1 = 0 → dram → wide → ends (s.commanded 0x0301 x) stBounds) ∧
     (xArg x 7 1 = 0 → dram → ¬ wide → s.body.board.tripped = true →
       exec (.fabCfg x) s = .next (s.promise s.own b x)) ∧
     (xArg x 7 1 = 0 → dram → ¬ wide → s.body.board.tripped = false →
       (∀ w, b.firstBad s.own reads = some w →
         ends (match s.own.ownerOf w with | some p => b.stewardBad s.own p w | none => b.foundBad s.own w) ftEcc) ∧
       (b.firstBad s.own reads = none →
         (recBad → ends (s.commanded 0x0301 x) stBounds) ∧
         (¬ recBad → badForm → ends (s.commanded 0x0301 x) stFormat) ∧
         (¬ recBad → ¬ badForm →
           ∃ b2, exec (.fabCfg x) s = .next (s.answer s.own b2 x stOk 0 []) ∧ (∀ a, b2.mem.byte a = s.body.mem.byte a) ∧
             b2.parts = s.body.parts ∧
             b2.fab.devId = some (BitVec.ofNat 12 (xArg x 0 2)) ∧ b2.fab.wColl = xArg x 2 1 ∧ b2.fab.wData = xArg x 3 1 ∧
             b2.fab.gm = BitVec.ofNat 16 (xArg x 4 2) ∧ b2.fab.sync = BitVec.ofNat 8 (xArg x 6 1) ∧
             (∀ d, d < 4096 → b2.fab.entry d = BitVec.ofNat 32 (s.body.mem.le (rt + 4 * d) 4)) ∧
             (∀ l : Fin 24, let r := linkRecAt s.body.mem lk l.val
               (b2.linkCfg l).expectId = BitVec.ofNat 56 r.id ∧ (b2.linkCfg l).expectLink.toNat = r.link ∧
                 (b2.linkCfg l).role.toNat = r.role ∧ (b2.linkCfg l).savedKey = (s.body.linkCfg l).savedKey) ∧
             b2.fab.links = s.body.fab.links ∧ b2.fab.time = s.body.fab.time ∧
             b2.fab.locked = decide (xArg x 4 2 = xArg x 0 2) ∧ b2.fab.syncDue = true)))) ∧
  ((∀ (s : State) (x : Xnx) (l : Fin 24), s.takesModule x = true → x.len = 0 → x.arg0 = l.val → s.body.fab.links.length = 24 →
     let enables (f : Link → Link) (st : W16) : Prop := exec (.linkEnable x) s = .next (s.answer s.own
       ((s.commandedWith 0x0302 x).updLink l f) x st 0 [])
     ((s.body.link l).state = .up → exec (.linkEnable x) s = .next (s.answer s.own (s.commandedWith 0x0302 x) x stOk 0 [])) ∧
     ((s.body.link l).state = .off →
       enables (fun y => { y with state := if s.body.board.fabRef then .training else .off, disabled := false }) stOk) ∧
     (((s.body.link l).state = .training ∨ (s.body.link l).state = .lost) →
       exec (.linkEnable x) s = .next (s.answer s.own (s.commanded 0x0302 x) x stBounds 0 [])) ∧
     (((s.body.link l).state = .notReady ∨ (s.body.link l).state = .mismatch ∨ (s.body.link l).state = .tooLong) →
       let ok := (s.body.linkCfg l).expectId = 0 ∨ ((s.body.linkCfg l).expectId = (s.body.link l).peerId ∧
         (s.body.linkCfg l).expectLink.toNat = (s.body.link l).peerLink.toNat)
       (ok → (s.body.link l).rtt.toNat ≤ 1900 → enables (fun y => { y with state := .notReady, enabled := true }) stOk) ∧
       (ok → 1900 < (s.body.link l).rtt.toNat → enables (fun y => { y with state := .tooLong, enabled := false }) stBounds) ∧
       (¬ ok → enables (fun y => { y with state := .mismatch, enabled := false }) stBounds)) ∧
     (∃ b2, exec (.linkDisable x) s = .next (s.answer s.own b2 x stOk 0 []) ∧ (∀ a, b2.mem.byte a = s.body.mem.byte a) ∧
       b2.parts = s.body.parts ∧ (b2.link l).state = .off ∧ (b2.link l).disabled = true ∧
       (b2.link l).heldBlocks = [] ∧ (b2.link l).enabled = false ∧ (∀ c, (b2.link l).txq.getD c [] = []) ∧
       ∀ m, m ≠ l → b2.link m = s.body.link m)) ∧
   (∀ (s : State) (x : Xnx) (p : Fin 8), s.takesOn x p = true → x.arg0 = 0 →
     (x.len = 4 + 2 * xArg x 2 2 →
       let badForm := 4 ≤ xArg x 0 1 ∨ xArg x 1 1 ≠ 0 ∨ ∃ i, i < xArg x 2 2 ∧ 0x8000 ≤ xArg x (4 + 2 * i) 2
       (badForm → exec (.fabAdmit x) s = .next (s.answer s.own (s.commanded 0x0304 x) x stFormat 0 [])) ∧
       (¬ badForm → 1024 < xArg x 2 2 → exec (.fabAdmit x) s = .next (s.answer s.own (s.commanded 0x0304 x) x stBounds 0 [])) ∧
       (¬ badForm → xArg x 2 2 ≤ 1024 → exec (.fabAdmit x) s = .next (s.answer s.own
         ((s.commandedWith 0x0304 x).updPart p fun y => { y with admission := Claims.admission x }) x stOk 0 []))) ∧
     (x.len = 0 → exec (.fabTime x) s = .next (s.answer s.own (s.commandedWith 0x0305 x) x stOk 0
       (leBytes 6 (s.body.fab.time / 1000000000) ++ leBytes 4 (s.body.fab.time % 1000000000) ++
         [if s.body.fab.locked then 1 else 0])))))

/-! ### Links (R278 to R292, R296, R297) -/

/-- Links: loss, training, blocks.

A link that is up and loses lane lock, or whose held blocks see no progress, or that receives a training block, is lost: what it
held is gone, the messages wholly received are delivered first, LOST counts, it retrains, and a partition with a fabric configuration has
a FAULT_LINK record naming the link; with none nothing else changes. On a link that is not up, and for a timeout with no block held,
nothing happens (R291, R292).

The end of a training records partner, round trip, the lanes' order and polarity, scrambler seeds and equaliser coefficients, and
whether the settings were saved under that partner (else they are saved now), counts it, and waits for an enable; READY from both ends
of an enabled link starts it with SEQ 0 and full credits. On a link that does not train, or is not enabled, they do nothing (R277, R278,
R287, R296, R297).

The bytes of a block on the lanes of a link that is up go through alignment, descrambling and the error-correcting code. An
uncorrectable block is asked for again, and so is the first payload block out of sequence; the eighth such in a row loses the link.
Until a block asked for has come, other blocks are discarded whole, idle ones too (log entry 86). One in sequence with payload, or an
idle one, is taken: its SEQ is the last received, its corrected symbols are counted, its ACK releases the held blocks up to it, its NAK
replays those after it, its flits take the receiver's credits, return the sender's, and add the messages they complete; too many
replays, or credits exceeded, lose the link (R277 to R280, R287, R290, R291).

A block slot: a link that is off sends nothing; one that is not up a training block with identity, link, READY and a probe (a free
value); one with blocks to replay the oldest, encoded with the receiver's present acknowledgement; one that is up a new block of five
flits, with the acknowledgement and, once, a NAK that is due: with payload it takes the next SEQ and is held, without it repeats the
last, and while 256 blocks are held it carries no payload (R277 to R280, R289, R290, R296; log entry 86). -/
def Obligations.Links : Prop :=
  (∀ (s : State) (l m : Fin 24) (c : Instr) (id : BitVec 56) (rd : Bool), s.body.clocked = true → s.body.fab.links.length = 24 →
     (c = .laneLockLoss l ∨ c = .ackTimeout l ∨ c = .trainingBlockReceive l id m rd) →
     let lost := (s.body.link l).up = true ∧ (c = .ackTimeout l → (s.body.link l).heldBlocks ≠ [])
     (¬ lost → (c = .trainingBlockReceive l id m rd → rd = false) → exec c s = .next s) ∧
     (lost →
       ((∀ p, (s.body.part p).admission = none) → (s.body.link l).arrived = [] →
         exec c s = .next { s with body := s.body.updLink l Link.lose }) ∧
       (∃ t, exec c s = .next t ∧ t.own = s.own ∧ (t.body.link l).state = .lost ∧
         (t.body.link l).lost = satAdd (s.body.link l).lost 1 ∧ (t.body.link l).heldBlocks = [] ∧ (t.body.link l).enabled = false ∧
         ((s.body.link l).arrived = [] → ∀ p, (s.body.part p).admission.isSome = true → s.body.parts.length = 8 →
           (s.body.part p).events.length < 1024 →
           faultRecord 1 0x0206 (3, l.val) l.val (s.body.fab.time % 2 ^ 64) ∈ (t.body.part p).events) ∧
         (∀ k w, (s.body.link l).arrived = [(k, w)] → k < 6 → w.op = 1 → w.evt = 0xFF → msgFormed w = true →
           routeLocal (s.body.fab.entry w.dstDev.toNat) = true → s.body.stalls s.own w = false →
           fabricCheck s.own s.body l w = none → s.body.mem.sound = true → (∀ p i, (s.body.slot p i).invoke = none) →
           (t.body.link l).arrived = [] ∧ Claims.stored s t [(w.addr.toNat, w.data)])))) ∧
  (∀ (s : State) (l m : Fin 24) (id : BitVec 56) (ls : LaneSetup), s.body.clocked = true → s.body.fab.links.length = 24 →
     s.body.fab.cfg.length = 24 →
     let trains := (s.body.link l).state = .training ∨ (s.body.link l).state = .lost
     let waits := (s.body.link l).state = .notReady ∧ (s.body.link l).enabled = true
     (¬ trains → exec (.linkTrainingComplete l id m ls) s = .next s) ∧
     (trains → ∃ t, exec (.linkTrainingComplete l id m ls) s = .next t ∧
       t.own = s.own ∧ t.body.parts = s.body.parts ∧ t.body.mem = s.body.mem ∧ (t.body.link l).state = .notReady ∧
       (t.body.link l).enabled = false ∧ (t.body.link l).peerId = id ∧ (t.body.link l).peerLink.toNat = m.val ∧
       (t.body.link l).rtt.toNat = min ls.rtt 4095 ∧ (t.body.link l).trains = (s.body.link l).trains + 1 ∧
       (t.body.link l).saved = decide ((s.body.linkCfg l).savedKey = some (id, BitVec.ofNat 5 m.val)) ∧
       (t.body.link l).reversed = ls.reversed ∧ (t.body.link l).inverted = ls.inverted ∧ (t.body.link l).rxScr = ls.rxSeeds ∧
       (t.body.link l).txScr = ls.txSeeds ∧ (t.body.link l).coeffs = ls.coeffs ∧
       (t.body.linkCfg l).savedKey = some (id, BitVec.ofNat 5 m.val) ∧
       ((s.body.linkCfg l).savedKey = some (id, BitVec.ofNat 5 m.val) → t.body.linkCfg l = s.body.linkCfg l) ∧
       ((s.body.linkCfg l).savedKey ≠ some (id, BitVec.ofNat 5 m.val) → (t.body.linkCfg l).savedCoef = ls.coeffs) ∧
       ∀ k, k ≠ l → t.body.link k = s.body.link k) ∧
     (¬ waits → exec (.partnerReady l) s = .next s ∧
       ((s.body.link l).up = false → exec (.trainingBlockReceive l id m true) s = .next s)) ∧
     (waits → ∀ c ∈ [Instr.partnerReady l, .trainingBlockReceive l id m true], ∃ t, exec c s = .next t ∧ t.own = s.own ∧
       t.body.parts = s.body.parts ∧ (t.body.link l).state = .up ∧ (t.body.link l).seqNext = 0 ∧ (t.body.link l).rxAny = false ∧
       (t.body.link l).reserved = List.replicate 6 128 ∧ (t.body.link l).shared = 23808 ∧
       ∀ k, k ≠ l → t.body.link k = s.body.link k)) ∧
  (∀ (s : State) (l : Fin 24) (lanes : List (List Byte)), s.body.clocked = true → s.body.fab.links.length = 24 →
     let y0 := s.body.link l
     let lost : Prop := ∃ t, exec (.blockReceive l lanes) s = .next t ∧ (t.body.link l).state = .lost
     let becomes (y : Link) : Prop := exec (.blockReceive l lanes) s = .next { s with body := s.body.updLink l fun _ => y }
     let again (y : Link) : Prop := (y.nakRun + 1 < 8 → becomes { y with nakOut := true, nakDue := true, nakRun := y.nakRun + 1 }) ∧
       (8 ≤ y.nakRun + 1 → lost)
     (y0.up = false → exec (.blockReceive l lanes) s = .next s) ∧
     (y0.up = true → y0.decode lanes = none → again (y0.heard lanes)) ∧
     (∀ e k, y0.up = true → y0.decode lanes = some (e, k) →
       let y : Link := { y0.heard lanes with fecSym := satAdd y0.fecSym e }
       let next := k.seq = (if y0.rxAny then y0.rxSeq + 1 else 0)
       (blockPays k = true → ¬ next → y0.nakOut = false → again y) ∧
       (blockPays k = true → ¬ next → y0.nakOut = true → y0.nakRun < 8 → becomes y) ∧
       (blockPays k = false → y0.nakOut = true → becomes y) ∧
       ((blockPays k = true ∧ next ∨ blockPays k = false ∧ y0.nakOut = false) →
         let y1 : Link := if blockPays k then
           { y with rxSeq := k.seq, rxAny := true, nakOut := false, nakRun := 0, nakDue := false } else y
         let y2 := if k.ackv then y1.ackTo k.ack else y1
         let y3 := if k.nak then y2.nakIn s.body.fab.time else y2
         (k.nak = true → y3.replaysOut = true → lost) ∧
         ((k.nak = false ∨ y3.replaysOut = false) →
           (y3.flitsIn k.flits = none → lost) ∧ ∀ y4, y3.flitsIn k.flits = some y4 → becomes y4)))) ∧
  (∀ (s : State) (l : Fin 24), s.body.clocked = true → s.body.fab.links.length = 24 →
     let y := s.body.link l
     (y.state = .off → exec (.blockTransmit l) s = .next s) ∧
     (y.state ≠ .off → y.state ≠ .up → exec (.blockTransmit l) s = .next
       ({ s with body := { s.body with free := s.body.free + 1 } }.emits (.training l (Config.fabricId s.body.board.serial)
         (y.enabled && y.state == LinkState.notReady) (Config.freeWord s.body.free)))) ∧
     (∀ k rest, y.state = .up → y.replayQ = k :: rest →
       let k' : Block := { k with ack := y.rxSeq, ackv := y.rxAny, nak := k.nak && y.nakOut }
       exec (.blockTransmit l) s = .next ({ s with body := s.body.updLink l fun z => ({ z with
         replayQ := rest, mgmtUsed := ((k.flits.map flitMgmt).reverse ++ z.mgmtUsed).take 2000 } : Link).spoken k' }.emits
         (.block l (y.encode k')))) ∧
     (y.state = .up → y.replayQ = [] → ∃ z k,
       exec (.blockTransmit l) s = .next ({ s with body := s.body.updLink l fun _ => z }.emits (.block l (y.encode k))) ∧
       k.flits.length = 5 ∧ k.ack = y.rxSeq ∧ k.ackv = y.rxAny ∧ k.nak = y.nakDue ∧ z.nakDue = false ∧ z.state = .up ∧
       (256 ≤ y.heldBlocks.length → blockPays k = false) ∧
       (blockPays k = true → k.seq = y.seqNext ∧ z.seqNext = y.seqNext + 1 ∧ z.heldBlocks = y.heldBlocks ++ [k]) ∧
       (blockPays k = false → k.seq = y.seqNext - 1 ∧ z.seqNext = y.seqNext ∧ z.heldBlocks = y.heldBlocks)))

/-! ### Messages (R283 to R285, R294, R299, R300) -/

/-- Messages that arrive, and fabric time.

A message is dealt with by its kind's command when it waits first in its class, its granules then being free (R287); while the
memory that a WRITE or COLL names admits no traffic its class stalls (R226, R227, R288). One whose header is not well formed is
discarded and counted (R281, R285). One for another device goes on with HOPS less 1, or at HOPS 1 is discarded (R294). A WRITE or COLL
for this device that passes its checks is written whole and its event counted; nothing else in memory changes. One that the partition
does not admit or that the world map refuses (REFUSED_WORLD), whose event finds no invocation (REFUSED_IDLE), or that reaches a
protected batch-table slot (REFUSED_BOUNDS) changes no memory: it is recorded (KIND 2) and answered with a RESP (R119, R283 to R285).

A RESP for this device appends a FAULT_LINK record to its partition; it ends the invocation of the core that sent the refused
message, if one runs (R284, R437). A time message on a disabled port only frees its granules; on a slave port a Sync is kept with its
receive stamp, and its follow-up moves the fabric time by what receipt and sending differ beyond the measured delay and the asymmetry
and locks it, but on the grandmaster; other ports ignore both. A delay request is answered with two messages, an answer to this port's
own request is kept, and its follow-up gives the delay. At a sync interval every master port that is up sends Sync and follow-up
and every port that is not disabled asks for its peer's delay (R300; the messages' layout, log entry 103, is the model's). -/
def Obligations.FabricMessages : Prop :=
  (∀ (s : State) (l : Fin 24) (m : Msg) (c : Instr) (op : Byte), s.body.clocked = true → s.body.fab.links.length = 24 →
     ((c = .fabricWrite l m ∧ op = 1) ∨ (c = .fabricColl l m ∧ op = 4) ∨ (c = .fabricResp l m ∧ op = 6)) →
     ((op ≠ 6 ∧ s.body.stalls s.own m = true) → exec c s = .next s) ∧
     ((s.body.link l).takeMsg m = none → exec c s = .next s) ∧
     (∀ k, (op = 6 ∨ s.body.stalls s.own m = false) → (s.body.link l).takeMsg m = some k →
       let d := s.body.updLink l fun _ => k
       let becomes (b : Body) : Prop := exec c s = .next { s with body := b }
       (msgFormed m = false → becomes (d.updLink l fun y => { y with disc := satAdd y.disc 1 })) ∧
       (msgFormed m = true → m.op ≠ op → exec c s = .next s) ∧
       (msgFormed m = true → m.op = op → routeLocal (s.body.fab.entry m.dstDev.toNat) = false →
         (m.hops ≤ 1 → becomes (d.updLink l fun y => { y with disc := satAdd y.disc 1 })) ∧
         (1 < m.hops → becomes (d.route (some l) { m with hops := m.hops - 1 }))) ∧
       (msgFormed m = true → m.op = op → op ≠ 6 → routeLocal (s.body.fab.entry m.dstDev.toNat) = true → Claims.slotsWhole s →
         let a := m.addr.toNat
         let admitted := (s.body.part m.dstPart).admits m = true ∧ netCheck s.own s.body (.fabric m.dstPart l) a m.data.length = none
         let event := m.evt = 0xFF ∨ s.body.eventSlot m.dstPart ≠ none
         let refuses (st : W16) (at_ : Nat) : Prop := becomes (d.refuseMsg s.own l m st at_) ∧
           ((s.body.part m.dstPart).events.length < 1024 →
             ((d.refuseMsg s.own l m st at_).part m.dstPart).events = (s.body.part m.dstPart).events ++
               [faultRecord 2 st (3, l.val) at_ (s.body.fab.time % 2 ^ 64)])
         (¬ admitted → refuses stWorld a) ∧
         (admitted → ¬ event → refuses 0x0108 a) ∧
         (∀ h, admitted → event → protectedHit s.body a m.data.length = some h → refuses stBounds h) ∧
         (admitted → event → protectedHit s.body a m.data.length = none → s.body.mem.sound = true →
           ∃ t, exec c s = .next t ∧ t.own = s.own ∧ Claims.stored s t [(a, m.data)] ∧
             (m.evt = 0xFF → ∀ p i, t.body.slot p i = s.body.slot p i) ∧
             ∀ i, m.evt ≠ 0xFF → s.body.eventSlot m.dstPart = some i → Claims.counts s t ⟨m.dstPart, i⟩ m.evt.toNat)))) ∧
  ((∀ (s : State) (l : Fin 24) (m : Msg) (k : Link), s.body.clocked = true → (s.body.link l).takeMsg m = some k →
     msgFormed m = true → m.op = 6 →
     routeLocal (s.body.fab.entry m.dstDev.toNat) = true → s.body.parts.length = 8 →
     (s.body.part m.dstPart).events.length < 1024 →
     ∃ t, exec (.fabricResp l m) s = .next t ∧ t.own = s.own ∧
       faultRecord 1 0x0206 (3, l.val) l.val (s.body.fab.time % 2 ^ 64) ∈ (t.body.part m.dstPart).events ∧
       (∀ p, p ≠ m.dstPart → t.body.part p = s.body.part p) ∧
       (∀ x, (s.body.core (Fin.ofNat 32 m.core.toNat)).ctx = some x → x.part = m.dstPart →
         (s.body.slot x.part x.slot).invoke.isSome = true → Claims.slotsWhole s →
         (t.body.slot x.part x.slot).invoke = none ∧ (t.body.slot x.part x.slot).ctx = .unrun)) ∧
   (∀ (s : State) (l : Fin 24) (m : Msg) (k : Link) (rx : Nat), s.body.clocked = true → (s.body.link l).takeMsg m = some k →
     msgFormed m = true →
     m.op = 5 → m.addr.toNat % 256 = 1 → routeLocal (s.body.fab.entry m.dstDev.toNat) = true → s.body.fab.links.length = 24 →
     let d := s.body.updLink l fun _ => k
     let typ := beField m.data 0 1 % 16
     let role := (s.body.linkCfg l).role
     let p0 := (s.body.link l).ptp
     let becomes (f : PtpPort → PtpPort) : Prop := exec (.ptpMessage l m rx) s = .next { s with
       body := d.updLink l fun y => { y with ptp := f y.ptp } }
     let ignored : Prop := exec (.ptpMessage l m rx) s = .next { s with body := d }
     (role = 0 → ignored) ∧
     (role ≠ 2 → (typ = 0 ∨ typ = 8) → ignored) ∧
     (¬ (typ = 0 ∨ typ = 2 ∨ typ = 3 ∨ typ = 8 ∨ typ = 10) → ignored) ∧
     (role = 2 → typ = 0 → becomes fun y => { y with sync := some (BitVec.ofNat 16 (beField m.data 30 2), rx) }) ∧
     (∀ (n : W16) (at_ : Nat), role = 2 → typ = 8 → p0.sync = some (n, at_) →
       n.toNat = beField m.data 30 2 → s.body.fab.devId ≠ some (BitVec.truncate 12 s.body.fab.gm) →
       let off := (at_ : Int) - (bodyStamp m.data + p0.delay + (s.body.linkCfg l).asymmetry)
       ∃ t, exec (.ptpMessage l m rx) s = .next t ∧ t.own = s.own ∧ t.body.mem = s.body.mem ∧ t.body.parts = s.body.parts ∧
         t.body.fab.stamp = ((s.body.fab.stamp : Int) - off).toNat ∧ t.body.fab.locked = true ∧
         (t.body.link l).ptp.sync = none) ∧
     (role ≠ 0 → typ = 2 → (s.body.link l).up = true → (s.body.link l).txq.length = 6 →
       ∃ t, exec (.ptpMessage l m rx) s = .next t ∧ t.own = s.own ∧ t.body.mem = s.body.mem ∧ t.body.parts = s.body.parts ∧
         t.body.fab.time = s.body.fab.time ∧ ((t.body.link l).txq.getD 4 []).length = ((s.body.link l).txq.getD 4 []).length + 2) ∧
     (∀ (n : W16) (t1 : Nat), role ≠ 0 → p0.req = some (n, t1) → n = BitVec.ofNat 16 (beField m.data 30 2) →
       (typ = 3 → becomes fun y => { y with resp := some ((bodyStamp m.data).toNat, rx) }) ∧
       (∀ t2 t4 : Nat, typ = 10 → p0.resp = some (t2, t4) → becomes fun y => { y with
         delay := (((t4 : Int) - (t1 : Int)) - (bodyStamp m.data - (t2 : Int))) / 2, req := none, resp := none }))) ∧
   ∀ s : State, s.body.clocked = true → s.body.fab.links.length = 24 →
     (s.body.fab.syncDue = false → exec .ptpSync s = .next s) ∧
     (s.body.fab.syncDue = true → ∃ t, exec .ptpSync s = .next t ∧ t.own = s.own ∧ t.body.mem = s.body.mem ∧
       t.body.parts = s.body.parts ∧ t.body.out = s.body.out ∧ t.body.fab.ptpSeq = s.body.fab.ptpSeq + 1 ∧
       t.body.fab.time = s.body.fab.time ∧ t.body.fab.syncAt = s.body.fab.time + s.body.fab.interval ∧
       ∀ l, (((s.body.link l).up = false ∨ (s.body.linkCfg l).role = 0) → t.body.link l = s.body.link l) ∧
         ((s.body.link l).up = true → (s.body.linkCfg l).role ≠ 0 → (s.body.link l).txq.length = 6 →
           (t.body.link l).ptp.req = some ((s.body.link l).ptp.seq, (s.body.sendStamps l).2) ∧
           ((t.body.link l).txq.getD 4 []).length = ((s.body.link l).txq.getD 4 []).length +
             (if (s.body.linkCfg l).role = 1 then 3 else 1))))

/-! ### Collectives (R305, R309 to R313, R319) -/

/-- Collectives, from configuration to completion.

COLL_CFG, in the order of its checks: a member list outside the partition's data region is REFUSED_WORLD, with its record; a field
out of range (sizes whose product is not N, a rank of N or more, a mask with a reserved bit, an empty mask of a dimension longer than
one, or masks of one dimension that share a link) REFUSED_FORMAT; a group that an invocation uses BUSY; on a tripped module it stays
PENDING; a list that cannot be read ends FAULT_ECC_UNCORR, one with a member that names no partition REFUSED_FORMAT. Else the group is
configured, and the notices and held data of the old one are dropped (R227, R305, R416, R511, R512).

A COLL entry joins its group's queue; with sixteen entries out it is not issued. The oldest of a group starts while no other of its
group and fewer than four on the module run, its invocation runs, and no data of the group's last waits for a peer: it sends its start
notices; a PERMUTE takes up the read-out notices that came before it, and moves the pieces that can move (R125, R310, R312, R319).

A notice for a group that is not configured, or of a rank that it has not, does nothing; one that the checks of every COLL message
refuse is refused as they are (R284). A peer's start notice sends the data that waits for it; one that no data waited for, or that comes
while a COLL of the group runs, is kept, and a running PERMUTE moves what it lets move. A read-out notice that the running PERMUTE awaits
marks the place, and its piece may move; another is kept for the group's next PERMUTE (R310, R312, R319).

While its memory flows, and with every other member's start notice in (a BARRIER), a completed COLL leaves the group's queue; its
result, computed from this member's bytes and the other members' (log entry 31: they are the command's inputs), is stored, the stage
that its traffic passed through holding free bytes (log entry 105), with no other byte changed, and its entry completes; held up it
stays. A PERMUTE first moves the pieces that can move, and ends once every place holds its new piece. The result of an ALL_REDUCE is the
sum, and of a norm reduction the merged vector, in the ring order of R311, of an ALL_GATHER every member's bytes in rank order, of a
BROADCAST the root's, of a BARRIER none (R226, R309, R311 to R313, R319). -/
def Obligations.Collectives : Prop :=
  (∀ (s : State) (x : Xnx) (p : Fin 8), s.takesOn x p = true → x.len = 44 → x.arg0 < 16 →
     let n := xArg x 0 2
     let dims := xArg x 2 1
     let ns := [xArg x 4 2, xArg x 6 2, xArg x 8 2]
     let rank := xArg x 0xA 2
     let mask (i : Nat) : W32 := if i < 6 then BitVec.ofNat 32 (xArg x (0xC + 4 * i) 4) else 0
     let at_ := xArg x 0x24 8
     let b := s.commandedWith 0x0306 x
     let bad := xArg x 3 1 ≠ 0 ∨ n < 2 ∨ 4096 < n ∨ dims = 0 ∨ 3 < dims ∨ (∃ k ∈ ns, k = 0 ∨ 4096 < k) ∨
       xArg x 4 2 * xArg x 6 2 * xArg x 8 2 ≠ n ∨ (∃ k ∈ ns.drop dims, k ≠ 1) ∨ n ≤ rank ∨ (∃ i, i < 6 ∧ 2 ^ 24 ≤ (mask i).toNat) ∨
       ∃ d, d < 3 ∧ ((1 < ns.getD d 1 ∧ (mask (2 * d) = 0 ∨ mask (2 * d + 1) = 0)) ∨ mask (2 * d) &&& mask (2 * d + 1) ≠ 0)
     let ends (b : Body) (st : W16) : Prop := exec (.collCfg x) s = .next (s.answer s.own b x st 0 [])
     (s.own.inData p at_ (2 * n) = false →
       ends ((s.commanded 0x0306 x).logForeign s.own (.part p) (s.own.outside p at_)) stWorld) ∧
     (s.own.inData p at_ (2 * n) = true → bad → ends (s.commanded 0x0306 x) stFormat) ∧
     (s.own.inData p at_ (2 * n) = true → ¬ bad → (s.body.part p).collecting x.arg0 = true → ends (s.commanded 0x0306 x) stBusy) ∧
     (s.own.inData p at_ (2 * n) = true → ¬ bad → (s.body.part p).collecting x.arg0 = false →
       (s.body.board.tripped = true → exec (.collCfg x) s = .next (s.promise s.own b x)) ∧
       (s.body.board.tripped = false →
         (∀ w, b.firstBad s.own [(at_, 2 * n)] = some w → ends (b.stewardBad s.own p w) ftEcc) ∧
         (b.firstBad s.own [(at_, 2 * n)] = none →
           ((∃ i, i < n ∧ 0x8000 ≤ s.body.mem.le (at_ + 2 * i) 2) → ends (s.commanded 0x0306 x) stFormat) ∧
           ((∀ i, i < n → s.body.mem.le (at_ + 2 * i) 2 < 0x8000) →
             ends ((b.stewardRead s.own [(at_, 2 * n)]).updPart p fun y =>
               { y with
                 coll := y.coll.set x.arg0 (some ⟨n, dims, xArg x 4 2, xArg x 6 2, xArg x 8 2, rank, (List.range 6).map mask,
                   membersAt s.body.mem at_ n⟩)
                 collNotices := y.collNotices.filter fun c => c.1 != x.arg0
                 collReadouts := y.collReadouts.filter fun c => c.1 != x.arg0
                 collHeld := y.collHeld.filter fun h => h.group.val != x.arg0 }) stOk))))) ∧
  ((∀ (s : State) (c : Fin 32) (x : CtxId) (e : Ae), Claims.fetched s c → s.body.nextAe c kColl = some (x, e) →
     (s.body.mayLaunch c = false → exec (.coll c) s = .next s) ∧
     (s.body.mayLaunch c = true → exec (.coll c) s = .next { s with
       body := ((s.body.updCx c fun k => k.launch e).updPart x.part fun p =>
         { p with collRuns := p.collRuns ++ [⟨Fin.ofNat 16 (cdOf (s.body.imageOf x) e.ref).group, x, c,
           (s.body.core c).cx.aeIdx.toNat, BitVec.ofNat 8 e.evt, e.ref, false, [], [], [], []⟩] }).stewardRead s.own
             (s.body.fetchReads s.own c) })) ∧
   (∀ (s : State) (p : Fin 8) (g : Fin 16), s.body.clocked = true →
     (((s.body.part p).collRuns.find? (·.group == g) = none ∨ (s.body.part p).coll.getD g.val none = none) →
       exec (.collStart p g) s = .next s) ∧
     ∀ r cg, (s.body.part p).collRuns.find? (·.group == g) = some r → (s.body.part p).coll.getD g.val none = some cg →
       let c := cdOf (s.body.imageOf r.ctx) r.ref
       let may := r.started = false ∧ s.body.collsRunning < 4 ∧ (s.body.slot r.ctx.part r.ctx.slot).run = .running ∧
         ∀ h ∈ (s.body.part p).collHeld, h.group ≠ g
       let begins (early : List Nat) : Body := s.body.updPart p fun y => { y with
         collRuns := y.collRuns.map fun k =>
           if k.group = g ∧ k.core = r.core ∧ k.idx = r.idx then { k with started := true, readOut := early } else k
         collReadouts := early.foldl (fun l d => l.erase (g.val, d)) y.collReadouts }
       let notices (b : Body) : Body := (cg.sources c (s.body.imageOf r.ctx)).foldl (fun (b : Body) k => b.sendNotice p cg r.core k) b
       (¬ may → exec (.collStart p g) s = .next s) ∧
       (may → c.op ≠ cdPermute → exec (.collStart p g) s = .next { s with body := notices (begins []) }) ∧
       (may → c.op = cdPermute → exec (.collStart p g) s = .next { s with body := permAdvance s.own (notices
         (begins (((s.body.part p).collReadouts.filter (·.1 == g.val)).map (·.2)).eraseDups)) p g }))) ∧
  (∀ (s : State) (w : CollPeer) (n : Nat), s.body.clocked = true →
     let y := s.body.part w.part
     (∀ c ∈ [Instr.collStartNotice w, .permuteReadoutNotice w n],
       (y.coll.getD w.group.val none = none → exec c s = .next s) ∧
       ∀ cg, y.coll.getD w.group.val none = some cg →
         (cg.n ≤ w.rank → exec c s = .next s) ∧
         (∀ st a, w.rank < cg.n → fabricCheck s.own s.body w.link (noticeMsg w s.body cg) = some (st, a) →
           exec c s = .next { s with body := s.body.refuseMsg s.own w.link (noticeMsg w s.body cg) st a })) ∧
     (∀ cg, y.coll.getD w.group.val none = some cg → w.rank < cg.n →
       fabricCheck s.own s.body w.link (noticeMsg w s.body cg) = none →
       let held := ∃ h ∈ y.collHeld, h.group = w.group ∧ h.send.rank = w.rank
       let runs := ∃ r ∈ y.collRuns, r.group = w.group ∧ r.started = true
       let awaits := ∃ r ∈ y.collRuns, r.group = w.group ∧ r.started = true ∧
         (let c := cdOf (s.body.imageOf r.ctx) r.ref
          r.awaits c cg (ptabOf (s.body.imageOf r.ctx) c.ptab) n = true)
       let kept (b : Body) : Body := b.updPart w.part fun y => { y with collNotices := y.collNotices ++ [(w.group.val, w.rank)] }
       (held → ¬ runs → ∃ t, exec (.collStartNotice w) s = .next t ∧ t.own = s.own ∧ t.body.mem = s.body.mem ∧
         t.body.cores = s.body.cores ∧ (t.body.part w.part).collNotices = y.collNotices ∧
         ∀ h ∈ (t.body.part w.part).collHeld, ¬ (h.group = w.group ∧ h.send.rank = w.rank)) ∧
       let starts (b : Body) : Prop := exec (.collStartNotice w) s = .next { s with body := b }
       let reads (b : Body) : Prop := exec (.permuteReadoutNotice w n) s = .next { s with body := b }
       let read (r : CollRun) : CollRun := if r.group = w.group ∧ r.started then { r with readOut := r.readOut ++ [n] } else r
       (¬ held → ¬ runs → starts (kept s.body)) ∧
       (runs → starts (permAdvance s.own (kept (s.body.releaseHeld w.part w.group cg w.rank)) w.part w.group)) ∧
       (awaits → reads (permAdvance s.own (s.body.updPart w.part fun y => { y with collRuns := y.collRuns.map read }) w.part w.group)) ∧
       (¬ awaits → reads (s.body.updPart w.part fun y => { y with collReadouts := y.collReadouts ++ [(w.group.val, n)] })))) ∧
  ((∀ (s : State) (p : Fin 8) (g : Fin 16) (inputs : List (List Byte)), s.body.clocked = true →
     ((s.body.part p).collRuns.find? (fun r => r.group == g && r.started) = none ∨ (s.body.part p).coll.getD g.val none = none) →
     exec (.collComplete p g inputs) s = .next s) ∧
   (∀ (s : State) (p : Fin 8) (g : Fin 16) (inputs : List (List Byte)) (r : CollRun) (cg : CollGroup), s.body.clocked = true →
     (s.body.part p).collRuns.find? (fun r => r.group == g && r.started) = some r →
     (s.body.part p).coll.getD g.val none = some cg →
     let c := cdOf (s.body.imageOf r.ctx) r.ref
     let inp : Nat → List Byte := fun k => if k = cg.rank then s.body.mem.bytes c.src (c.inputBytes cg.rank)
       else (inputs.getD k []).take (c.inputBytes k)
     let ws := (c.staged.map fun st => (st.1, freeBytes s.body.free st.2)) ++ c.result cg inp
     let goes (b : Body) : Prop := (∀ r', (b.part p).collRuns.find? (fun r => r.group == g && r.started) = some r' →
         collReady b p g cg r' = true) ∧ b.flows s.own [(c.src, c.srcBytes), (c.dst, c.dstBytes)] = true
     (c.op ≠ cdPermute → ¬ goes s.body → exec (.collComplete p g inputs) s = .next s) ∧
     (∀ l, c.op ≠ cdPermute → goes s.body → Claims.unguarded s (entryOf r.ctx r.core r.idx) ws →
       (s.body.core r.core).cx.launched.find? (·.idx == r.idx) = some l → Claims.slotsWhole s →
       ∃ t, exec (.collComplete p g inputs) s = .next t ∧ t.own = s.own ∧ t.body.board = s.body.board ∧ t.body.mail = s.body.mail ∧
         t.body.out = s.body.out ∧ Claims.stored s t ws ∧
         (∀ k ∈ (t.body.part p).collRuns, ¬ (k.group = g ∧ k.core = r.core ∧ k.idx = r.idx)) ∧
         Claims.counts s t r.ctx l.evt.toNat) ∧
     (c.op = cdPermute →
       let b := permAdvance s.own s.body p g
       b.mem.sound = true → (b.part p).coll.getD g.val none = some cg →
       ∀ r', (b.part p).collRuns.find? (fun r => r.group == g && r.started) = some r' → r'.ctx = r.ctx → r'.ref = r.ref →
         b.imageOf r.ctx = s.body.imageOf r.ctx →
         (¬ goes b → exec (.collComplete p g inputs) s = .next { s with body := b }) ∧
         (goes b → ∃ t, exec (.collComplete p g inputs) s = .next t ∧ t.own = s.own ∧ (∀ a, t.body.mem.byte a = b.mem.byte a) ∧
           (∀ k ∈ (t.body.part p).collRuns, ¬ (k.group = g ∧ k.core = r'.core ∧ k.idx = r'.idx))))) ∧
   ∀ (c : Cd) (g : CollGroup) (input : Nat → List Byte),
     (c.op = cdReduce → c.result g input = [(c.dst, (List.range (c.bytes / 4)).flatMap fun i =>
       leBytes 4 (g.reduce fadd (0 : W32) c.bytes (4 * i) fun r => wordAt (input r) (4 * i)).toNat)]) ∧
     (c.op = cdNorm → c.result g input = [(c.src + 0x4000, (List.range 256).flatMap fun i =>
       normBytes (g.reduce normSum (⟨0, 0⟩, 0) 4096 (16 * i) fun r => slicesSum (input r) i))]) ∧
     (c.op = cdGather → c.result g input = (List.range g.n).map fun r => (c.dst + r * c.bytes, input r)) ∧
     (c.op = cdBroadcast → c.result g input = [(c.dst, input c.root)]) ∧
     ((c.op = cdBarrier ∨ c.op = cdPermute) → c.result g input = []))

/-! ### Media commands (R338, R339, R350, R356, R373, R417) -/

/-- Media configuration.

The five media commands, each in the order of its checks: reserved bytes that are not zero (and an alignment input of another
format) are REFUSED_FORMAT; memory that the partition does not own REFUSED_WORLD, with its record; a field out of range REFUSED_BOUNDS;
an MJ queued or running that uses what the command configures BUSY; work space or a session buffer too small REFUSED_FIT. Else the
command completes OK (MEDIA_VOCAB: PENDING) and changes only what it configures: limits and work space; a stream at its first position;
one more vocabulary asked for; an alignment set; an encode session, whose next MJ begins a new sequence (R338, R339, R350, R356, R373,
R417, R511; the order of the checks, where the spec gives none, is the model's).

The oldest vocabulary asked for, read whole: with its reserved bytes zero, its length, SPLIT and every merge in range (each merge of
ids below its own), it is the partition's vocabulary and MEDIA_VOCAB ends OK; with a reserved byte not zero it ends REFUSED_FORMAT, with
a merge, length or SPLIT out of range REFUSED_BOUNDS, and the old vocabulary and every counter stay (R11); a read that the world map
refuses is recorded and refuses the command, an unreadable one ends it FAULT_ECC_UNCORR; one whose memory admits no traffic waits, as
all do once the steward has stopped (R19, R226, R338, R417, R420, R512). -/
def Obligations.MediaConfiguration : Prop :=
  (∀ (s : State) (x : Xnx) (p : Fin 8), s.takesOn x p = true →
     let ends (c : Instr) (b : Body) (st : W16) : Prop := exec c s = .next (s.answer s.own b x st 0 [])
     let foreign (c : Instr) (code a : Nat) : Prop := ends c ((s.commanded code x).logForeign s.own (.part p) a) stWorld
     (x.len = 32 → x.arg0 = 0 →
       let owned := s.own.inData p (xArg x 0x10 8) (xArg x 0x18 8) = true
       let wide := ¬ (1 ≤ xArg x 0 4 ∧ xArg x 0 4 ≤ 2 ^ 28 ∧ 1 ≤ xArg x 4 4 ∧ xArg x 4 4 ≤ 2 ^ 28 ∧ 16 ≤ xArg x 8 2)
       let fits := xArg x 0 4 * 16 * ((s.own.prec p).block.nImg + (s.own.prec p).block.nVdec) ≤ xArg x 0x18 8
       let b := s.commanded 0x0401 x
       (zeros x.args 0xA 6 = false → ends (.mediaCfg x) b stFormat) ∧
       (zeros x.args 0xA 6 = true → ¬ owned → foreign (.mediaCfg x) 0x0401 (s.own.outside p (xArg x 0x10 8))) ∧
       (zeros x.args 0xA 6 = true → owned → wide → ends (.mediaCfg x) b stBounds) ∧
       (zeros x.args 0xA 6 = true → owned → ¬ wide → (s.body.part p).mjs ≠ [] → ends (.mediaCfg x) b stBusy) ∧
       (zeros x.args 0xA 6 = true → owned → ¬ wide → (s.body.part p).mjs = [] → ¬ fits → ends (.mediaCfg x) b stFit) ∧
       (zeros x.args 0xA 6 = true → owned → ¬ wide → (s.body.part p).mjs = [] → fits →
         ends (.mediaCfg x) ((s.commandedWith 0x0401 x).updPart p fun y => { y with
           maxPixels := xArg x 0 4, maxSamples := xArg x 4 4, ratioCap := xArg x 8 2
           work := some (xArg x 0x10 8, xArg x 0x18 8) }) stOk)) ∧
     (x.len = 44 → x.arg0 < 16 →
       let index := s.own.inData p (xArg x 0 8) (16 * xArg x 8 4) = true
       let params := s.own.ownsMem p (xArg x 0x20 8) (64 * xArg x 0x1C 4) = true
       let wide := xArg x 8 4 = 0 ∨ xArg x 8 4 ≤ xArg x 0x18 4 ∨ ringOk (xArg x 0x1C 4) = false ∨ xArg x 0x28 4 < 1024
       let used := ∃ m ∈ (s.body.part p).mjs, m.ofStream x.arg0 = true
       let mean : W32 := BitVec.ofNat 32 (xArg x 0x28 4)
       (¬ index → foreign (.mediaStream x) 0x0402 (s.own.outside p (xArg x 0 8))) ∧
       (index → ¬ params → foreign (.mediaStream x) 0x0402 (xArg x 0x20 8)) ∧
       (index → params → wide → ends (.mediaStream x) (s.commanded 0x0402 x) stBounds) ∧
       (index → params → ¬ wide → used → ends (.mediaStream x) (s.commanded 0x0402 x) stBusy) ∧
       (index → params → ¬ wide → ¬ used → ends (.mediaStream x) ((s.commandedWith 0x0402 x).updPart p fun y => { y with
         streams := y.streams.set x.arg0 { Stream.reset with
           configured := true, indexBase := xArg x 0 8, n := xArg x 8 4, epoch := BitVec.ofNat 32 (xArg x 0xC 4)
           seed := BitVec.ofNat 64 (xArg x 0x10 8), pos := BitVec.ofNat 32 (xArg x 0x18 4), paramRing := xArg x 0x1C 4
           paramBase := xArg x 0x20 8, mean := mean, meanPrev := mean, mean0 := mean } }) stOk)) ∧
     (x.len = 12 → x.arg0 = 0 →
       let owned := s.own.ownsMem p (xArg x 0 8) (xArg x 8 4) = true
       (¬ owned → foreign (.mediaVocab x) 0x0403 (xArg x 0 8)) ∧
       (owned → xArg x 8 4 < 16 → ends (.mediaVocab x) (s.commanded 0x0403 x) stBounds) ∧
       (owned → 16 ≤ xArg x 8 4 → (∃ m ∈ (s.body.part p).mjs, m.unit = 4) → ends (.mediaVocab x) (s.commanded 0x0403 x) stBusy) ∧
       (owned → 16 ≤ xArg x 8 4 → (∀ m ∈ (s.body.part p).mjs, m.unit ≠ 4) →
         exec (.mediaVocab x) s = .next (s.promise s.own ((s.commandedWith 0x0403 x).updPart p fun y =>
           { y with vocabReqs := y.vocabReqs ++ [(xArg x 0 8, xArg x 8 4, xTicket x)] }) x))) ∧
     (x.len = 32 + 32 * xArg x 0 1 → x.arg0 < 4 →
       let ins := (List.range (xArg x 0 1)).map (alignInOf x.args)
       let areas := ins.flatMap fun i => [(i.ring, i.rlen * i.recBytes), (i.widx, 8), (i.ridx, 8)]
       let badForm := zeros x.args 3 1 = false ∨ zeros x.args 0x1A 6 = false ∨
         (∃ i, i < xArg x 0 1 ∧ zeros x.args (0x20 + 32 * i + 0xF) 1 = false) ∨ ∃ i ∈ ins, i.fmt ≠ 8 ∧ i.fmt ≠ 9
       let wide := xArg x 0 1 = 0 ∨ 8 < xArg x 0 1 ∨ 1 < xArg x 1 1 ∨ 2 < xArg x 2 1 ∨ xArg x 4 4 < 1000 ∨ 1000000000 < xArg x 4 4 ∨
         1000000000 < xArg x 8 4 ∨ ∃ i ∈ ins, (∀ k, k ≤ 32 → i.rlen ≠ 2 ^ k) ∨ i.es = 0 ∨ 1024 < i.es
       (badForm → ends (.mediaAlign x) (s.commanded 0x0404 x) stFormat) ∧
       (∀ r, ¬ badForm → areas.find? (fun r => !s.own.ownsMem p r.1 r.2) = some r → foreign (.mediaAlign x) 0x0404 r.1) ∧
       (¬ badForm → (∀ r ∈ areas, s.own.ownsMem p r.1 r.2 = true) →
         (wide → ends (.mediaAlign x) (s.commanded 0x0404 x) stBounds) ∧
         (¬ wide → ends (.mediaAlign x) ((s.commandedWith 0x0404 x).updPart p fun y => { y with
           aligns := y.aligns.set x.arg0 ⟨true, xArg x 1 1, xArg x 2 1, xArg x 4 4, xArg x 8 4, xArg x 0xC 4, stampNs x.args 0x10,
             ins, 0⟩ }) stOk))) ∧
     (x.len = 48 → x.arg0 < 8 →
       let e := sessionOf x.args
       let owned := s.own.inData p e.refBuf 1 = true
       let used := ∃ m ∈ (s.body.part p).mjs, m.session = some x.arg0
       (¬ owned → foreign (.mediaEncode x) 0x0405 e.refBuf) ∧
       (owned → e.inRange = false → ends (.mediaEncode x) (s.commanded 0x0405 x) stBounds) ∧
       (owned → e.inRange = true → used → ends (.mediaEncode x) (s.commanded 0x0405 x) stBusy) ∧
       (owned → e.inRange = true → ¬ used → s.own.inData p e.refBuf e.refBytes = false →
         ends (.mediaEncode x) (s.commanded 0x0405 x) stFit) ∧
       (owned → e.inRange = true → ¬ used → s.own.inData p e.refBuf e.refBytes = true →
         ends (.mediaEncode x) ((s.commandedWith 0x0405 x).updPart p fun y => { y with encs := y.encs.set x.arg0 e }) stOk))) ∧
  (∀ (s : State) (p : Fin 8), s.body.clocked = true →
     ((s.body.part p).vocabReqs = [] → exec (.mediaVocabComplete p) s = .next s) ∧
     ∀ (a n : Nat) (t : Ticket) (rest : List (Nat × Nat × Ticket)), (s.body.part p).vocabReqs = (a, n, t) :: rest →
     let goes := s.body.stewardUp = true ∧ s.body.flows s.own [(a, n)] = true
     let b := s.body.updPart p fun y => { y with vocabReqs := rest }
     let becomes (b : Body) : Prop := exec (.mediaVocabComplete p) s = .next { s with body := b }
     (¬ goes → exec (.mediaVocabComplete p) s = .next s) ∧
     (∀ st x, goes → s.body.readRefused s.own (.media p 0 0) [(a, n)] = some (st, x) →
       becomes ((b.logRefusal s.own p st (4, 0) x).respond s.own t st 0 [])) ∧
     (∀ w, goes → s.body.readRefused s.own (.media p 0 0) [(a, n)] = none → s.body.firstBad s.own [(a, n)] = some w →
       becomes ((b.stewardBad s.own p w).respond s.own t ftEcc 0 [])) ∧
     (goes → s.body.readRefused s.own (.media p 0 0) [(a, n)] = none → s.body.firstBad s.own [(a, n)] = none →
       let k := s.body.mem.le a 4
       let ms := mergesAt s.body.mem (a + 16) k
       let fine := k ≤ 261888 ∧ n = 16 + 8 * k ∧ s.body.mem.le (a + 12) 1 ≤ 1 ∧
         ∀ i, i < k → ∀ m, ms[i]? = some m → m.1 < 256 + i ∧ m.2 < 256 + i
       (s.body.mem.le (a + 13) 3 ≠ 0 → becomes (b.respond s.own t stFormat 0 [])) ∧
       (s.body.mem.le (a + 13) 3 = 0 → ¬ fine → becomes (b.respond s.own t stBounds 0 [])) ∧
       (s.body.mem.le (a + 13) 3 = 0 → fine → becomes ((((b.countReadsOf s.own [(a, n)]).correctedIn s.own [(a, n)]).updPart p fun y =>
         { y with vocab := ⟨true, BitVec.ofNat 32 (s.body.mem.le (a + 4) 4), BitVec.ofNat 32 (s.body.mem.le (a + 8) 4),
           s.body.mem.le (a + 12) 1, ms⟩ }).respond s.own t stOk 0 []))))

/-! ### Media jobs (R342, R345, R354, R356 to R358, R370, R374 to R377) -/

/-- Decode jobs and their slots.

A MEDIA entry takes the next COUNT positions of its stream, in order and over epoch ends, or the next COUNT ticks of its alignment
set, or its session's turn, and queues its MJ; with sixteen entries out it is not issued, and an alignment entry whose flag bitmap is
refused takes no tick and completes (R53; log entry 108). An MJ starts when it may and no MJ of the module that arrived earlier may,
with fewer than 32 in progress, its budget the smaller of its cap and FACTOR times the stream's mean, and free units take its slots in
order, an encode MJ beginning its session's sequence where that is asked for; a started MJ whose every slot is done leaves the queue and
its entry completes. None writes memory (R125, R339, R345, R354, R358, R373, R374).

The end of a slot's decode, once its reads flow and can be read; an unreadable word faults as its core's (R171), and with no such
slot in work nothing happens. It ends at its budget when the work would reach it (unless the
sample is refused), VOID with MEDIA_VOID; else with its own outcome, or VOID where the memories refuse what it writes (log entry 108).
Either way the slot is done, counted once in MED_DONE, its 32-byte status record, its bytes and the batch-table entry, statistics,
motion map and flags that its MJ asks for are written, nothing else in memory changes, and the other command, which claims the other
end, changes nothing (R19, R226, R342, R354).

The next progress band of a video slot: the rows of its frame that the band names are in memory, nothing else changes, the band is
counted and PEVT is incremented; while the slot's reads wait, for a frame that the clip does not give, and for a band out of turn nothing
happens (R226, R370). -/
def Obligations.MediaJobs : Prop :=
  ((∀ (s : State) (c : Fin 32) (x : CtxId) (e : Ae), Claims.fetched s c → s.body.nextAe c kMedia = some (x, e) →
     let j := mjOf (s.body.imageOf x) e.ref
     let y := (s.body.part x.part).streams.getD j.stream Stream.reset
     let g := (s.body.part x.part).aligns.getD j.stream AlignSet.reset
     (s.body.mayLaunch c = false → exec (.media c) s = .next s) ∧
     (∀ st, s.body.mayLaunch c = true → Claims.slotsWhole s → j.unit = 5 → j.bitmapRefused (s.body.part x.part) c = some st →
       e.evt < 256 → (∀ l ∈ (s.body.core c).cx.launched, l.idx ≠ (s.body.core c).cx.aeIdx.toNat) →
       ∃ t, exec (.media c) s = .next t ∧ t.own = s.own ∧ t.body.mem = s.body.mem ∧ Claims.counts s t x e.evt ∧
         (t.body.core c).cx.launched = (s.body.core c).cx.launched ∧ (t.body.part x.part).mjs = (s.body.part x.part).mjs ∧
         (t.body.part x.part).aligns = (s.body.part x.part).aligns) ∧
     (s.body.mayLaunch c = true → Claims.slotsWhole s → (j.unit = 5 → j.bitmapRefused (s.body.part x.part) c = none) →
     ∃ t, exec (.media c) s = .next t ∧ Claims.quiet s t ∧ t.body.mem = s.body.mem ∧
       (t.body.core c).cx = (s.body.core c).cx.launch e ∧
       (∃ m, (t.body.part x.part).mjs = (s.body.part x.part).mjs ++ [m] ∧ m.ctx = x ∧ m.core = c ∧
         m.idx = (s.body.core c).cx.aeIdx.toNat ∧ (m.started = true ↔ j.unit = 5) ∧
         (j.unit = 5 → m.slots.map (·.pos) = (List.range j.count).map (g.tick + ·)) ∧
         (j.unit ≠ 5 → j.encodes = true → m.session = some j.session ∧ m.slots = [encodeSlot]) ∧
         (j.unit ≠ 5 → j.encodes = false → m.slots.map (fun k => (k.pos, k.epoch)) =
           (List.range j.count).map fun i => ((y.pos.toNat + i) % max 1 y.n,
             y.epoch + BitVec.ofNat 32 ((y.pos.toNat + i) / max 1 y.n)))) ∧
       (j.unit = 5 → j.stream < (s.body.part x.part).aligns.length →
         ((t.body.part x.part).aligns.getD j.stream AlignSet.reset).tick = g.tick + j.count) ∧
       (j.unit ≠ 5 → j.encodes = false → j.stream < (s.body.part x.part).streams.length →
         ((t.body.part x.part).streams.getD j.stream Stream.reset).pos =
           BitVec.ofNat 32 ((y.pos.toNat + j.count) % max 1 y.n)))) ∧
   (∀ (s : State) (p : Fin 8) (c : Fin 32) (ae : Nat), s.body.clocked = true → s.body.mjRunOf p c ae = none →
     exec (.mjStart p c ae) s = .next s ∧ exec (.mjComplete p c ae) s = .next s) ∧
   (∀ (s : State) (p : Fin 8) (c : Fin 32) (ae : Nat) (m : MjRun), s.body.clocked = true → s.body.mjRunOf p c ae = some m →
     let j := s.body.mjDesc m
     let may := s.body.mjReady s.own p m = true ∧ s.body.mjsRunning < 32 ∧ s.body.mjBehind s.own m = false
     (¬ may → exec (.mjStart p c ae) s = .next s) ∧
     (may → (∀ n ∈ (s.body.part p).mjs, n.same m = true → n = m) →
       ∃ t, exec (.mjStart p c ae) s = .next t ∧ Claims.quiet s t ∧ t.body.mem = s.body.mem ∧ t.body.cores = s.body.cores ∧
         (∀ q, q ≠ p → t.body.part q = s.body.part q) ∧
         (∃ n ∈ (t.body.part p).mjs, n.same m = true ∧ n.started = true ∧ (m.session = none → n.budget = min j.cap
           (j.useFactor * (((s.body.part p).streams.getD m.stream Stream.reset).meanFor m.number).toNat))) ∧
         (∀ i, m.session = some i → i < (s.body.part p).encs.length → (t.body.part p).encs.getD i EncSession.reset =
           ((s.body.part p).encs.getD i EncSession.reset).begin j)) ∧
     ((m.started = false ∨ ∃ k ∈ m.slots, k.done = false) → exec (.mjComplete p c ae) s = .next s) ∧
     (∀ l, m.started = true → (∀ k ∈ m.slots, k.done = true) → (s.body.core c).cx.launched.find? (·.idx == ae) = some l →
       Claims.slotsWhole s →
       ∃ t, exec (.mjComplete p c ae) s = .next t ∧ Claims.quiet s t ∧ t.body.mem = s.body.mem ∧
         (∀ n ∈ (t.body.part p).mjs, n.same m = false) ∧ Claims.counts s t m.ctx l.evt.toNat))) ∧
  ((∀ (s : State) (p : Fin 8) (c : Fin 32) (ae slot band : Nat), s.body.clocked = true → s.body.workingSlot p c ae slot = none →
     exec (.sampleDecodeComplete p c ae slot) s = .next s ∧ exec (.decodeBudgetExhausted p c ae slot) s = .next s ∧
       exec (.videoBandProgress p c ae slot band) s = .next s) ∧
   ∀ (s : State) (p : Fin 8) (c : Fin 32) (ae slot : Nat) (m : MjRun) (k : MediaSlot), s.body.clocked = true → Claims.slotsWhole s →
     s.body.workingSlot p c ae slot = some (m, k) → m.ctx.part = p →
     (s.body.slotWork s.own p m slot k = .waits → exec (.sampleDecodeComplete p c ae slot) s = .next s ∧
       exec (.decodeBudgetExhausted p c ae slot) s = .next s) ∧
     (∀ w, s.body.slotWork s.own p m slot k = .unreadable w →
       exec (.sampleDecodeComplete p c ae slot) s = .next { s with body := s.body.readBad s.own (.media p c ae) w } ∧
       exec (.decodeBudgetExhausted p c ae slot) s = .next { s with body := s.body.readBad s.own (.media p c ae) w }) ∧
     ∀ out : SlotOut, s.body.slotWork s.own p m slot k = .made out →
     let j := s.body.mjDesc m
     let spent := out.exhausts m.budget
     let res := s.body.slotOut s.own m slot (if spent then spentOut out m.budget else out)
     let r := statusRecord res.status res.vals.isNone res.trunc (s.body.slotSources s.own p m k).1.index k.epoch k.pos res.damage
       res.conceal res.cycles res.len
     let ws := (j.stat + 32 * slot, r) :: s.body.slotWrites m slot res
     (spent = true → exec (.sampleDecodeComplete p c ae slot) s = .next s) ∧
     (spent = false → exec (.decodeBudgetExhausted p c ae slot) s = .next s) ∧
     (Claims.unguarded s (.media p m.core m.idx) ws → (∀ n ∈ (s.body.part p).mjs, n.same m = true → n = m) →
       ∃ t, exec (if spent then .decodeBudgetExhausted p c ae slot else .sampleDecodeComplete p c ae slot) s = .next t ∧
         t.own = s.own ∧ t.body.mail = s.body.mail ∧ Claims.stored s t ws ∧
         (t.body.part p).medDone = (s.body.part p).medDone + 1 ∧
         ∃ n ∈ (t.body.part p).mjs, n.same m = true ∧ (n.slots[slot]?).map (·.done) = some true)) ∧
  (∀ (s : State) (p : Fin 8) (c : Fin 32) (ae slot band : Nat) (m : MjRun) (k : MediaSlot), s.body.clocked = true →
     Claims.slotsWhole s → s.body.workingSlot p c ae slot = some (m, k) → m.ctx.part = p →
     (s.body.slotWork s.own p m slot k = .waits → exec (.videoBandProgress p c ae slot band) s = .next s) ∧
     (∀ w, s.body.slotWork s.own p m slot k = .unreadable w →
       exec (.videoBandProgress p c ae slot band) s = .next { s with body := s.body.readBad s.own (.media p c ae) w }) ∧
     ∀ out : SlotOut, s.body.slotWork s.own p m slot k = .made out →
     let j := s.body.mjDesc m
     let q := j.bandRowsOf band
     let may := j.video = true ∧ band = k.bands ∧ band < j.bands
     ((¬ may ∨ (out.frames[q.1]?).join = none) → exec (.videoBandProgress p c ae slot band) s = .next s) ∧
     (∀ f, may → (out.frames[q.1]?).join = some f → (∀ n ∈ (s.body.part p).mjs, n.same m = true → n = m) →
       let cs := (j.convertAll ((out.frames.take q.1).flatMap j.frameVals ++ j.frameVals (some f))).drop (q.1 * j.pixels)
       let ws := (cs.zipIdx.filter fun ((_, i) : (List Byte × ConvEv) × Nat) =>
           decide (q.2.1 ≤ (j.place i).1) && decide ((j.place i).1 < q.2.2)).map fun ((v, i) : (List Byte × ConvEv) × Nat) =>
         (j.slotAt slot + q.1 * j.framePitch + i * j.elem, v.1)
       Claims.unguarded s (.media p m.core m.idx) ws →
       ∃ t, exec (.videoBandProgress p c ae slot band) s = .next t ∧ Claims.quiet s t ∧ Claims.counts s t m.ctx j.pevt ∧
         Claims.stored s t ws ∧
         ∃ n ∈ (t.body.part p).mjs, n.same m = true ∧ (n.slots[slot]?).map (·.bands) = some (band + 1)))

/-- Encode jobs and alignment.

An encode MJ in progress whose source frame or session buffer the memories refuse ends its slot with the refusal's status; while
they admit no traffic it waits, and an unreadable word faults as its core's. One whose frame passes codes a picture: coded bytes go to
DST after those before them, PEVT is incremented, and the picture counts in the session and in VID_PICS; a slice segment likewise,
without ending the picture, which ends with its last segment; with the last picture the slot is done. With no such MJ, and for a command
of the other way of coding, nothing happens (R19, R159, R171, R226, R373 to R377; the coded bytes themselves are outside the spec, log
entry 6).

A sample of the write indices reads memory and changes no byte of it; with readable rings it changes only the inputs' positions,
MED_REFUSED's count of records out of order and the DRAM traffic counters; a set whose reads the world map refuses samples nothing, with
the refusal's record; a tripped module samples nothing (R19, R227, R356). A tick that an MJ awaits and every input has reached
is emitted by ALIGN_TICK_EMIT, one that its LATE limit has passed first by ALIGN_LATE_LIMIT, and neither does the other's: with its
requests admitted the tick's slot, its status record (whose fields for samples alone are free values, log entry 2), the read indices and
the flag bitmap are written, the slot is done and counted; nothing else in memory changes. One whose requests are refused is done and
VOID (log entry 108). A tick that no MJ awaits, or that is not due, or that its memory holds up, waits (R226, R356 to R358). -/
def Obligations.EncodeAndAlignment : Prop :=
  ((∀ (s : State) (p : Fin 8) (c : Fin 32) (ae : Nat), s.body.clocked = true → s.body.encoding p c ae = none →
     exec (.encodePicture p c ae) s = .next s ∧ exec (.encodeSliceComplete p c ae) s = .next s) ∧
   ∀ (s : State) (p : Fin 8) (c : Fin 32) (ae i : Nat) (m : MjRun) (j : Mj) (e : EncSession), s.body.clocked = true →
     s.body.encoding p c ae = some (m, j, i, e) →
     ((e.sliceRows = 0 ∨ e.slices ≤ m.slice) → exec (.encodeSliceComplete p c ae) s = .next s) ∧
     (encodeSource s.own s.body m j e m.frame = .waits →
       exec (.encodePicture p c ae) s = .next s ∧ exec (.encodeSliceComplete p c ae) s = .next s) ∧
     (∀ w, encodeSource s.own s.body m j e m.frame = .unreadable w →
       exec (.encodePicture p c ae) s = .next { s with body := s.body.readBad s.own (.media p c ae) w } ∧
       (e.sliceRows ≠ 0 → m.slice < e.slices →
         exec (.encodeSliceComplete p c ae) s = .next { s with body := s.body.readBad s.own (.media p c ae) w })) ∧
     (Claims.slotsWhole s → m.ctx.part = p → (∀ n ∈ (s.body.part p).mjs, n.same m = true → n = m) →
     (s.body.part p).encs.length = 8 → i < 8 → s.body.mem.sound = true →
     (∀ y ∈ s.body.stks, ∀ k ∈ y.queues, k.waiting = []) →
     (∀ st, encodeSource s.own s.body m j e m.frame = .refused st → exec (.encodeSliceComplete p c ae) s = .next s ∧
       ∃ t, exec (.encodePicture p c ae) s = .next t ∧ t.own = s.own ∧ (t.body.part p).medDone = (s.body.part p).medDone + 1 ∧
         (t.body.part p).medRefused = satAdd (s.body.part p).medRefused 1 ∧
         ∃ n ∈ (t.body.part p).mjs, n.same m = true ∧ n.slots.all (fun k => k.done && k.void) = true) ∧
     (∀ src ref, encodeSource s.own s.body m j e m.frame = .found src ref →
       let ends := e.sliceRows = 0 ∨ m.slice = e.slices
       (¬ ends → exec (.encodePicture p c ae) s = .next s) ∧
       (ends → m.frame + 1 < j.nfr → ∃ t, exec (.encodePicture p c ae) s = .next t ∧ Claims.quiet s t ∧
         (t.body.part p).vidPics = (s.body.part p).vidPics + 1 ∧ (e.sliceRows = 0 → Claims.counts s t m.ctx j.pevt) ∧
         ((t.body.part p).encs.getD i EncSession.reset).picture = e.picture + 1 ∧
         ∃ n ∈ (t.body.part p).mjs, n.same m = true ∧ n.frame = m.frame + 1 ∧ n.slice = 0 ∧ m.bytes ≤ n.bytes) ∧
       (ends → m.frame + 1 = j.nfr → ∃ t, exec (.encodePicture p c ae) s = .next t ∧ t.own = s.own ∧
         (t.body.part p).vidPics = (s.body.part p).vidPics + 1 ∧ (t.body.part p).medDone = (s.body.part p).medDone + 1 ∧
         ∃ n ∈ (t.body.part p).mjs, n.same m = true ∧ n.slots.all (·.done) = true) ∧
       (e.sliceRows ≠ 0 → m.slice < e.slices → ∃ t, exec (.encodeSliceComplete p c ae) s = .next t ∧ Claims.quiet s t ∧
         (t.body.part p).vidPics = (s.body.part p).vidPics ∧ Claims.counts s t m.ctx j.pevt ∧
         (t.body.part p).encs = (s.body.part p).encs ∧
         ∃ n ∈ (t.body.part p).mjs, n.same m = true ∧ n.slice = m.slice + 1 ∧ n.frame = m.frame ∧
           (Claims.unguarded s (.media p m.core m.idx) [(j.dst + m.bytes, n.picData.drop m.picData.length)] →
             Claims.stored s t [(j.dst + m.bytes, n.picData.drop m.picData.length)]))))) ∧
  ((∀ s : State, s.body.clocked = true →
     let set (p : Fin 8) (n : Nat) : AlignSet := (s.body.part p).aligns.getD n AlignSet.reset
     let reads (p : Fin 8) (n : Nat) : List (Nat × Nat) := (set p n).inputs.flatMap (·.reads s.body.mem)
     (s.body.board.tripped = true → exec .writeIndexSample s = .next s) ∧
     (s.body.board.tripped = false → s.body.mem.sound = true →
       ((∀ p n, n < 4 → (set p n).configured = true → s.body.readRefused s.own (.media p 0 0) (reads p n) = none) →
         ∃ t, exec .writeIndexSample s = .next t ∧ Claims.quiet s t ∧ t.body.mem = s.body.mem ∧
           t.body.cores = s.body.cores ∧ t.body.quads = s.body.quads ∧
           ∀ p, { t.body.part p with aligns := (s.body.part p).aligns, medRefused := (s.body.part p).medRefused } = s.body.part p) ∧
       (∀ p n st a, n < 4 → (∀ q k, k < 4 → ((set q k).configured = true ↔ q = p ∧ k = n)) → s.body.flows s.own (reads p n) = true →
         s.body.readRefused s.own (.media p 0 0) (reads p n) = some (st, a) →
         exec .writeIndexSample s = .next { s with body := s.body.logRefusal s.own p st (4, 0) a }))) ∧
   (∀ (s : State) (p : Fin 8) (n : Fin 4), s.body.clocked = true →
     let y := (s.body.part p).aligns.getD n.val AlignSet.reset
     ((s.body.tickWanted p n.val = none ∨ y.configured = false) →
       exec (.alignTickEmit p n) s = .next s ∧ exec (.alignLateLimit p n) s = .next s) ∧
     ∀ m i q, s.body.tickWanted p n.val = some (m, i, q) → y.configured = true →
     let tm := y.t0 + q.pos * y.period
     let late := !y.full tm
     let j := s.body.mjDesc m
     let y' := { y with inputs := y.inputs.map fun k => k.pass y.mode tm }
     let f (n : Nat) : Nat := (Config.freeWord (s.body.free + n)).toNat
     let tw := tickWrites y y' j m.core i (tickData y j s.body.mem q.pos late)
     let ws := (j.stat + 32 * i, statusRecord stOk false false (f 0) (BitVec.ofNat 32 (f 1)) (f 2) none 0 (f 3) (f 4)) :: tw
     let due := (late = true → tm + y.late ≤ s.body.fab.time) ∧
       s.body.flows s.own ((j.slotAt i, y.slotBytes j.outFmt) :: y.reads) = true
     let hit := (s.body.readRefused s.own (.media p m.core m.idx) y.reads).map (·.1) <|>
       s.body.mediaRefused s.own m (tw.map fun w => (w.1, w.2.length))
     let cmd : Instr := if late then .alignLateLimit p n else .alignTickEmit p n
     exec (if late then .alignTickEmit p n else .alignLateLimit p n) s = .next s ∧
     (¬ due → exec cmd s = .next s) ∧
     (due → Claims.slotsWhole s → m.ctx.part = p → (∀ k ∈ (s.body.part p).mjs, k.same m = true → k = m) →
       (hit = none → Claims.unguarded s (.media p m.core m.idx) ws →
         ∃ t, exec cmd s = .next t ∧ Claims.quiet s t ∧
           (t.body.part p).medDone = (s.body.part p).medDone + 1 ∧
           (∃ k ∈ (t.body.part p).mjs, k.same m = true ∧ (k.slots[i]?).map (·.done) = some true) ∧ Claims.stored s t ws) ∧
       (hit ≠ none → s.body.mem.sound = true → (∀ y ∈ s.body.stks, ∀ k ∈ y.queues, k.waiting = []) →
         ∃ t, exec cmd s = .next t ∧ t.own = s.own ∧ (t.body.part p).medDone = (s.body.part p).medDone + 1 ∧
           ∃ k ∈ (t.body.part p).mjs, k.same m = true ∧ (k.slots[i]?).map (fun v => (v.done, v.void)) = some (true, true)))))
end

