-- ==== Sys2Proof/Laws/Fec.lean ====
section
/-! SUPPORT. What the decoder of the links' forward error correction answers (R279): by the syndromes of a word alone. -/

namespace Sys2Proof.Laws

open Sys2Proof Sys2Proof.Machine

/-- Leading zero symbols do not change the syndromes. -/
theorem rsSyndromes_zeros (n : Nat) (w : List Nat) : rsSyndromes (List.replicate n 0 ++ w) = rsSyndromes w := by
  have hz : ∀ r : Nat, (List.replicate n 0).foldl (fun v c => gfMul v r ^^^ c) 0 = 0 := by
    intro r
    induction n with
    | zero => rfl
    | succ n ih => simpa [List.replicate_succ, gfMul] using ih
  simp [rsSyndromes, List.foldl_append, hz]

/-- A word whose syndromes are zero is taken as it is. -/
theorem rsDecode_clean {w : List Nat} (h : (rsSyndromes w).all (· == 0) = true) : rsDecode w = some (0, w) := by
  simp only [rsDecode, h, if_true]

/-- A word whose locator is longer than 32 is uncorrectable. -/
theorem rsDecode_none {w syn : List Nat} (hs : rsSyndromes w = syn) (h : syn.all (· == 0) = false) (hl : 32 < (rsLocator syn).len) :
    rsDecode w = none := by
  simp [rsDecode, hs, h, hl]

/-- A scrambler that stands at zero changes nothing. -/
theorem scramble_zero (bs : List Byte) : scramble 0 bs = (bs, 0) := by
  induction bs with
  | nil => rfl
  | cons v t ih => simp [scramble, show scramble 0#58 t = (t, 0#58) from ih]

/-- Numbers taken four at a time. -/
theorem flatMap_four {α : Type} (f : Nat → α) (n : Nat) :
    (List.range n).flatMap (fun i => [f (4 * i), f (4 * i + 1), f (4 * i + 2), f (4 * i + 3)]) = (List.range (4 * n)).map f := by
  induction n with
  | zero => rfl
  | succ n ih =>
    rw [List.range_succ, List.flatMap_append, ih, show 4 * (n + 1) = 4 * n + 1 + 1 + 1 + 1 by omega]
    simp [List.range_succ, List.map_append]

/-- The lanes of a block's bytes give them back (R278). -/
theorem joinLanes_splitLanes {bs : List Byte} (h : bs.length = 1120) : joinLanes (splitLanes bs) = bs := by
  have hf : joinLanes (splitLanes bs) = (List.range 280).flatMap fun i =>
      [bs.getD (4 * i) 0, bs.getD (4 * i + 1) 0, bs.getD (4 * i + 2) 0, bs.getD (4 * i + 3) 0] := by
    have hr : List.range 4 = [0, 1, 2, 3] := rfl
    simp only [joinLanes, splitLanes]
    apply List.flatMap_congr
    intro i hi
    have hi' : i < 280 := List.mem_range.mp hi
    rw [hr]
    simp [hi']
  rw [hf, flatMap_four (fun i => bs.getD i 0) 280]
  apply List.ext_getElem
  · simp [h]
  · intro i h1 h2
    simp [h2]

/-- On a link in order whose scramblers stand at zero, lanes carry their block's bytes as they are. -/
theorem bytes_on_lanes {l : Link} {bs : List Byte} (h : bs.length = 1120) (hr : l.reversed = false) (hi : l.inverted = 0)
    (hs : l.rxScr = [0, 0, 0, 0]) : joinLanes (scrambleLanes l.rxScr (l.align (splitLanes bs))).1 = bs := by
  obtain ⟨a, b, c, d, he⟩ : ∃ a b c d, splitLanes bs = [a, b, c, d] := ⟨_, _, _, _, rfl⟩
  have ha : l.align [a, b, c, d] = [a, b, c, d] := by simp [Link.align, hr, hi, List.range_succ]
  have hz : (scrambleLanes [0, 0, 0, 0] [a, b, c, d]).1 = [a, b, c, d] := by
    simp [scrambleLanes, List.range_succ, show ∀ x, scramble 0#58 x = (x, 0#58) from scramble_zero]
  rw [he, ha, hs, hz, ← he, joinLanes_splitLanes h]

/-- A link decodes lanes as the word of their symbols says. -/
theorem decode_of_symbols {l : Link} {lanes : List (List Byte)} {w : List Nat}
    (h : symbolsOf rsSymbols (joinLanes (scrambleLanes l.rxScr (l.align lanes)).1) = w) :
    l.decode lanes = (rsDecode w).map fun r => (r.1, blockOf (bytesOfSymbols 1120 r.2)) := by
  rw [Link.decode, h]

end Sys2Proof.Laws
end

