-- ==== Sys2Proof/Laws/Memory.lean ====
section
/-! SUPPORT. Memory: what each operation makes of a byte, and that each keeps the canonical form. -/

namespace Sys2Proof.Machine

open Sys2Proof

/-! ### The canonical form -/

/-- The canonical form, as a relation: addresses strictly rising, no zero byte. -/
theorem cellsWf_iff (cs : List Host.Cell) :
    cellsWf cs = true ↔ cs.Pairwise (fun x y => x.1 < y.1) ∧ ∀ c ∈ cs, c.2 ≠ 0 := by
  induction cs with
  | nil => simp [cellsWf]
  | cons c t ih =>
    obtain ⟨a, v⟩ := c
    cases t with
    | nil => simp [cellsWf]
    | cons d t =>
      obtain ⟨b, w⟩ := d
      simp only [cellsWf, Bool.and_eq_true, decide_eq_true_eq, bne_iff_ne, ne_eq, ih]
      constructor
      · rintro ⟨⟨hv, hab⟩, hp, hz⟩
        refine ⟨List.pairwise_cons.2 ⟨?_, hp⟩, ?_⟩
        · intro c hc
          rcases List.mem_cons.1 hc with rfl | hc
          · exact hab
          · exact Nat.lt_trans hab ((List.pairwise_cons.1 hp).1 c hc)
        · intro c hc
          rcases List.mem_cons.1 hc with rfl | hc
          · exact hv
          · exact hz c hc
      · rintro ⟨hp, hz⟩
        have h := List.pairwise_cons.1 hp
        exact ⟨⟨hz (a, v) (by simp), h.1 (b, w) (by simp)⟩, h.2, fun c hc => hz c (List.mem_cons_of_mem _ hc)⟩

/-- Dropping entries keeps the form. -/
theorem cellsWf_filter {cs : List Host.Cell} (p : Host.Cell → Bool) (h : cellsWf cs = true) : cellsWf (cs.filter p) = true := by
  rw [cellsWf_iff] at *
  exact ⟨h.1.filter p, fun c hc => h.2 c (List.mem_filter.1 hc).1⟩

/-- An entry of an insertion is the new one or an old one. -/
theorem mem_insertCell {cs : List Host.Cell} {x : Nat} {v : Byte} {c : Host.Cell} :
    c ∈ insertCell cs x v ↔ c = (x, v) ∨ c ∈ cs := by
  induction cs with
  | nil => simp [insertCell]
  | cons d t ih =>
    obtain ⟨a, w⟩ := d
    simp only [insertCell]
    split
    · simp
    · simp only [List.mem_cons, ih]
      constructor
      · rintro (h | h | h) <;> simp [h]
      · rintro (h | h | h) <;> simp [h]

/-- Inserting a non-zero byte at an address not listed keeps the form. -/
theorem cellsWf_insertCell {cs : List Host.Cell} {x : Nat} {v : Byte} (h : cellsWf cs = true) (hx : ∀ c ∈ cs, c.1 ≠ x) (hv : v ≠ 0) :
    cellsWf (insertCell cs x v) = true := by
  rw [cellsWf_iff] at *
  refine ⟨?_, ?_⟩
  · induction cs with
    | nil => simp [insertCell]
    | cons d t ih =>
      obtain ⟨a, w⟩ := d
      have hp := List.pairwise_cons.1 h.1
      simp only [insertCell]
      split
      · rename_i hlt
        refine List.pairwise_cons.2 ⟨?_, h.1⟩
        intro c hc
        rcases List.mem_cons.1 hc with rfl | hc
        · exact hlt
        · exact Nat.lt_trans hlt (hp.1 c hc)
      · rename_i hlt
        have hax : a < x := by
          have := hx (a, w) (by simp)
          simp only [ne_eq] at this
          omega
        refine List.pairwise_cons.2 ⟨?_, ?_⟩
        · intro c hc
          rcases mem_insertCell.1 hc with rfl | hc
          · exact hax
          · exact hp.1 c hc
        · exact ih ⟨hp.2, fun c hc => h.2 c (List.mem_cons_of_mem _ hc)⟩ fun c hc => hx c (List.mem_cons_of_mem _ hc)
  · intro c hc
    rcases mem_insertCell.1 hc with rfl | hc
    · exact hv
    · exact h.2 c hc

/-- Setting one byte keeps the form. -/
theorem cellsWf_putCell {cs : List Host.Cell} (x : Nat) (v : Byte) (h : cellsWf cs = true) : cellsWf (putCell cs x v) = true := by
  simp only [putCell]
  split
  · exact cellsWf_filter _ h
  · rename_i hv
    refine cellsWf_insertCell (cellsWf_filter _ h) ?_ hv
    intro c hc
    simpa using (List.mem_filter.1 hc).2

/-- Setting consecutive bytes keeps the form. -/
theorem cellsWf_putCells {cs : List Host.Cell} (a : Nat) (d : List Byte) (h : cellsWf cs = true) :
    cellsWf (putCells cs a d) = true := by
  induction d generalizing cs a with
  | nil => simpa [putCells] using h
  | cons v t ih => exact ih (a + 1) (cellsWf_putCell a v h)

/-- A masked write keeps the form. -/
theorem cellsWf_putMasked {cs : List Host.Cell} (a : Nat) (d : List (Option Byte)) (h : cellsWf cs = true) :
    cellsWf (putMasked cs a d) = true := by
  induction d generalizing cs a with
  | nil => simpa [putMasked] using h
  | cons v t ih =>
    cases v with
    | none => exact ih (a + 1) h
    | some v => exact ih (a + 1) (cellsWf_putCell a v h)

/-- Setting the bytes of a saved image keeps the form. -/
theorem cellsWf_putAll {cs : List Host.Cell} (img : List Host.Cell) (h : cellsWf cs = true) :
    cellsWf (img.foldl (fun cs c => putCell cs c.1 c.2) cs) = true := by
  induction img generalizing cs with
  | nil => simpa using h
  | cons c t ih => exact ih (cellsWf_putCell c.1 c.2 h)

theorem Mem.wf_writeMasked {m : Mem} (word a : Nat) (d : List (Option Byte)) (h : m.wf = true) : (m.writeMasked word a d).wf = true :=
  cellsWf_putMasked a _ h

theorem Mem.wf_write {m : Mem} (word a : Nat) (d : List Byte) (h : m.wf = true) : (m.write word a d).wf = true :=
  m.wf_writeMasked word a _ h

theorem Mem.wf_zero {m : Mem} (a n : Nat) (h : m.wf = true) : (m.zero a n).wf = true := cellsWf_filter _ h

theorem Mem.wf_keepOnly {m : Mem} (keep : Nat → Bool) (h : m.wf = true) : (m.keepOnly keep).wf = true := cellsWf_filter _ h

theorem Mem.wf_poisonUnit {m : Mem} (word a : Nat) (h : m.wf = true) : (m.poisonUnit word a).wf = true := h

/-- Zeroing range after range keeps the form. -/
theorem Mem.wf_zeroAll {m : Mem} (rs : List (Nat × Nat)) (h : m.wf = true) :
    (rs.foldl (fun (m : Mem) r => m.zero r.1 r.2) m).wf = true := by
  induction rs generalizing m with
  | nil => simpa using h
  | cons r t ih => exact ih (m.wf_zero r.1 r.2 h)

/-- Putting a saved image back keeps the form. -/
theorem Mem.wf_putBack {m : Mem} (rs : List (Nat × Nat)) (img : SaveImage) (h : m.wf = true) : (m.putBack rs img).wf = true :=
  cellsWf_putAll img.cells (m.wf_zeroAll rs h)

/-- Zeroing the vats and presses of cores keeps the form. -/
theorem Mem.wf_zeroCores {m : Mem} (cs : List (Fin 32)) (h : m.wf = true) : (m.zeroCores cs).wf = true := by
  have key : ∀ (cs : List (Fin 32)) (m : Mem), m.wf = true →
      (cs.foldl (fun m c => (m.zero (vatBase c.val) vatSize).zero (pressBase c.val) pressSize) m).wf = true := by
    intro cs
    induction cs with
    | nil => intro m h; simpa using h
    | cons c t ih => intro m h; exact ih _ (Mem.wf_zero _ _ (Mem.wf_zero _ _ h))
  exact key cs m h

/-- Memory after reset is in canonical form. -/
theorem reset_mem_wf : State.reset.body.mem.wf = true := by decide +kernel

/-! ### What an operation makes of a byte -/

/-- After dropping entries by address, an address kept reads as before and another reads 0. -/
theorem lookupCell_filter (cs : List Host.Cell) (p : Nat → Bool) (x : Nat) :
    lookupCell (cs.filter fun c => p c.1) x = if p x then lookupCell cs x else 0 := by
  induction cs with
  | nil => simp [lookupCell]
  | cons c t ih =>
    obtain ⟨a, v⟩ := c
    by_cases hpa : p a = true
    · simp only [List.filter_cons, hpa, if_true, lookupCell, ih]
      by_cases hax : a = x
      · subst hax; simp [hpa]
      · simp [hax]
    · have e : ((a, v) :: t).filter (fun c => p c.1) = t.filter fun c => p c.1 := by simp [hpa]
      rw [e, ih]
      by_cases hax : a = x
      · subst hax; simp [hpa]
      · simp [lookupCell, hax]

/-- After an insertion at an address not listed, that address reads the new byte and every other as before. -/
theorem lookupCell_insertCell {cs : List Host.Cell} {x : Nat} (v : Byte) (hx : ∀ c ∈ cs, c.1 ≠ x) (y : Nat) :
    lookupCell (insertCell cs x v) y = if y = x then v else lookupCell cs y := by
  induction cs with
  | nil => simp [insertCell, lookupCell, eq_comm]
  | cons c t ih =>
    obtain ⟨a, w⟩ := c
    have hax : a ≠ x := hx (a, w) (by simp)
    have ih := ih fun c hc => hx c (List.mem_cons_of_mem _ hc)
    simp only [insertCell]
    split
    · by_cases hy : y = x
      · subst hy; simp [lookupCell]
      · have : x ≠ y := fun h => hy h.symm
        simp [lookupCell, hy, this]
    · by_cases hay : a = y
      · subst hay; simp [lookupCell, hax]
      · simp [lookupCell, hay, ih]

/-- Setting one byte: it reads what was set, and every other byte reads as before. -/
theorem lookupCell_putCell (cs : List Host.Cell) (x : Nat) (v : Byte) (y : Nat) :
    lookupCell (putCell cs x v) y = if y = x then v else lookupCell cs y := by
  have hf : ∀ y, lookupCell (cs.filter fun c => c.1 != x) y = if y = x then 0 else lookupCell cs y := by
    intro y
    rw [lookupCell_filter cs (fun a => a != x) y]
    by_cases h : y = x <;> simp [h]
  simp only [putCell]
  split
  · rename_i hv
    rw [hf, hv]
  · have hx : ∀ c ∈ cs.filter (fun c => c.1 != x), c.1 ≠ x := by
      intro c hc
      simpa using (List.mem_filter.1 hc).2
    rw [lookupCell_insertCell v hx y, hf]
    split <;> rfl

/-- Setting consecutive bytes. -/
theorem lookupCell_putCells (cs : List Host.Cell) (a : Nat) (d : List Byte) (y : Nat) :
    lookupCell (putCells cs a d) y = if a ≤ y ∧ y < a + d.length then d.getD (y - a) 0 else lookupCell cs y := by
  induction d generalizing cs a with
  | nil => simp only [putCells, List.length_nil, Nat.add_zero]; rw [if_neg (by omega)]
  | cons v t ih =>
    rw [putCells, ih, lookupCell_putCell]
    by_cases h : y = a
    · subst h
      have h1 : ¬ (y + 1 ≤ y ∧ y < y + 1 + t.length) := by omega
      rw [if_neg h1]
      simp
    · by_cases h1 : a + 1 ≤ y ∧ y < a + 1 + t.length
      · obtain ⟨k, rfl⟩ : ∃ k, y = a + 1 + k := ⟨y - (a + 1), by omega⟩
        have h2 : a ≤ a + 1 + k ∧ a + 1 + k < a + (v :: t).length := by simp only [List.length_cons]; omega
        have e : a + 1 + k - a = k + 1 := by omega
        rw [if_pos h1, if_pos h2, e]
        simp
      · have h2 : ¬ (a ≤ y ∧ y < a + (v :: t).length) := by simp only [List.length_cons]; omega
        rw [if_neg h1, if_neg h, if_neg h2]

/-- A masked write sets the bytes its mask names and leaves every other. -/
theorem lookupCell_putMasked (cs : List Host.Cell) (a : Nat) (d : List (Option Byte)) (y : Nat) :
    lookupCell (putMasked cs a d) y =
      if a ≤ y ∧ y < a + d.length then (d.getD (y - a) none).getD (lookupCell cs y) else lookupCell cs y := by
  induction d generalizing cs a with
  | nil => simp [putMasked]
  | cons v t ih =>
    have step : ∀ cs' : List Host.Cell, (∀ z, z ≠ a → lookupCell cs' z = lookupCell cs z) →
        lookupCell cs' a = v.getD (lookupCell cs a) →
        lookupCell (putMasked cs' (a + 1) t) y =
          if a ≤ y ∧ y < a + (v :: t).length then ((v :: t).getD (y - a) none).getD (lookupCell cs y) else lookupCell cs y := by
      intro cs' hne heq
      rw [ih]
      by_cases h : y = a
      · subst h
        have h1 : ¬ (y + 1 ≤ y ∧ y < y + 1 + t.length) := by omega
        rw [if_neg h1, heq]
        simp
      · by_cases h1 : a + 1 ≤ y ∧ y < a + 1 + t.length
        · obtain ⟨k, rfl⟩ : ∃ k, y = a + 1 + k := ⟨y - (a + 1), by omega⟩
          have h2 : a ≤ a + 1 + k ∧ a + 1 + k < a + (v :: t).length := by simp only [List.length_cons]; omega
          have e : a + 1 + k - a = k + 1 := by omega
          rw [if_pos h1, if_pos h2, e, hne _ h]
          simp
        · have h2 : ¬ (a ≤ y ∧ y < a + (v :: t).length) := by simp only [List.length_cons]; omega
          rw [if_neg h1, hne _ h, if_neg h2]
    cases v with
    | none => exact step cs (fun _ _ => rfl) rfl
    | some v =>
      refine step (putCell cs a v) (fun z hz => by rw [lookupCell_putCell, if_neg hz]) ?_
      rw [lookupCell_putCell, if_pos rfl]
      rfl

/-- A zeroing clears its bytes and no other. -/
theorem Mem.byte_zero (m : Mem) (a n y : Nat) : (m.zero a n).byte y = if a ≤ y ∧ y < a + n then 0 else m.byte y := by
  have h := lookupCell_filter m.cells (fun c => !(decide (a ≤ c) && decide (c < a + n))) y
  simp only [Mem.byte, Mem.zero] at *
  rw [h]
  by_cases hy : a ≤ y ∧ y < a + n <;> simp [hy]

/-- Keeping only some addresses: they read as before, the others 0. -/
theorem Mem.byte_keepOnly (m : Mem) (keep : Nat → Bool) (y : Nat) : (m.keepOnly keep).byte y = if keep y then m.byte y else 0 :=
  lookupCell_filter m.cells keep y

/-- Poisoning changes no byte. -/
@[simp] theorem Mem.byte_poisonUnit (m : Mem) (word a y : Nat) : (m.poisonUnit word a).byte y = m.byte y := rfl

/-- A masked write that touches no poisoned word only in part loses no byte. -/
theorem dropWords_nil (word a : Nat) (d : List (Option Byte)) : dropWords word [] a d = d := by
  induction d generalizing a with
  | nil => rfl
  | cons x t ih => simp [dropWords, ih]

/-- Dropping bytes keeps the length of a write. -/
@[simp] theorem length_dropWords (word : Nat) (ws : List Nat) (a : Nat) (d : List (Option Byte)) :
    (dropWords word ws a d).length = d.length := by
  induction d generalizing a with
  | nil => rfl
  | cons x t ih => simp [dropWords, ih]

/-- A masked write changes no byte outside its range. -/
theorem Mem.byte_writeMasked_outside (m : Mem) (word a : Nat) (d : List (Option Byte)) (y : Nat) (h : ¬ (a ≤ y ∧ y < a + d.length)) :
    (m.writeMasked word a d).byte y = m.byte y := by
  have e := lookupCell_putMasked m.cells a (dropWords word (m.lostWords word a d) a d) y
  rw [length_dropWords, if_neg h] at e
  exact e

/-- A masked write that loses no byte sets the bytes its mask names. -/
theorem Mem.byte_writeMasked (m : Mem) (word a : Nat) (d : List (Option Byte)) (y : Nat) (h : m.lostWords word a d = []) :
    (m.writeMasked word a d).byte y =
      if a ≤ y ∧ y < a + d.length then (d.getD (y - a) none).getD (m.byte y) else m.byte y := by
  have e := lookupCell_putMasked m.cells a d y
  have w : (m.writeMasked word a d).cells = putMasked m.cells a d := by simp [Mem.writeMasked, h, dropWords_nil]
  simp only [Mem.byte, w]
  exact e

/-- No word that cannot be read: a write loses no byte. -/
theorem Mem.lostWords_nil (m : Mem) (word a : Nat) (d : List (Option Byte)) (h : m.poison = []) (k : m.upsets = []) :
    m.lostWords word a d = [] := by
  simp [Mem.lostWords, Mem.badWords, h, k]

end Sys2Proof.Machine
end

