-- ==== Sys2Proof/Laws/State.lean ====
section
/-! SUPPORT. One small lemma per field, or per way of reading, and per update of the state: what the update leaves as it was, and
what it writes. -/

namespace Sys2Proof.Machine

open Sys2Proof

/-! ### What an update leaves -/

/-! updCore writes cores alone. -/

@[simp] theorem Body.updCore_board (b : Body) (c : Fin 32) (f : Core → Core) : (b.updCore c f).board = b.board := rfl
@[simp] theorem Body.updCore_ports (b : Body) (c : Fin 32) (f : Core → Core) : (b.updCore c f).ports = b.ports := rfl
@[simp] theorem Body.updCore_mail (b : Body) (c : Fin 32) (f : Core → Core) : (b.updCore c f).mail = b.mail := rfl
@[simp] theorem Body.updCore_quads (b : Body) (c : Fin 32) (f : Core → Core) : (b.updCore c f).quads = b.quads := rfl
@[simp] theorem Body.updCore_stks (b : Body) (c : Fin 32) (f : Core → Core) : (b.updCore c f).stks = b.stks := rfl
@[simp] theorem Body.updCore_fab (b : Body) (c : Fin 32) (f : Core → Core) : (b.updCore c f).fab = b.fab := rfl
@[simp] theorem Body.updCore_parts (b : Body) (c : Fin 32) (f : Core → Core) : (b.updCore c f).parts = b.parts := rfl
@[simp] theorem Body.updCore_gos (b : Body) (c : Fin 32) (f : Core → Core) : (b.updCore c f).gos = b.gos := rfl
@[simp] theorem Body.updCore_mem (b : Body) (c : Fin 32) (f : Core → Core) : (b.updCore c f).mem = b.mem := rfl
@[simp] theorem Body.updCore_bkp (b : Body) (c : Fin 32) (f : Core → Core) : (b.updCore c f).bkp = b.bkp := rfl
@[simp] theorem Body.updCore_bkpBad (b : Body) (c : Fin 32) (f : Core → Core) : (b.updCore c f).bkpBad = b.bkpBad := rfl
@[simp] theorem Body.updCore_out (b : Body) (c : Fin 32) (f : Core → Core) : (b.updCore c f).out = b.out := rfl
@[simp] theorem Body.updCore_free (b : Body) (c : Fin 32) (f : Core → Core) : (b.updCore c f).free = b.free := rfl
@[simp] theorem Body.updCore_quad (b : Body) (c : Fin 32) (f : Core → Core) (d : Fin 4) : (b.updCore c f).quad d = b.quad d := rfl
@[simp] theorem Body.updCore_stack (b : Body) (c : Fin 32) (f : Core → Core) (d : Fin 24) : (b.updCore c f).stack d = b.stack d := rfl
@[simp] theorem Body.updCore_part (b : Body) (c : Fin 32) (f : Core → Core) (d : Fin 8) : (b.updCore c f).part d = b.part d := rfl
@[simp] theorem Body.updCore_slot (b : Body) (c : Fin 32) (f : Core → Core) (d : Fin 8) (j : Fin 4) : (b.updCore c f).slot d j = b.slot d j := rfl
@[simp] theorem Body.updCore_link (b : Body) (c : Fin 32) (f : Core → Core) (d : Fin 24) : (b.updCore c f).link d = b.link d := rfl
@[simp] theorem Body.updCore_port (b : Body) (c : Fin 32) (f : Core → Core) (d : Port) : (b.updCore c f).port d = b.port d := rfl
@[simp] theorem Body.updCore_mailbox (b : Body) (c : Fin 32) (f : Core → Core) (g : Page) (d : Fin 4) : (b.updCore c f).mailbox g d = b.mailbox g d := rfl

/-! updCx writes cores alone. -/

@[simp] theorem Body.updCx_board (b : Body) (c : Fin 32) (f : CoreCtx → CoreCtx) : (b.updCx c f).board = b.board := rfl
@[simp] theorem Body.updCx_ports (b : Body) (c : Fin 32) (f : CoreCtx → CoreCtx) : (b.updCx c f).ports = b.ports := rfl
@[simp] theorem Body.updCx_mail (b : Body) (c : Fin 32) (f : CoreCtx → CoreCtx) : (b.updCx c f).mail = b.mail := rfl
@[simp] theorem Body.updCx_quads (b : Body) (c : Fin 32) (f : CoreCtx → CoreCtx) : (b.updCx c f).quads = b.quads := rfl
@[simp] theorem Body.updCx_stks (b : Body) (c : Fin 32) (f : CoreCtx → CoreCtx) : (b.updCx c f).stks = b.stks := rfl
@[simp] theorem Body.updCx_fab (b : Body) (c : Fin 32) (f : CoreCtx → CoreCtx) : (b.updCx c f).fab = b.fab := rfl
@[simp] theorem Body.updCx_parts (b : Body) (c : Fin 32) (f : CoreCtx → CoreCtx) : (b.updCx c f).parts = b.parts := rfl
@[simp] theorem Body.updCx_gos (b : Body) (c : Fin 32) (f : CoreCtx → CoreCtx) : (b.updCx c f).gos = b.gos := rfl
@[simp] theorem Body.updCx_mem (b : Body) (c : Fin 32) (f : CoreCtx → CoreCtx) : (b.updCx c f).mem = b.mem := rfl
@[simp] theorem Body.updCx_bkp (b : Body) (c : Fin 32) (f : CoreCtx → CoreCtx) : (b.updCx c f).bkp = b.bkp := rfl
@[simp] theorem Body.updCx_bkpBad (b : Body) (c : Fin 32) (f : CoreCtx → CoreCtx) : (b.updCx c f).bkpBad = b.bkpBad := rfl
@[simp] theorem Body.updCx_out (b : Body) (c : Fin 32) (f : CoreCtx → CoreCtx) : (b.updCx c f).out = b.out := rfl
@[simp] theorem Body.updCx_free (b : Body) (c : Fin 32) (f : CoreCtx → CoreCtx) : (b.updCx c f).free = b.free := rfl
@[simp] theorem Body.updCx_quad (b : Body) (c : Fin 32) (f : CoreCtx → CoreCtx) (d : Fin 4) : (b.updCx c f).quad d = b.quad d := rfl
@[simp] theorem Body.updCx_stack (b : Body) (c : Fin 32) (f : CoreCtx → CoreCtx) (d : Fin 24) : (b.updCx c f).stack d = b.stack d := rfl
@[simp] theorem Body.updCx_part (b : Body) (c : Fin 32) (f : CoreCtx → CoreCtx) (d : Fin 8) : (b.updCx c f).part d = b.part d := rfl
@[simp] theorem Body.updCx_slot (b : Body) (c : Fin 32) (f : CoreCtx → CoreCtx) (d : Fin 8) (j : Fin 4) : (b.updCx c f).slot d j = b.slot d j := rfl
@[simp] theorem Body.updCx_link (b : Body) (c : Fin 32) (f : CoreCtx → CoreCtx) (d : Fin 24) : (b.updCx c f).link d = b.link d := rfl
@[simp] theorem Body.updCx_port (b : Body) (c : Fin 32) (f : CoreCtx → CoreCtx) (d : Port) : (b.updCx c f).port d = b.port d := rfl
@[simp] theorem Body.updCx_mailbox (b : Body) (c : Fin 32) (f : CoreCtx → CoreCtx) (g : Page) (d : Fin 4) : (b.updCx c f).mailbox g d = b.mailbox g d := rfl

/-! updQuad writes quads alone. -/

@[simp] theorem Body.updQuad_board (b : Body) (q : Fin 4) (f : Quad → Quad) : (b.updQuad q f).board = b.board := rfl
@[simp] theorem Body.updQuad_ports (b : Body) (q : Fin 4) (f : Quad → Quad) : (b.updQuad q f).ports = b.ports := rfl
@[simp] theorem Body.updQuad_mail (b : Body) (q : Fin 4) (f : Quad → Quad) : (b.updQuad q f).mail = b.mail := rfl
@[simp] theorem Body.updQuad_cores (b : Body) (q : Fin 4) (f : Quad → Quad) : (b.updQuad q f).cores = b.cores := rfl
@[simp] theorem Body.updQuad_stks (b : Body) (q : Fin 4) (f : Quad → Quad) : (b.updQuad q f).stks = b.stks := rfl
@[simp] theorem Body.updQuad_fab (b : Body) (q : Fin 4) (f : Quad → Quad) : (b.updQuad q f).fab = b.fab := rfl
@[simp] theorem Body.updQuad_parts (b : Body) (q : Fin 4) (f : Quad → Quad) : (b.updQuad q f).parts = b.parts := rfl
@[simp] theorem Body.updQuad_gos (b : Body) (q : Fin 4) (f : Quad → Quad) : (b.updQuad q f).gos = b.gos := rfl
@[simp] theorem Body.updQuad_mem (b : Body) (q : Fin 4) (f : Quad → Quad) : (b.updQuad q f).mem = b.mem := rfl
@[simp] theorem Body.updQuad_bkp (b : Body) (q : Fin 4) (f : Quad → Quad) : (b.updQuad q f).bkp = b.bkp := rfl
@[simp] theorem Body.updQuad_bkpBad (b : Body) (q : Fin 4) (f : Quad → Quad) : (b.updQuad q f).bkpBad = b.bkpBad := rfl
@[simp] theorem Body.updQuad_out (b : Body) (q : Fin 4) (f : Quad → Quad) : (b.updQuad q f).out = b.out := rfl
@[simp] theorem Body.updQuad_free (b : Body) (q : Fin 4) (f : Quad → Quad) : (b.updQuad q f).free = b.free := rfl
@[simp] theorem Body.updQuad_core (b : Body) (q : Fin 4) (f : Quad → Quad) (d : Fin 32) : (b.updQuad q f).core d = b.core d := rfl
@[simp] theorem Body.updQuad_stack (b : Body) (q : Fin 4) (f : Quad → Quad) (d : Fin 24) : (b.updQuad q f).stack d = b.stack d := rfl
@[simp] theorem Body.updQuad_part (b : Body) (q : Fin 4) (f : Quad → Quad) (d : Fin 8) : (b.updQuad q f).part d = b.part d := rfl
@[simp] theorem Body.updQuad_slot (b : Body) (q : Fin 4) (f : Quad → Quad) (d : Fin 8) (j : Fin 4) : (b.updQuad q f).slot d j = b.slot d j := rfl
@[simp] theorem Body.updQuad_link (b : Body) (q : Fin 4) (f : Quad → Quad) (d : Fin 24) : (b.updQuad q f).link d = b.link d := rfl
@[simp] theorem Body.updQuad_port (b : Body) (q : Fin 4) (f : Quad → Quad) (d : Port) : (b.updQuad q f).port d = b.port d := rfl
@[simp] theorem Body.updQuad_mailbox (b : Body) (q : Fin 4) (f : Quad → Quad) (g : Page) (d : Fin 4) : (b.updQuad q f).mailbox g d = b.mailbox g d := rfl

/-! updStack writes stks alone. -/

@[simp] theorem Body.updStack_board (b : Body) (st : Fin 24) (f : Stack → Stack) : (b.updStack st f).board = b.board := rfl
@[simp] theorem Body.updStack_ports (b : Body) (st : Fin 24) (f : Stack → Stack) : (b.updStack st f).ports = b.ports := rfl
@[simp] theorem Body.updStack_mail (b : Body) (st : Fin 24) (f : Stack → Stack) : (b.updStack st f).mail = b.mail := rfl
@[simp] theorem Body.updStack_cores (b : Body) (st : Fin 24) (f : Stack → Stack) : (b.updStack st f).cores = b.cores := rfl
@[simp] theorem Body.updStack_quads (b : Body) (st : Fin 24) (f : Stack → Stack) : (b.updStack st f).quads = b.quads := rfl
@[simp] theorem Body.updStack_fab (b : Body) (st : Fin 24) (f : Stack → Stack) : (b.updStack st f).fab = b.fab := rfl
@[simp] theorem Body.updStack_parts (b : Body) (st : Fin 24) (f : Stack → Stack) : (b.updStack st f).parts = b.parts := rfl
@[simp] theorem Body.updStack_gos (b : Body) (st : Fin 24) (f : Stack → Stack) : (b.updStack st f).gos = b.gos := rfl
@[simp] theorem Body.updStack_mem (b : Body) (st : Fin 24) (f : Stack → Stack) : (b.updStack st f).mem = b.mem := rfl
@[simp] theorem Body.updStack_bkp (b : Body) (st : Fin 24) (f : Stack → Stack) : (b.updStack st f).bkp = b.bkp := rfl
@[simp] theorem Body.updStack_bkpBad (b : Body) (st : Fin 24) (f : Stack → Stack) : (b.updStack st f).bkpBad = b.bkpBad := rfl
@[simp] theorem Body.updStack_out (b : Body) (st : Fin 24) (f : Stack → Stack) : (b.updStack st f).out = b.out := rfl
@[simp] theorem Body.updStack_free (b : Body) (st : Fin 24) (f : Stack → Stack) : (b.updStack st f).free = b.free := rfl
@[simp] theorem Body.updStack_core (b : Body) (st : Fin 24) (f : Stack → Stack) (d : Fin 32) : (b.updStack st f).core d = b.core d := rfl
@[simp] theorem Body.updStack_quad (b : Body) (st : Fin 24) (f : Stack → Stack) (d : Fin 4) : (b.updStack st f).quad d = b.quad d := rfl
@[simp] theorem Body.updStack_part (b : Body) (st : Fin 24) (f : Stack → Stack) (d : Fin 8) : (b.updStack st f).part d = b.part d := rfl
@[simp] theorem Body.updStack_slot (b : Body) (st : Fin 24) (f : Stack → Stack) (d : Fin 8) (j : Fin 4) : (b.updStack st f).slot d j = b.slot d j := rfl
@[simp] theorem Body.updStack_link (b : Body) (st : Fin 24) (f : Stack → Stack) (d : Fin 24) : (b.updStack st f).link d = b.link d := rfl
@[simp] theorem Body.updStack_port (b : Body) (st : Fin 24) (f : Stack → Stack) (d : Port) : (b.updStack st f).port d = b.port d := rfl
@[simp] theorem Body.updStack_mailbox (b : Body) (st : Fin 24) (f : Stack → Stack) (g : Page) (d : Fin 4) : (b.updStack st f).mailbox g d = b.mailbox g d := rfl

/-! updPart writes parts alone. -/

@[simp] theorem Body.updPart_board (b : Body) (p : Fin 8) (f : Part → Part) : (b.updPart p f).board = b.board := rfl
@[simp] theorem Body.updPart_ports (b : Body) (p : Fin 8) (f : Part → Part) : (b.updPart p f).ports = b.ports := rfl
@[simp] theorem Body.updPart_mail (b : Body) (p : Fin 8) (f : Part → Part) : (b.updPart p f).mail = b.mail := rfl
@[simp] theorem Body.updPart_cores (b : Body) (p : Fin 8) (f : Part → Part) : (b.updPart p f).cores = b.cores := rfl
@[simp] theorem Body.updPart_quads (b : Body) (p : Fin 8) (f : Part → Part) : (b.updPart p f).quads = b.quads := rfl
@[simp] theorem Body.updPart_stks (b : Body) (p : Fin 8) (f : Part → Part) : (b.updPart p f).stks = b.stks := rfl
@[simp] theorem Body.updPart_fab (b : Body) (p : Fin 8) (f : Part → Part) : (b.updPart p f).fab = b.fab := rfl
@[simp] theorem Body.updPart_gos (b : Body) (p : Fin 8) (f : Part → Part) : (b.updPart p f).gos = b.gos := rfl
@[simp] theorem Body.updPart_mem (b : Body) (p : Fin 8) (f : Part → Part) : (b.updPart p f).mem = b.mem := rfl
@[simp] theorem Body.updPart_bkp (b : Body) (p : Fin 8) (f : Part → Part) : (b.updPart p f).bkp = b.bkp := rfl
@[simp] theorem Body.updPart_bkpBad (b : Body) (p : Fin 8) (f : Part → Part) : (b.updPart p f).bkpBad = b.bkpBad := rfl
@[simp] theorem Body.updPart_out (b : Body) (p : Fin 8) (f : Part → Part) : (b.updPart p f).out = b.out := rfl
@[simp] theorem Body.updPart_free (b : Body) (p : Fin 8) (f : Part → Part) : (b.updPart p f).free = b.free := rfl
@[simp] theorem Body.updPart_core (b : Body) (p : Fin 8) (f : Part → Part) (d : Fin 32) : (b.updPart p f).core d = b.core d := rfl
@[simp] theorem Body.updPart_quad (b : Body) (p : Fin 8) (f : Part → Part) (d : Fin 4) : (b.updPart p f).quad d = b.quad d := rfl
@[simp] theorem Body.updPart_stack (b : Body) (p : Fin 8) (f : Part → Part) (d : Fin 24) : (b.updPart p f).stack d = b.stack d := rfl
@[simp] theorem Body.updPart_link (b : Body) (p : Fin 8) (f : Part → Part) (d : Fin 24) : (b.updPart p f).link d = b.link d := rfl
@[simp] theorem Body.updPart_port (b : Body) (p : Fin 8) (f : Part → Part) (d : Port) : (b.updPart p f).port d = b.port d := rfl
@[simp] theorem Body.updPart_mailbox (b : Body) (p : Fin 8) (f : Part → Part) (g : Page) (d : Fin 4) : (b.updPart p f).mailbox g d = b.mailbox g d := rfl

/-! updSlot writes parts alone. -/

@[simp] theorem Body.updSlot_board (b : Body) (p : Fin 8) (k : Fin 4) (f : Slot → Slot) : (b.updSlot p k f).board = b.board := rfl
@[simp] theorem Body.updSlot_ports (b : Body) (p : Fin 8) (k : Fin 4) (f : Slot → Slot) : (b.updSlot p k f).ports = b.ports := rfl
@[simp] theorem Body.updSlot_mail (b : Body) (p : Fin 8) (k : Fin 4) (f : Slot → Slot) : (b.updSlot p k f).mail = b.mail := rfl
@[simp] theorem Body.updSlot_cores (b : Body) (p : Fin 8) (k : Fin 4) (f : Slot → Slot) : (b.updSlot p k f).cores = b.cores := rfl
@[simp] theorem Body.updSlot_quads (b : Body) (p : Fin 8) (k : Fin 4) (f : Slot → Slot) : (b.updSlot p k f).quads = b.quads := rfl
@[simp] theorem Body.updSlot_stks (b : Body) (p : Fin 8) (k : Fin 4) (f : Slot → Slot) : (b.updSlot p k f).stks = b.stks := rfl
@[simp] theorem Body.updSlot_fab (b : Body) (p : Fin 8) (k : Fin 4) (f : Slot → Slot) : (b.updSlot p k f).fab = b.fab := rfl
@[simp] theorem Body.updSlot_gos (b : Body) (p : Fin 8) (k : Fin 4) (f : Slot → Slot) : (b.updSlot p k f).gos = b.gos := rfl
@[simp] theorem Body.updSlot_mem (b : Body) (p : Fin 8) (k : Fin 4) (f : Slot → Slot) : (b.updSlot p k f).mem = b.mem := rfl
@[simp] theorem Body.updSlot_bkp (b : Body) (p : Fin 8) (k : Fin 4) (f : Slot → Slot) : (b.updSlot p k f).bkp = b.bkp := rfl
@[simp] theorem Body.updSlot_bkpBad (b : Body) (p : Fin 8) (k : Fin 4) (f : Slot → Slot) : (b.updSlot p k f).bkpBad = b.bkpBad := rfl
@[simp] theorem Body.updSlot_out (b : Body) (p : Fin 8) (k : Fin 4) (f : Slot → Slot) : (b.updSlot p k f).out = b.out := rfl
@[simp] theorem Body.updSlot_free (b : Body) (p : Fin 8) (k : Fin 4) (f : Slot → Slot) : (b.updSlot p k f).free = b.free := rfl
@[simp] theorem Body.updSlot_core (b : Body) (p : Fin 8) (k : Fin 4) (f : Slot → Slot) (d : Fin 32) : (b.updSlot p k f).core d = b.core d := rfl
@[simp] theorem Body.updSlot_quad (b : Body) (p : Fin 8) (k : Fin 4) (f : Slot → Slot) (d : Fin 4) : (b.updSlot p k f).quad d = b.quad d := rfl
@[simp] theorem Body.updSlot_stack (b : Body) (p : Fin 8) (k : Fin 4) (f : Slot → Slot) (d : Fin 24) : (b.updSlot p k f).stack d = b.stack d := rfl
@[simp] theorem Body.updSlot_link (b : Body) (p : Fin 8) (k : Fin 4) (f : Slot → Slot) (d : Fin 24) : (b.updSlot p k f).link d = b.link d := rfl
@[simp] theorem Body.updSlot_port (b : Body) (p : Fin 8) (k : Fin 4) (f : Slot → Slot) (d : Port) : (b.updSlot p k f).port d = b.port d := rfl
@[simp] theorem Body.updSlot_mailbox (b : Body) (p : Fin 8) (k : Fin 4) (f : Slot → Slot) (g : Page) (d : Fin 4) : (b.updSlot p k f).mailbox g d = b.mailbox g d := rfl

/-! updBoard writes board alone. -/

@[simp] theorem Body.updBoard_ports (b : Body) (f : Board → Board) : (b.updBoard f).ports = b.ports := rfl
@[simp] theorem Body.updBoard_mail (b : Body) (f : Board → Board) : (b.updBoard f).mail = b.mail := rfl
@[simp] theorem Body.updBoard_cores (b : Body) (f : Board → Board) : (b.updBoard f).cores = b.cores := rfl
@[simp] theorem Body.updBoard_quads (b : Body) (f : Board → Board) : (b.updBoard f).quads = b.quads := rfl
@[simp] theorem Body.updBoard_stks (b : Body) (f : Board → Board) : (b.updBoard f).stks = b.stks := rfl
@[simp] theorem Body.updBoard_fab (b : Body) (f : Board → Board) : (b.updBoard f).fab = b.fab := rfl
@[simp] theorem Body.updBoard_parts (b : Body) (f : Board → Board) : (b.updBoard f).parts = b.parts := rfl
@[simp] theorem Body.updBoard_gos (b : Body) (f : Board → Board) : (b.updBoard f).gos = b.gos := rfl
@[simp] theorem Body.updBoard_mem (b : Body) (f : Board → Board) : (b.updBoard f).mem = b.mem := rfl
@[simp] theorem Body.updBoard_bkp (b : Body) (f : Board → Board) : (b.updBoard f).bkp = b.bkp := rfl
@[simp] theorem Body.updBoard_bkpBad (b : Body) (f : Board → Board) : (b.updBoard f).bkpBad = b.bkpBad := rfl
@[simp] theorem Body.updBoard_out (b : Body) (f : Board → Board) : (b.updBoard f).out = b.out := rfl
@[simp] theorem Body.updBoard_free (b : Body) (f : Board → Board) : (b.updBoard f).free = b.free := rfl
@[simp] theorem Body.updBoard_core (b : Body) (f : Board → Board) (d : Fin 32) : (b.updBoard f).core d = b.core d := rfl
@[simp] theorem Body.updBoard_quad (b : Body) (f : Board → Board) (d : Fin 4) : (b.updBoard f).quad d = b.quad d := rfl
@[simp] theorem Body.updBoard_stack (b : Body) (f : Board → Board) (d : Fin 24) : (b.updBoard f).stack d = b.stack d := rfl
@[simp] theorem Body.updBoard_part (b : Body) (f : Board → Board) (d : Fin 8) : (b.updBoard f).part d = b.part d := rfl
@[simp] theorem Body.updBoard_slot (b : Body) (f : Board → Board) (d : Fin 8) (j : Fin 4) : (b.updBoard f).slot d j = b.slot d j := rfl
@[simp] theorem Body.updBoard_link (b : Body) (f : Board → Board) (d : Fin 24) : (b.updBoard f).link d = b.link d := rfl
@[simp] theorem Body.updBoard_port (b : Body) (f : Board → Board) (d : Port) : (b.updBoard f).port d = b.port d := rfl
@[simp] theorem Body.updBoard_mailbox (b : Body) (f : Board → Board) (g : Page) (d : Fin 4) : (b.updBoard f).mailbox g d = b.mailbox g d := rfl

/-! updFab writes fab alone. -/

@[simp] theorem Body.updFab_board (b : Body) (f : Fab → Fab) : (b.updFab f).board = b.board := rfl
@[simp] theorem Body.updFab_ports (b : Body) (f : Fab → Fab) : (b.updFab f).ports = b.ports := rfl
@[simp] theorem Body.updFab_mail (b : Body) (f : Fab → Fab) : (b.updFab f).mail = b.mail := rfl
@[simp] theorem Body.updFab_cores (b : Body) (f : Fab → Fab) : (b.updFab f).cores = b.cores := rfl
@[simp] theorem Body.updFab_quads (b : Body) (f : Fab → Fab) : (b.updFab f).quads = b.quads := rfl
@[simp] theorem Body.updFab_stks (b : Body) (f : Fab → Fab) : (b.updFab f).stks = b.stks := rfl
@[simp] theorem Body.updFab_parts (b : Body) (f : Fab → Fab) : (b.updFab f).parts = b.parts := rfl
@[simp] theorem Body.updFab_gos (b : Body) (f : Fab → Fab) : (b.updFab f).gos = b.gos := rfl
@[simp] theorem Body.updFab_mem (b : Body) (f : Fab → Fab) : (b.updFab f).mem = b.mem := rfl
@[simp] theorem Body.updFab_bkp (b : Body) (f : Fab → Fab) : (b.updFab f).bkp = b.bkp := rfl
@[simp] theorem Body.updFab_bkpBad (b : Body) (f : Fab → Fab) : (b.updFab f).bkpBad = b.bkpBad := rfl
@[simp] theorem Body.updFab_out (b : Body) (f : Fab → Fab) : (b.updFab f).out = b.out := rfl
@[simp] theorem Body.updFab_free (b : Body) (f : Fab → Fab) : (b.updFab f).free = b.free := rfl
@[simp] theorem Body.updFab_core (b : Body) (f : Fab → Fab) (d : Fin 32) : (b.updFab f).core d = b.core d := rfl
@[simp] theorem Body.updFab_quad (b : Body) (f : Fab → Fab) (d : Fin 4) : (b.updFab f).quad d = b.quad d := rfl
@[simp] theorem Body.updFab_stack (b : Body) (f : Fab → Fab) (d : Fin 24) : (b.updFab f).stack d = b.stack d := rfl
@[simp] theorem Body.updFab_part (b : Body) (f : Fab → Fab) (d : Fin 8) : (b.updFab f).part d = b.part d := rfl
@[simp] theorem Body.updFab_slot (b : Body) (f : Fab → Fab) (d : Fin 8) (j : Fin 4) : (b.updFab f).slot d j = b.slot d j := rfl
@[simp] theorem Body.updFab_port (b : Body) (f : Fab → Fab) (d : Port) : (b.updFab f).port d = b.port d := rfl
@[simp] theorem Body.updFab_mailbox (b : Body) (f : Fab → Fab) (g : Page) (d : Fin 4) : (b.updFab f).mailbox g d = b.mailbox g d := rfl

/-! updLink writes fab alone. -/

@[simp] theorem Body.updLink_board (b : Body) (l : Fin 24) (f : Link → Link) : (b.updLink l f).board = b.board := rfl
@[simp] theorem Body.updLink_ports (b : Body) (l : Fin 24) (f : Link → Link) : (b.updLink l f).ports = b.ports := rfl
@[simp] theorem Body.updLink_mail (b : Body) (l : Fin 24) (f : Link → Link) : (b.updLink l f).mail = b.mail := rfl
@[simp] theorem Body.updLink_cores (b : Body) (l : Fin 24) (f : Link → Link) : (b.updLink l f).cores = b.cores := rfl
@[simp] theorem Body.updLink_quads (b : Body) (l : Fin 24) (f : Link → Link) : (b.updLink l f).quads = b.quads := rfl
@[simp] theorem Body.updLink_stks (b : Body) (l : Fin 24) (f : Link → Link) : (b.updLink l f).stks = b.stks := rfl
@[simp] theorem Body.updLink_parts (b : Body) (l : Fin 24) (f : Link → Link) : (b.updLink l f).parts = b.parts := rfl
@[simp] theorem Body.updLink_gos (b : Body) (l : Fin 24) (f : Link → Link) : (b.updLink l f).gos = b.gos := rfl
@[simp] theorem Body.updLink_mem (b : Body) (l : Fin 24) (f : Link → Link) : (b.updLink l f).mem = b.mem := rfl
@[simp] theorem Body.updLink_bkp (b : Body) (l : Fin 24) (f : Link → Link) : (b.updLink l f).bkp = b.bkp := rfl
@[simp] theorem Body.updLink_bkpBad (b : Body) (l : Fin 24) (f : Link → Link) : (b.updLink l f).bkpBad = b.bkpBad := rfl
@[simp] theorem Body.updLink_out (b : Body) (l : Fin 24) (f : Link → Link) : (b.updLink l f).out = b.out := rfl
@[simp] theorem Body.updLink_free (b : Body) (l : Fin 24) (f : Link → Link) : (b.updLink l f).free = b.free := rfl
@[simp] theorem Body.updLink_core (b : Body) (l : Fin 24) (f : Link → Link) (d : Fin 32) : (b.updLink l f).core d = b.core d := rfl
@[simp] theorem Body.updLink_quad (b : Body) (l : Fin 24) (f : Link → Link) (d : Fin 4) : (b.updLink l f).quad d = b.quad d := rfl
@[simp] theorem Body.updLink_stack (b : Body) (l : Fin 24) (f : Link → Link) (d : Fin 24) : (b.updLink l f).stack d = b.stack d := rfl
@[simp] theorem Body.updLink_part (b : Body) (l : Fin 24) (f : Link → Link) (d : Fin 8) : (b.updLink l f).part d = b.part d := rfl
@[simp] theorem Body.updLink_slot (b : Body) (l : Fin 24) (f : Link → Link) (d : Fin 8) (j : Fin 4) : (b.updLink l f).slot d j = b.slot d j := rfl
@[simp] theorem Body.updLink_port (b : Body) (l : Fin 24) (f : Link → Link) (d : Port) : (b.updLink l f).port d = b.port d := rfl
@[simp] theorem Body.updLink_mailbox (b : Body) (l : Fin 24) (f : Link → Link) (g : Page) (d : Fin 4) : (b.updLink l f).mailbox g d = b.mailbox g d := rfl

/-! updPort writes ports alone. -/

@[simp] theorem Body.updPort_board (b : Body) (q : Port) (f : PortState → PortState) : (b.updPort q f).board = b.board := rfl
@[simp] theorem Body.updPort_mail (b : Body) (q : Port) (f : PortState → PortState) : (b.updPort q f).mail = b.mail := rfl
@[simp] theorem Body.updPort_cores (b : Body) (q : Port) (f : PortState → PortState) : (b.updPort q f).cores = b.cores := rfl
@[simp] theorem Body.updPort_quads (b : Body) (q : Port) (f : PortState → PortState) : (b.updPort q f).quads = b.quads := rfl
@[simp] theorem Body.updPort_stks (b : Body) (q : Port) (f : PortState → PortState) : (b.updPort q f).stks = b.stks := rfl
@[simp] theorem Body.updPort_fab (b : Body) (q : Port) (f : PortState → PortState) : (b.updPort q f).fab = b.fab := rfl
@[simp] theorem Body.updPort_parts (b : Body) (q : Port) (f : PortState → PortState) : (b.updPort q f).parts = b.parts := rfl
@[simp] theorem Body.updPort_gos (b : Body) (q : Port) (f : PortState → PortState) : (b.updPort q f).gos = b.gos := rfl
@[simp] theorem Body.updPort_mem (b : Body) (q : Port) (f : PortState → PortState) : (b.updPort q f).mem = b.mem := rfl
@[simp] theorem Body.updPort_bkp (b : Body) (q : Port) (f : PortState → PortState) : (b.updPort q f).bkp = b.bkp := rfl
@[simp] theorem Body.updPort_bkpBad (b : Body) (q : Port) (f : PortState → PortState) : (b.updPort q f).bkpBad = b.bkpBad := rfl
@[simp] theorem Body.updPort_out (b : Body) (q : Port) (f : PortState → PortState) : (b.updPort q f).out = b.out := rfl
@[simp] theorem Body.updPort_free (b : Body) (q : Port) (f : PortState → PortState) : (b.updPort q f).free = b.free := rfl
@[simp] theorem Body.updPort_core (b : Body) (q : Port) (f : PortState → PortState) (d : Fin 32) : (b.updPort q f).core d = b.core d := rfl
@[simp] theorem Body.updPort_quad (b : Body) (q : Port) (f : PortState → PortState) (d : Fin 4) : (b.updPort q f).quad d = b.quad d := rfl
@[simp] theorem Body.updPort_stack (b : Body) (q : Port) (f : PortState → PortState) (d : Fin 24) : (b.updPort q f).stack d = b.stack d := rfl
@[simp] theorem Body.updPort_part (b : Body) (q : Port) (f : PortState → PortState) (d : Fin 8) : (b.updPort q f).part d = b.part d := rfl
@[simp] theorem Body.updPort_slot (b : Body) (q : Port) (f : PortState → PortState) (d : Fin 8) (j : Fin 4) : (b.updPort q f).slot d j = b.slot d j := rfl
@[simp] theorem Body.updPort_link (b : Body) (q : Port) (f : PortState → PortState) (d : Fin 24) : (b.updPort q f).link d = b.link d := rfl
@[simp] theorem Body.updPort_mailbox (b : Body) (q : Port) (f : PortState → PortState) (g : Page) (d : Fin 4) : (b.updPort q f).mailbox g d = b.mailbox g d := rfl

/-! updMail writes mail alone. -/

@[simp] theorem Body.updMail_board (b : Body) (pg : Page) (m : Fin 4) (f : Mailbox → Mailbox) : (b.updMail pg m f).board = b.board := rfl
@[simp] theorem Body.updMail_ports (b : Body) (pg : Page) (m : Fin 4) (f : Mailbox → Mailbox) : (b.updMail pg m f).ports = b.ports := rfl
@[simp] theorem Body.updMail_cores (b : Body) (pg : Page) (m : Fin 4) (f : Mailbox → Mailbox) : (b.updMail pg m f).cores = b.cores := rfl
@[simp] theorem Body.updMail_quads (b : Body) (pg : Page) (m : Fin 4) (f : Mailbox → Mailbox) : (b.updMail pg m f).quads = b.quads := rfl
@[simp] theorem Body.updMail_stks (b : Body) (pg : Page) (m : Fin 4) (f : Mailbox → Mailbox) : (b.updMail pg m f).stks = b.stks := rfl
@[simp] theorem Body.updMail_fab (b : Body) (pg : Page) (m : Fin 4) (f : Mailbox → Mailbox) : (b.updMail pg m f).fab = b.fab := rfl
@[simp] theorem Body.updMail_parts (b : Body) (pg : Page) (m : Fin 4) (f : Mailbox → Mailbox) : (b.updMail pg m f).parts = b.parts := rfl
@[simp] theorem Body.updMail_gos (b : Body) (pg : Page) (m : Fin 4) (f : Mailbox → Mailbox) : (b.updMail pg m f).gos = b.gos := rfl
@[simp] theorem Body.updMail_mem (b : Body) (pg : Page) (m : Fin 4) (f : Mailbox → Mailbox) : (b.updMail pg m f).mem = b.mem := rfl
@[simp] theorem Body.updMail_bkp (b : Body) (pg : Page) (m : Fin 4) (f : Mailbox → Mailbox) : (b.updMail pg m f).bkp = b.bkp := rfl
@[simp] theorem Body.updMail_bkpBad (b : Body) (pg : Page) (m : Fin 4) (f : Mailbox → Mailbox) : (b.updMail pg m f).bkpBad = b.bkpBad := rfl
@[simp] theorem Body.updMail_out (b : Body) (pg : Page) (m : Fin 4) (f : Mailbox → Mailbox) : (b.updMail pg m f).out = b.out := rfl
@[simp] theorem Body.updMail_free (b : Body) (pg : Page) (m : Fin 4) (f : Mailbox → Mailbox) : (b.updMail pg m f).free = b.free := rfl
@[simp] theorem Body.updMail_core (b : Body) (pg : Page) (m : Fin 4) (f : Mailbox → Mailbox) (d : Fin 32) : (b.updMail pg m f).core d = b.core d := rfl
@[simp] theorem Body.updMail_quad (b : Body) (pg : Page) (m : Fin 4) (f : Mailbox → Mailbox) (d : Fin 4) : (b.updMail pg m f).quad d = b.quad d := rfl
@[simp] theorem Body.updMail_stack (b : Body) (pg : Page) (m : Fin 4) (f : Mailbox → Mailbox) (d : Fin 24) : (b.updMail pg m f).stack d = b.stack d := rfl
@[simp] theorem Body.updMail_part (b : Body) (pg : Page) (m : Fin 4) (f : Mailbox → Mailbox) (d : Fin 8) : (b.updMail pg m f).part d = b.part d := rfl
@[simp] theorem Body.updMail_slot (b : Body) (pg : Page) (m : Fin 4) (f : Mailbox → Mailbox) (d : Fin 8) (j : Fin 4) : (b.updMail pg m f).slot d j = b.slot d j := rfl
@[simp] theorem Body.updMail_link (b : Body) (pg : Page) (m : Fin 4) (f : Mailbox → Mailbox) (d : Fin 24) : (b.updMail pg m f).link d = b.link d := rfl
@[simp] theorem Body.updMail_port (b : Body) (pg : Page) (m : Fin 4) (f : Mailbox → Mailbox) (d : Port) : (b.updMail pg m f).port d = b.port d := rfl

/-! updMem writes mem alone. -/

@[simp] theorem Body.updMem_board (b : Body) (f : Mem → Mem) : (b.updMem f).board = b.board := rfl
@[simp] theorem Body.updMem_ports (b : Body) (f : Mem → Mem) : (b.updMem f).ports = b.ports := rfl
@[simp] theorem Body.updMem_mail (b : Body) (f : Mem → Mem) : (b.updMem f).mail = b.mail := rfl
@[simp] theorem Body.updMem_cores (b : Body) (f : Mem → Mem) : (b.updMem f).cores = b.cores := rfl
@[simp] theorem Body.updMem_quads (b : Body) (f : Mem → Mem) : (b.updMem f).quads = b.quads := rfl
@[simp] theorem Body.updMem_stks (b : Body) (f : Mem → Mem) : (b.updMem f).stks = b.stks := rfl
@[simp] theorem Body.updMem_fab (b : Body) (f : Mem → Mem) : (b.updMem f).fab = b.fab := rfl
@[simp] theorem Body.updMem_parts (b : Body) (f : Mem → Mem) : (b.updMem f).parts = b.parts := rfl
@[simp] theorem Body.updMem_gos (b : Body) (f : Mem → Mem) : (b.updMem f).gos = b.gos := rfl
@[simp] theorem Body.updMem_bkp (b : Body) (f : Mem → Mem) : (b.updMem f).bkp = b.bkp := rfl
@[simp] theorem Body.updMem_bkpBad (b : Body) (f : Mem → Mem) : (b.updMem f).bkpBad = b.bkpBad := rfl
@[simp] theorem Body.updMem_out (b : Body) (f : Mem → Mem) : (b.updMem f).out = b.out := rfl
@[simp] theorem Body.updMem_free (b : Body) (f : Mem → Mem) : (b.updMem f).free = b.free := rfl
@[simp] theorem Body.updMem_core (b : Body) (f : Mem → Mem) (d : Fin 32) : (b.updMem f).core d = b.core d := rfl
@[simp] theorem Body.updMem_quad (b : Body) (f : Mem → Mem) (d : Fin 4) : (b.updMem f).quad d = b.quad d := rfl
@[simp] theorem Body.updMem_stack (b : Body) (f : Mem → Mem) (d : Fin 24) : (b.updMem f).stack d = b.stack d := rfl
@[simp] theorem Body.updMem_part (b : Body) (f : Mem → Mem) (d : Fin 8) : (b.updMem f).part d = b.part d := rfl
@[simp] theorem Body.updMem_slot (b : Body) (f : Mem → Mem) (d : Fin 8) (j : Fin 4) : (b.updMem f).slot d j = b.slot d j := rfl
@[simp] theorem Body.updMem_link (b : Body) (f : Mem → Mem) (d : Fin 24) : (b.updMem f).link d = b.link d := rfl
@[simp] theorem Body.updMem_port (b : Body) (f : Mem → Mem) (d : Port) : (b.updMem f).port d = b.port d := rfl
@[simp] theorem Body.updMem_mailbox (b : Body) (f : Mem → Mem) (g : Page) (d : Fin 4) : (b.updMem f).mailbox g d = b.mailbox g d := rfl

/-! emit writes out alone. -/

@[simp] theorem Body.emit_board (b : Body) (o : Out) : (b.emit o).board = b.board := rfl
@[simp] theorem Body.emit_ports (b : Body) (o : Out) : (b.emit o).ports = b.ports := rfl
@[simp] theorem Body.emit_mail (b : Body) (o : Out) : (b.emit o).mail = b.mail := rfl
@[simp] theorem Body.emit_cores (b : Body) (o : Out) : (b.emit o).cores = b.cores := rfl
@[simp] theorem Body.emit_quads (b : Body) (o : Out) : (b.emit o).quads = b.quads := rfl
@[simp] theorem Body.emit_stks (b : Body) (o : Out) : (b.emit o).stks = b.stks := rfl
@[simp] theorem Body.emit_fab (b : Body) (o : Out) : (b.emit o).fab = b.fab := rfl
@[simp] theorem Body.emit_parts (b : Body) (o : Out) : (b.emit o).parts = b.parts := rfl
@[simp] theorem Body.emit_gos (b : Body) (o : Out) : (b.emit o).gos = b.gos := rfl
@[simp] theorem Body.emit_mem (b : Body) (o : Out) : (b.emit o).mem = b.mem := rfl
@[simp] theorem Body.emit_bkp (b : Body) (o : Out) : (b.emit o).bkp = b.bkp := rfl
@[simp] theorem Body.emit_bkpBad (b : Body) (o : Out) : (b.emit o).bkpBad = b.bkpBad := rfl
@[simp] theorem Body.emit_free (b : Body) (o : Out) : (b.emit o).free = b.free := rfl
@[simp] theorem Body.emit_core (b : Body) (o : Out) (d : Fin 32) : (b.emit o).core d = b.core d := rfl
@[simp] theorem Body.emit_quad (b : Body) (o : Out) (d : Fin 4) : (b.emit o).quad d = b.quad d := rfl
@[simp] theorem Body.emit_stack (b : Body) (o : Out) (d : Fin 24) : (b.emit o).stack d = b.stack d := rfl
@[simp] theorem Body.emit_part (b : Body) (o : Out) (d : Fin 8) : (b.emit o).part d = b.part d := rfl
@[simp] theorem Body.emit_slot (b : Body) (o : Out) (d : Fin 8) (j : Fin 4) : (b.emit o).slot d j = b.slot d j := rfl
@[simp] theorem Body.emit_link (b : Body) (o : Out) (d : Fin 24) : (b.emit o).link d = b.link d := rfl
@[simp] theorem Body.emit_port (b : Body) (o : Out) (d : Port) : (b.emit o).port d = b.port d := rfl
@[simp] theorem Body.emit_mailbox (b : Body) (o : Out) (g : Page) (d : Fin 4) : (b.emit o).mailbox g d = b.mailbox g d := rfl

/-! ### What an update writes -/

@[simp] theorem Body.updBoard_board (b : Body) (f : Board → Board) : (b.updBoard f).board = f b.board := rfl
@[simp] theorem Body.updFab_fab (b : Body) (f : Fab → Fab) : (b.updFab f).fab = f b.fab := rfl
@[simp] theorem Body.updMem_mem (b : Body) (f : Mem → Mem) : (b.updMem f).mem = f b.mem := rfl
@[simp] theorem Body.emit_out (b : Body) (o : Out) : (b.emit o).out = b.out ++ [o] := rfl

/-- Reading the list element that an update at another place left. -/
theorem getD_modify_ne {α : Type} (l : List α) (i j : Nat) (f : α → α) (d : α) (h : i ≠ j) :
    (l.modify i f).getD j d = l.getD j d := by
  simp [List.getD_eq_getElem?_getD, h]

/-- Reading the list element that an update wrote. -/
theorem getD_modify_self {α : Type} (l : List α) (i : Nat) (f : α → α) (d : α) (h : i < l.length) :
    (l.modify i f).getD i d = f (l.getD i d) := by
  simp [List.getD_eq_getElem?_getD, h]

/-- An update keeps the number of elements. -/
theorem length_modify_eq {α : Type} (l : List α) (i : Nat) (f : α → α) : (l.modify i f).length = l.length := by simp

theorem Body.core_updCore (b : Body) (c : Fin 32) (f : Core → Core) (h : c.val < b.cores.length) : (b.updCore c f).core c = f (b.core c) :=
  getD_modify_self _ _ _ _ h
theorem Body.core_updCore_ne (b : Body) (c d : Fin 32) (f : Core → Core) (h : d ≠ c) : (b.updCore c f).core d = b.core d :=
  getD_modify_ne _ _ _ _ _ fun e => h (Fin.ext e.symm)
@[simp] theorem Body.updCore_cores_length (b : Body) (c : Fin 32) (f : Core → Core) : (b.updCore c f).cores.length = b.cores.length :=
  length_modify_eq _ _ _
theorem Body.quad_updQuad (b : Body) (c : Fin 4) (f : Quad → Quad) (h : c.val < b.quads.length) : (b.updQuad c f).quad c = f (b.quad c) :=
  getD_modify_self _ _ _ _ h
theorem Body.quad_updQuad_ne (b : Body) (c d : Fin 4) (f : Quad → Quad) (h : d ≠ c) : (b.updQuad c f).quad d = b.quad d :=
  getD_modify_ne _ _ _ _ _ fun e => h (Fin.ext e.symm)
@[simp] theorem Body.updQuad_quads_length (b : Body) (c : Fin 4) (f : Quad → Quad) : (b.updQuad c f).quads.length = b.quads.length :=
  length_modify_eq _ _ _
theorem Body.stack_updStack (b : Body) (c : Fin 24) (f : Stack → Stack) (h : c.val < b.stks.length) : (b.updStack c f).stack c = f (b.stack c) :=
  getD_modify_self _ _ _ _ h
theorem Body.stack_updStack_ne (b : Body) (c d : Fin 24) (f : Stack → Stack) (h : d ≠ c) : (b.updStack c f).stack d = b.stack d :=
  getD_modify_ne _ _ _ _ _ fun e => h (Fin.ext e.symm)
@[simp] theorem Body.updStack_stks_length (b : Body) (c : Fin 24) (f : Stack → Stack) : (b.updStack c f).stks.length = b.stks.length :=
  length_modify_eq _ _ _
theorem Body.part_updPart (b : Body) (c : Fin 8) (f : Part → Part) (h : c.val < b.parts.length) : (b.updPart c f).part c = f (b.part c) :=
  getD_modify_self _ _ _ _ h
theorem Body.part_updPart_ne (b : Body) (c d : Fin 8) (f : Part → Part) (h : d ≠ c) : (b.updPart c f).part d = b.part d :=
  getD_modify_ne _ _ _ _ _ fun e => h (Fin.ext e.symm)
@[simp] theorem Body.updPart_parts_length (b : Body) (c : Fin 8) (f : Part → Part) : (b.updPart c f).parts.length = b.parts.length :=
  length_modify_eq _ _ _
theorem Body.core_updCx (b : Body) (c : Fin 32) (f : CoreCtx → CoreCtx) (h : c.val < b.cores.length) :
    (b.updCx c f).core c = { b.core c with cx := f (b.core c).cx } := b.core_updCore c _ h
theorem Body.core_updCx_ne (b : Body) (c d : Fin 32) (f : CoreCtx → CoreCtx) (h : d ≠ c) : (b.updCx c f).core d = b.core d :=
  b.core_updCore_ne c d _ h
theorem Body.part_updSlot_ne (b : Body) (p q : Fin 8) (k : Fin 4) (f : Slot → Slot) (h : q ≠ p) : (b.updSlot p k f).part q = b.part q :=
  b.part_updPart_ne p q _ h
theorem Body.slot_updSlot (b : Body) (p : Fin 8) (k : Fin 4) (f : Slot → Slot) (hp : p.val < b.parts.length)
    (hk : k.val < (b.part p).slots.length) : (b.updSlot p k f).slot p k = f (b.slot p k) := by
  unfold Body.slot Body.updSlot
  rw [b.part_updPart p _ hp]
  exact getD_modify_self _ _ _ _ hk
theorem Body.slot_updSlot_ne (b : Body) (p : Fin 8) (k j : Fin 4) (f : Slot → Slot) (hp : p.val < b.parts.length) (h : j ≠ k) :
    (b.updSlot p k f).slot p j = b.slot p j := by
  unfold Body.slot Body.updSlot
  rw [b.part_updPart p _ hp]
  exact getD_modify_ne _ _ _ _ _ fun e => h (Fin.ext e.symm)
theorem Body.slot_updSlot_part (b : Body) (p q : Fin 8) (k j : Fin 4) (f : Slot → Slot) (h : q ≠ p) :
    (b.updSlot p k f).slot q j = b.slot q j := by
  unfold Body.slot
  rw [b.part_updSlot_ne p q k f h]
theorem Body.link_updLink (b : Body) (l : Fin 24) (f : Link → Link) (h : l.val < b.fab.links.length) :
    (b.updLink l f).link l = f (b.link l) := getD_modify_self _ _ _ _ h
theorem Body.link_updLink_ne (b : Body) (l m : Fin 24) (f : Link → Link) (h : m ≠ l) : (b.updLink l f).link m = b.link m :=
  getD_modify_ne _ _ _ _ _ fun e => h (Fin.ext e.symm)
/-- The two ports have two numbers. -/
theorem portIx_lt (q : Port) : portIx q < 2 := by cases q <;> decide
theorem portIx_ne {q r : Port} (h : r ≠ q) : portIx q ≠ portIx r := by cases q <;> cases r <;> simp_all [portIx]
theorem Body.port_updPort (b : Body) (q : Port) (f : PortState → PortState) (h : b.ports.length = 2) :
    (b.updPort q f).port q = f (b.port q) := getD_modify_self _ _ _ _ (h ▸ portIx_lt q)
theorem Body.port_updPort_ne (b : Body) (q r : Port) (f : PortState → PortState) (h : r ≠ q) : (b.updPort q f).port r = b.port r :=
  getD_modify_ne _ _ _ _ _ (portIx_ne h)
theorem pageIx_lt (pg : Page) : pageIx pg < 9 := by
  cases pg with
  | part p => exact Nat.lt_of_lt_of_le p.isLt (by decide)
  | module => decide
theorem Body.mailbox_updMail (b : Body) (pg : Page) (m : Fin 4) (f : Mailbox → Mailbox) (hp : pageIx pg < b.mail.length)
    (hm : m.val < (b.mail.getD (pageIx pg) []).length) : (b.updMail pg m f).mailbox pg m = f (b.mailbox pg m) := by
  unfold Body.mailbox Body.updMail
  simp only []
  rw [getD_modify_self _ _ _ _ hp]
  exact getD_modify_self _ _ _ _ hm

/-! ### Ownership -/

theorem Own.sem_updSem (o : Own) (n : Nat) (f : Sem → Sem) (h : n < o.sems.length) : (o.updSem n f).sem n = f (o.sem n) :=
  getD_modify_self _ _ _ _ h
theorem Own.sem_updSem_ne (o : Own) (n m : Nat) (f : Sem → Sem) (h : n ≠ m) : (o.updSem n f).sem m = o.sem m :=
  getD_modify_ne _ _ _ _ _ h
@[simp] theorem Own.updSem_recs (o : Own) (n : Nat) (f : Sem → Sem) : (o.updSem n f).recs = o.recs := rfl
@[simp] theorem Own.updSem_maps (o : Own) (n : Nat) (f : Sem → Sem) : (o.updSem n f).maps = o.maps := rfl
@[simp] theorem Own.updSem_worlds (o : Own) (n : Nat) (f : Sem → Sem) : (o.updSem n f).worlds = o.worlds := rfl
@[simp] theorem Own.updSem_prec (o : Own) (n : Nat) (f : Sem → Sem) (p : Fin 8) : (o.updSem n f).prec p = o.prec p := rfl
theorem Own.prec_updRec (o : Own) (p : Fin 8) (f : PartRec → PartRec) (h : p.val < o.recs.length) :
    (o.updRec p f).prec p = f (o.prec p) := getD_modify_self _ _ _ _ h
theorem Own.prec_updRec_ne (o : Own) (p q : Fin 8) (f : PartRec → PartRec) (h : q ≠ p) : (o.updRec p f).prec q = o.prec q :=
  getD_modify_ne _ _ _ _ _ fun e => h (Fin.ext e.symm)
@[simp] theorem Own.updRec_sems (o : Own) (p : Fin 8) (f : PartRec → PartRec) : (o.updRec p f).sems = o.sems := rfl
@[simp] theorem Own.updRec_maps (o : Own) (p : Fin 8) (f : PartRec → PartRec) : (o.updRec p f).maps = o.maps := rfl
@[simp] theorem Own.updRec_worlds (o : Own) (p : Fin 8) (f : PartRec → PartRec) : (o.updRec p f).worlds = o.worlds := rfl

end Sys2Proof.Machine
end

