-- ==== Sys2Proof/Laws/Ops.lean ====
section
/-! SUPPORT. One lemma for each shared operation: everything it can do to the state. -/

namespace Sys2Proof.Machine

open Sys2Proof

/-! ### Interrupts -/

/-- What an operation that only signals may change: pending bits of the ports' vectors, and observations driven. -/
def Body.signalled (b t : Body) : Prop :=
  t.board = b.board ∧ t.mail = b.mail ∧ t.cores = b.cores ∧ t.quads = b.quads ∧ t.stks = b.stks ∧ t.fab = b.fab ∧ t.parts = b.parts ∧
    t.mem = b.mem ∧ t.bkp = b.bkp ∧ t.free = b.free ∧ t.ports.length = b.ports.length ∧ t.bkpBad = b.bkpBad

theorem Body.signalled_refl (b : Body) : b.signalled b := ⟨rfl, rfl, rfl, rfl, rfl, rfl, rfl, rfl, rfl, rfl, rfl, rfl⟩

theorem Body.signalled_trans {b t u : Body} (h : b.signalled t) (k : t.signalled u) : b.signalled u := by
  obtain ⟨h1, h2, h3, h4, h5, h6, h7, h8, h9, h10, h11, h12⟩ := h
  obtain ⟨k1, k2, k3, k4, k5, k6, k7, k8, k9, k10, k11, k12⟩ := k
  exact ⟨k1.trans h1, k2.trans h2, k3.trans h3, k4.trans h4, k5.trans h5, k6.trans h6, k7.trans h7, k8.trans h8, k9.trans h9,
    k10.trans h10, k11.trans h11, k12.trans h12⟩

theorem Body.signalled_fire (b : Body) (q : Port) (v : Nat) : b.signalled (b.fire q v) := by
  unfold Body.fire
  split
  · exact b.signalled_refl
  · split
    · exact b.signalled_refl
    · split
      · exact ⟨rfl, rfl, rfl, rfl, rfl, rfl, rfl, rfl, rfl, rfl, by simp [Body.updPort], rfl⟩
      · exact ⟨rfl, rfl, rfl, rfl, rfl, rfl, rfl, rfl, rfl, rfl, rfl, rfl⟩

theorem Body.signalled_firePart (o : Own) (b : Body) (p : Fin 8) (v : Nat) : b.signalled (b.firePart o p v) := by
  unfold Body.firePart
  split
  · exact b.signalled_fire _ _
  · exact b.signalled_refl

theorem Body.signalled_fireMail (o : Own) (b : Body) (pg : Page) (m : Fin 4) : b.signalled (b.fireMail o pg m) := by
  unfold Body.fireMail
  split
  · exact b.signalled_firePart _ _ _
  · split
    · exact b.signalled_fire _ _
    · exact b.signalled_refl

theorem Body.signalled_noteModule (b old : Body) : b.signalled (b.noteModule old) := by
  unfold Body.noteModule
  split
  · exact b.signalled_refl
  · exact Body.signalled_trans (b.signalled_fire _ _) (Body.signalled_fire _ _ _)

/-! ### Mailboxes -/

/-- A final response: the mailbox it goes to, and then at most a signal (R402, R405). -/
theorem Body.respond_spec (o : Own) (b : Body) (t : Ticket) (st : W16) (d : Nat) (r : List Byte) :
    (b.updMail t.page t.mb fun x =>
      { x with resp := respBytes st t.tag d r, done := x.done + 1, pend := false, owner := false }).signalled (b.respond o t st d r) := by
  unfold Body.respond
  split
  · exact Body.signalled_fireMail _ _ _ _
  · exact Body.signalled_refl _

@[simp] theorem Body.respond_board (o : Own) (b : Body) (t : Ticket) (st : W16) (d : Nat) (r : List Byte) :
    (b.respond o t st d r).board = b.board := (b.respond_spec o t st d r).1
@[simp] theorem Body.respond_cores (o : Own) (b : Body) (t : Ticket) (st : W16) (d : Nat) (r : List Byte) :
    (b.respond o t st d r).cores = b.cores := (b.respond_spec o t st d r).2.2.1
@[simp] theorem Body.respond_quads (o : Own) (b : Body) (t : Ticket) (st : W16) (d : Nat) (r : List Byte) :
    (b.respond o t st d r).quads = b.quads := (b.respond_spec o t st d r).2.2.2.1
@[simp] theorem Body.respond_stacks (o : Own) (b : Body) (t : Ticket) (st : W16) (d : Nat) (r : List Byte) :
    (b.respond o t st d r).stks = b.stks := (b.respond_spec o t st d r).2.2.2.2.1
@[simp] theorem Body.respond_fab (o : Own) (b : Body) (t : Ticket) (st : W16) (d : Nat) (r : List Byte) :
    (b.respond o t st d r).fab = b.fab := (b.respond_spec o t st d r).2.2.2.2.2.1
@[simp] theorem Body.respond_parts (o : Own) (b : Body) (t : Ticket) (st : W16) (d : Nat) (r : List Byte) :
    (b.respond o t st d r).parts = b.parts := (b.respond_spec o t st d r).2.2.2.2.2.2.1
@[simp] theorem Body.respond_mem (o : Own) (b : Body) (t : Ticket) (st : W16) (d : Nat) (r : List Byte) :
    (b.respond o t st d r).mem = b.mem := (b.respond_spec o t st d r).2.2.2.2.2.2.2.1
@[simp] theorem Body.respond_bkp (o : Own) (b : Body) (t : Ticket) (st : W16) (d : Nat) (r : List Byte) :
    (b.respond o t st d r).bkp = b.bkp := (b.respond_spec o t st d r).2.2.2.2.2.2.2.2.1
@[simp] theorem Body.respond_free (o : Own) (b : Body) (t : Ticket) (st : W16) (d : Nat) (r : List Byte) :
    (b.respond o t st d r).free = b.free := (b.respond_spec o t st d r).2.2.2.2.2.2.2.2.2.1

/-- Completing a list of commands changes mailboxes, signals, and nothing else. -/
theorem Body.respondAll_spec (o : Own) (b : Body) (ts : List Ticket) (st : W16) :
    (b.respondAll o ts st).board = b.board ∧ (b.respondAll o ts st).cores = b.cores ∧ (b.respondAll o ts st).quads = b.quads ∧
      (b.respondAll o ts st).stks = b.stks ∧ (b.respondAll o ts st).fab = b.fab ∧ (b.respondAll o ts st).parts = b.parts ∧
      (b.respondAll o ts st).mem = b.mem ∧ (b.respondAll o ts st).bkp = b.bkp := by
  unfold Body.respondAll Body.respondEach
  induction ts generalizing b with
  | nil => simp
  | cons t ts ih =>
    have := ih (b.respond o t st 0 [])
    simpa using this

/-- A side-band command is served only where one waits. -/
theorem Body.smbServe_nil (b : Body) (h : b.gos = []) : b.smbServe = b := by
  unfold Body.smbServe
  rw [h]
  split <;> simp_all

/-- A GO of a command that is taken: the command area holds the command, then the shared checks of R412, then the command's own
rule, then the response that goes with what the rule answers. -/
theorem xnx_run (s : State) (x : Xnx) (code : Nat) (on : OnPage) (lenOk arg0Ok : Bool) (act : Own → Body → Xres) (ht : s.takes x = true) :
    s.xnx code x on lenOk arg0Ok act = .next (match xRefusal x on lenOk arg0Ok with
      | some st => s.answer s.own (s.commanded code x) x st 0 []
      | none => match act s.own (s.commandedWith code x) with
        | .refused st d => s.answer s.own (s.commanded code x) x st d []
        | .foreign a => s.answer s.own ((s.commanded code x).logForeign s.own x.page a) x stWorld 0 []
        | .done o2 b2 st d r => s.answer o2 b2 x st d r
        | .pending o2 b2 => s.promise o2 b2 x) := by
  simp only [State.takes, Bool.and_eq_true, beq_iff_eq, Bool.not_eq_true'] at ht
  obtain ⟨⟨⟨⟨⟨⟨h1, h2⟩, h3⟩, h4⟩, h5⟩, h6⟩, h7⟩ := ht
  have k : s.body.clocked = true := by simp [Body.clocked, h1, h2]
  have u : s.body.hostServed = true := by simp [Body.hostServed, k, h1]
  have v : s.body.stewardUp = true := by simp [Body.stewardUp, h1, h2]
  simp only [State.xnx, State.both, State.always, runXnx, goXnx, Body.smbServe_nil _ h7, k, u, v, h3, h4, h5, h6, h7, State.answer,
    State.promise, State.commanded, State.commandedWith, carryOut, Body.placeCommand]
  cases xRefusal x on lenOk arg0Ok <;> simp
  cases act s.own ((s.body.updMail x.page x.mb fun m => { m with cmd := xArea code x }).upset x.ecc) <;> simp

/-- A command on a partition's page whose length and ARG0 are in order passes the shared checks. -/
theorem xRefusal_part {s : State} {x : Xnx} {p : Fin 8} (h : s.takesOn x p = true) : xRefusal x .part true true = none := by
  simp only [State.takesOn, Bool.and_eq_true, beq_iff_eq, decide_eq_true_eq] at h
  obtain ⟨⟨_, hp⟩, hf⟩ := h
  simp [xRefusal, OnPage.ok, hp]
  omega

/-- The same on the module page. -/
theorem xRefusal_module {s : State} {x : Xnx} (h : s.takesModule x = true) : xRefusal x .module true true = none := by
  simp only [State.takesModule, Bool.and_eq_true, beq_iff_eq, decide_eq_true_eq] at h
  obtain ⟨⟨_, hp⟩, hf⟩ := h
  simp [xRefusal, OnPage.ok, hp]
  omega

theorem takes_of_takesOn {s : State} {x : Xnx} {p : Fin 8} (h : s.takesOn x p = true) : s.takes x = true := by
  simp only [State.takesOn, Bool.and_eq_true] at h
  exact h.1.1

theorem takes_of_takesModule {s : State} {x : Xnx} (h : s.takesModule x = true) : s.takes x = true := by
  simp only [State.takesModule, Bool.and_eq_true] at h
  exact h.1.1

/-! ### Event queues and refusals -/

/-- What appending to a partition's queue, or refusing a request, leaves: everything but partitions, ports, ERR_SUM and
observations. -/
def Body.logged (b t : Body) : Prop :=
  t.mail = b.mail ∧ t.cores = b.cores ∧ t.quads = b.quads ∧ t.stks = b.stks ∧ t.fab = b.fab ∧ t.mem = b.mem ∧ t.bkp = b.bkp ∧
    t.free = b.free ∧ t.board = { b.board with world := t.board.world } ∧ t.parts.length = b.parts.length ∧ t.bkpBad = b.bkpBad

theorem Body.logged_refl (b : Body) : b.logged b := ⟨rfl, rfl, rfl, rfl, rfl, rfl, rfl, rfl, rfl, rfl, rfl⟩

theorem Body.logged_appendEvent (o : Own) (b : Body) (p : Fin 8) (r : EventRec) : b.logged (b.appendEvent o p r) := by
  unfold Body.appendEvent
  simp only []
  split
  · exact ⟨rfl, rfl, rfl, rfl, rfl, rfl, rfl, rfl, rfl, by simp [Body.updPart], rfl⟩
  · split
    · obtain ⟨h1, h2, h3, h4, h5, h6, h7, h8, h9, h10, _, h12⟩ :=
        (b.updPart p fun x => { x with events := x.events ++ [r] }).signalled_firePart o p (33 + p.val)
      refine ⟨h2.trans rfl, h3.trans rfl, h4.trans rfl, h5.trans rfl, h6.trans rfl, h8.trans rfl, h9.trans rfl, h10.trans rfl, ?_, ?_,
        h12.trans rfl⟩
      · rw [h1]; rfl
      · rw [h7]; simp [Body.updPart]
    · exact ⟨rfl, rfl, rfl, rfl, rfl, rfl, rfl, rfl, rfl, by simp [Body.updPart], rfl⟩

theorem Body.logged_logRefusal (o : Own) (b : Body) (p : Fin 8) (st : W16) (src : Nat × Nat) (a : Nat) :
    b.logged (b.logRefusal o p st src a) := by
  obtain ⟨h1, h2, h3, h4, h5, h6, h7, h8, h9, h10, h11⟩ := b.logged_appendEvent o p (faultRecord 2 st src a (b.fab.time % 2 ^ 64))
  unfold Body.logRefusal
  simp only []
  split
  · refine ⟨h1, h2, h3, h4, h5, h6, h7, h8, ?_, h10, h11⟩
    simp only [Body.updBoard]
    rw [h9]
  · exact ⟨h1, h2, h3, h4, h5, h6, h7, h8, h9, h10, h11⟩

theorem Body.logged_logEntry (o : Own) (b : Body) (p : Fin 8) (c : Fin 32) (idx : Nat) (st : W16) (a : Nat) :
    b.logged (b.logEntry o p c idx st a) := by
  unfold Body.logEntry
  split
  · split
    · exact b.logged_refl
    · obtain ⟨h1, h2, h3, h4, h5, h6, h7, h8, h9, h10, h11⟩ := Body.logged_logRefusal o (b.updSlot _ _ _) p st (0, c.val) a
      exact ⟨h1, h2, h3, h4, h5, h6, h7, h8, h9, h10.trans (by simp [Body.updSlot, Body.updPart]), h11⟩
  · exact b.logged_logRefusal _ _ _ _ _

theorem Body.logged_refuse (o : Own) (b : Body) (who : Requester) (st : W16) (a : Nat) : b.logged (b.refuse o who st a) := by
  unfold Body.refuse
  split
  · exact b.logged_refl
  · exact b.logged_logEntry _ _ _ _ _ _
  · exact b.logged_logRefusal _ _ _ _ _
  · exact b.logged_logRefusal _ _ _ _ _
  · exact b.logged_refl

/-- A refusal changes no byte of memory. -/
@[simp] theorem Body.refuse_mem (o : Own) (b : Body) (who : Requester) (st : W16) (a : Nat) : (b.refuse o who st a).mem = b.mem :=
  (b.logged_refuse o who st a).2.2.2.2.2.1

/-! ### Counters and stores -/

/-- What counting an error or an access leaves: everything but the counters of cores, quadrants and stacks. -/
def Body.counted (b t : Body) : Prop :=
  t.board = b.board ∧ t.ports = b.ports ∧ t.mail = b.mail ∧ t.fab = b.fab ∧ t.parts = b.parts ∧ t.mem = b.mem ∧ t.bkp = b.bkp ∧
    t.out = b.out ∧ t.free = b.free ∧ t.cores.length = b.cores.length ∧ t.stks.length = b.stks.length ∧ t.bkpBad = b.bkpBad

theorem Body.counted_refl (b : Body) : b.counted b := ⟨rfl, rfl, rfl, rfl, rfl, rfl, rfl, rfl, rfl, rfl, rfl, rfl⟩

theorem Body.counted_trans {b t u : Body} (h : b.counted t) (k : t.counted u) : b.counted u := by
  obtain ⟨h1, h2, h3, h4, h5, h6, h7, h8, h9, h10, h11, h12⟩ := h
  obtain ⟨k1, k2, k3, k4, k5, k6, k7, k8, k9, k10, k11, k12⟩ := k
  exact ⟨k1.trans h1, k2.trans h2, k3.trans h3, k4.trans h4, k5.trans h5, k6.trans h6, k7.trans h7, k8.trans h8, k9.trans h9,
    k10.trans h10, k11.trans h11, k12.trans h12⟩

/-- A change to a core's or a stack's counters only counts. -/
theorem Body.counted_cores (b : Body) (c : Nat) (f : Core → Core) : b.counted { b with cores := b.cores.modify c f } :=
  ⟨rfl, rfl, rfl, rfl, rfl, rfl, rfl, rfl, rfl, length_modify_eq _ _ _, rfl, rfl⟩
theorem Body.counted_quads (b : Body) (c : Nat) (f : Quad → Quad) : b.counted { b with quads := b.quads.modify c f } :=
  ⟨rfl, rfl, rfl, rfl, rfl, rfl, rfl, rfl, rfl, rfl, rfl, rfl⟩
theorem Body.counted_stks (b : Body) (c : Nat) (f : Stack → Stack) : b.counted { b with stks := b.stks.modify c f } :=
  ⟨rfl, rfl, rfl, rfl, rfl, rfl, rfl, rfl, rfl, rfl, length_modify_eq _ _ _, rfl⟩

theorem Body.counted_countCe (o : Own) (b : Body) (a : Nat) : b.counted (b.countCe o a) := by
  unfold Body.countCe
  split
  · exact b.counted_cores _ _
  · exact b.counted_cores _ _
  · exact b.counted_quads _ _
  · split
    · exact b.counted_stks _ _
    · exact b.counted_refl
  · exact b.counted_refl

theorem Body.counted_countUe (o : Own) (b : Body) (a : Nat) (scrub : Bool) : b.counted (b.countUe o a scrub) := by
  unfold Body.countUe
  simp only []
  split
  · exact b.counted_cores _ _
  · exact b.counted_cores _ _
  · exact b.counted_quads _ _
  · split
    · exact b.counted_stks _ _
    · exact b.counted_refl
  · exact b.counted_refl

/-- A fold of operations that each only count only counts. -/
theorem Body.counted_foldl {α : Type} (f : Body → α → Body) (h : ∀ (b : Body) (x : α), b.counted (f b x)) (l : List α) (b : Body) :
    b.counted (l.foldl f b) := by
  induction l generalizing b with
  | nil => exact b.counted_refl
  | cons x t ih => exact Body.counted_trans (h b x) (ih _)

/-- Traffic counts at stacks, and nothing else (R231). -/
theorem Body.counted_traffic (b : Body) (write : Bool) (us : List (DramLoc × Nat)) : b.counted (b.traffic write us) := by
  unfold Body.traffic
  exact Body.counted_trans (Body.counted_foldl _ (fun b u => b.counted_stks _ _) _ _)
    (Body.counted_foldl _ (fun b u => b.counted_stks _ _) _ _)

theorem Body.counted_countWrites (o : Own) (b : Body) (a : Nat) (d : List (Option Byte)) : b.counted (b.countWrites o a d) := by
  unfold Body.countWrites
  simp only []
  exact Body.counted_trans (Body.counted_trans (b.counted_traffic _ _) (Body.counted_foldl _ (fun b u => b.counted_stks _ _) _ _))
    (Body.counted_traffic _ _ _)

theorem Body.counted_countReads (o : Own) (b : Body) (a n : Nat) : b.counted (b.countReads o a n) := b.counted_traffic _ _

theorem Body.counted_countReadsOf (o : Own) (b : Body) (rs : List (Nat × Nat)) : b.counted (b.countReadsOf o rs) :=
  b.counted_traffic _ _

@[simp] theorem Body.countReads_mem (o : Own) (b : Body) (a n : Nat) : (b.countReads o a n).mem = b.mem :=
  (b.counted_countReads o a n).2.2.2.2.2.1

/-- Where no stored word holds an error, the merge reads of a write find nothing. -/
theorem Body.mergeRead_clean (o : Own) (b : Body) (a : Nat) (d : List (Option Byte)) (h : b.mem.upsets = []) : b.mergeRead o a d = b := by
  simp [Body.mergeRead, h]

/-- Putting bytes in place, where no stored word holds an error, is the masked write of memory, and counters (R18, R172). -/
theorem Body.place_spec (o : Own) (b : Body) (a : Nat) (d : List (Option Byte)) (h : b.mem.upsets = []) :
    (b.updMem (·.writeMasked (wordSize o.maps a) a d)).counted (b.place o a d) := by
  unfold Body.place
  rw [Body.mergeRead_clean o b a d h]
  exact Body.counted_foldl _ (fun b x => b.counted_countUe o x false) _ _

/-- A store, where no stored word holds an error, is the masked write of memory, and counters: nothing else (R18, R172, R215). -/
theorem Body.store_spec (o : Own) (b : Body) (a : Nat) (d : List (Option Byte)) (h : b.mem.upsets = []) :
    (b.updMem (·.writeMasked (wordSize o.maps a) a d)).counted (b.store o a d) := by
  obtain ⟨h1, h2, h3, h4, h5, h6, h7, h8, h9, h10, h11, h12⟩ := b.counted_countWrites o a d
  have e : (b.updMem (·.writeMasked (wordSize o.maps a) a d)).counted
      ((b.countWrites o a d).updMem (·.writeMasked (wordSize o.maps a) a d)) :=
    ⟨h1, h2, h3, h4, h5, by simp only [Body.updMem]; rw [h6], h7, h8, h9, h10, h11, h12⟩
  exact Body.counted_trans e (Body.place_spec o _ a d (by rw [h6]; exact h))

@[simp] theorem Body.store_mem (o : Own) (b : Body) (a : Nat) (d : List (Option Byte)) (h : b.mem.upsets = []) :
    (b.store o a d).mem = b.mem.writeMasked (wordSize o.maps a) a d := (b.store_spec o a d h).2.2.2.2.2.1

/-- A fold of counters leaves memory as it is. -/
theorem Body.mem_foldl_countUe (o : Own) (l : List Nat) (b : Body) : (l.foldl (fun b x => b.countUe o x false) b).mem = b.mem :=
  (Body.counted_foldl _ (fun b x => b.counted_countUe o x false) l b).2.2.2.2.2.1

/-- The merge reads of a write change no byte. -/
theorem Body.mergeRead_cells (o : Own) (b : Body) (a : Nat) (d : List (Option Byte)) : (b.mergeRead o a d).mem.cells = b.mem.cells := by
  unfold Body.mergeRead
  simp only []
  generalize b.mem.upsets.filter _ = l
  induction l generalizing b with
  | nil => rfl
  | cons u t ih =>
    rw [List.foldl_cons]
    refine (ih _).trans ?_
    split
    · rfl
    · rw [(b.counted_countCe o u.1).2.2.2.2.2.1]
    · rfl

/-- A store keeps memory in canonical form. -/
theorem Body.wf_store (o : Own) (b : Body) (a : Nat) (d : List (Option Byte)) (h : b.mem.wf = true) : (b.store o a d).mem.wf = true := by
  unfold Body.store Body.place
  simp only []
  rw [Body.mem_foldl_countUe]
  refine Mem.wf_writeMasked _ _ _ ?_
  have k : ((b.countWrites o a d).mergeRead o a d).mem.cells = b.mem.cells := by
    rw [Body.mergeRead_cells, (b.counted_countWrites o a d).2.2.2.2.2.1]
  simpa [Mem.wf, k] using h

/-! ### Memory of partitions, contexts and presses -/

/-- Zeroing vats and presses, core after core. -/
theorem Mem.wf_zeroVats (cs : List (Fin 32)) (m : Mem) (h : m.wf = true) :
    (cs.foldl (fun m c => (m.zero (vatBase c.val) vatSize).zero (pressBase c.val) pressSize) m).wf = true := by
  induction cs generalizing m with
  | nil => simpa using h
  | cons c t ih => exact ih _ (Mem.wf_zero _ _ (Mem.wf_zero _ _ h))

theorem Body.wf_zeroPartition (o : Own) (b : Body) (p : Fin 8) (h : b.mem.wf = true) : (b.zeroPartition o p).mem.wf = true :=
  Mem.wf_zero _ _ (Mem.wf_zeroVats _ _ h)

theorem Body.wf_zeroBlock (b : Body) (p : Fin 8) (k : PBlock) (cores : Bool) (h : b.mem.wf = true) :
    (b.zeroBlock p k cores).mem.wf = true := by
  have h1 : (if b.board.tripped = true then b.mem
      else (b.mem.zero k.dataRange.1 k.dataRange.2).zero k.storeRange.1 k.storeRange.2).wf = true := by
    split
    · exact h
    · exact Mem.wf_zero _ _ (Mem.wf_zero _ _ h)
  have h4 := Mem.wf_zero (caveRegion p.val) 0x6000 (Mem.wf_zero k.cellarRange.1 k.cellarRange.2 h1)
  unfold Body.zeroBlock
  simp only [Body.updMem]
  split
  · exact Mem.wf_zeroCores _ h4
  · exact h4

theorem Body.wf_zeroContext (b : Body) (img : List Byte) (r : Residence) (h : b.mem.wf = true) : (b.zeroContext img r).mem.wf = true := by
  unfold Body.zeroContext
  simp only []
  split
  · exact h
  · exact Mem.wf_zeroAll _ h
  · exact Mem.wf_zeroAll _ h
  · exact Mem.wf_zeroAll _ h

/-- Writing a piece's results into the press keeps the form. -/
theorem Piece.wf_store (p : Piece) (core j : Nat) (rs : List ((Nat × Nat) × Acc)) (m : Mem) (h : m.wf = true) :
    (p.store core j rs m).wf = true := by
  unfold Piece.store
  induction rs generalizing m with
  | nil => simpa using h
  | cons r t ih => exact ih _ (Mem.wf_write _ _ _ h)

/-! ### The step -/

/-- A step with a command waiting runs it on the state with the rest of the queue. -/
theorem step_cons (c : Instr) (rest : List Instr) (s : State) (h : s.pending = c :: rest) :
    step s = exec c { s with pending := rest } := by
  simp only [step, h]

end Sys2Proof.Machine
end

