-- ==== Sys2Proof/WellFormed.lean ====
section
/-! DEFINITION. What a command's operands must satisfy to be a command the spec's wires can carry; everything else an
operand may hold is judged by the command's own rule. -/

namespace Sys2Proof

/-- A mailbox command: 32-bit ARG0 and at most 8,176 argument bytes (R398, R400). -/
def Xnx.wf (x : Xnx) : Bool := decide (x.args.length ≤ 8176) && decide (x.arg0 < 2 ^ 32) && decide (x.len < 2 ^ 32)

/-- A fabric message: data in whole granules of 8 bytes, at most 4,096 bytes (R281, R282). -/
def Msg.wf (m : Msg) : Bool := decide (m.data.length % 8 = 0) && decide (m.data.length ≤ 4096)

/-- A block's 1,120 bytes arrive on four lanes, 280 on each (R278). -/
def lanesWf (lanes : List (List Byte)) : Bool := decide (lanes.length = 4) && lanes.all fun l => decide (l.length = 280)

/-- A link has four lanes: a scrambler seed and coefficients for each (R277, R278, R297). -/
def LaneSetup.wf (t : LaneSetup) : Bool :=
  decide (t.rxSeeds.length = 4) && decide (t.txSeeds.length = 4) && decide (t.coeffs.length = 4)

/-- A memory write moves one aligned 64-byte unit under byte masks (R18). -/
def unitWf (addr : Addr) (data : List (Option Byte)) : Bool :=
  decide (addr.toNat % 64 = 0) && decide (data.length = 64)

/-- A BAR0 access lies in the 16 MiB BAR and moves at least one byte (R383, R392). -/
def barWf (off : Nat) (acc : BarAccess) : Bool :=
  match acc with
  | .read n => decide (off + n ≤ 2 ^ 24) && decide (0 < n)
  | .write data => decide (off + data.length ≤ 2 ^ 24) && !data.isEmpty

/-- Well-formed commands: the operands that a wire or a standard bounds are within it (temperatures are bytes, R231; an SPDM nonce
is 32 bytes, R447). -/
def Instr.wf : Instr → Bool
  | .bar0RegisterWrite _ off acc => barWf off acc
  | .hostWindowAccess _ _ off _ _ => decide (off < 2 ^ 43)
  | .configRequest _ reg _ => decide (reg % 4 = 0) && decide (reg < 4096)
  | .blockReceive _ lanes => lanesWf lanes
  | .linkTrainingComplete _ _ _ t => t.wf
  | .dramWrite _ addr w => unitWf addr w.data
  | .networkWrite _ addr w => unitWf addr w.data
  | .stackTempSample _ temp => decide (temp < 256)
  | .junctionTrip _ temp => decide (temp < 256)
  | .challenge _ _ nonce => decide (nonce.length = 32)
  | .getMeasurements _ _ _ nonce => decide (nonce.length = 32)
  | .nop x | .telemSnap x | .eventRead x | .pressRead x | .caveRead x | .caveWrite x | .backupWrite x |
  .harvestCfg x | .hostCopy x | .almLoad x | .almUnload x | .invoke x | .preempt x | .resume x | .btCommit x |
  .updParams x | .updRecover x | .replCfg x | .replRepair x _ | .fabCfg x | .linkEnable x | .linkDisable x |
  .fabAdmit x | .fabTime x | .collCfg x | .mediaCfg x | .mediaStream x | .mediaVocab x | .mediaAlign x |
  .mediaEncode x | .stkTest x | .pprQuery x | .pprCand x | .pprSoft x | .pprHard x | .partCreate x | .partModify x |
  .partReset x | .partDelete x | .fwStage x _ _ | .fwStatus x | .fwCommit x | .unknownXnxCode x _ => x.wf
  | .fabricWrite _ m | .fabricColl _ m | .fabricResp _ m | .ptpMessage _ m _ | .firmwareChunk _ m _ |
  .stewardMessage _ m _ => m.wf
  | .semAcquire .. | .semRelease .. | .portReset .. | .portLinkDownTimeout .. | .hostCopyComplete .. |
  .almLoadComplete .. | .almUnloadComplete .. | .invocationComplete .. | .contextSaveComplete .. |
  .contextRestoreComplete .. | .mediaVocabComplete .. | .stkTestComplete .. | .partCreateComplete .. |
  .partModifyComplete .. | .partitionResetComplete .. | .partDeleteComplete .. | .fwCommitActivate | .getVersion .. |
  .getCapabilities .. | .negotiateAlgorithms .. | .getDigests .. | .getCertificate .. | .respondIfReady .. |
  .spdmUnsupportedRequest .. | .smbStatusRead | .smbPwrInRead | .smbPwrSagRead | .smbStackTempRead |
  .smbIdentityRead | .smbFwVerRead | .smbXnxCommandWrite .. | .smbXnxResponseRead | .tapReset | .bypass | .idcode |
  .samplePreload .. | .extest | .clamp | .highz | .extestPulse | .extestTrain | .tapLeaveExtest |
  .railSequenceStart | .railStartTimeout .. | .shutdownRetry | .moduleShutdown .. | .powerOnReset | .resetNLow .. |
  .warmReset | .watchdogExpiry | .heartbeat | .sagWarning .. | .sagWarningRelease .. | .supplySagReset .. |
  .sagResetRelease | .referenceClockLoss .. | .referenceClockReturn .. | .firmwareStart | .dramTrainingComplete .. |
  .knownAnswerRuns .. | .moduleReady .. | .powerSample .. | .powerCapStepDown | .powerCapStepUp | .powerFloorFault |
  .thermalCapLower .. | .trafficLimitHalve .. | .refreshRateRelease .. | .thermalCapRise .. |
  .trafficLimitRelease .. | .stackSensorFault .. | .stackSensorTimeout .. | .dramRead .. | .writeBatch .. |
  .bulkRequestAged .. | .perBankRefresh .. | .patrolScrub .. | .odeccRead .. | .networkRead .. | .eccWriteBack .. |
  .sramScrub .. | .memoryZeroingComplete .. | .tile .. | .listTilePiece .. | .tileComplete .. |
  .writeOutComplete .. | .vec .. | .vecComplete .. | .harvestFlush .. | .xform .. | .xdStart .. | .xdComplete .. |
  .xdPreemptStop .. | .rindJobStart .. | .rindJobComplete .. | .coll .. | .collStart .. | .collStartNotice .. |
  .permuteReadoutNotice .. | .collComplete .. | .media .. | .mjStart .. | .sampleDecodeComplete .. |
  .decodeBudgetExhausted .. | .videoBandProgress .. | .encodePicture .. | .encodeSliceComplete .. | .mjComplete .. |
  .writeIndexSample | .alignTickEmit .. | .alignLateLimit .. | .upd .. | .norm .. | .check .. | .apply .. |
  .compare .. | .commit .. | .udComplete .. | .udPreemptStop .. | .wait .. | .waitRelease .. | .signal .. |
  .btCommitEntry .. | .slot .. | .end_ .. | .endComplete .. | .boundOverrun .. | .preemptionPoint .. |
  .coreClockChange .. | .pllRelockDone .. | .katTile .. | .trainingBlockReceive .. | .laneLockLoss .. |
  .ackTimeout .. | .partnerReady .. | .ptpSync | .fwRepairTimeout | .fwVerifyComplete .. |
  .fwDeadline | .blockTransmit .. | .cxlCacheSnoop .. | .doeDiscovery .. | .portLinkDown .. | .portLinkTrained .. |
  .refreshManagementRequest .. | .caParityError .. => true

end Sys2Proof
end

