-- ==== Sys2Proof/Laws/PerInstr.lean ====
section
/-! SUPPORT. What well-formedness says of each command: its mailbox words, its fabric message, its addresses and lengths are within what
the wires carry. -/

namespace Sys2Proof.Laws.WellFormed

open Sys2Proof

/-- The mailbox command that a command carries. -/
def xnxOf : Instr → Option Xnx
  | .nop x | .telemSnap x | .eventRead x | .pressRead x | .caveRead x | .caveWrite x | .backupWrite x |
  .harvestCfg x | .hostCopy x | .almLoad x | .almUnload x | .invoke x | .preempt x | .resume x | .btCommit x |
  .updParams x | .updRecover x | .replCfg x | .replRepair x _ | .fabCfg x | .linkEnable x | .linkDisable x |
  .fabAdmit x | .fabTime x | .collCfg x | .mediaCfg x | .mediaStream x | .mediaVocab x | .mediaAlign x |
  .mediaEncode x | .stkTest x | .pprQuery x | .pprCand x | .pprSoft x | .pprHard x | .partCreate x | .partModify x |
  .partReset x | .partDelete x | .fwStage x _ _ | .fwStatus x | .fwCommit x | .unknownXnxCode x _ => some x
  | .configRequest .. | .hostWindowAccess .. | .bar0RegisterWrite .. | .semAcquire .. | .semRelease .. |
  .portReset .. | .portLinkDownTimeout .. | .hostCopyComplete .. | .almLoadComplete .. | .almUnloadComplete .. |
  .invocationComplete .. | .contextSaveComplete .. | .contextRestoreComplete .. | .mediaVocabComplete .. |
  .stkTestComplete .. | .partCreateComplete .. | .partModifyComplete .. | .partitionResetComplete .. |
  .partDeleteComplete .. | .fwCommitActivate | .getVersion .. | .getCapabilities .. | .negotiateAlgorithms .. |
  .getDigests .. | .getCertificate .. | .challenge .. | .getMeasurements .. | .respondIfReady .. |
  .spdmUnsupportedRequest .. | .smbStatusRead | .smbPwrInRead | .smbPwrSagRead | .smbStackTempRead |
  .smbIdentityRead | .smbFwVerRead | .smbXnxCommandWrite .. | .smbXnxResponseRead | .tapReset | .bypass | .idcode |
  .samplePreload .. | .extest | .clamp | .highz | .extestPulse | .extestTrain | .tapLeaveExtest |
  .railSequenceStart | .railStartTimeout .. | .shutdownRetry | .moduleShutdown .. | .powerOnReset | .resetNLow .. |
  .warmReset | .watchdogExpiry | .heartbeat | .sagWarning .. | .sagWarningRelease .. | .supplySagReset .. |
  .sagResetRelease | .referenceClockLoss .. | .referenceClockReturn .. | .firmwareStart | .dramTrainingComplete .. |
  .knownAnswerRuns .. | .moduleReady .. | .powerSample .. | .powerCapStepDown | .powerCapStepUp | .powerFloorFault |
  .stackTempSample .. | .thermalCapLower .. | .trafficLimitHalve .. | .refreshRateRelease .. | .thermalCapRise .. |
  .trafficLimitRelease .. | .stackSensorFault .. | .stackSensorTimeout .. | .junctionTrip .. | .dramRead .. |
  .dramWrite .. | .writeBatch .. | .bulkRequestAged .. | .perBankRefresh .. | .patrolScrub .. | .odeccRead .. |
  .networkRead .. | .networkWrite .. | .eccWriteBack .. | .sramScrub .. | .memoryZeroingComplete .. | .tile .. |
  .listTilePiece .. | .tileComplete .. | .writeOutComplete .. | .vec .. | .vecComplete .. | .harvestFlush .. |
  .xform .. | .xdStart .. | .xdComplete .. | .xdPreemptStop .. | .rindJobStart .. | .rindJobComplete .. | .coll .. |
  .collStart .. | .collStartNotice .. | .permuteReadoutNotice .. | .collComplete .. | .media .. | .mjStart .. |
  .sampleDecodeComplete .. | .decodeBudgetExhausted .. | .videoBandProgress .. | .encodePicture .. |
  .encodeSliceComplete .. | .mjComplete .. | .writeIndexSample | .alignTickEmit .. | .alignLateLimit .. | .upd .. |
  .norm .. | .check .. | .apply .. | .compare .. | .commit .. | .udComplete .. | .udPreemptStop .. | .wait .. |
  .waitRelease .. | .signal .. | .btCommitEntry .. | .slot .. | .end_ .. | .endComplete .. | .boundOverrun .. |
  .preemptionPoint .. | .coreClockChange .. | .pllRelockDone .. | .katTile .. | .blockReceive .. |
  .trainingBlockReceive .. | .laneLockLoss .. | .ackTimeout .. | .linkTrainingComplete .. | .partnerReady .. |
  .fabricWrite .. | .fabricColl .. | .fabricResp .. | .ptpMessage .. | .ptpSync | .firmwareChunk .. |
  .stewardMessage .. | .fwRepairTimeout | .fwVerifyComplete .. | .fwDeadline | .blockTransmit .. |
  .cxlCacheSnoop .. | .doeDiscovery .. | .portLinkDown .. | .portLinkTrained .. | .refreshManagementRequest .. |
  .caParityError .. => none

/-- The fabric message that a command carries. -/
def msgOf : Instr → Option Msg
  | .fabricWrite _ m | .fabricColl _ m | .fabricResp _ m | .ptpMessage _ m _ | .firmwareChunk _ m _ |
  .stewardMessage _ m _ => some m
  | .configRequest .. | .hostWindowAccess .. | .bar0RegisterWrite .. | .semAcquire .. | .semRelease .. |
  .portReset .. | .portLinkDownTimeout .. | .nop .. | .telemSnap .. | .eventRead .. | .pressRead .. | .caveRead .. |
  .caveWrite .. | .backupWrite .. | .harvestCfg .. | .hostCopy .. | .hostCopyComplete .. | .almLoad .. |
  .almLoadComplete .. | .almUnload .. | .almUnloadComplete .. | .invoke .. | .invocationComplete .. | .preempt .. |
  .contextSaveComplete .. | .resume .. | .contextRestoreComplete .. | .btCommit .. | .updParams .. | .updRecover .. |
  .replCfg .. | .replRepair .. | .fabCfg .. | .linkEnable .. | .linkDisable .. | .fabAdmit .. | .fabTime .. |
  .collCfg .. | .mediaCfg .. | .mediaStream .. | .mediaVocab .. | .mediaVocabComplete .. | .mediaAlign .. |
  .mediaEncode .. | .stkTest .. | .stkTestComplete .. | .pprQuery .. | .pprCand .. | .pprSoft .. | .pprHard .. |
  .partCreate .. | .partCreateComplete .. | .partModify .. | .partModifyComplete .. | .partReset .. |
  .partitionResetComplete .. | .partDelete .. | .partDeleteComplete .. | .fwStage .. | .fwStatus .. | .fwCommit .. |
  .fwCommitActivate | .getVersion .. | .getCapabilities .. | .negotiateAlgorithms .. | .getDigests .. |
  .getCertificate .. | .challenge .. | .getMeasurements .. | .respondIfReady .. | .spdmUnsupportedRequest .. |
  .smbStatusRead | .smbPwrInRead | .smbPwrSagRead | .smbStackTempRead | .smbIdentityRead | .smbFwVerRead |
  .smbXnxCommandWrite .. | .smbXnxResponseRead | .tapReset | .bypass | .idcode | .samplePreload .. | .extest |
  .clamp | .highz | .extestPulse | .extestTrain | .tapLeaveExtest | .railSequenceStart | .railStartTimeout .. |
  .shutdownRetry | .moduleShutdown .. | .powerOnReset | .resetNLow .. | .warmReset | .watchdogExpiry | .heartbeat |
  .sagWarning .. | .sagWarningRelease .. | .supplySagReset .. | .sagResetRelease | .referenceClockLoss .. |
  .referenceClockReturn .. | .firmwareStart | .dramTrainingComplete .. | .knownAnswerRuns .. | .moduleReady .. |
  .powerSample .. | .powerCapStepDown | .powerCapStepUp | .powerFloorFault | .stackTempSample .. |
  .thermalCapLower .. | .trafficLimitHalve .. | .refreshRateRelease .. | .thermalCapRise .. |
  .trafficLimitRelease .. | .stackSensorFault .. | .stackSensorTimeout .. | .junctionTrip .. | .dramRead .. |
  .dramWrite .. | .writeBatch .. | .bulkRequestAged .. | .perBankRefresh .. | .patrolScrub .. | .odeccRead .. |
  .networkRead .. | .networkWrite .. | .eccWriteBack .. | .sramScrub .. | .memoryZeroingComplete .. | .tile .. |
  .listTilePiece .. | .tileComplete .. | .writeOutComplete .. | .vec .. | .vecComplete .. | .harvestFlush .. |
  .xform .. | .xdStart .. | .xdComplete .. | .xdPreemptStop .. | .rindJobStart .. | .rindJobComplete .. | .coll .. |
  .collStart .. | .collStartNotice .. | .permuteReadoutNotice .. | .collComplete .. | .media .. | .mjStart .. |
  .sampleDecodeComplete .. | .decodeBudgetExhausted .. | .videoBandProgress .. | .encodePicture .. |
  .encodeSliceComplete .. | .mjComplete .. | .writeIndexSample | .alignTickEmit .. | .alignLateLimit .. | .upd .. |
  .norm .. | .check .. | .apply .. | .compare .. | .commit .. | .udComplete .. | .udPreemptStop .. | .wait .. |
  .waitRelease .. | .signal .. | .btCommitEntry .. | .slot .. | .end_ .. | .endComplete .. | .boundOverrun .. |
  .preemptionPoint .. | .coreClockChange .. | .pllRelockDone .. | .katTile .. | .blockReceive .. |
  .trainingBlockReceive .. | .laneLockLoss .. | .ackTimeout .. | .linkTrainingComplete .. | .partnerReady .. |
  .ptpSync | .fwRepairTimeout | .fwVerifyComplete .. | .fwDeadline | .blockTransmit .. | .unknownXnxCode .. |
  .cxlCacheSnoop .. | .doeDiscovery .. | .portLinkDown .. | .portLinkTrained .. | .refreshManagementRequest .. |
  .caParityError .. => none

/-- A well-formed command's mailbox words fit the command area (R398, R400), and its message is whole granules of at most 4,096 bytes
(R283). -/
def Statement (i : Instr) : Prop :=
  i.wf = true →
    (∀ x, xnxOf i = some x → x.args.length ≤ 8176 ∧ x.arg0 < 2 ^ 32 ∧ x.len < 2 ^ 32) ∧
    ∀ m, msgOf i = some m → m.data.length % 8 = 0 ∧ m.data.length ≤ 4096

/-- A command that carries neither. -/
theorem plain (i : Instr) (hx : xnxOf i = none) (hm : msgOf i = none) : Statement i := by
  intro _
  rw [hx, hm]
  exact ⟨fun _ h => (nomatch h), fun _ h => (nomatch h)⟩

/-- A command that carries a mailbox command. -/
theorem mailbox (i : Instr) (x : Xnx) (hx : xnxOf i = some x) (hm : msgOf i = none) (hw : i.wf = x.wf) : Statement i := by
  intro h
  rw [hx, hm]
  refine ⟨fun y hy => ?_, fun _ h => (nomatch h)⟩
  cases hy
  rw [hw] at h
  simp only [Xnx.wf, Bool.and_eq_true, decide_eq_true_eq] at h
  exact ⟨h.1.1, h.1.2, h.2⟩

/-- A command that carries a fabric message. -/
theorem message (i : Instr) (m : Msg) (hx : xnxOf i = none) (hm : msgOf i = some m) (hw : i.wf = m.wf) : Statement i := by
  intro h
  rw [hx, hm]
  refine ⟨fun _ h => (nomatch h), fun y hy => ?_⟩
  cases hy
  rw [hw] at h
  simpa only [Msg.wf, Bool.and_eq_true, decide_eq_true_eq] using h

theorem configRequest (v0 : Port) (v1 : Nat) (v2 : Option W32) : Statement (Instr.configRequest v0 v1 v2) := plain _ rfl rfl
theorem hostWindowAccess (v0 : Port) (v1 : Bool) (v2 : Nat) (v3 : WindowAccess) (v4 : Found) : Statement (Instr.hostWindowAccess v0 v1 v2 v3 v4) := plain _ rfl rfl
theorem bar0RegisterWrite (v0 : Port) (v1 : Nat) (v2 : BarAccess) : Statement (Instr.bar0RegisterWrite v0 v1 v2) := plain _ rfl rfl
theorem semAcquire (v0 : Port) (v1 : Fin 32) (v2 : W16) (v3 : Option W16) : Statement (Instr.semAcquire v0 v1 v2 v3) := plain _ rfl rfl
theorem semRelease (v0 : Port) (v1 : Fin 32) (v2 : W16) : Statement (Instr.semRelease v0 v1 v2) := plain _ rfl rfl
theorem portReset (v0 : Port) (v1 : PortResetKind) : Statement (Instr.portReset v0 v1) := plain _ rfl rfl
theorem portLinkDownTimeout (v0 : Port) : Statement (Instr.portLinkDownTimeout v0) := plain _ rfl rfl
theorem nop (v0 : Xnx) : Statement (Instr.nop v0) := mailbox _ v0 rfl rfl rfl
theorem telemSnap (v0 : Xnx) : Statement (Instr.telemSnap v0) := mailbox _ v0 rfl rfl rfl
theorem eventRead (v0 : Xnx) : Statement (Instr.eventRead v0) := mailbox _ v0 rfl rfl rfl
theorem pressRead (v0 : Xnx) : Statement (Instr.pressRead v0) := mailbox _ v0 rfl rfl rfl
theorem caveRead (v0 : Xnx) : Statement (Instr.caveRead v0) := mailbox _ v0 rfl rfl rfl
theorem caveWrite (v0 : Xnx) : Statement (Instr.caveWrite v0) := mailbox _ v0 rfl rfl rfl
theorem backupWrite (v0 : Xnx) : Statement (Instr.backupWrite v0) := mailbox _ v0 rfl rfl rfl
theorem harvestCfg (v0 : Xnx) : Statement (Instr.harvestCfg v0) := mailbox _ v0 rfl rfl rfl
theorem hostCopy (v0 : Xnx) : Statement (Instr.hostCopy v0) := mailbox _ v0 rfl rfl rfl
theorem hostCopyComplete (v0 : Fin 8) (v1 : Fin 4) (v2 : List Byte) : Statement (Instr.hostCopyComplete v0 v1 v2) := plain _ rfl rfl
theorem almLoad (v0 : Xnx) : Statement (Instr.almLoad v0) := mailbox _ v0 rfl rfl rfl
theorem almLoadComplete (v0 : Fin 8) (v1 : SlotReads) : Statement (Instr.almLoadComplete v0 v1) := plain _ rfl rfl
theorem almUnload (v0 : Xnx) : Statement (Instr.almUnload v0) := mailbox _ v0 rfl rfl rfl
theorem almUnloadComplete (v0 : Fin 8) (v1 : Fin 4) : Statement (Instr.almUnloadComplete v0 v1) := plain _ rfl rfl
theorem invoke (v0 : Xnx) : Statement (Instr.invoke v0) := mailbox _ v0 rfl rfl rfl
theorem invocationComplete (v0 : Fin 8) (v1 : Fin 4) : Statement (Instr.invocationComplete v0 v1) := plain _ rfl rfl
theorem preempt (v0 : Xnx) : Statement (Instr.preempt v0) := mailbox _ v0 rfl rfl rfl
theorem contextSaveComplete (v0 : Fin 8) (v1 : SlotReads) : Statement (Instr.contextSaveComplete v0 v1) := plain _ rfl rfl
theorem resume (v0 : Xnx) : Statement (Instr.resume v0) := mailbox _ v0 rfl rfl rfl
theorem contextRestoreComplete (v0 : Fin 8) (v1 : SlotReads) : Statement (Instr.contextRestoreComplete v0 v1) := plain _ rfl rfl
theorem btCommit (v0 : Xnx) : Statement (Instr.btCommit v0) := mailbox _ v0 rfl rfl rfl
theorem updParams (v0 : Xnx) : Statement (Instr.updParams v0) := mailbox _ v0 rfl rfl rfl
theorem updRecover (v0 : Xnx) : Statement (Instr.updRecover v0) := mailbox _ v0 rfl rfl rfl
theorem replCfg (v0 : Xnx) : Statement (Instr.replCfg v0) := mailbox _ v0 rfl rfl rfl
theorem replRepair (v0 : Xnx) (v1 : RepairData) : Statement (Instr.replRepair v0 v1) := mailbox _ v0 rfl rfl rfl
theorem fabCfg (v0 : Xnx) : Statement (Instr.fabCfg v0) := mailbox _ v0 rfl rfl rfl
theorem linkEnable (v0 : Xnx) : Statement (Instr.linkEnable v0) := mailbox _ v0 rfl rfl rfl
theorem linkDisable (v0 : Xnx) : Statement (Instr.linkDisable v0) := mailbox _ v0 rfl rfl rfl
theorem fabAdmit (v0 : Xnx) : Statement (Instr.fabAdmit v0) := mailbox _ v0 rfl rfl rfl
theorem fabTime (v0 : Xnx) : Statement (Instr.fabTime v0) := mailbox _ v0 rfl rfl rfl
theorem collCfg (v0 : Xnx) : Statement (Instr.collCfg v0) := mailbox _ v0 rfl rfl rfl
theorem mediaCfg (v0 : Xnx) : Statement (Instr.mediaCfg v0) := mailbox _ v0 rfl rfl rfl
theorem mediaStream (v0 : Xnx) : Statement (Instr.mediaStream v0) := mailbox _ v0 rfl rfl rfl
theorem mediaVocab (v0 : Xnx) : Statement (Instr.mediaVocab v0) := mailbox _ v0 rfl rfl rfl
theorem mediaVocabComplete (v0 : Fin 8) : Statement (Instr.mediaVocabComplete v0) := plain _ rfl rfl
theorem mediaAlign (v0 : Xnx) : Statement (Instr.mediaAlign v0) := mailbox _ v0 rfl rfl rfl
theorem mediaEncode (v0 : Xnx) : Statement (Instr.mediaEncode v0) := mailbox _ v0 rfl rfl rfl
theorem stkTest (v0 : Xnx) : Statement (Instr.stkTest v0) := mailbox _ v0 rfl rfl rfl
theorem stkTestComplete (v0 : Fin 24) (v1 : Bool) (v2 : W32) (v3 : W32) : Statement (Instr.stkTestComplete v0 v1 v2 v3) := plain _ rfl rfl
theorem pprQuery (v0 : Xnx) : Statement (Instr.pprQuery v0) := mailbox _ v0 rfl rfl rfl
theorem pprCand (v0 : Xnx) : Statement (Instr.pprCand v0) := mailbox _ v0 rfl rfl rfl
theorem pprSoft (v0 : Xnx) : Statement (Instr.pprSoft v0) := mailbox _ v0 rfl rfl rfl
theorem pprHard (v0 : Xnx) : Statement (Instr.pprHard v0) := mailbox _ v0 rfl rfl rfl
theorem partCreate (v0 : Xnx) : Statement (Instr.partCreate v0) := mailbox _ v0 rfl rfl rfl
theorem partCreateComplete (v0 : Fin 8) : Statement (Instr.partCreateComplete v0) := plain _ rfl rfl
theorem partModify (v0 : Xnx) : Statement (Instr.partModify v0) := mailbox _ v0 rfl rfl rfl
theorem partModifyComplete (v0 : Fin 8) : Statement (Instr.partModifyComplete v0) := plain _ rfl rfl
theorem partReset (v0 : Xnx) : Statement (Instr.partReset v0) := mailbox _ v0 rfl rfl rfl
theorem partitionResetComplete (v0 : Fin 8) : Statement (Instr.partitionResetComplete v0) := plain _ rfl rfl
theorem partDelete (v0 : Xnx) : Statement (Instr.partDelete v0) := mailbox _ v0 rfl rfl rfl
theorem partDeleteComplete (v0 : Fin 8) : Statement (Instr.partDeleteComplete v0) := plain _ rfl rfl
theorem fwStage (v0 : Xnx) (v1 : List (BitVec 12)) (v2 : List Byte) : Statement (Instr.fwStage v0 v1 v2) := mailbox _ v0 rfl rfl rfl
theorem fwStatus (v0 : Xnx) : Statement (Instr.fwStatus v0) := mailbox _ v0 rfl rfl rfl
theorem fwCommit (v0 : Xnx) : Statement (Instr.fwCommit v0) := mailbox _ v0 rfl rfl rfl
theorem fwCommitActivate : Statement Instr.fwCommitActivate := plain _ rfl rfl
theorem getVersion (v0 : Port) : Statement (Instr.getVersion v0) := plain _ rfl rfl
theorem getCapabilities (v0 : Port) : Statement (Instr.getCapabilities v0) := plain _ rfl rfl
theorem negotiateAlgorithms (v0 : Port) : Statement (Instr.negotiateAlgorithms v0) := plain _ rfl rfl
theorem getDigests (v0 : Port) : Statement (Instr.getDigests v0) := plain _ rfl rfl
theorem getCertificate (v0 : Port) (v1 : Nat) (v2 : Nat) (v3 : Nat) : Statement (Instr.getCertificate v0 v1 v2 v3) := plain _ rfl rfl
theorem challenge (v0 : Port) (v1 : Nat) (v2 : List Byte) : Statement (Instr.challenge v0 v1 v2) := plain _ rfl rfl
theorem getMeasurements (v0 : Port) (v1 : Nat) (v2 : Bool) (v3 : List Byte) : Statement (Instr.getMeasurements v0 v1 v2 v3) := plain _ rfl rfl
theorem respondIfReady (v0 : Port) : Statement (Instr.respondIfReady v0) := plain _ rfl rfl
theorem spdmUnsupportedRequest (v0 : Port) (v1 : Byte) : Statement (Instr.spdmUnsupportedRequest v0 v1) := plain _ rfl rfl
theorem smbStatusRead : Statement Instr.smbStatusRead := plain _ rfl rfl
theorem smbPwrInRead : Statement Instr.smbPwrInRead := plain _ rfl rfl
theorem smbPwrSagRead : Statement Instr.smbPwrSagRead := plain _ rfl rfl
theorem smbStackTempRead : Statement Instr.smbStackTempRead := plain _ rfl rfl
theorem smbIdentityRead : Statement Instr.smbIdentityRead := plain _ rfl rfl
theorem smbFwVerRead : Statement Instr.smbFwVerRead := plain _ rfl rfl
theorem smbXnxCommandWrite (v0 : List Byte) (v1 : Option Bool) : Statement (Instr.smbXnxCommandWrite v0 v1) := plain _ rfl rfl
theorem smbXnxResponseRead : Statement Instr.smbXnxResponseRead := plain _ rfl rfl
theorem tapReset : Statement Instr.tapReset := plain _ rfl rfl
theorem bypass : Statement Instr.bypass := plain _ rfl rfl
theorem idcode : Statement Instr.idcode := plain _ rfl rfl
theorem samplePreload (v0 : List Bool) : Statement (Instr.samplePreload v0) := plain _ rfl rfl
theorem extest : Statement Instr.extest := plain _ rfl rfl
theorem clamp : Statement Instr.clamp := plain _ rfl rfl
theorem highz : Statement Instr.highz := plain _ rfl rfl
theorem extestPulse : Statement Instr.extestPulse := plain _ rfl rfl
theorem extestTrain : Statement Instr.extestTrain := plain _ rfl rfl
theorem tapLeaveExtest : Statement Instr.tapLeaveExtest := plain _ rfl rfl
theorem railSequenceStart : Statement Instr.railSequenceStart := plain _ rfl rfl
theorem railStartTimeout (v0 : AnyRail) : Statement (Instr.railStartTimeout v0) := plain _ rfl rfl
theorem shutdownRetry : Statement Instr.shutdownRetry := plain _ rfl rfl
theorem moduleShutdown (v0 : ShutdownCause) : Statement (Instr.moduleShutdown v0) := plain _ rfl rfl
theorem powerOnReset : Statement Instr.powerOnReset := plain _ rfl rfl
theorem resetNLow (v0 : Bool) : Statement (Instr.resetNLow v0) := plain _ rfl rfl
theorem warmReset : Statement Instr.warmReset := plain _ rfl rfl
theorem watchdogExpiry : Statement Instr.watchdogExpiry := plain _ rfl rfl
theorem heartbeat : Statement Instr.heartbeat := plain _ rfl rfl
theorem sagWarning (v0 : Rail) : Statement (Instr.sagWarning v0) := plain _ rfl rfl
theorem sagWarningRelease (v0 : Rail) : Statement (Instr.sagWarningRelease v0) := plain _ rfl rfl
theorem supplySagReset (v0 : BitVec 4) : Statement (Instr.supplySagReset v0) := plain _ rfl rfl
theorem sagResetRelease : Statement Instr.sagResetRelease := plain _ rfl rfl
theorem referenceClockLoss (v0 : RefClock) : Statement (Instr.referenceClockLoss v0) := plain _ rfl rfl
theorem referenceClockReturn (v0 : RefClock) : Statement (Instr.referenceClockReturn v0) := plain _ rfl rfl
theorem firmwareStart : Statement Instr.firmwareStart := plain _ rfl rfl
theorem dramTrainingComplete (v0 : TrainTry) (v1 : TrainTry) : Statement (Instr.dramTrainingComplete v0 v1) := plain _ rfl rfl
theorem knownAnswerRuns (v0 : W32) (v1 : BitVec 45) (v2 : BitVec 4) : Statement (Instr.knownAnswerRuns v0 v1 v2) := plain _ rfl rfl
theorem moduleReady (v0 : BitVec 4) : Statement (Instr.moduleReady v0) := plain _ rfl rfl
theorem powerSample (v0 : W16) (v1 : W16) (v2 : W16) : Statement (Instr.powerSample v0 v1 v2) := plain _ rfl rfl
theorem powerCapStepDown : Statement Instr.powerCapStepDown := plain _ rfl rfl
theorem powerCapStepUp : Statement Instr.powerCapStepUp := plain _ rfl rfl
theorem powerFloorFault : Statement Instr.powerFloorFault := plain _ rfl rfl
theorem stackTempSample (v0 : Fin 24) (v1 : Nat) : Statement (Instr.stackTempSample v0 v1) := plain _ rfl rfl
theorem thermalCapLower (v0 : Fin 24) : Statement (Instr.thermalCapLower v0) := plain _ rfl rfl
theorem trafficLimitHalve (v0 : Fin 24) : Statement (Instr.trafficLimitHalve v0) := plain _ rfl rfl
theorem refreshRateRelease (v0 : Fin 24) : Statement (Instr.refreshRateRelease v0) := plain _ rfl rfl
theorem thermalCapRise (v0 : Fin 24) : Statement (Instr.thermalCapRise v0) := plain _ rfl rfl
theorem trafficLimitRelease (v0 : Fin 24) : Statement (Instr.trafficLimitRelease v0) := plain _ rfl rfl
theorem stackSensorFault (v0 : Fin 24) : Statement (Instr.stackSensorFault v0) := plain _ rfl rfl
theorem stackSensorTimeout (v0 : Fin 24) : Statement (Instr.stackSensorTimeout v0) := plain _ rfl rfl
theorem junctionTrip (v0 : Junction) (v1 : Nat) : Statement (Instr.junctionTrip v0 v1) := plain _ rfl rfl
theorem dramRead (v0 : Requester) (v1 : ReadAt) (v2 : Bool) (v3 : Nat) (v4 : Found) : Statement (Instr.dramRead v0 v1 v2 v3 v4) := plain _ rfl rfl
theorem dramWrite (v0 : Requester) (v1 : Addr) (v2 : UnitWrite) : Statement (Instr.dramWrite v0 v1 v2) := plain _ rfl rfl
theorem writeBatch (v0 : Fin 24) (v1 : Fin 64) : Statement (Instr.writeBatch v0 v1) := plain _ rfl rfl
theorem bulkRequestAged (v0 : Fin 24) (v1 : Fin 64) : Statement (Instr.bulkRequestAged v0 v1) := plain _ rfl rfl
theorem perBankRefresh (v0 : Fin 24) (v1 : Fin 64) (v2 : Fin 48) : Statement (Instr.perBankRefresh v0 v1 v2) := plain _ rfl rfl
theorem patrolScrub (v0 : StackUnit) (v1 : Ecc) (v2 : Bool) : Statement (Instr.patrolScrub v0 v1 v2) := plain _ rfl rfl
theorem odeccRead (v0 : Fin 24) (v1 : Nat) : Statement (Instr.odeccRead v0 v1) := plain _ rfl rfl
theorem networkRead (v0 : Requester) (v1 : Addr) (v2 : Nat) (v3 : Found) : Statement (Instr.networkRead v0 v1 v2 v3) := plain _ rfl rfl
theorem networkWrite (v0 : Requester) (v1 : Addr) (v2 : UnitWrite) : Statement (Instr.networkWrite v0 v1 v2) := plain _ rfl rfl
theorem eccWriteBack (v0 : Addr) : Statement (Instr.eccWriteBack v0) := plain _ rfl rfl
theorem sramScrub (v0 : ScrubWord) (v1 : Ecc) : Statement (Instr.sramScrub v0 v1) := plain _ rfl rfl
theorem memoryZeroingComplete (v0 : ZeroTarget) : Statement (Instr.memoryZeroingComplete v0) := plain _ rfl rfl
theorem tile (v0 : Fin 32) (v1 : Found) : Statement (Instr.tile v0 v1) := plain _ rfl rfl
theorem listTilePiece (v0 : Fin 32) : Statement (Instr.listTilePiece v0) := plain _ rfl rfl
theorem tileComplete (v0 : Fin 32) : Statement (Instr.tileComplete v0) := plain _ rfl rfl
theorem writeOutComplete (v0 : Fin 32) : Statement (Instr.writeOutComplete v0) := plain _ rfl rfl
theorem vec (v0 : Fin 32) (v1 : Found) : Statement (Instr.vec v0 v1) := plain _ rfl rfl
theorem vecComplete (v0 : Fin 32) : Statement (Instr.vecComplete v0) := plain _ rfl rfl
theorem harvestFlush (v0 : Fin 32) : Statement (Instr.harvestFlush v0) := plain _ rfl rfl
theorem xform (v0 : Fin 32) : Statement (Instr.xform v0) := plain _ rfl rfl
theorem xdStart (v0 : Fin 4) : Statement (Instr.xdStart v0) := plain _ rfl rfl
theorem xdComplete (v0 : Fin 4) (v1 : Fin 32) (v2 : Nat) : Statement (Instr.xdComplete v0 v1 v2) := plain _ rfl rfl
theorem xdPreemptStop (v0 : Fin 4) (v1 : Fin 32) (v2 : Nat) (v3 : Nat) : Statement (Instr.xdPreemptStop v0 v1 v2 v3) := plain _ rfl rfl
theorem rindJobStart (v0 : Fin 4) : Statement (Instr.rindJobStart v0) := plain _ rfl rfl
theorem rindJobComplete (v0 : Fin 4) : Statement (Instr.rindJobComplete v0) := plain _ rfl rfl
theorem coll (v0 : Fin 32) : Statement (Instr.coll v0) := plain _ rfl rfl
theorem collStart (v0 : Fin 8) (v1 : Fin 16) : Statement (Instr.collStart v0 v1) := plain _ rfl rfl
theorem collStartNotice (v0 : CollPeer) : Statement (Instr.collStartNotice v0) := plain _ rfl rfl
theorem permuteReadoutNotice (v0 : CollPeer) (v1 : Nat) : Statement (Instr.permuteReadoutNotice v0 v1) := plain _ rfl rfl
theorem collComplete (v0 : Fin 8) (v1 : Fin 16) (v2 : List (List Byte)) : Statement (Instr.collComplete v0 v1 v2) := plain _ rfl rfl
theorem media (v0 : Fin 32) : Statement (Instr.media v0) := plain _ rfl rfl
theorem mjStart (v0 : Fin 8) (v1 : Fin 32) (v2 : Nat) : Statement (Instr.mjStart v0 v1 v2) := plain _ rfl rfl
theorem sampleDecodeComplete (v0 : Fin 8) (v1 : Fin 32) (v2 : Nat) (v3 : Nat) : Statement (Instr.sampleDecodeComplete v0 v1 v2 v3) := plain _ rfl rfl
theorem decodeBudgetExhausted (v0 : Fin 8) (v1 : Fin 32) (v2 : Nat) (v3 : Nat) : Statement (Instr.decodeBudgetExhausted v0 v1 v2 v3) := plain _ rfl rfl
theorem videoBandProgress (v0 : Fin 8) (v1 : Fin 32) (v2 : Nat) (v3 : Nat) (v4 : Nat) : Statement (Instr.videoBandProgress v0 v1 v2 v3 v4) := plain _ rfl rfl
theorem encodePicture (v0 : Fin 8) (v1 : Fin 32) (v2 : Nat) : Statement (Instr.encodePicture v0 v1 v2) := plain _ rfl rfl
theorem encodeSliceComplete (v0 : Fin 8) (v1 : Fin 32) (v2 : Nat) : Statement (Instr.encodeSliceComplete v0 v1 v2) := plain _ rfl rfl
theorem mjComplete (v0 : Fin 8) (v1 : Fin 32) (v2 : Nat) : Statement (Instr.mjComplete v0 v1 v2) := plain _ rfl rfl
theorem writeIndexSample : Statement Instr.writeIndexSample := plain _ rfl rfl
theorem alignTickEmit (v0 : Fin 8) (v1 : Fin 4) : Statement (Instr.alignTickEmit v0 v1) := plain _ rfl rfl
theorem alignLateLimit (v0 : Fin 8) (v1 : Fin 4) : Statement (Instr.alignLateLimit v0 v1) := plain _ rfl rfl
theorem upd (v0 : Fin 32) : Statement (Instr.upd v0) := plain _ rfl rfl
theorem norm (v0 : Fin 4) (v1 : Nat) : Statement (Instr.norm v0 v1) := plain _ rfl rfl
theorem check (v0 : Fin 4) : Statement (Instr.check v0) := plain _ rfl rfl
theorem apply (v0 : Fin 4) (v1 : Nat) : Statement (Instr.apply v0 v1) := plain _ rfl rfl
theorem compare (v0 : Fin 4) (v1 : List (List W64)) (v2 : RepairData) : Statement (Instr.compare v0 v1 v2) := plain _ rfl rfl
theorem commit (v0 : Fin 4) : Statement (Instr.commit v0) := plain _ rfl rfl
theorem udComplete (v0 : Fin 4) (v1 : Fin 32) (v2 : Nat) : Statement (Instr.udComplete v0 v1 v2) := plain _ rfl rfl
theorem udPreemptStop (v0 : Fin 4) (v1 : Fin 32) (v2 : Nat) : Statement (Instr.udPreemptStop v0 v1 v2) := plain _ rfl rfl
theorem wait (v0 : Fin 32) : Statement (Instr.wait v0) := plain _ rfl rfl
theorem waitRelease (v0 : Fin 32) : Statement (Instr.waitRelease v0) := plain _ rfl rfl
theorem signal (v0 : Fin 32) : Statement (Instr.signal v0) := plain _ rfl rfl
theorem btCommitEntry (v0 : Fin 32) : Statement (Instr.btCommitEntry v0) := plain _ rfl rfl
theorem slot (v0 : Fin 32) : Statement (Instr.slot v0) := plain _ rfl rfl
theorem end_ (v0 : Fin 32) : Statement (Instr.end_ v0) := plain _ rfl rfl
theorem endComplete (v0 : Fin 32) : Statement (Instr.endComplete v0) := plain _ rfl rfl
theorem boundOverrun (v0 : Fin 32) (v1 : Nat) : Statement (Instr.boundOverrun v0 v1) := plain _ rfl rfl
theorem preemptionPoint (v0 : Fin 32) (v1 : Nat) : Statement (Instr.preemptionPoint v0 v1) := plain _ rfl rfl
theorem coreClockChange (v0 : Fin 32) : Statement (Instr.coreClockChange v0) := plain _ rfl rfl
theorem pllRelockDone (v0 : Fin 32) : Statement (Instr.pllRelockDone v0) := plain _ rfl rfl
theorem katTile (v0 : Fin 32) (v1 : Bool) : Statement (Instr.katTile v0 v1) := plain _ rfl rfl
theorem blockReceive (v0 : Fin 24) (v1 : List (List Byte)) : Statement (Instr.blockReceive v0 v1) := plain _ rfl rfl
theorem trainingBlockReceive (v0 : Fin 24) (v1 : BitVec 56) (v2 : Fin 24) (v3 : Bool) : Statement (Instr.trainingBlockReceive v0 v1 v2 v3) := plain _ rfl rfl
theorem laneLockLoss (v0 : Fin 24) : Statement (Instr.laneLockLoss v0) := plain _ rfl rfl
theorem ackTimeout (v0 : Fin 24) : Statement (Instr.ackTimeout v0) := plain _ rfl rfl
theorem linkTrainingComplete (v0 : Fin 24) (v1 : BitVec 56) (v2 : Fin 24) (v3 : LaneSetup) : Statement (Instr.linkTrainingComplete v0 v1 v2 v3) := plain _ rfl rfl
theorem partnerReady (v0 : Fin 24) : Statement (Instr.partnerReady v0) := plain _ rfl rfl
theorem fabricWrite (v0 : Fin 24) (v1 : Msg) : Statement (Instr.fabricWrite v0 v1) := message _ v1 rfl rfl rfl
theorem fabricColl (v0 : Fin 24) (v1 : Msg) : Statement (Instr.fabricColl v0 v1) := message _ v1 rfl rfl rfl
theorem fabricResp (v0 : Fin 24) (v1 : Msg) : Statement (Instr.fabricResp v0 v1) := message _ v1 rfl rfl rfl
theorem ptpMessage (v0 : Fin 24) (v1 : Msg) (v2 : Nat) : Statement (Instr.ptpMessage v0 v1 v2) := message _ v1 rfl rfl rfl
theorem ptpSync : Statement Instr.ptpSync := plain _ rfl rfl
theorem firmwareChunk (v0 : Fin 24) (v1 : Msg) (v2 : Bool) : Statement (Instr.firmwareChunk v0 v1 v2) := message _ v1 rfl rfl rfl
theorem stewardMessage (v0 : Fin 24) (v1 : Msg) (v2 : StewardMsg) : Statement (Instr.stewardMessage v0 v1 v2) := message _ v1 rfl rfl rfl
theorem fwRepairTimeout : Statement Instr.fwRepairTimeout := plain _ rfl rfl
theorem fwVerifyComplete (v0 : W32) (v1 : Bool) : Statement (Instr.fwVerifyComplete v0 v1) := plain _ rfl rfl
theorem fwDeadline : Statement Instr.fwDeadline := plain _ rfl rfl
theorem blockTransmit (v0 : Fin 24) : Statement (Instr.blockTransmit v0) := plain _ rfl rfl
theorem unknownXnxCode (v0 : Xnx) (v1 : W16) : Statement (Instr.unknownXnxCode v0 v1) := mailbox _ v0 rfl rfl rfl
theorem cxlCacheSnoop (v0 : Port) : Statement (Instr.cxlCacheSnoop v0) := plain _ rfl rfl
theorem doeDiscovery (v0 : Port) (v1 : Nat) : Statement (Instr.doeDiscovery v0 v1) := plain _ rfl rfl
theorem portLinkDown (v0 : Port) : Statement (Instr.portLinkDown v0) := plain _ rfl rfl
theorem portLinkTrained (v0 : Port) (v1 : Nat) (v2 : Nat) : Statement (Instr.portLinkTrained v0 v1 v2) := plain _ rfl rfl
theorem refreshManagementRequest (v0 : Fin 24) : Statement (Instr.refreshManagementRequest v0) := plain _ rfl rfl
theorem caParityError (v0 : Fin 24) : Statement (Instr.caParityError v0) := plain _ rfl rfl

end Sys2Proof.Laws.WellFormed
end

