-- ==== Sys2Proof/Tests/Slice0.lean ====
section
/-! SUPPORT. Tests: ill-formed commands are refused by the well-formedness check, worked examples of the spec, and for each
statement's clauses a concrete state and operands that meet their hypotheses together. -/

set_option Elab.async false

namespace Sys2Proof.Tests

open Sys2Proof Sys2Proof.Machine

/-! ### Helpers -/

/-- A partition of cores 0 to 3 over one slice of all stacks, on both ports, with one granule of cellar and media units. -/
def block : PBlock := ⟨1, 3, false, 0, 0, 0, 1, 1, false, 0, 1, 1, 1, 1, 1, 1, 0⟩

/-- Ownership with partition 0 of that block, SEM01 held by port A, SEM00 held by port A. -/
def own1 : Own :=
  let o := Own.reset
  let o1 : Own := { o with
    sems := (o.sems.set 0 ⟨true, .a, 9⟩).set 1 ⟨true, .a, 7⟩
    recs := o.recs.set 0 ⟨.present, block⟩
    maps := o.withMaps 0 block }
  o1.remap

/-- The board of a READY module whose boot policy names port A secure. -/
def board1 : Board :=
  { Board.reset with phase := .ready, modRef := true, fabRef := true, portRef := [true, true], ceil := 30, tdp := 700, secure := 1, rate := 1 }

/-- A READY module with partition 0, both ports' links up, its cores clocked. -/
def ready : State :=
  ⟨[], own1, { Body.reset with
    board := board1
    ports := Body.reset.ports.map fun q => { q with linkUp := true, perst := false }
    cores := Body.reset.cores.map fun c => { c with clk := 30 } }⟩

/-- A module command from port A. -/
def onModule (len arg0 : Nat) (args : List Byte) : Xnx := ⟨.a, .module, 0, 5, len, 0, arg0, args, []⟩
/-- A command on partition 0's page from port A. -/
def onPart0 (len arg0 : Nat) (args : List Byte) : Xnx := ⟨.a, .part 0, 0, 5, len, 0, arg0, args, []⟩

/-- Bytes with little-endian numbers placed at offsets: offset, size, value. -/
def bytesOf (n : Nat) (ps : List (Nat × Nat × Nat)) : List Byte :=
  ps.foldl (fun l p => l.take p.1 ++ leBytes p.2.1 p.2.2 ++ l.drop (p.1 + p.2.1)) (List.replicate n 0)

/-- The board changed. -/
def withBoard (s : State) (f : Board → Board) : State := s.onBoard f
/-- Partition 0 changed. -/
def withPart (s : State) (f : Part → Part) : State := { s with body := s.body.updPart 0 f }
/-- Slot 0 of partition 0 changed. -/
def withSlot (s : State) (f : Slot → Slot) : State := { s with body := s.body.updSlot 0 0 f }
/-- Core 0's context changed. -/
def withCx (s : State) (f : CoreCtx → CoreCtx) : State := { s with body := s.body.updCx 0 f }
/-- Stack 0 changed. -/
def withStack (s : State) (f : Stack → Stack) : State := { s with body := s.body.updStack 0 f }
/-- Link 0 changed. -/
def withLink (s : State) (f : Link → Link) : State := { s with body := s.body.updLink 0 f }
/-- Quadrant 0 changed. -/
def withQuad (s : State) (f : Quad → Quad) : State := { s with body := s.body.updQuad 0 f }
/-- Memory changed. -/
def withMem (s : State) (f : Mem → Mem) : State := { s with body := s.body.updMem f }
/-- Bytes of memory set. -/
def storing (s : State) (a : Nat) (d : List Byte) : State := withMem s fun m => { m with cells := putCells m.cells a d }
/-- A ticket of partition 0's first mailbox. -/
def tick0 : Ticket := ⟨.part 0, 0, 5, false⟩
/-- A ticket of the module page. -/
def tickM : Ticket := ⟨.module, 0, 5, false⟩

/-! ### Well-formedness: one ill-formed command for each check -/

theorem test_wf_command : (Instr.nop (onPart0 0 0 [])).wf = true := by decide +kernel
theorem test_wf_args_too_long : (Instr.nop (onPart0 0 0 (List.replicate 8177 0))).wf = false := by decide +kernel
theorem test_wf_arg0_too_wide : (Instr.nop (onPart0 0 (2 ^ 32) [])).wf = false := by decide +kernel
theorem test_wf_len_too_wide : (Instr.nop (onPart0 (2 ^ 32) 0 [])).wf = false := by decide +kernel
theorem test_wf_bar0_outside : (Instr.bar0RegisterWrite .a (2 ^ 24 - 1) (.write [some 0, some 0])).wf = false := by decide +kernel
theorem test_wf_bar0_empty : (Instr.bar0RegisterWrite .a 0 (.write [])).wf = false := by decide +kernel
theorem test_wf_bar0_read_empty : (Instr.bar0RegisterWrite .a 0 (.read 0)).wf = false := by decide +kernel
theorem test_wf_window_outside : (Instr.hostWindowAccess .a false (2 ^ 43) (.read 1) []).wf = false := by decide +kernel
theorem test_wf_config_misaligned : (Instr.configRequest .a 2 none).wf = false := by decide +kernel
theorem test_wf_config_outside : (Instr.configRequest .a 4096 none).wf = false := by decide +kernel
theorem test_wf_three_lanes : (Instr.blockReceive 0 (List.replicate 3 (List.replicate 280 0))).wf = false := by decide +kernel
theorem test_wf_short_lane : (Instr.blockReceive 0 (List.replicate 4 (List.replicate 279 0))).wf = false := by decide +kernel
theorem test_wf_lanes : (Instr.blockReceive 0 (List.replicate 4 (List.replicate 280 0))).wf = true := by decide +kernel
theorem test_wf_three_seeds :
    (Instr.linkTrainingComplete 0 0 0 ⟨0, false, 0, List.replicate 3 1, List.replicate 4 1, List.replicate 4 []⟩).wf = false := by
  decide +kernel
theorem test_wf_message_granules : (Instr.fabricWrite 0 { (default : Msg) with data := List.replicate 65 0 }).wf = false := by decide +kernel
theorem test_wf_message_too_long : (Instr.fabricWrite 0 { (default : Msg) with data := List.replicate 4160 0 }).wf = false := by
  decide +kernel
theorem test_wf_write_misaligned : (Instr.networkWrite .steward 32 ⟨List.replicate 64 (some 0), []⟩).wf = false := by decide +kernel
theorem test_wf_write_short : (Instr.dramWrite .steward 64 ⟨List.replicate 63 (some 0), []⟩).wf = false := by decide +kernel
theorem test_wf_temperature : (Instr.stackTempSample 0 256).wf = false := by decide +kernel
theorem test_wf_junction : (Instr.junctionTrip (.core 0) 256).wf = false := by decide +kernel
theorem test_wf_nonce : (Instr.challenge .a 0 (List.replicate 31 0)).wf = false := by decide +kernel

/-- A mailbox command of every family carries words that fit the command area. -/
theorem test_wf_law (x : Xnx) (h : (Instr.fwStage x [] []).wf = true) : x.args.length ≤ 8176 :=
  (Laws.WellFormed.fwStage x [] [] h).1 x rfl |>.1

/-! ### Witnesses: the step, ownership, host ports -/

theorem witness_idle : State.reset.pending = [] ∧ State.reset.body.dramIdle = true := by decide +kernel
theorem witness_ownership_kept : changesOwnership .heartbeat = false ∧ exec .heartbeat ready =
    .next (ready.onBoard fun b => { b with heartbeat := b.heartbeat + 1 }) := by
  constructor <;> with_unfolding_all rfl
theorem witness_legal : ready.legal = true ∧ step ready = .next { ready with body := tick ready.own ready.body } := ⟨by decide +kernel, rfl⟩
theorem witness_ready_port : (ready.body.port .b).linkUp = true ∧ ready.body.clocked = true ∧ ready.body.board.phase = .ready ∧
    ready.body.board.modRef = true ∧ ready.body.ports.length = 2 := by decide +kernel
/-- A module whose firmware has not made it READY: its ports have a clock, and BAR0 is not served. -/
def booting : State := withBoard ready fun b => { b with phase := .firmware }
theorem witness_not_ready_port : (booting.body.port .a).linkUp = true ∧ booting.body.clocked = true ∧
    booting.body.board.phase ≠ .ready ∧ booting.body.hostServed = false ∧
    (withBoard ready fun b => { b with modRef := false }).body.clocked = false := by decide +kernel
theorem witness_acquire_free : ready.body.hostServed = true ∧ (ready.body.port (otherPort .a)).linkUp = true ∧
    mayAcquire ready.own .a 31 = true ∧ mayAcquire ready.own .b 31 = true ∧ (ready.own.sem 31).held = false := by decide +kernel
theorem witness_acquire_held : mayAcquire ready.own .b 1 = true ∧ (ready.own.sem 1).held = true := by decide +kernel
theorem witness_acquire_barred : mayAcquire ready.own .a 8 = false := by decide +kernel
theorem witness_release_plain : ready.own.sem 0 = ⟨true, .a, 9⟩ := by decide +kernel
theorem witness_release_partition : (1 : Fin 32).val = (0 : Fin 8).val + 1 ∧ ready.own.sem 1 = ⟨true, .a, 7⟩ ∧
    ready.body.mail.length = 9 ∧ ready.body.parts.length = 8 ∧ ∀ k ∈ ready.body.quads, ∀ j ∈ k.xfRun, j.ctx.part ≠ 0 := by decide +kernel
theorem witness_release_other : ready.own.sem 1 ≠ ⟨true, .a, 8⟩ := by decide +kernel
theorem witness_link_down : (State.reset.body.port .a).linkUp = false ∧ State.reset.body.clocked = true ∧
    State.reset.body.board.padsSet = false ∧ (ready.body.port .a).linkUp = true := by decide +kernel
theorem witness_link_trains : ready.body.board.padsSet = true ∧ ready.body.board.portRef.getD (portIx .b) false = true ∧
    (withBoard ready fun b => { b with portRef := [true, false] }).body.board.portRef.getD (portIx .b) false = false := by decide +kernel

/-- The last bytes of the data region, and the first byte behind it. -/
theorem witness_window : windowAddr ready.own .a (24 * 2 ^ 30 - 8) 8 = some (0, 24 * 2 ^ 30 - 8) ∧
    netCheck ready.own ready.body (.host 0 .a) (24 * 2 ^ 30 - 8) 8 = none ∧
    (∃ l, locate ready.own.maps (24 * 2 ^ 30 - 8) = some l ∧ ready.body.servesAt l = true) ∧ ready.body.mem.upsets = [] ∧
    ready.body.badUnits ready.own (24 * 2 ^ 30 - 8) 8 = [] ∧
    ready.body.mem.lostWords (wordSize ready.own.maps (24 * 2 ^ 30 - 8)) (24 * 2 ^ 30 - 8) (List.replicate 8 (some 1)) = [] :=
  ⟨by decide +kernel, by decide +kernel, ⟨_, rfl, by decide +kernel⟩, by decide +kernel, by decide +kernel, by decide +kernel⟩
theorem witness_window_poisoned : let s := withMem ready fun m => { m with poison := [64] }
    windowAddr s.own .a 64 8 = some (0, 64) ∧ netCheck s.own s.body (.host 0 .a) 64 8 = none ∧
    locate s.own.maps 64 = some ⟨0, 0, 0, 0, 1⟩ ∧ s.body.servesAt ⟨0, 0, 0, 0, 1⟩ = true ∧ s.body.badUnits s.own 64 8 = [64] ∧
    s.own.storeOwner 64 = none := by decide +kernel
theorem witness_window_refused : let s : State := { ready with own := { ready.own with worlds := [] } }
    windowAddr s.own .a 64 8 = some (0, 64) ∧ netCheck s.own s.body (.host 0 .a) 64 8 ≠ none := by decide +kernel
theorem witness_window_tripped : let s := withBoard ready fun b => { b with tripped := true }
    s.body.board.tripped = true ∧ windowAddr s.own .a 64 8 = some (0, 64) ∧ netCheck s.own s.body (.host 0 .a) 64 8 = none := by
  decide +kernel
theorem witness_window_outside : windowAddr ready.own .a (24 * 2 ^ 30) 1 = none ∧ windowAddr ready.own .b 0 1 = none := by decide +kernel
theorem witness_bar0 : (ready.body.port .a).linkUp = true ∧ ready.body.hostServed = true ∧ ready.own.owns .a 0 = true ∧
    (ready.body.mailbox (.part 0) 3).owner = false ∧ barTakes ready.own ready.body .a 0x28 8 = true ∧
    barTakes ready.own ready.body .a 0x28 3 = false := by decide +kernel
theorem witness_bar0_owned : let s : State := { ready with body := ready.body.updMail (.part 0) 3 fun m => { m with owner := true } }
    s.own.owns .a 0 = true ∧ (s.body.mailbox (.part 0) 3).owner = true := by decide +kernel
theorem witness_header : (5 : Nat) < 2 ^ 64 ∧ ([1, 2] : List Byte).length < 2 ^ 32 := by decide +kernel
theorem witness_go_unreached : ready.body.hostServed = true ∧ reaches ready.own ready.body .b (.part 0) = false := by decide +kernel
/-- Partition 0's first mailbox, with NOP in its command area. -/
def withMail (f : Mailbox → Mailbox) : State := { ready with body := ready.body.updMail (.part 0) 0 f }
theorem witness_go_owned : let s := withMail fun m => { m with owner := true }
    s.body.hostServed = true ∧ reaches s.own s.body .a (.part 0) = true ∧ (s.body.mailbox (.part 0) 0).owner = true ∧
    s.body.gos.head? ≠ some .sideBand ∧ s.body.gos.head? ≠ some (.mailbox (.part 0) 0) := by decide +kernel
theorem witness_go_pending : let s := withMail fun m => { m with pend := true }
    (s.body.mailbox (.part 0) 0).pend = true ∧ (s.body.mailbox (.part 0) 0).owner = false := by decide +kernel
theorem witness_go_waits : let s : State := { ready with body := { ready.body with gos := [.mailbox .module 0] } }
    s.body.gos ≠ [] ∧ s.body.gos.head? ≠ some .sideBand ∧ (s.body.mailbox (.part 0) 0).owner = false ∧
    (withBoard ready fun b => { b with phase := .held }).body.hostServed = true := by decide +kernel
theorem witness_go_oldest : let x := onPart0 0 0 []
    let s0 := withMail fun m => { m with owner := true, cmd := xArea 0x0001 x }
    let s : State := { s0 with body := { s0.body with gos := [.mailbox (.part 0) 0, .sideBand] } }
    (s.body.mailbox x.page x.mb).owner = true ∧ s.body.board.phase = .ready ∧ (s.body.mailbox x.page x.mb).cmd = xArea 0x0001 x ∧
    reaches s.own s.body x.port x.page = true ∧ x.flags.toNat < 2 := by decide +kernel
/-- A command of either kind on the other kind's page, and commands past their shared bounds. -/
theorem witness_shared : ready.takes (onPart0 24 0 []) = true ∧ ready.takes (onModule 8 0 []) = true ∧
    ready.takes { onPart0 0 32 [] with flags := 2 } = true ∧ 2 ≤ ({ onPart0 0 32 [] with flags := 2 } : Xnx).flags.toNat := by decide +kernel

/-! ### Witnesses: the general family and partitions -/

theorem witness_reports : ready.takes (onPart0 0 0 []) = true ∧ (onPart0 0 0 []).flags.toNat < 2 ∧
    (ready.takesOn (onPart0 0 0 []) 0 = true) := by decide +kernel
theorem witness_telem : let x := onPart0 8 0 (bytesOf 8 [(0, 4, 0x1E058), (4, 4, 1013)])
    ready.takes x = true ∧ xArg x 0 4 % 8 = 0 ∧ 1 ≤ xArg x 4 4 ∧ xArg x 4 4 ≤ 1014 ∧ xArg x 0 4 + 8 * xArg x 4 4 = 0x20000 := by
  decide +kernel
theorem witness_press_read : let x := onPart0 8 3 (bytesOf 8 [(0, 4, 0x3FFFC0), (4, 4, 64)])
    ready.takes x = true ∧ ready.own.hasCore 0 3 = true ∧ (ready.body.core 3).cx.seq ≠ .running ∧ xArg x 0 4 % 64 = 0 ∧
    xArg x 0 4 + xArg x 4 4 = 0x400000 ∧ (ready.commandedWith 0x0004 x).firstBad ready.own [(0xF3000000000 + 3 * 0x400000 + xArg x 0 4, xArg x 4 4)] = none := by
  decide +kernel
theorem witness_cave_read : let x := onPart0 8 0 (bytesOf 8 [(0, 4, 0x5FFF), (4, 4, 1)])
    ready.takes x = true ∧ xArg x 0 4 + xArg x 4 4 = 0x6000 ∧ (ready.commandedWith 0x0005 x).firstBad ready.own [(0xF2000010000 + 0x5FFF, 1)] = none := by decide +kernel
theorem witness_event_read : let x := onPart0 4 0 (bytesOf 4 [(0, 4, 202)])
    ready.takesOn x 0 = true ∧ xArg x 0 4 = 202 ∧ (ready.body.part 0).events.length ≤ 202 := by decide +kernel
theorem witness_backup : ready.takesOn (onPart0 8 1 (bytesOf 8 [(0, 8, 5)])) 0 = true := by decide +kernel
theorem witness_cave_write : let x := onPart0 9 0 (bytesOf 9 [(0, 4, 0x5FFF), (4, 4, 1), (8, 1, 7)])
    ready.takesOn x 0 = true ∧ x.len = 8 + xArg x 4 4 ∧ xArg x 0 4 + xArg x 4 4 ≤ 0x6000 ∧ x.args.length = 8 + xArg x 4 4 ∧
    (ready.commandedWith 0x0006 x).firstBad ready.own (mergeWords (0xF2000010000 + xArg x 0 4) (xArg x 4 4)) = none := by decide +kernel
/-- A cave word and a press word that hold an uncorrectable error, met by the command that reads them. -/
theorem witness_read_fails : let x := { onPart0 8 0 (bytesOf 8 [(0, 4, 8), (4, 4, 1)]) with ecc := [(0xF2000010008, Ecc.bad)] }
    let y := { onPart0 8 3 (bytesOf 8 [(4, 4, 64)]) with ecc := [(0xF3000C00000, Ecc.bad)] }
    ready.takes x = true ∧ (ready.commandedWith 0x0005 x).firstBad ready.own [(0xF2000010000 + 8, 1)] = some 0xF2000010008 ∧
    (ready.commandedWith 0x0006 x).firstBad ready.own (mergeWords (0xF2000010000 + 8) 1) = some 0xF2000010008 ∧
    (ready.commandedWith 0x0004 y).firstBad ready.own [(0xF3000000000 + 3 * 0x400000, 64)] = some 0xF3000C00000 := by decide +kernel
theorem witness_press_running : let s := withCx ready fun k => { k with seq := .running }
    s.own.hasCore 0 0 = true ∧ (s.body.core 0).cx.seq = .running ∧ s.own.hasCore 0 4 = false := by decide +kernel
theorem witness_event_more : let s := withPart ready fun p => { p with events := [default, default] }
    s.takesOn (onPart0 4 0 (bytesOf 4 [(0, 4, 1)])) 0 = true ∧ 1 < (s.body.part 0).events.length := by decide +kernel
theorem witness_harvest_off : let x := onPart0 8 0 (bytesOf 8 [])
    ready.takesOn x 0 = true ∧ (ready.body.part 0).invoking = false ∧ xArg x 0 8 = 0 := by decide +kernel
theorem witness_harvest_on : let x := onPart0 8 0 (bytesOf 8 [(0, 8, 64)])
    ready.takesOn x 0 = true ∧ (ready.body.part 0).invoking = false ∧ xArg x 0 8 % 64 = 0 ∧ xArg x 0 8 ≠ 0 ∧
    ready.own.inData 0 64 589824 = true ∧ ready.body.board.tripped = false ∧ ready.body.parts.length = 8 ∧
    (withBoard ready fun b => { b with tripped := true }).body.board.tripped = true := by decide +kernel
theorem witness_harvest_busy : let s := withSlot ready fun v => { v with invoke := some tick0 }
    s.takesOn (onPart0 8 0 (bytesOf 8 [])) 0 = true ∧ (s.body.part 0).invoking = true ∧ s.own.inData 0 (24 * 2 ^ 30) 589824 = false := by
  decide +kernel
theorem witness_host_copy : let x := onPart0 24 1 (bytesOf 24 [(0, 8, 0), (8, 8, 64), (16, 8, 128)])
    ready.takesOn x 0 = true ∧ ready.own.inData 0 (xArg x 8 8) (xArg x 16 8) = true ∧ xArg x 16 8 % 64 = 0 := by decide +kernel
/-- Two copies under way, one to the host and one to DRAM. -/
def copying : State :=
  withPart ready fun p => { p with copies := [⟨tick0, true, 0, 64, 64⟩, ⟨⟨.part 0, 1, 5, false⟩, false, 0, 128, 64⟩] }
theorem witness_copy_ends :
    (copying.body.part 0).copies.find? (fun y => y.ticket.mb == 0) = some ⟨tick0, true, 0, 64, 64⟩ ∧
    (copying.body.part 0).copies.find? (fun y => y.ticket.mb == 1) = some ⟨⟨.part 0, 1, 5, false⟩, false, 0, 128, 64⟩ ∧
    copying.body.stewardUp = true ∧ copying.body.flows copying.own [(64, 64)] = true ∧ copying.body.flows copying.own [(128, 64)] = true ∧
    ((copying.body.correctedIn copying.own [(64, 64)]).updPart 0 fun y =>
      { y with copies := y.copies.filter fun z => z.ticket.mb != 0 }).firstBad copying.own [(64, 64)] = none ∧
    copying.body.mem.bad (wordSize copying.own.maps 128) 128 64 = false := by decide +kernel
theorem witness_copy_held : let s := withStack copying fun y => { y with limit := 3, debt := 4000 }
    s.body.flows s.own [(64, 64)] = false ∧ (withBoard copying fun b => { b with phase := .held }).body.stewardUp = false ∧
    (let u := withMem copying fun m => { m with poison := [64] };
      ((u.body.correctedIn u.own [(64, 64)]).updPart 0 fun y =>
        { y with copies := y.copies.filter fun z => z.ticket.mb != 0 }).firstBad u.own [(64, 64)] = some 64) := by decide +kernel

/-- A parameter block of group 4 over one slice of all stacks behind partition 0's. -/
def pargs : List Byte := bytesOf 24 [(0, 1, 16), (1, 1, 3), (6, 1, 2), (7, 1, 1), (8, 1, 1), (10, 2, 2), (12, 2, 1), (20, 2, 48)]
theorem witness_create : let x := onModule 24 1 pargs
    ready.takesModule x = true ∧ pblockFormat x.args = false ∧ (pblockOf x.args).inBounds = true ∧
    createCheck ready.own ready.body 1 (pblockOf x.args) = none ∧ ready.own.recs.length = 8 ∧
    ready.body.parts.length = 8 ∧ ready.body.board.tripped = false ∧ createCheck ready.own ready.body 0 (pblockOf x.args) ≠ none := by
  decide +kernel
theorem witness_create_ends : let s : State := { ready with body := ready.body.updPart 1 fun p => { p with create := some tickM } }
    (s.body.part 1).create = some tickM ∧ s.own.recs.length = 8 ∧ s.body.board.tripped = false ∧ s.body.stewardUp = true := by decide +kernel
theorem witness_modify : let x := onModule 24 0 (bytesOf 24 [(0, 1, 3), (1, 1, 1), (7, 1, 1), (8, 1, 1), (12, 2, 1)])
    ready.takesModule x = true ∧ pblockFormat x.args = false ∧ (pblockOf x.args).inBounds = true ∧ ready.own.present 0 = true ∧
    (ready.own.prec 0).phase ≠ .deleting ∧ sameFixed (pblockOf x.args) (ready.own.prec 0).block = true ∧
    (ready.body.part 0).hasAlmanac = false ∧ (ready.body.part 0).mjs = [] ∧ unitsFree ready.own ready.body 0 (pblockOf x.args) = true ∧
    (pblockOf x.args).secure = false ∧ ready.own.sems.length = 32 ∧ (ready.body.part 0).modifies = [] ∧
    (pblockOf x.args).groups ≠ (ready.own.prec 0).block.groups ∧ ready.own.present 1 = false ∧
    ((withPart ready fun q => { q with slots := q.slots.map fun v => { v with loaded := true } }).body.part 0).hasAlmanac = true := by
  decide +kernel
theorem witness_modify_ends : let s := withPart ready fun p => { p with modifies := [tickM, tickM] }
    (s.body.part 0).modifies = tickM :: [tickM] ∧ s.body.stewardUp = true := by decide +kernel
theorem witness_part_reset : ready.takesModule (onModule 0 0 []) = true ∧ ready.own.present 0 = true ∧ ready.body.parts.length = 8 ∧
    (ready.own.prec 0).phase ≠ .deleting ∧ (ready.body.part 0).resetting = false ∧
    ((withPart ready fun p => { p with resetting := true }).body.part 0).resetting = true ∧
    ∀ k ∈ ready.body.quads, ∀ j ∈ k.xfRun, j.ctx.part ≠ 0 := by decide +kernel
theorem witness_delete_ends :
    let s : State := { withPart ready (fun p => { p with delete := some tickM }) with own := ready.own.setRec 0 .deleting block }
    (s.body.part 0).delete = some tickM ∧ (s.own.prec 0).phase = .deleting ∧ s.own.recs.length = 8 ∧ s.own.maps.length = 16 ∧
    s.body.board.tripped = false ∧ s.body.stewardUp = true := by decide +kernel

/-- A READY module with no partition, port A holding SEM00. -/
def bare : State := { ready with own := { Own.reset with sems := Own.reset.sems.set 0 ⟨true, .a, 9⟩ } }
theorem witness_stacks : bare.takesModule (onModule 0 23 []) = true ∧ bare.own.noPartition = true ∧ ready.own.noPartition = false ∧
    (let x := onModule 1 23 [15]; bare.takesModule x = true ∧ xArg x 0 1 ≤ 15) := by decide +kernel
theorem witness_repair : let x := onModule 4 23 (bytesOf 4 [(0, 4, 63 * 2 ^ 24 + 47 * 2 ^ 18 + 12287 * 16)])
    bare.takesModule x = true ∧ locOk (xArg x 0 4) = true ∧ (bare.body.stack 23).sparesLeft (locGroup (xArg x 0 4)) ≠ 0 ∧
    bare.body.stks.length = 24 := by decide +kernel
theorem witness_test_ends : ((withStack bare fun y => { y with tests := [tickM] }).body.stack 0).tests = [tickM] ∧
    bare.body.stewardUp = true := by decide +kernel

/-! ### Witnesses: side band, boundary scan, supplies, boot -/

theorem witness_side_band : ready.body.stewardRuns = true ∧ ready.body.board.smbCmd = none ∧ State.reset.body.stewardRuns = false ∧
    State.reset.body.board.phase ≠ .off := by decide +kernel
/-- A module that holds a side-band command. -/
def banded (d : List Byte) : State :=
  withBoard { ready with body := { ready.body with gos := [.sideBand] } } fun b => { b with smbCmd := some d }
theorem witness_side_band_taken : let d := bytesOf 16 [(0, 2, 1), (2, 2, 9)]
    let s := banded d
    s.body.stewardRuns = true ∧ s.pending = [] ∧ s.body.board.smbCmd = some d ∧ s.body.gos = .sideBand :: [] ∧ d.length = 16 ∧
    field d 0 2 = 1 ∧ field d 4 4 = 0 ∧ field d 8 4 < 2 ∧ field d 0xC 4 = 0 := by
  decide +kernel
theorem witness_side_band_world : let d := bytesOf 16 [(0, 2, 3)]
    let s := banded d
    s.pending = [] ∧ s.body.board.smbCmd = some d ∧ field d 0 2 ≠ 1 ∧ field d 0 2 ≠ 0x0702 := by decide +kernel
theorem witness_tap : ready.body.board.vioGood = true ∧ tapHolds ready.body.board.tap = false ∧ ready.body.board.warmReq = none ∧
    (withBoard ready fun b => { b with phase := .off, rails := [] }).body.board.vioGood = false := by decide +kernel
theorem witness_tap_leaves : let s := withBoard ready fun b => { b with tap := .clamp, phase := .resetHeld }
    s.body.board.vioGood = true ∧ tapHolds s.body.board.tap = true ∧ s.body.board.phase = .resetHeld ∧
    s.body.board.resetNHeld = false ∧ s.body.board.sagHeld = false ∧ s.body.board.modRef = true ∧
    (withBoard s fun b => { b with resetNHeld := true }).body.board.resetNHeld = true := by decide +kernel
theorem witness_pins : (withBoard State.reset fun b => { b with phase := .off, rails := [] }).body.board.vioGood = false ∧
    (let s := withBoard ready fun b => { b with modRef := false }; s.body.board.modRef = false ∧ s.body.board.vioGood = true) ∧
    (let s := withBoard ready fun b => { b with tap := .highz }; s.body.board.vioGood = true ∧ tapHolds s.body.board.tap = true) ∧
    ready.body.fabricTx { Link.reset with state := .up } = .flits := by decide +kernel
theorem witness_rails : (let s := withBoard State.reset fun b => { b with phase := .off, railTries := 1, pwrEn := true }
    s.body.board.phase = .off ∧ s.body.board.gaveUp = false ∧ 0 < s.body.board.railTries ∧ s.body.board.pwrEn = true) ∧
    (let s := withBoard State.reset fun b => { b with rails := railOrder.take 3 }
    s.pending = [] ∧ s.body.board.phase = .powerOn ∧ s.body.board.rails = railOrder.take 3 ∧ AnyRail.vphy ∉ s.body.board.rails) := by
  decide +kernel
theorem witness_power_on : let s := State.reset
    s.body.board.phase = .powerOn ∧ s.body.board.modRef = true ∧ s.body.board.holdsReset = false ∧ s.body.board.flash.bootErr = 0 ∧
    (withBoard s fun b => { b with flash := { b.flash with rootOk := false } }).body.board.flash.bootErr ≠ 0 ∧
    (withBoard s fun b => { b with modRef := false }).body.board.phase = .powerOn := by decide +kernel
theorem witness_warm : ready.body.board.warmReq = none ∧ ready.body.board.phase ∉ [Phase.resetHeld, .powerOn] ∧
    (let s := withBoard ready (fun b => { b with warmReq := some .resetN, resetNHeld := true });
      s.body.board.warmReq = some .resetN ∧ warmMay s.body .resetN = true ∧ s.body.board.holdsReset = true) := by decide +kernel
theorem witness_watchdog : let s := withBoard ready fun b => { b with wdogArmed := true }
    s.body.stewardRuns = true ∧ s.body.board.wdogArmed = true ∧ s.body.board.thirdExpiry = false ∧ s.body.board.warmReq = none ∧
    (let t := withBoard s (fun b => { b with wdogRecent := [2, 1] });
      t.body.board.thirdExpiry = true ∧ t.body.board.cause.trial = false) := by decide +kernel
theorem witness_sag : ready.body.clocked = true ∧ ready.body.board.sag.below1.toNat.testBit (railIx .vio) = false ∧
    ((withBoard ready fun b => { b with sag := { b.sag with below1 := 8 } }).body.board.sag.below1.toNat.testBit (railIx .vio) = true) ∧
    ready.body.board.phase ∉ [Phase.resetHeld, .powerOn] ∧ ready.body.board.phase ≠ .off := by decide +kernel
theorem witness_references : (withBoard ready fun b => { b with modRef := false }).body.clocked = false ∧
    needsNoClock .heartbeat = false ∧
    (let s := withBoard ready fun b => { b with warmReq := some .resetN, modRef := false };
      s.body.board.warmReq ≠ none ∧ s.body.board.phase ≠ .off) := by decide +kernel
theorem witness_firmware : let s := withBoard ready fun b =>
      { b with phase := .bootRom, flash := { b.flash with trial := false, images := [⟨true, 1⟩, ⟨false, 0⟩], select := false } }
    s.body.board.phase = .bootRom ∧ s.body.board.modRef = true ∧ s.body.board.flash.trial = false ∧ s.body.board.starts s.body.board.flash.select = true ∧
    (let t := withBoard s (fun b => { b with flash := { b.flash with images := [⟨false, 0⟩, ⟨false, 0⟩] } });
      t.body.board.starts false = false ∧ t.body.board.starts true = false) := by decide +kernel
theorem witness_training : let s := withBoard ready fun b => { b with phase := .bootRom, rate := 0 }
    s.body.board.phase ∈ [Phase.bootRom, .firmware] ∧ s.body.board.modRef = true ∧ s.body.board.rate = 0 ∧
    s.body.board.cause.bootErr = 0 ∧ (⟨0xFFFFFF, 0, []⟩ : TrainTry).passes = 0xFFFFFF := by decide +kernel
theorem witness_ready_steps : let s := withBoard ready fun b => { b with phase := .firmware, katDone := true }
    s.body.board.phase = .firmware ∧ s.body.board.modRef = true ∧ s.body.board.rate ≠ 0 ∧ s.body.board.katDone = true ∧
    s.body.board.cause.bootErr = 0 := by decide +kernel
theorem witness_ready_missing : let s := withBoard ready fun b => { b with phase := .firmware, rate := 0 }
    s.body.board.rate = 0 ∧ s.body.board.phase = .firmware := by decide +kernel

/-! ### Witnesses: power and heat, DRAM, memory -/

theorem witness_power_down : let s := withBoard ready fun b => { b with powerCap := ⟨none, [701], 0, 0, 0⟩ }
    s.body.board.powerCap.window.sum > s.body.board.tdp.toNat * s.body.board.powerCap.window.length ∧ s.body.board.powerCap.cap = none := by
  decide +kernel
theorem witness_power_up : let s := withBoard ready fun b => { b with powerCap := ⟨some 29, [], 10, 101, 0⟩ }
    s.body.board.powerCap.cap = some 29 ∧ 101 ≤ s.body.board.powerCap.belowCount ∧ 10 ≤ s.body.board.powerCap.sinceStep ∧
    s.body.board.ceil.toNat ≤ 29 + 1 := by decide +kernel
theorem witness_power_floor : let s := withBoard ready fun b => { b with powerCap := ⟨some 10, [], 0, 0, 1001⟩ }
    1001 ≤ s.body.board.powerCap.floorCount ∧ s.own.present 0 = true ∧ s.body.parts.length = 8 ∧ (s.body.part 0).events.length < 1017 ∧
    s.body.invoking = [] := by decide +kernel
theorem witness_temperature : ready.body.clocked = true ∧ ready.body.stks.length = 24 ∧ ready.body.board.tripped = false ∧
    (ready.body.stack 0).sensor = false ∧
    ((withStack ready fun y => { y with sensor := true }).body.stack 0).sensor = true := by decide +kernel
theorem witness_ladder : let s := withStack ready fun y =>
      { y with cap := some 20, above92 := 11, sinceCap := 10, limit := 1, above95 := 11, sinceLim := 10 }
    (s.body.stack 0).cap = some 20 ∧ 11 ≤ (s.body.stack 0).above92 ∧ 10 ≤ (s.body.stack 0).sinceCap ∧ (s.body.stack 0).limit ≠ 0 ∧
    (s.body.stack 0).limit ≠ 3 ∧ 11 ≤ (s.body.stack 0).above95 ∧ 10 ≤ (s.body.stack 0).sinceLim := by decide +kernel
theorem witness_ladder_back : let s := withStack ready fun y =>
      { y with cap := some 20, below83 := 101, below90 := 101, sinceCap := 10, limit := 1, below93 := 101, sinceLim := 10 }
    101 ≤ (s.body.stack 0).below83 ∧ 101 ≤ (s.body.stack 0).below90 ∧ 101 ≤ (s.body.stack 0).below93 ∧ (s.body.stack 0).limit ≠ 0 ∧
    (s.body.stack 0).cap = some 20 ∧ s.body.board.tripped = false := by decide +kernel
theorem witness_clock : let s : State := { ready with body := ready.body.updCore 0 fun c => { c with clk := 20 } }
    (s.body.core 0).tileBusy = false ∧ (s.body.core 0).clk ≠ 0 ∧ (s.body.core 0).clk ≠ s.body.clockTarget (s.body.core 0) ∧
    (ready.body.core 0).clk = ready.body.clockTarget (ready.body.core 0) := by decide +kernel

/-- A read of the last byte of a unit served as it arrives, a bulk one and a latency-critical one, and a write of a whole unit. -/
theorem witness_dram : locate ready.own.maps 64 = some ⟨0, 0, 0, 0, 1⟩ ∧ netCheck ready.own ready.body (.entry 0 0 0) 127 1 = none ∧
    ready.body.board.tripped = false ∧ ready.body.mem.upsets = [] ∧ ((ready.body.stks.getD 0 Stack.reset).pcOf 0).waiting = [] ∧
    ((ready.body.stks.getD 0 Stack.reset).pcOf 0).refreshing = none ∧ (ready.body.stks.getD 0 Stack.reset).admits = true ∧
    (readClass ready.own .steward true 127 1 = true ∧ ((ready.body.stks.getD 0 Stack.reset).pcOf 0).lcRow < 8) ∧
    (readClass ready.own (.entry 0 0 0) false 127 1 = false ∧ ((ready.body.stks.getD 0 Stack.reset).pcOf 0).batch = 0) ∧
    0 < ready.body.stks.length ∧ readSpan ready.own.maps 127 1 = (64, 64) ∧
    ready.body.mem.firstBad (wordSize ready.own.maps 64) 64 64 = none ∧
    ((ready.body.stks.getD 0 Stack.reset).pcOf 0).writes.length < 96 ∧
    writeCheck ready.own ready.body (.entry 0 0 0) 64 64 = none ∧
    ready.body.mem.lostWords (wordSize ready.own.maps 64) 64 (List.replicate 64 (some 1)) = [] := by decide +kernel
theorem witness_dram_refused : writeCheck ready.own ready.body (.entry 1 4 0) 64 64 = some (stWorld, 64) := by decide +kernel
theorem witness_dram_tripped : let s := withBoard ready fun b => { b with tripped := true }
    s.body.board.tripped = true ∧ locate s.own.maps 64 = some ⟨0, 0, 0, 0, 1⟩ ∧ netCheck s.own s.body .steward 64 64 = none ∧
    writeCheck s.own s.body .steward 64 64 = none := by decide +kernel
/-- A limited stack that still owes admission admits nothing. -/
theorem witness_dram_limited : let s := withStack ready fun y => { y with limit := 3, debt := 4000 }
    (s.body.stack 0).admits = false ∧ s.body.board.tripped = false ∧ ((s.body.stack 0).pcOf 0).waiting = [] ∧
    writeCheck s.own s.body .steward 64 64 = none := by decide +kernel
/-- A queue with one bulk read, or with 64 writes. -/
def queued : State := withStack ready fun y => y.updPc 0 fun q =>
  { q with waiting := [netReq (.host 0 .a) 0 64 none] }
def written : State := withStack ready fun y => y.updPc 0 fun q =>
  { q with writes := List.replicate 64 (netReq .steward 64 64 (some (List.replicate 64 (some 1)))) }
theorem witness_dram_queued :
    (let q := (written.body.stack 0).pcOf 0;
      q.writes.any (fun w => w.reaches 64 64) = true ∧ batchReady q = true ∧ q.refreshing = none ∧ q.waiting = []) ∧
    (let q := (queued.body.stack 0).pcOf 0;
      q.waiting = [netReq (.host 0 .a) 0 64 none] ∧ q.writes = [] ∧ q.refreshing = none ∧ queued.body.board.tripped = false ∧
      (queued.body.stack 0).admits = true ∧ queued.body.mem.upsets = [] ∧
      queued.body.mem.firstBad (wordSize queued.own.maps 0) 0 64 = none) ∧
    queued.body.stks.length = 24 := by decide +kernel
theorem witness_refresh : let q := (ready.body.stack 23).pcOf 63
    q.owed = [] ∧ q.refreshing = none ∧ q.busyBank ready.own.maps 47 = false ∧
    (((withStack ready fun y => y.updPc 0 fun q => { q with refreshing := some (47, 0) }).body.stack 0).pcOf 0).refreshing.isSome = true := by
  decide +kernel
/-- A port's access at the first byte of a cellar, and at a DRAM unit its controller serves. -/
theorem witness_network : locate ready.own.maps 0xF1000000000 = none ∧ netCheck ready.own ready.body (.entry 0 0 0) 0xF1000000000 64 = none ∧
    writeCheck ready.own ready.body (.entry 0 0 0) 0xF1000000000 64 = none ∧ ready.body.servesAt ⟨0, 0, 0, 0, 1⟩ = true ∧
    ready.body.mem.firstBad (wordSize ready.own.maps 0xF1000000000) 0xF1000000000 64 = none ∧
    ready.body.mem.lostWords (wordSize ready.own.maps 0xF1000000000) 0xF1000000000 (List.replicate 64 none) = [] := by decide +kernel
theorem witness_network_refused : netCheck ready.own ready.body (.fabric 2 0) 0 64 = some stWorld := by decide +kernel
theorem witness_scrub : ready.body.mem.upsets = [] ∧ ready.body.mem.bad 8 (0xF0000000007 / 8 * 8) 8 = false ∧
    ready.body.cores.length = 32 ∧ ready.body.board.warmReq = none ∧ declaredBy ready.body 0xF0000000000 = none ∧
    unitAddr ready.own.maps 0 1 = some 64 ∧ ready.body.mem.bad (wordSize ready.own.maps 64) 64 64 = false ∧
    unitAddr (Own.reset.maps.map fun d => { d with valid := false }) 23 0 = none ∧
    (let s := withMem ready fun m => { m with writeBack := [(64, 64)] };
      s.body.mem.writeBack.any (fun x => x.1 == 64) = true ∧ (s.body.stks.getD 0 Stack.reset).admits = true ∧
      locate s.own.maps 64 = some ⟨0, 0, 0, 0, 1⟩) := by decide +kernel
theorem witness_canonical : ready.body.mem.wf = true := by decide +kernel

/-! ### Almanac images -/

/-- An almanac of 1,024 bytes for core 0 (R102, R116, R124, R166): the entry given, then END; the descriptor it refers to at 0x180; one
batch-table list, identifier 3 of two entries, slots in the vat; one KEEP region of 64 KiB; the CRC over the rest. -/
def image (kind evt arg bound ref : Nat) (desc : List (Nat × Nat × Nat)) : List Byte :=
  let raw := bytesOf 1024 ([(0, 4, 0x4E4D4C41), (4, 1, 4), (5, 1, 30), (8, 4, 1), (0xC, 4, 1024), (0x10, 8, 64), (0x18, 4, 0x300), (0x1C, 2, 1),
      (0x20, 8, 0x340), (0x2C, 2, 4), (64, 4, 0x140), (68, 2, 2), (0x140, 1, kind), (0x141, 1, evt), (0x142, 2, arg), (0x144, 4, bound),
      (0x148, 8, ref), (0x150, 1, 11), (0x151, 1, 0xFF), (0x300, 2, 3), (0x302, 2, 2), (0x304, 4, 64), (0x308, 4, 4096), (0x30C, 4, 4096),
      (0x310, 8, 0xF0000001000), (0x318, 8, 0xF0000002000),
      (0x340, 2, 1), (0x34A, 1, 1), (0x350, 4, 0x10000)] ++ desc)
  raw.take 0x30 ++ leBytes 8 (imageCrc raw).toNat ++ raw.drop 0x38

/-- Partition 0's slot 0 running the image on core 0, at the list's first entry. -/
def running (img : List Byte) : State :=
  let s1 := withSlot ready fun y =>
    { y with loaded := true, image := img, imageAt := 0x10000, hostSlot := 0xFF, ctx := .resident, run := .running, bts := btsFresh img,
             decision := 1 }
  { s1 with body := s1.body.updCore 0 fun c => { c with ctx := some ⟨0, 0⟩, cx := { CoreCtx.idle with seq := .running } } }

/-- The context of slot 0 of partition 0. -/
def ctx0 : CtxId := ⟨0, 0⟩
/-- A launched entry of index 0. -/
def launched (kind evt bound ref counter : Nat) : Launched :=
  ⟨0, BitVec.ofNat 8 kind, BitVec.ofNat 8 evt, bound, ref, counter, 0, 0, false⟩
/-- The entry launched on core 0. -/
def launchedOn (s : State) (l : Launched) : State := withCx s fun k => { k with aeIdx := 1, launched := [l] }

/-- An almanac whose list is one WAIT and END. -/
def imgWait : List Byte := image 7 1 2 0 0 []

/-! ### Witnesses: attestation and firmware -/

theorem witness_attests : ready.body.attests .a = true ∧ State.reset.body.attests .a = false ∧ (ready.body.spdm .a).negotiated = false ∧
    (ready.body.spdm .a).versioned = false ∧ (ready.body.spdm .a).capable = false ∧ (ready.body.spdm .a).deferred = none := by decide +kernel
/-- A port's responder after the negotiation, with a response deferred. -/
def negotiated : State := { ready with body := ready.body.updSpdm .a fun y =>
  { y with versioned := true, capable := true, negotiated := true, deferred := some [1] } }
theorem witness_negotiated : negotiated.body.attests .a = true ∧ (negotiated.body.spdm .a).negotiated = true ∧
    (negotiated.body.spdm .a).versioned = true ∧ (negotiated.body.spdm .a).capable = true ∧ negotiated.body.ports.length = 2 ∧
    (negotiated.body.spdm .a).deferred = some [1] ∧ negotiated.body.board.flash.ownerOk = false := by decide +kernel
theorem witness_owner : (withBoard ready fun b => { b with flash := { b.flash with owner := some ⟨true, [1]⟩ } }).body.board.flash.owner =
    some ⟨true, [1]⟩ := by decide +kernel

/-- A READY module that is device 6 of the fabric, its own route entry LOCAL, link 0 up. -/
def fabric : State := { ready with body := ready.body.updFab fun f => { f with
  devId := some 6, route := [(6, 0x2000000)], time := 1000, locked := true,
  links := f.links.modify 0 fun l => { l with state := .up, reserved := List.replicate 6 128, shared := 23808 } } }
theorem witness_stage : let x := onModule 40 1 (bytesOf 40 [(0, 4, 9), (4, 4, 4096), (8, 2, 2), (0xA, 1, 1), (0x18, 8, 0), (0x20, 8, 1000)])
    fabric.takesModule x = true ∧ xArg x 0xB 5 = 0 ∧ xArg x 0 4 ≠ 0 ∧ xArg x 4 4 = 4096 ∧ x.arg0 < xArg x 8 2 ∧
    [5, 6][x.arg0]? = fabric.body.fab.devId ∧ fabric.body.fab.time ≤ xArg x 0x20 8 ∧ fabric.body.board.fw.phase ≠ .receiving ∧
    fabric.body.board.fw.phase ≠ .verifying ∧ fabric.body.mail.length = 9 := by decide +kernel
theorem witness_fw_commit : let s := withBoard fabric fun b => { b with fw := { b.fw with phase := .staged, imageId := 9 } }
    let x := onModule 16 0 (bytesOf 16 [(0, 4, 9), (8, 8, 10000001000)])
    s.takesModule x = true ∧ xArg x 4 4 < 2 ∧ xArg x 8 8 ≤ s.body.fab.time + 10000000000 ∧ s.body.fab.locked = true ∧
    s.body.board.fw.imageId.toNat = xArg x 0 4 ∧ s.body.anyInvocation = false := by decide +kernel
theorem witness_commit_due : let s := withBoard fabric fun b => { b with fw := { b.fw with commit := some (1000, 9) } }
    s.body.board.fw.commit = some (1000, 9) ∧ s.body.board.phase = .ready ∧ s.body.board.modRef = true ∧ 1000 ≤ s.body.fab.time ∧ s.body.board.warmReq = none := by
  decide +kernel
theorem witness_commit_not_due : let s := withBoard fabric fun b => { b with fw := { b.fw with commit := some (1001, 0) } }
    s.body.board.fw.commit = some (1001, 0) ∧ s.body.fab.time < 1001 := by decide +kernel
theorem witness_fw_refused : let x := onModule 16 0 (bytesOf 16 [(0, 4, 9), (4, 4, 2), (8, 8, 10000001001)])
    fabric.takesModule x = true ∧ 2 ≤ xArg x 4 4 ∧ ¬ xArg x 8 8 ≤ fabric.body.fab.time + 10000000000 ∧
    (withSlot fabric fun y => { y with invoke := some tick0 }).body.anyInvocation = true := by decide +kernel
/-- A module that receives an image of one chunk of 64 bytes as rank 1. -/
def receiving : State := withBoard fabric fun b =>
  { b with fw := { b.fw with phase := .receiving, imageId := 9, bytes := 64, rank := 1, fanout := 1, chunks := 1, tree := [5, 6], deadline := 1000,
                             ticket := some tickM } }
/-- Its chunk 0. -/
def chunk0 : Msg :=
  let d := List.replicate 64 (7 : Byte)
  ⟨true, 5, 0xFF, 6, 0, 5, 0, 2, 0xFF, 0, false, bytesOf 64 [(0, 4, 9), (8, 8, (crc64 d).toNat)] ++ d⟩
/-- A message that waits first in a class on link 0. -/
def arrived (s : State) (c : Nat) (m : Msg) : State := withLink s fun l => { l with arrived := [(c, m)] }
theorem witness_chunk : receiving.body.clocked = true ∧ receiving.body.stewardRuns = true ∧ (((arrived receiving 5 chunk0).body.link 0).takeMsg chunk0).isSome = true ∧ chunk0.op = 5 ∧ msgFormed chunk0 = true ∧ chunk0.addr.toNat % 256 = 2 ∧
    routeLocal (receiving.body.fab.entry chunk0.dstDev.toNat) = true ∧ receiving.body.board.fw.takes chunk0 = true ∧
    receiving.body.board.fw.got.contains (field chunk0.data 4 4) = false := by decide +kernel
/-- The management messages of each way: none there, malformed, of the other kinds, unknown, for another device. -/
theorem witness_management : ((receiving.body.link 0).takeMsg chunk0).isNone = true ∧
    msgFormed { chunk0 with data := [0] } = false ∧ ({ chunk0 with addr := 9 } : Msg).addr.toNat % 256 = 9 ∧
    msgFormed { chunk0 with addr := 9 } = true ∧ routeLocal (receiving.body.fab.entry 7) = false ∧
    ({ chunk0 with dstDev := 7 } : Msg).op = 5 ∧ msgFormed { chunk0 with dstDev := 7 } = true := by decide +kernel
theorem witness_fw_repair : receiving.body.stewardRuns = true ∧ receiving.body.board.fw.phase = .receiving ∧ receiving.body.board.fw.asked = none ∧
    receiving.body.board.fw.toRoot = false ∧ receiving.body.board.fw.deadline ≤ receiving.body.fab.time := by decide +kernel
/-- A steward message. -/
def steward0 : Msg := { chunk0 with addr := 3, data := List.replicate 64 0 }
theorem witness_steward_message : ((arrived receiving 5 steward0).body.link 0).takeMsg steward0 =
      some { (receiving.body.link 0) with arrived := [] } ∧ steward0.op = 5 ∧ msgFormed steward0 = true ∧
    steward0.addr.toNat % 256 = 3 ∧ routeLocal (receiving.body.fab.entry steward0.dstDev.toNat) = true ∧
    receiving.body.board.fw.imageId = 9 ∧ receiving.body.fab.time ≤ receiving.body.board.fw.deadline ∧
    (let t := withSlot (running (image 4 1 0 0 0x180 [(0x180, 1, 5)])) fun y => { y with invoke := some tick0 };
      (t.body.slot 0 0).invoke.isSome = true ∧ hasColl (t.body.slot 0 0).image = true) := by decide +kernel
theorem witness_fw_verify : let s := withBoard receiving fun b => { b with fw := { b.fw with phase := .verifying }, policy := { b.policy with floor := 2 } }
    s.body.board.fw.ticket = some tickM ∧ s.body.board.fw.phase = .verifying ∧ s.body.board.policy.floor.toNat ≤ (2 : W32).toNat ∧
    (1 : W32).toNat < s.body.board.policy.floor.toNat := by decide +kernel

/-! ### Witnesses: almanacs and invocations -/

theorem witness_load : let s := storing ready 0x10000 (bytesOf 64 [(0xC, 4, 64)])
    let x := onPart0 9 3 (bytesOf 9 [(0, 8, 0x10000), (8, 1, 0xFF)])
    s.takesOn x 0 = true ∧ s.own.inData 0 (xArg x 0 8) 64 = true ∧ s.body.board.tripped = false ∧
    ((s.commandedWith 0x0101 x).stewardRead s.own [(xArg x 0 8, 64)]).firstBad s.own [(xArg x 0 8, 64)] = none ∧
    field (s.body.mem.bytes (xArg x 0 8) 64) 0xC 4 = 64 ∧ (s.body.slot 0 3).loaded = false ∧ (s.body.slot 0 3).loading = none ∧
    (s.body.slot 0 3).unload = none := by decide +kernel
theorem witness_load_outside : let x := onPart0 9 0 (bytesOf 9 [(0, 8, 24 * 2 ^ 30 - 63), (8, 1, 0xFF)])
    ready.takesOn x 0 = true ∧ ready.own.inData 0 (xArg x 0 8) 64 = false := by decide +kernel
theorem witness_load_unread : let s := withMem ready fun m => { m with poison := [0x10000] }
    let x := onPart0 9 3 (bytesOf 9 [(0, 8, 0x10000), (8, 1, 4)])
    s.takesOn x 0 = true ∧ ((s.commandedWith 0x0101 x).stewardRead s.own [(0x10000, 64)]).firstBad s.own [(0x10000, 64)] = some 0x10000 ∧
    (xArg x 8 1 ≠ 0xFF ∧ 4 ≤ xArg x 8 1) := by decide +kernel
theorem witness_load_busy : ((running imgWait).body.slot 0 0).loaded = true := by decide +kernel
/-- A load of the almanac at 0x10000 into slot 0. -/
def loading (img : List Byte) : State :=
  withSlot (storing ready 0x10000 img) fun y => { y with loading := some (0x10000, 1024, 0xFF, tick0) }
set_option maxRecDepth 1000000 in
/-- The almanac of one WAIT passes every check, and is read back from memory. -/
theorem witness_load_accepted : checkImage (loading imgWait).own (loading imgWait).body 0 0 0x10000 imgWait none = .accepted ∧
    (loading imgWait).body.mem.bytes 0x10000 1024 = imgWait ∧ (loading imgWait).body.clocked = true ∧
    ((loading imgWait).body.slot 0 0).loading = some (0x10000, 1024, 0xFF, tick0) ∧ (loading imgWait).body.stewardUp = true ∧
    (loading imgWait).body.flows (loading imgWait).own [(0x10000, 1024)] = true ∧
    (loading imgWait).body.storeFlows (loading imgWait).own 0 = true ∧
    (withBoard (loading imgWait) fun b => { b with tripped := true }).body.flows (loading imgWait).own [(0x10000, 1024)] = false := by
  decide +kernel
theorem witness_slots_whole : Claims.slotsWhole ready := by unfold Claims.slotsWhole; decide +kernel
set_option maxRecDepth 1000000 in
/-- An entry of a kind that does not exist is refused at its offset with REFUSED_FORMAT. -/
theorem witness_load_refused : checkImage ready.own ready.body 0 0 0x10000 (image 12 1 0 0 0 []) none = .refused 0x140 stFormat := by
  decide +kernel
set_option maxRecDepth 1000000 in
/-- An image whose second unit cannot be read. -/
theorem witness_load_fails : let b := (withMem ready fun m => { m with poison := [0x10040] }).body
    checkImage ready.own b 0 0 0x10000 imgWait none = .ecc 64 0x10040 := by
  decide +kernel
theorem witness_unload : let s := withSlot (running imgWait) fun y => { y with run := .idle }
    s.takesOn (onPart0 0 0 []) 0 = true ∧ (s.body.slot 0 0).loaded = true ∧ (s.body.slot 0 0).loading = none ∧
    ((loading imgWait).body.slot 0 0).loading.isSome = true ∧ (∀ q ∈ s.body.quads, ∀ j ∈ q.xfRun, j.ctx ≠ ⟨0, 0⟩) := by
  decide +kernel
theorem witness_unload_ends : let s := withSlot ready fun y => { y with unload := some tick0, image := imgWait }
    (s.body.slot 0 0).unload = some tick0 ∧ s.body.stewardUp = true ∧ s.body.zeroingCores (s.body.slot 0 0).image = false := by decide +kernel
/-- A loaded almanac whose context is resident and idle. -/
def resident (img : List Byte) : State := withSlot (withCx (running img) fun _ => CoreCtx.idle) fun y => { y with run := .idle }
theorem witness_invoke : let s := resident imgWait
    s.takesOn (onPart0 0 0 []) 0 = true ∧ (s.body.slot 0 0).loaded = true ∧ (s.body.slot 0 0).invoke = none ∧ (s.body.slot 0 0).guest = none ∧
    (s.body.slot 0 0).hostSlot = 0xFF ∧ s.body.heldBy 0 0 = [] ∧ startRefused s.own s.body 0 0 = false ∧ (s.body.slot 0 0).ctx = .resident ∧
    (s.body.slot 0 0).run = .idle ∧ (s.body.slot 0 0).preempts = [] ∧ (s.body.core 0).ctx = some ⟨0, 0⟩ := by decide +kernel
/-- An unrun context whose cores are free, one whose save is under way, and one whose cores another context holds. -/
theorem witness_invoke_unrun : let s := withSlot ready fun y => { y with loaded := true, image := imgWait, hostSlot := 0xFF, ctx := .unrun }
    (s.body.slot 0 0).ctx = .unrun ∧ s.body.heldBy 0 0 = [] ∧ s.body.rivals 0 0 = [] ∧ startRefused s.own s.body 0 0 = false ∧
    s.body.zeroingCores (s.body.slot 0 0).image = false ∧ s.body.cores.length = 32 ∧
    (withMem s fun m => { m with zeroing := [.vat 0] }).body.zeroingCores (s.body.slot 0 0).image = true := by decide +kernel
theorem witness_invoke_saving : let s := withSlot (resident imgWait) fun y => { y with run := .saving }
    (s.body.slot 0 0).run = .saving ∧ s.body.heldBy 0 0 = [] ∧ startRefused s.own s.body 0 0 = false ∧
    (let u : State := { running imgWait with body := (running imgWait).body.updSlot 0 1 fun y =>
        { y with loaded := true, image := imgWait, hostSlot := 0xFF } };
      u.body.heldBy 0 1 ≠ []) := by decide +kernel
theorem witness_invoke_guest : let s := withSlot (resident imgWait) fun y => { y with hostSlot := 1 }
    (s.body.slot 0 0).hostSlot ≠ 0xFF ∧ (s.body.slot 0 0).guest = none := by decide +kernel
/-- A BARRIER over group 0, which is not configured, may not start. -/
theorem witness_invoke_refused : let s := resident (image 4 1 0 0 0x180 [(0x180, 1, 5)])
    startRefused s.own s.body 0 0 = true ∧ s.body.heldBy 0 0 = [] := by decide +kernel
theorem witness_invocation_ends : let s := withSlot (withCx (running imgWait) fun k => { k with ended := true }) fun y => { y with invoke := some tick0 }
    (s.body.slot 0 0).run = .running ∧ s.body.allEnded ⟨0, 0⟩ = true ∧ (s.body.slot 0 0).invoke = some tick0 ∧ s.body.mail.length = 9 ∧
    (∀ l ∈ s.body.mail, l.length = 4) := by decide +kernel
theorem witness_preempt : let s := running imgWait
    s.takesOn (onPart0 0 0 []) 0 = true ∧ (s.body.slot 0 0).loaded = true ∧ (s.body.slot 0 0).run = .running ∧
    (s.body.slot 0 0).run ≠ .preempted := by decide +kernel
theorem witness_preempt_unrun : let s := withSlot ready fun y => { y with loaded := true, image := imgWait }
    (s.body.slot 0 0).run = .idle ∧ (s.body.slot 0 0).ctx ≠ .resident := by decide +kernel
theorem witness_resume : let s := withSlot (running imgWait) fun y => { y with run := .preempted, ctx := .saved }
    (s.body.slot 0 0).run = .preempted ∧ (s.body.slot 0 0).underGuest = none ∧ s.body.heldBy 0 0 = [] := by decide +kernel
/-- A running context at its pre-emption point, with a byte in its KEEP region and one in its press. -/
def stopping : State :=
  withSlot (withCx (storing (storing (running imgWait) 0xF0000000010 [7]) 0xF3000000020 [9]) fun k => { k with seq := .preempted }) fun y =>
    { y with run := .stopping }
theorem witness_save : (stopping.body.slot 0 0).run = .stopping ∧ canSave stopping.body ⟨0, 0⟩ = true ∧ stopping.body.clocked = true ∧
    stopping.body.storeFlows stopping.own 0 = true ∧ (stopping.body.slot 0 0).underGuest = none ∧ stopping.body.mem.wf = true ∧
    (stopping.body.slot 0 0).preempts = [] ∧ canSave (running imgWait).body ⟨0, 0⟩ = false ∧
    inRanges (saveRanges imgWait) 0xF0000000010 = true ∧ inRanges (saveRanges imgWait) 0xF3000000020 = true := by decide +kernel
/-- The state that a command answers, when it answers one. -/
def next? (c : Instr) (s : State) : Option State := match exec c s with | .next t => some t | _ => none
/-- The context saved, and asked to come back. -/
def saved : State := (next? (.contextSaveComplete 0 ⟨0, []⟩) stopping).getD stopping
def restoring : State := withSlot saved fun y => { y with run := .restoring, resuming := true }
theorem witness_save_restore : (next? (.contextSaveComplete 0 ⟨0, []⟩) stopping).isSome = true ∧ Claims.slotsWhole stopping ∧
    Claims.slotsWhole restoring ∧ restoring.body.clocked = true ∧ restoring.body.rivals 0 0 = [] ∧
    restoring.body.mayRestore restoring.own 0 0 = true ∧
    restoring.body.firstBad restoring.own [restoring.body.savedArea restoring.own ⟨0, 0⟩ false] = none ∧
    (let r := stopping.body.savedArea stopping.own ⟨0, 0⟩ false; r.1 + r.2 ≤ 0xD800000000) ∧
    (saveRanges (stopping.body.slot 0 0).image).all (fun r => decide (0xD800000000 ≤ r.1)) = true := by
  unfold Claims.slotsWhole; decide +kernel
/-- A restore that may end, with a fresh start, with a fresh error of the save area, and one whose cores are still zeroed. -/
theorem witness_restore : let s := withSlot (withCx (running imgWait) fun _ => CoreCtx.idle) fun y =>
      { y with run := .restoring, resuming := true, ctx := .saved }
    (s.body.slot 0 0).run = .restoring ∧ (s.body.slot 0 0).resuming = true ∧ s.body.mayRestore s.own 0 0 = true ∧ s.body.rivals 0 0 = [] ∧
    s.body.firstBad s.own [s.body.savedArea s.own ⟨0, 0⟩ false] = none ∧ Claims.slotsWhole s ∧
    ((withSlot s fun y => { y with resuming := false }).body.slot 0 0).resuming = false ∧
    (withMem s fun m => { m with poison := [(s.body.savedArea s.own ⟨0, 0⟩ false).1] }).body.firstBad s.own
      [s.body.savedArea s.own ⟨0, 0⟩ false] = some (s.body.savedArea s.own ⟨0, 0⟩ false).1 ∧
    (withMem s fun m => { m with zeroing := [.vat 0] }).body.mayRestore s.own 0 0 = false := by
  unfold Claims.slotsWhole; decide +kernel
/-- A training context that its guest has left. -/
theorem witness_guest_gone : let s := withSlot (withCx (running imgWait) fun _ => CoreCtx.idle) fun y =>
      { y with run := .preempted, ctx := .saved, underGuest := some 1 }
    (s.body.slot 0 0).run = .preempted ∧ (s.body.slot 0 0).underGuest = some 1 ∧ s.body.guestGone 0 1 = true ∧
    s.body.mayRestore s.own 0 0 = true := by decide +kernel
theorem witness_bt_commit_none : let x := onPart0 2 0 (bytesOf 2 [(0, 2, 4)])
    (running imgWait).takesOn x 0 = true ∧ btFind ((running imgWait).body.slot 0 0).image (xArg x 0 2) = none := by decide +kernel
/-- The list's inactive slot holds one entry that ends the list. -/
def listed (s : State) : State := storing s 0xF0000002000 (bytesOf 16 [(8, 4, 64), (12, 2, 0xFFFF)])
theorem witness_bt_commit : let s := listed (running imgWait)
    let x := onPart0 2 0 (bytesOf 2 [(0, 2, 3)])
    s.takesOn x 0 = true ∧ btFind (s.body.slot 0 0).image (xArg x 0 2) = some ⟨3, 2, 64, 4096, 4096, 0xF0000001000, 0xF0000002000⟩ ∧
    ((s.body.slot 0 0).bt 3).swap = false ∧ (s.body.slot 0 0).ctx ≠ .saved ∧ btUnread s.own s.body.mem 0xF0000002000 (btReached s.body.mem ⟨3, 2, 64, 4096, 4096, 0xF0000001000, 0xF0000002000⟩ 0xF0000002000 2 0) = none ∧
    btWalk s.body.mem ⟨3, 2, 64, 4096, 4096, 0xF0000001000, 0xF0000002000⟩ 0xF0000002000 2 0 = none := by decide +kernel
theorem witness_bt_commit_fails : let s := storing (running imgWait) 0xF0000002000 (bytesOf 16 [(8, 4, 65), (12, 2, 0xFFFF)])
    btWalk s.body.mem ⟨3, 2, 64, 4096, 4096, 0xF0000001000, 0xF0000002000⟩ 0xF0000002000 2 0 = some 0 := by decide +kernel
theorem witness_bt_commit_busy : let s := withSlot (running imgWait) fun y => { y with bts := [⟨3, false, true, true⟩] }
    ((s.body.slot 0 0).bt 3).swap = true := by decide +kernel
theorem witness_bt_commit_unread : let s := withMem (listed (running imgWait)) fun m => { m with poison := [0xF0000002008] }
    btUnread s.own s.body.mem 0xF0000002000 (btReached s.body.mem ⟨3, 2, 64, 4096, 4096, 0xF0000001000, 0xF0000002000⟩ 0xF0000002000 2 0) =
      some (0, 0xF0000002008) := by decide +kernel
theorem witness_bt_commit_saved : let s := withSlot (running imgWait) fun y =>
      { y with ctx := .saved, run := .preempted, save := { y.save with cells := putCells [] 0xF0000002000 (bytesOf 16 [(8, 4, 64), (12, 2, 0xFFFF)]) } }
    let m : Mem := { s.body.mem with cells := (s.body.slot 0 0).save.cells, poison := (s.body.slot 0 0).save.poison, upsets := [] }
    let r : BtRec := ⟨3, 2, 64, 4096, 4096, 0xF0000001000, 0xF0000002000⟩
    (s.body.slot 0 0).ctx = .saved ∧ s.body.board.tripped = false ∧ btUnread s.own m 0xF0000002000 (btReached m r 0xF0000002000 2 0) = none ∧
    s.body.firstBad s.own [s.body.savedArea s.own ⟨0, 0⟩ (s.body.slot 0 0).underGuest.isSome] = none ∧
    btWalk m r 0xF0000002000 2 0 = none := by decide +kernel

/-! ### Witnesses: sequencers -/

/-- The almanac whose one entry is of the given kind with event 1. -/
def img1 (kind : Nat) (desc : List (Nat × Nat × Nat)) : List Byte := image kind 1 0 0 (if kind ≤ 6 then 0x180 else 0) desc

/-- The next entry can be fetched; one whose store is held up, whose read fails, and a list with no entry of the kind next. -/
theorem witness_fetched : Claims.fetched (running imgWait) 0 ∧ (running imgWait).body.fetchReads (running imgWait).own 0 ≠ [] ∧
    (let s := withStack (running imgWait) fun y => { y with limit := 3, debt := 4000 };
      s.body.clocked = true ∧ s.body.flows s.own (s.body.fetchReads s.own 0) = false) ∧
    (let s := withMem (running imgWait) fun m => { m with poison := (((running imgWait).body.fetchReads (running imgWait).own 0).take 1).map (·.1) };
      s.body.holds 0 = some ctx0 ∧ s.body.flows s.own (s.body.fetchReads s.own 0) = true ∧
      (s.body.firstBad s.own (s.body.fetchReads s.own 0)).isSome = true) ∧
    (running imgWait).body.nextAe 0 kSignal = none := by
  unfold Claims.fetched; decide +kernel
theorem witness_wait_passes : let s := withSlot (running imgWait) fun y => { y with events := [0, 2] }
    s.body.nextAe 0 kWait = some (ctx0, ⟨7, 1, 2, 0, 0⟩) ∧ (s.body.slot 0 0).count 1 = 2 := by decide +kernel
theorem witness_wait_blocks : (running imgWait).body.nextAe 0 kWait = some (ctx0, ⟨7, 1, 2, 0, 0⟩) ∧
    ((running imgWait).body.slot 0 0).count 1 < 2 := by decide +kernel
theorem witness_wait_release :
    let s := withCx (withSlot (running imgWait) fun y => { y with events := [0, 2] }) fun k => { k with waiting := some (launched 7 1 0 2 0) }
    s.body.holds 0 = some ctx0 ∧ (s.body.core 0).cx.waiting = some (launched 7 1 0 2 0) ∧ (s.body.slot 0 0).run = .running ∧
    (s.body.slot 0 0).count 1 = 2 := by decide +kernel
theorem witness_wait_still : let s := withCx (running imgWait) fun k => { k with waiting := some (launched 7 1 0 2 0) }
    s.body.holds 0 = some ctx0 ∧ (s.body.slot 0 0).count 1 < 2 := by decide +kernel
theorem witness_signal : (running (img1 8 [])).body.nextAe 0 kSignal = some (ctx0, ⟨8, 1, 0, 0, 0⟩) := by decide +kernel
/-- A BT_COMMIT entry of list 3. -/
def imgCommit : List Byte := image 9 1 3 0 0 []
/-- List 3 of the image. -/
def list3 : BtRec := ⟨3, 2, 64, 4096, 4096, 0xF0000001000, 0xF0000002000⟩
theorem witness_bt_entry : let s := listed (running imgCommit)
    s.body.nextAe 0 kBtCommit = some (ctx0, ⟨9, 1, 3, 0, 0⟩) ∧ s.body.mayLaunch 0 = true ∧ (s.body.core 0).cx.launched = [] ∧
    btFind (s.body.imageOf ctx0) 3 = some list3 ∧ (s.body.slot 0 0).bts.any (·.id == 3) = true ∧ s.body.mem.sound = true ∧
    btWalk s.body.mem list3 (list3.inactive ((s.body.slot 0 0).bt 3)) list3.maxEnt 0 = none := by decide +kernel
theorem witness_bt_entry_fails : let s := storing (running imgCommit) 0xF0000002000 (bytesOf 32 [(12, 2, 1), (16, 4, 4097)])
    btWalk s.body.mem list3 (list3.inactive ((s.body.slot 0 0).bt 3)) list3.maxEnt 0 = some 1 ∧ ((s.body.slot 0 0).bt 3).swap = false ∧
    (s.body.part 0).events.length < 1024 := by decide +kernel
theorem witness_slot : (running (img1 10 [])).body.nextAe 0 kSlot = some (ctx0, ⟨10, 1, 0, 0, 0⟩) ∧
    (running (img1 10 [])).body.guestWaiting 0 0 = none := by decide +kernel
theorem witness_slot_guest : let s : State := running (img1 10 [])
    ({ s with body := s.body.updSlot 0 2 fun y => { y with hostSlot := 0, guest := some tick0 } } : State).body.guestWaiting 0 0 = some 2 ∧
    (let t := running (img1 10 []);
      startRefused t.own (t.body.updSlot 0 2 fun y => { y with hostSlot := 0, guest := some tick0 }) 0 2 = false) ∧
    startRefused s.own (s.body.updSlot 0 2 fun y =>
      { y with hostSlot := 0, guest := some tick0, image := image 4 1 0 0 0x180 [(0x180, 1, 5)] }) 0 2 = true := by decide +kernel
theorem witness_end : let s := withCx (running imgWait) fun k => { k with aeIdx := 1 }
    s.body.nextAe 0 kEnd = some (ctx0, ⟨11, 0xFF, 0, 0, 0⟩) := by decide +kernel
theorem witness_end_completes : let s := withCx (running imgWait) fun k => { k with aeIdx := 2 }
    s.body.holds 0 = some ctx0 ∧ (s.body.core 0).cx.listDone (s.body.imageOf ctx0) 0 = true ∧
    (aeOf (s.body.imageOf ctx0) 0 1).kind = kEnd ∧ (s.body.core 0).cx.harv = [] := by decide +kernel
theorem witness_overrun : let s := withSlot (launchedOn (running imgWait) (launched 1 1 5 0x180 6)) fun y => { y with invoke := some tick0 }
    (s.body.core 0).ctx = some ctx0 ∧ (s.body.core 0).cx.timed 0 = some (launched 1 1 5 0x180 6) ∧ (5 : Nat) < 6 ∧
    (s.body.core 0).cx.ovr = false ∧ (s.body.part 0).events.length < 1024 ∧ (s.body.slot 0 0).invoke = some tick0 ∧
    (s.body.slot 0 0).preempts = [] ∧ (s.body.slot 0 0).replTicket = none ∧ s.body.mem.sound = true ∧ Claims.noTiles s ctx0 ∧
    (∀ q ∈ s.body.quads, ∀ j ∈ q.xfRun, j.ctx ≠ ctx0) := by unfold Claims.noTiles; decide +kernel
theorem witness_in_bound : ((launchedOn (running imgWait) (launched 1 1 5 0x180 5)).body.core 0).cx.timed 0 = some (launched 1 1 5 0x180 5) := by
  decide +kernel
/-- A tile run of the descriptor at 0x180. -/
def tileRun (listed run : Bool) : TileRun := ⟨0, 0x180, listed, 0xF0000002000, 0, 0, 0, 0, none, 0xFFFF, run⟩
theorem witness_preemption_point : let s := withSlot (running imgWait) fun y => { y with run := .stopping }
    (s.body.core 0).ctx = some ctx0 ∧ (s.body.slot 0 0).run = .stopping ∧ (s.body.core 0).cx.seq = .running ∧
    (s.body.core 0).cx.quiet = true ∧ (s.body.core 0).cx.vec = none ∧
    ((withCx s fun k => { k with tile := some (tileRun false true) }).body.core 0).cx.quiet = false := by decide +kernel
theorem witness_preemption_vec : let s := withSlot (withCx (launchedOn (running (img1 2 [])) (launched 2 1 0 0x180 0)) fun k =>
      { k with vec := some ⟨0, 0, [], []⟩ }) fun y => { y with run := .stopping }
    (s.body.core 0).cx.vec = some ⟨0, 0, [], []⟩ ∧ (s.body.core 0).cx.quiet = true ∧ s.body.mem.sound = true ∧
    (s.body.core 0).cx.launched.find? (·.idx == 0) = some (launched 2 1 0 0x180 0) := by decide +kernel
theorem witness_kat : ready.body.clocked = true ∧ ready.body.board.phase = .ready ∧ (ready.body.core 0).clk ≠ 0 ∧
    (ready.body.core 0).relock = false ∧ (ready.body.core 0).kat = 0 ∧ (ready.body.core 0).cx.quiet = true ∧
    ready.body.board.cause.coreOut.toNat.testBit 0 = false ∧ ready.own.coreOwner 0 = some 0 ∧ ready.own.coreOwner 4 = none ∧
    ready.body.parts.length = 8 ∧ (ready.body.part 0).resetting = false ∧ (ready.body.part 0).events.length < 1024 := by decide +kernel

/-! ### Witnesses: tiles, vector unit, engines -/

/-- A one-element F32 tile: FMT_A = FMT_W = FMT_O = F32, one true row, column and depth, no list. -/
def imgTile (kind bt : Nat) : List Byte := img1 1 [(0x180, 1, kind), (0x181, 1, 9), (0x182, 1, 9), (0x183, 1, 9), (0x184, 2, 4), (0x186, 2, 128),
  (0x188, 2, 8), (0x18A, 2, 1), (0x18C, 2, 1), (0x18E, 2, 1), (0x194, 2, bt), (0x1B0, 8, 0xF0000010000), (0x1B8, 8, 0xF0000010000),
  (0x1C0, 8, 0xF0000020000), (0x1D4, 4, 0xFFFFFFFF)]
theorem witness_tile : let s := running (imgTile 0 0xFFFF)
    s.body.nextAe 0 kTile = some (ctx0, ⟨1, 1, 0, 0, 0x180⟩) ∧ s.body.mayLaunch 0 = true ∧ (tdOf (s.body.imageOf ctx0) 0x180).rind = false ∧
    (tdOf (s.body.imageOf ctx0) 0x180).listed = false ∧ (s.body.core 0).cx.tile = none ∧ s.body.mem.sound = true ∧
    pressFree (s.body.imageOf ctx0) (s.body.core 0).cx 0 (tdOf (s.body.imageOf ctx0) 0x180) 0 = true := by decide +kernel
theorem witness_tile_rind : let s := running (imgTile 1 0xFFFF)
    s.body.nextAe 0 kTile = some (ctx0, ⟨1, 1, 0, 0, 0x180⟩) ∧ (tdOf (s.body.imageOf ctx0) 0x180).rind = true ∧
    (s.body.quad (quadOf 0)).rindOf 0 = false ∧ s.body.quads.length = 4 := by decide +kernel
theorem witness_tile_listed : let s := withSlot (running (imgTile 0 3)) fun y => { y with bts := [⟨3, true, false, false⟩] }
    (tdOf (s.body.imageOf ctx0) 0x180).listed = true ∧ btFind (s.body.imageOf ctx0) 3 = some list3 ∧ ((s.body.slot 0 0).bt 3).empty = false ∧
    ((((running (imgTile 0 3)).body.slot 0 0).bt 3).empty = true) := by decide +kernel
theorem witness_tile_held : let s := withCx (running (imgTile 0 0xFFFF)) fun k => { k with tile := some (tileRun false true) }
    s.body.nextAe 0 kTile = some (ctx0, ⟨1, 1, 0, 0, 0x180⟩) ∧ (s.body.core 0).cx.tile ≠ none := by decide +kernel
theorem witness_list_piece : let s := withCx (listed (running (imgTile 0 3))) fun k => { k with tile := some (tileRun true false) }
    s.body.holds 0 = some ctx0 ∧ (s.body.core 0).cx.tile = some (tileRun true false) ∧ (s.body.slot 0 0).run = .running ∧
    (s.body.core 0).cx.seq = .running ∧ s.body.mem.sound = true ∧ (tdOf (s.body.imageOf ctx0) 0x180).ragDim = 0 ∧
    pressFree (s.body.imageOf ctx0) (s.body.core 0).cx 0 (tdOf (s.body.imageOf ctx0) 0x180) 0 = true := by decide +kernel
/-- A K-ragged tile over the list, whose RAG_OFS equals the entry's LEN: the piece leaps. -/
theorem witness_list_leap :
    let img := image 1 1 0 0 0x180 [(0x184, 2, 4), (0x186, 2, 128), (0x188, 2, 8), (0x192, 1, 3), (0x194, 2, 3), (0x198, 4, 64)]
    let s := withCx (listed (running img)) fun k => { k with tile := some (tileRun true false) }
    (tdOf (s.body.imageOf ctx0) 0x180).ragDim = 3 ∧ (tdOf (s.body.imageOf ctx0) 0x180).acc = false ∧
    (btEntryAt s.body.mem 0xF0000002000 0).len ≤ (tdOf (s.body.imageOf ctx0) 0x180).ragOfs := by decide +kernel
theorem witness_tile_results : let s := withCx (running (imgTile 0 0xFFFF)) fun k => { k with tile := some (tileRun false true) }
    s.body.holds 0 = some ctx0 ∧ (s.body.core 0).cx.tile = some (tileRun false true) ∧ s.body.mem.sound = true ∧
    (s.body.core 0).cx.aovf = false := by decide +kernel
/-- A write-out of the tile. -/
def tileOut : TileOut := ⟨0, 0x180, 0, 0, none, true, true⟩
theorem witness_write_out : let s := withCx (running (imgTile 0 0xFFFF)) fun k => { k with outs := [tileOut] }
    let t0 := tdOf (s.body.imageOf ctx0) 0x180
    s.body.holds 0 = some ctx0 ∧ (s.body.core 0).cx.outs = [tileOut] ∧
    Claims.unguarded s (entryOf ctx0 0 0) (t0.outWrites 0 0 0 (t0.extents none) (t0.outVals s.body.mem 0 0 (t0.extents none))) := by
  unfold Claims.unguarded
  decide +kernel

/-- A vector program of one row and eight columns, no instruction. -/
def imgVec : List Byte := img1 2 [(0x184, 4, 1), (0x188, 4, 8), (0x1EC, 4, 0xFFFFFFFF)]
theorem witness_vec : let s := running imgVec
    s.body.nextAe 0 kVec = some (ctx0, ⟨2, 1, 0, 0, 0x180⟩) ∧ s.body.mayLaunch 0 = true ∧ (s.body.core 0).cx.vec = none ∧
    s.body.mem.sound = true := by decide +kernel
theorem witness_vec_ends : let s := withCx (launchedOn (running imgVec) (launched 2 1 0 0x180 0)) fun k => { k with vec := some ⟨0, 0, [], []⟩ }
    let v := vpOf (s.body.imageOf ctx0) 0x180
    s.body.holds 0 = some ctx0 ∧ (s.body.core 0).cx.vec = some ⟨0, 0, [], []⟩ ∧
    (s.body.core 0).cx.launched.find? (·.idx == 0) = some (launched 2 1 0 0x180 0) ∧ s.body.mem.sound = true ∧
    (∀ i ∈ v.section_ 0 ++ v.section_ 2 ++ v.section_ 4, i.op ≠ 3) ∧ v.rows = 1 ∧ (s.body.core 0).cx.seq = .running ∧
    (withCx s fun k => { k with seq := .preempted }).body.core 0 ≠ s.body.core 0 ∧
    (∀ i ∈ v.section_ 1 ++ v.section_ 3 ++ v.section_ 5, i.op ≠ 3) ∧
    v.ccw.ofs = none ∧
    v.flagWrite 0 [] = [] ∧
    (∀ i, i < 8 → 0 ≤ ((v.stream i).base : Int)) := by decide +kernel
/-- A core with one live accumulator and a flush due. -/
def flushing : State := withCx (running imgVec) fun k => { k with flushes := [0], harv := [HarvAcc.new 5 1] }
theorem witness_flush : flushing.body.holds 0 = some ctx0 ∧ (flushing.body.core 0).cx.flushes = [0] ∧
    (flushing.body.core 0).cx.harv = [HarvAcc.new 5 1] ∧ (flushing.body.core 0).cx.launched = [] ∧ flushing.body.mem.sound = true ∧
    (flushing.body.part 0).harvTab = none ∧ flushing.body.flushFlows flushing.own 0 0 = true ∧
    (let u := withPart flushing fun p => { p with harvTab := some 0x200000 };
      u.body.flushFlows u.own 0 0 = true ∧ u.body.noneWaits (0x200000 + (5 * 36 + 0) * 64) 64 = true) ∧
    (let u := withCx flushing fun k => { k with flushes := [1], launched := [⟨0, 1, 1, 0, 0, 0, 5, 1, false⟩] };
      (u.body.core 0).cx.flushes = [1] ∧ ∃ l ∈ (u.body.core 0).cx.launched, l.idx < 1 ∧ l.hkind ≠ 0 ∧ l.kind = 1) ∧
    ((withPart flushing fun p => { p with harvTab := some 0x200000 }).body.part 0).harvTab = some 0x200000 := by decide +kernel

/-- A MOVE of n + 1 elements from F32 to B16 in DRAM. -/
def imgMove (n : Nat) : List Byte := img1 3 [(0x181, 1, 9), (0x182, 1, 8), (0x183, 1, 1), (0x184, 2, 0x4688), (0x188, 6, 0x100000),
  (0x18E, 6, 0x200000), (0x194, 3, n), (0x1AC, 4, 4), (0x1DC, 4, 0xFFFFFFFF)]
/-- A job of entry 0 of core 0. -/
def job : QJob := QJob.new ctx0 0 0 ⟨3, 1, 0, 0, 0x180⟩ 0
theorem witness_xform : let s := running (imgMove 0)
    s.body.nextAe 0 kXform = some (ctx0, ⟨3, 1, 0, 0, 0x180⟩) ∧ s.body.mayLaunch 0 = true ∧ (s.body.quad (quadOf 0)).xfQ.length < 128 ∧
    (let t := withQuad s (fun q => { q with xfQ := [job] }); (t.body.quad 0).xfQ = [job] ∧ (t.body.quad 0).xfRun.length < 8) ∧
    (let t := withQuad s (fun q => { q with xfQ := [job], xfRun := List.replicate 8 job });
      (t.body.quad 0).xfQ = [job] ∧ 8 ≤ (t.body.quad 0).xfRun.length) := by decide +kernel
theorem witness_xd_ends : let s := withQuad (launchedOn (running (imgMove 0)) (launched 3 1 0 0x180 0)) fun q => { q with xfRun := [job] }
    let x := xdOf (s.body.imageOf ctx0) 0x180
    let ps := (s.body.slot 0 0).xdPlane x
    findJob (s.body.quad 0).xfRun 0 0 = some job ∧ x.identity = false ∧ x.count ps = 1 ∧ x.flows s.own s.body ps = true ∧
    (x.flows s.own (withBoard s fun b => { b with tripped := true }).body ps = false) ∧
    Claims.slotsWhole s ∧ Claims.unguarded s (entryOf ctx0 0 0) ((x.span s.body.mem ps 0 (x.count ps)).1 ++ x.final s.body.mem ps 0) := by
  unfold Claims.slotsWhole Claims.unguarded
  decide +kernel
theorem witness_xd_stops : let s := withSlot (withQuad (running (imgMove 4096)) fun q => { q with xfRun := [job] }) fun y => { y with run := .stopping }
    let x := xdOf (s.body.imageOf ctx0) 0x180
    let ps := (s.body.slot 0 0).xdPlane x
    findJob (s.body.quad 0).xfRun 0 0 = some job ∧ (s.body.slot 0 0).run = .stopping ∧ (s.body.core 0).ctx = some ctx0 ∧ 4096 < x.count ps ∧
    x.flows s.own s.body ps = true ∧ x.identity = false ∧ Claims.unguarded s (entryOf ctx0 0 0) (x.span s.body.mem ps 0 64).1 := by
  unfold Claims.unguarded
  decide +kernel
theorem witness_rind : let s := withQuad (launchedOn (running (imgTile 1 0xFFFF)) (launched 1 1 0 0x180 0)) fun q => { q with rindRun := some job }
    let t0 := tdOf (s.body.imageOf ctx0) 0x180
    (s.body.quad 0).rindRun = some job ∧ (s.body.core 0).ctx = some ctx0 ∧
    (s.body.core 0).cx.launched.find? (·.idx == 0) = some (launched 1 1 0 0x180 0) ∧ Claims.slotsWhole s ∧
    Claims.unguarded s (entryOf ctx0 0 0) (t0.outWrites 0 0 0 (t0.extents none) (rindVals t0 s.body.mem)) := by
  unfold Claims.slotsWhole Claims.unguarded
  decide +kernel
theorem witness_rind_start : let s := withQuad ready fun q => { q with rindQ := [job] }
    (s.body.quad 0).rindQ = [job] ∧ (s.body.quad 0).rindRun = none ∧
    ((withQuad s fun q => { q with rindRun := some job }).body.quad 0).rindRun ≠ none := by decide +kernel

/-! ### Witnesses: updates -/

/-- Sixteen parameter sets in range: EPS, and the two scales at 1.0. -/
def paramArgs (step : Nat) : List Byte := bytesOf 520 ((0, 8, step) :: (List.range 16).flatMap fun i =>
  [(8 + 32 * i + 0xC, 4, 0x3F800000), (8 + 32 * i + 0x14, 4, 0x3F800000), (8 + 32 * i + 0x18, 4, 0x3F800000)])
theorem witness_params : let s := withPart ready fun p => { p with stepValid := true, step := 4 }
    let x := onPart0 520 0 (paramArgs 5)
    s.takesOn x 0 = true ∧ (∀ i, i < 16 → field (paramSet (x.args.drop 8) i) 0x1C 4 = 0) ∧
    (∀ i, i < 16 → paramSetOk (paramSet (x.args.drop 8) i) = true) ∧ (s.body.part 0).stepValid = true ∧
    xArg x 0 8 = (s.body.part 0).step.toNat + 1 := by decide +kernel
theorem witness_params_out : let x := onPart0 520 0 (bytesOf 520 [(0, 8, 1)])
    ready.takesOn x 0 = true ∧ (∃ i, i < 16 ∧ paramSetOk (paramSet (x.args.drop 8) i) = false) ∧
    (∀ i, i < 16 → field (paramSet (x.args.drop 8) i) 0x1C 4 = 0) := by
  exact ⟨by decide +kernel, ⟨0, by decide, by decide +kernel⟩, by decide +kernel⟩
/-- A loaded almanac with one shard, its record at STEP 6, DIRTY 0. -/
def shardAt6 : State :=
  storing (withSlot (running imgWait) fun y => { y with shards := [(0x400000, bytesOf 64 [])] }) 0x400000 (leBytes 8 (mkRec 6 false true))
theorem witness_recover : let x := onPart0 8 0 (bytesOf 8 [(0, 8, 5)])
    let hs := (shardAt6.body.slot 0 0).shards.map (·.1)
    shardAt6.takesOn x 0 = true ∧ (shardAt6.body.slot 0 0).loaded = true ∧ shardAt6.body.mem.sound = true ∧ hs = [0x400000] ∧
    shardAt6.body.parts.length = 8 ∧ shardAt6.body.board.tripped = false ∧
    (let reads := hs.map fun a => (a, 64);
      (((shardAt6.commandedWith 0x0202 x).ordered shardAt6.own reads).stewardRead shardAt6.own reads).firstBad shardAt6.own reads = none ∧
      (let u := withMem shardAt6 fun m => { m with poison := [0x400000] };
        (((u.commandedWith 0x0202 x).ordered u.own reads).stewardRead u.own reads).firstBad u.own reads = some 0x400000)) ∧
    (∀ a ∈ hs, recMark (shardAt6.body.mem.le a 8) = 0xC7 ∧ recStep (shardAt6.body.mem.le a 8) = 5 + 1 ∧
      recDirty (shardAt6.body.mem.le a 8) = false) := by decide +kernel
theorem witness_recover_unmarked : let s := withSlot (running imgWait) fun y => { y with shards := [(0x400000, [])] }
    ∃ a ∈ (s.body.slot 0 0).shards.map (·.1), recMark (s.body.mem.le a 8) ≠ 0xC7 := by
  exact ⟨0x400000, by decide +kernel, by decide +kernel⟩
theorem witness_repl_cfg : let x := onPart0 16 15 (bytesOf 16 [(0, 2, 2), (2, 2, 1), (7, 1, 64), (8, 8, 24 * 2 ^ 30 - 4)])
    ready.takesOn x 0 = true ∧ 2 ≤ xArg x 0 2 ∧ xArg x 2 2 < xArg x 0 2 ∧ xArg x 4 2 < xArg x 0 2 ∧ xArg x 6 1 = 0 ∧ xArg x 7 1 = 64 ∧
    ready.own.inData 0 (xArg x 8 8) (2 * xArg x 0 2) = true ∧ (ready.body.part 0).comparing x.arg0 = false ∧
    (let rs := [(xArg x 8 8, 2 * xArg x 0 2)];
      (((ready.commandedWith 0x0203 x).ordered ready.own rs).stewardRead ready.own rs).firstBad ready.own rs = none) ∧
    (∀ i, i < xArg x 0 2 → ready.body.mem.le (xArg x 8 8 + 2 * i) 2 < 0x8000) := by decide +kernel
theorem witness_repl_cfg_bad : let x := onPart0 16 15 (bytesOf 16 [(0, 2, 2), (2, 2, 1), (7, 1, 64), (8, 8, 0x20000)])
    let rs := [(xArg x 8 8, 2 * xArg x 0 2)]
    (let u := withMem ready fun m => { m with poison := [0x20000] };
      (((u.commandedWith 0x0203 x).ordered u.own rs).stewardRead u.own rs).firstBad u.own rs = some 0x20000) ∧
    0x8000 ≤ (storing ready 0x20000 [0, 0x80]).body.mem.le (xArg x 8 8) 2 ∧ ready.own.inData 0 (24 * 2 ^ 30 - 2) 4 = false := by decide +kernel
theorem witness_repl_repair_none : ready.body.heldOf 0 0 = none ∧ ready.takesOn (onPart0 2 0 (bytesOf 2 [])) 0 = true := by decide +kernel

/-- An almanac with one UD of the given OP: 65,536 elements for a NORM, shard header at 0x400000, gradients at 0x200000, norm vector at
0x300000, digest array at 0x500000. -/
def imgUd (op elems : Nat) : List Byte := img1 6 [(0x180, 1, op), (0x188, 8, 0x400000), (0x190, 8, 0x200000), (0x198, 4, elems), (0x19E, 2, 1),
  (0x1A0, 8, 0x300000), (0x1B8, 8, 0x500000), (0x1DC, 4, 0xFFFFFFFF), (0x1EC, 4, 0xFFFFFFFF)]
/-- The shard's header: k rows of n columns, F32 masters and moments, F8 weights, one moment, slots at 0x410000 and 0x800000. -/
def header (k n step : Nat) : List Byte := bytesOf 64 [(0, 8, mkRec step false false), (0xC, 1, 9), (0xD, 1, 9), (0xE, 1, 1), (0xF, 1, 1), (0x10, 4, k),
  (0x14, 4, n), (0x18, 8, 0x410000), (0x20, 8, 0x800000), (0x28, 8, 12288)]
/-- The UD's job at the head of quadrant 0's queue, with the shard's header held and in memory. -/
def updating (op elems k n step : Nat) : State :=
  let s := withSlot (running (imgUd op elems)) fun y => { y with shards := [(0x400000, header k n step)], step := 1 }
  withQuad (storing s 0x400000 (header k n step)) fun q => { q with udQ := [job] }
/-- The job that the row of an OP picks. -/
def picked (s : State) (op : Nat) : Option QJob := (s.body.pickUd 0 op).map (·.2)

theorem witness_upd : (running (imgUd 1 2)).body.nextAe 0 kUpd = some (ctx0, ⟨6, 1, 0, 0, 0x180⟩) ∧
    (running (imgUd 1 2)).body.mayLaunch 0 = true ∧ ((running (imgUd 1 2)).body.quad (quadOf 0)).udQ.length < 128 := by decide +kernel
set_option maxRecDepth 1000000 in
theorem witness_norm : let s := updating 1 2 1 1 0
    let u := s.body.udOfJob job
    let b1 := s.body.updQuad 0 fun k => { k with udQ := [], udRun := [job] }
    s.body.pickUd 0 opNorm = some (b1, job) ∧ job.pos ≤ u.elems ∧ s.body.mem.sound = true ∧ (1 : Nat) < u.elems ∧ u.elems ≤ 2 ∧
    s.body.flows s.own [(u.grad + 4 * job.pos, 4 * (stopAt65536 2 job.pos u.elems - job.pos))] = true ∧ Claims.soleNorm s b1 0 job ∧
    (b1.quad 0).udRun.find? (fun k => (s.body.udOfJob k).op == opNorm && !k.done) = some job ∧ b1.normBefore 0 job = false ∧
    Claims.unguarded s (entryOf ctx0 0 0) [(u.nvec + 0 * 4096 + 16 * u.layer, List.replicate 16 0)] := by
  unfold Claims.unguarded Claims.soleNorm
  decide +kernel
set_option maxRecDepth 1000000 in
/-- A NORM that may end behind an earlier one of its quadrant that has not. -/
theorem witness_norm_waits : let k : QJob := { job with idx := 1 }
    let s := withQuad (updating 1 2 1 1 0) fun q => { q with udRun := [k] }
    let b1 := s.body.updQuad 0 fun q => { q with udQ := [], udRun := [k, job] }
    s.body.pickUd 0 opNorm = some (b1, job) ∧ (b1.quad 0).udRun.find? (fun k => (s.body.udOfJob k).op == opNorm && !k.done) ≠ some job ∧
    Claims.soleNorm s b1 0 job := by
  unfold Claims.soleNorm
  decide +kernel
theorem witness_norm_held : let s := withBoard (updating 1 2 1 1 0) fun b => { b with tripped := true }
    s.body.flows s.own [((s.body.udOfJob job).grad, 8)] = false ∧ (picked s opNorm) = some job := by decide +kernel
theorem witness_check : let s := updating 2 0 1 1 0
    picked s opCheck = some job ∧ s.body.mem.sound = true ∧ Claims.slotsWhole s ∧ (s.body.part 0).events.length < 1024 := by
  unfold Claims.slotsWhole
  decide +kernel
theorem witness_apply_skips : let s := withSlot (updating 3 0 1 1 0) fun y => { y with decision := 2 }
    picked s opApply = some job ∧ (s.body.slot 0 0).skips = true := by decide +kernel
theorem witness_apply_invalid : let s := updating 3 0 1 1 7
    picked s opApply = some job ∧ (s.body.slot 0 0).skips = false ∧ s.body.flows s.own [((s.body.udOfJob job).shard, 64)] = true ∧
    s.body.mem.sound = true ∧ (s.body.part 0).events.length < 1024 ∧ (∀ k ∈ s.body.quads, ∀ i ∈ k.xfRun, i.ctx ≠ job.ctx) ∧
    (withBoard s fun b => { b with tripped := true }).body.flows s.own [((s.body.udOfJob job).shard, 64)] = false ∧
    Claims.slotsWhole s ∧ job.begun = false ∧
    recStep (s.body.mem.le (s.body.udOfJob job).shard 8) ≠ (s.body.part 0).step.toNat ∧ (s.body.core 0).ctx = some ctx0 := by
  unfold Claims.slotsWhole
  decide +kernel
theorem witness_apply_begins : let s := updating 3 0 256 256 0
    let u := s.body.udOfJob job
    let r := s.body.mem.le u.shard 8
    let sh := shardOf ((s.body.slot 0 0).header u.shard)
    let hd := leBytes 8 (mkRec (recStep r) true (recSlot r)) ++ ((s.body.slot 0 0).header u.shard).drop 8
    picked s opApply = some job ∧ recMark r = 0xC7 ∧ recStep r = (s.body.part 0).step.toNat ∧ job.pos = 0 ∧
    (s.body.slot 0 0).shards.any (·.1 == u.shard) = true ∧ 65536 ≤ sh.elems ∧ (s.body.slot 0 0).skips = false ∧
    s.body.flows s.own [(u.shard, 64)] = true ∧
    Claims.unguarded s (entryOf ctx0 0 0) [(u.shard, hd)] ∧ Claims.unguarded s (entryOf ctx0 0 0) (applyWrites u (shardOf hd) 0 []) := by
  unfold Claims.unguarded
  decide +kernel
/-- The job under way. -/
def jobBegun : QJob := { job with begun := true }
/-- The end of an APPLY of one element, with and without its digest. -/
theorem witness_apply : let s := withQuad (updating 3 0 1 1 0) fun q => { q with udQ := [], udRun := [jobBegun] }
    let u := s.body.udOfJob jobBegun
    let y := s.body.slot 0 0
    let sh := shardOf (y.header u.shard)
    let elem := applyElem s.body.mem u sh (paramSet y.params u.pset) y.step
    picked s opApply = some jobBegun ∧ y.skips = false ∧ s.body.flows s.own [(u.shard, 64)] = true ∧ stopAt65536 1 0 sh.elems = 1 ∧
    sh.elems = 1 ∧ s.body.flows s.own (applyReads u sh 0 1) = true ∧ u.dig = false ∧
    Claims.unguarded s (entryOf ctx0 0 0) (applyWrites u sh 0 (((List.range 1).drop 0).map elem)) ∧
    Claims.unguarded s (entryOf ctx0 0 0) (applyFlags s.body.free u sh 0 ((List.range sh.elems).map elem)) ∧
    Claims.slotsWhole s := by
  unfold Claims.unguarded Claims.slotsWhole
  decide +kernel
/-- An APPLY of 65,536 elements that stops before its end. -/
theorem witness_apply_part : let s := updating 3 0 256 257 0
    let sh := shardOf ((s.body.slot 0 0).header (s.body.udOfJob job).shard)
    stopAt65536 65535 0 sh.elems = 0 ∧ stopAt65536 65536 0 sh.elems = 65536 ∧ sh.elems = 65792 := by decide +kernel
/-- An APPLY with DIG. -/
theorem witness_apply_digest : let s := withQuad (withSlot (updating 3 0 1 1 0) fun y => { y with image := y.image.set 0x182 2 }) fun q =>
      { q with udQ := [], udRun := [jobBegun] }
    let u := s.body.udOfJob jobBegun
    let sh := shardOf ((s.body.slot 0 0).header u.shard)
    u.dig = true ∧ picked s opApply = some jobBegun ∧
    Claims.unguarded s (entryOf ctx0 0 0) [(u.diga, digArray (sh.digests s.body.mem (sh.alternate sh.commit)))] := by
  unfold Claims.unguarded
  decide +kernel
theorem witness_commit : let s := updating 5 0 1 1 0
    let y := s.body.slot 0 0
    let u := s.body.udOfJob job
    let r := (shardOf (y.header u.shard)).commit
    picked s opCommit = some job ∧ y.skips = false ∧ s.body.flows s.own [(u.shard, 64)] = true ∧ Claims.slotsWhole s ∧ y.appliesDone = udCount y.image opApply ∧
    y.shards.any (·.1 == u.shard) = true ∧
    Claims.unguarded s (entryOf ctx0 0 0) [(u.shard, leBytes 8 (mkRec (recStep r + 1) false (!recSlot r)) ++ (y.header u.shard).drop 8)] ∧
    ((withSlot s fun y => { y with appliesDone := 1 }).body.slot 0 0).appliesDone ≠ udCount y.image opApply := by
  unfold Claims.slotsWhole Claims.unguarded
  decide +kernel
/-- A replica group of two members, this one of rank 0. -/
def group2 : ReplGroup := ⟨[6, 7], 0, 1, 0, 64⟩
/-- A COMPARE over group 0 of the shard's digests, left by an APPLY whose UD stands at 0x200. -/
def comparing : State :=
  withSlot (withPart (updating 4 0 1 1 0) fun p => { p with repl := p.repl.set 0 (some group2) }) fun y =>
    { y with
      image := img1 6 [(0x180, 1, 4), (0x19E, 2, 1), (0x200, 1, 3), (0x202, 1, 2), (0x208, 8, 0x400000), (0x238, 8, 0x500000)]
      digests := [(0, 0x200)] }
/-- The shard that it compares, its own job running. -/
def comparingOne : List Compared := (comparing.body.updQuad 0 fun q => { q with udQ := [], udRun := [job] }).compared ctx0
theorem witness_compare : let s := comparing
    let cs := comparingOne
    (s.body.pickUd 0 opCompare).map (fun r => r.1.compared ctx0) = some cs ∧ cs.length = 1 ∧ picked s opCompare = some job ∧ s.body.flows s.own (digestReads cs) = true ∧ (s.body.part 0).repl.getD 0 none = some group2 ∧ (s.body.slot 0 0).held = none ∧ s.body.mem.sound = true ∧
    (s.body.slot 0 0).decision = 1 ∧ (s.body.slot 0 0).step.toNat % (s.body.udOfJob job).every = 0 ∧
    differing group2 cs (ownDigests cs s.body.mem) [] = [] ∧ s.body.cores.length = 32 := by decide +kernel
theorem witness_compare_differs : let s := comparing
    let cs := comparingOne
    differing group2 cs (ownDigests cs s.body.mem) [[], [5, 0, 0, 0]] ≠ [] ∧ group2.repair = 0 ∧ (s.body.slot 0 0).run = .running := by
  decide +kernel
/-- A COMPARE that holds. -/
def holding : State := withQuad (withSlot comparing fun y => { y with run := .held, held := some [[], [5, 0, 0, 0]] }) fun q =>
  { q with udQ := [], udRun := [job] }
theorem witness_repl_repair : let s := holding
    s.body.heldOf 0 0 = some (0, 0, job) ∧ (s.body.part 0).repl.getD 0 none = some group2 ∧
    xArg (onPart0 2 0 (bytesOf 2 [(0, 2, 1)])) 0 2 < group2.members.length ∧ (s.body.compared ctx0).length = 1 ∧
    s.body.board.tripped = false ∧ Claims.slotsWhole s ∧
    (let x := onPart0 2 0 (bytesOf 2 [(0, 2, 1)]); let reads := digestReads (s.body.compared ctx0);
      ((((s.commandedWith 0x0204 x).repairFails s.own 0 0).ordered s.own reads).correctedIn s.own reads).firstBad s.own reads = none) := by
  unfold Claims.slotsWhole
  decide +kernel
/-- The repair of the held comparison with nothing copied, the other member's root after it as given. -/
def repairing (after : List (List W64)) : Bool :=
  let s := holding
  let x := onPart0 2 0 (bytesOf 2 [(0, 2, 1)])
  let cs := s.body.compared ctx0
  let own := ownDigests cs s.body.mem
  let others : List (List W64) := [[], [5, 0, 0, 0]]
  let reads := digestReads cs
  let b := (((s.commandedWith 0x0204 x).repairFails s.own 0 0).ordered s.own reads).correctedIn s.own reads
  (repair s.own (b.countReadsOf s.own reads) ctx0 0 0 group2 cs (differing group2 cs own others) own
    (targetDigest group2 own others false 1) [] after).2
/-- Its root once the device has digested the shard again. -/
def rootAgain : W64 := let c := comparingOne.getD 0 default
  fh64 (c.shard.digests holding.body.mem (c.shard.alternate c.shard.commit))
set_option maxRecDepth 1000000 in
theorem witness_repl_repair_ok : repairing [[], [rootAgain]] = true := by decide +kernel
set_option maxRecDepth 1000000 in
theorem witness_repl_repair_fails : repairing [[], [0]] = false := by decide +kernel
/-- A finished UD: a COMMIT; an APPLY with one live accumulator, whose partition has a harvest table; a COMPARE that a REPL_REPAIR
waits for. -/
theorem witness_ud_ends : let j := { job with done := true }
    let s := withQuad (launchedOn (updating 5 0 1 1 0) (launched 6 1 0 0x180 0)) fun q => { q with udQ := [], udRun := [j] }
    findJob (s.body.quad 0).udRun 0 0 = some j ∧ j.done = true ∧
    (s.body.core 0).cx.launched.find? (·.idx == 0) = some (launched 6 1 0 0x180 0) ∧ Claims.slotsWhole s ∧
    (s.body.udOfJob j).op ≠ opCompare ∧ (s.body.udOfJob j).op ≠ opApply ∧
    (let a := withPart (withQuad (launchedOn (updating 3 0 1 1 0) (launched 6 1 0 0x180 0)) fun q =>
        { q with udQ := [], udRun := [j], harv := [(ctx0, HarvAcc.new 5 1)] }) fun p => { p with harvTab := some 0x200000 };
      (a.body.udOfJob j).op = opApply ∧ (a.body.slot 0 0).skips = false ∧ a.body.mem.sound = true ∧
      ((a.body.quad 0).harv.filter (·.1 == ctx0)).map (·.2) = [HarvAcc.new 5 1] ∧ (a.body.part 0).harvTab = some 0x200000) ∧
    (let c := withSlot (withQuad comparing fun q => { q with udQ := [], udRun := [j] }) fun y => { y with replTicket := some tick0 };
      (c.body.udOfJob j).op = opCompare ∧ (c.body.slot 0 0).replTicket = some tick0 ∧ c.body.mail.length = 9 ∧
      ∀ m ∈ c.body.mail, m.length = 4) := by
  unfold Claims.slotsWhole
  decide +kernel
theorem witness_ud_stops : let s := withSlot (withQuad (updating 1 2 1 1 0) fun q => { q with udQ := [], udRun := [job] }) fun y =>
      { y with run := .stopping }
    findJob (s.body.quad 0).udRun 0 0 = some job ∧ job.done = false ∧ s.body.jobRun job = .stopping ∧ (s.body.udOfJob job).op = opNorm ∧
    s.body.cores.length = 32 := by
  decide +kernel

/-! ### Witnesses: fabric and collectives -/

theorem witness_fab_cfg : let s := storing ready 0x10018 (leBytes 4 0x2000000)
    let x := onModule 24 0 (bytesOf 24 [(0, 2, 6), (2, 1, 15), (3, 1, 1), (4, 2, 4095), (6, 1, 249), (8, 8, 0x10000), (16, 8, 0x20000)])
    s.takesModule x = true ∧ xArg x 7 1 = 0 ∧ inDram s.own (xArg x 8 8) 16384 = true ∧ inDram s.own (xArg x 16 8) 384 = true ∧
    xArg x 0 2 < 4096 ∧ xArg x 2 1 = 15 ∧ xArg x 3 1 = 1 ∧ xArg x 6 1 = 249 ∧ (∀ l, (s.body.link l).up = false) ∧
    (s.commandedWith 0x0301 x).firstBad s.own [(xArg x 8 8, 16384), (xArg x 16 8, 384)] = none ∧ s.body.board.tripped = false ∧
    s.body.fab.links.length = 24 ∧ s.body.fab.cfg.length = 24 ∧
    s.body.mem.le (xArg x 8 8 + 4 * xArg x 0 2) 4 = 2 ^ 25 ∧
    (∀ i, i < 24 → let r := linkRecAt s.body.mem (xArg x 16 8) i; r.role ≤ 3 ∧ r.link ≤ 23 ∧ r.rsv = 0) := by decide +kernel
theorem witness_fab_cfg_refused : let x := onModule 24 0 (bytesOf 24 [(0, 2, 6), (2, 1, 15), (3, 1, 1), (8, 8, 0x10000), (16, 8, 0xD800000000)])
    ready.takesModule x = true ∧ inDram ready.own (xArg x 16 8) 384 = false ∧
    (let u := withMem ready fun m => { m with poison := [0x10000] };
      (u.commandedWith 0x0301 x).firstBad u.own [(0x10000, 16384)] = some 0x10000) := by decide +kernel
set_option maxRecDepth 1000000 in
theorem witness_fab_table : ∀ i, i < 4096 → (storing ready 0x10018 (leBytes 4 0x2000000)).body.mem.le (0x10000 + 4 * i) 4 < 2 ^ 26 := by
  decide +kernel
theorem witness_link : let s := fabric
    s.takesModule (onModule 0 0 []) = true ∧ (s.body.link 0).state = .up ∧ (s.body.link 23).state = .off ∧
    (let t := withLink s (fun l => { l with state := .notReady, rtt := 1900 });
      (t.body.link 0).state = .notReady ∧ (t.body.linkCfg 0).expectId = 0 ∧ (t.body.link 0).rtt.toNat ≤ 1900) ∧
    (let t := withLink s (fun l => { l with state := .notReady, rtt := 1901 }); 1900 < (t.body.link 0).rtt.toNat) := by decide +kernel
theorem witness_link_mismatch : let s : State := withLink fabric fun l => { l with state := .notReady, peerId := 5 }
    let t : State := { s with body := s.body.updFab fun f => { f with cfg := f.cfg.modify 0 fun c => { c with expectId := 6 } } }
    (t.body.link 0).state = .notReady ∧ ¬ ((t.body.linkCfg 0).expectId = 0 ∨ (t.body.linkCfg 0).expectId = (t.body.link 0).peerId) := by
  decide +kernel
theorem witness_admit : let x := onPart0 6 0 (bytesOf 6 [(0, 1, 3), (2, 2, 1), (4, 2, 0x7FFF)])
    fabric.takesOn x 0 = true ∧ x.len = 4 + 2 * xArg x 2 2 ∧ xArg x 0 1 < 4 ∧ xArg x 1 1 = 0 ∧ xArg x 4 2 < 0x8000 := by decide +kernel
theorem witness_link_loss : (fabric.body.link 0).up = true ∧ (∀ p, (fabric.body.part p).admission = none) ∧
    (let s := withPart fabric (fun p => { p with admission := some (1, [5]) });
      (s.body.part 0).admission.isSome = true ∧ (s.body.part 0).events.length < 1024) := by decide +kernel
/-- A WRITE that has wholly arrived as its link is lost. -/
theorem witness_link_loss_delivers : let w : Msg := ⟨true, 1, 0xFF, 6, 0, 5, 0, 0x30000, 0xFF, 0, false, List.replicate 64 3⟩
    let s := withLink (withPart fabric fun p => { p with admission := some (3, [5]) }) fun l => { l with arrived := [(0, w)] }
    (s.body.link 0).up = true ∧ (s.body.link 0).arrived = [(0, w)] ∧ msgFormed w = true ∧
    routeLocal (s.body.fab.entry w.dstDev.toNat) = true ∧ s.body.stalls s.own w = false ∧ fabricCheck s.own s.body 0 w = none ∧
    s.body.mem.sound = true ∧ (∀ p i, (s.body.slot p i).invoke = none) := by decide +kernel
theorem witness_link_trains_up : let s := withLink fabric fun l => { l with state := .training }
    (s.body.link 0).state = .training ∧ s.body.fab.links.length = 24 ∧ s.body.fab.cfg.length = 24 ∧
    (let t := withLink s (fun l => { l with state := .notReady, enabled := true });
      (t.body.link 0).state = .notReady ∧ (t.body.link 0).enabled = true) := by decide +kernel
/-- A flit that carries nothing. -/
def idle0 : Flit := ⟨0, 0, false, 0, 0, 0, []⟩
/-- A block of five flits in sequence, the last with one granule on class 0. -/
def block0 : Block := ⟨0, 0, false, false, List.replicate 4 idle0 ++ [⟨1, 0, false, 1, 0, 0, List.replicate 8 0⟩]⟩
/-- The product of x + alpha^i for i below 33, highest power first: 33 of the syndromes of the word that ends in it are zero. -/
def near : List Nat := ((rsRoots.take 33).foldl (fun p r => gfAdd (0 :: p) (gfScale r p)) [1]).reverse
/-- The bytes of a word that lies within 32 symbols of no code word. -/
def lostBytes : List Byte := bytesOfSymbols 1120 (List.replicate 862 0 ++ near)
set_option maxRecDepth 1000000 in
theorem near_syndromes : rsSyndromes near = List.replicate 33 0 ++
    [542, 561, 823, 976, 805, 459, 327, 355, 161, 189, 854, 251, 856, 472, 938, 543, 606, 3, 721, 983, 817, 105, 258, 377, 403, 100,
      484, 229, 730, 854, 976] := by decide +kernel
set_option maxRecDepth 1000000 in
theorem lost_symbols : symbolsOf rsSymbols lostBytes = List.replicate 862 0 ++ near := by decide +kernel
set_option maxRecDepth 1000000 in
theorem lost_decode : rsDecode (List.replicate 862 0 ++ near) = none :=
  Laws.rsDecode_none ((Laws.rsSyndromes_zeros 862 near).trans near_syndromes) (by decide +kernel) (by decide +kernel)
theorem witness_block_lost : (fabric.body.link 0).up = true ∧ (fabric.body.link 0).decode (splitLanes lostBytes) = none :=
  ⟨by decide +kernel, by
    rw [Laws.decode_of_symbols ((congrArg _ (Laws.bytes_on_lanes (by decide +kernel) (by decide +kernel) (by decide +kernel)
      (by decide +kernel))).trans lost_symbols), lost_decode, Option.map_none]⟩
theorem witness_block_bad : (fabric.body.link 0).nakRun + 1 < 8 ∧
    8 ≤ ((withLink fabric fun l => { l with nakRun := 7 }).body.link 0).nakRun + 1 ∧
    (let y := (withLink fabric fun l => { l with nakOut := true, nakRun := 1 }).body.link 0; y.nakOut = true ∧ y.nakRun < 8) ∧
    ((withLink fabric fun l => { l with replays := List.replicate 65 1000 }).body.link 0).replaysOut = true ∧
    ((withLink fabric fun l => { l with state := .training }).body.link 0).state ≠ .up := by decide +kernel
set_option maxRecDepth 1000000 in
theorem zero_symbols : symbolsOf rsSymbols (List.replicate 1120 0) = List.replicate 896 0 ++ [] := by decide +kernel
set_option maxRecDepth 1000000 in
theorem zero_decode : rsDecode (List.replicate 896 0 ++ []) = some (0, List.replicate 896 0 ++ []) :=
  Laws.rsDecode_clean (by rw [Laws.rsSyndromes_zeros]; decide +kernel)
set_option maxRecDepth 1000000 in
theorem zero_block : blockOf (bytesOfSymbols 1120 (List.replicate 896 0 ++ [])) = ⟨0, 0, false, false, List.replicate 5 idle0⟩ := by
  decide +kernel
/-- Lanes of zeros spell an idle block. -/
theorem witness_block_idle : (fabric.body.link 0).decode (splitLanes (List.replicate 1120 0)) =
      some (0, ⟨0, 0, false, false, List.replicate 5 idle0⟩) ∧ blockPays ⟨0, 0, false, false, List.replicate 5 idle0⟩ = false ∧
    ((withLink fabric fun l => { l with nakOut := true }).body.link 0).nakOut = true :=
  ⟨by rw [Laws.decode_of_symbols ((congrArg _ (Laws.bytes_on_lanes (by decide +kernel) (by decide +kernel) (by decide +kernel)
      (by decide +kernel))).trans zero_symbols), zero_decode, Option.map_some, zero_block], by decide +kernel⟩
/-- The parity of that block, and its bytes. -/
def bytes0 : List Byte := List.replicate 838 0 ++ [0x40, 0x40] ++ List.replicate 200 0 ++ leBytes 80
  (0x97e62229b504a174e0e9774593876108be297dd2d65eebbf869e127530498d1c2f6937c223b1ddeb * 2 ^ 320 +
    0xa728d2327b236ce4d905ed843866deb3ed284508533d3eb4f45a0c8c87d5c322f43d4b26eece892e)
/-- Its symbols from the first that is not zero. -/
def tail0 : List Nat := (symbolsOf 896 bytes0).drop 670
set_option maxRecDepth 1000000 in
theorem block_symbols : symbolsOf rsSymbols bytes0 = List.replicate 670 0 ++ tail0 := by decide +kernel
set_option maxRecDepth 1000000 in
theorem block_decode : rsDecode (List.replicate 670 0 ++ tail0) = some (0, List.replicate 670 0 ++ tail0) :=
  Laws.rsDecode_clean (by rw [Laws.rsSyndromes_zeros]; decide +kernel)
set_option maxRecDepth 1000000 in
theorem block_bytes : blockOf (bytesOfSymbols 1120 (List.replicate 670 0 ++ tail0)) = block0 := by decide +kernel
/-- The paying block's lanes are decoded to it. -/
theorem witness_block : (fabric.body.link 0).decode (splitLanes bytes0) = some (0, block0) ∧ blockPays block0 = true ∧
    block0.seq = 0 ∧ (fabric.body.link 0).rxAny = false ∧ block0.ackv = false ∧ block0.nak = false ∧
    ((withLink fabric fun l => { l with rxRes := List.replicate 6 128 }).body.link 0).flitsIn block0.flits ≠ none :=
  ⟨by rw [Laws.decode_of_symbols ((congrArg _ (Laws.bytes_on_lanes (by decide +kernel) (by decide +kernel) (by decide +kernel)
      (by decide +kernel))).trans block_symbols), block_decode, Option.map_some, block_bytes], by decide +kernel⟩
theorem witness_replay : let s := withLink fabric fun l => { l with replayQ := [block0] }
    (s.body.link 0).state = .up ∧ (s.body.link 0).replayQ = [block0] := by decide +kernel
/-- A WRITE from partition 0 of device 5. -/
def write0 (evt : Byte) : Msg := ⟨true, 1, evt, 6, 0, 5, 0, 0x30000, 0xFF, 0, false, List.replicate 64 3⟩
/-- The fabric module with a partition that admits it. -/
def admitting : State := withPart fabric fun p => { p with admission := some (3, [5]) }
theorem witness_message : let m := write0 0xFF
    let s := arrived admitting 0 m
    ((s.body.link 0).takeMsg m).isSome = true ∧ m.op = 1 ∧ ({ m with op := 4 } : Msg).op = 4 ∧ s.body.fab.links.length = 24 ∧
    msgFormed m = true ∧ s.body.stalls s.own m = false ∧
    (withBoard s fun b => { b with tripped := true }).body.stalls s.own m = true ∧
    routeLocal (s.body.fab.entry m.dstDev.toNat) = true ∧ Claims.slotsWhole s ∧
    (s.body.part m.dstPart).admits m = true ∧ netCheck s.own s.body (.fabric m.dstPart 0) m.addr.toNat m.data.length = none ∧
    protectedHit s.body m.addr.toNat m.data.length = none ∧ s.body.mem.sound = true := by
  unfold Claims.slotsWhole
  decide +kernel
theorem witness_message_forwarded : let m : Msg := { write0 0xFF with dstDev := 7, hops := 2 }
    let s := arrived admitting 0 m
    ((s.body.link 0).takeMsg m).isSome = true ∧ s.body.stalls s.own m = false ∧ msgFormed m = true ∧
    routeLocal (s.body.fab.entry m.dstDev.toNat) = false ∧ 1 < m.hops ∧ (write0 0xFF).hops ≤ 1 := by decide +kernel
theorem witness_message_event : let s := withPart (withSlot (running imgWait) fun y => { y with invoke := some tick0 }) fun p => p
    s.body.eventSlot 0 = some 0 ∧ (write0 1).evt ≠ 0xFF := by decide +kernel
theorem witness_message_refused : (fabric.body.part 0).admits (write0 0xFF) = false ∧ (fabric.body.part 0).events.length < 1024 := by
  decide +kernel
theorem witness_message_malformed : msgFormed { write0 0xFF with good := false } = false ∧
    msgFormed { write0 0xFF with addr := 0x30FC0, data := List.replicate 128 3 } = false := by decide +kernel
theorem witness_resp : let m : Msg := { write0 0xFF with op := 6, core := 0, data := [] }
    let s : State := arrived { running imgWait with body := (withSlot (running imgWait) fun y => { y with invoke := some tick0 }).body.updFab fun _ =>
      fabric.body.fab } 4 m
    ((s.body.link 0).takeMsg m).isSome = true ∧ msgFormed m = true ∧ routeLocal (s.body.fab.entry m.dstDev.toNat) = true ∧
    (s.body.core (Fin.ofNat 32 m.core.toNat)).ctx = some ctx0 ∧ (s.body.slot 0 0).invoke.isSome = true ∧
    (s.body.part 0).events.length < 1024 := by decide +kernel
/-- A Sync of sequence number 1, then its follow-up, on a slave port of a module that is not the grandmaster. -/
def ptpMsg (typ : Nat) : Msg := { write0 0xFF with op := 5, addr := 1, data := bytesOf 48 [(0, 1, typ), (31, 1, 1)] }
/-- A fabric whose port 0 is a slave, and whose grandmaster is another module. -/
def slavePort : State := { fabric with body := fabric.body.updFab fun f =>
  { f with gm := 5, cfg := f.cfg.modify 0 fun c => { c with role := 2 } } }
theorem witness_ptp :
    let s (typ : Nat) : State := arrived (withLink slavePort fun l => { l with ptp := { l.ptp with sync := some (1, 7) } }) 4 (ptpMsg typ)
    msgFormed (ptpMsg 0) = true ∧ (ptpMsg 0).addr.toNat % 256 = 1 ∧
    (((s 0).body.link 0).takeMsg (ptpMsg 0)).isSome = true ∧ (((s 8).body.link 0).takeMsg (ptpMsg 8)).isSome = true ∧
    beField (ptpMsg 0).data 0 1 % 16 = 0 ∧ beField (ptpMsg 8).data 0 1 % 16 = 8 ∧ beField (ptpMsg 8).data 30 2 = 1 ∧
    ((s 8).body.link 0).ptp.sync = some (1, 7) ∧ ((s 0).body.linkCfg 0).role = 2 ∧ (fabric.body.linkCfg 0).role = 0 ∧
    (s 8).body.fab.devId ≠ some (BitVec.truncate 12 (s 8).body.fab.gm) ∧ routeLocal ((s 8).body.fab.entry 6) = true := by decide +kernel
/-- A delay request, its answer and the answer's follow-up, for a request that is out. -/
theorem witness_ptp_delay :
    let s := withLink slavePort fun l => { l with ptp := { l.ptp with req := some (1, 7), resp := some (9, 12) }, txq := List.replicate 6 [] }
    beField (ptpMsg 2).data 0 1 % 16 = 2 ∧ beField (ptpMsg 3).data 0 1 % 16 = 3 ∧ beField (ptpMsg 10).data 0 1 % 16 = 10 ∧
    (s.body.link 0).ptp.req = some (1, 7) ∧ (s.body.link 0).ptp.resp = some (9, 12) ∧ (1 : W16) = BitVec.ofNat 16 (beField (ptpMsg 3).data 30 2) ∧
    (s.body.linkCfg 0).role ≠ 0 ∧ (s.body.link 0).up = true ∧ (s.body.link 0).txq.length = 6 := by decide +kernel
theorem witness_ptp_sync : let s (at_ : Nat) (role : Byte) : State := { fabric with body := fabric.body.updFab fun f =>
      { f with syncAt := at_, cfg := f.cfg.modify 0 fun c => { c with role := role } } }
    (s 1000 1).body.fab.syncDue = true ∧ (s 1001 1).body.fab.syncDue = false ∧ ((s 0 1).body.link 0).up = true ∧
    ((s 0 1).body.linkCfg 0).role = 1 ∧ ((s 0 2).body.linkCfg 0).role = 2 ∧ ((s 0 0).body.linkCfg 0).role = 0 ∧
    ((s 0 1).body.link 0).txq.length = 6 ∧ ((s 0 1).body.link 1).up = false := by decide +kernel

/-- A group of two, this member of rank 0. -/
def coll2 : CollGroup := ⟨2, 1, 2, 1, 1, 0, [1, 2, 0, 0, 0, 0], [48, 56]⟩
theorem witness_coll_cfg : let x := onPart0 44 15 (bytesOf 44 [(0, 2, 2), (2, 1, 1), (4, 2, 2), (6, 2, 1), (8, 2, 1), (0xA, 2, 1), (0xC, 4, 1),
      (0x10, 4, 0xFFFFFE), (0x24, 8, 24 * 2 ^ 30 - 4)])
    ready.takesOn x 0 = true ∧ xArg x 3 1 = 0 ∧ xArg x 0 2 = 2 ∧ xArg x 2 1 = 1 ∧ xArg x 4 2 = xArg x 0 2 ∧ xArg x 6 2 = 1 ∧ xArg x 8 2 = 1 ∧
    xArg x 0xA 2 < xArg x 0 2 ∧ (∀ i, i < 6 → xArg x (0xC + 4 * i) 4 < 2 ^ 24) ∧ xArg x 0xC 4 ≠ 0 ∧ xArg x 0x10 4 ≠ 0 ∧
    (∀ d, d < 3 → xArg x (0xC + 8 * d) 4 &&& xArg x (0x10 + 8 * d) 4 = 0) ∧ ready.own.inData 0 (xArg x 0x24 8) (2 * xArg x 0 2) = true ∧
    (ready.body.part 0).collecting x.arg0 = false ∧ (∀ i, i < xArg x 0 2 → ready.body.mem.le (xArg x 0x24 8 + 2 * i) 2 < 0x8000) ∧
    (ready.commandedWith 0x0306 x).firstBad ready.own [(xArg x 0x24 8, 2 * xArg x 0 2)] = none ∧ ready.body.board.tripped = false ∧
    (ready.body.part 0).coll.length = 16 := by decide +kernel
/-- A BARRIER over group 0. -/
def imgColl : List Byte := img1 4 [(0x180, 1, 5)]
/-- The COLL of entry 0 of core 0, queued or started. -/
def collRun (started : Bool) : CollRun := ⟨0, ctx0, 0, 0, 1, 0x180, started, [], [], [], []⟩
/-- A partition whose group 0 is configured and has the COLL. -/
def collecting (started : Bool) : State :=
  withPart (launchedOn (running imgColl) (launched 4 1 0 0x180 0)) fun p => { p with coll := p.coll.set 0 (some coll2), collRuns := [collRun started] }
theorem witness_coll : Claims.fetched (running imgColl) 0 ∧ (running imgColl).body.nextAe 0 kColl = some (ctx0, ⟨4, 1, 0, 0, 0x180⟩) ∧ (running imgColl).body.mayLaunch 0 = true := by
  unfold Claims.fetched
  decide +kernel
theorem witness_coll_start : let s := collecting false
    let c := cdOf (s.body.imageOf ctx0) 0x180
    (s.body.part 0).collRuns.find? (·.group == 0) = some (collRun false) ∧ (s.body.part 0).coll.getD 0 none = some coll2 ∧
    s.body.collsRunning < 4 ∧ (s.body.slot 0 0).run = .running ∧ c.op ≠ cdPermute ∧ (∀ h ∈ (s.body.part 0).collHeld, h.group ≠ 0) ∧
    ((collecting true).body.part 0).collRuns.find? (·.group == 0) = some (collRun true) := by decide +kernel
/-- A PERMUTE of one place of 128 bytes a member. -/
def permuting : State := withSlot (collecting false) fun y => { y with image := img1 4 [(0x180, 1, 4), (0x188, 8, 0x20000), (0x190, 8, 0x30000)] }
theorem witness_permute_start : let c := cdOf (permuting.body.imageOf ctx0) 0x180
    c.op = cdPermute ∧ permuting.body.mem.sound = true ∧ (permuting.body.part 0).collRuns.find? (·.group == 0) = some (collRun false) := by
  decide +kernel
/-- Bytes for rank 1 that wait for its start notice. -/
def held1 : CollHeld := ⟨ctx0, 0, ⟨none, 1, 0x20000, 0, [7]⟩⟩
/-- A notice of member 1 of group 0, and the partition that admits its device's COLLs. -/
def peer1 : CollPeer := ⟨0, 0, 1, 0, 0, 0x30000⟩
def joined (started : Bool) : State := withPart (collecting started) fun p => { p with admission := some (3, [48, 56]) }
theorem witness_coll_notice : let s := joined false
    (s.body.part 0).coll.getD 0 none = some coll2 ∧ peer1.rank < coll2.n ∧
    fabricCheck s.own s.body peer1.link (noticeMsg peer1 s.body coll2) = none ∧ (s.body.part 0).collHeld = [] ∧
    (∀ r ∈ (s.body.part 0).collRuns, ¬ (r.group = 0 ∧ r.started = true)) ∧
    (let u := withPart s fun p => { p with collHeld := [held1] };
      (∃ h ∈ (u.body.part 0).collHeld, h.group = 0 ∧ h.send.rank = 1) ∧
      fabricCheck u.own u.body peer1.link (noticeMsg peer1 u.body coll2) = none) ∧
    fabricCheck (collecting false).own (collecting false).body peer1.link (noticeMsg peer1 (collecting false).body coll2) ≠ none := by
  decide +kernel
/-- A read-out notice of place 0 for the running COLL. -/
theorem witness_readout : let s := joined true
    (∃ r ∈ (s.body.part 0).collRuns, r.group = 0 ∧ r.started = true) ∧
    fabricCheck s.own s.body peer1.link (noticeMsg peer1 s.body coll2) = none ∧
    (∀ r ∈ (s.body.part 0).collRuns, let c := cdOf (s.body.imageOf r.ctx) r.ref;
      r.awaits c coll2 (ptabOf (s.body.imageOf r.ctx) c.ptab) 0 = false) := by
  decide +kernel
/-- A PERMUTE of two places, exchanged between the members, awaits the read-out of the other's. -/
theorem witness_awaits : let c := cdOf (permuting.body.imageOf ctx0) 0x180
    c.op = cdPermute ∧ ([0, 1].any fun place => (collRun true).awaits { c with maxRun := 2 } coll2 ⟨2, 1, [1, 0]⟩ place) = true := by
  decide +kernel
/-- A BARRIER ends once the other member has started. -/
theorem witness_coll_ends : let s := withPart (collecting true) fun p => { p with collNotices := [(0, 1)] }
    let c := cdOf (s.body.imageOf ctx0) 0x180
    (s.body.part 0).collRuns.find? (fun r => r.group == 0 && r.started) = some (collRun true) ∧ (s.body.part 0).coll.getD 0 none = some coll2 ∧
    (s.body.core 0).cx.launched.find? (·.idx == 0) = some (launched 4 1 0 0x180 0) ∧ Claims.slotsWhole s ∧ c.op = cdBarrier ∧
    collReady s.body 0 0 coll2 (collRun true) = true ∧ collReady (collecting true).body 0 0 coll2 (collRun true) = false ∧
    s.body.flows s.own [(c.src, c.srcBytes), (c.dst, c.dstBytes)] = true ∧
    Claims.unguarded s (entryOf ctx0 0 0) ((c.staged.map fun st => (st.1, freeBytes s.body.free st.2)) ++
      c.result coll2 fun k => if k = coll2.rank then s.body.mem.bytes c.src (c.inputBytes coll2.rank) else ([] : List Byte).take (c.inputBytes k)) := by
  unfold Claims.slotsWhole Claims.unguarded
  decide +kernel
/-! ### Witnesses: media -/

theorem witness_media_cfg : let x := onPart0 32 0 (bytesOf 32 [(0, 4, 1), (4, 4, 1), (8, 2, 16), (0x18, 8, 1024)])
    ready.takesOn x 0 = true ∧ zeros x.args 0xA 6 = true ∧ ready.own.inData 0 (xArg x 0x10 8) (xArg x 0x18 8) = true ∧ 1 ≤ xArg x 0 4 ∧
    xArg x 0 4 ≤ 2 ^ 28 ∧ 1 ≤ xArg x 4 4 ∧ xArg x 4 4 ≤ 2 ^ 28 ∧ 16 ≤ xArg x 8 2 ∧ (ready.body.part 0).mjs = [] ∧
    xArg x 0 4 * 16 * ((ready.own.prec 0).block.nImg + (ready.own.prec 0).block.nVdec) ≤ xArg x 0x18 8 := by decide +kernel
theorem witness_media_stream :
    let x := onPart0 44 15 (bytesOf 44 [(8, 4, 1), (0x1C, 4, 65536), (0x20, 8, 24 * 2 ^ 30 - 64 * 65536), (0x28, 4, 1024)])
    ready.takesOn x 0 = true ∧ ready.own.inData 0 (xArg x 0 8) (16 * xArg x 8 4) = true ∧
    ready.own.ownsMem 0 (xArg x 0x20 8) (64 * xArg x 0x1C 4) = true ∧ 1 ≤ xArg x 8 4 ∧ xArg x 0x18 4 < xArg x 8 4 ∧
    ringOk (xArg x 0x1C 4) = true ∧ 1024 ≤ xArg x 0x28 4 ∧ (∀ m ∈ (ready.body.part 0).mjs, m.ofStream x.arg0 = false) ∧
    ready.body.parts.length = 8 ∧ (ready.body.part 0).streams.length = 16 := by decide +kernel
theorem witness_media_vocab : let x := onPart0 12 0 (bytesOf 12 [(0, 8, 24 * 2 ^ 30 - 16), (8, 4, 16)])
    ready.takesOn x 0 = true ∧ ready.own.ownsMem 0 (xArg x 0 8) (xArg x 8 4) = true ∧ 16 ≤ xArg x 8 4 ∧
    (∀ m ∈ (ready.body.part 0).mjs, m.unit ≠ 4) := by decide +kernel
/-- Alignment set 3 with one input of 1,024 B16 elements in a ring of two records. -/
def alignArgs : List Byte := bytesOf 64 [(0, 1, 1), (1, 1, 1), (2, 1, 2), (4, 4, 1000), (0x20, 8, 0x1000), (0x28, 4, 2), (0x2C, 2, 1024),
  (0x2E, 1, 8), (0x30, 8, 0x40), (0x38, 8, 0x48)]
theorem witness_media_align : let x := onPart0 64 3 alignArgs
    let n := alignInOf x.args 0
    ready.takesOn x 0 = true ∧ x.len = 32 + 32 * xArg x 0 1 ∧ zeros x.args 3 1 = true ∧ zeros x.args 0x1A 6 = true ∧ xArg x 1 1 ≤ 1 ∧
    xArg x 2 1 ≤ 2 ∧ 1000 ≤ xArg x 4 4 ∧ xArg x 4 4 ≤ 1000000000 ∧ xArg x 8 4 ≤ 1000000000 ∧ xArg x 0 1 = 1 ∧
    zeros x.args 0x2F 1 = true ∧ n.fmt = 8 ∧ ready.own.ownsMem 0 n.ring (n.rlen * n.recBytes) = true ∧
    ready.own.ownsMem 0 n.widx 8 = true ∧ ready.own.ownsMem 0 n.ridx 8 = true ∧ n.rlen = 2 ^ 1 ∧ 1 ≤ n.es ∧ n.es ≤ 1024 := by decide +kernel
/-- An encode session's block: profile 1, 64 by 64, its buffer at an address. -/
def sessionArgs (buf : Nat) : List Byte := bytesOf 48 [(0, 1, 1), (3, 1, 1), (4, 2, 64), (6, 2, 64), (8, 4, 1), (0xC, 4, 1), (0x1E, 1, 51),
  (0x20, 4, 1), (0x24, 4, 6144), (0x28, 8, buf)]
theorem witness_media_encode : let x := onPart0 48 7 (sessionArgs 0)
    let e := sessionOf x.args
    ready.takesOn x 0 = true ∧ ready.own.inData 0 e.refBuf 1 = true ∧ e.inRange = true ∧
    (∀ m ∈ (ready.body.part 0).mjs, m.session ≠ some x.arg0) ∧ ready.own.inData 0 e.refBuf e.refBytes = true := by decide +kernel
theorem witness_media_encode_fit : let e := sessionOf (sessionArgs (24 * 2 ^ 30 - 64))
    ready.own.inData 0 e.refBuf 1 = true ∧ e.inRange = true ∧ ready.own.inData 0 e.refBuf e.refBytes = false := by decide +kernel
/-- A vocabulary file of one merge, of a given left part, at 0x40. -/
def vocabAt (l : Nat) : State :=
  withPart (storing ready 0x40 (bytesOf 24 [(0, 4, 1), (4, 4, 5), (8, 4, 6), (12, 1, 1), (16, 4, l), (20, 4, 255)])) fun p =>
    { p with vocabReqs := [(0x40, 24, tick0)] }
theorem witness_vocab : let s := vocabAt 255
    (s.body.part 0).vocabReqs = [(0x40, 24, tick0)] ∧ s.body.clocked = true ∧ s.body.stewardUp = true ∧ s.body.flows s.own [(0x40, 24)] = true ∧
    (withBoard s fun b => { b with tripped := true }).body.flows s.own [(0x40, 24)] = false ∧
    s.body.readRefused s.own (.media 0 0 0) [(0x40, 24)] = none ∧ s.body.firstBad s.own [(0x40, 24)] = none ∧ s.body.mem.le (0x40 + 13) 3 = 0 ∧ s.body.mem.le 0x40 4 = 1 ∧
    s.body.mem.le (0x40 + 12) 1 = 1 ∧ mergesAt s.body.mem (0x40 + 16) 1 = [(255, 255)] := by decide +kernel
/-- A file that begins where the partition's DRAM ends is refused. -/
theorem witness_vocab_refused : (ready.body.readRefused ready.own (.media 0 0 0) [(24 * 2 ^ 30, 16)]).isSome = true ∧
    ready.body.flows ready.own [(24 * 2 ^ 30, 16)] = true := by decide +kernel
theorem witness_vocab_bad : mergesAt (vocabAt 256).body.mem (0x40 + 16) 1 = [(256, 255)] := by decide +kernel

/-- The almanac of one media entry, without batch-table lists. -/
def imgMedia (desc : List (Nat × Nat × Nat)) : List Byte :=
  let i := img1 5 desc
  i.take 0x1C ++ leBytes 2 0 ++ i.drop 0x1E
/-- A text MJ of one slot of eight tokens. -/
def imgText : List Byte := imgMedia [(0x180, 1, 4), (0x184, 2, 1), (0x188, 4, 8192), (0x190, 4, 8), (0x194, 4, 1), (0x1A0, 8, 0x20000),
  (0x1A8, 4, 64), (0x1B0, 8, 0x21000), (0x1CC, 4, 0xFFFFFFFF)]
/-- Stream 0 of one sample of two letters. -/
def stream0 : Stream := { Stream.reset with configured := true, indexBase := 0x30000, n := 1, paramRing := 1, mean := 1024, mean0 := 1024 }
/-- A running invocation of an image, stream 0 configured over its sample. -/
def media (img : List Byte) (fmt : Nat) : State :=
  withPart (storing (running img) 0x30000 (bytesOf 66 [(0, 8, 0x30040), (8, 4, 2), (12, 1, fmt), (64, 1, 0x61), (65, 1, 0x62)])) fun p =>
    { p with streams := p.streams.set 0 stream0, vocab := ⟨true, 0xFFFFFFFF, 0xFFFFFFFF, 0, []⟩ }
theorem witness_media_issue : let s := media imgText 0x20
    let j := mjOf (s.body.imageOf ctx0) 0x180
    Claims.fetched s 0 ∧ s.body.nextAe 0 kMedia = some (ctx0, ⟨5, 1, 0, 0, 0x180⟩) ∧ s.body.mayLaunch 0 = true ∧ Claims.slotsWhole s ∧ j.unit ≠ 5 ∧ j.encodes = false ∧
    j.stream < (s.body.part 0).streams.length := by
  unfold Claims.slotsWhole Claims.fetched
  decide +kernel
/-- An alignment MJ without a flag bitmap: none refuses it. -/
theorem witness_align_issue : let img := imgMedia [(0x180, 1, 5), (0x181, 1, 9), (0x182, 1, 3), (0x184, 2, 1), (0x1CC, 4, 0xFFFFFFFF)]
    let j := mjOf img 0x180
    (running img).body.nextAe 0 kMedia = some (ctx0, ⟨5, 1, 0, 0, 0x180⟩) ∧ j.unit = 5 ∧ j.stream = 3 ∧
    j.bitmapRefused ((running img).body.part 0) 0 = none ∧ ((running img).body.part 0).aligns.length = 4 := by decide +kernel
/-- The slot of the MJ. -/
def mslot (started done : Bool) : MediaSlot := ⟨0, 0, 0, started, done, false, 0, 0⟩
/-- An MJ of entry 0 of core 0. -/
def mrun (img : List Byte) (started : Bool) (budget : Nat) (sl : MediaSlot) : MjRun :=
  { MjRun.new ctx0 0 0 ⟨5, 1, 0, 0, 0x180⟩ (mjOf img 0x180) 0 0 [sl] with started := started, budget := budget }
/-- The state that holds one MJ. -/
def mediaRun (img : List Byte) (fmt : Nat) (m : MjRun) : State :=
  withPart (launchedOn (media img fmt) (launched 5 1 0 0x180 0)) fun p => { p with mjs := [m] }
/-- The refusals of the media commands: a reserved byte, memory that is another's, a field just out of range, one in use, too little room. -/
theorem witness_media_cfg_refused : let cfg (ps : List (Nat × Nat × Nat)) := onPart0 32 0 (bytesOf 32 ([(0, 4, 1), (4, 4, 1), (8, 2, 16), (0x18, 8, 32)] ++ ps))
    zeros (cfg [(0xF, 1, 1)]).args 0xA 6 = false ∧ ready.own.inData 0 (xArg (cfg [(0x10, 8, 24 * 2 ^ 30 - 31)]) 0x10 8) 32 = false ∧
    ready.own.inData 0 (xArg (cfg []) 0x10 8) 32 = true ∧ ¬ 16 ≤ xArg (cfg [(8, 2, 15)]) 8 2 ∧ ¬ xArg (cfg [(0, 4, 2 ^ 28 + 1)]) 0 4 ≤ 2 ^ 28 ∧
    (ready.own.prec 0).block.nImg + (ready.own.prec 0).block.nVdec = 2 ∧ ¬ xArg (cfg [(0x18, 8, 31)]) 0 4 * 16 * 2 ≤ 31 ∧
    ((mediaRun imgText 0x20 (mrun imgText false 0 (mslot false false))).body.part 0).mjs ≠ [] := by decide +kernel
theorem witness_media_stream_refused : let st (ps : List (Nat × Nat × Nat)) := onPart0 44 0 (bytesOf 44 ([(8, 4, 1), (0x1C, 4, 1), (0x28, 4, 1024)] ++ ps))
    ready.own.inData 0 (xArg (st [(0, 8, 24 * 2 ^ 30)]) 0 8) 16 = false ∧ ready.own.inData 0 0 16 = true ∧
    ready.own.ownsMem 0 (xArg (st [(0x20, 8, 24 * 2 ^ 30)]) 0x20 8) 64 = false ∧ ready.own.ownsMem 0 0 64 = true ∧
    xArg (st [(0x18, 4, 1)]) 8 4 ≤ xArg (st [(0x18, 4, 1)]) 0x18 4 ∧ xArg (st [(0x28, 4, 1023)]) 0x28 4 < 1024 ∧ ringOk 3 = false ∧
    (∃ m ∈ ((mediaRun imgText 0x20 (mrun imgText false 0 (mslot false false))).body.part 0).mjs, m.ofStream 0 = true) := by decide +kernel
theorem witness_media_encode_refused : ready.own.inData 0 (sessionOf (sessionArgs (24 * 2 ^ 30))).refBuf 1 = false ∧
    (sessionOf ((sessionArgs 0).set 0x1E 52)).inRange = false ∧
    (∃ m ∈ ((mediaRun imgText 0x20 { mrun imgText false 0 (mslot false false) with session := some 7 }).body.part 0).mjs, m.session = some 7) ∧
    (∃ m ∈ ((mediaRun imgText 0x20 (mrun imgText false 0 (mslot false false))).body.part 0).mjs, m.unit = 4) := by decide +kernel
theorem witness_media_align_refused : let al (ps : List (Nat × Nat × Nat)) := alignArgs.mapIdx fun i v => ((ps.find? (·.1 == i)).map fun r => BitVec.ofNat 8 r.2.2).getD v
    zeros (al [(3, 1, 1)]) 3 1 = false ∧ (alignInOf (al [(0x2E, 1, 7)]) 0).fmt = 7 ∧ xArg (onPart0 64 3 (al [(2, 1, 3)])) 2 1 = 3 ∧
    ready.own.ownsMem 0 (24 * 2 ^ 30) 8 = false := by decide +kernel
theorem witness_mj_start : let m := mrun imgText false 0 (mslot false false)
    let s := mediaRun imgText 0x20 m
    s.body.mjRunOf 0 0 0 = some m ∧ s.body.mjReady s.own 0 m = true ∧ s.body.mjsRunning < 32 ∧
    s.body.mjBehind s.own m = false ∧ m.session = none ∧
    (∀ n ∈ (s.body.part 0).mjs, n.same m = true → n = m) := by decide +kernel
/-- An MJ behind an earlier one that may start. -/
theorem witness_mj_behind : let m : MjRun := { mrun imgText false 0 (mslot false false) with arrival := 1, idx := 1 }
    let s := withPart (mediaRun imgText 0x20 (mrun imgText false 0 (mslot false false))) fun p => { p with mjs := p.mjs ++ [m] }
    s.body.mjBehind s.own m = true ∧ s.body.mjRunOf 0 0 1 = some m := by decide +kernel
theorem witness_mj_not_ready : let m := mrun imgText true 0 (mslot false false)
    let s := mediaRun imgText 0x20 m
    s.body.mjRunOf 0 0 0 = some m ∧ s.body.mjReady s.own 0 m = false := by decide +kernel
theorem witness_mj_ends : let m := mrun imgText true 8192 (mslot true true)
    let s := mediaRun imgText 0x20 m
    s.body.mjRunOf 0 0 0 = some m ∧ (∀ k ∈ m.slots, k.done = true) ∧ Claims.slotsWhole s ∧
    (s.body.core 0).cx.launched.find? (·.idx == 0) = some (launched 5 1 0 0x180 0) := by
  unfold Claims.slotsWhole
  decide +kernel
/-- The outcome of a slot in work, at index 0. -/
def outcome (s : State) (m : MjRun) (k : MediaSlot) : SlotOut :=
  match s.body.slotWork s.own 0 m 0 k with
  | .made r => r
  | .waits | .unreadable _ => voidOut 0 0
/-- The text slot in work. -/
def textRun (budget : Nat) : MjRun := mrun imgText true budget (mslot true false)
/-- Two letters take 2,048 + 1 media cycles: below a budget of 2,050, and at a budget of 2,049 (R354, R359). -/
theorem witness_slot_ends : let s := mediaRun imgText 0x20 (textRun 2050)
    Claims.slotsWhole s ∧ s.body.workingSlot 0 0 0 0 = some (textRun 2050, mslot true false) ∧
    (outcome s (textRun 2050) (mslot true false)).exhausts 2050 = false ∧ (outcome s (textRun 2050) (mslot true false)).ids = [97, 98] ∧
    (∀ n ∈ (s.body.part 0).mjs, n.same (textRun 2050) = true → n = textRun 2050) := by
  unfold Claims.slotsWhole
  decide +kernel
/-- The slot's unit makes something of it. -/
def isMade (s : State) (m : MjRun) (k : MediaSlot) : Bool :=
  match s.body.slotWork s.own 0 m 0 k with
  | .made _ => true
  | .waits | .unreadable _ => false
theorem slotWork_of_made (s : State) (m : MjRun) (k : MediaSlot) (h : isMade s m k = true) :
    s.body.slotWork s.own 0 m 0 k = .made (outcome s m k) := by
  unfold isMade at h
  unfold outcome
  split at h <;> simp_all
theorem witness_slot_work : let s := mediaRun imgText 0x20 (textRun 2050)
    s.body.slotWork s.own 0 (textRun 2050) 0 (mslot true false) = .made (outcome s (textRun 2050) (mslot true false)) :=
  slotWork_of_made _ _ _ (by decide +kernel)
/-- On a tripped module the slot waits. -/
theorem witness_slot_waits : let s := withBoard (mediaRun imgText 0x20 (textRun 2050)) fun b => { b with tripped := true }
    s.body.slotWork s.own 0 (textRun 2050) 0 (mslot true false) = .waits := by
  intro s
  have h : s.body.flows s.own (((s.body.mjDesc (textRun 2050)).slotAt 0, (s.body.mjDesc (textRun 2050)).slotBytes) ::
      (s.body.slotSources s.own 0 (textRun 2050) (mslot true false)).2) = false := by decide +kernel
  unfold Body.slotWork
  simp only [h, Bool.not_false, if_true]
theorem witness_slot_unguarded : let s := mediaRun imgText 0x20 (textRun 2050)
    let j := s.body.mjDesc (textRun 2050)
    let res := s.body.slotOut s.own (textRun 2050) 0 (outcome s (textRun 2050) (mslot true false))
    let r := statusRecord res.status res.vals.isNone res.trunc (s.body.slotSources s.own 0 (textRun 2050) (mslot true false)).1.index 0 0
      res.damage res.conceal res.cycles res.len
    Claims.unguarded s (.media 0 0 0) ((j.stat + 32 * 0, r) :: s.body.slotWrites (textRun 2050) 0 res) := by
  unfold Claims.unguarded
  decide +kernel
theorem witness_slot_spent : let s := mediaRun imgText 0x20 (textRun 2049)
    s.body.workingSlot 0 0 0 0 = some (textRun 2049, mslot true false) ∧ (outcome s (textRun 2049) (mslot true false)).exhausts 2049 = true := by
  decide +kernel
/-- The word that a slot in work cannot read. -/
def unreadOf (w : SlotWork) : Option Nat :=
  match w with
  | .unreadable a => some a
  | .waits | .made _ => none
theorem unreadOf_some (w : SlotWork) (h : (unreadOf w).isSome = true) : ∃ a, w = .unreadable a := by
  cases w <;> simp_all [unreadOf]
/-- A sample whose first word is unreadable ends in the fault of its core. -/
theorem witness_slot_unreadable : let s := withMem (mediaRun imgText 0x20 (textRun 2050)) fun m => { m with poison := [0x30040] }
    ∃ w, s.body.slotWork s.own 0 (textRun 2050) 0 (mslot true false) = .unreadable w :=
  unreadOf_some _ (by decide +kernel)

/-- A video MJ of one frame of 16 by 32 in bands of 16 rows, counted on event 2. -/
def imgVideo : List Byte := imgMedia [(0x180, 1, 2), (0x181, 1, 9), (0x184, 2, 1), (0x188, 4, 8192), (0x18E, 2, 1), (0x190, 4, 16), (0x194, 4, 32),
  (0x1A0, 8, 0x20000), (0x1A8, 4, 2048), (0x1B0, 8, 0x21000), (0x1CC, 4, 0xFFFFFFFF), (0x1D2, 2, 1), (0x1D8, 2, 1), (0x1DA, 1, 2), (0x1DC, 2, 16)]
/-- A sequence of 16 by 32 pictures in HEVC Main, 8 bits. -/
def seq1 : VideoSeq := ⟨16, 32, 1, 1, 93, 1, 8, false, 64, none, 0, false⟩
/-- A stream of one intra picture. -/
def track1 : VideoTrack := ⟨1, true, [], [⟨[seq1], seq1, 16, 32, 0, 0, 16, 32, 0, 0, true, [], 100, true, [], [], none⟩]⟩
/-- A slot whose sample is read is what the video decoder makes of it. -/
theorem outcome_video (s : State) (m : MjRun) (k : MediaSlot) (fmt : Nat) (bs : List Byte)
    (h : let r := s.body.slotSources s.own 0 m k
      let e := sampleAt s.body.mem r.1.entry
      s.body.flows s.own (((s.body.mjDesc m).slotAt 0, (s.body.mjDesc m).slotBytes) :: r.2) = true ∧
      s.body.readRefused s.own (.media 0 m.core m.idx) r.2 = none ∧ s.body.firstBad s.own r.2 = none ∧
      s.own.inData 0 r.1.entry 16 = true ∧ e.bad = false ∧ s.own.inData 0 e.addr e.len = true ∧ r.1.param = none ∧ e.fmt = fmt ∧
        s.body.mem.bytes e.addr e.len = bs ∧ (s.body.mjDesc m).unit = 2) :
    outcome s m k = videoOut (s.body.mjDesc m) (s.body.part 0) fmt bs := by
  obtain ⟨hf, hr, hb, h1, h2, h3, h4, h5, h6, h7⟩ := h
  unfold outcome Body.slotWork
  simp only [hf, hr, hb, slotOutcome]
  simp [-List.getD_eq_getElem?_getD, h1, h2, h3, h4, h5, h6, h7]
/-- The video slot in work. -/
def videoRun : MjRun := mrun imgVideo true 8192 (mslot true false)
/-- Where the parser finds that stream (log entry 6), the slot's band 0 is due. -/
theorem witness_bands (h : Config.videoTracks 0x30 [0x61, 0x62] = [track1]) : let s := mediaRun imgVideo 0x30 videoRun
    let out := outcome s videoRun (mslot true false)
    s.body.slotWork s.own 0 videoRun 0 (mslot true false) = .made out ∧
    ((out.frames[((s.body.mjDesc videoRun).bandRowsOf 0).1]?).join).isSome = true ∧ out.status = stOk := by
  intro s out
  have hi : isMade s videoRun (mslot true false) = true := by decide +kernel
  have ho : out = videoOut (s.body.mjDesc videoRun) (s.body.part 0) 0x30 [0x61, 0x62] :=
    outcome_video s videoRun (mslot true false) 0x30 [0x61, 0x62] (by decide +kernel)
  have ht : videoTrack 0x30 [0x61, 0x62] = some track1 := by
    unfold videoTrack; rw [h]; decide +kernel
  refine ⟨slotWork_of_made _ _ _ hi, ?_⟩
  rw [ho]
  unfold videoOut
  rw [ht]
  decide +kernel
theorem witness_band_due : let s := mediaRun imgVideo 0x30 videoRun
    let j := s.body.mjDesc videoRun
    Claims.slotsWhole s ∧ s.body.workingSlot 0 0 0 0 = some (videoRun, mslot true false) ∧ j.video = true ∧ (mslot true false).bands = 0 ∧
    j.bands = 2 ∧ s.body.clocked = true ∧ s.body.mem.sound = true ∧
    (∀ n ∈ (s.body.part 0).mjs, n.same videoRun = true → n = videoRun) := by
  unfold Claims.slotsWhole
  decide +kernel
theorem witness_band_over : (2 : Nat) ≠ (mslot true false).bands := by decide

/-- An encode MJ of two frames from an address, on session 0. -/
def imgEncode (src : Nat) : List Byte := imgMedia [(0x180, 1, 2), (0x184, 2, 1), (0x1A0, 8, 0x20000), (0x1A8, 4, 16384), (0x1B0, 8, 0x30000),
  (0x1D0, 1, 1), (0x1D2, 2, 2), (0x1DA, 1, 2), (0x1F8, 8, src)]
/-- The MJ in progress, with session 0 of 64 by 64 in slices of some CTU rows. -/
def encodeRun (src rows : Nat) : State :=
  let img := imgEncode src
  withPart (mediaRun img 0x30 { mrun img true 0 encodeSlot with session := some 0 }) fun p =>
    { p with encs := p.encs.set 0 { sessionOf (sessionArgs 0x100000) with sliceRows := rows } }
/-- The MJ that runs, its descriptor, its session's number and the session. -/
def coding (s : State) : MjRun × Mj × Nat × EncSession := (s.body.encoding 0 0 0).getD default
/-- What becomes of the picture in work: 0 it waits, 1 it is refused, 2 unreadable, 3 its source is found. -/
def sourceKind (s : State) : Nat :=
  match encodeSource s.own s.body (coding s).1 (coding s).2.1 (coding s).2.2.2 (coding s).1.frame with
  | .waits => 0
  | .refused _ => 1
  | .unreadable _ => 2
  | .found _ _ => 3
theorem sourceKind_said (s : State) : let e := encodeSource s.own s.body (coding s).1 (coding s).2.1 (coding s).2.2.2 (coding s).1.frame
    (sourceKind s = 0 → e = .waits) ∧ (sourceKind s = 1 → ∃ st, e = .refused st) ∧ (sourceKind s = 3 → ∃ src ref, e = .found src ref) := by
  unfold sourceKind
  dsimp only
  split <;> simp_all
theorem witness_encodes : let s := encodeRun 0x50000 0
    let k := coding s
    s.body.encoding 0 0 0 = some k ∧ Claims.slotsWhole s ∧ k.1.ctx.part = 0 ∧ (∀ n ∈ (s.body.part 0).mjs, n.same k.1 = true → n = k.1) ∧
    (s.body.part 0).encs.length = 8 ∧ k.2.2.1 < 8 ∧ s.body.mem.sound = true ∧ (∀ y ∈ s.body.stks, ∀ k ∈ y.queues, k.waiting = []) ∧ sourceKind s = 3 ∧ k.2.2.2.sliceRows = 0 ∧
    k.1.frame + 1 < k.2.1.nfr ∧ sourceKind (withBoard s fun b => { b with tripped := true }) = 0 := by
  unfold Claims.slotsWhole
  decide +kernel
theorem witness_encode_slices : let s := encodeRun 0x50000 1
    let k := coding s
    s.body.encoding 0 0 0 = some k ∧ sourceKind s = 3 ∧ k.2.2.2.sliceRows ≠ 0 ∧ k.1.slice < k.2.2.2.slices ∧
    Claims.unguarded s (.media 0 0 0) [(k.2.1.dst + k.1.bytes, [0])] := by
  unfold Claims.unguarded
  decide +kernel
theorem witness_encode_refused : let s := encodeRun (24 * 2 ^ 30 - 64) 0
    s.body.encoding 0 0 0 = some (coding s) ∧ sourceKind s = 1 ∧
    sourceKind (withMem (encodeRun 0x50000 0) fun m => { m with poison := [0x50000] }) = 2 := by decide +kernel

/-- An alignment MJ of one tick on set 3. -/
def imgAlign : List Byte := imgMedia [(0x180, 1, 5), (0x181, 1, 9), (0x182, 1, 3), (0x184, 2, 1), (0x194, 4, 1), (0x1A0, 8, 0x20000), (0x1A8, 4, 128),
  (0x1B0, 8, 0x21000), (0x1CC, 4, 0xFFFFFFFF)]
/-- Its MJ. -/
def alignRun : MjRun := mrun imgAlign true 0 (mslot true false)
/-- The MJ in progress, its set's one input holding the records given, LATE as given. -/
def aligning (late : Nat) (recs : List (Nat × Nat)) : State :=
  withPart (mediaRun imgAlign 0x30 alignRun) fun p =>
    { p with aligns := p.aligns.set 3 ⟨true, 1, 0, 1000, late, 1000, 0, [⟨0x1000, 2, 1, 9, 0x40, 0x48, 1, recs, some 0⟩], 1⟩ }
theorem witness_align (recs : List (Nat × Nat)) (hr : recs = [(0, 0x1000)] ∨ recs = []) : let s := aligning 0 recs
    let y := (s.body.part 0).aligns.getD 3 AlignSet.reset
    let j := s.body.mjDesc alignRun
    let y' := { y with inputs := y.inputs.map fun k => k.pass y.mode 0 }
    let tw := tickWrites y y' j 0 0 (tickData y j s.body.mem 0 (!y.full 0))
    Claims.slotsWhole s ∧ s.body.tickWanted 0 3 = some (alignRun, 0, mslot true false) ∧ alignRun.ctx.part = 0 ∧
    (∀ k ∈ (s.body.part 0).mjs, k.same alignRun = true → k = alignRun) ∧ y.configured = true ∧
    s.body.flows s.own ((j.slotAt 0, y.slotBytes j.outFmt) :: y.reads) = true ∧
    (withBoard s fun b => { b with tripped := true }).body.flows s.own ((j.slotAt 0, y.slotBytes j.outFmt) :: y.reads) = false ∧
    s.body.readRefused s.own (.media 0 0 0) y.reads = none ∧
    s.body.mediaRefused s.own alignRun (tw.map fun w => (w.1, w.2.length)) = none ∧
    Claims.unguarded s (.media 0 0 0) ((j.stat + 32 * 0, List.replicate 32 0) :: tw) := by
  unfold Claims.slotsWhole Claims.unguarded
  rcases hr with rfl | rfl <;> decide +kernel
/-- A record at the tick fills the set; without one the LATE limit of 0 ns has come. -/
theorem witness_align_either : (((aligning 0 [(0, 0x1000)]).body.part 0).aligns.getD 3 AlignSet.reset).full 0 = true ∧
    (((aligning 0 []).body.part 0).aligns.getD 3 AlignSet.reset).full 0 = false ∧ 0 + 0 ≤ (aligning 0 []).body.fab.time := by decide +kernel

/-- A set whose ring the partition no longer owns is sampled only with the refusal's record. -/
theorem witness_sample_refused : let s := withPart (aligning 0 []) fun p =>
      { p with aligns := p.aligns.set 3 ⟨true, 1, 0, 1000, 0, 1000, 0, [⟨24 * 2 ^ 30, 2, 1, 9, 24 * 2 ^ 30, 0x48, 1, [], some 0⟩], 1⟩ }
    let rs := ((s.body.part 0).aligns.getD 3 AlignSet.reset).inputs.flatMap (·.reads s.body.mem)
    s.body.flows s.own rs = true ∧ (s.body.readRefused s.own (.media 0 0 0) rs).isSome = true ∧
    (∀ q : Fin 8, ∀ k < 4, (((s.body.part q).aligns.getD k AlignSet.reset).configured = true ↔ q = 0 ∧ k = 3)) := by decide +kernel

/-! ### Worked examples of the spec -/

/-- The CRC-64 of "123456789" (R509). -/
theorem test_crc64 : crc64 [0x31, 0x32, 0x33, 0x34, 0x35, 0x36, 0x37, 0x38, 0x39] = 0x995DC9BBDF1939FA := by decide +kernel

/-- A conversion word: no subnormals flushed, saturating, no flags. -/
def ccwMode (rmode : Nat) : Ccw := ⟨0, 0, false, false, rmode, none⟩
/-- 0.3 as F8a is 0x2A to nearest and 0x29 toward zero (the example of R49). -/
theorem test_convert_f8a : (convert .f8a (ccwMode 0) 0 (f32 0x3E99999A)).1 = 0x2A ∧ (convert .f8a (ccwMode 1) 0 (f32 0x3E99999A)).1 = 0x29 := by
  decide +kernel
/-- The Q4p element 1101 by the planes fetched (the example of R62). -/
theorem test_planes : planeInt 4 4 13 = -3 ∧ planeInt 4 3 12 = -3 ∧ planeInt 4 2 12 = -2 ∧ planeInt 4 1 8 = -4 := by decide +kernel
/-- 2⁻²⁵ added three times to 1.0 (the example of R69). -/
theorem test_pair_add : let a := Pair.add ⟨0x3F800000, 0⟩ 0x33000000
    let b := a.add 0x33000000
    a = ⟨0x3F800000, 0x33000000⟩ ∧ b = ⟨0x3F800000, 0x33800000⟩ ∧ b.add 0x33000000 = ⟨0x3F800001, 0xB3000000⟩ := by decide +kernel
/-- A finite element whose square overflows makes SSQ infinite and counts as no NaN or infinity (R150). -/
theorem test_ssq_infinite : let h := (HarvAcc.new 0 0).observe [0x7F000000] 1
    h.ssqHi = 0x7F800000 ∧ h.nf = 0 := by decide +kernel
/-- The tiles of the examples of R84, R91 and R114: 8,203, 10,379 and 13,323 core cycles; the write-out of 256 by 256; a rind job of 7,224
quadrant cycles (R94). -/
theorem test_tile_cycles : let t : Td := { (default : Td) with fmtA := 1, m := 256, n := 256, k := 512 }
    let c : Td := { t with conv := true, m := 96, k := 192, walk := { t.walk with kd := 1, kh := 3, kw := 3 } }
    let r : Td := { c with rind := true, m := 2048, n := 48, kTrue := 3, walk := { t.walk with kd := 1, kh := 5, kw := 5 } }
    t.cycles = 8203 ∧ writeCycles 256 256 = 256 ∧ c.cycles = 10379 ∧ { r with n := 128, k := 8 }.cycles = 13323 ∧ r.rindCycles = 7224 := by
  decide +kernel
/-- Address 0x12_3456_7840 of the default region (the example of R210). -/
theorem test_dram_location : locate Own.reset.maps 0x1234567840 = some ⟨6, 17, 30, 1035, 1⟩ := by decide +kernel
/-- The transform of the example of R201: 8 cutouts of 4 bands of 250 by 250 F32 to F8a with clamped edges, its nested test, one element's source
and place, and its 4,128 quadrant cycles and minimum bound 6,192. -/
theorem test_transform : let x : Xd := ⟨0, 9, 1, 0x14, 0x4642, 0, 0x100000, vatBase 0, [250, 250, 4, 8, 1], [0, 3, 3, 0, 0], [4, 3, 3, 0, 0],
      [4, 1000, 250000, 1000000, 0], [1, 8, 2048, 524288, 0], ccwMode 0⟩
    x.count none = 4194304 ∧ x.nested none = true ∧ x.dstAddr none 2826242 = vatBase 0 + 2826242 ∧ x.source none 2826242 = some [0, 97, 2, 5, 0] ∧
    x.cycles none = 4128 ∧ x.minBound none 30 = 6192 := by decide +kernel
/-- The permutation of the example of R318: stage needs 2, 2 and 1 pieces for runs of 1, 2 and 3. -/
theorem test_permute_stage : let t : Ptab := { (default : Ptab) with n := 4, p := 2, dest := [0, 2, 4, 7, 1, 6, 5, 3] }
    t.stageNeed 1 = 2 ∧ t.stageNeed 2 = 2 ∧ t.stageNeed 3 = 1 := by decide +kernel

end Sys2Proof.Tests
end

/-! PROOFS. The core clock (R22, R25, R324). -/

namespace Sys2Proof.Machine

open Sys2Proof

/-! ### Commands on the body -/

/-- On a clocked module a command on the body answers with its meaning. -/
theorem State.onBody_clocked {s : State} (f : Own → Body → Body) (h : s.body.clocked = true) :
    s.onBody f = .next { s with body := f s.own s.body } := if_pos h

/-- A command on the body that makes nothing of it leaves the state. -/
theorem State.onBody_same {s : State} {f : Own → Body → Body} (h : f s.own s.body = s.body) : s.onBody f = .next s := by
  unfold State.onBody
  rw [h, ite_self]

/-! ### The clock that a core's caps allow -/

theorem Body.clockTarget_le_ceil (b : Body) (c : Core) : b.clockTarget c ≤ b.board.ceil.toNat := Nat.min_le_left _ _

theorem Body.clockTarget_le_pwrCap {b : Body} {x : Nat} (c : Core) (h : b.board.powerCap.cap = some x) : b.clockTarget c ≤ x := by
  simp only [Body.clockTarget, Body.pwrCap, h, Option.getD_some]
  omega

theorem Body.clockTarget_le_thermCap {b : Body} {c : Core} {x : Nat}
    (h : x ∈ (stacksOver c.physical).filterMap fun st => (b.stks.getD st Stack.reset).cap) : b.clockTarget c ≤ x := by
  obtain ⟨m, hm⟩ : ∃ m, b.thermCap c = some m := Option.ne_none_iff_exists'.mp fun e => by
    rw [List.min?_eq_none_iff.mp e] at h
    exact absurd h List.not_mem_nil
  have hmx : m ≤ x := (List.min?_eq_some_iff.mp hm).2 x h
  simp only [Body.clockTarget, hm, Option.getD_some]
  omega

/-- The clock that a core's caps allow is one of the three that bound it (R25). -/
theorem Body.clockTarget_attained (b : Body) (c : Core) : b.clockTarget c = b.board.ceil.toNat ∨
    b.board.powerCap.cap = some (b.clockTarget c) ∨
    b.clockTarget c ∈ (stacksOver c.physical).filterMap fun st => (b.stks.getD st Stack.reset).cap := by
  have key : b.clockTarget c = b.board.ceil.toNat ∨ b.board.powerCap.cap = some (b.clockTarget c) ∨
      b.thermCap c = some (b.clockTarget c) := by
    unfold Body.clockTarget Body.pwrCap
    cases b.thermCap c <;> cases b.board.powerCap.cap <;> simp only [Option.getD_none, Option.getD_some, Option.some.injEq] <;> omega
  exact key.imp_right (Or.imp_right fun h => (List.min?_eq_some_iff.mp h).1)

/-! ### What moves a cap -/

theorem execPowerSample_stks {s : State} (w v i : W16) (h : s.body.clocked = true) :
    ∃ t, execPowerSample w v i s = .next t ∧ t.body.stks = s.body.stks := by
  refine ⟨_, State.onBody_clocked _ h, ?_⟩
  dsimp only
  split <;> rfl

theorem execPowerCapStepDown_stks {s : State} (h : s.body.clocked = true) :
    ∃ t, execPowerCapStepDown s = .next t ∧ t.body.stks = s.body.stks := by
  refine ⟨_, State.onBody_clocked _ h, ?_⟩
  dsimp only
  split <;> rfl

theorem execPowerCapStepUp_stks {s : State} (h : s.body.clocked = true) :
    ∃ t, execPowerCapStepUp s = .next t ∧ t.body.stks = s.body.stks := by
  refine ⟨_, State.onBody_clocked _ h, ?_⟩
  dsimp only
  split
  · split <;> rfl
  · rfl

/-- What only appends to event queues leaves the power cap. -/
theorem Body.powerCap_of_logged {b t : Body} (h : b.logged t) : t.board.powerCap = b.board.powerCap := by
  obtain ⟨-, -, -, -, -, -, -, -, hboard, -⟩ := h
  rw [hboard]

theorem Body.faultAll_powerCap (o : Own) (b : Body) (st : W16) (src : Nat × Nat) :
    (b.faultAll o st src).board.powerCap = b.board.powerCap := by
  unfold Body.faultAll
  induction (List.finRange 8).filter o.present generalizing b with
  | nil => rfl
  | cons p ps ih =>
    exact (ih _).trans (Body.powerCap_of_logged (b.logged_appendEvent o p _))

@[simp] theorem Body.noteModule_board (b old : Body) : (b.noteModule old).board = b.board := (b.signalled_noteModule old).1

theorem Body.trip_powerCap (o : Own) (b : Body) (src : Nat × Nat) : (b.trip o src).board.powerCap = b.board.powerCap := by
  unfold Body.trip
  split
  · rfl
  · rw [Body.noteModule_board, Body.faultAll_powerCap]

theorem tempSample_powerCap (o : Own) (b : Body) (st : Fin 24) (t : Nat) :
    (tempSample o b st t).board.powerCap = b.board.powerCap := by
  unfold tempSample
  dsimp only
  split <;> simp [Body.trip_powerCap]

theorem execStackTempSample_powerCap {s : State} (st : Fin 24) (temp : Nat) (h : s.body.clocked = true) :
    ∃ t, execStackTempSample st temp s = .next t ∧ t.body.board.powerCap = s.body.board.powerCap := by
  refine ⟨_, State.onBody_clocked _ h, ?_⟩
  dsimp only
  split
  · rfl
  · exact tempSample_powerCap _ _ _ _

theorem execThermalCapLower_powerCap {s : State} (st : Fin 24) (h : s.body.clocked = true) :
    ∃ t, execThermalCapLower st s = .next t ∧ t.body.board.powerCap = s.body.board.powerCap := ⟨_, State.onBody_clocked _ h, rfl⟩

theorem execThermalCapRise_powerCap {s : State} (st : Fin 24) (h : s.body.clocked = true) :
    ∃ t, execThermalCapRise st s = .next t ∧ t.body.board.powerCap = s.body.board.powerCap := ⟨_, State.onBody_clocked _ h, rfl⟩

/-! ### The change of a core's clock -/

/-- At a tile boundary a clocked core that does not run at the clock its caps allow takes it, and its PLL relocks (R22, R25). -/
theorem execCoreClockChange_changes {s : State} {c : Fin 32} (h : s.body.clocked = true) (hb : (s.body.core c).tileBusy = false)
    (h0 : (s.body.core c).clk ≠ 0) (ht : (s.body.core c).clk ≠ s.body.clockTarget (s.body.core c)) :
    execCoreClockChange c s = .next { s with body := s.body.updCore c fun x => { x with
      clk := s.body.clockTarget (s.body.core c), relock := true, clkCause := s.body.capCause (s.body.core c)
      relockWhy := if (s.body.core c).clk < s.body.clockTarget (s.body.core c) ∧ x.clkCause ≠ 0 then x.clkCause
        else s.body.capCause (s.body.core c) } } := by
  refine (State.onBody_clocked _ h).trans ?_
  dsimp only
  rw [if_neg (by simp [hb, h0, ht])]

/-- Within a tile, at that clock already, or with its clock stopped, a core is left as it is. -/
theorem execCoreClockChange_leaves {s : State} {c : Fin 32} (h : (s.body.core c).tileBusy = true ∨ (s.body.core c).clk = 0 ∨
    (s.body.core c).clk = s.body.clockTarget (s.body.core c)) : execCoreClockChange c s = .next s := by
  refine State.onBody_same ?_
  dsimp only
  exact if_pos (by tauto)

theorem execPllRelockDone_clocked {s : State} (c : Fin 32) (h : s.body.clocked = true) :
    execPllRelockDone c s = .next { s with body := s.body.updCore c fun k => { k with relock := false } } := State.onBody_clocked _ h

/-- Settles O35: the clock of a core is bounded by, and equal to one of, its caps; the commands of one kind of cap leave the other. -/
theorem coreClock : Obligations.CoreClock := by
  intro s c h
  refine ⟨⟨execCoreClockChange_changes h, execCoreClockChange_leaves, execPllRelockDone_clocked c h, Body.clockTarget_le_ceil _ _,
    fun x => Body.clockTarget_le_pwrCap _, fun x => Body.clockTarget_le_thermCap, Body.clockTarget_attained _ _⟩, ?power, ?thermal⟩
  case power =>
    intro w v i x hx
    simp only [List.mem_cons, List.not_mem_nil, or_false] at hx
    rcases hx with rfl | rfl | rfl
    · exact execPowerSample_stks w v i h
    · exact execPowerCapStepDown_stks h
    · exact execPowerCapStepUp_stks h
  case thermal =>
    intro st temp x hx
    simp only [List.mem_cons, List.not_mem_nil, or_false] at hx
    rcases hx with rfl | rfl | rfl
    · exact execStackTempSample_powerCap st temp h
    · exact execThermalCapLower_powerCap st h
    · exact execThermalCapRise_powerCap st h

end Sys2Proof.Machine

/-! PROOFS. The canonical form of memory under the operations that faults, requests and resets are made of (R18, R171, R435, R436). -/

namespace Sys2Proof.Machine

open Sys2Proof

/-! ### Operations that leave memory as it is -/

/-- A fold of operations that each leave memory leaves it. -/
theorem Body.mem_foldl {α : Type} {f : Body → α → Body} (h : ∀ (b : Body) (x : α), (f b x).mem = b.mem) (l : List α) (b : Body) :
    (l.foldl f b).mem = b.mem := by
  induction l generalizing b with
  | nil => rfl
  | cons x t ih => exact (ih _).trans (h b x)

theorem Body.mem_of_logged {b t : Body} (h : b.logged t) : t.mem = b.mem := h.2.2.2.2.2.1
theorem Body.mem_of_counted {b t : Body} (h : b.counted t) : t.mem = b.mem := h.2.2.2.2.2.1
theorem Body.mem_of_signalled {b t : Body} (h : b.signalled t) : t.mem = b.mem := h.2.2.2.2.2.2.2.1

@[simp] theorem Body.atStack_mem (b : Body) (l : DramLoc) (f : Stack → Stack) : (b.atStack l f).mem = b.mem := rfl
@[simp] theorem Body.faultEvent_mem (o : Own) (b : Body) (p : Fin 8) (st : W16) (src : Nat × Nat) (d : Nat) :
    (b.faultEvent o p st src d).mem = b.mem := Body.mem_of_logged (b.logged_appendEvent o p _)
@[simp] theorem Body.logRefusal_mem (o : Own) (b : Body) (p : Fin 8) (st : W16) (src : Nat × Nat) (a : Nat) :
    (b.logRefusal o p st src a).mem = b.mem := Body.mem_of_logged (b.logged_logRefusal o p st src a)
@[simp] theorem Body.noteModule_mem (b old : Body) : (b.noteModule old).mem = b.mem := Body.mem_of_signalled (b.signalled_noteModule old)
@[simp] theorem Body.traffic_mem (b : Body) (w : Bool) (us : List (DramLoc × Nat)) : (b.traffic w us).mem = b.mem :=
  Body.mem_of_counted (b.counted_traffic w us)
@[simp] theorem Body.countWrites_mem (o : Own) (b : Body) (a : Nat) (d : List (Option Byte)) : (b.countWrites o a d).mem = b.mem :=
  Body.mem_of_counted (b.counted_countWrites o a d)
@[simp] theorem Body.countReadsOf_mem (o : Own) (b : Body) (rs : List (Nat × Nat)) : (b.countReadsOf o rs).mem = b.mem :=
  Body.mem_of_counted (b.counted_countReadsOf o rs)
@[simp] theorem Body.countCe_mem (o : Own) (b : Body) (a : Nat) : (b.countCe o a).mem = b.mem := Body.mem_of_counted (b.counted_countCe o a)
@[simp] theorem Body.countUe_mem (o : Own) (b : Body) (a : Nat) (scrub : Bool) : (b.countUe o a scrub).mem = b.mem :=
  Body.mem_of_counted (b.counted_countUe o a scrub)
@[simp] theorem Body.requestWarm_mem (b : Body) (r : ResetSrc) : (b.requestWarm r).mem = b.mem := rfl
@[simp] theorem Body.releaseCores_mem (b : Body) (x : CtxId) (f : CoreCtx → CoreCtx) : (b.releaseCores x f).mem = b.mem := rfl
@[simp] theorem Body.xport_mem (b : Body) : b.xport.mem = b.mem := rfl
@[simp] theorem Body.respondPending_mem (b : Body) (t : Ticket) : (b.respondPending t).mem = b.mem := rfl
@[simp] theorem Body.dropWrite_mem (b : Body) (pg : Page) (mb : Fin 4) : (b.dropWrite pg mb).mem = b.mem := rfl
@[simp] theorem Body.takeGo_mem (b : Body) (pg : Page) (mb : Fin 4) : (b.takeGo pg mb).mem = b.mem := rfl
@[simp] theorem Body.placeCommand_mem (b : Body) (code : Nat) (x : Xnx) : (b.placeCommand code x).mem = b.mem := rfl

@[simp] theorem Body.guestBack_mem (b : Body) (p : Fin 8) (g : Option (Fin 4)) : (b.guestBack p g).mem = b.mem := by
  cases g <;> rfl

@[simp] theorem Body.respondEach_mem (o : Own) (b : Body) (ts : List Ticket) (st : W16) (r : List Byte) :
    (b.respondEach o ts st r).mem = b.mem := Body.mem_foldl (fun b t => b.respond_mem o t st 0 r) ts b
@[simp] theorem Body.respondAll_mem (o : Own) (b : Body) (ts : List Ticket) (st : W16) : (b.respondAll o ts st).mem = b.mem :=
  b.respondEach_mem o ts st []

@[simp] theorem Body.route_mem (b : Body) (fwd : Option (Fin 24)) (m : Msg) : (b.route fwd m).mem = b.mem := by
  unfold Body.route
  dsimp only
  split <;> rfl

@[simp] theorem Body.sendAborts_mem (b : Body) (g : CollGroup) : (b.sendAborts g).mem = b.mem := by
  refine Body.mem_foldl (fun b w => ?_) _ b
  obtain ⟨w, r⟩ := w
  dsimp only
  split
  · rfl
  · exact b.route_mem _ _

@[simp] theorem Body.abortGroups_mem (b : Body) (p : Fin 8) (gs : List Nat) : (b.abortGroups p gs).mem = b.mem := by
  refine Body.mem_foldl (fun b g => ?_) gs b
  split
  · exact b.sendAborts_mem _
  · rfl

@[simp] theorem Body.smbServe_mem (b : Body) : b.smbServe.mem = b.mem := by
  unfold Body.smbServe
  split
  · split <;> rfl
  · rfl

@[simp] theorem Body.logForeign_mem (o : Own) (b : Body) (pg : Page) (a : Nat) : (b.logForeign o pg a).mem = b.mem := by
  cases pg with
  | part p => exact b.logRefusal_mem _ _ _ _ _
  | module => rfl

/-! ### Errors: only the marks of memory change -/

/-- Stored words that come to hold errors change no byte. -/
@[simp] theorem Body.upset_cells (b : Body) (f : Found) : (b.upset f).mem.cells = b.mem.cells := by
  unfold Body.upset
  split <;> rfl

@[simp] theorem Body.foundBad_cells (o : Own) (b : Body) (a : Nat) : (b.foundBad o a).mem.cells = b.mem.cells := by
  simp [Body.foundBad, Mem.poisonUnit]

@[simp] theorem Body.corrected_cells (o : Own) (b : Body) (a : Nat) : (b.corrected o a).mem.cells = b.mem.cells := by
  simp [Body.corrected]

/-- A fold of operations that each leave the bytes of memory leaves them. -/
theorem Body.cells_foldl {α : Type} {f : Body → α → Body} (h : ∀ (b : Body) (x : α), (f b x).mem.cells = b.mem.cells) (l : List α)
    (b : Body) : (l.foldl f b).mem.cells = b.mem.cells := by
  induction l generalizing b with
  | nil => rfl
  | cons x t ih => exact (ih _).trans (h b x)

@[simp] theorem Body.correctedIn_cells (o : Own) (b : Body) (rs : List (Nat × Nat)) : (b.correctedIn o rs).mem.cells = b.mem.cells :=
  Body.cells_foldl (fun b a => b.corrected_cells o a) _ b

/-- The form of memory is a form of its bytes. -/
theorem Mem.wf_congr {m k : Mem} (h : k.cells = m.cells) (w : m.wf = true) : k.wf = true := (congrArg cellsWf h).trans w

/-! ### Writes -/

theorem Body.wf_putOne (o : Own) (who : Requester) (r : Body × Written) (w : Nat × List (Option Byte)) (h : r.1.mem.wf = true) :
    (Body.putOne o who r w).1.mem.wf = true := Body.wf_store _ _ _ _ h

theorem Body.wf_putAll (o : Own) (b : Body) (who : Requester) (ws : List (Nat × List (Option Byte))) (h : b.mem.wf = true) :
    (b.putAll o who ws).1.mem.wf = true :=
  List.foldlRecOn (motive := fun (r : Body × Written) => r.1.mem.wf = true) _ _ h fun r hr w _ => Body.wf_putOne o who r w hr

theorem Body.wf_place (o : Own) (b : Body) (a : Nat) (d : List (Option Byte)) (h : b.mem.wf = true) : (b.place o a d).mem.wf = true := by
  unfold Body.place
  dsimp only
  rw [Body.mem_foldl_countUe]
  exact Mem.wf_writeMasked _ _ _ (Mem.wf_congr (b.mergeRead_cells o a d) h)

/-! ### Teardowns and resets -/

theorem Body.wf_finishGroup (o : Own) (b : Body) (j : QJob) (h : b.mem.wf = true) : (b.finishGroup o j).mem.wf = true := by
  unfold Body.finishGroup
  dsimp only
  split
  · exact h
  · refine Body.wf_putAll _ _ _ _ ?_
    rw [Body.countReadsOf_mem, Body.updCore_mem]
    exact Mem.wf_congr (Body.correctedIn_cells _ _ _) h

theorem Body.wf_dropJobs (o : Own) (b : Body) (x : CtxId) (h : b.mem.wf = true) : (b.dropJobs o x).mem.wf = true := by
  unfold Body.dropJobs
  exact List.foldlRecOn (motive := fun (t : Body) => t.mem.wf = true) _ _ h fun t ht j _ => t.wf_finishGroup o j ht

theorem Body.wf_teardown (o : Own) (b : Body) (p : Fin 8) (k : Fin 4) (st : W16) (core : Byte) (ae : W16) (h : b.mem.wf = true) :
    (b.teardown o p k st core ae).mem.wf = true := by
  have hz := ((b.dropJobs o ⟨p, k⟩).wf_zeroContext (b.slot p k).image (b.slot p k).residence (b.wf_dropJobs o _ h))
  unfold Body.teardown
  dsimp only
  rw [Body.respondAll_mem]
  split <;> split <;> simpa using hz

theorem Body.wf_faultJob (o : Own) (b : Body) (p : Fin 8) (k : Fin 4) (st : W16) (src : Nat × Nat) (d : Nat) (core : Byte) (ae : W16)
    (h : b.mem.wf = true) : (b.faultJob o p k st src d core ae).mem.wf = true :=
  Body.wf_teardown _ _ _ _ _ _ _ (by rwa [Body.faultEvent_mem])

theorem Body.wf_faultCore (o : Own) (b : Body) (p : Fin 8) (c : Fin 32) (ae : Nat) (st : W16) (h : b.mem.wf = true) :
    (b.faultCore o p c ae st).mem.wf = true := by
  unfold Body.faultCore
  split
  · exact Body.wf_faultJob _ _ _ _ _ _ _ _ _ h
  · rwa [Body.faultEvent_mem]

theorem Body.wf_partitionReset (o : Own) (b : Body) (p : Fin 8) (h : b.mem.wf = true) : (b.partitionReset o p).mem.wf = true := by
  have h1 : ((List.range 16).foldl (fun b g => b.abortGroups p [g]) b).mem.wf = true := by
    rwa [Body.mem_foldl fun b g => b.abortGroups_mem p [g]]
  have h2 := List.foldlRecOn (motive := fun (t : Body) => t.mem.wf = true) (List.finRange 4)
    (fun b k => (b.dropJobs o ⟨p, k⟩).releaseCores ⟨p, k⟩ fun _ => CoreCtx.idle) h1 fun t ht k _ => t.wf_dropJobs o ⟨p, k⟩ ht
  have h3 := Body.wf_zeroPartition o _ p h2
  unfold Body.partitionReset
  dsimp only
  rw [Body.respondAll_mem, Body.respondAll_mem, Body.respondAll_mem, Body.mem_foldl fun b t => b.respond_mem _ _ _ _ _]
  exact h3

theorem Body.wf_faultPartition (o : Own) (b : Body) (p : Fin 8) (st : W16) (src : Nat × Nat) (d : Nat) (h : b.mem.wf = true) :
    (b.faultPartition o p st src d).mem.wf = true := by
  unfold Body.faultPartition
  rw [Body.faultEvent_mem]
  split
  · exact h
  · exact b.wf_partitionReset o p h

/-- The fault of an uncorrectable error keeps memory in canonical form, whatever it tears down or resets (R171, R437). -/
theorem Body.wf_eccFault (o : Own) (b : Body) (who : Requester) (a : Nat) (h : b.mem.wf = true) : (b.eccFault o who a).mem.wf = true := by
  unfold Body.eccFault
  split
  · exact h
  · split
    · exact b.wf_faultPartition _ _ _ _ _ h
    · cases who with
      | steward =>
        dsimp only
        split
        · rwa [Body.faultEvent_mem]
        · exact h
      | entry p c ae => exact b.wf_faultCore _ _ _ _ _ h
      | media p c ae => exact b.wf_faultCore _ _ _ _ _ h
      | fabric p l => dsimp only; rwa [Body.faultEvent_mem]
      | host p q => exact h

theorem Body.wf_stewardBad (o : Own) (b : Body) (p : Fin 8) (a : Nat) (h : b.mem.wf = true) : (b.stewardBad o p a).mem.wf = true := by
  have hb := Mem.wf_congr (b.foundBad_cells o a) h
  unfold Body.stewardBad
  dsimp only
  split
  · exact Body.wf_faultPartition _ _ _ _ _ _ hb
  · rwa [Body.faultEvent_mem]

end Sys2Proof.Machine

/-! PROOFS. The canonical form of memory under the commands that access it (R18, R19, R170, R171). -/

namespace Sys2Proof.Machine

open Sys2Proof

/-! ### The DRAM controllers -/

theorem drainOne_mem (o : Own) (b : Body) (l : DramLoc) : (drainOne o b l).mem = b.mem := by
  unfold drainOne
  dsimp only
  split
  · rfl
  · split
    · rfl
    · rw [Body.countWrites_mem, Body.atStack_mem]

theorem serveLc_mem (o : Own) (b : Body) (l : DramLoc) : (serveLc o b l).mem = b.mem := by
  unfold serveLc
  dsimp only
  rw [Body.atStack_mem]
  split
  · exact drainOne_mem o b l
  · rfl

@[simp] theorem answerRead_mem (b : Body) (r : DReq) (p : Bool) : (answerRead b r p).mem = b.mem := by
  unfold answerRead
  split
  · split <;> rfl
  · rfl

theorem wf_readNow (o : Own) (b : Body) (r : DReq) (h : b.mem.wf = true) : (readNow o b r).mem.wf = true := by
  have h0 := Mem.wf_congr (b.correctedIn_cells o [(r.addr, r.n)]) h
  unfold readNow
  dsimp only
  split
  · rwa [answerRead_mem]
  · rw [answerRead_mem]
    refine Body.wf_eccFault _ _ _ _ (Mem.wf_congr ?_ h0)
    rw [Body.cells_foldl (Body.foundBad_cells o), Body.foundBad_cells]

theorem wf_acceptWrite (o : Own) (b : Body) (l : DramLoc) (r : DReq) (d : List (Option Byte)) (h : b.mem.wf = true) :
    (acceptWrite o b l r d).mem.wf = true := by
  have hp := b.wf_place o r.addr d h
  unfold acceptWrite
  dsimp only
  split
  · exact hp
  · exact Body.wf_eccFault _ _ _ _ hp

theorem wf_serve (o : Own) (b : Body) (l : DramLoc) (r : DReq) (h : b.mem.wf = true) : (serve o b l r).mem.wf = true := by
  unfold serve
  split
  · exact wf_acceptWrite o b l r _ h
  · split
    · exact wf_readNow o _ r h
    · refine wf_readNow o _ r ?_
      rw [Body.atStack_mem, Body.countReads_mem]
      split
      · rwa [serveLc_mem]
      · exact h

theorem wf_pump (o : Own) (l : DramLoc) (n : Nat) (b : Body) (h : b.mem.wf = true) : (pump o l n b).mem.wf = true := by
  induction n generalizing b with
  | zero => exact h
  | succ n ih =>
    unfold pump
    dsimp only
    split
    · exact h
    · split
      · exact ih _ (by rwa [drainOne_mem])
      · split
        · exact h
        · exact ih _ (wf_serve _ _ _ _ h)

theorem wf_pumpAll (o : Own) (b : Body) (l : DramLoc) (h : b.mem.wf = true) : (pumpAll o b l).mem.wf = true := wf_pump o l _ b h

/-- The request as it arrives: its place in the order of arrival. -/
def DReq.stamped (r : DReq) (n : Nat) : DReq := { r with seq := n }

/-- A pseudo-channel at which a request has arrived: an LC read ends a batch after the write on the bus (R217). -/
def PcQueues.arrived (q : PcQueues) (r : DReq) : PcQueues :=
  { q with batch := if r.lc then 0 else q.batch, arrivals := q.arrivals + 1 }

/-- A pseudo-channel at which a request waits behind the others. -/
def PcQueues.waits (q : PcQueues) (r : DReq) : PcQueues := { q with waiting := q.waiting ++ [r] }

/-- The pseudo-channel of a location. -/
def Body.pcAt (b : Body) (l : DramLoc) : PcQueues := (b.stks.getD l.stack Stack.reset).pcOf l.pc

/-- Update the pseudo-channel of a location. -/
def Body.updPcAt (b : Body) (l : DramLoc) (f : PcQueues → PcQueues) : Body := b.atStack l (·.updPc l.pc f)

@[simp] theorem Body.updPcAt_mem (b : Body) (l : DramLoc) (f : PcQueues → PcQueues) : (b.updPcAt l f).mem = b.mem := rfl

/-- A tripped module's controllers accept nothing (R227). -/
theorem arrive_tripped {o : Own} {b : Body} {l : DramLoc} {r : DReq} (h : b.board.tripped = true) : arrive o b l r = b := if_pos h

/-- A request that arrives is served where nothing waits before it and it is answered by a queued write, or admitted and ready; else it
waits, and what waits is served as far as it can be (R217, R218, R226). -/
theorem arrive_untripped {o : Own} {b : Body} {l : DramLoc} {r : DReq} (h : b.board.tripped = false) :
    arrive o b l r =
      if ((b.updPcAt l (·.arrived r)).pcAt l).waiting = [] ∧ (((b.updPcAt l (·.arrived r)).pcAt l).forwards (r.stamped (b.pcAt l).arrivals) ∨
          (((b.updPcAt l (·.arrived r)).stks.getD l.stack Stack.reset).admits ∧
            ((b.updPcAt l (·.arrived r)).pcAt l).ready o.maps (r.stamped (b.pcAt l).arrivals))) then
        serve o (b.updPcAt l (·.arrived r)) l (r.stamped (b.pcAt l).arrivals)
      else pumpAll o ((b.updPcAt l (·.arrived r)).updPcAt l (·.waits (r.stamped (b.pcAt l).arrivals))) l := by
  unfold arrive
  rw [if_neg (by simp [h])]
  rfl

theorem wf_arrive (o : Own) (b : Body) (l : DramLoc) (r : DReq) (h : b.mem.wf = true) : (arrive o b l r).mem.wf = true := by
  cases ht : b.board.tripped with
  | true => rwa [arrive_tripped ht]
  | false =>
    rw [arrive_untripped ht]
    split
    · exact wf_serve _ _ _ _ h
    · exact wf_pumpAll _ _ _ h

/-! ### Accesses -/

theorem Body.wf_upset (b : Body) (f : Found) (h : b.mem.wf = true) : (b.upset f).mem.wf = true := Mem.wf_congr (b.upset_cells f) h

theorem wf_networkRead (o : Own) (b : Body) (who : Requester) (a n : Nat) (e : Found) (h : b.mem.wf = true) :
    (networkRead o b who a n e).mem.wf = true := by
  have hu := b.wf_upset e h
  unfold networkRead
  split
  · rwa [Body.emit_mem, Body.refuse_mem]
  · dsimp only
    split
    · exact wf_arrive _ _ _ _ hu
    · exact wf_readNow _ _ _ hu

theorem wf_sramWrite (o : Own) (b : Body) (who : Requester) (a : Nat) (d : List (Option Byte)) (h : b.mem.wf = true) :
    (sramWrite o b who a d).mem.wf = true := by
  have hs := b.wf_store o a d h
  unfold sramWrite
  split
  · exact hs
  · exact Body.wf_eccFault _ _ _ _ hs

theorem wf_networkWrite (o : Own) (b : Body) (who : Requester) (a : Nat) (d : List (Option Byte)) (e : Found) (h : b.mem.wf = true) :
    (networkWrite o b who a d e).mem.wf = true := by
  have hu := b.wf_upset e h
  unfold networkWrite
  split
  · rwa [Body.emit_mem, Body.refuse_mem]
  · split
    · exact wf_arrive _ _ _ _ hu
    · exact wf_sramWrite _ _ _ _ _ hu

theorem wf_dramWrite (o : Own) (b : Body) (who : Requester) (addr : Addr) (d : List (Option Byte)) (e : Found) (h : b.mem.wf = true) :
    (dramWrite o b who addr d e).mem.wf = true := by
  unfold dramWrite
  dsimp only
  split
  · rwa [Body.emit_mem, Body.refuse_mem]
  · rwa [Body.emit_mem, Body.refuse_mem]
  · exact wf_arrive _ _ _ _ (b.wf_upset e h)

theorem wf_windowAccess (o : Own) (b : Body) (q : Port) (off : Nat) (acc : WindowAccess) (e : Found) (h : b.mem.wf = true) :
    (windowAccess o b q off acc e).mem.wf = true := by
  have hu := b.wf_upset e h
  have refused (t : Body) (ht : t.mem.wf = true) :
      (match acc with
        | .read n => t.emit (.cxlData q (List.replicate n 0) false)
        | .write _ => t).mem.wf = true := by
    cases acc <;> exact ht
  unfold windowAccess
  split
  · exact h
  · extract_lets n refusedRead
    split
    · exact refused _ h
    · split
      · exact refused _ h
      · split
        · exact refused _ (by rwa [Body.refuse_mem])
        · split
          · exact h
          · split <;> exact wf_arrive _ _ _ _ hu

/-! ### Scrubbing -/

theorem wf_sramScrub (o : Own) (b : Body) (a : Nat) (e : Ecc) (h : b.mem.wf = true) : (sramScrub o b a e).mem.wf = true := by
  have hb := Mem.wf_congr (b.foundBad_cells o (a / 8 * 8)) h
  unfold sramScrub
  dsimp only
  split
  · exact h
  · exact h
  · exact h
  · split
    · split
      · exact hb
      · split
        · exact Body.wf_faultJob _ _ _ _ _ _ _ _ _ hb
        · exact Mem.wf_zero _ _ (by rwa [Body.countUe_mem])
    · split
      · exact Mem.wf_congr (m := (b.countCe o (a / 8 * 8)).mem) rfl (by rwa [Body.countCe_mem])
      · exact h

theorem patrolWord_cells (o : Own) (st : Fin 24) (loc : BitVec 30) (b : Body) (f : Nat × Ecc) :
    (patrolWord o st loc b f).mem.cells = b.mem.cells := by
  unfold patrolWord
  dsimp only
  split
  · rfl
  · split <;> rfl

theorem patrolScrub_cells (o : Own) (b : Body) (u : StackUnit) (e : Ecc) (d : Bool) :
    (patrolScrub o b u e d).mem.cells = b.mem.cells := by
  have pass (t : Body) : (if d then t.updStack u.st fun s => { s with scrub := s.scrub + 1 } else t).mem = t.mem := by
    split
    · rw [Body.updStack_mem]
    · rfl
  unfold patrolScrub
  simp only [pass]
  split
  · split
    · rw [Body.updStack_mem, Body.traffic_mem]
    · split
      · rw [Body.updStack_mem, Body.traffic_mem]
      · rw [Body.traffic_mem]
  · rw [Body.cells_foldl (patrolWord_cells o u.st u.loc), Body.traffic_mem]

/-! ### Mailbox commands -/

/-- What a command's rule answers keeps memory in canonical form. -/
def Xres.wfMem : Xres → Prop
  | .done _ b _ _ _ => b.mem.wf = true
  | .pending _ b => b.mem.wf = true
  | .refused _ _ => True
  | .foreign _ => True

section
variable {x : Xnx} {on : OnPage} {lenOk arg0Ok : Bool} {act : Own → Body → Xres}

theorem wf_carryOut (ha : ∀ (o : Own) (b : Body), b.mem.wf = true → (act o b).wfMem) (o : Own) (b : Body) (h : b.mem.wf = true) :
    (carryOut o b x on lenOk arg0Ok act).2.mem.wf = true := by
  have hr := ha o (b.upset x.ecc) (b.wf_upset x.ecc h)
  unfold carryOut
  split
  · rwa [Body.respond_mem]
  · cases hact : act o (b.upset x.ecc) with
    | refused st d => dsimp only; rwa [Body.respond_mem]
    | foreign a => dsimp only; rwa [Body.respond_mem, Body.logForeign_mem]
    | done o2 b2 st d r => rw [hact] at hr; dsimp only; rwa [Body.respond_mem]
    | pending o2 b2 => rw [hact] at hr; exact hr

theorem wf_goXnx (ha : ∀ (o : Own) (b : Body), b.mem.wf = true → (act o b).wfMem) (o : Own) (b : Body) (code : Nat)
    (h : b.mem.wf = true) : (goXnx o b code x on lenOk arg0Ok act).2.mem.wf = true := by
  unfold goXnx
  dsimp only
  split
  · split
    · exact wf_carryOut ha _ _ h
    · exact h
  · split
    · exact h
    · split
      · exact wf_carryOut ha _ _ h
      · exact h

/-- A mailbox command whose rule keeps memory in canonical form keeps it, however its GO fares (R402). -/
theorem State.wf_xnx (ha : ∀ (o : Own) (b : Body), b.mem.wf = true → (act o b).wfMem) {s t : State} {code : Nat}
    (h : s.body.mem.wf = true) (ht : s.xnx code x on lenOk arg0Ok act = .next t) : t.body.mem.wf = true := by
  have hrun : (runXnx s.own s.body code x on lenOk arg0Ok act).2.mem.wf = true := by
    unfold runXnx
    split
    · exact h
    · split
      · exact h
      · exact wf_goXnx ha _ _ _ (by rwa [Body.smbServe_mem])
  unfold State.xnx State.both State.always at ht
  split at ht <;> cases ht
  · exact hrun
  · exact h

end

/-- A rule of a partition's page answers a refusal, or what it answers for the partition. -/
theorem onPart_wfMem {x : Xnx} {f : Fin 8 → Xres} (h : ∀ p, (f p).wfMem) : (onPart x f).wfMem := by
  unfold onPart
  split
  · exact h _
  · exact trivial

theorem caveWriteAct_wfMem (x : Xnx) (o : Own) (b : Body) (h : b.mem.wf = true) : (caveWriteAct x o b).wfMem := by
  refine onPart_wfMem fun p => ?_
  dsimp only
  split
  · exact trivial
  · split
    · exact b.wf_stewardBad o p _ h
    · exact Body.wf_store _ _ _ _ (Mem.wf_congr (b.correctedIn_cells o _) h)

theorem harvestCfgAct_wfMem (x : Xnx) (o : Own) (b : Body) (h : b.mem.wf = true) : (harvestCfgAct x o b).wfMem := by
  refine onPart_wfMem fun p => ?_
  dsimp only
  split
  · exact trivial
  · split
    · exact trivial
    · split
      · exact trivial
      · split
        · exact h
        · split
          · exact h
          · exact Mem.wf_zero _ _ h

theorem repairAct_wfMem {x : Xnx} {o : Own} {f : Fin 24 → Xres} (h : ∀ st, (f st).wfMem) : (repairAct x o f).wfMem := by
  unfold repairAct
  split
  · exact trivial
  · split
    · exact trivial
    · exact h _

theorem Mem.wf_putCells {m : Mem} (a : Nat) (d : List Byte) (h : m.wf = true) : ({ m with cells := putCells m.cells a d } : Mem).wf = true :=
  cellsWf_putCells a d h

theorem Body.wf_repairRow (b : Body) (st : Fin 24) (loc : Nat) (h : b.mem.wf = true) : (b.repairRow st loc).mem.wf = true := by
  unfold Body.repairRow
  extract_lets g bytes b1
  clear_value bytes
  exact Mem.wf_putCells (m := b.mem) _ bytes h

theorem pprSoftAct_wfMem (x : Xnx) (o : Own) (b : Body) (h : b.mem.wf = true) : (pprSoftAct x o b).wfMem := by
  unfold pprSoftAct
  dsimp only
  split
  · exact trivial
  · refine repairAct_wfMem fun st => ?_
    split
    · exact trivial
    · change ((b.repairRow st _).updStack st _).mem.wf = true
      rw [Body.updStack_mem]
      exact b.wf_repairRow st _ h

/-! ### The tick of an aged request, training, resets -/

theorem wf_bulkAged (o : Own) (b : Body) (st : Fin 24) (pc : Fin 64) (h : b.mem.wf = true) : (bulkAged o b st pc).mem.wf = true := by
  unfold bulkAged
  dsimp only
  split
  · exact wf_pumpAll _ _ _ h
  · exact h

theorem wf_dramTrained (b : Body) (fast slow : TrainTry) (h : b.mem.wf = true) : (dramTrained b fast slow).mem.wf = true := by
  unfold dramTrained
  split
  · exact h
  · extract_lets quick t b1 rate
    split
    · split <;> exact h
    · exact Mem.wf_zero _ _ h

theorem partModifyEnd_mem (o : Own) (b : Body) (p : Fin 8) : (partModifyEnd o b p).mem = b.mem := by
  unfold partModifyEnd
  split
  · split
    · rw [Body.respond_mem, Body.updPart_mem]
    · rfl
  · rfl

theorem bootRecords_mem (b : Body) : (bootRecords b).mem = b.mem := by
  unfold bootRecords
  dsimp only
  split <;> rfl

/-- Memory after the boot read of the cave: every region with an uncorrectable word is zeroed whole (R177). -/
def Body.caveKept (b : Body) : Mem :=
  (List.range 8).foldl (fun (m : Mem) p => if b.caveLost.2.toNat.testBit p then m.zero (caveRegion p) 0x6000 else m)
    (if b.caveLost.1 then b.mem.zero caveBase 0x10000 else b.mem)

theorem caveRead_mem (o : Own) (b : Body) : (caveRead o b).2.mem = b.caveKept := by
  unfold caveRead
  extract_lets l k m0 m b0 b1 b2
  split <;> rfl

theorem wf_zero_if {c : Bool} {m : Mem} (a n : Nat) (h : m.wf = true) : (if c then m.zero a n else m).wf = true := by
  split
  · exact Mem.wf_zero _ _ h
  · exact h

theorem Body.wf_caveKept (b : Body) (h : b.mem.wf = true) : b.caveKept.wf = true :=
  List.foldlRecOn (motive := fun (m : Mem) => m.wf = true) _ _ (wf_zero_if _ _ h) fun _ hm _ _ => wf_zero_if _ _ hm

theorem wf_bootRom (o : Own) (b : Body) (h : b.mem.wf = true) : (bootRom o b).2.mem.wf = true := by
  unfold bootRom
  dsimp only
  rw [bootRecords_mem, caveRead_mem]
  exact Body.wf_caveKept _ h

theorem wf_unpowered (b : Body) (ph : Phase) : (unpowered b ph).mem.wf = true := reset_mem_wf

theorem wf_releaseHold (o : Own) (b : Body) (h : b.mem.wf = true) : (releaseHold o b).2.mem.wf = true := by
  unfold releaseHold
  split
  · exact h
  · split
    · exact wf_bootRom _ _ h
    · split
      · exact wf_bootRom _ _ (wf_unpowered b .powerOn)
      · exact h

/-- The errors that a boot will find change no byte. -/
theorem upset_cells (b : Body) : (upset b).mem.cells = b.mem.cells := by
  unfold upset
  dsimp only
  refine List.foldlRecOn (motive := fun (m : Mem) => m.cells = b.mem.cells) _ _ rfl fun m hm a _ => ?_
  split
  · exact hm
  · exact hm

theorem wf_warm (b : Body) (src : ResetSrc) (h : b.mem.wf = true) : (b.warm src).mem.wf = true := Mem.wf_keepOnly _ h

theorem wf_warmReset (o : Own) (b : Body) (h : b.mem.wf = true) : (warmReset o b).2.mem.wf = true := by
  unfold warmReset
  split
  · exact h
  · split
    · rw [Body.noteModule_mem]
      exact wf_releaseHold _ _ (wf_warm _ _ (Mem.wf_congr (upset_cells b) h))
    · exact h

/-! ### The commands -/

/-- A command on the body that keeps memory in canonical form. -/
theorem State.wf_onBody {s t : State} {f : Own → Body → Body} (h : s.body.mem.wf = true) (hf : (f s.own s.body).mem.wf = true)
    (ht : s.onBody f = .next t) : t.body.mem.wf = true := by
  unfold State.onBody at ht
  split at ht <;> cases ht
  · exact hf
  · exact h

theorem State.wf_both {s t : State} {f : Own → Body → Own × Body} (h : s.body.mem.wf = true) (hf : (f s.own s.body).2.mem.wf = true)
    (ht : s.both f = .next t) : t.body.mem.wf = true := by
  unfold State.both State.always at ht
  split at ht <;> cases ht
  · exact hf
  · exact h

theorem wf_execNetworkWrite {s t : State} {who : Requester} {a : Addr} {w : UnitWrite} (h : s.body.mem.wf = true)
    (ht : execNetworkWrite who a w s = .next t) : t.body.mem.wf = true := State.wf_onBody h (wf_networkWrite _ _ _ _ _ _ h) ht

theorem wf_execNetworkRead {s t : State} {who : Requester} {a : Addr} {n : Nat} {e : Found} (h : s.body.mem.wf = true)
    (ht : execNetworkRead who a n e s = .next t) : t.body.mem.wf = true := State.wf_onBody h (wf_networkRead _ _ _ _ _ _ h) ht

theorem wf_execHostWindowAccess {s t : State} {q : Port} {bar2 : Bool} {off : Nat} {acc : WindowAccess} {e : Found}
    (h : s.body.mem.wf = true) (ht : execHostWindowAccess q bar2 off acc e s = .next t) : t.body.mem.wf = true :=
  State.wf_onBody h (wf_windowAccess _ _ _ _ _ _ h) ht

theorem wf_execDramWrite {s t : State} {who : Requester} {a : Addr} {w : UnitWrite} (h : s.body.mem.wf = true)
    (ht : execDramWrite who a w s = .next t) : t.body.mem.wf = true := State.wf_onBody h (wf_dramWrite _ _ _ _ _ _ h) ht

theorem wf_execSramScrub {s t : State} {a : ScrubWord} {e : Ecc} (h : s.body.mem.wf = true)
    (ht : execSramScrub a e s = .next t) : t.body.mem.wf = true := by
  refine State.wf_onBody h ?_ ht
  cases a with
  | at_ a => exact wf_sramScrub _ _ a.toNat e h
  | steward =>
    dsimp only
    split <;> exact h

theorem wf_execPatrolScrub {s t : State} {u : StackUnit} {e : Ecc} {d : Bool} (h : s.body.mem.wf = true)
    (ht : execPatrolScrub u e d s = .next t) : t.body.mem.wf = true :=
  State.wf_onBody h (Mem.wf_congr (patrolScrub_cells _ _ _ _ _) h) ht

theorem wf_execBulkRequestAged {s t : State} {st : Fin 24} {pc : Fin 64} (h : s.body.mem.wf = true)
    (ht : execBulkRequestAged st pc s = .next t) : t.body.mem.wf = true := State.wf_onBody h (wf_bulkAged _ _ _ _ h) ht

theorem wf_execDramTrainingComplete {s t : State} {f g : TrainTry} (h : s.body.mem.wf = true)
    (ht : execDramTrainingComplete f g s = .next t) : t.body.mem.wf = true := State.wf_onBody h (wf_dramTrained _ _ _ h) ht

theorem wf_execPartModifyComplete {s t : State} {p : Fin 8} (h : s.body.mem.wf = true)
    (ht : execPartModifyComplete p s = .next t) : t.body.mem.wf = true :=
  State.wf_onBody h (by rwa [partModifyEnd_mem]) ht

/-- Settles O39: each command is made of operations that keep the canonical form. -/
theorem memoryStaysCanonical : Obligations.MemoryStaysCanonical := by
  intro s t h hc
  rcases hc with ⟨who, a, w, ht⟩ | ⟨who, a, n, e, ht⟩ | ⟨q, b, off, acc, e, ht⟩ | ⟨who, a, w, ht⟩ | ⟨x, ht⟩ | ⟨x, ht⟩ | ⟨a, e, ht⟩ |
    ⟨u, e, d, ht⟩ | ⟨st, pc, ht⟩ | ⟨f, g, ht⟩ | ⟨p, ht⟩ | ⟨x, ht⟩ | ht
  · exact wf_execNetworkWrite h ht
  · exact wf_execNetworkRead h ht
  · exact wf_execHostWindowAccess (bar2 := b) h ht
  · exact wf_execDramWrite h ht
  · exact State.wf_xnx (caveWriteAct_wfMem x) h ht
  · exact State.wf_xnx (harvestCfgAct_wfMem x) h ht
  · exact wf_execSramScrub h ht
  · exact wf_execPatrolScrub h ht
  · exact wf_execBulkRequestAged h ht
  · exact wf_execDramTrainingComplete h ht
  · exact wf_execPartModifyComplete h ht
  · exact State.wf_xnx (pprSoftAct_wfMem x) h ht
  · exact State.wf_both h (wf_warmReset _ _ h) ht

end Sys2Proof.Machine

/-! PROOFS. The DRAM controllers (R205, R214 to R231): one rule for each of their operations, then what the commands do. -/

namespace Sys2Proof.Machine

open Sys2Proof

/-! ### Pseudo-channels -/

@[simp] theorem Stack.pcOf_pc (s : Stack) (pc : Nat) : (s.pcOf pc).pc = pc := by
  unfold Stack.pcOf
  cases h : s.queues.find? (·.pc == pc) with
  | none => rfl
  | some q => simpa using List.find?_some h

/-- Reading the pseudo-channel that an update wrote. -/
theorem Stack.pcOf_updPc (s : Stack) (pc : Nat) (f : PcQueues → PcQueues) (hf : (f (s.pcOf pc)).pc = (s.pcOf pc).pc) :
    (s.updPc pc f).pcOf pc = f (s.pcOf pc) := by
  have h : ((f (s.pcOf pc)).pc == pc) = true := by simp [hf]
  unfold Stack.updPc
  generalize f (s.pcOf pc) = q at h
  simp [Stack.pcOf, h]

/-- Reading a pseudo-channel that an update left. -/
theorem Stack.pcOf_updPc_ne (s : Stack) {pc k : Nat} (f : PcQueues → PcQueues) (hf : (f (s.pcOf pc)).pc = (s.pcOf pc).pc) (h : k ≠ pc) :
    (s.updPc pc f).pcOf k = s.pcOf k := by
  have hq : ((f (s.pcOf pc)).pc == k) = false := by simp [hf, Ne.symm h]
  unfold Stack.updPc
  generalize f (s.pcOf pc) = q at hq
  have hfil : (s.queues.filter (·.pc != pc)).find? (·.pc == k) = s.queues.find? (·.pc == k) := by
    rw [List.find?_filter]
    congr 1
    funext a
    by_cases e : a.pc = k <;> simp [e, h]
  simp [Stack.pcOf, hq, hfil]

@[simp] theorem Stack.updPc_admits (s : Stack) (pc : Nat) (f : PcQueues → PcQueues) : (s.updPc pc f).admits = s.admits := rfl

/-- A stack that is not there has no queued write. -/
theorem Stack.reset_pcOf_writes (pc : Nat) : (Stack.reset.pcOf pc).writes = [] := rfl

section
variable (b : Body) (l : DramLoc)

@[simp] theorem Body.atStack_board (f : Stack → Stack) : (b.atStack l f).board = b.board := rfl
@[simp] theorem Body.atStack_parts (f : Stack → Stack) : (b.atStack l f).parts = b.parts := rfl
@[simp] theorem Body.atStack_out (f : Stack → Stack) : (b.atStack l f).out = b.out := rfl
@[simp] theorem Body.atStack_length (f : Stack → Stack) : (b.atStack l f).stks.length = b.stks.length := length_modify_eq _ _ _
@[simp] theorem Body.updPcAt_board (f : PcQueues → PcQueues) : (b.updPcAt l f).board = b.board := rfl
@[simp] theorem Body.updPcAt_parts (f : PcQueues → PcQueues) : (b.updPcAt l f).parts = b.parts := rfl
@[simp] theorem Body.updPcAt_out (f : PcQueues → PcQueues) : (b.updPcAt l f).out = b.out := rfl
@[simp] theorem Body.updPcAt_length (f : PcQueues → PcQueues) : (b.updPcAt l f).stks.length = b.stks.length := b.atStack_length l _

variable {b l}

/-- Reading the stack that an update wrote. -/
theorem Body.getD_atStack (h : l.stack < b.stks.length) (f : Stack → Stack) :
    (b.atStack l f).stks.getD l.stack Stack.reset = f (b.stks.getD l.stack Stack.reset) := getD_modify_self _ _ _ _ h

theorem Body.pcAt_updPcAt (h : l.stack < b.stks.length) (f : PcQueues → PcQueues) (hf : (f (b.pcAt l)).pc = (b.pcAt l).pc) :
    (b.updPcAt l f).pcAt l = f (b.pcAt l) := by
  unfold Body.pcAt Body.updPcAt
  rw [Body.getD_atStack h]
  exact Stack.pcOf_updPc _ _ _ hf

theorem Body.getD_updPcAt_admits (f : PcQueues → PcQueues) (h : l.stack < b.stks.length) :
    ((b.updPcAt l f).stks.getD l.stack Stack.reset).admits = (b.stks.getD l.stack Stack.reset).admits := by
  unfold Body.updPcAt
  rw [Body.getD_atStack h, Stack.updPc_admits]

/-- A pseudo-channel with a queued write belongs to a stack that is there. -/
theorem Body.stack_lt_of_writes (h : (b.pcAt l).writes ≠ []) : l.stack < b.stks.length := by
  by_contra hn
  refine h ?_
  rw [Body.pcAt, List.getD_eq_default _ _ (Nat.le_of_not_lt hn)]
  exact Stack.reset_pcOf_writes _

end

/-! ### What the bus leaves of a pseudo-channel -/

/-- A pseudo-channel without what transfers on its bus change: its direction and its open rows. -/
def PcQueues.offBus (q : PcQueues) : PcQueues := { q with lastWrite := false, rows := [] }

theorem PcQueues.pc_of_offBus {q k : PcQueues} (h : q.offBus = k.offBus) : q.pc = k.pc := congrArg (·.pc) h
theorem PcQueues.waiting_of_offBus {q k : PcQueues} (h : q.offBus = k.offBus) : q.waiting = k.waiting := congrArg (·.waiting) h

/-- An update that touches the bus alone leaves every pseudo-channel but for its bus. -/
theorem Stack.offBus_updPc (s : Stack) (pc k : Nat) (f : PcQueues → PcQueues) (hf : ∀ q, (f q).offBus = q.offBus) :
    ((s.updPc pc f).pcOf k).offBus = (s.pcOf k).offBus := by
  have hp : (f (s.pcOf pc)).pc = (s.pcOf pc).pc := PcQueues.pc_of_offBus (hf (s.pcOf pc))
  by_cases h : k = pc
  · subst h
    rw [Stack.pcOf_updPc _ _ _ hp, hf]
  · rw [Stack.pcOf_updPc_ne _ _ hp h]

theorem Stack.offBus_turn (s : Stack) (pc k : Nat) (w : Bool) : ((s.turn pc w).pcOf k).offBus = (s.pcOf k).offBus := by
  unfold Stack.turn
  refine (Stack.offBus_updPc _ pc k (fun q => { q with lastWrite := w }) fun _ => rfl).trans ?_
  split <;> rfl

theorem Stack.offBus_move (s : Stack) (ceil : Nat) (l : DramLoc) (w : Bool) (n k : Nat) :
    ((s.move ceil l w n).pcOf k).offBus = (s.pcOf k).offBus := by
  refine Eq.trans ?_ (s.offBus_turn l.pc k w)
  exact (s.turn l.pc w).offBus_updPc l.pc k (fun q => { q with rows := (l.bank, l.row) :: q.rows.filter (·.1 != l.bank) }) fun _ => rfl

/-- A change of one stack that leaves its pseudo-channels but for their buses. -/
theorem Body.offBus_modify (b : Body) (i : Nat) (f : Stack → Stack) (l : DramLoc)
    (hf : ∀ (s : Stack) (k : Nat), ((f s).pcOf k).offBus = (s.pcOf k).offBus) :
    (({ b with stks := b.stks.modify i f } : Body).pcAt l).offBus = (b.pcAt l).offBus := by
  unfold Body.pcAt
  by_cases hi : i = l.stack
  · subst hi
    by_cases h : l.stack < b.stks.length
    · rw [getD_modify_self _ _ _ _ h, hf]
    · rw [List.getD_eq_default _ _ (by simpa using h), List.getD_eq_default _ _ (by simpa using h)]
  · rw [getD_modify_ne _ _ _ _ _ hi]

/-- A fold of operations that leave a pseudo-channel but for its bus. -/
theorem Body.offBus_foldl {α : Type} {f : Body → α → Body} {l : DramLoc}
    (h : ∀ (b : Body) (x : α), ((f b x).pcAt l).offBus = (b.pcAt l).offBus) (xs : List α) (b : Body) :
    ((xs.foldl f b).pcAt l).offBus = (b.pcAt l).offBus := by
  induction xs generalizing b with
  | nil => rfl
  | cons x t ih => exact (ih _).trans (h b x)

theorem Body.offBus_traffic (b : Body) (w : Bool) (us : List (DramLoc × Nat)) (l : DramLoc) :
    ((b.traffic w us).pcAt l).offBus = (b.pcAt l).offBus := by
  unfold Body.traffic
  refine (Body.offBus_foldl (fun b st => ?counted) _ _).trans (Body.offBus_foldl (fun b u => ?moved) _ _)
  case counted =>
    refine b.offBus_modify _ _ l fun s k => ?_
    split <;> rfl
  case moved => exact b.offBus_modify _ _ l fun s k => s.offBus_move _ _ _ _ _

theorem Body.offBus_countReads (o : Own) (b : Body) (a n : Nat) (l : DramLoc) :
    ((b.countReads o a n).pcAt l).offBus = (b.pcAt l).offBus := b.offBus_traffic _ _ l

theorem Body.offBus_countWrites (o : Own) (b : Body) (a : Nat) (d : List (Option Byte)) (l : DramLoc) :
    ((b.countWrites o a d).pcAt l).offBus = (b.pcAt l).offBus := by
  unfold Body.countWrites
  dsimp only
  rw [Body.offBus_traffic]
  refine (Body.offBus_foldl (fun b u => ?_) _ _).trans (b.offBus_traffic _ _ l)
  exact b.offBus_modify _ _ l fun s k => rfl

end Sys2Proof.Machine

/-! PROOFS. Reads that the DRAM controllers serve (R171, R210, R215, R218, R231). -/

namespace Sys2Proof.Machine

open Sys2Proof

/-! ### Reading sound memory -/

/-- Where no stored word holds an error, a read corrects nothing. -/
theorem Body.correctedIn_clean (o : Own) (b : Body) (rs : List (Nat × Nat)) (h : b.mem.upsets = []) : b.correctedIn o rs = b := by
  unfold Body.correctedIn upsetsIn
  rw [h]
  rfl

theorem Mem.firstBad_eq_none_iff {m : Mem} {word a n : Nat} :
    m.firstBad word a n = none ↔ ((m.badWords word).filter fun w => touches word w a n) = [] := List.min?_eq_none_iff

/-- Bytes without an unreadable word lie in no unreadable unit. -/
theorem Body.badUnits_nil {o : Own} {b : Body} {a n : Nat} (h : b.mem.firstBad (wordSize o.maps a) a n = none) : b.badUnits o a n = [] := by
  unfold Body.badUnits
  dsimp only
  rw [Mem.firstBad_eq_none_iff.mp h]
  rfl

/-- A read of sound memory answers with its bytes. -/
theorem readNow_sound {o : Own} {b : Body} {r : DReq} (hu : b.mem.upsets = [])
    (hf : b.mem.firstBad (wordSize o.maps r.addr) r.addr r.n = none) : readNow o b r = answerRead b r false := by
  unfold readNow
  rw [Body.correctedIn_clean o b _ hu]
  dsimp only
  rw [Body.badUnits_nil hf]

theorem answerRead_network {b : Body} {r : DReq} (h : r.via = .network) :
    answerRead b r false = b.emit (.netData r.who (b.mem.bytes r.addr r.n)) := by
  unfold answerRead
  rw [h]
  rfl

/-! ### Where a DRAM address falls -/

/-- A region's bounds are whole GiB. -/
theorem MapDesc.has_unit (d : MapDesc) (a : Nat) : d.has (a / 64 * 64) = d.has a := by
  unfold MapDesc.has MapDesc.lo MapDesc.size
  generalize d.k * d.sliceN.toNat = g
  have h1 : (d.base.toNat * 2 ^ 30 ≤ a / 64 * 64) ↔ (d.base.toNat * 2 ^ 30 ≤ a) := by omega
  have h2 : (a / 64 * 64 < d.base.toNat * 2 ^ 30 + g * 2 ^ 30) ↔ (a < d.base.toNat * 2 ^ 30 + g * 2 ^ 30) := by omega
  simp only [h1, h2]

theorem MapDesc.locate_unit (d : MapDesc) {a : Nat} (h : d.has a = true) : d.locate (a / 64 * 64) = d.locate a := by
  have hlo : d.base.toNat * 2 ^ 30 ≤ a := by
    simp only [MapDesc.has, Bool.and_eq_true, decide_eq_true_eq] at h
    exact h.1.2
  have h1 : (a / 64 * 64 - d.base.toNat * 2 ^ 30) / 1024 = (a - d.base.toNat * 2 ^ 30) / 1024 := by omega
  have h2 : (a / 64 * 64 - d.base.toNat * 2 ^ 30) / 64 % 16 = (a - d.base.toNat * 2 ^ 30) / 64 % 16 := by omega
  simp only [MapDesc.locate, MapDesc.lo, h1, h2]

/-- Every byte of a unit falls on the unit's place (R210). -/
theorem locate_unit (maps : List MapDesc) (a : Nat) : locate maps (a / 64 * 64) = locate maps a := by
  unfold locate
  simp only [MapDesc.has_unit]
  cases h : maps.find? (·.has a) with
  | none => rw [Option.map_none, Option.map_none]
  | some d =>
    have hd : d.has a = true := List.find?_some (p := fun d : MapDesc => d.has a) h
    rw [Option.map_some, Option.map_some, d.locate_unit hd]

theorem locate_congr {maps : List MapDesc} {a c : Nat} (h : a / 64 = c / 64) : locate maps a = locate maps c := by
  rw [← locate_unit maps a, ← locate_unit maps c, h]

theorem MapDesc.k_le (d : MapDesc) : d.k ≤ 24 := by
  unfold MapDesc.k
  split
  · omega
  · split <;> omega

/-- The valid regions end below the vats. -/
theorem lt_vat_of_locate {maps : List MapDesc} {a : Nat} {l : DramLoc} (h : locate maps a = some l) : a < vatBase 0 := by
  obtain ⟨d, hd, -⟩ := Option.map_eq_some_iff.mp h
  have hh := List.find?_some hd
  simp only [MapDesc.has, Bool.and_eq_true, decide_eq_true_eq] at hh
  have hb := d.base.isLt
  have hs : d.k * d.sliceN.toNat ≤ 24 * 63 := Nat.mul_le_mul d.k_le (Nat.le_of_lt_succ d.sliceN.isLt)
  have ha : a < d.base.toNat * 2 ^ 30 + d.k * d.sliceN.toNat * 2 ^ 30 := hh.2
  unfold vatBase
  omega

/-- A request that passes its check at an address of a valid region is for DRAM. -/
theorem lt_of_netCheck {o : Own} {b : Body} {who : Requester} {a n : Nat} {l : DramLoc} (hl : locate o.maps a = some l)
    (h : netCheck o b who a n = none) : a < 0xD800000000 := by
  by_contra hn
  have hv := lt_vat_of_locate hl
  have hr : placeOf o.maps a = .reserved := by
    unfold placeOf
    rw [if_neg hn, if_neg (by omega), if_neg, if_neg, if_neg]
    all_goals
      simp only [vatBase, cellarBase, caveBase, pressBase] at *
      omega
  unfold netCheck at h
  rw [hr] at h
  exact absurd h (by simp)

theorem wordSize_dram {maps : List MapDesc} {a : Nat} (h : a < 0xD800000000) : wordSize maps a = 32 ∨ wordSize maps a = 64 := by
  unfold wordSize
  rw [if_pos h]
  split
  · exact Or.inl rfl
  · exact Or.inr rfl

/-- The bytes that a read fetches lie in the unit of the bytes it asks for (R215). -/
theorem readSpan_unit {maps : List MapDesc} {a n : Nat} (h : a < 0xD800000000) (h1 : 1 ≤ n) (hn : a % 64 + n ≤ 64) :
    (readSpan maps a n).1 / 64 = a / 64 ∧ 1 ≤ (readSpan maps a n).2 ∧ (readSpan maps a n).1 % 64 + (readSpan maps a n).2 ≤ 64 := by
  unfold readSpan
  rcases wordSize_dram (maps := maps) h with hw | hw <;> simp only [hw] <;> omega

/-! ### The traffic of a read -/

/-- A read within a unit moves one or both of its half-units (R215). -/
theorem dramUnits_unit {o : Own} {a n : Nat} {l : DramLoc} (h : a < 0xD800000000) (h1 : 1 ≤ n) (hn : a % 64 + n ≤ 64)
    (hl : locate o.maps a = some l) :
    ∃ k, 1 ≤ k ∧ k ≤ 2 ∧ (dramUnits o a n fun u => touches 32 u a n) = [(l, k)] := by
  have hu : unitsIn a n = [a / 64 * 64] := by
    have he : (a + n - 1) / 64 + 1 - a / 64 = 1 := by omega
    simp only [unitsIn, if_neg (Nat.ne_of_gt h1), he]
    rfl
  have hk : 1 ≤ halvesAt (wordSize o.maps a) (a / 64 * 64) (fun u => touches 32 u a n) ∧
      halvesAt (wordSize o.maps a) (a / 64 * 64) (fun u => touches 32 u a n) ≤ 2 := by
    have ht : touches 32 (a / 64 * 64) a n = true ∨ touches 32 (a / 64 * 64 + 32) a n = true := by
      simp only [touches, Bool.and_eq_true, decide_eq_true_eq]
      omega
    unfold halvesAt
    rcases ht with ht | ht <;> simp only [ht, if_true, Bool.true_or, Bool.or_true] <;> split <;> (try split) <;> omega
  refine ⟨_, hk.1, hk.2, ?_⟩
  unfold dramUnits
  rw [if_pos h, hu]
  simp only [List.filterMap_cons, List.filterMap_nil, locate_unit, hl, Option.map_some, if_neg (Nat.ne_of_gt hk.1)]

/-- One unit read counts one at its stack (R231). -/
theorem Body.rd_traffic_unit {b : Body} {l : DramLoc} {k : Nat} (h1 : 1 ≤ k) (h2 : k ≤ 2) (hl : l.stack < b.stks.length) :
    ((b.traffic false [(l, k)]).stks.getD l.stack Stack.reset).rd = (b.stks.getD l.stack Stack.reset).rd + 1 := by
  have hs : stackUnits l.stack [(l, k)] = 1 := by
    simp only [stackUnits, List.filter_cons, beq_self_eq_true, if_true, List.filter_nil, List.map_cons, List.map_nil, List.sum_cons,
      List.sum_nil]
    omega
  have ht : b.traffic false [(l, k)] = (b.atStack l (·.move b.board.ceil.toNat l false (32 * k))).atStack l
      fun s => { s with rd := s.rd + 1 } := by
    simp only [Body.traffic, List.map_cons, List.map_nil, List.foldl_cons, List.foldl_nil]
    rw [show [l.stack].eraseDups = [l.stack] from rfl]
    simp only [List.foldl_cons, List.foldl_nil, hs]
    rfl
  rw [ht, Body.getD_atStack (by rwa [Body.atStack_length]), Body.getD_atStack hl]
  simp only [Stack.move, Stack.updPc, Stack.turn]
  split <;> rfl

/-- A read within a unit counts one unit read at its stack. -/
theorem Body.rd_countReads_unit {o : Own} {b : Body} {a n : Nat} {l : DramLoc} (h : a < 0xD800000000) (h1 : 1 ≤ n)
    (hn : a % 64 + n ≤ 64) (hl : locate o.maps a = some l) (hs : l.stack < b.stks.length) :
    ((b.countReads o a n).stks.getD l.stack Stack.reset).rd = (b.stks.getD l.stack Stack.reset).rd + 1 := by
  obtain ⟨k, hk1, hk2, hk⟩ := dramUnits_unit h h1 hn hl
  unfold Body.countReads
  rw [hk]
  exact Body.rd_traffic_unit hk1 hk2 hs

end Sys2Proof.Machine

/-! PROOFS. DRAM_READ and DRAM_WRITE (R18, R19, R215, R217, R218, R226, R227). -/

namespace Sys2Proof.Machine

open Sys2Proof

/-! ### Serving a read -/

theorem Body.counted_atStack (b : Body) (l : DramLoc) (f : Stack → Stack) : b.counted (b.atStack l f) := b.counted_stks _ _
theorem Body.counted_updPcAt (b : Body) (l : DramLoc) (f : PcQueues → PcQueues) : b.counted (b.updPcAt l f) := b.counted_stks _ _

/-- A pseudo-channel that has served a read from its stack: LC reads in a row are counted (R217). -/
def PcQueues.servedRead (q : PcQueues) (r : DReq) : PcQueues := { q with lcRow := if r.lc then q.lcRow + 1 else 0 }

/-- What serving a read from its stack makes of the controllers. -/
def Body.readFrom (o : Own) (b : Body) (l : DramLoc) (r : DReq) : Body :=
  ((b.updPcAt l (·.servedRead r)).countReads o r.addr r.n).atStack l (·.latency r)

theorem Body.counted_readFrom (o : Own) (b : Body) (l : DramLoc) (r : DReq) : b.counted (b.readFrom o l r) :=
  Body.counted_trans (Body.counted_trans (b.counted_updPcAt l _) (Body.counted_countReads o _ _ _)) (Body.counted_atStack _ _ _)

theorem Stack.latency_rd (s : Stack) (r : DReq) : (s.latency r).rd = s.rd := by
  unfold Stack.latency
  split <;> rfl

theorem Stack.latency_pcOf (s : Stack) (r : DReq) (pc : Nat) : (s.latency r).pcOf pc = s.pcOf pc := by
  unfold Stack.latency
  split <;> rfl

/-- A queued write to a unit of a read answers it (R218). -/
theorem serve_forwarded {o : Own} {b : Body} {l : DramLoc} {r : DReq} (hd : r.data = none) (hf : (b.pcAt l).forwards r = true) :
    serve o b l r = readNow o (b.atStack l (·.latency r)) r := by
  unfold serve
  rw [hd]
  exact if_pos hf

/-- Another read is served from its stack; an LC read, unless eight in a row were, before any queued write (R217). -/
theorem serve_fromStack {o : Own} {b : Body} {l : DramLoc} {r : DReq} (hd : r.data = none) (hf : (b.pcAt l).forwards r = false)
    (hlc : r.lc = true → (b.pcAt l).lcRow < 8) : serve o b l r = readNow o (b.readFrom o l r) r := by
  have hf' : ¬ ((b.stks.getD l.stack Stack.reset).pcOf l.pc).forwards r = true := by
    rw [Bool.not_eq_true]
    exact hf
  unfold serve
  rw [hd]
  dsimp only
  rw [if_neg hf']
  cases hc : r.lc with
  | true =>
    have h8 : ¬ ((b.stks.getD l.stack Stack.reset).pcOf l.pc).lcRow ≥ 8 := Nat.not_le.mpr (hlc hc)
    simp only [serveLc, if_neg h8, Body.readFrom, PcQueues.servedRead, hc, if_true, Body.updPcAt]
  | false => simp only [Body.readFrom, PcQueues.servedRead, hc, Bool.false_eq_true, if_false, Body.updPcAt]

/-! ### A read that is served as it arrives -/

/-- A read over the network of bytes that can all be read. -/
structure ReadsSound (o : Own) (b : Body) (r : DReq) : Prop where
  data   : r.data = none
  via    : r.via = .network
  upsets : b.mem.upsets = []
  bad    : b.mem.firstBad (wordSize o.maps r.addr) r.addr r.n = none

/-- The bytes of a request lie within one DRAM unit, which falls on a location. -/
structure InUnit (o : Own) (l : DramLoc) (r : DReq) : Prop where
  dram  : r.addr < 0xD800000000
  pos   : 1 ≤ r.n
  fits  : r.addr % 64 + r.n ≤ 64
  place : locate o.maps r.addr = some l

/-- Where memory is the same and a read finds it sound, it answers with its bytes. -/
theorem ReadsSound.readNow {o : Own} {b t : Body} {r : DReq} (h : ReadsSound o b r) (hm : t.mem = b.mem) :
    readNow o t r = t.emit (.netData r.who (b.mem.bytes r.addr r.n)) := by
  rw [readNow_sound (by rw [hm]; exact h.upsets) (by rw [hm]; exact h.bad), answerRead_network h.via, hm]

/-- A queued write of the pseudo-channel reaches a unit of a request. -/
def PcQueues.reached (q : PcQueues) (a n : Nat) : Bool := q.writes.any fun w => w.reaches a n

theorem PcQueues.forwards_read {q : PcQueues} {r : DReq} (h : r.data = none) : q.forwards r = q.reached r.addr r.n := by
  unfold PcQueues.forwards
  rw [h]
  rfl

/-- The controller of a location can serve a read from its stack at once: it admits traffic, no bank is under refresh, and an LC read is
not the ninth in a row, nor a bulk read in a batch (R217, R222, R226). -/
def Body.CanRead (b : Body) (l : DramLoc) (lc : Bool) : Prop :=
  (b.stks.getD l.stack Stack.reset).admits = true ∧ (b.pcAt l).refreshing = none ∧
    (lc = true ∧ (b.pcAt l).lcRow < 8 ∨ lc = false ∧ (b.pcAt l).batch = 0) ∧ l.stack < b.stks.length

theorem PcQueues.ready_read {maps : List MapDesc} {q : PcQueues} {r : DReq} (hd : r.data = none) (hr : q.refreshing = none)
    (h : r.lc = true ∨ r.aged = true ∨ q.batch = 0) : q.ready maps r = true := by
  have hn : q.refreshes maps r = false := by
    unfold PcQueues.refreshes
    rw [hr]
  unfold PcQueues.ready
  rw [hd, hn]
  rcases h with h | h | h <;> simp [h]

theorem Body.rd_readFrom {o : Own} {b : Body} {l : DramLoc} {r : DReq} (hi : InUnit o l r) (hs : l.stack < b.stks.length) :
    ((b.readFrom o l r).stks.getD l.stack Stack.reset).rd = (b.stks.getD l.stack Stack.reset).rd + 1 := by
  have hlen : l.stack < ((b.updPcAt l (·.servedRead r)).countReads o r.addr r.n).stks.length := by
    rw [(Body.counted_countReads o _ _ _).2.2.2.2.2.2.2.2.2.2.1, Body.updPcAt_length]
    exact hs
  unfold Body.readFrom
  rw [Body.getD_atStack hlen, Stack.latency_rd, Body.rd_countReads_unit hi.dram hi.pos hi.fits hi.place (by rwa [Body.updPcAt_length])]
  unfold Body.updPcAt
  rw [Body.getD_atStack hs]
  rfl

/-- Serving a sound read that a queued write answers, or that its controller can serve: its data, and one unit counted if it is read from
the stack. -/
theorem serve_read {o : Own} {b : Body} {l : DramLoc} {r : DReq} (h : ReadsSound o b r) (hi : InUnit o l r) (hs : l.stack < b.stks.length)
    (hlc : r.lc = true → (b.pcAt l).reached r.addr r.n = false → (b.pcAt l).lcRow < 8) :
    ∃ t, serve o b l r = t.emit (.netData r.who (b.mem.bytes r.addr r.n)) ∧ b.counted t ∧
      (t.stks.getD l.stack Stack.reset).rd = (if (b.pcAt l).reached r.addr r.n = true then
        (b.stks.getD l.stack Stack.reset).rd else (b.stks.getD l.stack Stack.reset).rd + 1) := by
  cases hm : (b.pcAt l).reached r.addr r.n with
  | true =>
    refine ⟨b.atStack l (·.latency r), ?_, b.counted_atStack _ _, ?_⟩
    · rw [serve_forwarded h.data ((PcQueues.forwards_read h.data).trans hm), h.readNow (Body.atStack_mem b l _)]
    · rw [Body.getD_atStack hs, Stack.latency_rd]
      rfl
  | false =>
    refine ⟨b.readFrom o l r, ?_, b.counted_readFrom o l r, ?_⟩
    · rw [serve_fromStack h.data ((PcQueues.forwards_read h.data).trans hm) (hlc · hm),
        h.readNow (Body.mem_of_counted (b.counted_readFrom o l r))]
    · rw [Body.rd_readFrom hi hs]
      rfl

/-- At an untripped module, with nothing waiting before it, a read of sound memory that a queued write answers, or that its controller
can serve, is answered as it arrives; one from the stack counts one unit there. -/
theorem arrive_read {o : Own} {b : Body} {l : DramLoc} {r : DReq} (h : ReadsSound o b r) (hi : InUnit o l r)
    (ht : b.board.tripped = false) (hw : (b.pcAt l).waiting = []) (hs : (b.pcAt l).reached r.addr r.n = true ∨ b.CanRead l r.lc) :
    ∃ t, arrive o b l r = t.emit (.netData r.who (b.mem.bytes r.addr r.n)) ∧ b.counted t ∧
      (t.stks.getD l.stack Stack.reset).rd = (if (b.pcAt l).reached r.addr r.n = true then
        (b.stks.getD l.stack Stack.reset).rd else (b.stks.getD l.stack Stack.reset).rd + 1) := by
  have hst : l.stack < b.stks.length := by
    rcases hs with hm | ⟨-, -, -, hst⟩
    · refine Body.stack_lt_of_writes fun e => ?_
      rw [PcQueues.reached, e] at hm
      exact absurd hm (by simp)
    · exact hst
  have hpc : (b.updPcAt l (·.arrived r)).pcAt l = (b.pcAt l).arrived r := Body.pcAt_updPcAt hst (·.arrived r) rfl
  have hrd : ((b.updPcAt l (·.arrived r)).stks.getD l.stack Stack.reset).rd = (b.stks.getD l.stack Stack.reset).rd := by
    unfold Body.updPcAt
    rw [Body.getD_atStack hst]
    rfl
  have hready : ((b.updPcAt l (·.arrived r)).pcAt l).forwards (r.stamped (b.pcAt l).arrivals) ∨
      (((b.updPcAt l (·.arrived r)).stks.getD l.stack Stack.reset).admits ∧
        ((b.updPcAt l (·.arrived r)).pcAt l).ready o.maps (r.stamped (b.pcAt l).arrivals)) := by
    rw [hpc, Body.getD_updPcAt_admits _ hst]
    rcases hs with hm | ⟨ha, hr, hc, -⟩
    · exact Or.inl ((PcQueues.forwards_read h.data).trans hm)
    · refine Or.inr ⟨ha, PcQueues.ready_read h.data hr ?_⟩
      rcases hc with ⟨hlc, -⟩ | ⟨hlc, hb⟩
      · exact Or.inl hlc
      · refine Or.inr (Or.inr ?_)
        simp only [PcQueues.arrived, hlc, Bool.false_eq_true, if_false]
        exact hb
  have hsound : ReadsSound o (b.updPcAt l (·.arrived r)) (r.stamped (b.pcAt l).arrivals) := ⟨h.data, h.via, h.upsets, h.bad⟩
  obtain ⟨t, htt, hct, hrt⟩ := serve_read hsound ⟨hi.dram, hi.pos, hi.fits, hi.place⟩ (by rwa [Body.updPcAt_length]) fun hlc hm => by
    rw [hpc] at hm ⊢
    rcases hs with hm' | ⟨-, -, hc, -⟩
    · exact absurd (hm'.symm.trans hm) (by simp)
    · rcases hc with ⟨-, h8⟩ | ⟨hf, -⟩
      · exact h8
      · exact absurd (hlc.symm.trans hf) (by simp)
  rw [hpc, hrd] at hrt
  refine ⟨t, ?_, Body.counted_trans (b.counted_updPcAt l _) hct, hrt⟩
  rw [arrive_untripped ht, if_pos ⟨by rw [hpc]; exact hw, hready⟩]
  exact htt

/-! ### Serving a write -/

/-- Where no stored word holds an error, a write that loses no byte is the masked write of memory alone. -/
theorem Body.place_sound {o : Own} {b : Body} {a : Nat} {d : List (Option Byte)} (hu : b.mem.upsets = [])
    (hl : b.mem.lostWords (wordSize o.maps a) a d = []) : b.place o a d = b.updMem (·.writeMasked (wordSize o.maps a) a d) := by
  unfold Body.place
  rw [Body.mergeRead_clean o b a d hu]
  dsimp only
  rw [hl]
  rfl

/-- A pseudo-channel that has accepted a write. -/
def PcQueues.accepted (q : PcQueues) (r : DReq) : PcQueues := { q with writes := q.writes ++ [r] }

/-- A write that loses no byte is accepted: its bytes are in place, and it is queued (R217, R218). -/
theorem serve_write {o : Own} {b : Body} {l : DramLoc} {r : DReq} {d : List (Option Byte)} (hd : r.data = some d)
    (hu : b.mem.upsets = []) (hl : b.mem.lostWords (wordSize o.maps r.addr) r.addr d = []) :
    serve o b l r = (b.updMem (·.writeMasked (wordSize o.maps r.addr) r.addr d)).updPcAt l (·.accepted r) := by
  unfold serve
  rw [hd]
  dsimp only
  unfold acceptWrite
  rw [hl, Body.place_sound hu hl]
  rfl

theorem PcQueues.forwards_write {q : PcQueues} {r : DReq} {d : List (Option Byte)} (h : r.data = some d) : q.forwards r = false := by
  unfold PcQueues.forwards
  rw [h]
  rfl

theorem PcQueues.ready_write {maps : List MapDesc} {q : PcQueues} {r : DReq} {d : List (Option Byte)} (h : r.data = some d) :
    q.ready maps r = decide (q.writes.length < 96) := by
  unfold PcQueues.ready
  rw [h]
  rfl

/-- A pseudo-channel at which one request that cannot be served is all that waits has nothing to serve next (R217). -/
theorem PcQueues.next_unready {maps : List MapDesc} {q : PcQueues} {r : DReq} (hw : q.waiting = [r]) (hr : q.ready maps r = false) :
    q.next maps = none := by
  have hh : q.headOf r = r := by
    unfold PcQueues.headOf
    rw [hw]
    cases hm : r.meets r <;> simp [hm]
  have hb : q.nextBulk maps = none := by
    unfold PcQueues.nextBulk
    simp [hw, hh, hr]
  unfold PcQueues.next
  rw [hb]
  simp [hw, hh, hr]

/-- No queued write that is aged goes before what waits. -/
theorem PcQueues.writeFirst_fresh {maps : List MapDesc} {q : PcQueues} (h : ∀ w ∈ q.writes, w.aged = false) :
    q.writeFirst maps = false := by
  unfold PcQueues.writeFirst
  cases hw : q.writes with
  | nil => simp
  | cons w t =>
    have ha : w.aged = false := h w (by simp [hw])
    cases q.next maps <;> simp [ha]

theorem pump_blocked {o : Own} {l : DramLoc} {n : Nat} {b : Body} (h : (b.stks.getD l.stack Stack.reset).admits = false) :
    pump o l n b = b := by
  cases n with
  | zero => rfl
  | succ n =>
    unfold pump
    exact if_pos (by rw [h]; simp)

/-- Nothing is served while the one request that waits cannot be, and no queued write has waited 2 µs (R217). -/
theorem pump_unready {o : Own} {l : DramLoc} {n : Nat} {b : Body} {r : DReq} (hw : (b.pcAt l).waiting = [r])
    (hr : (b.pcAt l).ready o.maps r = false) (ha : ∀ w ∈ (b.pcAt l).writes, w.aged = false) : pump o l n b = b := by
  cases n with
  | zero => rfl
  | succ n =>
    have h1 := PcQueues.writeFirst_fresh (maps := o.maps) ha
    have h2 := PcQueues.next_unready hw hr
    unfold Body.pcAt at h1 h2
    unfold pump
    dsimp only
    rw [h1, h2]
    simp

section
variable {o : Own} {b : Body} {l : DramLoc} {r : DReq} {d : List (Option Byte)}

/-- At an untripped module, with nothing waiting before it, a place in the write queue and traffic admitted, a write that loses no byte
is accepted as it arrives. -/
theorem arrive_write (ht : b.board.tripped = false) (hw : (b.pcAt l).waiting = []) (hs : l.stack < b.stks.length)
    (hu : b.mem.upsets = []) (hd : r.data = some d) (h96 : (b.pcAt l).writes.length < 96)
    (ha : (b.stks.getD l.stack Stack.reset).admits = true) (hl : b.mem.lostWords (wordSize o.maps r.addr) r.addr d = []) :
    arrive o b l r = ((b.updPcAt l (·.arrived r)).updMem (·.writeMasked (wordSize o.maps r.addr) r.addr d)).updPcAt l
      (·.accepted (r.stamped (b.pcAt l).arrivals)) := by
  have hpc : (b.updPcAt l (·.arrived r)).pcAt l = (b.pcAt l).arrived r := Body.pcAt_updPcAt hs (·.arrived r) rfl
  rw [arrive_untripped ht, if_pos]
  · exact serve_write (r := r.stamped _) hd hu hl
  · rw [hpc, Body.getD_updPcAt_admits _ hs]
    exact ⟨hw, Or.inr ⟨ha, (PcQueues.ready_write hd).trans (decide_eq_true h96)⟩⟩

/-- At a stack that admits nothing, or with the write queue full and none of it aged, a write that arrives waits. -/
theorem arrive_write_waits (ht : b.board.tripped = false) (hw : (b.pcAt l).waiting = []) (hs : l.stack < b.stks.length)
    (hd : r.data = some d) (h : (b.stks.getD l.stack Stack.reset).admits = false ∨
      (96 ≤ (b.pcAt l).writes.length ∧ ∀ w ∈ (b.pcAt l).writes, w.aged = false)) :
    arrive o b l r = (b.updPcAt l (·.arrived r)).updPcAt l (·.waits (r.stamped (b.pcAt l).arrivals)) := by
  have hpc : (b.updPcAt l (·.arrived r)).pcAt l = (b.pcAt l).arrived r := Body.pcAt_updPcAt hs (·.arrived r) rfl
  have hs' : l.stack < (b.updPcAt l (·.arrived r)).stks.length := by rwa [Body.updPcAt_length]
  have hpc' : ((b.updPcAt l (·.arrived r)).updPcAt l (·.waits (r.stamped (b.pcAt l).arrivals))).pcAt l =
      ((b.pcAt l).arrived r).waits (r.stamped (b.pcAt l).arrivals) := by
    rw [Body.pcAt_updPcAt hs' _ rfl, hpc]
  have hfull (q : PcQueues) (hq : 96 ≤ q.writes.length) : q.ready o.maps (r.stamped (b.pcAt l).arrivals) = false :=
    (PcQueues.ready_write hd).trans (decide_eq_false (Nat.not_lt.mpr hq))
  rw [arrive_untripped ht, if_neg]
  · unfold pumpAll
    rcases h with h | ⟨h96, haged⟩
    · refine pump_blocked ?_
      rw [Body.getD_updPcAt_admits _ hs', Body.getD_updPcAt_admits _ hs]
      exact h
    · refine pump_unready (r := r.stamped (b.pcAt l).arrivals) ?_ ?_ ?_ <;> rw [hpc']
      · simp [PcQueues.waits, PcQueues.arrived, hw]
      · exact hfull _ h96
      · exact haged
  · rw [hpc, Body.getD_updPcAt_admits _ hs, PcQueues.forwards_write (r := r.stamped (b.pcAt l).arrivals) hd]
    rintro ⟨-, h0 | ⟨ha, hr⟩⟩
    · exact absurd h0 (by simp)
    · rcases h with h | ⟨h96, -⟩
      · exact absurd (ha.symm.trans h) (by simp)
      · exact absurd (hr.symm.trans (hfull _ h96)) (by simp)

end

/-! ### The two commands -/

/-- What a refused access leaves: memory; and its status is driven. -/
theorem refuse_emit_spec (o : Own) (b : Body) (who : Requester) (st st' : W16) (a : Nat) :
    ((b.refuse o who st a).emit (.netStatus who st')).mem = b.mem ∧
      ((b.refuse o who st a).emit (.netStatus who st')).out.getLast? = some (.netStatus who st') :=
  ⟨b.refuse_mem o who st a, by rw [Body.emit_out, List.getLast?_concat]⟩

section
variable {s : State} {who : Requester} {addr : Addr} {n lat : Nat} {lc : Bool} {d : List (Option Byte)} {ecc : Found} {l : DramLoc}

theorem dramRead_unmapped {o : Own} {b : Body} (h : locate o.maps addr.toNat = none) :
    dramRead o b who addr n lc lat ecc = (b.refuse o who stBounds addr.toNat).emit (.netStatus who stBounds) := by
  unfold dramRead
  dsimp only
  rw [h]

theorem dramRead_refused {o : Own} {b : Body} {st : W16} (hl : locate o.maps addr.toNat = some l)
    (h : netCheck o b who addr.toNat n = some st) :
    dramRead o b who addr n lc lat ecc = (b.refuse o who st addr.toNat).emit (.netStatus who st) := by
  unfold dramRead
  dsimp only
  rw [hl, h]

/-- The request of a read that has passed its check (R215, R216, R219). -/
def dramReq (o : Own) (who : Requester) (a n : Nat) (lc : Bool) (lat : Nat) : DReq :=
  { netReq who (readSpan o.maps a n).1 (readSpan o.maps a n).2 none with lc := readClass o who lc a n, latency := lat }

theorem dramRead_passed {o : Own} {b : Body} (hl : locate o.maps addr.toNat = some l) (h : netCheck o b who addr.toNat n = none) :
    dramRead o b who addr n lc lat [] = arrive o b l (dramReq o who addr.toNat n lc lat) := by
  unfold dramRead
  dsimp only
  rw [hl, h]
  rfl

theorem dramWrite_unmapped {o : Own} {b : Body} (h : locate o.maps addr.toNat = none) :
    dramWrite o b who addr d ecc = (b.refuse o who stBounds addr.toNat).emit (.netStatus who stBounds) := by
  unfold dramWrite
  dsimp only
  rw [h]

theorem dramWrite_refused {o : Own} {b : Body} {st : W16} {x : Nat} (hl : locate o.maps addr.toNat = some l)
    (h : writeCheck o b who addr.toNat d.length = some (st, x)) :
    dramWrite o b who addr d ecc = (b.refuse o who st x).emit (.netStatus who st) := by
  unfold dramWrite
  dsimp only
  rw [hl, h]

theorem dramWrite_passed {o : Own} {b : Body} (hl : locate o.maps addr.toNat = some l)
    (h : writeCheck o b who addr.toNat d.length = none) :
    dramWrite o b who addr d [] = arrive o b l (netReq who addr.toNat d.length (some d)) := by
  unfold dramWrite
  dsimp only
  rw [hl, h]
  rfl

theorem execDramRead_clocked (h : s.body.clocked = true) :
    execDramRead who ⟨addr, n⟩ lc lat ecc s = .next { s with body := dramRead s.own s.body who addr n lc lat ecc } :=
  State.onBody_clocked _ h

theorem execDramWrite_clocked (h : s.body.clocked = true) :
    execDramWrite who addr ⟨d, ecc⟩ s = .next { s with body := dramWrite s.own s.body who addr d ecc } :=
  State.onBody_clocked _ h

/-- DRAM_READ where a region maps the address, as a request of one unit. -/
theorem inUnit_dramReq {o : Own} {b : Body} {a : Nat} (hl : locate o.maps a = some l) (h : netCheck o b who a n = none) (h1 : 1 ≤ n)
    (hn : a % 64 + n ≤ 64) : InUnit o l (dramReq o who a n lc lat) := by
  have ha := lt_of_netCheck hl h
  obtain ⟨hunit, hpos, hfits⟩ := readSpan_unit (maps := o.maps) ha h1 hn
  refine ⟨?_, hpos, hfits, (locate_congr hunit).trans hl⟩
  change (readSpan o.maps a n).1 < 0xD800000000
  omega

end

end Sys2Proof.Machine

/-! PROOFS. What the DRAM controllers do of themselves: batches, aged requests, refresh (R205, R214, R217, R222). -/

namespace Sys2Proof.Machine

open Sys2Proof

/-! ### Write batches -/

/-- The pseudo-channel of a stack, as a location. -/
def pcLoc (st : Fin 24) (pc : Fin 64) : DramLoc := ⟨st.val, pc.val, 0, 0, 0⟩

/-- While no bank is under refresh, a queued write can go to the stack. -/
theorem PcQueues.refreshes_idle {q : PcQueues} (maps : List MapDesc) (r : DReq) (h : q.refreshing = none) : q.refreshes maps r = false := by
  unfold PcQueues.refreshes
  rw [h]

theorem PcQueues.drains_idle {q : PcQueues} (maps : List MapDesc) (h : q.refreshing = none) : q.drains maps = q.writes.head?.isSome := by
  unfold PcQueues.drains
  cases q.writes with
  | nil => rfl
  | cons r t => simp [PcQueues.refreshes_idle maps r h]

/-- The oldest queued write of a pseudo-channel without a refresh goes to the stack. -/
theorem drainOne_idle {o : Own} {b : Body} {l : DramLoc} {r : DReq} {t : List DReq} (hw : (b.pcAt l).writes = r :: t)
    (hr : (b.pcAt l).refreshing = none) :
    drainOne o b l = (b.updPcAt l fun q => { q with writes := t, lcRow := 0 }).countWrites o r.addr (r.data.getD []) := by
  have hf := PcQueues.refreshes_idle o.maps r hr
  unfold Body.pcAt at hw hf
  unfold drainOne
  dsimp only
  rw [hw]
  dsimp only
  rw [hf]
  rfl

/-- A batch that may begin has a write to begin with. -/
theorem batchReady_writes {q : PcQueues} (h : batchReady q = true) : q.writes ≠ [] := by
  intro e
  simp [batchReady, e] at h

theorem Body.stack_pcOf (b : Body) (st : Fin 24) (pc : Fin 64) : (b.stack st).pcOf pc.val = b.pcAt (pcLoc st pc) := rfl

/-- A batch that may begin at a pseudo-channel without a refresh puts the oldest write on the bus. -/
theorem writeBatch_spec {o : Own} {b : Body} {st : Fin 24} {pc : Fin 64} (hs : b.stks.length = 24)
    (hb : batchReady (b.pcAt (pcLoc st pc)) = true) (hr : (b.pcAt (pcLoc st pc)).refreshing = none) :
    b.mem = (writeBatch o b st pc).mem ∧
      ((writeBatch o b st pc).pcAt (pcLoc st pc)).offBus =
        { (b.pcAt (pcLoc st pc)).offBus with
          writes := (b.pcAt (pcLoc st pc)).writes.drop 1, lcRow := 0, batch := min 64 (b.pcAt (pcLoc st pc)).writes.length - 1 } := by
  obtain ⟨r, t, hw⟩ := List.exists_cons_of_ne_nil (batchReady_writes hb)
  have hst : (pcLoc st pc).stack < b.stks.length := by rw [hs]; exact st.isLt
  have hd : (b.pcAt (pcLoc st pc)).drains o.maps = true := by rw [PcQueues.drains_idle _ hr, hw]; rfl
  have hwb : writeBatch o b st pc = (drainOne o b (pcLoc st pc)).updPcAt (pcLoc st pc) fun k =>
      { k with batch := min 64 (b.pcAt (pcLoc st pc)).writes.length - 1 } := by
    unfold writeBatch
    dsimp only
    rw [Body.stack_pcOf, if_pos hb, hd]
    rfl
  have hlen : (pcLoc st pc).stack < (drainOne o b (pcLoc st pc)).stks.length := by
    rw [drainOne_idle hw hr, (Body.counted_countWrites o _ _ _).2.2.2.2.2.2.2.2.2.2.1, Body.updPcAt_length]
    exact hst
  refine ⟨by rw [hwb, Body.updPcAt_mem, drainOne_mem], ?_⟩
  have hoff : ((drainOne o b (pcLoc st pc)).pcAt (pcLoc st pc)).offBus =
      { (b.pcAt (pcLoc st pc)).offBus with writes := t, lcRow := 0 } := by
    rw [drainOne_idle hw hr, Body.offBus_countWrites, Body.pcAt_updPcAt hst _ rfl]
    rfl
  rw [hwb, Body.pcAt_updPcAt hlen _ rfl, hw, List.drop_one, List.tail_cons]
  calc PcQueues.offBus { (drainOne o b (pcLoc st pc)).pcAt (pcLoc st pc) with batch := min 64 (r :: t).length - 1 }
      = { ((drainOne o b (pcLoc st pc)).pcAt (pcLoc st pc)).offBus with batch := min 64 (r :: t).length - 1 } := rfl
    _ = _ := by rw [hoff]

theorem writeBatch_unready {o : Own} {b : Body} {st : Fin 24} {pc : Fin 64} (h : batchReady (b.pcAt (pcLoc st pc)) = false) :
    writeBatch o b st pc = b := by
  unfold writeBatch
  dsimp only
  rw [Body.stack_pcOf, h]
  rfl

/-! ### Requests that have waited -/

/-- Where every request that waits or is queued is an LC read or marked already, nothing changes. -/
theorem bulkAged_none {o : Own} {b : Body} {st : Fin 24} {pc : Fin 64}
    (h : ∀ r ∈ (b.pcAt (pcLoc st pc)).waiting ++ (b.pcAt (pcLoc st pc)).writes, r.lc = true ∨ r.aged = true) :
    bulkAged o b st pc = b := by
  have hf : ((b.pcAt (pcLoc st pc)).waiting ++ (b.pcAt (pcLoc st pc)).writes).filter (fun r => !r.lc && !r.aged) = [] := by
    rw [List.filter_eq_nil_iff]
    intro r hr
    rcases h r hr with h | h <;> simp [h]
  unfold bulkAged
  dsimp only
  rw [Body.stack_pcOf, hf]
  rfl

/-- One request that waits and can be served is served next (R217). -/
theorem PcQueues.next_sole {maps : List MapDesc} {q : PcQueues} {r : DReq} (hw : q.waiting = [r]) (hlc : r.lc = false)
    (ha : r.aged = true) (hr : q.ready maps r = true) : q.next maps = some r := by
  have hh : q.headOf r = r := by
    unfold PcQueues.headOf
    rw [hw]
    cases hm : r.meets r <;> simp [hm]
  have hb : q.nextBulk maps = some r := by
    unfold PcQueues.nextBulk
    simp [hw, hh, hr, hlc, ha]
  unfold PcQueues.next
  rw [hb]
  simp [hw, hlc]

/-- A pseudo-channel from which a request has been taken. -/
def PcQueues.without (q : PcQueues) (r : DReq) : PcQueues := { q with waiting := q.waiting.erase r }

/-- The next request of a pseudo-channel is taken and served. -/
theorem pump_next {o : Own} {l : DramLoc} {n : Nat} {b : Body} {r : DReq} (ht : b.board.tripped = false)
    (ha : (b.stks.getD l.stack Stack.reset).admits = true) (hf : (b.pcAt l).writeFirst o.maps = false)
    (hn : (b.pcAt l).next o.maps = some r) :
    pump o l (n + 1) b = pump o l n (serve o (b.updPcAt l (·.without r)) l r) := by
  unfold Body.pcAt at hf hn
  conv_lhs => unfold pump
  dsimp only
  rw [ht, ha, hf, hn]
  rfl

theorem Body.offBus_readFrom {o : Own} {b : Body} {l : DramLoc} {r : DReq} (hs : l.stack < b.stks.length) :
    ((b.readFrom o l r).pcAt l).offBus = ((b.pcAt l).servedRead r).offBus := by
  unfold Body.readFrom
  refine (Body.offBus_modify _ _ _ l fun s k => by rw [Stack.latency_pcOf]).trans ?_
  rw [Body.offBus_countReads, Body.pcAt_updPcAt hs _ rfl]

/-- Serving one bulk read that no queued write answers: its data. -/
theorem serve_bulk_read {o : Own} {b : Body} {l : DramLoc} {r : DReq} (h : ReadsSound o b r) (hq : (b.pcAt l).writes = [])
    (hlc : r.lc = false) : serve o b l r = (b.readFrom o l r).emit (.netData r.who (b.mem.bytes r.addr r.n)) := by
  have hf : (b.pcAt l).forwards r = false := by
    rw [PcQueues.forwards_read h.data, PcQueues.reached, hq]
    rfl
  rw [serve_fromStack h.data hf fun e => absurd (hlc.symm.trans e) (by simp), h.readNow (Body.mem_of_counted (b.counted_readFrom o l r))]

/-- Where one aged bulk read is all that waits or is queued, it is served, in a batch too (R217). -/
theorem pumpAll_sole_read {o : Own} {b : Body} {l : DramLoc} {r : DReq} (h : ReadsSound o b r) (hs : l.stack < b.stks.length)
    (hw : (b.pcAt l).waiting = [r]) (hq : (b.pcAt l).writes = []) (hlc : r.lc = false) (ha : r.aged = true)
    (hr : (b.pcAt l).refreshing = none) (ht : b.board.tripped = false) (hadm : (b.stks.getD l.stack Stack.reset).admits = true) :
    ∃ t, pumpAll o b l = t.emit (.netData r.who (b.mem.bytes r.addr r.n)) ∧ b.counted t ∧ (t.pcAt l).waiting = [] := by
  have hnext : (b.pcAt l).next o.maps = some r := PcQueues.next_sole hw hlc ha (PcQueues.ready_read h.data hr (Or.inr (Or.inl ha)))
  have hfirst : (b.pcAt l).writeFirst o.maps = false := PcQueues.writeFirst_fresh (by rw [hq]; simp)
  have htaken : (b.updPcAt l (·.without r)).pcAt l = (b.pcAt l).without r := Body.pcAt_updPcAt hs (·.without r) rfl
  have hsound : ReadsSound o (b.updPcAt l (·.without r)) r := ⟨h.data, h.via, h.upsets, h.bad⟩
  have hall : pumpAll o b l = pump o l 1 b := by
    have hfuel : (b.pcAt l).waiting.length + (b.pcAt l).writes.length = 1 := by rw [hw, hq]; rfl
    exact congrArg (fun n => pump o l n b) hfuel
  refine ⟨(b.updPcAt l (·.without r)).readFrom o l r, ?_, Body.counted_trans (b.counted_updPcAt l _) (Body.counted_readFrom o _ l r), ?_⟩
  · rw [hall, pump_next ht hadm hfirst hnext]
    exact serve_bulk_read hsound (by rw [htaken]; exact hq) hlc
  · rw [PcQueues.waiting_of_offBus (Body.offBus_readFrom (by rwa [Body.updPcAt_length])), htaken]
    simp [PcQueues.servedRead, PcQueues.without, hw]

/-- A request that has waited 2 µs. -/
def DReq.old (r : DReq) : DReq := { r with aged := true }

/-- A pseudo-channel whose request of an arrival number has waited 2 µs. -/
def PcQueues.marked (q : PcQueues) (n : Nat) : PcQueues := { q with waiting := markAged n q.waiting, writes := markAged n q.writes }

theorem bulkAged_sole {o : Own} {b : Body} {st : Fin 24} {pc : Fin 64} {r : DReq} (hw : (b.pcAt (pcLoc st pc)).waiting = [r])
    (hq : (b.pcAt (pcLoc st pc)).writes = []) (hlc : r.lc = false) (ha : r.aged = false) :
    bulkAged o b st pc = pumpAll o (b.updPcAt (pcLoc st pc) (·.marked r.seq)) (pcLoc st pc) := by
  unfold bulkAged
  dsimp only
  rw [Body.stack_pcOf, hw, hq]
  simp only [List.append_nil, List.filter_cons, hlc, ha, Bool.not_false, Bool.and_self, if_true, List.filter_nil, List.map_cons,
    List.map_nil, List.min?_singleton]
  rfl

/-- A bulk read that alone has waited 2 µs is served (R217). -/
theorem bulkAged_read {o : Own} {b : Body} {st : Fin 24} {pc : Fin 64} {r : DReq} (hs : b.stks.length = 24)
    (h : ReadsSound o b r) (hw : (b.pcAt (pcLoc st pc)).waiting = [r]) (hq : (b.pcAt (pcLoc st pc)).writes = []) (hlc : r.lc = false)
    (ha : r.aged = false) (hr : (b.pcAt (pcLoc st pc)).refreshing = none) (ht : b.board.tripped = false)
    (hadm : (b.stack st).admits = true) :
    ∃ t, bulkAged o b st pc = t.emit (.netData r.who (b.mem.bytes r.addr r.n)) ∧ b.counted t ∧ (t.pcAt (pcLoc st pc)).waiting = [] := by
  have hst : (pcLoc st pc).stack < b.stks.length := by rw [hs]; exact st.isLt
  have hmark : (b.updPcAt (pcLoc st pc) (·.marked r.seq)).pcAt (pcLoc st pc) = (b.pcAt (pcLoc st pc)).marked r.seq :=
    Body.pcAt_updPcAt hst (·.marked r.seq) rfl
  obtain ⟨t, htt, hct, hwt⟩ := pumpAll_sole_read (o := o) (b := b.updPcAt (pcLoc st pc) (·.marked r.seq)) (l := pcLoc st pc) (r := r.old)
    ⟨h.data, h.via, h.upsets, h.bad⟩ (by rwa [Body.updPcAt_length]) (by rw [hmark]; simp [PcQueues.marked, hw, markAged, DReq.old])
    (by rw [hmark]; simp [PcQueues.marked, hq, markAged]) hlc rfl (by rw [hmark]; exact hr) ht
    ((Body.getD_updPcAt_admits _ hst).trans hadm)
  exact ⟨t, (bulkAged_sole hw hq hlc ha).trans htt, Body.counted_trans (b.counted_updPcAt _ _) hct, hwt⟩

/-! ### Refresh -/

/-- The refreshes that a pseudo-channel owes a bank. -/
def PcQueues.owes (q : PcQueues) (bank : Nat) : Nat := (q.owed.find? (fun r => r.1 == bank)).elim 0 (·.2)

/-- A pseudo-channel that owes a bank further refreshes. -/
def PcQueues.owing (q : PcQueues) (bank n : Nat) : PcQueues :=
  { q with owed := (bank, q.owes bank + n) :: q.owed.filter (·.1 != bank) }

/-- The refreshes that an interval's end brings: two at the doubled rate (R222). -/
def Stack.intervals (s : Stack) : Nat := if s.doubled then 2 else 1

/-- An idle bank of a pseudo-channel that owed none is refreshed next. -/
theorem PcQueues.nextRefresh_idle {maps : List MapDesc} {q : PcQueues} {bank n : Nat} (ho : q.owed = []) (h1 : 1 ≤ n) (h2 : n ≤ 8)
    (hb : q.busyBank maps bank = false) : (q.owing bank n).nextRefresh maps = some bank := by
  have hb' : (q.owing bank n).busyBank maps bank = false := hb
  have hn : (n != 0) = true := by simp; omega
  have ho' : (q.owing bank n).owed = [(bank, n)] := by simp [PcQueues.owing, PcQueues.owes, ho]
  unfold PcQueues.nextRefresh
  simp [ho', hn, hb', Nat.not_lt.mpr h2]

/-- A busy bank of a pseudo-channel that owed none is not refreshed yet. -/
theorem PcQueues.nextRefresh_busy {maps : List MapDesc} {q : PcQueues} {bank n : Nat} (ho : q.owed = []) (h2 : n ≤ 8)
    (hb : q.busyBank maps bank = true) : (q.owing bank n).nextRefresh maps = none := by
  have hb' : (q.owing bank n).busyBank maps bank = true := hb
  have ho' : (q.owing bank n).owed = [(bank, n)] := by simp [PcQueues.owing, PcQueues.owes, ho]
  unfold PcQueues.nextRefresh
  cases hn : (n != 0) <;> simp [ho', hn, hb', Nat.not_lt.mpr h2]

/-- While a bank is under refresh, or none is to be refreshed, none starts. -/
theorem Stack.refresh_none {maps : List MapDesc} {now pc : Nat} {s : Stack}
    (h : (s.pcOf pc).refreshing.isSome = true ∨ (s.pcOf pc).nextRefresh maps = none) : s.refresh maps now pc = s := by
  unfold Stack.refresh
  dsimp only
  rcases h with h | h
  · obtain ⟨r, hr⟩ := Option.isSome_iff_exists.mp h
    rw [hr]
  · rw [h]
    cases (s.pcOf pc).refreshing <;> rfl

/-- The refreshes counted for a bank of a stack. -/
def Stack.refreshedAt (s : Stack) (key : Nat) : Nat := (s.refreshes.find? (fun r => r.1 == key)).elim 0 (·.2)

/-- The refresh of a bank starts: it is counted, and the bank is owed one less (R222). -/
theorem Stack.refresh_starts {maps : List MapDesc} {now pc bank : Nat} {s : Stack} (hr : (s.pcOf pc).refreshing = none)
    (hn : (s.pcOf pc).nextRefresh maps = some bank) :
    (s.refresh maps now pc).refreshedAt (pc * 48 + bank) = s.refreshedAt (pc * 48 + bank) + 1 ∧
      ((s.refresh maps now pc).pcOf pc).refreshing = some (bank, now) ∧
      ((s.refresh maps now pc).pcOf pc).owed = (s.pcOf pc).owed.map fun r => if r.1 = bank then (r.1, r.2 - 1) else r := by
  have hpc : (s.refresh maps now pc).pcOf pc = { s.pcOf pc with
      refreshing := some (bank, now), rows := (s.pcOf pc).rows.filter (·.1 != bank)
      owed := (s.pcOf pc).owed.map fun r => if r.1 = bank then (r.1, r.2 - 1) else r } := by
    unfold Stack.refresh
    dsimp only
    rw [hr, hn]
    exact Stack.pcOf_updPc s pc (fun q => { q with
      refreshing := some (bank, now), rows := q.rows.filter (·.1 != bank)
      owed := q.owed.map fun r => if r.1 = bank then (r.1, r.2 - 1) else r }) rfl
  refine ⟨?_, by rw [hpc], by rw [hpc]⟩
  unfold Stack.refresh
  dsimp only
  rw [hr, hn]
  simp [Stack.refreshedAt]

end Sys2Proof.Machine

/-! PROOFS. The statement about DRAM: each command by the rules of its controllers. -/

namespace Sys2Proof.Machine

open Sys2Proof

/-! ### The statement -/

/-- What is counted at stacks alone changes neither memory, partitions nor the board. -/
theorem Body.kept_of_counted {b t : Body} (h : b.counted t) : t.mem = b.mem ∧ t.parts = b.parts ∧ t.board = b.board ∧ t.out = b.out := by
  obtain ⟨hboard, -, -, -, hparts, hmem, -, hout, -⟩ := h
  exact ⟨hmem, hparts, hboard, hout⟩

section
variable {s : State} {who : Requester} {addr : Addr} {n lat : Nat} {lc : Bool} {d : List (Option Byte)} {l : DramLoc}

/-- DRAM_READ that its controller answers as it arrives. -/
theorem execDramRead_served (h : s.body.clocked = true) (hl : locate s.own.maps addr.toNat = some l)
    (hc : netCheck s.own s.body who addr.toNat n = none) (h1 : 1 ≤ n) (hn : addr.toNat % 64 + n ≤ 64) (ht : s.body.board.tripped = false)
    (hw : (s.body.pcAt l).waiting = []) (hsound : ReadsSound s.own s.body (dramReq s.own who addr.toNat n lc lat))
    (hs : (s.body.pcAt l).reached (readSpan s.own.maps addr.toNat n).1 (readSpan s.own.maps addr.toNat n).2 = true ∨
      s.body.CanRead l (readClass s.own who lc addr.toNat n)) :
    ∃ t, execDramRead who ⟨addr, n⟩ lc lat [] s = .next t ∧ t.own = s.own ∧ t.body.mem = s.body.mem ∧
      t.body.out = s.body.out ++
        [.netData who (s.bytes (readSpan s.own.maps addr.toNat n).1 (readSpan s.own.maps addr.toNat n).2)] ∧
      (t.body.stks.getD l.stack Stack.reset).rd = (if (s.body.pcAt l).reached (readSpan s.own.maps addr.toNat n).1
          (readSpan s.own.maps addr.toNat n).2 = true then (s.body.stks.getD l.stack Stack.reset).rd
        else (s.body.stks.getD l.stack Stack.reset).rd + 1) ∧ t.body.parts = s.body.parts ∧ t.body.board = s.body.board := by
  obtain ⟨t, htt, hct, hrd⟩ := arrive_read hsound (inUnit_dramReq hl hc h1 hn) ht hw hs
  obtain ⟨hmem, hparts, hboard, hout⟩ := Body.kept_of_counted hct
  refine ⟨_, execDramRead_clocked h, rfl, ?_⟩
  dsimp only
  rw [dramRead_passed hl hc, htt]
  refine ⟨hmem, ?_, hrd, hparts, hboard⟩
  rw [Body.emit_out, hout]
  rfl

/-- DRAM_WRITE that is accepted as it arrives. -/
theorem execDramWrite_accepted (h : s.body.clocked = true) (hl : locate s.own.maps addr.toNat = some l)
    (hc : writeCheck s.own s.body who addr.toNat d.length = none) (ht : s.body.board.tripped = false)
    (hw : (s.body.pcAt l).waiting = []) (hs : l.stack < s.body.stks.length) (hu : s.body.mem.upsets = [])
    (h96 : (s.body.pcAt l).writes.length < 96) (ha : (s.body.stks.getD l.stack Stack.reset).admits = true)
    (hlost : s.body.mem.lostWords (wordSize s.own.maps addr.toNat) addr.toNat d = []) :
    ∃ t, execDramWrite who addr ⟨d, []⟩ s = .next t ∧ t.own = s.own ∧ t.body.parts = s.body.parts ∧
      t.body.board = s.body.board ∧ (t.body.pcAt l).writes = (s.body.pcAt l).writes ++
        [(netReq who addr.toNat d.length (some d)).stamped (s.body.pcAt l).arrivals] ∧ s.sameOutside t addr.toNat d.length ∧
      ∀ i : Nat, ∀ h : i < d.length, t.body.mem.byte (addr.toNat + i) = (d[i]'h).getD (s.body.mem.byte (addr.toNat + i)) := by
  refine ⟨_, execDramWrite_clocked h, rfl, ?_⟩
  dsimp only
  rw [dramWrite_passed hl hc, arrive_write ht hw hs hu rfl h96 ha hlost]
  refine ⟨rfl, rfl, ?_, fun x hx => Mem.byte_writeMasked_outside _ _ _ _ _ hx, fun i hi => ?_⟩
  · rw [Body.pcAt_updPcAt (by simpa using hs) _ rfl]
    change ((s.body.updPcAt l (·.arrived _)).pcAt l).writes ++ _ = _
    rw [Body.pcAt_updPcAt hs _ rfl]
    rfl
  · refine (Mem.byte_writeMasked s.body.mem _ _ _ _ hlost).trans ?_
    rw [if_pos (by omega), Nat.add_sub_cancel_left, List.getD_eq_getElem _ _ hi]

/-- DRAM_WRITE that waits. -/
theorem execDramWrite_waits (h : s.body.clocked = true) (hl : locate s.own.maps addr.toNat = some l)
    (hc : writeCheck s.own s.body who addr.toNat d.length = none) (ht : s.body.board.tripped = false)
    (hw : (s.body.pcAt l).waiting = []) (hs : l.stack < s.body.stks.length)
    (hq : (s.body.stks.getD l.stack Stack.reset).admits = false ∨
      (96 ≤ (s.body.pcAt l).writes.length ∧ ∀ w ∈ (s.body.pcAt l).writes, w.aged = false)) :
    ∃ t, execDramWrite who addr ⟨d, []⟩ s = .next t ∧ t.own = s.own ∧ t.body.parts = s.body.parts ∧
      t.body.board = s.body.board ∧ t.body.mem = s.body.mem ∧
      (t.body.pcAt l).waiting = [(netReq who addr.toNat d.length (some d)).stamped (s.body.pcAt l).arrivals] := by
  refine ⟨_, execDramWrite_clocked h, rfl, ?_⟩
  dsimp only
  rw [dramWrite_passed hl hc, arrive_write_waits ht hw hs rfl hq]
  refine ⟨rfl, rfl, rfl, ?_⟩
  rw [Body.pcAt_updPcAt (by rwa [Body.updPcAt_length]) _ rfl, Body.pcAt_updPcAt hs _ rfl]
  simp [PcQueues.waits, PcQueues.arrived, hw]

end

section
variable {s : State} {st : Fin 24} {pc : Fin 64}

/-- WRITE_BATCH that begins. -/
theorem execWriteBatch_begins (h : s.body.clocked = true) (hs : s.body.stks.length = 24)
    (hb : batchReady (s.body.pcAt (pcLoc st pc)) = true) (hr : (s.body.pcAt (pcLoc st pc)).refreshing = none) :
    ∃ t, execWriteBatch st pc s = .next t ∧ t.own = s.own ∧ t.body.mem = s.body.mem ∧
      (t.body.pcAt (pcLoc st pc)).writes = (s.body.pcAt (pcLoc st pc)).writes.drop 1 ∧
      (t.body.pcAt (pcLoc st pc)).batch = min 64 (s.body.pcAt (pcLoc st pc)).writes.length - 1 ∧
      (t.body.pcAt (pcLoc st pc)).waiting = (s.body.pcAt (pcLoc st pc)).waiting := by
  obtain ⟨hmem, hq⟩ := writeBatch_spec (o := s.own) hs hb hr
  exact ⟨_, State.onBody_clocked _ h, rfl, hmem.symm, congrArg (·.writes) hq, congrArg (·.batch) hq, congrArg (·.waiting) hq⟩

theorem execWriteBatch_unready (h : batchReady (s.body.pcAt (pcLoc st pc)) = false) : execWriteBatch st pc s = .next s :=
  State.onBody_same (writeBatch_unready h)

theorem execBulkRequestAged_none
    (h : ∀ r ∈ (s.body.pcAt (pcLoc st pc)).waiting ++ (s.body.pcAt (pcLoc st pc)).writes, r.lc = true ∨ r.aged = true) :
    execBulkRequestAged st pc s = .next s := State.onBody_same (bulkAged_none h)

theorem execRefreshManagementRequest_clocked (h : s.body.clocked = true) : execRefreshManagementRequest st s =
    .next { s with body := s.body.updStack st fun x => { x with rfm := x.rfm + 1 } } := State.onBody_clocked _ h

theorem execCaParityError_clocked (h : s.body.clocked = true) : execCaParityError st s =
    .next { s with body := s.body.updStack st fun x => { x with reissue := x.reissue + 1 } } := State.onBody_clocked _ h

theorem execOdeccRead_clocked (n : Nat) (h : s.body.clocked = true) : execOdeccRead st n s =
    .next { s with body := s.body.updStack st fun x => { x with odecc := satAdd x.odecc n } } := State.onBody_clocked _ h

/-- BULK_REQUEST_AGED of the one read that waits. -/
theorem execBulkRequestAged_read {r : DReq} (h : s.body.clocked = true) (hs : s.body.stks.length = 24)
    (hsound : ReadsSound s.own s.body r) (hw : (s.body.pcAt (pcLoc st pc)).waiting = [r]) (hq : (s.body.pcAt (pcLoc st pc)).writes = [])
    (hlc : r.lc = false) (ha : r.aged = false) (hr : (s.body.pcAt (pcLoc st pc)).refreshing = none) (ht : s.body.board.tripped = false)
    (hadm : (s.body.stack st).admits = true) :
    ∃ t, execBulkRequestAged st pc s = .next t ∧ t.own = s.own ∧ t.body.mem = s.body.mem ∧
      (t.body.pcAt (pcLoc st pc)).waiting = [] ∧ t.body.out = s.body.out ++ [.netData r.who (s.bytes r.addr r.n)] := by
  obtain ⟨t, htt, hct, hwt⟩ := bulkAged_read hs hsound hw hq hlc ha hr ht hadm
  obtain ⟨hmem, -, -, hout⟩ := Body.kept_of_counted hct
  refine ⟨_, State.onBody_clocked _ h, rfl, ?_⟩
  dsimp only
  rw [htt]
  refine ⟨hmem, hwt, ?_⟩
  rw [Body.emit_out, hout]
  rfl

/-- The stack after PER_BANK_REFRESH, and what it leaves. -/
theorem execPerBankRefresh_stack (bank : Fin 48) (h : s.body.clocked = true) (hs : s.body.stks.length = 24) :
    ∃ t, execPerBankRefresh st pc bank s = .next t ∧ t.own = s.own ∧ t.body.mem = s.body.mem ∧ t.body.stack st =
      ((s.body.stack st).updPc pc.val (·.owing bank.val (s.body.stack st).intervals)).refresh s.own.maps s.body.board.uptime pc.val := by
  refine ⟨_, State.onBody_clocked _ h, rfl, rfl, ?_⟩
  dsimp only
  rw [Body.stack_updStack _ _ _ (by rw [hs]; exact st.isLt)]
  rfl

theorem Stack.intervals_bounds (x : Stack) : 1 ≤ x.intervals ∧ x.intervals ≤ 8 := by
  unfold Stack.intervals
  split <;> omega

theorem Stack.pcOf_owing (x : Stack) (bank n : Nat) :
    (x.updPc pc.val (·.owing bank n)).pcOf pc.val = (x.pcOf pc.val).owing bank n := x.pcOf_updPc _ (·.owing bank n) rfl

/-- PER_BANK_REFRESH of an idle bank of a pseudo-channel that owed none: it is refreshed at once (R222). -/
theorem execPerBankRefresh_idle {bank : Fin 48} (h : s.body.clocked = true) (hs : s.body.stks.length = 24)
    (ho : ((s.body.stack st).pcOf pc.val).owed = []) (hr : ((s.body.stack st).pcOf pc.val).refreshing = none)
    (hb : ((s.body.stack st).pcOf pc.val).busyBank s.own.maps bank.val = false) :
    ∃ t, execPerBankRefresh st pc bank s = .next t ∧ t.own = s.own ∧ t.body.mem = s.body.mem ∧
      (t.body.stack st).refreshedAt (pc.val * 48 + bank.val) = (s.body.stack st).refreshedAt (pc.val * 48 + bank.val) + 1 ∧
      ((t.body.stack st).pcOf pc.val).refreshing = some (bank.val, s.body.board.uptime) ∧
      ((t.body.stack st).pcOf pc.val).owed = [(bank.val, (s.body.stack st).intervals - 1)] := by
  obtain ⟨t, ht, hown, hmem, hx⟩ := execPerBankRefresh_stack (s := s) (st := st) (pc := pc) bank h hs
  obtain ⟨h1, h8⟩ := (s.body.stack st).intervals_bounds
  obtain ⟨hc, hre, how⟩ := Stack.refresh_starts (now := s.body.board.uptime)
    (s := (s.body.stack st).updPc pc.val (·.owing bank.val (s.body.stack st).intervals))
    (by rw [Stack.pcOf_owing]; exact hr) (by rw [Stack.pcOf_owing]; exact PcQueues.nextRefresh_idle ho h1 h8 hb)
  refine ⟨t, ht, hown, hmem, ?_⟩
  rw [hx]
  refine ⟨hc, hre, how.trans ?_⟩
  rw [Stack.pcOf_owing]
  simp [PcQueues.owing, PcQueues.owes, ho]

/-- PER_BANK_REFRESH during another refresh, or of a busy bank: it is owed (R222). -/
theorem execPerBankRefresh_owed {bank : Fin 48} (h : s.body.clocked = true) (hs : s.body.stks.length = 24)
    (hb : ((s.body.stack st).pcOf pc.val).refreshing.isSome = true ∨ (((s.body.stack st).pcOf pc.val).owed = [] ∧
      ((s.body.stack st).pcOf pc.val).busyBank s.own.maps bank.val = true)) :
    ∃ t, execPerBankRefresh st pc bank s = .next t ∧ t.own = s.own ∧ t.body.mem = s.body.mem ∧
      (t.body.stack st).refreshes = (s.body.stack st).refreshes ∧
      ((t.body.stack st).pcOf pc.val).owes bank.val = ((s.body.stack st).pcOf pc.val).owes bank.val + (s.body.stack st).intervals := by
  obtain ⟨t, ht, hown, hmem, hx⟩ := execPerBankRefresh_stack (s := s) (st := st) (pc := pc) bank h hs
  refine ⟨t, ht, hown, hmem, ?_⟩
  rw [hx, Stack.refresh_none]
  · refine ⟨rfl, ?_⟩
    rw [Stack.pcOf_owing]
    simp [PcQueues.owing, PcQueues.owes]
  · rw [Stack.pcOf_owing]
    exact hb.imp id fun ⟨ho, hbusy⟩ => PcQueues.nextRefresh_busy ho (s.body.stack st).intervals_bounds.2 hbusy

end

/-- Settles O36: each command's row by the rules of its controller. -/
theorem dram : Obligations.Dram := by
  refine ⟨fun s who addr n lc lat h => ⟨?rUnmapped, ?rRefused, ?rPassed⟩, fun s who addr d h => ⟨?wUnmapped, ?wRefused, ?wPassed⟩,
    fun s st pc h hs => ⟨⟨?noBatch, ?batch, ?noAged, ?aged, ?refreshed, ?owed⟩, execRefreshManagementRequest_clocked h,
      execCaParityError_clocked h, fun n => execOdeccRead_clocked n h⟩⟩
  case rUnmapped =>
    intro ecc hl
    refine ⟨_, execDramRead_clocked h, rfl, ?_⟩
    dsimp only
    rw [dramRead_unmapped hl]
    exact refuse_emit_spec _ _ _ _ _ _
  case rRefused =>
    intro ecc l st hl hc
    refine ⟨_, execDramRead_clocked h, rfl, ?_⟩
    dsimp only
    rw [dramRead_refused hl hc]
    exact refuse_emit_spec _ _ _ _ _ _
  case rPassed =>
    intro l hl hc h1 hn
    refine ⟨fun ht => ?_, fun ht hw hu hb hs => ?_⟩
    · refine (execDramRead_clocked h).trans ?_
      rw [dramRead_passed hl hc, arrive_tripped ht]
    · exact execDramRead_served h hl hc h1 hn ht hw ⟨rfl, rfl, hu, hb⟩ hs
  case wUnmapped =>
    intro ecc hl
    refine ⟨_, execDramWrite_clocked h, rfl, ?_⟩
    dsimp only
    rw [dramWrite_unmapped hl]
    exact refuse_emit_spec _ _ _ _ _ _
  case wRefused =>
    intro ecc l st x hl hc
    refine ⟨_, execDramWrite_clocked h, rfl, ?_⟩
    dsimp only
    rw [dramWrite_refused hl hc]
    exact refuse_emit_spec _ _ _ _ _ _
  case wPassed =>
    intro l hl hc
    refine ⟨fun ht => ?_, fun ht hw hs hu => ⟨fun h96 ha hlost => ?_, fun hq => ?_⟩⟩
    · refine (execDramWrite_clocked h).trans ?_
      rw [dramWrite_passed hl hc, arrive_tripped ht]
    · exact execDramWrite_accepted h hl hc ht hw hs hu h96 ha hlost
    · exact execDramWrite_waits h hl hc ht hw hs hq
  case noBatch => exact execWriteBatch_unready
  case batch => exact fun hb hr => execWriteBatch_begins h hs hb hr
  case noAged => exact execBulkRequestAged_none
  case aged => exact fun r hw hq hd hlc ha hv hr ht hadm hu hb => execBulkRequestAged_read h hs ⟨hd, hv, hu, hb⟩ hw hq hlc ha hr ht hadm
  case refreshed => exact fun bank ho hr hb => execPerBankRefresh_idle h hs ho hr hb
  case owed => exact fun bank hb => execPerBankRefresh_owed h hs hb

end Sys2Proof.Machine

/-! PROOFS. Writes of one operation on sound memory: what they store, and that nothing else changes (R18, R19, R119, R197, R218). -/

namespace Sys2Proof.Machine

open Sys2Proof

/-! ### What traffic and stores leave -/

/-- t is b but for its stacks and its memory. -/
def Body.memoryAlone (b t : Body) : Prop := t = { b with stks := t.stks, mem := t.mem }

theorem Body.memoryAlone_refl (b : Body) : b.memoryAlone b := rfl

theorem Body.memoryAlone_trans {b t u : Body} (h : b.memoryAlone t) (k : t.memoryAlone u) : b.memoryAlone u := by
  unfold Body.memoryAlone at *
  rw [k, h]

/-- Everything but stacks and memory. -/
theorem Body.eqs_of_memoryAlone {b t : Body} (h : b.memoryAlone t) : t.board = b.board ∧ t.ports = b.ports ∧ t.mail = b.mail ∧
    t.fab = b.fab ∧ t.bkp = b.bkp ∧ t.out = b.out ∧ t.parts = b.parts ∧ t.cores = b.cores ∧ t.quads = b.quads ∧ t.free = b.free := by
  unfold Body.memoryAlone at h
  rw [h]
  exact ⟨rfl, rfl, rfl, rfl, rfl, rfl, rfl, rfl, rfl, rfl⟩

theorem Body.parts_of_memoryAlone {b t : Body} (h : b.memoryAlone t) : t.parts = b.parts := by
  obtain ⟨-, -, -, -, -, -, hparts, -⟩ := Body.eqs_of_memoryAlone h
  exact hparts

theorem Body.board_of_memoryAlone {b t : Body} (h : b.memoryAlone t) : t.board = b.board := by
  obtain ⟨hboard, -⟩ := Body.eqs_of_memoryAlone h
  exact hboard

/-- A fold of operations that leave all but stacks and memory. -/
theorem Body.memoryAlone_foldl {α : Type} {f : Body → α → Body} (h : ∀ (b : Body) (x : α), b.memoryAlone (f b x)) (l : List α) (b : Body) :
    b.memoryAlone (l.foldl f b) := by
  induction l generalizing b with
  | nil => exact b.memoryAlone_refl
  | cons x t ih => exact Body.memoryAlone_trans (h b x) (ih _)

/-- A change of a stack. -/
theorem Body.memoryAlone_atStack (b : Body) (l : DramLoc) (f : Stack → Stack) : b.memoryAlone (b.atStack l f) := rfl

theorem Body.memoryAlone_traffic (b : Body) (w : Bool) (us : List (DramLoc × Nat)) : b.memoryAlone (b.traffic w us) := by
  unfold Body.traffic
  refine Body.memoryAlone_trans (Body.memoryAlone_foldl (fun b _ => b.memoryAlone_atStack _ _) _ b) (Body.memoryAlone_foldl ?_ _ _)
  exact fun _ _ => rfl

theorem Body.memoryAlone_countReadsOf (o : Own) (b : Body) (rs : List (Nat × Nat)) : b.memoryAlone (b.countReadsOf o rs) :=
  b.memoryAlone_traffic _ _

theorem Body.memoryAlone_countWrites (o : Own) (b : Body) (a : Nat) (d : List (Option Byte)) : b.memoryAlone (b.countWrites o a d) := by
  have h := Body.memoryAlone_foldl (f := fun b (u : DramLoc × Nat) => b.atStack u.1 fun s => { s with rmw := s.rmw + 1 })
    (fun _ _ => rfl) (mergeUnits o a d) (b.traffic false (mergeUnits o a d))
  exact Body.memoryAlone_trans (Body.memoryAlone_trans (b.memoryAlone_traffic _ _) h) (Body.memoryAlone_traffic _ _ _)

/-! ### Waiting requests -/

/-- No request that waits at a stack reaches a unit of n bytes at a. -/
def Stack.clear (a n : Nat) (s : Stack) : Bool := s.queues.all fun q => q.waiting.all fun r => !r.reaches a n

theorem Stack.clear_updPc {a n pc : Nat} {s : Stack} {f : PcQueues → PcQueues} (hf : ∀ q, (f q).waiting = q.waiting)
    (h : s.clear a n = true) : (s.updPc pc f).clear a n = true := by
  simp only [Stack.clear, List.all_eq_true] at *
  intro q hq
  rcases List.mem_cons.mp hq with rfl | hq
  · rw [hf]
    unfold Stack.pcOf
    cases hx : s.queues.find? (·.pc == pc) with
    | none => simp
    | some x => exact h x (List.mem_of_find?_eq_some hx)
  · exact h q (List.mem_filter.mp hq).1

theorem Stack.clear_move {a n ceil k : Nat} {l : DramLoc} {w : Bool} {s : Stack} (h : s.clear a n = true) :
    (s.move ceil l w k).clear a n = true := by
  have ht : (s.turn l.pc w).clear a n = true := by
    refine Stack.clear_updPc (f := fun q => { q with lastWrite := w }) (fun _ => rfl) ?_
    split <;> exact h
  exact Stack.clear_updPc (s := s.turn l.pc w) (f := fun q => { q with rows := (l.bank, l.row) :: q.rows.filter (·.1 != l.bank) })
    (fun _ => rfl) ht

/-- An element of a changed list is an element that stood there or the change of one. -/
theorem mem_modify {α : Type} {l : List α} {i : Nat} {f : α → α} {x : α} (h : x ∈ l.modify i f) : x ∈ l ∨ ∃ y ∈ l, x = f y := by
  obtain ⟨k, hk, rfl⟩ := List.mem_iff_getElem.mp h
  rw [List.getElem_modify]
  have hk' : k < l.length := by simpa using hk
  split
  · exact Or.inr ⟨l[k], List.getElem_mem hk', rfl⟩
  · exact Or.inl (List.getElem_mem hk')

theorem Body.noneWaits_iff {b : Body} {a n : Nat} : b.noneWaits a n = true ↔ ∀ s ∈ b.stks, s.clear a n = true := by
  simp only [Body.noneWaits, Stack.clear, List.all_eq_true]

theorem Body.noneWaits_modify {b : Body} {a n i : Nat} {f : Stack → Stack} (hf : ∀ s : Stack, s.clear a n = true → (f s).clear a n = true)
    (h : b.noneWaits a n = true) : ({ b with stks := b.stks.modify i f } : Body).noneWaits a n = true := by
  rw [Body.noneWaits_iff] at *
  intro s hs
  rcases mem_modify hs with hs | ⟨y, hy, rfl⟩
  · exact h s hs
  · exact hf y (h y hy)

theorem Body.noneWaits_traffic {b : Body} {a n : Nat} (w : Bool) (us : List (DramLoc × Nat)) (h : b.noneWaits a n = true) :
    (b.traffic w us).noneWaits a n = true := by
  refine List.foldlRecOn (motive := fun (t : Body) => t.noneWaits a n = true) _ _
    (List.foldlRecOn (motive := fun (t : Body) => t.noneWaits a n = true) _ _ h fun t ht u _ => ?moved) fun t ht st _ => ?counted
  case moved => exact Body.noneWaits_modify (fun s hs => Stack.clear_move hs) ht
  case counted =>
    refine Body.noneWaits_modify (fun s hs => ?_) ht
    split <;> exact hs

theorem Body.noneWaits_countReadsOf {o : Own} {b : Body} {a n : Nat} (rs : List (Nat × Nat)) (h : b.noneWaits a n = true) :
    (b.countReadsOf o rs).noneWaits a n = true := Body.noneWaits_traffic _ _ h

theorem Body.noneWaits_countWrites {o : Own} {b : Body} {a n c : Nat} {d : List (Option Byte)} (h : b.noneWaits a n = true) :
    (b.countWrites o c d).noneWaits a n = true := by
  unfold Body.countWrites
  refine Body.noneWaits_traffic _ _ ?_
  exact List.foldlRecOn (motive := fun (t : Body) => t.noneWaits a n = true) _ _ (Body.noneWaits_traffic _ _ h)
    fun t ht u _ => Body.noneWaits_modify (fun s hs => hs) ht

/-- Where no older request waits for the ranges of some requests, they are in order already (R218). -/
theorem Body.ordered_clear {o : Own} {b : Body} {rs : List (Nat × Nat)} (h : ∀ r ∈ rs, b.noneWaits r.1 r.2 = true) : b.ordered o rs = b := by
  unfold Body.ordered
  induction rs with
  | nil => rfl
  | cons r t ih =>
    have hr : serveOlder o b r.1 r.2 = b := if_pos (h r List.mem_cons_self)
    rw [List.foldl_cons, hr]
    exact ih fun x hx => h x (List.mem_cons_of_mem _ hx)

/-! ### Sound memory -/

theorem Mem.sound_iff {m : Mem} : m.sound = true ↔ m.poison = [] ∧ m.upsets = [] := by
  simp [Mem.sound]

theorem Mem.lostWords_sound {m : Mem} (word a : Nat) (d : List (Option Byte)) (h : m.sound = true) : m.lostWords word a d = [] :=
  m.lostWords_nil word a d (Mem.sound_iff.mp h).1 (Mem.sound_iff.mp h).2

theorem Mem.sound_writeMasked {m : Mem} (word a : Nat) (d : List (Option Byte)) (h : m.sound = true) :
    (m.writeMasked word a d).sound = true := by
  obtain ⟨hp, hu⟩ := Mem.sound_iff.mp h
  simp [Mem.sound, Mem.writeMasked, hp, hu]

/-- Sound memory has no word that cannot be read. -/
theorem Body.firstBad_sound {o : Own} {b : Body} (rs : List (Nat × Nat)) (h : b.mem.sound = true) : b.firstBad o rs = none :=
  if_pos (Mem.sound_iff.mp h)

theorem Body.correctedIn_sound {o : Own} {b : Body} (rs : List (Nat × Nat)) (h : b.mem.sound = true) : b.correctedIn o rs = b :=
  Body.correctedIn_clean o b rs (Mem.sound_iff.mp h).2

/-- A store in sound memory: its traffic, and the masked write of memory (R18, R215). -/
theorem Body.store_sound {o : Own} {b : Body} (a : Nat) (d : List (Option Byte)) (h : b.mem.sound = true) :
    b.store o a d = (b.countWrites o a d).updMem (·.writeMasked (wordSize o.maps a) a d) := by
  have hm : (b.countWrites o a d).mem.sound = true := by rwa [Body.countWrites_mem]
  exact Body.place_sound (Mem.sound_iff.mp hm).2 (Mem.lostWords_sound _ _ _ hm)

theorem Body.memoryAlone_store {o : Own} {b : Body} (a : Nat) (d : List (Option Byte)) (h : b.mem.sound = true) :
    b.memoryAlone (b.store o a d) := by
  rw [Body.store_sound a d h]
  exact Body.memoryAlone_trans (b.memoryAlone_countWrites o a d) rfl

theorem Body.sound_store {o : Own} {b : Body} (a : Nat) (d : List (Option Byte)) (h : b.mem.sound = true) :
    (b.store o a d).mem.sound = true := by
  rw [Body.store_mem o b a d (Mem.sound_iff.mp h).2]
  exact Mem.sound_writeMasked _ _ _ h

theorem Body.noneWaits_store {o : Own} {b : Body} {a n c : Nat} {d : List (Option Byte)} (hs : b.mem.sound = true)
    (h : b.noneWaits a n = true) : (b.store o c d).noneWaits a n = true := by
  rw [Body.store_sound c d hs]
  exact Body.noneWaits_countWrites (o := o) (c := c) (d := d) h

/-! ### The writes of one operation -/

/-- What writes in sound memory leave: everything but stacks and memory; memory stays sound; no byte is lost; and no request comes to
wait. -/
structure PutSpec (b : Body) (r : Body × Written) : Prop where
  alone : b.memoryAlone r.1
  sound : r.1.mem.sound = true
  lost  : r.2.lost = none
  waits : ∀ a n, b.noneWaits a n = true → r.1.noneWaits a n = true

theorem putSpec_putOne {o : Own} {b : Body} {who : Requester} {r : Body × Written} (w : Nat × List (Option Byte)) (h : PutSpec b r) :
    PutSpec b (Body.putOne o who r w) := by
  obtain ⟨halone, hsound, hlost, hwaits⟩ := h
  refine ⟨Body.memoryAlone_trans halone (Body.memoryAlone_store _ _ hsound), Body.sound_store _ _ hsound, ?_,
    fun a n hn => Body.noneWaits_store hsound (hwaits a n hn)⟩
  simp only [Body.putOne, hlost, Mem.lostWords_sound _ _ _ hsound]
  rfl

theorem putSpec_putAll {o : Own} {b : Body} (who : Requester) (ws : List (Nat × List (Option Byte))) (h : b.mem.sound = true) :
    PutSpec b (b.putAll o who ws) :=
  List.foldlRecOn (motive := PutSpec b) _ _ ⟨b.memoryAlone_refl, h, rfl, fun _ _ hn => hn⟩ fun _ hr w _ => putSpec_putOne w hr

/-- Writes of a media unit in sound memory, with no older request for their units: they are made in their order, and no fault is
raised. -/
theorem Body.mediaPut_eq {o : Own} {b : Body} {m : MjRun} {ws : List (Nat × List Byte)} (hs : b.mem.sound = true)
    (hw : ∀ w ∈ joinWrites (ws.map whole), b.noneWaits w.1 w.2.length = true) :
    b.mediaPut o m ws = (b.putAll o (.media m.ctx.part m.core m.idx) (ws.map whole)).1 := by
  have hord : b.ordered o ((joinWrites (ws.map whole)).map fun w => (w.1, w.2.length)) = b := by
    refine Body.ordered_clear fun r hr => ?_
    obtain ⟨w, hw', rfl⟩ := List.mem_map.mp hr
    exact hw w hw'
  unfold Body.mediaPut Body.putOrdered
  dsimp only
  rw [hord, (putSpec_putAll _ _ hs).lost]

/-- No request waits anywhere, and memory is sound. -/
structure Body.Calm (b : Body) : Prop where
  sound : b.mem.sound = true
  waits : ∀ a n, b.noneWaits a n = true

theorem Body.calm_of_idle {b : Body} (h : b.mem.sound = true) (hq : ∀ y ∈ b.stks, ∀ k ∈ y.queues, k.waiting = []) : b.Calm := by
  refine ⟨h, fun a n => Body.noneWaits_iff.mpr fun s hs => ?_⟩
  simp only [Stack.clear, List.all_eq_true]
  intro q hq' r hr
  rw [hq s hs q hq'] at hr
  exact absurd hr List.not_mem_nil

/-- A calm body with the same stacks and memory. -/
theorem Body.Calm.congr {b t : Body} (h : b.Calm) (hs : t.stks = b.stks) (hm : t.mem = b.mem) : t.Calm :=
  ⟨by rw [hm]; exact h.sound, fun a n => by
    have := h.waits a n
    unfold Body.noneWaits at *
    rwa [hs]⟩

theorem Body.Calm.countReadsOf {o : Own} {b : Body} (h : b.Calm) (rs : List (Nat × Nat)) : (b.countReadsOf o rs).Calm :=
  ⟨by rw [Body.countReadsOf_mem]; exact h.sound, fun a n => Body.noneWaits_countReadsOf rs (h.waits a n)⟩

/-- Writes of a media unit on a calm body change stacks and memory alone, and leave it calm. -/
theorem Body.Calm.mediaPut {o : Own} {b : Body} (h : b.Calm) (m : MjRun) (ws : List (Nat × List Byte)) :
    b.memoryAlone (b.mediaPut o m ws) ∧ (b.mediaPut o m ws).Calm := by
  obtain ⟨halone, hsound, -, hwaits⟩ := putSpec_putAll (o := o) (.media m.ctx.part m.core m.idx) (ws.map whole) h.sound
  rw [Body.mediaPut_eq h.sound fun w _ => h.waits _ _]
  exact ⟨halone, hsound, fun a n => hwaits a n (h.waits a n)⟩

/-! ### Which writes are refused -/

/-- The bytes of each partition's batch-table slots that no write may change (R119, R120). -/
def Body.guards (b : Body) : List (List (Nat × Nat)) := b.parts.map fun p => p.slots.flatMap protectedRanges

theorem protectedHit_eq (b : Body) (a n : Nat) : protectedHit b a n = b.guards.flatten.findSome? fun r =>
    if r.1 < a + n ∧ a < r.1 + r.2 then some (max r.1 a) else none := by
  unfold protectedHit Body.guards
  rw [List.flatMap_def]

/-- The world map's check of a media unit's request turns on the board alone. -/
theorem netCheck_media {o : Own} {b t : Body} (p : Fin 8) (c : Fin 32) (i a n : Nat) (hb : t.board = b.board) :
    netCheck o t (.media p c i) a n = netCheck o b (.media p c i) a n := by
  unfold netCheck Body.dramUp
  rw [hb]
  rfl

theorem readRefused_media {o : Own} {b t : Body} (p : Fin 8) (c : Fin 32) (i : Nat) (rs : List (Nat × Nat)) (hb : t.board = b.board) :
    t.readRefused o (.media p c i) rs = b.readRefused o (.media p c i) rs := by
  unfold Body.readRefused
  simp only [netCheck_media (o := o) p c i _ _ hb]

/-- The check of a media unit's write turns on the board and the guarded slots alone. -/
theorem writeCheck_media {o : Own} {b t : Body} (p : Fin 8) (c : Fin 32) (i a n : Nat) (hb : t.board = b.board) (hg : t.guards = b.guards) :
    writeCheck o t (.media p c i) a n = writeCheck o b (.media p c i) a n := by
  unfold writeCheck
  rw [netCheck_media p c i a n hb, protectedHit_eq, protectedHit_eq, hg]

theorem refusedIn_media {o : Own} {b t : Body} (p : Fin 8) (c : Fin 32) (i a n : Nat) (hb : t.board = b.board) (hg : t.guards = b.guards) :
    t.refusedIn o (.media p c i) a n = b.refusedIn o (.media p c i) a n := by
  unfold Body.refusedIn
  simp only [writeCheck_media (o := o) p c i _ _ hb hg]

/-- What a list shows of its elements, where a change leaves it. -/
theorem map_modify_eq {α β : Type} {g : α → β} {f : α → α} (h : ∀ x, g (f x) = g x) (l : List α) (i : Nat) :
    (l.modify i f).map g = l.map g := by
  apply List.ext_getElem
  · simp
  · intro k h1 h2
    simp only [List.getElem_map, List.getElem_modify]
    split
    · exact h _
    · rfl

/-- A change of a partition that leaves its almanac slots guards what it guarded. -/
theorem Body.guards_updPart {b : Body} {p : Fin 8} {f : Part → Part} (h : ∀ x, (f x).slots = x.slots) : (b.updPart p f).guards = b.guards :=
  map_modify_eq (fun x => by rw [h x]) _ _

theorem protectedRanges_event (s : Slot) (e : Nat) : protectedRanges (s.event e) = protectedRanges s := by
  unfold Slot.event
  split <;> rfl

/-- An event guards what was guarded. -/
theorem Body.guards_event {b : Body} (p : Fin 8) (k : Fin 4) (e : Nat) : (b.updSlot p k (·.event e)).guards = b.guards :=
  map_modify_eq (fun x => by
    rw [List.flatMap_def, List.flatMap_def, map_modify_eq (protectedRanges_event · e)]) _ _

/-! ### The bytes that writes leave -/

/-- A byte after a list of masked writes, made in order. -/
def maskedAfter (a : Nat) (v : Byte) (ws : List (Nat × List (Option Byte))) : Byte :=
  ws.foldl (fun v w => if w.1 ≤ a ∧ a < w.1 + w.2.length then (w.2.getD (a - w.1) none).getD v else v) v

/-- Two writes that follow one another in memory leave what they leave joined. -/
theorem maskedAfter_append (a : Nat) (v : Byte) (x : Nat) (d e : List (Option Byte)) (r : List (Nat × List (Option Byte))) :
    maskedAfter a v ((x, d ++ e) :: r) = maskedAfter a v ((x, d) :: (x + d.length, e) :: r) := by
  unfold maskedAfter
  simp only [List.foldl_cons, List.length_append]
  congr 1
  by_cases h1 : x ≤ a ∧ a < x + d.length
  · rw [if_pos (by omega), if_pos h1, if_neg (by omega), List.getD_append _ _ _ _ (by omega)]
  · by_cases h2 : x + d.length ≤ a ∧ a < x + d.length + e.length
    · rw [if_pos (by omega), if_neg h1, if_pos h2, List.getD_append_right _ _ _ _ (by omega), Nat.sub_sub]
    · rw [if_neg (by omega), if_neg h1, if_neg h2]

theorem maskedAfter_cons_congr (a : Nat) {r t : List (Nat × List (Option Byte))} (h : ∀ v, maskedAfter a v r = maskedAfter a v t)
    (v : Byte) (w : Nat × List (Option Byte)) : maskedAfter a v (w :: r) = maskedAfter a v (w :: t) := h _

theorem joinWrites_cons (w : Nat × List (Option Byte)) (t : List (Nat × List (Option Byte))) : joinWrites (w :: t) =
    match joinWrites t with
    | [] => [w]
    | v :: r => if w.1 + w.2.length = v.1 then (w.1, w.2 ++ v.2) :: r else w :: v :: r := rfl

/-- Joining writes changes no byte that they leave (R197). -/
theorem maskedAfter_joinWrites (a : Nat) (v : Byte) (ws : List (Nat × List (Option Byte))) :
    maskedAfter a v (joinWrites ws) = maskedAfter a v ws := by
  induction ws generalizing v with
  | nil => rfl
  | cons w t ih =>
    rw [← maskedAfter_cons_congr a ih v w]
    rw [joinWrites_cons]
    cases joinWrites t with
    | nil => rfl
    | cons u r =>
      dsimp only
      split
      · next h => rw [maskedAfter_append, h]
      · rfl

/-- Whole bytes, as masked writes. -/
theorem maskedAfter_whole (a : Nat) (m : Mem) (ws : List (Nat × List Byte)) :
    maskedAfter a (m.byte a) (ws.map whole) = Claims.after m ws a := by
  unfold maskedAfter Claims.after
  generalize m.byte a = v
  induction ws generalizing v with
  | nil => rfl
  | cons w t ih =>
    simp only [List.map_cons, List.foldl_cons]
    rw [← ih]
    congr 1
    simp only [whole, List.length_map]
    split
    · next h =>
      have hk : a - w.1 < w.2.length := by omega
      simp [List.getD_eq_getElem?_getD, hk]
    · rfl

/-- A store of a requester in sound memory. -/
theorem Body.byte_store {o : Own} {b : Body} {a : Nat} {d : List (Option Byte)} (h : b.mem.sound = true) (x : Nat) :
    (b.store o a d).mem.byte x = maskedAfter x (b.mem.byte x) [(a, d)] := by
  rw [Body.store_mem o b a d (Mem.sound_iff.mp h).2, Mem.byte_writeMasked _ _ _ _ _ (Mem.lostWords_sound _ _ _ h)]
  rfl

/-- Writes of which none is refused leave their bytes, in order. -/
theorem Body.byte_putFold {o : Own} {p : Fin 8} {c : Fin 32} {i : Nat} (ws : List (Nat × List (Option Byte))) (r : Body × Written)
    (hs : r.1.mem.sound = true) (hw : ∀ w ∈ ws, r.1.refusedIn o (.media p c i) w.1 w.2.length = none) (x : Nat) :
    (ws.foldl (Body.putOne o (.media p c i)) r).1.mem.byte x = maskedAfter x (r.1.mem.byte x) ws := by
  induction ws generalizing r with
  | nil => rfl
  | cons w t ih =>
    have h1 : (Body.putOne o (.media p c i) r w).1 = r.1.store o w.1 w.2 := by
      unfold Body.putOne
      dsimp only
      rw [hw w List.mem_cons_self]
      rfl
    have halone := Body.memoryAlone_store (o := o) w.1 w.2 hs
    rw [List.foldl_cons, ih, h1, Body.byte_store hs]
    · rfl
    · rw [h1]
      exact Body.sound_store _ _ hs
    · intro u hu
      rw [h1, refusedIn_media p c i _ _ (Body.board_of_memoryAlone halone) (congrArg (List.map _) (Body.parts_of_memoryAlone halone))]
      exact hw u (List.mem_cons_of_mem _ hu)

/-- Writes of a media unit of which the memories refuse none store their bytes, in order, and change no other (R18, R19, R119). -/
theorem Body.byte_mediaPut {o : Own} {b : Body} {m : MjRun} {ws : List (Nat × List Byte)} (hs : b.mem.sound = true)
    (hw : ∀ w ∈ joinWrites (ws.map whole), b.refusedIn o (.media m.ctx.part m.core m.idx) w.1 w.2.length = none ∧
      b.noneWaits w.1 w.2.length = true) (x : Nat) : (b.mediaPut o m ws).mem.byte x = Claims.after b.mem ws x := by
  rw [Body.mediaPut_eq hs fun w h => (hw w h).2]
  refine (Body.byte_putFold _ (b, ⟨none, none⟩) hs (fun w h => (hw w h).1) x).trans ?_
  rw [maskedAfter_joinWrites, maskedAfter_whole]

end Sys2Proof.Machine

/-! PROOFS. Partitions under the media units: their MJs, counters, event queues and events (R126, R342, R411). -/

namespace Sys2Proof.Machine

open Sys2Proof

/-! ### What lies outside the engines -/

/-- Nothing outside the engines, partitions and memory changes. -/
def Body.inner (b t : Body) : Prop :=
  t.board = b.board ∧ t.ports = b.ports ∧ t.mail = b.mail ∧ t.fab = b.fab ∧ t.bkp = b.bkp ∧ t.out = b.out

theorem Body.inner_refl (b : Body) : b.inner b := ⟨rfl, rfl, rfl, rfl, rfl, rfl⟩

theorem Body.inner_trans {b t u : Body} (h : b.inner t) (k : t.inner u) : b.inner u := by
  obtain ⟨hboard, hports, hmail, hfab, hbkp, hout⟩ := h
  obtain ⟨kboard, kports, kmail, kfab, kbkp, kout⟩ := k
  exact ⟨kboard.trans hboard, kports.trans hports, kmail.trans hmail, kfab.trans hfab, kbkp.trans hbkp, kout.trans hout⟩

theorem Body.inner_of_memoryAlone {b t : Body} (h : b.memoryAlone t) : b.inner t := by
  obtain ⟨hboard, hports, hmail, hfab, hbkp, hout, -⟩ := Body.eqs_of_memoryAlone h
  exact ⟨hboard, hports, hmail, hfab, hbkp, hout⟩

theorem Body.inner_updPart (b : Body) (p : Fin 8) (f : Part → Part) : b.inner (b.updPart p f) := ⟨rfl, rfl, rfl, rfl, rfl, rfl⟩

/-- The same, of the state. -/
theorem Claims.quiet_of_inner {s : State} {t : Body} (h : s.body.inner t) : Claims.quiet s { s with body := t } := ⟨rfl, rfl, h⟩

theorem Body.part_of_memoryAlone {b t : Body} (h : b.memoryAlone t) (p : Fin 8) : t.part p = b.part p := by
  unfold Body.part
  rw [Body.parts_of_memoryAlone h]

theorem Body.parts_length_of_memoryAlone {b t : Body} (h : b.memoryAlone t) : t.parts.length = b.parts.length := by
  rw [Body.parts_of_memoryAlone h]

/-- A change of a partition leaves stacks and memory calm. -/
theorem Body.Calm.updPart {b : Body} (h : b.Calm) (p : Fin 8) (f : Part → Part) : (b.updPart p f).Calm := h.congr rfl rfl

/-! ### Event queues -/

/-- An event's record changes its partition's queue alone. -/
theorem Body.part_appendEvent (o : Own) {b : Body} {p : Fin 8} (r : EventRec) (hp : p.val < b.parts.length) :
    ∃ es l, (b.appendEvent o p r).part p = { b.part p with events := es, lost := l } := by
  unfold Body.appendEvent
  extract_lets evs b'
  have hb' : b'.part p = { b.part p with events := evs ++ [r] } := b.part_updPart p _ hp
  split
  · exact ⟨_, _, b.part_updPart p _ hp⟩
  · split
    · obtain ⟨-, -, -, -, -, -, hparts, -⟩ := b'.signalled_firePart o p (33 + p.val)
      refine ⟨evs ++ [r], (b.part p).lost, ?_⟩
      rw [← hb']
      unfold Body.part
      rw [hparts]
    · exact ⟨_, _, hb'⟩

theorem Body.part_mediaEvent (o : Own) {b : Body} {p : Fin 8} (st : W16) (r : List Byte) (hp : p.val < b.parts.length) :
    ∃ es l, (b.mediaEvent o p st r).part p = { b.part p with events := es, lost := l } := by
  unfold Body.mediaEvent
  split
  · exact ⟨_, _, rfl⟩
  · exact b.part_appendEvent o _ hp

theorem Body.Calm.mediaEvent {b : Body} (h : b.Calm) (o : Own) (p : Fin 8) (st : W16) (r : List Byte) : (b.mediaEvent o p st r).Calm := by
  unfold Body.mediaEvent
  split
  · exact h
  · obtain ⟨-, -, -, hstks, -, hmem, -⟩ := b.logged_appendEvent o p ⟨r ++ leBytes 8 (b.fab.time % 2 ^ 64)⟩
    exact h.congr hstks hmem

/-! ### MJs -/

/-- MJs of one context, core and entry are one, whatever else differs. -/
theorem MjRun.same_iff {m n : MjRun} : m.same n = true ↔ m.ctx = n.ctx ∧ m.core = n.core ∧ m.idx = n.idx := by
  simp [MjRun.same, and_assoc]

theorem MjRun.same_self (m : MjRun) : m.same m = true := MjRun.same_iff.mpr ⟨rfl, rfl, rfl⟩

/-- The partition holds an MJ of that identity. -/
def Part.holds (y : Part) (m : MjRun) : Prop := ∃ n ∈ y.mjs, n.same m = true

/-- An MJ replaces the one of its identity. -/
theorem Part.mem_setMj {y : Part} {m : MjRun} (h : y.holds m) : m ∈ (y.setMj m).mjs := by
  obtain ⟨n, hn, hs⟩ := h
  exact List.mem_map.mpr ⟨n, hn, if_pos hs⟩

theorem Part.setMj_medDone (y : Part) (m : MjRun) : (y.setMj m).medDone = y.medDone := rfl

theorem Part.setMj_medRefused (y : Part) (m : MjRun) : (y.setMj m).medRefused = y.medRefused := rfl

theorem Part.countSlot_medDone (y : Part) (st : W16) (v : Bool) (i : Nat) : (y.countSlot st v i).medDone = y.medDone + 1 := rfl

theorem Part.countSlot_medRefused {y : Part} {st : W16} (v : Bool) (i : Nat) (h : slotRefused st = true) :
    (y.countSlot st v i).medRefused = satAdd y.medRefused 1 := if_pos h

/-! ### Refusals -/

theorem not_stOk_of_slotRefused {st : W16} (h : slotRefused st = true) : st ≠ stOk := by
  rintro rfl
  exact absurd h (by decide)

/-- The world map refuses a request with a status that refuses a slot. -/
theorem slotRefused_of_netCheck {o : Own} {b : Body} {who : Requester} {a n : Nat} {st : W16} (h : netCheck o b who a n = some st) :
    slotRefused st = true := by
  unfold netCheck at h
  extract_lets world at h
  have hworld : world = some st → slotRefused st = true := by
    intro hw
    simp only [world] at hw
    split at hw
    · cases hw
    · split at hw
      · cases hw
      · cases hw
        rfl
  have hbounds : some stBounds = some st → slotRefused st = true := by
    rintro ⟨⟩
    rfl
  split at h
  · exact hbounds h
  · split at h
    · exact hworld h
    · exact hbounds h
  · split at h
    · exact hworld h
    · cases h
      rfl
  · exact hworld h

theorem slotRefused_of_readRefused {o : Own} {b : Body} {who : Requester} {rs : List (Nat × Nat)} {st : W16} {a : Nat}
    (h : b.readRefused o who rs = some (st, a)) : slotRefused st = true := by
  obtain ⟨r, -, hr⟩ := List.exists_of_findSome?_eq_some h
  split at hr
  · cases hr
  · obtain ⟨q, -, hq⟩ := List.exists_of_findSome?_eq_some hr
    obtain ⟨st', hst, he⟩ := Option.map_eq_some_iff.mp hq
    cases he
    exact slotRefused_of_netCheck hst

/-! ### Events -/

/-- An event is counted once, and no other (R126). -/
theorem Slot.count_event (s : Slot) (evt e : Nat) : (s.event evt).count e = s.count e + if e = evt ∧ evt ≠ 0xFF then 1 else 0 := by
  unfold Slot.event
  split
  · next h => simp [h]
  · next h =>
    have hpad : ∀ k : Nat, (s.events ++ List.replicate (evt + 1 - s.events.length) 0)[k]?.getD 0 = s.events[k]?.getD 0 := by
      intro k
      by_cases hk : k < s.events.length
      · rw [List.getElem?_append_left hk]
      · rw [List.getElem?_append_right (by omega), List.getElem?_eq_none (l := s.events) (by omega), List.getElem?_replicate]
        split <;> rfl
    simp only [Slot.count, List.getD_eq_getElem?_getD, List.getElem?_modify]
    by_cases he : e = evt
    · subst he
      have hlt : e < (s.events ++ List.replicate (e + 1 - s.events.length) 0).length := by
        simp
        omega
      rw [← hpad e, List.getElem?_eq_getElem hlt]
      simp [h]
    · rw [← hpad e]
      simp [he, Ne.symm he]

theorem Claims.counts_of_event {s t : State} {x : CtxId} {evt : Nat}
    (h : t.body.slot x.part x.slot = (s.body.slot x.part x.slot).event evt) : Claims.counts s t x evt := by
  intro e
  rw [h, Slot.count_event]

end Sys2Proof.Machine

/-! PROOFS. Encode MJs: what coding a picture, a slice segment and the end of a slot leave (R159, R171, R373 to R377). -/

namespace Sys2Proof.Machine

open Sys2Proof

/-! ### The end of a slot -/

/-- The MJ of an encode slot that has ended. -/
def MjRun.encoded (m : MjRun) (void : Bool) : MjRun :=
  { m with slots := [{ encodeSlot with done := true, void := void, cycles := m.cycles }] }

/-- The end of an encode MJ's slot counts it, and changes nothing else of its partition but the MJ and the event queue; a status that
is not OK is the slot's (R342, R370). -/
theorem part_encodeEnds {o : Own} {b : Body} {p : Fin 8} (m : MjRun) (j : Mj) (st : W16) (hc : b.Calm) (hp : p.val < b.parts.length) :
    ∃ (st' : W16) (n : Nat) (es : List EventRec) (l : W32), (st ≠ stOk → st' = st) ∧ (encodeEnds o b p m j st).part p =
      { ((b.part p).setMj (m.encoded (st' != stOk))).countSlot st' (st' != stOk) n with events := es, lost := l } := by
  unfold encodeEnds
  extract_lets st' void f r idle done b1
  have hb1 : b1.part p = ((b.part p).setMj (m.encoded void)).countSlot st' void (f 0) := Body.part_updPart _ p _ hp
  have hp1 : p.val < b1.parts.length := by
    rw [Body.updPart_parts_length]
    exact hp
  have hc1 : b1.Calm := hc.congr rfl rfl
  obtain ⟨es, l, hev⟩ := Body.part_mediaEvent o st' r hp1
  obtain ⟨hput, -⟩ := (hc1.mediaEvent o p st' r).mediaPut (o := o) m
    ((if void then [(j.dst, List.replicate j.pitch 0)] else []) ++ [(j.stat, r)])
  refine ⟨st', f 0, es, l, fun h => if_neg h, ?_⟩
  rw [Body.part_of_memoryAlone hput, hev, hb1]

/-! ### A picture coded -/

/-- The MJ after a picture of it, with n filler bytes. -/
def MjRun.nextPicture (m : MjRun) (n : Nat) : MjRun :=
  { m with
    frame := m.frame + 1, slice := 0, bytes := m.bytes + n, picBits := 0, picRetry := 0, picFall := false, picData := [] }

/-- A partition after a picture: it counts in its session, which its CPB fullness q follows, and in VID_PICS (R375, R381). -/
def Part.pictureCoded (y : Part) (m : MjRun) (i : Nat) (e : EncSession) (q : Nat) : Part :=
  { y.setMj m with
    encs := y.encs.set i { e with picture := e.picture + 1, fullness := q }
    vidPics := y.vidPics + 1 }

theorem Part.pictureCoded_medDone (y : Part) (m : MjRun) (i : Nat) (e : EncSession) (q : Nat) :
    (y.pictureCoded m i e q).medDone = y.medDone := rfl

/-- t is b after a picture of m, before its slot may end. -/
structure PictureCoded (b t : Body) (p : Fin 8) (m : MjRun) (i : Nat) (e : EncSession) (n q : Nat) : Prop where
  inner : b.inner t
  calm  : t.Calm
  parts : t.parts.length = b.parts.length
  part  : t.part p = (b.part p).pictureCoded (m.nextPicture n) i e q

theorem pictureEnds_coded {o : Own} {b : Body} {p : Fin 8} (m : MjRun) (j : Mj) (i : Nat) (e : EncSession) (src ref : List Byte)
    (c : Coded) (hc : b.Calm) (hp : p.val < b.parts.length) :
    ∃ (t : Body) (n q : Nat), PictureCoded b t p m i e n q ∧ pictureEnds o b p m j i e src ref c =
      if m.frame + 1 = j.nfr then encodeEnds o t p (m.nextPicture n) j stOk else t := by
  unfold pictureEnds
  extract_lets q data n map ws m' reads b1
  have hreads : b.memoryAlone ((b.correctedIn o reads).countReadsOf o reads) := by
    rw [Body.correctedIn_sound reads hc.sound]
    exact Body.memoryAlone_countReadsOf o b reads
  have hcalm : ((b.correctedIn o reads).countReadsOf o reads).Calm := by
    rw [Body.correctedIn_sound reads hc.sound]
    exact hc.countReadsOf reads
  obtain ⟨hput, hcput⟩ := hcalm.mediaPut (o := o) m ws
  have halone := Body.memoryAlone_trans hreads hput
  have hlen := Body.parts_length_of_memoryAlone halone
  refine ⟨b1, q.1.length, q.2, ⟨?inner, hcput.updPart p _, ?parts, ?part⟩, rfl⟩
  case inner => exact Body.inner_trans (Body.inner_of_memoryAlone halone) (Body.inner_updPart _ p _)
  case parts => exact (Body.updPart_parts_length _ _ _).trans hlen
  case part =>
    refine (Body.part_updPart _ p _ (hlen ▸ hp)).trans ?_
    rw [Body.part_of_memoryAlone halone]
    rfl

/-! ### The MJ in progress -/

theorem Body.mem_of_encoding {b : Body} {p : Fin 8} {c : Fin 32} {ae i : Nat} {m : MjRun} {j : Mj} {e : EncSession}
    (h : b.encoding p c ae = some (m, j, i, e)) : m ∈ (b.part p).mjs := by
  unfold Body.encoding at h
  split at h
  · cases h
  · next n hn =>
    split at h
    · cases h
    · extract_lets j' at h
      split at h
      · obtain ⟨rfl, -⟩ := Prod.mk.inj (Option.some.inj h)
        unfold Body.mjRunOf at hn
        split at hn
        · cases hn
        · exact List.mem_of_find?_eq_some hn
      · cases h

section
variable {o : Own} {b : Body} {p : Fin 8} {c : Fin 32} {ae i : Nat} {m : MjRun} {j : Mj} {e : EncSession}

theorem encodePicture_idle (h : b.encoding p c ae = none) : encodePicture o b p c ae = b := by
  unfold encodePicture
  rw [h]

theorem encodeSlice_idle (h : b.encoding p c ae = none) : encodeSlice o b p c ae = b := by
  unfold encodeSlice
  rw [h]

variable (h : b.encoding p c ae = some (m, j, i, e))
include h

theorem encodePicture_waits (hs : encodeSource o b m j e m.frame = .waits) : encodePicture o b p c ae = b := by
  unfold encodePicture
  rw [h]
  dsimp only
  rw [hs]

theorem encodePicture_refused {st : W16} (hs : encodeSource o b m j e m.frame = .refused st) :
    encodePicture o b p c ae = encodeEnds o b p { m with frame := j.nfr } j st := by
  unfold encodePicture
  rw [h]
  dsimp only
  rw [hs]

theorem encodePicture_unreadable {w : Nat} (hs : encodeSource o b m j e m.frame = .unreadable w) :
    encodePicture o b p c ae = b.readBad o (.media p c ae) w := by
  unfold encodePicture
  rw [h]
  dsimp only
  rw [hs]

/-- A picture coded as slice segments waits for its last. -/
theorem encodePicture_segments {src ref : List Byte} (hs : encodeSource o b m j e m.frame = .found src ref) (hr : e.sliceRows ≠ 0) :
    encodePicture o b p c ae = if m.slice = e.slices then pictureEnds o b p m j i e src ref ⟨m.picData, m.picRetry, m.picFall⟩ else b := by
  unfold encodePicture
  rw [h]
  dsimp only
  rw [hs]
  exact if_pos hr

theorem encodeSlice_other (hs : e.sliceRows = 0 ∨ e.slices ≤ m.slice) : encodeSlice o b p c ae = b := by
  unfold encodeSlice
  rw [h]
  exact if_pos hs

theorem encodeSlice_waits (hs : encodeSource o b m j e m.frame = .waits) : encodeSlice o b p c ae = b := by
  unfold encodeSlice
  rw [h]
  dsimp only
  rw [hs]
  exact ite_self b

theorem encodeSlice_refused {st : W16} (hs : encodeSource o b m j e m.frame = .refused st) : encodeSlice o b p c ae = b := by
  unfold encodeSlice
  rw [h]
  dsimp only
  rw [hs]
  exact ite_self b

theorem encodeSlice_unreadable {w : Nat} (hs : encodeSource o b m j e m.frame = .unreadable w) (hr : e.sliceRows ≠ 0)
    (hm : m.slice < e.slices) : encodeSlice o b p c ae = b.readBad o (.media p c ae) w := by
  unfold encodeSlice
  rw [h]
  dsimp only
  rw [hs]
  exact if_neg (by omega)

end

end Sys2Proof.Machine

/-! PROOFS. ENCODE_PICTURE and ENCODE_SLICE_COMPLETE: what each leaves (R159, R171, R373 to R377). -/

namespace Sys2Proof.Machine

open Sys2Proof

/-! ### What precedes a picture's end -/

/-- What b0 keeps of b when the picture that m codes is about to end with MJ m0: everything but bytes coded, and its event, which has
been counted where the picture is coded whole. -/
structure PictureReady (b b0 : Body) (p : Fin 8) (m m0 : MjRun) (whole : Prop) (evt : Nat) : Prop where
  inner   : b.inner b0
  calm    : b0.Calm
  parts   : b0.parts.length = b.parts.length
  mjs     : (b0.part p).mjs = (b.part p).mjs
  encs    : (b0.part p).encs = (b.part p).encs
  vidPics : (b0.part p).vidPics = (b.part p).vidPics
  medDone : (b0.part p).medDone = (b.part p).medDone
  same    : m0.same m = true
  frame   : m0.frame = m.frame
  bytes   : m.bytes ≤ m0.bytes
  event   : whole → b0.slot m.ctx.part m.ctx.slot = (b.slot m.ctx.part m.ctx.slot).event evt

/-- The segments of a picture have been coded and counted. -/
theorem pictureReady_segments {b : Body} (p : Fin 8) (m : MjRun) {whole : Prop} (evt : Nat) (hc : b.Calm) (hw : ¬ whole) :
    PictureReady b b p m m whole evt :=
  ⟨b.inner_refl, hc, rfl, rfl, rfl, rfl, rfl, m.same_self, rfl, le_rfl, fun h => absurd h hw⟩

/-- The bytes of a picture coded whole. -/
def EncSession.codeWhole (e : EncSession) (j : Mj) (m : MjRun) (src ref : List Byte) : Coded :=
  (e.fit 0 e.fullness (e.fallbackBits e.idr) src ref).within (j.pitch - m.bytes)

/-- The MJ when they are written. -/
def MjRun.wholeCoded (m : MjRun) (e : EncSession) (c : Coded) : MjRun :=
  { m with bytes := m.bytes + c.bytes.length, cycles := m.cycles + c.cycles (e.width * e.height) }

/-- The body when they are written and the event is counted. -/
def Body.wholeCoded (o : Own) (b : Body) (p : Fin 8) (m : MjRun) (j : Mj) (c : Coded) : Body :=
  ((b.updPart p (·.countCoded c)).mediaPut o m [(j.dst + m.bytes, c.bytes)]).updSlot m.ctx.part m.ctx.slot (·.event j.pevt)

theorem pictureReady_whole {o : Own} {b : Body} {p : Fin 8} {m : MjRun} (j : Mj) (e : EncSession) (c : Coded) (whole : Prop)
    (hc : b.Calm) (hp : p.val < b.parts.length) (hk : (b.part p).slots.length = 4) (hm : m.ctx.part = p) :
    PictureReady b (b.wholeCoded o p m j c) p m (m.wholeCoded e c) whole j.pevt := by
  subst hm
  let b1 := b.updPart m.ctx.part (·.countCoded c)
  have hpart1 : b1.part m.ctx.part = (b.part m.ctx.part).countCoded c := b.part_updPart _ _ hp
  obtain ⟨hput, hcput⟩ := (hc.updPart m.ctx.part (·.countCoded c)).mediaPut (o := o) m [(j.dst + m.bytes, c.bytes)]
  have hlen : (b1.mediaPut o m [(j.dst + m.bytes, c.bytes)]).parts.length = b.parts.length :=
    (Body.parts_length_of_memoryAlone hput).trans (b.updPart_parts_length _ _)
  have hpart2 : (b1.mediaPut o m [(j.dst + m.bytes, c.bytes)]).part m.ctx.part = (b.part m.ctx.part).countCoded c :=
    (Body.part_of_memoryAlone hput _).trans hpart1
  have hpart : (b.wholeCoded o m.ctx.part m j c).part m.ctx.part =
      { (b.part m.ctx.part).countCoded c with slots := (b.part m.ctx.part).slots.modify m.ctx.slot.val (·.event j.pevt) } := by
    refine (Body.part_updPart _ _ _ (hlen ▸ hp)).trans ?_
    rw [hpart2]
    rfl
  refine ⟨?inner, hcput.congr rfl rfl, ?parts, ?mjs, ?encs, ?vidPics, ?medDone, MjRun.same_iff.mpr ⟨rfl, rfl, rfl⟩, rfl,
    Nat.le_add_right _ _, fun _ => ?event⟩
  case inner =>
    exact Body.inner_trans (Body.inner_trans (b.inner_updPart _ _) (Body.inner_of_memoryAlone hput)) (Body.inner_updPart _ _ _)
  case parts => exact (Body.updPart_parts_length _ _ _).trans hlen
  case mjs => exact congrArg (·.mjs) hpart
  case encs => exact congrArg (·.encs) hpart
  case vidPics => exact congrArg (·.vidPics) hpart
  case medDone => exact congrArg (·.medDone) hpart
  case event =>
    have hslots : (b1.mediaPut o m [(j.dst + m.bytes, c.bytes)]).slot m.ctx.part m.ctx.slot = b.slot m.ctx.part m.ctx.slot := by
      unfold Body.slot
      rw [hpart2]
      rfl
    unfold Body.wholeCoded
    rw [Body.slot_updSlot _ _ _ _ (hlen ▸ hp), hslots]
    rw [hpart2]
    exact Nat.lt_of_lt_of_eq m.ctx.slot.isLt hk.symm

/-- A picture coded whole. -/
theorem encodePicture_whole {o : Own} {b : Body} {p : Fin 8} {c : Fin 32} {ae i : Nat} {m : MjRun} {j : Mj} {e : EncSession}
    {src ref : List Byte} (h : b.encoding p c ae = some (m, j, i, e)) (hs : encodeSource o b m j e m.frame = .found src ref)
    (hr : e.sliceRows = 0) : encodePicture o b p c ae =
      pictureEnds o (b.wholeCoded o p m j (e.codeWhole j m src ref)) p (m.wholeCoded e (e.codeWhole j m src ref)) j i e src ref
        (e.codeWhole j m src ref) := by
  unfold encodePicture
  simp only [h, hs]
  exact if_neg (not_not.mpr hr)

/-! ### A picture ends -/

section
variable {o : Own} {b b0 : Body} {p : Fin 8} {m m0 : MjRun} {whole : Prop} {evt : Nat} (hr : PictureReady b b0 p m m0 whole evt)
include hr

theorem PictureReady.holds (hm : m ∈ (b.part p).mjs) (n : Nat) : (b0.part p).holds (m0.nextPicture n) := by
  obtain ⟨hctx, hcore, hidx⟩ := MjRun.same_iff.mp hr.same
  exact ⟨m, hr.mjs ▸ hm, MjRun.same_iff.mpr ⟨hctx.symm, hcore.symm, hidx.symm⟩⟩

/-- A picture with others to follow: it counts in its session and in VID_PICS, and the MJ goes on to the next frame. -/
theorem PictureReady.more {j : Mj} {i : Nat} {e : EncSession} {src ref : List Byte} {c : Coded} (hm : m ∈ (b.part p).mjs)
    (hp : p.val < b.parts.length) (he : i < (b.part p).encs.length) (hmp : m.ctx.part = p) (hf : m.frame + 1 < j.nfr) :
    ∃ t, pictureEnds o b0 p m0 j i e src ref c = t ∧ b.inner t ∧ (t.part p).vidPics = (b.part p).vidPics + 1 ∧
      (whole → t.slot m.ctx.part m.ctx.slot = (b.slot m.ctx.part m.ctx.slot).event evt) ∧
      ((t.part p).encs.getD i EncSession.reset).picture = e.picture + 1 ∧
      ∃ n ∈ (t.part p).mjs, n.same m = true ∧ n.frame = m.frame + 1 ∧ n.slice = 0 ∧ m.bytes ≤ n.bytes := by
  obtain ⟨t, n, q, ht, heq⟩ := pictureEnds_coded (o := o) m0 j i e src ref c hr.calm (hr.parts ▸ hp)
  have hframe : m0.frame + 1 ≠ j.nfr := by
    rw [hr.frame]
    omega
  rw [if_neg hframe] at heq
  refine ⟨t, heq, Body.inner_trans hr.inner ht.inner, ?vidPics, fun hw => ?event, ?picture, m0.nextPicture n, ?mj, hr.same,
    congrArg (· + 1) hr.frame, rfl, Nat.le_trans hr.bytes (Nat.le_add_right _ _)⟩
  case vidPics =>
    rw [ht.part, ← hr.vidPics]
    rfl
  case event =>
    rw [← hr.event hw]
    unfold Body.slot
    rw [hmp, ht.part]
    rfl
  case picture =>
    rw [ht.part]
    have hi : i < (b0.part p).encs.length := hr.encs ▸ he
    simp [Part.pictureCoded, List.getD_eq_getElem?_getD, hi]
  case mj =>
    rw [ht.part]
    exact Part.mem_setMj (hr.holds hm n)

/-- The last picture of a slot: it counts in VID_PICS, and the slot is done and counts too. -/
theorem PictureReady.last {j : Mj} {i : Nat} {e : EncSession} {src ref : List Byte} {c : Coded} (hm : m ∈ (b.part p).mjs)
    (hp : p.val < b.parts.length) (hf : m.frame + 1 = j.nfr) :
    ∃ t, pictureEnds o b0 p m0 j i e src ref c = t ∧ (t.part p).vidPics = (b.part p).vidPics + 1 ∧
      (t.part p).medDone = (b.part p).medDone + 1 ∧ ∃ n ∈ (t.part p).mjs, n.same m = true ∧ n.slots.all (·.done) = true := by
  obtain ⟨t, n, q, ht, heq⟩ := pictureEnds_coded (o := o) m0 j i e src ref c hr.calm (hr.parts ▸ hp)
  rw [if_pos ((congrArg (· + 1) hr.frame).trans hf)] at heq
  obtain ⟨st, x, es, l, -, hpart⟩ := part_encodeEnds (o := o) (m0.nextPicture n) j stOk ht.calm (ht.parts ▸ hr.parts ▸ hp)
  refine ⟨_, heq, ?vidPics, ?medDone, (m0.nextPicture n).encoded (st != stOk), ?mj, hr.same, rfl⟩
  case vidPics =>
    rw [hpart, ht.part, ← hr.vidPics]
    rfl
  case medDone =>
    rw [hpart, ht.part]
    simp only [Part.countSlot_medDone, Part.setMj_medDone, Part.pictureCoded_medDone, hr.medDone]
  case mj =>
    rw [hpart, ht.part]
    exact Part.mem_setMj (m := (m0.nextPicture n).encoded (st != stOk))
      ⟨m0.nextPicture n, Part.mem_setMj (hr.holds hm n), MjRun.same_self _⟩

end

/-! ### A slice segment -/

/-- The bytes of the next slice segment, within what the slices after it leave (R377). -/
def EncSession.codeSlice (e : EncSession) (j : Mj) (m : MjRun) (src ref : List Byte) : Coded :=
  let after := e.ctuBits (e.ctusFrom (m.slice + 1))
  let bound := (if m.slice = 0 then 2048 else 0) + e.ctuBits (e.ctusFrom m.slice) - after
  (e.fit m.slice (e.fullness - (after + m.picBits) * e.unit) bound src ref).within (j.pitch - m.bytes)

/-- The MJ when they are coded. -/
def MjRun.sliceCoded (m : MjRun) (e : EncSession) (c : Coded) : MjRun :=
  { m with
    slice := m.slice + 1, bytes := m.bytes + c.bytes.length, picBits := m.picBits + 8 * c.bytes.length
    picRetry := max m.picRetry c.retry, picFall := m.picFall || c.fall, picData := m.picData ++ c.bytes
    cycles := m.cycles + c.cycles (e.sliceLuma m.slice) }

/-- The body when the segment and its event are counted, before it is written. -/
def Body.sliceCoded (b : Body) (p : Fin 8) (m : MjRun) (j : Mj) (e : EncSession) (c : Coded) : Body :=
  (b.updPart p fun y => (y.setMj (m.sliceCoded e c)).countCoded c).updSlot m.ctx.part m.ctx.slot (·.event j.pevt)

theorem encodeSlice_found {o : Own} {b : Body} {p : Fin 8} {c : Fin 32} {ae i : Nat} {m : MjRun} {j : Mj} {e : EncSession}
    {src ref : List Byte} (h : b.encoding p c ae = some (m, j, i, e)) (hs : encodeSource o b m j e m.frame = .found src ref)
    (hr : e.sliceRows ≠ 0) (hm : m.slice < e.slices) (hc : b.mem.sound = true) : encodeSlice o b p c ae =
      (b.sliceCoded p m j e (e.codeSlice j m src ref)).mediaPut o m [(j.dst + m.bytes, (e.codeSlice j m src ref).bytes)] := by
  unfold encodeSlice
  simp only [h, hs, Body.correctedIn_sound _ hc]
  exact if_neg (by omega)

section
variable {b : Body} {p : Fin 8} {m : MjRun} (j : Mj) (e : EncSession) (c : Coded) (hp : p.val < b.parts.length) (hm : m.ctx.part = p)
include hp hm

theorem Body.part_sliceCoded : (b.sliceCoded p m j e c).part p =
    { ((b.part p).setMj (m.sliceCoded e c)).countCoded c with
      slots := (b.part p).slots.modify m.ctx.slot.val (·.event j.pevt) } := by
  subst hm
  have hlen := b.updPart_parts_length m.ctx.part fun y => (y.setMj (m.sliceCoded e c)).countCoded c
  refine (Body.part_updPart _ _ _ (hlen ▸ hp)).trans ?_
  rw [Body.part_updPart _ _ _ hp]
  rfl

theorem Body.slot_sliceCoded (hk : (b.part p).slots.length = 4) : (b.sliceCoded p m j e c).slot m.ctx.part m.ctx.slot =
    (b.slot m.ctx.part m.ctx.slot).event j.pevt := by
  subst hm
  unfold Body.slot
  rw [Body.part_sliceCoded j e c hp rfl]
  exact getD_modify_self _ _ _ _ (Nat.lt_of_lt_of_eq m.ctx.slot.isLt hk.symm)

omit hp hm in
theorem Body.guards_sliceCoded : (b.sliceCoded p m j e c).guards = b.guards :=
  (Body.guards_event _ _ _).trans (Body.guards_updPart fun _ => rfl)

end

/-- A slice segment whose bytes the memories take is written after those before it, and no other byte changes. -/
theorem stored_sliceCoded {s : State} {p : Fin 8} {m : MjRun} (j : Mj) (e : EncSession) (c : Coded) (hm : m.ctx.part = p)
    (hu : Claims.unguarded s (.media p m.core m.idx) [(j.dst + m.bytes, c.bytes)]) :
    Claims.stored s { s with body := (s.body.sliceCoded p m j e c).mediaPut s.own m [(j.dst + m.bytes, c.bytes)] }
      [(j.dst + m.bytes, c.bytes)] := by
  subst hm
  obtain ⟨hs, hw⟩ := hu
  refine Body.byte_mediaPut (b := s.body.sliceCoded m.ctx.part m j e c) hs fun w h => ?_
  rw [refusedIn_media (b := s.body) (t := s.body.sliceCoded m.ctx.part m j e c) m.ctx.part m.core m.idx _ _ rfl (Body.guards_sliceCoded j e c)]
  exact hw w h

end Sys2Proof.Machine

/-! PROOFS. The encode commands: each outcome of ENCODE_PICTURE and ENCODE_SLICE_COMPLETE as the state it leaves (R373 to R377). -/

namespace Sys2Proof.Machine

open Sys2Proof

/-- A state that is whole holds eight partitions. -/
theorem Claims.part_lt {s : State} (h : Claims.slotsWhole s) (p : Fin 8) : p.val < s.body.parts.length :=
  Nat.lt_of_lt_of_eq p.isLt h.1.symm

/-- What refuses a picture's reads refuses its slot. -/
theorem slotRefused_of_encodeSource {o : Own} {b : Body} {m : MjRun} {j : Mj} {e : EncSession} {n : Nat} {st : W16}
    (h : encodeSource o b m j e n = .refused st) : slotRefused st = true := by
  unfold encodeSource at h
  extract_lets reads at h
  split at h
  · cases h
  · split at h
    · next _ _ _ _ hr =>
      cases h
      exact slotRefused_of_readRefused hr
    · cases h
    · cases h

theorem execEncodePicture_same {s : State} {p : Fin 8} {c : Fin 32} {ae : Nat} (h : encodePicture s.own s.body p c ae = s.body) :
    execEncodePicture p c ae s = .next s := State.onBody_same h

theorem execEncodeSliceComplete_same {s : State} {p : Fin 8} {c : Fin 32} {ae : Nat} (h : encodeSlice s.own s.body p c ae = s.body) :
    execEncodeSliceComplete p c ae s = .next s := State.onBody_same h

section
variable {s : State} {p : Fin 8} {c : Fin 32} {ae i : Nat} {m : MjRun} {j : Mj} {e : EncSession} (hcl : s.body.clocked = true)
  (henc : s.body.encoding p c ae = some (m, j, i, e))
include hcl henc

theorem execEncodePicture_unreadable {w : Nat} (hs : encodeSource s.own s.body m j e m.frame = .unreadable w) :
    execEncodePicture p c ae s = .next { s with body := s.body.readBad s.own (.media p c ae) w } := by
  rw [← encodePicture_unreadable henc hs]
  exact State.onBody_clocked _ hcl

theorem execEncodeSliceComplete_unreadable {w : Nat} (hs : encodeSource s.own s.body m j e m.frame = .unreadable w)
    (hr : e.sliceRows ≠ 0) (hm : m.slice < e.slices) :
    execEncodeSliceComplete p c ae s = .next { s with body := s.body.readBad s.own (.media p c ae) w } := by
  rw [← encodeSlice_unreadable henc hs hr hm]
  exact State.onBody_clocked _ hcl

variable (hw : Claims.slotsWhole s) (hc : s.body.Calm)
include hw hc

/-- An encode MJ whose picture's reads the memories refuse ends its slot VOID with the refusal's status (R19). -/
theorem execEncodePicture_refused {st : W16} (hs : encodeSource s.own s.body m j e m.frame = .refused st) :
    ∃ t, execEncodePicture p c ae s = .next t ∧ t.own = s.own ∧ (t.body.part p).medDone = (s.body.part p).medDone + 1 ∧
      (t.body.part p).medRefused = satAdd (s.body.part p).medRefused 1 ∧
      ∃ n ∈ (t.body.part p).mjs, n.same m = true ∧ n.slots.all (fun k => k.done && k.void) = true := by
  have href : slotRefused st = true := slotRefused_of_encodeSource hs
  have hbody : execEncodePicture p c ae s = .next { s with body := encodeEnds s.own s.body p { m with frame := j.nfr } j st } := by
    rw [← encodePicture_refused henc hs]
    exact State.onBody_clocked _ hcl
  obtain ⟨st', n, es, l, hst, hpart⟩ := part_encodeEnds (o := s.own) { m with frame := j.nfr } j st hc (Claims.part_lt hw p)
  obtain rfl : st' = st := hst (not_stOk_of_slotRefused href)
  have hvoid : (st' != stOk) = true := bne_iff_ne.mpr (not_stOk_of_slotRefused href)
  rw [hvoid] at hpart
  refine ⟨_, hbody, rfl, ?medDone, ?medRefused, MjRun.encoded { m with frame := j.nfr } true, ?mj,
    MjRun.same_iff.mpr ⟨rfl, rfl, rfl⟩, rfl⟩
  case medDone => simp only [hpart, Part.countSlot_medDone, Part.setMj_medDone]
  case medRefused => simp only [hpart, Part.countSlot_medRefused _ _ href, Part.setMj_medRefused]
  case mj =>
    rw [hpart]
    exact Part.mem_setMj ⟨m, Body.mem_of_encoding henc, MjRun.same_iff.mpr ⟨rfl, rfl, rfl⟩⟩

omit hcl in
/-- A picture that ends now is coded whole, or its segments are complete. -/
theorem encodePicture_ready {src ref : List Byte} (hmp : m.ctx.part = p)
    (hs : encodeSource s.own s.body m j e m.frame = .found src ref) (hends : e.sliceRows = 0 ∨ m.slice = e.slices) :
    ∃ b0 m0 d, encodePicture s.own s.body p c ae = pictureEnds s.own b0 p m0 j i e src ref d ∧
      PictureReady s.body b0 p m m0 (e.sliceRows = 0) j.pevt := by
  by_cases hr : e.sliceRows = 0
  · exact ⟨_, _, _, encodePicture_whole henc hs hr, pictureReady_whole j e _ _ hc (Claims.part_lt hw p) (hw.2 p) hmp⟩
  · exact ⟨_, _, ⟨m.picData, m.picRetry, m.picFall⟩, (encodePicture_segments henc hs hr).trans (if_pos (hends.resolve_left hr)),
      pictureReady_segments p m j.pevt hc hr⟩

/-- A picture with others to follow (R373, R375). -/
theorem execEncodePicture_more {src ref : List Byte} (hmp : m.ctx.part = p) (hi : i < (s.body.part p).encs.length)
    (hs : encodeSource s.own s.body m j e m.frame = .found src ref) (hends : e.sliceRows = 0 ∨ m.slice = e.slices)
    (hf : m.frame + 1 < j.nfr) : ∃ t, execEncodePicture p c ae s = .next t ∧ Claims.quiet s t ∧
      (t.body.part p).vidPics = (s.body.part p).vidPics + 1 ∧ (e.sliceRows = 0 → Claims.counts s t m.ctx j.pevt) ∧
      ((t.body.part p).encs.getD i EncSession.reset).picture = e.picture + 1 ∧
      ∃ n ∈ (t.body.part p).mjs, n.same m = true ∧ n.frame = m.frame + 1 ∧ n.slice = 0 ∧ m.bytes ≤ n.bytes := by
  obtain ⟨b0, m0, d, heq, hready⟩ := encodePicture_ready henc hw hc hmp hs hends
  obtain ⟨t, ht, hinner, hvid, hevent, hpic, hmj⟩ := hready.more (o := s.own) (j := j) (e := e) (src := src) (ref := ref) (c := d)
    (Body.mem_of_encoding henc) (Claims.part_lt hw p) hi hmp hf
  refine ⟨{ s with body := t }, ?_, Claims.quiet_of_inner hinner, hvid, fun hr => Claims.counts_of_event (hevent hr), hpic, hmj⟩
  rw [← ht, ← heq]
  exact State.onBody_clocked _ hcl

/-- The last picture of a slot (R374, R376). -/
theorem execEncodePicture_last {src ref : List Byte} (hmp : m.ctx.part = p)
    (hs : encodeSource s.own s.body m j e m.frame = .found src ref) (hends : e.sliceRows = 0 ∨ m.slice = e.slices)
    (hf : m.frame + 1 = j.nfr) : ∃ t, execEncodePicture p c ae s = .next t ∧ t.own = s.own ∧
      (t.body.part p).vidPics = (s.body.part p).vidPics + 1 ∧ (t.body.part p).medDone = (s.body.part p).medDone + 1 ∧
      ∃ n ∈ (t.body.part p).mjs, n.same m = true ∧ n.slots.all (·.done) = true := by
  obtain ⟨b0, m0, d, heq, hready⟩ := encodePicture_ready henc hw hc hmp hs hends
  obtain ⟨t, ht, hvid, hdone, hmj⟩ := hready.last (o := s.own) (j := j) (i := i) (e := e) (src := src) (ref := ref) (c := d)
    (Body.mem_of_encoding henc) (Claims.part_lt hw p) hf
  refine ⟨{ s with body := t }, ?_, rfl, hvid, hdone, hmj⟩
  rw [← ht, ← heq]
  exact State.onBody_clocked _ hcl

/-- A slice segment, with others of its picture to follow or not (R377). -/
theorem execEncodeSliceComplete_found {src ref : List Byte} (hmp : m.ctx.part = p)
    (hs : encodeSource s.own s.body m j e m.frame = .found src ref) (hr : e.sliceRows ≠ 0) (hm : m.slice < e.slices) :
    ∃ t, execEncodeSliceComplete p c ae s = .next t ∧ Claims.quiet s t ∧
      (t.body.part p).vidPics = (s.body.part p).vidPics ∧ Claims.counts s t m.ctx j.pevt ∧
      (t.body.part p).encs = (s.body.part p).encs ∧
      ∃ n ∈ (t.body.part p).mjs, n.same m = true ∧ n.slice = m.slice + 1 ∧ n.frame = m.frame ∧
        (Claims.unguarded s (.media p m.core m.idx) [(j.dst + m.bytes, n.picData.drop m.picData.length)] →
          Claims.stored s t [(j.dst + m.bytes, n.picData.drop m.picData.length)]) := by
  let d := e.codeSlice j m src ref
  have hp : p.val < s.body.parts.length := Claims.part_lt hw p
  have hbody : execEncodeSliceComplete p c ae s =
      .next { s with body := (s.body.sliceCoded p m j e d).mediaPut s.own m [(j.dst + m.bytes, d.bytes)] } := by
    rw [← encodeSlice_found henc hs hr hm hc.sound]
    exact State.onBody_clocked _ hcl
  have hcalm : (s.body.sliceCoded p m j e d).Calm := (hc.updPart _ _).updPart _ _
  obtain ⟨hput, -⟩ := hcalm.mediaPut (o := s.own) m [(j.dst + m.bytes, d.bytes)]
  have hpart := (Body.part_of_memoryAlone hput p).trans (Body.part_sliceCoded j e d hp hmp)
  have hdata : (m.sliceCoded e d).picData.drop m.picData.length = d.bytes := List.drop_left
  refine ⟨_, hbody, Claims.quiet_of_inner ?inner, congrArg (·.vidPics) hpart, Claims.counts_of_event ?event, congrArg (·.encs) hpart,
    m.sliceCoded e d, ?mj, MjRun.same_iff.mpr ⟨rfl, rfl, rfl⟩, rfl, rfl, ?stored⟩
  case inner =>
    exact Body.inner_trans (Body.inner_trans (s.body.inner_updPart _ _) (Body.inner_updPart _ _ _)) (Body.inner_of_memoryAlone hput)
  case event =>
    rw [← Body.slot_sliceCoded j e d hp hmp (hw.2 p)]
    unfold Body.slot
    rw [Body.part_of_memoryAlone hput]
  case mj =>
    rw [hpart]
    exact Part.mem_setMj ⟨m, Body.mem_of_encoding henc, MjRun.same_iff.mpr ⟨rfl, rfl, rfl⟩⟩
  case stored =>
    rw [hdata]
    exact stored_sliceCoded j e d hmp

end

end Sys2Proof.Machine

/-! PROOFS. WRITE_INDEX_SAMPLE: what a sample of the write indices leaves, and a set whose reads are refused (R19, R227, R356). -/

namespace Sys2Proof.Machine

open Sys2Proof

/-! ### One set -/

/-- An alignment set of a partition. -/
def Body.alignSet (b : Body) (p : Fin 8) (n : Nat) : AlignSet := (b.part p).aligns.getD n AlignSet.reset

/-- The words that a sample of it reads. -/
def Body.setReads (b : Body) (p : Fin 8) (n : Nat) : List (Nat × Nat) := (b.alignSet p n).inputs.flatMap (·.reads b.mem)

/-- A partition after a sample of set n, which was s. -/
def Part.sampled (y : Part) (n : Nat) (s : AlignSet) (now : Nat) (m : Mem) : Part :=
  let r := s.inputs.map fun (i : AlignIn) => i.sample s.tssrc now m
  { y with
    aligns := y.aligns.set n { s with inputs := r.map (·.1) }
    medRefused := satAdd y.medRefused (r.map (·.2)).sum }

section
variable {o : Own} {b : Body} {p : Fin 8} {n : Nat}

theorem sampleSet_off (h : (b.alignSet p n).configured = false) : sampleSet o p b n = b := if_pos (by
  unfold Body.alignSet at h
  rw [h]
  rfl)

variable (hc : (b.alignSet p n).configured = true)
include hc

theorem sampleSet_held (hf : b.flows o (b.setReads p n) = false) : sampleSet o p b n = b := by
  unfold Body.alignSet at hc
  unfold Body.setReads Body.alignSet at hf
  unfold sampleSet
  simp only [hc, hf]
  rfl

theorem sampleSet_refused {st : W16} {a : Nat} (hf : b.flows o (b.setReads p n) = true)
    (hr : b.readRefused o (.media p 0 0) (b.setReads p n) = some (st, a)) : sampleSet o p b n = b.logRefusal o p st (4, 0) a := by
  unfold Body.alignSet at hc
  unfold Body.setReads Body.alignSet at hf hr
  unfold sampleSet
  simp only [hc, hf, hr]
  rfl

theorem sampleSet_read (hs : b.mem.sound = true) (hf : b.flows o (b.setReads p n) = true)
    (hr : b.readRefused o (.media p 0 0) (b.setReads p n) = none) : sampleSet o p b n =
      (b.countReadsOf o (b.setReads p n)).updPart p fun y => y.sampled n (b.alignSet p n) b.fab.time b.mem := by
  unfold Body.alignSet at hc
  unfold Body.setReads Body.alignSet at hf hr
  unfold sampleSet
  simp only [hf, hr, Body.firstBad_sound _ hs, Body.correctedIn_sound _ hs]
  refine (if_neg ?_).trans rfl
  rw [hc]
  exact Bool.false_ne_true

end

/-! ### Every set -/

/-- The sets in the order in which they are sampled. -/
def sampleOrder : List (Fin 8 × Nat) := List.finRange 8 ×ˢ List.range 4

theorem mem_sampleOrder {p : Fin 8} {n : Nat} : (p, n) ∈ sampleOrder ↔ n < 4 := by
  simp [sampleOrder]

theorem nodup_sampleOrder : sampleOrder.Nodup := (List.nodup_finRange 8).product List.nodup_range

theorem sampleAll_eq (o : Own) (b : Body) : (List.finRange 8).foldl (fun b p => (List.range 4).foldl (sampleSet o p) b) b =
    sampleOrder.foldl (fun b x => sampleSet o x.1 b x.2) b := by
  simp only [sampleOrder, SProd.sprod, List.product, List.foldl_flatMap, List.foldl_map]

/-- A change of a partition, where it stands or not. -/
theorem Body.part_updPart_or (b : Body) (p q : Fin 8) (f : Part → Part) :
    (b.updPart p f).part q = b.part q ∨ q = p ∧ (b.updPart p f).part q = f (b.part q) := by
  by_cases h : q = p
  · subst h
    by_cases hp : q.val < b.parts.length
    · exact Or.inr ⟨rfl, b.part_updPart q f hp⟩
    · refine Or.inl ?_
      have hlen : ¬ q.val < (b.updPart q f).parts.length := by rwa [Body.updPart_parts_length]
      unfold Body.part
      rw [List.getD_eq_default _ _ (by omega), List.getD_eq_default _ _ (by omega)]
  · exact Or.inl (b.part_updPart_ne p q f h)

/-- t is b with some sets sampled, of which none is in l: only stacks' traffic, sets and MED_REFUSED have changed. -/
structure Sampled (b t : Body) (l : List (Fin 8 × Nat)) : Prop where
  frame : t = { b with stks := t.stks, parts := t.parts }
  parts : ∀ p, { t.part p with aligns := (b.part p).aligns, medRefused := (b.part p).medRefused } = b.part p
  sets  : ∀ x ∈ l, t.alignSet x.1 x.2 = b.alignSet x.1 x.2

theorem sampled_refl (b : Body) (l : List (Fin 8 × Nat)) : Sampled b b l := ⟨rfl, fun _ => rfl, fun _ _ => rfl⟩

/-- Sampling a set leaves the others of its partition. -/
theorem Part.getD_sampled (y : Part) {n k : Nat} (s : AlignSet) (now : Nat) (m : Mem) (h : k ≠ n) :
    (y.sampled n s now m).aligns.getD k AlignSet.reset = y.aligns.getD k AlignSet.reset := by
  unfold Part.sampled
  simp only [List.getD_eq_getElem?_getD, List.getElem?_set_ne (Ne.symm h)]

theorem Sampled.kept {b t : Body} {l : List (Fin 8 × Nat)} (h : Sampled b t l) :
    b.inner t ∧ t.mem = b.mem ∧ t.cores = b.cores ∧ t.quads = b.quads := by
  rw [h.frame]
  exact ⟨⟨rfl, rfl, rfl, rfl, rfl, rfl⟩, rfl, rfl, rfl⟩

/-- One more set sampled, its reads counted. -/
theorem Sampled.update {b t : Body} {x : Fin 8 × Nat} {l : List (Fin 8 × Nat)} (h : Sampled b t l) (hx : x ∉ l) (o : Own)
    (rs : List (Nat × Nat)) (s : AlignSet) (now : Nat) (m : Mem) :
    Sampled b ((t.countReadsOf o rs).updPart x.1 fun y => y.sampled x.2 s now m) l := by
  have halone := Body.memoryAlone_countReadsOf o t rs
  have hor := fun q => (t.countReadsOf o rs).part_updPart_or x.1 q fun y => y.sampled x.2 s now m
  simp only [Body.part_of_memoryAlone halone] at hor
  refine ⟨?frame, fun q => ?parts, fun y hy => ?sets⟩
  case frame =>
    have hm : (t.countReadsOf o rs).mem = t.mem := Body.countReadsOf_mem _ _ _
    unfold Body.updPart
    rw [halone, hm, h.frame]
  case parts =>
    rcases hor q with he | ⟨-, he⟩
    · rw [he]
      exact h.parts q
    · rw [he]
      exact h.parts q
  case sets =>
    rw [← h.sets y hy]
    unfold Body.alignSet
    rcases hor y.1 with he | ⟨hy1, he⟩
    · rw [he]
    · rw [he]
      refine Part.getD_sampled _ _ _ _ fun hy2 => hx ?_
      rwa [← Prod.ext hy1 hy2]

theorem sampled_step {o : Own} {b t : Body} {x : Fin 8 × Nat} {l : List (Fin 8 × Nat)} (h : Sampled b t (x :: l)) (hx : x ∉ l)
    (hs : b.mem.sound = true)
    (hr : (b.alignSet x.1 x.2).configured = true → b.readRefused o (.media x.1 0 0) (b.setReads x.1 x.2) = none) :
    Sampled b (sampleSet o x.1 t x.2) l := by
  obtain ⟨⟨hboard, -⟩, hmem, -⟩ := h.kept
  have hset : t.alignSet x.1 x.2 = b.alignSet x.1 x.2 := h.sets x List.mem_cons_self
  have hreads : t.setReads x.1 x.2 = b.setReads x.1 x.2 := by
    unfold Body.setReads
    rw [hset, hmem]
  have hrest : Sampled b t l := ⟨h.frame, h.parts, fun y hy => h.sets y (List.mem_cons_of_mem _ hy)⟩
  cases hc : (b.alignSet x.1 x.2).configured with
  | false =>
    rw [sampleSet_off (hset ▸ hc)]
    exact hrest
  | true =>
    cases hf : t.flows o (t.setReads x.1 x.2) with
    | false =>
      rw [sampleSet_held (hset ▸ hc) hf]
      exact hrest
    | true =>
      have hr' : t.readRefused o (.media x.1 0 0) (t.setReads x.1 x.2) = none := by
        rw [hreads, readRefused_media x.1 0 0 _ hboard]
        exact hr hc
      rw [sampleSet_read (hset ▸ hc) (hmem ▸ hs) hf hr']
      exact hrest.update hx o _ _ _ _

theorem sampled_fold {o : Own} {b : Body} (hs : b.mem.sound = true) (l : List (Fin 8 × Nat)) (hl : l.Nodup)
    (hr : ∀ x ∈ l, (b.alignSet x.1 x.2).configured = true → b.readRefused o (.media x.1 0 0) (b.setReads x.1 x.2) = none)
    (t : Body) (h : Sampled b t l) : Sampled b (l.foldl (fun b x => sampleSet o x.1 b x.2) t) [] := by
  induction l generalizing t with
  | nil => exact h
  | cons x l ih =>
    obtain ⟨hx, hl⟩ := List.nodup_cons.mp hl
    exact ih hl (fun y hy => hr y (List.mem_cons_of_mem _ hy)) _ (sampled_step h hx hs (hr x List.mem_cons_self))

/-! ### A refused set -/

/-- A refusal's record changes no set. -/
theorem Body.alignSet_logRefusal (o : Own) (b : Body) (p : Fin 8) (st : W16) (src : Nat × Nat) (a : Nat) (q : Fin 8) (n : Nat) :
    (b.logRefusal o p st src a).alignSet q n = b.alignSet q n := by
  have happ : ∀ r, ((b.appendEvent o p r).part q).aligns = (b.part q).aligns := by
    intro r
    have hupd : ∀ f : Part → Part, (∀ y, (f y).aligns = y.aligns) → ((b.updPart p f).part q).aligns = (b.part q).aligns := by
      intro f hf
      rcases b.part_updPart_or p q f with h | ⟨-, h⟩
      · rw [h]
      · rw [h, hf]
    unfold Body.appendEvent
    extract_lets evs b'
    split
    · exact hupd _ fun _ => rfl
    · split
      · obtain ⟨-, -, -, -, -, -, hparts, -⟩ := b'.signalled_firePart o p (33 + p.val)
        refine Eq.trans ?_ (hupd (fun x => { x with events := x.events ++ [r] }) fun _ => rfl)
        unfold Body.part
        rw [hparts]
      · exact hupd _ fun _ => rfl
  unfold Body.alignSet
  congr 1
  unfold Body.logRefusal
  extract_lets b'
  split <;> exact happ _

/-- Sets that are not configured are left. -/
theorem sampleFold_off {o : Own} {b : Body} (l : List (Fin 8 × Nat)) (h : ∀ x ∈ l, (b.alignSet x.1 x.2).configured = false) :
    l.foldl (fun b x => sampleSet o x.1 b x.2) b = b := by
  induction l with
  | nil => rfl
  | cons x l ih =>
    rw [List.foldl_cons, sampleSet_off (h x List.mem_cons_self)]
    exact ih fun y hy => h y (List.mem_cons_of_mem _ hy)

/-- Where one set alone is configured and the memories refuse its reads, the sample is the refusal's record (R19, R511). -/
theorem sampleFold_refused {o : Own} {b : Body} {p : Fin 8} {n : Nat} {st : W16} {a : Nat} (hn : n < 4)
    (hc : ∀ q k, k < 4 → ((b.alignSet q k).configured = true ↔ q = p ∧ k = n)) (hf : b.flows o (b.setReads p n) = true)
    (hr : b.readRefused o (.media p 0 0) (b.setReads p n) = some (st, a)) :
    sampleOrder.foldl (fun b x => sampleSet o x.1 b x.2) b = b.logRefusal o p st (4, 0) a := by
  obtain ⟨l, r, hlr⟩ := List.append_of_mem (mem_sampleOrder (p := p).mpr hn)
  obtain ⟨hnot, -⟩ := List.nodup_cons.mp (List.nodup_middle.mp (hlr ▸ nodup_sampleOrder))
  have hoff : ∀ x ∈ l ++ r, (b.alignSet x.1 x.2).configured = false := by
    intro x hx
    have hx4 : x.2 < 4 := by
      refine mem_sampleOrder (p := x.1).mp ?_
      rw [hlr]
      rcases List.mem_append.mp hx with hx | hx
      · exact List.mem_append_left _ hx
      · exact List.mem_append_right _ (List.mem_cons_of_mem _ hx)
    refine Bool.eq_false_iff.mpr fun ht => hnot ?_
    obtain ⟨h1, h2⟩ := (hc x.1 x.2 hx4).mp ht
    exact (Prod.ext h1 h2 : x = (p, n)) ▸ hx
  rw [hlr, List.foldl_append, List.foldl_cons, sampleFold_off l fun x hx => hoff x (List.mem_append_left _ hx),
    sampleSet_refused ((hc p n hn).mpr ⟨rfl, rfl⟩) hf hr]
  refine sampleFold_off r fun x hx => ?_
  rw [Body.alignSet_logRefusal]
  exact hoff x (List.mem_append_right _ hx)

/-! ### The command -/

theorem execWriteIndexSample_tripped {s : State} (h : s.body.board.tripped = true) : execWriteIndexSample s = .next s :=
  State.onBody_same (if_pos h)

theorem execWriteIndexSample_untripped {s : State} (hcl : s.body.clocked = true) (h : s.body.board.tripped = false) :
    execWriteIndexSample s =
      .next { s with body := sampleOrder.foldl (fun b x => sampleSet s.own x.1 b x.2) s.body } := by
  refine (State.onBody_clocked _ hcl).trans ?_
  rw [if_neg (by simp [h]), sampleAll_eq]

/-- A sample whose reads the world map admits (R356). -/
theorem execWriteIndexSample_read {s : State} (hcl : s.body.clocked = true) (h : s.body.board.tripped = false)
    (hs : s.body.mem.sound = true) (hr : ∀ p n, n < 4 → (s.body.alignSet p n).configured = true →
      s.body.readRefused s.own (.media p 0 0) (s.body.setReads p n) = none) :
    ∃ t, execWriteIndexSample s = .next t ∧ Claims.quiet s t ∧ t.body.mem = s.body.mem ∧ t.body.cores = s.body.cores ∧
      t.body.quads = s.body.quads ∧
      ∀ p, { t.body.part p with aligns := (s.body.part p).aligns, medRefused := (s.body.part p).medRefused } = s.body.part p := by
  have hall := sampled_fold (o := s.own) hs sampleOrder nodup_sampleOrder (fun x hx => hr x.1 x.2 ((mem_sampleOrder (p := x.1)).mp hx)) s.body
    (sampled_refl _ _)
  have hexec := execWriteIndexSample_untripped hcl h
  generalize sampleOrder.foldl (fun b x => sampleSet s.own x.1 b x.2) s.body = t at hexec hall
  obtain ⟨hinner, hmem, hcores, hquads⟩ := hall.kept
  exact ⟨{ s with body := t }, hexec, Claims.quiet_of_inner hinner, hmem, hcores, hquads, hall.parts⟩

end Sys2Proof.Machine

/-! PROOFS. ALIGN_TICK_EMIT and ALIGN_LATE_LIMIT: when a tick is due, and what its emission leaves (R19, R52, R226, R356 to R358). -/

namespace Sys2Proof.Machine

open Sys2Proof

/-! ### When a tick is emitted -/

theorem Body.tickWanted_spec {b : Body} {p : Fin 8} {n i : Nat} {m : MjRun} {q : MediaSlot}
    (h : b.tickWanted p n = some (m, i, q)) : m ∈ (b.part p).mjs ∧ m.slots[i]? = some q := by
  unfold Body.tickWanted at h
  split at h
  · cases h
  · obtain ⟨m', hm', hf⟩ := List.exists_of_findSome?_eq_some h
    split at hf
    · obtain ⟨⟨k, i'⟩, hk, he⟩ := Option.map_eq_some_iff.mp hf
      cases he
      exact ⟨hm', List.mem_zipIdx_iff_getElem?.mp (List.mem_of_find?_eq_some hk)⟩
    · cases hf

/-- What a tick waits for before it reads or writes: its inputs or its LATE limit, and its stacks (R226, R357). -/
def Body.tickDue (o : Own) (b : Body) (s : AlignSet) (m : MjRun) (i : Nat) (q : MediaSlot) (late : Bool) : Prop :=
  (late = true → s.time q.pos + s.late ≤ b.fab.time) ∧
    b.flows o (((b.mjDesc m).slotAt i, s.slotBytes (b.mjDesc m).outFmt) :: s.reads) = true

section
variable {o : Own} {b : Body} {p : Fin 8} {n : Nat}

theorem alignTick_none (late : Bool) (h : b.tickWanted p n = none) : alignTick o b p n late = b := by
  unfold alignTick
  rw [h]

theorem alignTick_off (late : Bool) (h : (b.alignSet p n).configured = false) : alignTick o b p n late = b := by
  unfold Body.alignSet at h
  unfold alignTick
  split
  · rfl
  · refine if_pos ?_
    rw [h]
    rfl

variable {m : MjRun} {i : Nat} {q : MediaSlot} {late : Bool} (h : b.tickWanted p n = some (m, i, q))
include h

/-- The command of the other way of emission: a full tick is not late, and a late one is not full. -/
theorem alignTick_other (hf : (b.alignSet p n).full ((b.alignSet p n).time q.pos) = late) : alignTick o b p n late = b := by
  unfold Body.alignSet at hf
  unfold alignTick
  simp only [h, hf]
  exact if_pos (by simp)

theorem alignTick_undue (hd : ¬ b.tickDue o (b.alignSet p n) m i q late) : alignTick o b p n late = b := by
  unfold Body.tickDue Body.alignSet at hd
  unfold alignTick
  simp only [h]
  refine if_pos ?_
  generalize (b.part p).aligns.getD n AlignSet.reset = s at hd ⊢
  by_cases hf : b.flows o (((b.mjDesc m).slotAt i, s.slotBytes (b.mjDesc m).outFmt) :: s.reads) = true
  · obtain ⟨hl, ht⟩ := Classical.not_imp.mp fun hl => hd ⟨hl, hf⟩
    simp [hl, Nat.lt_of_not_le ht]
  · simp [hf]

theorem alignTick_due (hc : (b.alignSet p n).configured = true) (hf : (b.alignSet p n).full ((b.alignSet p n).time q.pos) = !late)
    (hd : b.tickDue o (b.alignSet p n) m i q late) : alignTick o b p n late = emitTick o b p n (b.alignSet p n) m i q late := by
  obtain ⟨hl, hflow⟩ := hd
  unfold Body.alignSet at hc hf hl hflow
  unfold alignTick
  simp only [h]
  refine if_neg ?_
  rw [hc, hf, hflow]
  cases late with
  | false => simp
  | true => simpa using hl rfl

end

/-! ### What a tick writes -/

/-- The set after a tick at a time: records that no later tick can use are dropped. -/
def AlignSet.passed (s : AlignSet) (t : Nat) : AlignSet := { s with inputs := s.inputs.map fun k => k.pass s.mode t }

/-- What a tick's slot holds, and its conversions. -/
def Body.tickData (b : Body) (s : AlignSet) (m : MjRun) (q : MediaSlot) (late : Bool) : List Byte × List ConvEv :=
  Machine.tickData s (b.mjDesc m) b.mem q.pos late

/-- A tick's writes but its status record. -/
def Body.tickWrites (b : Body) (s : AlignSet) (m : MjRun) (i : Nat) (q : MediaSlot) (late : Bool) : List (Nat × List Byte) :=
  Machine.tickWrites s (s.passed (s.time q.pos)) (b.mjDesc m) m.core i (b.tickData s m q late)

/-- The first of a tick's requests that the memories refuse (R19). -/
def Body.tickHit (o : Own) (b : Body) (p : Fin 8) (s : AlignSet) (m : MjRun) (i : Nat) (q : MediaSlot) (late : Bool) :
    Option W16 :=
  (b.readRefused o (.media p m.core m.idx) s.reads).map (·.1) <|>
    b.mediaRefused o m ((b.tickWrites s m i q late).map fun w => (w.1, w.2.length))

/-- A tick's status record. -/
def Body.tickRecord (b : Body) (st : W16) (void : Bool) : List Byte :=
  let f (n : Nat) : Nat := (Config.freeWord (b.free + n)).toNat
  statusRecord st void false (f 0) (BitVec.ofNat 32 (f 1)) (f 2) none 0 (f 3) (f 4)

/-- The MJ when slot i of it is done. -/
def MjRun.ticked (m : MjRun) (i : Nat) (q : MediaSlot) (void : Bool) : MjRun :=
  { m with slots := m.slots.set i { q with done := true, void := void } }

theorem MjRun.getElem?_ticked {m : MjRun} {i : Nat} {q : MediaSlot} (void : Bool) (h : m.slots[i]? = some q) :
    (m.ticked i q void).slots[i]? = some { q with done := true, void := void } := by
  obtain ⟨hi, -⟩ := List.getElem?_eq_some_iff.mp h
  exact List.getElem?_set_self hi

/-- A partition when slot i of an MJ is counted with a status and set n has passed the tick. -/
def Part.ticked (y : Part) (n : Nat) (m : MjRun) (st : W16) (void : Bool) (index : Nat) (s : AlignSet) : Part :=
  { (y.setMj m).countSlot st void index with aligns := y.aligns.set n s }

theorem Part.ticked_medDone (y : Part) (n : Nat) (m : MjRun) (st : W16) (void : Bool) (index : Nat) (s : AlignSet) :
    (y.ticked n m st void index s).medDone = y.medDone + 1 := rfl

theorem Part.ticked_mjs (y : Part) (n : Nat) (m : MjRun) (st : W16) (void : Bool) (index : Nat) (s : AlignSet) :
    (y.ticked n m st void index s).mjs = (y.setMj m).mjs := rfl

/-- The body when a tick's reads and conversions are counted. -/
def Body.tickCounted (o : Own) (b : Body) (s : AlignSet) (m : MjRun) (q : MediaSlot) (late : Bool) (hit : Option W16) : Body :=
  let evs := if hit.isSome then [] else (b.tickData s m q late).2
  { b.countReadsOf o s.reads with free := b.free + 5 }.updCore m.core (·.countEvs evs)

/-- The body when its slot is counted too, before its event and writes. -/
def Body.ticked (o : Own) (b : Body) (p : Fin 8) (n : Nat) (s : AlignSet) (m : MjRun) (i : Nat) (q : MediaSlot) (late : Bool)
    (hit : Option W16) : Body :=
  (b.tickCounted o s m q late hit).updPart p fun y =>
    y.ticked n (m.ticked i q hit.isSome) (hit.getD stOk) hit.isSome (Config.freeWord b.free).toNat (s.passed (s.time q.pos))

/-- The body after a tick with a refused request: its slot zeros, its status record, and that record as an event (R511). -/
def Body.tickVoid (o : Own) (b : Body) (p : Fin 8) (n : Nat) (s : AlignSet) (m : MjRun) (i : Nat) (q : MediaSlot) (late : Bool)
    (st : W16) : Body :=
  ((b.ticked o p n s m i q late (some st)).mediaEvent o p st (b.tickRecord st true)).mediaPut o m
    [((b.mjDesc m).stat + 32 * i, b.tickRecord st true), ((b.mjDesc m).slotAt i, List.replicate (b.mjDesc m).pitch 0)]

section
variable {o : Own} {b : Body} {p : Fin 8} (n : Nat) (s : AlignSet) (m : MjRun) (i : Nat) (q : MediaSlot) (late : Bool)

/-- With memory sound, a tick whose requests are admitted makes its writes and its status record. -/
theorem emitTick_admitted (hs : b.mem.sound = true) (hh : b.tickHit o p s m i q late = none) : emitTick o b p n s m i q late =
    (b.ticked o p n s m i q late none).mediaPut o m
      (((b.mjDesc m).stat + 32 * i, b.tickRecord stOk false) :: b.tickWrites s m i q late) := by
  unfold Body.tickHit Body.tickWrites Body.tickData AlignSet.passed at hh
  unfold emitTick
  simp only [Body.firstBad_sound _ hs, Body.correctedIn_sound _ hs, hh]
  rfl

theorem emitTick_refused {st : W16} (hs : b.mem.sound = true) (hh : b.tickHit o p s m i q late = some st) :
    emitTick o b p n s m i q late = b.tickVoid o p n s m i q late st := by
  unfold Body.tickHit Body.tickWrites Body.tickData AlignSet.passed at hh
  unfold emitTick
  simp only [Body.firstBad_sound _ hs, Body.correctedIn_sound _ hs, hh]
  rfl

end

end Sys2Proof.Machine

/-! PROOFS. The tick commands: each outcome of ALIGN_TICK_EMIT and ALIGN_LATE_LIMIT as the state it leaves (R356 to R358). -/

namespace Sys2Proof.Machine

open Sys2Proof

/-! ### The body of a tick -/

/-- Writes of a media unit in sound memory change stacks and memory alone, where no older request waits for them. -/
theorem Body.memoryAlone_mediaPut {o : Own} {b : Body} {m : MjRun} {ws : List (Nat × List Byte)} (hs : b.mem.sound = true)
    (hw : ∀ w ∈ joinWrites (ws.map whole), b.noneWaits w.1 w.2.length = true) : b.memoryAlone (b.mediaPut o m ws) := by
  rw [Body.mediaPut_eq hs hw]
  exact (putSpec_putAll _ _ hs).alone

section
variable (o : Own) (b : Body) (p : Fin 8) (n : Nat) (s : AlignSet) (m : MjRun) (i : Nat) (q : MediaSlot) (late : Bool)
  (hit : Option W16)

theorem Body.tickCounted_mem : (b.tickCounted o s m q late hit).mem = b.mem := Body.countReadsOf_mem o b s.reads

theorem Body.tickCounted_parts : (b.tickCounted o s m q late hit).parts = b.parts :=
  Body.parts_of_memoryAlone (t := b.countReadsOf o s.reads) (Body.memoryAlone_countReadsOf o b s.reads)

theorem Body.inner_tickCounted : b.inner (b.tickCounted o s m q late hit) :=
  Body.inner_trans (Body.inner_of_memoryAlone (Body.memoryAlone_countReadsOf o b s.reads)) ⟨rfl, rfl, rfl, rfl, rfl, rfl⟩

theorem Body.inner_ticked : b.inner (b.ticked o p n s m i q late hit) :=
  Body.inner_trans (b.inner_tickCounted o s m q late hit) (Body.inner_updPart _ p _)

theorem Body.ticked_mem : (b.ticked o p n s m i q late hit).mem = b.mem := b.tickCounted_mem o s m q late hit

theorem Body.ticked_parts_length : (b.ticked o p n s m i q late hit).parts.length = b.parts.length := by
  unfold Body.ticked
  rw [Body.updPart_parts_length, Body.tickCounted_parts]

theorem Body.guards_ticked : (b.ticked o p n s m i q late hit).guards = b.guards := by
  refine Eq.trans (Body.guards_updPart ?_) ?_
  · exact fun _ => rfl
  · unfold Body.guards
    rw [Body.tickCounted_parts]

theorem Body.part_ticked (hp : p.val < b.parts.length) : (b.ticked o p n s m i q late hit).part p =
    (b.part p).ticked n (m.ticked i q hit.isSome) (hit.getD stOk) hit.isSome (Config.freeWord b.free).toNat (s.passed (s.time q.pos)) := by
  have hparts := b.tickCounted_parts o s m q late hit
  have hpart : (b.tickCounted o s m q late hit).part p = b.part p := by
    unfold Body.part
    rw [hparts]
  unfold Body.ticked
  rw [Body.part_updPart _ p _ (hparts ▸ hp), hpart]

theorem Body.noneWaits_ticked {a k : Nat} (h : b.noneWaits a k = true) : (b.ticked o p n s m i q late hit).noneWaits a k = true := by
  have hc := Body.noneWaits_countReadsOf (o := o) s.reads h
  unfold Body.noneWaits at hc ⊢
  exact hc

theorem Body.Calm.ticked {b : Body} (h : b.Calm) : (b.ticked o p n s m i q late hit).Calm :=
  ⟨(b.ticked_mem o p n s m i q late hit).symm ▸ h.sound, fun a k => b.noneWaits_ticked o p n s m i q late hit (h.waits a k)⟩

end

/-- A refused tick counts its slot, which is done and VOID. -/
theorem Body.part_tickVoid {o : Own} {b : Body} {p : Fin 8} (n : Nat) (s : AlignSet) (m : MjRun) (i : Nat) (q : MediaSlot) (late : Bool)
    (st : W16) (hc : b.Calm) (hp : p.val < b.parts.length) :
    ((b.tickVoid o p n s m i q late st).part p).medDone = (b.part p).medDone + 1 ∧
      ((b.tickVoid o p n s m i q late st).part p).mjs = ((b.part p).setMj (m.ticked i q true)).mjs := by
  have hp' : p.val < (b.ticked o p n s m i q late (some st)).parts.length := by rwa [Body.ticked_parts_length]
  obtain ⟨es, l, hev⟩ := Body.part_mediaEvent o st (b.tickRecord st true) hp'
  obtain ⟨hput, -⟩ := ((hc.ticked o p n s m i q late (some st)).mediaEvent o p st (b.tickRecord st true)).mediaPut (o := o) m
    [((b.mjDesc m).stat + 32 * i, b.tickRecord st true), ((b.mjDesc m).slotAt i, List.replicate (b.mjDesc m).pitch 0)]
  unfold Body.tickVoid
  rw [Body.part_of_memoryAlone hput, hev, Body.part_ticked _ _ _ _ _ _ _ _ _ _ hp]
  simp only [Part.ticked_medDone, Part.ticked_mjs, Option.isSome_some, and_self]

/-! ### The commands -/

/-- The command of a tick: late or not. -/
def Body.tickRun (late : Bool) (p : Fin 8) (n : Fin 4) (s : State) : Result := s.onBody fun o b => alignTick o b p n.val late

theorem exec_tick (late : Bool) (p : Fin 8) (n : Fin 4) (s : State) :
    exec (if late then .alignLateLimit p n else .alignTickEmit p n) s = Body.tickRun late p n s := by
  cases late <;> rfl

theorem exec_tick_other (late : Bool) (p : Fin 8) (n : Fin 4) (s : State) :
    exec (if late then .alignTickEmit p n else .alignLateLimit p n) s = Body.tickRun (!late) p n s := by
  cases late <;> rfl

section
variable {s : State} {p : Fin 8} {n : Fin 4} {m : MjRun} {i : Nat} {q : MediaSlot} {late : Bool} (hcl : s.body.clocked = true)
  (hw : Claims.slotsWhole s) (hm : m.ctx.part = p) (ht : s.body.tickWanted p n.val = some (m, i, q))
  (he : alignTick s.own s.body p n.val late = emitTick s.own s.body p n.val (s.body.alignSet p n.val) m i q late)
include hcl hw hm ht he

/-- A tick whose requests are admitted is written, done and counted (R356 to R358). -/
theorem tickRun_admitted (hh : s.body.tickHit s.own p (s.body.alignSet p n.val) m i q late = none)
    (hu : Claims.unguarded s (.media p m.core m.idx) (((s.body.mjDesc m).stat + 32 * i, s.body.tickRecord stOk false) ::
      s.body.tickWrites (s.body.alignSet p n.val) m i q late)) :
    ∃ t, Body.tickRun late p n s = .next t ∧ Claims.quiet s t ∧ (t.body.part p).medDone = (s.body.part p).medDone + 1 ∧
      (∃ k ∈ (t.body.part p).mjs, k.same m = true ∧ (k.slots[i]?).map (·.done) = some true) ∧
      Claims.stored s t (((s.body.mjDesc m).stat + 32 * i, s.body.tickRecord stOk false) ::
        s.body.tickWrites (s.body.alignSet p n.val) m i q late) := by
  subst hm
  obtain ⟨hs, hfree⟩ := hu
  obtain ⟨hmj, hslot⟩ := Body.tickWanted_spec ht
  let y := s.body.alignSet m.ctx.part n.val
  let ws := ((s.body.mjDesc m).stat + 32 * i, s.body.tickRecord stOk false) :: s.body.tickWrites y m i q late
  let b := s.body.ticked s.own m.ctx.part n.val y m i q late none
  have hrun : Body.tickRun late m.ctx.part n s = .next { s with body := b.mediaPut s.own m ws } := by
    rw [← emitTick_admitted n.val y m i q late hs hh, ← he]
    exact State.onBody_clocked _ hcl
  have hinner : s.body.inner b := Body.inner_ticked ..
  have hsound : b.mem.sound = true := (Body.ticked_mem ..).symm ▸ hs
  have hwaits : ∀ w ∈ joinWrites (ws.map whole), b.noneWaits w.1 w.2.length = true := fun w h =>
    Body.noneWaits_ticked _ _ _ _ _ _ _ _ _ _ (hfree w h).2
  have hput := Body.memoryAlone_mediaPut (o := s.own) (m := m) hsound hwaits
  have hpart := (Body.part_of_memoryAlone hput m.ctx.part).trans
    (Body.part_ticked s.own s.body m.ctx.part n.val y m i q late none (Claims.part_lt hw m.ctx.part))
  refine ⟨_, hrun, Claims.quiet_of_inner (Body.inner_trans hinner (Body.inner_of_memoryAlone hput)), ?done,
    ⟨m.ticked i q false, ?mj, MjRun.same_iff.mpr ⟨rfl, rfl, rfl⟩, ?slot⟩, fun a => ?stored⟩
  case done => simp only [hpart, Part.ticked_medDone]
  case mj =>
    rw [hpart]
    exact Part.mem_setMj ⟨m, hmj, MjRun.same_iff.mpr ⟨rfl, rfl, rfl⟩⟩
  case slot => rw [MjRun.getElem?_ticked false hslot, Option.map_some]
  case stored =>
    refine (Body.byte_mediaPut hsound (fun w h => ⟨?_, hwaits w h⟩) a).trans ?_
    · rw [refusedIn_media _ _ _ _ _ hinner.1 (Body.guards_ticked ..)]
      exact (hfree w h).1
    · unfold Claims.after
      rw [Body.ticked_mem]

omit hm in
/-- A tick with a refused request is done and VOID (R19; log entry 108). -/
theorem tickRun_refused {st : W16} (hc : s.body.Calm) (hh : s.body.tickHit s.own p (s.body.alignSet p n.val) m i q late = some st) :
    ∃ t, Body.tickRun late p n s = .next t ∧ t.own = s.own ∧ (t.body.part p).medDone = (s.body.part p).medDone + 1 ∧
      ∃ k ∈ (t.body.part p).mjs, k.same m = true ∧ (k.slots[i]?).map (fun v => (v.done, v.void)) = some (true, true) := by
  obtain ⟨hmj, hslot⟩ := Body.tickWanted_spec ht
  have hrun : Body.tickRun late p n s =
      .next { s with body := s.body.tickVoid s.own p n.val (s.body.alignSet p n.val) m i q late st } := by
    rw [← emitTick_refused n.val _ m i q late hc.sound hh, ← he]
    exact State.onBody_clocked _ hcl
  obtain ⟨hdone, hmjs⟩ := s.body.part_tickVoid (o := s.own) n.val (s.body.alignSet p n.val) m i q late st hc (Claims.part_lt hw p)
  refine ⟨_, hrun, rfl, hdone, m.ticked i q true, ?mj, MjRun.same_iff.mpr ⟨rfl, rfl, rfl⟩, ?slot⟩
  case mj =>
    rw [hmjs]
    exact Part.mem_setMj ⟨m, hmj, MjRun.same_iff.mpr ⟨rfl, rfl, rfl⟩⟩
  case slot => rw [MjRun.getElem?_ticked true hslot, Option.map_some]

end

end Sys2Proof.Machine

/-! PROOFS. Encode jobs and alignment ticks (O60). -/

namespace Sys2Proof.Machine

open Sys2Proof

/-- Where a tick is not awaited, or its set is not configured, neither command acts. -/
theorem tickRun_idle {s : State} {p : Fin 8} {n : Fin 4} (late : Bool)
    (h : s.body.tickWanted p n.val = none ∨ (s.body.alignSet p n.val).configured = false) : Body.tickRun late p n s = .next s :=
  State.onBody_same (h.elim (alignTick_none late) (alignTick_off late))

section
variable {s : State} {p : Fin 8} {n : Fin 4} {m : MjRun} {i : Nat} {q : MediaSlot} {late : Bool}
  (ht : s.body.tickWanted p n.val = some (m, i, q))
  (hl : (!(s.body.alignSet p n.val).full ((s.body.alignSet p n.val).time q.pos)) = late)
include ht hl

/-- The other command leaves the tick. -/
theorem tickRun_other : Body.tickRun (!late) p n s = .next s := by
  refine State.onBody_same (alignTick_other ht ?_)
  rw [← hl, Bool.not_not]

/-- The tick's own command, when it is due. -/
theorem alignTick_late (hc : (s.body.alignSet p n.val).configured = true)
    (hd : s.body.tickDue s.own (s.body.alignSet p n.val) m i q late) :
    alignTick s.own s.body p n.val late = emitTick s.own s.body p n.val (s.body.alignSet p n.val) m i q late := by
  refine alignTick_due ht hc ?_ hd
  rw [← hl, Bool.not_not]

end

/-- Settles O60, by the outcomes of each command: what an encode job's reads find and where its picture stands; whether a sample's reads
are admitted; whether a tick is awaited, due and admitted. -/
theorem encodeAndAlignment : Obligations.EncodeAndAlignment := by
  unfold Obligations.EncodeAndAlignment
  refine ⟨⟨fun s p c ae _ h => ⟨execEncodePicture_same (encodePicture_idle h), execEncodeSliceComplete_same (encodeSlice_idle h)⟩, ?encode⟩,
    fun s hcl => ⟨execWriteIndexSample_tripped, fun hu hs => ⟨execWriteIndexSample_read hcl hu hs, ?refused⟩⟩,
    fun s p n hcl => ⟨fun h => ⟨tickRun_idle false h, tickRun_idle true h⟩, ?tick⟩⟩
  case encode =>
    intro s p c ae i m j e hcl henc
    refine ⟨fun h => execEncodeSliceComplete_same (encodeSlice_other henc h),
      fun h => ⟨execEncodePicture_same (encodePicture_waits henc h), execEncodeSliceComplete_same (encodeSlice_waits henc h)⟩,
      fun w h => ⟨execEncodePicture_unreadable hcl henc h, execEncodeSliceComplete_unreadable hcl henc h⟩, ?_⟩
    intro hw hmp _ he hi hs hq
    have hc : s.body.Calm := Body.calm_of_idle hs hq
    refine ⟨fun st h => ⟨execEncodeSliceComplete_same (encodeSlice_refused henc h), execEncodePicture_refused hcl henc hw hc h⟩, ?_⟩
    intro src ref h
    refine ⟨fun hn => ?segments, execEncodePicture_more hcl henc hw hc hmp (he.symm ▸ hi) h, execEncodePicture_last hcl henc hw hc hmp h,
      execEncodeSliceComplete_found hcl henc hw hc hmp h⟩
    case segments =>
      obtain ⟨hr, hsl⟩ := not_or.mp hn
      exact execEncodePicture_same ((encodePicture_segments henc h hr).trans (if_neg hsl))
  case refused =>
    intro p n st a hn hc hf hr
    refine (execWriteIndexSample_untripped hcl hu).trans ?_
    rw [sampleFold_refused hn hc hf hr]
  case tick =>
    intro m i q ht hc tm late j y' f tw ws due hit cmd
    have hcmd : exec cmd s = Body.tickRun late p n s := exec_tick late p n s
    refine ⟨?other, fun hd => ?undue, fun hd hw hmp _ => ?due⟩
    case other => exact (exec_tick_other late p n s).trans (tickRun_other ht rfl)
    all_goals rw [hcmd]
    case undue => exact State.onBody_same (alignTick_undue ht hd)
    case due =>
      have he := alignTick_late ht rfl hc hd
      refine ⟨tickRun_admitted hcl hw hmp ht he, fun hh hs hq => ?_⟩
      obtain ⟨st, hst⟩ := Option.ne_none_iff_exists'.mp hh
      exact tickRun_refused hcl hw ht he (Body.calm_of_idle hs hq) hst

end Sys2Proof.Machine

/-! PROOFS. Entries that a core's sequencer issues: what its own reads leave, and how an entry completes (R99, R125, R126, R216). -/

namespace Sys2Proof.Machine

open Sys2Proof

/-! ### Issuing -/

/-- t is b but for what reads count: stacks and the supply of free values. -/
def Body.readAlone (b t : Body) : Prop := t = { b with stks := t.stks, free := t.free }

theorem Body.readAlone_refl (b : Body) : b.readAlone b := rfl

theorem Body.readAlone_trans {b t u : Body} (h : b.readAlone t) (k : t.readAlone u) : b.readAlone u := by
  unfold Body.readAlone at *
  rw [k, h]

/-- What it leaves. -/
theorem Body.eqs_of_readAlone {b t : Body} (h : b.readAlone t) :
    b.inner t ∧ t.cores = b.cores ∧ t.parts = b.parts ∧ t.mem = b.mem := by
  unfold Body.readAlone at h
  rw [h]
  exact ⟨⟨rfl, rfl, rfl, rfl, rfl, rfl⟩, rfl, rfl, rfl⟩

theorem Body.readAlone_lcSeen (b : Body) (sts : List Nat) : b.readAlone (b.lcSeen sts) := by
  have h : b.readAlone (sts.zipIdx.foldl (fun (b1 : Body) ((st, i) : Nat × Nat) =>
      { b1 with stks := b1.stks.modify st (·.noteLc (Config.freeWord (b.free + i)).toNat) }) b) :=
    List.foldlRecOn (motive := b.readAlone) _ _ b.readAlone_refl fun _ ht _ _ => Body.readAlone_trans ht rfl
  exact Body.readAlone_trans h rfl

theorem Body.readAlone_countReadsOf (o : Own) (b : Body) (rs : List (Nat × Nat)) : b.readAlone (b.countReadsOf o rs) := by
  have h := Body.memoryAlone_countReadsOf o b rs
  unfold Body.memoryAlone at h
  unfold Body.readAlone
  rw [h]
  simp

/-- Where the codes correct nothing, the steward's reads count and nothing else. -/
theorem Body.readAlone_stewardRead {o : Own} {b : Body} {rs : List (Nat × Nat)}
    (h : upsetsIn o.maps b.mem.upsets .corrected rs = []) : b.readAlone (b.stewardRead o rs) := by
  unfold Body.stewardRead
  extract_lets sts
  have hread := Body.readAlone_trans (b.readAlone_countReadsOf o rs) (Body.readAlone_lcSeen _ sts)
  have hmem : ((b.countReadsOf o rs).lcSeen sts).mem = b.mem := by rw [hread]
  have hclean : ((b.countReadsOf o rs).lcSeen sts).correctedIn o rs = (b.countReadsOf o rs).lcSeen sts := by
    unfold Body.correctedIn
    rw [hmem, h]
    rfl
  rwa [hclean]

section
variable {s : State} {c : Fin 32} {f : Body → Body} (h : Claims.fetched s c)
include h

/-- An entry whose reads are admitted and sound goes as its own effect says; if it goes on to the next, its reads are counted. -/
theorem Body.issuing_fetched : s.body.issuing s.own c f = if ((f s.body).core c).cx.aeIdx = (s.body.core c).cx.aeIdx then f s.body
    else (f s.body).stewardRead s.own (s.body.fetchReads s.own c) := by
  obtain ⟨-, hflow, hbad, -⟩ := h
  unfold Body.issuing
  dsimp only
  rw [hflow, hbad]
  cases s.body.holds c <;> rfl

/-- An entry that does not go leaves the body. -/
theorem Body.issuing_idle (hf : f s.body = s.body) : s.body.issuing s.own c f = s.body := by
  rw [Body.issuing_fetched h, hf, if_pos rfl]

/-- An entry that leaves memory goes with its reads counted. -/
theorem Body.issuing_alone (hf : (f s.body).mem = s.body.mem) : (f s.body).readAlone (s.body.issuing s.own c f) := by
  rw [Body.issuing_fetched h]
  split
  · exact Body.readAlone_refl _
  · obtain ⟨-, -, -, hup⟩ := h
    exact Body.readAlone_stewardRead (hf.symm ▸ hup)

end

/-- A core with a next entry is one of the module's, and holds the entry's context. -/
theorem Body.core_of_nextAe {b : Body} {c : Fin 32} {kind : Nat} {x : CtxId} {e : Ae} (h : b.nextAe c kind = some (x, e)) :
    c.val < b.cores.length ∧ (b.core c).ctx = some x := by
  unfold Body.nextAe at h
  split at h
  · cases h
  · next y hy =>
    dsimp only at h
    split at h
    · cases h
      unfold Body.holds at hy
      dsimp only at hy
      split at hy
      · cases hy
      · next hclk =>
        refine ⟨Nat.lt_of_not_le fun hle => hclk (Or.inl ?_), hy⟩
        unfold Body.core
        rw [List.getD_eq_default _ _ hle]
        rfl
    · cases h

/-! ### Completion -/

/-- An entry leaves the launched entries of its core. -/
def CoreCtx.withdraw (k : CoreCtx) (idx : Nat) : CoreCtx := { k with launched := k.launched.filter fun m => m.idx != idx }

/-- An entry that is out completes: it leaves the launched entries, and its event is counted (R124, R126). -/
theorem Body.complete_of_find {b : Body} {x : CtxId} {c : Fin 32} {idx : Nat} {l : Launched}
    (h : (b.core c).cx.launched.find? (·.idx == idx) = some l) : b.complete x c idx =
      (b.updCx c (·.withdraw idx)).updSlot x.part x.slot (·.event l.evt.toNat) := by
  unfold Body.complete
  rw [h]
  rfl

/-- The body when an entry has been launched and has completed at once. -/
def Body.passed (b : Body) (x : CtxId) (c : Fin 32) (e : Ae) : Body :=
  (b.updCx c (·.launch e)).complete x c (b.core c).cx.aeIdx.toNat

section
variable {b : Body} {c : Fin 32} {e : Ae} (x : CtxId) (hc : c.val < b.cores.length)
  (hn : ∀ l ∈ (b.core c).cx.launched, l.idx ≠ (b.core c).cx.aeIdx.toNat)
include hc hn

/-- The entry that has just been launched is found by its index. -/
theorem Body.find_launched : (((b.updCx c (·.launch e)).core c).cx.launched.find? (·.idx == (b.core c).cx.aeIdx.toNat)) =
    some (Launched.new (b.core c).cx e) := by
  rw [b.core_updCx c _ hc]
  have hnone : (b.core c).cx.launched.find? (·.idx == (b.core c).cx.aeIdx.toNat) = none :=
    List.find?_eq_none.mpr fun l hl => by simpa using hn l hl
  simp [CoreCtx.launch, hnone, Launched.new]

theorem Body.passed_eq (hevt : e.evt < 256) : b.passed x c e =
    ((b.updCx c (·.launch e)).updCx c (·.withdraw (b.core c).cx.aeIdx.toNat)).updSlot x.part x.slot (·.event e.evt) := by
  refine (Body.complete_of_find (Body.find_launched hc hn)).trans ?_
  rw [Launched.new, BitVec.toNat_ofNat, Nat.mod_eq_of_lt hevt]

theorem Body.mem_passed (hevt : e.evt < 256) : (b.passed x c e).mem = b.mem := by
  rw [Body.passed_eq x hc hn hevt]
  rfl

theorem Body.parts_passed (hevt : e.evt < 256) : (b.passed x c e).parts = (b.updSlot x.part x.slot (·.event e.evt)).parts := by
  rw [Body.passed_eq x hc hn hevt]
  rfl

theorem Body.parts_length_passed (hevt : e.evt < 256) : (b.passed x c e).parts.length = b.parts.length :=
  (congrArg List.length (Body.parts_passed x hc hn hevt)).trans (b.updPart_parts_length _ _)

/-- Its event is counted. -/
theorem Body.part_passed (hevt : e.evt < 256) (hp : x.part.val < b.parts.length) : (b.passed x c e).part x.part =
    { b.part x.part with slots := (b.part x.part).slots.modify x.slot.val (·.event e.evt) } := by
  unfold Body.part
  rw [Body.parts_passed x hc hn hevt]
  exact b.part_updPart _ _ hp

/-- Its core goes on to the next entry, with the launched entries as they were. -/
theorem Body.core_passed (hevt : e.evt < 256) : (b.passed x c e).core c =
    { b.core c with cx := { (b.core c).cx.launch e with launched := (b.core c).cx.launched } } := by
  have hold : (b.core c).cx.launched.filter (fun m => m.idx != (b.core c).cx.aeIdx.toNat) = (b.core c).cx.launched :=
    List.filter_eq_self.mpr fun l hl => bne_iff_ne.mpr (hn l hl)
  have hnew : [Launched.new (b.core c).cx e].filter (fun m => m.idx != (b.core c).cx.aeIdx.toNat) = [] := by simp [Launched.new]
  have hall : ((b.core c).cx.launch e).withdraw (b.core c).cx.aeIdx.toNat =
      { (b.core c).cx.launch e with launched := (b.core c).cx.launched } := by
    unfold CoreCtx.withdraw CoreCtx.launch
    rw [List.filter_append, hold, hnew, List.append_nil]
  have hlen : c.val < (b.updCx c (·.launch e)).cores.length := Nat.lt_of_lt_of_eq hc (b.updCore_cores_length c _).symm
  rw [Body.passed_eq x hc hn hevt, Body.updSlot_core, Body.core_updCx _ c _ hlen, b.core_updCx c _ hc, ← hall]

end

/-! ### The record of a refused entry -/

theorem Body.part_logRefusal (o : Own) {b : Body} {p : Fin 8} (st : W16) (src : Nat × Nat) (a : Nat) (hp : p.val < b.parts.length) :
    ∃ es l, (b.logRefusal o p st src a).part p = { b.part p with events := es, lost := l } := by
  obtain ⟨es, l, h⟩ := b.part_appendEvent o (faultRecord 2 st src a (b.fab.time % 2 ^ 64)) hp
  refine ⟨es, l, h ▸ ?_⟩
  unfold Body.logRefusal
  extract_lets b'
  split <;> rfl

/-- The record of an entry's refusal changes its partition's event queue, and the entries that its slot has reported (R511). -/
theorem Body.part_logEntry (o : Own) {b : Body} {x : CtxId} {c : Fin 32} (idx : Nat) (st : W16) (a : Nat)
    (hx : (b.core c).ctx = some x) (hp : x.part.val < b.parts.length) :
    ∃ es l f, (b.logEntry o x.part c idx st a).part x.part =
        { b.part x.part with events := es, lost := l, slots := (b.part x.part).slots.modify x.slot.val f } ∧
      ∀ k : Slot, (f k).events = k.events := by
  unfold Body.logEntry
  rw [hx]
  dsimp only
  split
  · refine ⟨(b.part x.part).events, (b.part x.part).lost, id, ?_, fun _ => rfl⟩
    rw [List.modify_id]
  · obtain ⟨es, l, h⟩ := Body.part_logRefusal o (b := b.updSlot x.part x.slot fun s => { s with reported := s.reported ++ [(c, idx)] })
      st (0, c.val) a (Nat.lt_of_lt_of_eq hp (b.updPart_parts_length _ _).symm)
    refine ⟨es, l, fun s => { s with reported := s.reported ++ [(c, idx)] }, h.trans ?_, fun _ => rfl⟩
    unfold Body.updSlot
    rw [b.part_updPart _ _ hp]

end Sys2Proof.Machine

/-! PROOFS. MEDIA: what an entry takes from its stream, alignment set or session, and the MJ that it queues (R53, R125, R345, R358). -/

namespace Sys2Proof.Machine

open Sys2Proof

/-! ### What an entry takes -/

/-- What a MEDIA entry takes: its MJ's number and slots, and the partition that is left. -/
structure MediaTake where
  number : Nat
  slots  : List MediaSlot
  part   : Part

/-- An entry takes its set's next ticks, its session's turn, or its stream's next positions (R345, R358, R374). -/
def Mj.take (j : Mj) (y : Part) : MediaTake :=
  let g := j.alignSet y
  let t := y.streams.getD j.stream Stream.reset
  if j.unit = 5 then
    ⟨0, (List.range j.count).map fun i => MediaSlot.mk (g.tick + i) 0 0 true false false 0 0,
      { y with aligns := y.aligns.set j.stream { g with tick := g.tick + j.count } }⟩
  else if j.encodes then ⟨0, [encodeSlot], y⟩
  else ⟨t.issued, t.take j.count, { y with streams := y.streams.set j.stream (t.advance j.count) }⟩

section
variable {j : Mj} {y : Part}

theorem Mj.take_align (h : j.unit = 5) : j.take y =
    ⟨0, (List.range j.count).map fun i => MediaSlot.mk ((j.alignSet y).tick + i) 0 0 true false false 0 0,
      { y with aligns := y.aligns.set j.stream { j.alignSet y with tick := (j.alignSet y).tick + j.count } }⟩ := if_pos h

theorem Mj.take_encode (h : j.unit ≠ 5) (he : j.encodes = true) : j.take y = ⟨0, [encodeSlot], y⟩ := (if_neg h).trans (if_pos he)

theorem Mj.take_decode (h : j.unit ≠ 5) (he : ¬ j.encodes = true) : j.take y =
    ⟨(y.streams.getD j.stream Stream.reset).issued, (y.streams.getD j.stream Stream.reset).take j.count,
      { y with streams := y.streams.set j.stream ((y.streams.getD j.stream Stream.reset).advance j.count) }⟩ :=
  (if_neg h).trans (if_neg he)

/-- The ticks follow one another. -/
theorem Mj.pos_take_align (h : j.unit = 5) :
    (j.take y).slots.map (·.pos) = (List.range j.count).map ((j.alignSet y).tick + ·) := by
  rw [Mj.take_align h, List.map_map]
  rfl

/-- The positions follow one another, over the ends of epochs (R345). -/
theorem Mj.pos_take_decode (h : j.unit ≠ 5) (he : ¬ j.encodes = true) : (j.take y).slots.map (fun k => (k.pos, k.epoch)) =
    (List.range j.count).map fun i =>
      (((y.streams.getD j.stream Stream.reset).pos.toNat + i) % max 1 (y.streams.getD j.stream Stream.reset).n,
        (y.streams.getD j.stream Stream.reset).epoch +
          BitVec.ofNat 32 (((y.streams.getD j.stream Stream.reset).pos.toNat + i) / max 1 (y.streams.getD j.stream Stream.reset).n)) := by
  rw [Mj.take_decode h he]
  unfold Stream.take
  rw [List.map_map]
  rfl

theorem Mj.tick_take (h : j.unit = 5) (hj : j.stream < y.aligns.length) :
    ((j.take y).part.aligns.getD j.stream AlignSet.reset).tick = (j.alignSet y).tick + j.count := by
  rw [Mj.take_align h]
  simp [List.getD_eq_getElem?_getD, hj]

theorem Mj.streamPos_take (h : j.unit ≠ 5) (he : ¬ j.encodes = true) (hj : j.stream < y.streams.length) :
    ((j.take y).part.streams.getD j.stream Stream.reset).pos =
      BitVec.ofNat 32 (((y.streams.getD j.stream Stream.reset).pos.toNat + j.count) % max 1 (y.streams.getD j.stream Stream.reset).n) := by
  rw [Mj.take_decode h he]
  simp [List.getD_eq_getElem?_getD, hj, Stream.advance]

end

/-- A partition with an MJ more at the end of its queue. -/
def Part.queue (y : Part) (m : MjRun) : Part := { y with mjs := y.mjs ++ [m] }

theorem Mj.mjs_take (j : Mj) (y : Part) : (j.take y).part.mjs = y.mjs := by
  unfold Mj.take
  dsimp only
  split
  · rfl
  · split <;> rfl

/-- The MJ that an entry of a core queues. -/
def Body.mediaRun (b : Body) (x : CtxId) (c : Fin 32) (e : Ae) : MjRun :=
  let j := mjOf (b.imageOf x) e.ref
  MjRun.new x c (b.core c).cx.aeIdx.toNat e j (j.take (b.part x.part)).number b.nextArrival (j.take (b.part x.part)).slots

/-! ### Issuing -/

section
variable {o : Own} {b : Body} {x : CtxId} {c : Fin 32} {e : Ae}

/-- An entry that is not refused changes its core's launched entries and its partition: what it takes, and its MJ at the end of the
queue. -/
theorem mediaIssue_queued
    (hok : (mjOf (b.imageOf x) e.ref).unit = 5 → (mjOf (b.imageOf x) e.ref).bitmapRefused (b.part x.part) c = none) :
    ∃ f, mediaIssue o b x c e = (b.updCx c (·.launch e)).updPart x.part f ∧
      f (b.part x.part) = ((mjOf (b.imageOf x) e.ref).take (b.part x.part)).part.queue (b.mediaRun x c e) := by
  unfold mediaIssue Body.mediaRun
  generalize mjOf (b.imageOf x) e.ref = j at hok ⊢
  dsimp only
  by_cases hu : j.unit = 5
  · rw [if_pos hu, hok hu, Mj.take_align hu]
    exact ⟨_, rfl, rfl⟩
  · rw [if_neg hu]
    by_cases he : j.encodes = true
    · rw [if_pos he, Mj.take_encode hu he]
      exact ⟨_, rfl, rfl⟩
    · rw [if_neg he, Mj.take_decode hu he]
      exact ⟨_, rfl, rfl⟩

/-- An alignment entry whose bitmap is refused completes, with the refusal's record (R53; log entry 108). -/
theorem mediaIssue_refused {st : W16} (hu : (mjOf (b.imageOf x) e.ref).unit = 5)
    (hr : (mjOf (b.imageOf x) e.ref).bitmapRefused (b.part x.part) c = some st) :
    ∃ a, mediaIssue o b x c e = (b.passed x c e).logEntry o x.part c (b.core c).cx.aeIdx.toNat st a := by
  unfold mediaIssue
  generalize mjOf (b.imageOf x) e.ref = j at hu hr ⊢
  dsimp only
  rw [if_pos hu, hr]
  exact ⟨_, rfl⟩

theorem mediaGo_issues (h : b.nextAe c kMedia = some (x, e)) (hm : b.mayLaunch c = true) : mediaGo o b c = mediaIssue o b x c e := by
  unfold mediaGo
  rw [h]
  exact if_pos hm

theorem mediaGo_full (h : b.nextAe c kMedia = some (x, e)) (hm : b.mayLaunch c = false) : mediaGo o b c = b := by
  unfold mediaGo
  rw [h]
  exact if_neg (Bool.not_eq_true _ ▸ hm)

end

/-! ### The command -/

section
variable {s : State} {c : Fin 32} {x : CtxId} {e : Ae} (hf : Claims.fetched s c) (hn : s.body.nextAe c kMedia = some (x, e))
include hf hn

/-- With sixteen entries out, the entry is not issued. -/
theorem execMedia_full (hm : s.body.mayLaunch c = false) : execMedia c s = .next s :=
  State.onBody_same (Body.issuing_idle hf (mediaGo_full hn hm))

/-- An entry that issues: its effect on a body, and beside it what its sequencer's reads count. -/
theorem execMedia_issues {t : Body} (hm : s.body.mayLaunch c = true) (ht : mediaIssue s.own s.body x c e = t)
    (hmem : t.mem = s.body.mem) : ∃ u, execMedia c s = .next { s with body := u } ∧ t.readAlone u := by
  have hgo : mediaGo s.own s.body c = t := (mediaGo_issues hn hm).trans ht
  refine ⟨_, State.onBody_clocked _ hf.1, ?_⟩
  have h := Body.issuing_alone (f := fun b => mediaGo s.own b c) hf ((congrArg Body.mem hgo).trans hmem)
  rwa [hgo] at h

variable (hm : s.body.mayLaunch c = true) (hw : Claims.slotsWhole s)
include hm hw

/-- An alignment entry whose bitmap is refused takes no tick and completes (R53; log entry 108). -/
theorem execMedia_refused {st : W16} (hu : (mjOf (s.body.imageOf x) e.ref).unit = 5)
    (hr : (mjOf (s.body.imageOf x) e.ref).bitmapRefused (s.body.part x.part) c = some st) (hevt : e.evt < 256)
    (hl : ∀ l ∈ (s.body.core c).cx.launched, l.idx ≠ (s.body.core c).cx.aeIdx.toNat) :
    ∃ t, execMedia c s = .next t ∧ t.own = s.own ∧ t.body.mem = s.body.mem ∧ Claims.counts s t x e.evt ∧
      (t.body.core c).cx.launched = (s.body.core c).cx.launched ∧ (t.body.part x.part).mjs = (s.body.part x.part).mjs ∧
      (t.body.part x.part).aligns = (s.body.part x.part).aligns := by
  obtain ⟨hc, hx⟩ := Body.core_of_nextAe hn
  obtain ⟨a, hissue⟩ := mediaIssue_refused (o := s.own) hu hr
  let d := s.body.passed x c e
  have hp := Claims.part_lt hw x.part
  have hcore := Body.core_passed x hc hl hevt
  obtain ⟨-, hcores, -, -, -, hmem, -⟩ := d.logged_logEntry s.own x.part c (s.body.core c).cx.aeIdx.toNat st a
  obtain ⟨es, l, f, hpart, hev⟩ := Body.part_logEntry s.own (s.body.core c).cx.aeIdx.toNat st a
    ((congrArg Core.ctx hcore).trans hx) ((Body.parts_length_passed x hc hl hevt).symm ▸ hp)
  obtain ⟨u, hexec, hread⟩ := execMedia_issues hf hn hm hissue (hmem.trans (Body.mem_passed x hc hl hevt))
  obtain ⟨-, hucores, huparts, humem⟩ := Body.eqs_of_readAlone hread
  have hupart : u.part x.part = { s.body.part x.part with
      events := es, lost := l, slots := ((s.body.part x.part).slots.modify x.slot.val (·.event e.evt)).modify x.slot.val f } := by
    rw [Body.part_passed x hc hl hevt hp] at hpart
    exact (congrArg (·.getD x.part.val Part.reset) huparts).trans hpart
  refine ⟨_, hexec, rfl, humem.trans (hmem.trans (Body.mem_passed x hc hl hevt)), ?counts, ?launched, congrArg (·.mjs) hupart,
    congrArg (·.aligns) hupart⟩
  case counts =>
    have hslot : u.slot x.part x.slot = f ((s.body.slot x.part x.slot).event e.evt) := by
      unfold Body.slot
      rw [hupart]
      have hk : x.slot.val < (s.body.part x.part).slots.length := Nat.lt_of_lt_of_eq x.slot.isLt (hw.2 x.part).symm
      rw [getD_modify_self _ _ _ _ (Nat.lt_of_lt_of_eq hk (length_modify_eq _ _ _).symm), getD_modify_self _ _ _ _ hk]
    intro k
    rw [hslot, ← Slot.count_event]
    exact congrArg (·.getD k 0) (hev _)
  case launched =>
    unfold Body.core at hcore ⊢
    rw [hucores, hcores, hcore]

/-- An entry that is not refused is launched, takes what it takes, and queues its MJ (R345, R358). -/
theorem execMedia_queued
    (hok : (mjOf (s.body.imageOf x) e.ref).unit = 5 → (mjOf (s.body.imageOf x) e.ref).bitmapRefused (s.body.part x.part) c = none) :
    ∃ t, execMedia c s = .next t ∧ Claims.quiet s t ∧ t.body.mem = s.body.mem ∧ (t.body.core c).cx = (s.body.core c).cx.launch e ∧
      t.body.part x.part = ((mjOf (s.body.imageOf x) e.ref).take (s.body.part x.part)).part.queue (s.body.mediaRun x c e) := by
  obtain ⟨hc, -⟩ := Body.core_of_nextAe hn
  obtain ⟨f, hissue, hfx⟩ := mediaIssue_queued (o := s.own) hok
  obtain ⟨u, hexec, hread⟩ := execMedia_issues hf hn hm hissue rfl
  obtain ⟨hinner, hcores, hparts, hmem⟩ := Body.eqs_of_readAlone hread
  refine ⟨_, hexec, Claims.quiet_of_inner hinner, hmem, ?core, ?part⟩
  case core =>
    unfold Body.core
    rw [hcores]
    exact congrArg (·.cx) (s.body.core_updCx c (·.launch e) hc)
  case part =>
    unfold Body.part at hfx ⊢
    rw [hparts]
    exact (Body.part_updPart _ _ f (Claims.part_lt hw x.part)).trans hfx

end

end Sys2Proof.Machine

/-! PROOFS. MJ_START and MJ_COMPLETE: which MJ starts, what the units' taking of slots leaves, and what an MJ's end leaves (R345, R354). -/

namespace Sys2Proof.Machine

open Sys2Proof

/-! ### A field of a partition -/

/-- What a change of a partition leaves of it is left of every partition. -/
theorem Body.field_updPart {α : Type} {b : Body} {g : Part → α} {f : Part → Part} (p q : Fin 8) (h : ∀ y, g (f y) = g y) :
    g ((b.updPart p f).part q) = g (b.part q) := by
  rcases b.part_updPart_or p q f with hq | ⟨-, hq⟩
  · rw [hq]
  · rw [hq, h]

/-- A change that leaves a partition's almanac slots leaves every slot. -/
theorem Body.slot_updPart {b : Body} {f : Part → Part} (p q : Fin 8) (k : Fin 4) (h : ∀ y, (f y).slots = y.slots) :
    (b.updPart p f).slot q k = b.slot q k := by
  unfold Body.slot
  rw [Body.field_updPart (g := (·.slots)) p q h]

/-- What almanac slots do not show, a change of one leaves. -/
theorem Body.field_updSlot {α : Type} {g : Part → α} (b : Body) (p q : Fin 8) (k : Fin 4) (f : Slot → Slot)
    (h : ∀ y l, g { y with slots := l } = g y) : g ((b.updSlot p k f).part q) = g (b.part q) := by
  unfold Body.updSlot
  exact Body.field_updPart p q fun y => h y _

/-! ### Units take slots -/

/-- A slot as a unit takes it. -/
def MediaSlot.taken (k : MediaSlot) : MediaSlot := { k with started := true }

/-- n is m but for which of its slots units have taken. -/
structure MjRun.Dispatched (m n : MjRun) : Prop where
  run   : n = { m with slots := n.slots }
  slots : n.slots.map MediaSlot.taken = m.slots.map MediaSlot.taken

theorem MjRun.dispatched_refl (m : MjRun) : m.Dispatched m := ⟨rfl, rfl⟩

theorem MjRun.Dispatched.trans {m n k : MjRun} (h : m.Dispatched n) (g : n.Dispatched k) : m.Dispatched k := by
  refine ⟨g.run.trans ?_, g.slots.trans h.slots⟩
  rw [h.run]

theorem MjRun.Dispatched.same {m n k : MjRun} (h : m.Dispatched n) (hs : m.same k = true) : n.same k = true := by
  rw [h.run]
  exact hs

/-- What a slot shows beside being taken, it shows after. -/
theorem MjRun.Dispatched.slot {α : Type} {m n : MjRun} (h : m.Dispatched n) {f : MediaSlot → α} (hf : ∀ k, f k.taken = f k)
    (i : Nat) : (n.slots[i]?).map f = (m.slots[i]?).map f := by
  have hmap : n.slots.map f = m.slots.map f := by
    have := congrArg (List.map f) h.slots
    simpa only [List.map_map, Function.comp_def, hf] using this
  rw [← List.getElem?_map, hmap, List.getElem?_map]

theorem startSlots_taken (n : Nat) (l : List MediaSlot) : (startSlots n l).1.map MediaSlot.taken = l.map MediaSlot.taken := by
  induction l generalizing n with
  | nil =>
    cases n <;> rfl
  | cons k t ih =>
    cases n with
    | zero => rfl
    | succ n =>
      unfold startSlots
      split
      · exact congrArg (k.taken :: ·) (ih (n + 1))
      · exact congrArg (k.taken :: ·) (ih n)

/-- z is y but for which of its MJs' slots units have taken. -/
structure Part.Dispatched (y z : Part) : Prop where
  part : z = { y with mjs := z.mjs }
  mjs  : ∀ m ∈ y.mjs, ∃ n ∈ z.mjs, m.Dispatched n

theorem Part.dispatched_refl (y : Part) : y.Dispatched y := ⟨rfl, fun m hm => ⟨m, hm, m.dispatched_refl⟩⟩

theorem Part.Dispatched.trans {y z w : Part} (h : y.Dispatched z) (g : z.Dispatched w) : y.Dispatched w := by
  refine ⟨g.part.trans ?_, fun m hm => ?_⟩
  · rw [h.part]
  · obtain ⟨n, hn, hmn⟩ := h.mjs m hm
    obtain ⟨k, hk, hnk⟩ := g.mjs n hn
    exact ⟨k, hk, hmn.trans hnk⟩

/-- MJ by MJ: each that a list holds is held, as dispatched, by what a step builds of it. -/
theorem foldl_dispatched {step : List MjRun × Nat → MjRun → List MjRun × Nat}
    (hstep : ∀ r m, ∃ n, m.Dispatched n ∧ (step r m).1 = r.1 ++ [n]) (l : List MjRun) (r : List MjRun × Nat) :
    (∀ n ∈ r.1, n ∈ (l.foldl step r).1) ∧ ∀ m ∈ l, ∃ n ∈ (l.foldl step r).1, m.Dispatched n := by
  induction l generalizing r with
  | nil => exact ⟨fun _ h => h, fun _ h => absurd h List.not_mem_nil⟩
  | cons m t ih =>
    obtain ⟨n, hmn, hn⟩ := hstep r m
    obtain ⟨hkept, htail⟩ := ih (step r m)
    rw [hn] at hkept
    refine ⟨fun k hk => hkept k (List.mem_append_left _ hk), fun k hk => ?_⟩
    rcases List.mem_cons.mp hk with rfl | hk
    · exact ⟨n, hkept n (List.mem_append_right _ List.mem_cons_self), hmn⟩
    · exact htail k hk

theorem Part.dispatched_dispatchUnit (live : CtxId → Bool) (units u : Nat) (y : Part) : y.Dispatched (y.dispatchUnit live units u) := by
  refine ⟨rfl, (foldl_dispatched (fun r m => ?_) y.mjs _).2⟩
  dsimp only
  split
  · exact ⟨_, ⟨rfl, startSlots_taken _ _⟩, rfl⟩
  · exact ⟨m, m.dispatched_refl, rfl⟩

/-- The units of a partition take slots: nothing but that changes, in that partition alone (R345). -/
theorem Body.dispatch_eq (o : Own) (b : Body) (p : Fin 8) : ∃ f, b.dispatch o p = b.updPart p f ∧ ∀ y : Part, y.Dispatched (f y) :=
  ⟨_, rfl, fun y => List.foldlRecOn (motive := y.Dispatched) _ _ y.dispatched_refl fun _ hz _ _ =>
    hz.trans (Part.dispatched_dispatchUnit _ _ _ _)⟩

/-! ### The MJ of an entry -/

theorem Body.mjRunOf_spec {b : Body} {p : Fin 8} {c : Fin 32} {ae : Nat} {m : MjRun} (h : b.mjRunOf p c ae = some m) :
    m ∈ (b.part p).mjs ∧ m.idx = ae := by
  unfold Body.mjRunOf at h
  split at h
  · cases h
  · have hp := List.find?_some h
    simp only [Bool.and_eq_true, beq_iff_eq] at hp
    obtain ⟨⟨-, hidx⟩, -⟩ := hp
    exact ⟨List.mem_of_find?_eq_some h, hidx⟩

/-- A partition that holds an MJ is one of the module's. -/
theorem Body.part_lt_of_mj {b : Body} {p : Fin 8} {m : MjRun} (h : m ∈ (b.part p).mjs) : p.val < b.parts.length := by
  refine Nat.lt_of_not_le fun hle => ?_
  unfold Body.part at h
  rw [List.getD_eq_default _ _ hle] at h
  exact List.not_mem_nil h

/-- An MJ may start, and none of the module that arrived earlier may (R345). -/
def Body.mjMay (o : Own) (b : Body) (p : Fin 8) (m : MjRun) : Prop :=
  b.mjReady o p m = true ∧ b.mjsRunning < 32 ∧ b.mjBehind o m = false

/-- The budget of a decode MJ (R354). -/
def Body.mjBudget (b : Body) (p : Fin 8) (m : MjRun) : Nat :=
  min (b.mjDesc m).cap ((b.mjDesc m).useFactor * (((b.part p).streams.getD m.stream Stream.reset).meanFor m.number).toNat)

section
variable {o : Own} {b : Body} {p : Fin 8} {c : Fin 32} {ae : Nat} {m : MjRun}

theorem mjStart_none (h : b.mjRunOf p c ae = none) : mjStart o b p c ae = b := by
  unfold mjStart
  rw [h]

theorem mjComplete_none (h : b.mjRunOf p c ae = none) : mjComplete b p c ae = b := by
  unfold mjComplete
  rw [h]

variable (h : b.mjRunOf p c ae = some m)
include h

theorem mjStart_not (hm : ¬ b.mjMay o p m) : mjStart o b p c ae = b := by
  unfold mjStart
  rw [h]
  refine if_pos ?_
  by_contra hn
  refine hm ?_
  unfold Body.mjMay
  simpa [and_assoc] using hn

/-- An encode MJ starts: it begins its session's sequence where that is asked for (R373, R374). -/
theorem mjStart_encode {i : Nat} (hm : b.mjMay o p m) (hi : m.session = some i) : mjStart o b p c ae = b.updPart p fun y =>
    { y.setMj { m with started := true } with encs := y.encs.modify i (·.begin (b.mjDesc m)) } := by
  obtain ⟨hready, hrun, hbehind⟩ := hm
  unfold mjStart
  rw [h]
  dsimp only
  rw [if_neg (by simp [hready, hbehind, hrun]), hi]

/-- A decode MJ starts with its budget, and units take its slots (R345, R354). -/
theorem mjStart_decode (hm : b.mjMay o p m) (hi : m.session = none) : mjStart o b p c ae =
    (b.updPart p (·.setMj { m with started := true, budget := b.mjBudget p m })).dispatch o p := by
  obtain ⟨hready, hrun, hbehind⟩ := hm
  unfold mjStart
  rw [h]
  dsimp only
  rw [if_neg (by simp [hready, hbehind, hrun]), hi]
  rfl

theorem mjComplete_early (hm : m.started = false ∨ ∃ k ∈ m.slots, k.done = false) : mjComplete b p c ae = b := by
  unfold mjComplete
  rw [h]
  refine if_pos ?_
  rcases hm with hm | ⟨k, hk, hd⟩
  · simp [hm]
  · have : m.slots.all (·.done) = false := List.all_eq_false.mpr ⟨k, hk, by simp [hd]⟩
    simp [this]

/-- An MJ whose every slot is done leaves the queue, and its entry completes. -/
theorem mjComplete_done (hm : m.started = true) (hd : ∀ k ∈ m.slots, k.done = true) : ∃ f : Part → Part,
    mjComplete b p c ae = (b.updPart p f).complete m.ctx c m.idx ∧
      (∀ y, (f y).mjs = y.mjs.filter fun n => !n.same m) ∧ ∀ y, (f y).slots = y.slots := by
  have hall : m.slots.all (·.done) = true := List.all_eq_true.mpr hd
  unfold mjComplete
  rw [h]
  dsimp only
  rw [if_neg (by simp [hm, hall])]
  exact ⟨_, rfl, fun _ => rfl, fun _ => rfl⟩

end

/-! ### The commands -/

theorem execMjStart_same {s : State} {p : Fin 8} {c : Fin 32} {ae : Nat} (h : mjStart s.own s.body p c ae = s.body) :
    execMjStart p c ae s = .next s := State.onBody_same h

theorem execMjComplete_same {s : State} {p : Fin 8} {c : Fin 32} {ae : Nat} (h : mjComplete s.body p c ae = s.body) :
    execMjComplete p c ae s = .next s := State.onBody_same h

section
variable {s : State} {p : Fin 8} {c : Fin 32} {ae : Nat} {m : MjRun} (hcl : s.body.clocked = true)
  (hrun : s.body.mjRunOf p c ae = some m)
include hcl hrun

/-- An MJ that starts does so in its partition alone. -/
theorem execMjStart_starts (hm : s.body.mjMay s.own p m) :
    ∃ t, execMjStart p c ae s = .next t ∧ Claims.quiet s t ∧ t.body.mem = s.body.mem ∧ t.body.cores = s.body.cores ∧
      (∀ q, q ≠ p → t.body.part q = s.body.part q) ∧
      (∃ n ∈ (t.body.part p).mjs, n.same m = true ∧ n.started = true ∧ (m.session = none → n.budget = s.body.mjBudget p m)) ∧
      (∀ i, m.session = some i → i < (s.body.part p).encs.length → (t.body.part p).encs.getD i EncSession.reset =
        ((s.body.part p).encs.getD i EncSession.reset).begin (s.body.mjDesc m)) := by
  obtain ⟨hmem, -⟩ := Body.mjRunOf_spec hrun
  have hp := Body.part_lt_of_mj hmem
  cases hi : m.session with
  | some i =>
    refine ⟨_, State.onBody_clocked _ hcl, ?_⟩
    rw [mjStart_encode hrun hm hi]
    have hpart := s.body.part_updPart p (fun y =>
      { y.setMj { m with started := true } with encs := y.encs.modify i (·.begin (s.body.mjDesc m)) }) hp
    refine ⟨Claims.quiet_of_inner (s.body.inner_updPart p _), rfl, rfl, fun q hq => s.body.part_updPart_ne p q _ hq,
      ⟨{ m with started := true }, ?mj, MjRun.same_iff.mpr ⟨rfl, rfl, rfl⟩, rfl, nofun⟩, ?session⟩
    case mj =>
      rw [hpart]
      exact Part.mem_setMj (m := { m with started := true }) ⟨m, hmem, MjRun.same_iff.mpr ⟨rfl, rfl, rfl⟩⟩
    case session =>
      rintro k ⟨⟩ hk
      rw [hpart]
      exact getD_modify_self _ _ _ _ hk
  | none =>
    refine ⟨_, State.onBody_clocked _ hcl, ?_⟩
    let m' : MjRun := { m with started := true, budget := s.body.mjBudget p m }
    obtain ⟨f, hf, hdisp⟩ := (s.body.updPart p (·.setMj m')).dispatch_eq s.own p
    rw [mjStart_decode hrun hm hi, hf]
    have hpart := s.body.part_updPart p (·.setMj m') hp
    obtain ⟨n, hn, hmn⟩ := (hdisp ((s.body.part p).setMj m')).mjs m'
      (Part.mem_setMj ⟨m, hmem, MjRun.same_iff.mpr ⟨rfl, rfl, rfl⟩⟩)
    refine ⟨Claims.quiet_of_inner ?inner, rfl, rfl, fun q hq => ?others,
      ⟨n, ?mj, hmn.same (MjRun.same_iff.mpr ⟨rfl, rfl, rfl⟩), congrArg (·.started) hmn.run,
        fun _ => congrArg (·.budget) hmn.run⟩, nofun⟩
    case inner => exact Body.inner_trans (s.body.inner_updPart p _) (Body.inner_updPart _ p f)
    case others => exact (Body.part_updPart_ne _ p q f hq).trans (s.body.part_updPart_ne p q _ hq)
    case mj =>
      rw [Body.part_updPart _ p f (Nat.lt_of_lt_of_eq hp (s.body.updPart_parts_length p _).symm), hpart]
      exact hn

/-- An MJ whose every slot is done leaves the queue, and its event is counted (R345, R354). -/
theorem execMjComplete_done {l : Launched} (hm : m.started = true) (hd : ∀ k ∈ m.slots, k.done = true)
    (hl : (s.body.core c).cx.launched.find? (·.idx == ae) = some l) (hw : Claims.slotsWhole s) :
    ∃ t, execMjComplete p c ae s = .next t ∧ Claims.quiet s t ∧ t.body.mem = s.body.mem ∧
      (∀ n ∈ (t.body.part p).mjs, n.same m = false) ∧ Claims.counts s t m.ctx l.evt.toNat := by
  obtain ⟨-, rfl⟩ := Body.mjRunOf_spec hrun
  obtain ⟨f, hf, hmjs, hslots⟩ := mjComplete_done hrun hm hd
  have hfind : ((s.body.updPart p f).core c).cx.launched.find? (·.idx == m.idx) = some l := hl
  have hp := Claims.part_lt hw m.ctx.part
  let d := (s.body.updPart p f).updCx c (·.withdraw m.idx)
  have hbody : mjComplete s.body p c m.idx = d.updSlot m.ctx.part m.ctx.slot (·.event l.evt.toNat) :=
    hf.trans (Body.complete_of_find hfind)
  have hlen : d.parts.length = s.body.parts.length := s.body.updPart_parts_length p f
  have hslot : d.slot m.ctx.part m.ctx.slot = s.body.slot m.ctx.part m.ctx.slot := Body.slot_updPart p m.ctx.part m.ctx.slot hslots
  have hk : m.ctx.slot.val < (d.part m.ctx.part).slots.length := by
    rw [Body.updCx_part, Body.field_updPart (g := (·.slots)) p m.ctx.part hslots, hw.2]
    exact m.ctx.slot.isLt
  refine ⟨_, State.onBody_clocked _ hcl, ?_⟩
  rw [hbody]
  refine ⟨Claims.quiet_of_inner ⟨rfl, rfl, rfl, rfl, rfl, rfl⟩, rfl, fun n hn => ?gone, Claims.counts_of_event ?event⟩
  case gone =>
    have hmjs' : ((d.updSlot m.ctx.part m.ctx.slot (·.event l.evt.toNat)).part p).mjs = (s.body.part p).mjs.filter fun n => !n.same m := by
      rw [Body.field_updSlot (g := (·.mjs)) _ _ _ _ _ fun _ _ => rfl, Body.updCx_part,
        s.body.part_updPart p f (Claims.part_lt hw p), hmjs]
    obtain ⟨-, hsame⟩ := List.mem_filter.mp (hmjs' ▸ hn)
    simpa using hsame
  case event => exact (d.slot_updSlot _ _ _ (hlen.symm ▸ hp) hk).trans (congrArg (·.event l.evt.toNat) hslot)

end

end Sys2Proof.Machine

/-! PROOFS. The end of a slot's decode: what it leaves, and the two commands that claim it (R19, R226, R342, R354). -/

namespace Sys2Proof.Machine

open Sys2Proof

/-! ### Writes that the memories take -/

/-- Writes of a media unit that the memories take in a state, made in a body with its memory, its guarded slots and no other waiting
requests: they are stored, and change stacks and memory alone. -/
theorem Claims.stored_mediaPut {s : State} {t : Body} {m : MjRun} {ws : List (Nat × List Byte)} (hb : t.board = s.body.board)
    (hg : t.guards = s.body.guards) (hm : t.mem = s.body.mem) (hw : ∀ a n, s.body.noneWaits a n = true → t.noneWaits a n = true)
    (hu : Claims.unguarded s (.media m.ctx.part m.core m.idx) ws) :
    t.memoryAlone (t.mediaPut s.own m ws) ∧ Claims.stored s { s with body := t.mediaPut s.own m ws } ws := by
  obtain ⟨hs, hfree⟩ := hu
  have hsound : t.mem.sound = true := hm.symm ▸ hs
  refine ⟨Body.memoryAlone_mediaPut hsound fun w h => hw _ _ (hfree w h).2, fun a => ?_⟩
  refine (Body.byte_mediaPut hsound (fun w h => ⟨?_, hw _ _ (hfree w h).2⟩) a).trans ?_
  · rw [refusedIn_media m.ctx.part m.core m.idx _ _ hb hg]
    exact (hfree w h).1
  · unfold Claims.after
    rw [hm]

/-! ### Events -/

theorem Body.guards_updSlot {b : Body} (p : Fin 8) (k : Fin 4) {f : Slot → Slot} (h : ∀ s, protectedRanges (f s) = protectedRanges s) :
    (b.updSlot p k f).guards = b.guards :=
  map_modify_eq (fun x => by rw [List.flatMap_def, List.flatMap_def, map_modify_eq h]) _ _

theorem protectedRanges_eventTimes (s : Slot) (e n : Nat) : protectedRanges (s.eventTimes e n) = protectedRanges s :=
  List.foldlRecOn (motive := fun (t : Slot) => protectedRanges t = protectedRanges s) _ _ rfl fun t ht _ _ =>
    (protectedRanges_event t e).trans ht

/-- A record joins a partition's event queue, and then at most a signal (R405, R411). -/
theorem Body.signalled_appendEvent (o : Own) (b : Body) (p : Fin 8) (r : EventRec) : ∃ f : Part → Part,
    (∀ y, ∃ es l, f y = { y with events := es, lost := l }) ∧ (b.updPart p f).signalled (b.appendEvent o p r) := by
  unfold Body.appendEvent
  extract_lets evs b'
  split
  · exact ⟨_, fun y => ⟨y.events, _, rfl⟩, Body.signalled_refl _⟩
  · refine ⟨fun x => { x with events := x.events ++ [r] }, fun y => ⟨_, y.lost, rfl⟩, ?_⟩
    split
    · exact b'.signalled_firePart o p _
    · exact b'.signalled_refl

theorem Body.signalled_mediaEvent (o : Own) (b : Body) (p : Fin 8) (st : W16) (r : List Byte) : ∃ f : Part → Part,
    (∀ y, ∃ es l, f y = { y with events := es, lost := l }) ∧ (b.updPart p f).signalled (b.mediaEvent o p st r) := by
  unfold Body.mediaEvent
  split
  · refine ⟨id, fun y => ⟨y.events, y.lost, rfl⟩, ?_⟩
    unfold Body.updPart
    rw [List.modify_id]
    exact b.signalled_refl
  · exact b.signalled_appendEvent o p _

/-! ### What the end of a slot leaves -/

/-- An MJ with one of its slots replaced. -/
def MjRun.withSlot (m : MjRun) (i : Nat) (k : MediaSlot) : MjRun := { m with slots := m.slots.set i k }

theorem MjRun.getElem?_withSlot {m : MjRun} {i : Nat} {k : MediaSlot} (d : MediaSlot) (h : m.slots[i]? = some k) :
    (m.withSlot i d).slots[i]? = some d := by
  obtain ⟨hi, -⟩ := List.getElem?_eq_some_iff.mp h
  exact List.getElem?_set_self hi

/-- A slot with an outcome. -/
def MediaSlot.ended (k : MediaSlot) (j : Mj) (out : SlotOut) : MediaSlot :=
  { k with done := true, void := out.vals.isNone, cycles := out.cycles, bands := j.bands }

/-- The body when a slot is counted, before its event's record and its writes. -/
def Body.slotCounted (b : Body) (p : Fin 8) (m : MjRun) (i index : Nat) (k : MediaSlot) (out : SlotOut) : Body :=
  ((b.updCore m.core (·.countEvs ((b.mjDesc m).slotData out).2)).updPart p fun y =>
    (y.setMj (m.withSlot i (k.ended (b.mjDesc m) out))).countSlot out.status out.vals.isNone index).updSlot m.ctx.part m.ctx.slot
      (·.eventTimes (b.mjDesc m).pevt ((b.mjDesc m).bands - k.bands))

/-- The status record of a slot (R343). -/
def MediaSlot.record (k : MediaSlot) (index : Nat) (out : SlotOut) : List Byte :=
  statusRecord out.status out.vals.isNone out.trunc index k.epoch k.pos out.damage out.conceal out.cycles out.len

/-- The body when units have been given slots too, before the writes. -/
def Body.slotEnded (o : Own) (b : Body) (p : Fin 8) (m : MjRun) (i index : Nat) (k : MediaSlot) (out : SlotOut) : Body :=
  ((b.slotCounted p m i index k out).mediaEvent o p out.status (k.record index out)).dispatch o p

theorem finishSlot_eq (o : Own) (b : Body) (p : Fin 8) (m : MjRun) (i index : Nat) (k : MediaSlot) (out : SlotOut) :
    finishSlot o b p m i index k out = (b.slotEnded o p m i index k out).mediaPut o m
      (((b.mjDesc m).stat + 32 * i, k.record index out) :: b.slotWrites m i out) := rfl

/-- t is b when slot i of m has ended as k: it is counted, and memory, stacks, board, mailboxes and guarded slots are as they were. -/
structure SlotEnded (b t : Body) (p : Fin 8) (m : MjRun) (i : Nat) (k : MediaSlot) : Prop where
  board   : t.board = b.board
  mail    : t.mail = b.mail
  stks    : t.stks = b.stks
  mem     : t.mem = b.mem
  guards  : t.guards = b.guards
  medDone : (t.part p).medDone = (b.part p).medDone + 1
  mj      : ∃ n ∈ (t.part p).mjs, (m.withSlot i k).Dispatched n

theorem slotEnded_slotCounted {b : Body} {p : Fin 8} {m : MjRun} (i index : Nat) (k : MediaSlot) (out : SlotOut)
    (hm : m ∈ (b.part p).mjs) : SlotEnded b (b.slotCounted p m i index k out) p m i (k.ended (b.mjDesc m) out) := by
  let f : Part → Part := fun y => (y.setMj (m.withSlot i (k.ended (b.mjDesc m) out))).countSlot out.status out.vals.isNone index
  have hpart : (b.updPart p f).part p = f (b.part p) := b.part_updPart p f (Body.part_lt_of_mj hm)
  refine ⟨rfl, rfl, rfl, rfl, ?guards, ?medDone, _, ?mj, MjRun.dispatched_refl _⟩
  case guards =>
    refine (Body.guards_updSlot _ _ (protectedRanges_eventTimes · _ _)).trans ?_
    exact Body.guards_updPart (f := f) fun _ => rfl
  case medDone => exact (Body.field_updSlot (g := (·.medDone)) _ _ _ _ _ fun _ _ => rfl).trans (congrArg (·.medDone) hpart)
  case mj =>
    unfold Body.slotCounted
    rw [Body.field_updSlot (g := (·.mjs)) _ _ _ _ _ fun _ _ => rfl]
    exact congrArg (·.mjs) hpart ▸ Part.mem_setMj ⟨m, hm, MjRun.same_iff.mpr ⟨rfl, rfl, rfl⟩⟩

/-- The record of a slot that has ended leaves it so. -/
theorem SlotEnded.mediaEvent {b t : Body} {p : Fin 8} {m : MjRun} {i : Nat} {k : MediaSlot} (h : SlotEnded b t p m i k) (o : Own) (st : W16)
    (r : List Byte) : SlotEnded b (t.mediaEvent o p st r) p m i k := by
  obtain ⟨f, hf, hboard, hmail, -, -, hstks, -, hparts, hmem, -⟩ := t.signalled_mediaEvent o p st r
  have hfield : ∀ {α : Type} {g : Part → α}, (∀ y es l, g { y with events := es, lost := l } = g y) →
      g ((t.mediaEvent o p st r).part p) = g (t.part p) := by
    intro α g hg
    unfold Body.part
    rw [hparts]
    refine Body.field_updPart p p fun y => ?_
    obtain ⟨es, l, hy⟩ := hf y
    rw [hy, hg]
  refine ⟨hboard.trans h.board, hmail.trans h.mail, hstks.trans h.stks, hmem.trans h.mem, ?guards, ?medDone, ?mj⟩
  case guards =>
    refine Eq.trans (congrArg (List.map _) hparts) ((Body.guards_updPart fun y => ?_).trans h.guards)
    obtain ⟨es, l, hy⟩ := hf y
    rw [hy]
  case medDone => exact (hfield (g := (·.medDone)) fun _ _ _ => rfl).trans h.medDone
  case mj =>
    rw [hfield (g := (·.mjs)) fun _ _ _ => rfl]
    exact h.mj

/-- Units that take slots leave it so. -/
theorem SlotEnded.dispatch {b t : Body} {p : Fin 8} {m : MjRun} {i : Nat} {k : MediaSlot} (h : SlotEnded b t p m i k) (o : Own) :
    SlotEnded b (t.dispatch o p) p m i k := by
  obtain ⟨f, hf, hdisp⟩ := t.dispatch_eq o p
  obtain ⟨n, hn, hmn⟩ := h.mj
  rw [hf]
  refine ⟨h.board, h.mail, h.stks, h.mem, ?guards, ?medDone, ?mj⟩
  case guards => exact (Body.guards_updPart fun y => congrArg (·.slots) (hdisp y).part).trans h.guards
  case medDone => exact (Body.field_updPart (g := (·.medDone)) p p fun y => congrArg (·.medDone) (hdisp y).part).trans h.medDone
  case mj =>
    rw [t.part_updPart p f (Body.part_lt_of_mj hn)]
    obtain ⟨n', hn', hnn⟩ := (hdisp (t.part p)).mjs n hn
    exact ⟨n', hn', hmn.trans hnn⟩

theorem slotEnded_spec {o : Own} {b : Body} {p : Fin 8} {m : MjRun} (i index : Nat) (k : MediaSlot) (out : SlotOut)
    (hm : m ∈ (b.part p).mjs) : SlotEnded b (b.slotEnded o p m i index k out) p m i (k.ended (b.mjDesc m) out) :=
  ((slotEnded_slotCounted i index k out hm).mediaEvent o _ _).dispatch o

/-! ### When a slot ends -/

theorem Body.workingSlot_spec {b : Body} {p : Fin 8} {c : Fin 32} {ae slot : Nat} {m : MjRun} {k : MediaSlot}
    (h : b.workingSlot p c ae slot = some (m, k)) : m ∈ (b.part p).mjs ∧ m.slots[slot]? = some k := by
  unfold Body.workingSlot at h
  split at h
  · cases h
  · next n hn =>
    split at h
    · cases h
    · next q hq =>
      split at h
      · cases h
        exact ⟨(Body.mjRunOf_spec hn).1, hq⟩
      · cases h

/-- The outcome that ends a slot: its own, or its budget's; VOID where the memories refuse what it writes (R354; log entry 108). -/
def Body.slotResult (o : Own) (b : Body) (m : MjRun) (slot : Nat) (out : SlotOut) : SlotOut :=
  b.slotOut o m slot (if out.exhausts m.budget then spentOut out m.budget else out)

/-- What the end of a slot writes: its status record, and what its MJ asks for (R342). -/
def Body.endWrites (o : Own) (b : Body) (p : Fin 8) (m : MjRun) (slot : Nat) (k : MediaSlot) (out : SlotOut) : List (Nat × List Byte) :=
  ((b.mjDesc m).stat + 32 * slot, k.record (b.slotSources o p m k).1.index (b.slotResult o m slot out)) ::
    b.slotWrites m slot (b.slotResult o m slot out)

/-- They turn on neither stacks nor memory but for what the slot has read. -/
theorem Body.endWrites_memoryAlone {o : Own} {b t : Body} {p : Fin 8} {m : MjRun} {slot : Nat} {k : MediaSlot} {out : SlotOut}
    (h : b.memoryAlone t) : ((t.mjDesc m).stat + 32 * slot, k.record (b.slotSources o p m k).1.index (b.slotResult o m slot out)) ::
      t.slotWrites m slot (b.slotResult o m slot out) = b.endWrites o p m slot k out := by
  unfold Body.memoryAlone at h
  rw [h]
  rfl

section
variable {o : Own} {b : Body} {p : Fin 8} {c : Fin 32} {ae slot : Nat}

theorem slotEnds_none (spent : Bool) (h : b.workingSlot p c ae slot = none) : slotEnds o b p c ae slot spent = b := by
  unfold slotEnds
  rw [h]

variable {m : MjRun} {k : MediaSlot} (h : b.workingSlot p c ae slot = some (m, k))
include h

theorem slotEnds_waits (spent : Bool) (hw : b.slotWork o p m slot k = .waits) : slotEnds o b p c ae slot spent = b := by
  unfold slotEnds
  rw [h]
  dsimp only
  rw [hw]

theorem slotEnds_unreadable (spent : Bool) {w : Nat} (hw : b.slotWork o p m slot k = .unreadable w) :
    slotEnds o b p c ae slot spent = b.readBad o (.media p c ae) w := by
  unfold slotEnds
  rw [h]
  dsimp only
  rw [hw]

variable {out : SlotOut} (hw : b.slotWork o p m slot k = .made out)
include hw

/-- The command that claims the other end. -/
theorem slotEnds_other {spent : Bool} (hs : out.exhausts m.budget = !spent) : slotEnds o b p c ae slot spent = b := by
  unfold slotEnds
  rw [h]
  dsimp only
  rw [hw]
  refine if_pos ?_
  rw [hs]
  cases spent <;> rfl

/-- The command of its end, in sound memory: the slot's reads are counted, it ends with its result, and its writes are made. -/
theorem slotEnds_ends (hs : b.mem.sound = true) : slotEnds o b p c ae slot (out.exhausts m.budget) =
    ((b.countReadsOf o (b.slotSources o p m k).2).slotEnded o p m slot (b.slotSources o p m k).1.index k
      (b.slotResult o m slot out)).mediaPut o m (b.endWrites o p m slot k out) := by
  rw [← Body.endWrites_memoryAlone (Body.memoryAlone_countReadsOf o b (b.slotSources o p m k).2), ← finishSlot_eq]
  unfold slotEnds
  rw [h]
  dsimp only
  rw [hw]
  refine (if_neg (by simp)).trans ?_
  rw [Body.correctedIn_sound _ hs]
  rfl

end

/-! ### The commands -/

/-- The command of a slot's end: by its budget or not. -/
def Body.slotRun (spent : Bool) (p : Fin 8) (c : Fin 32) (ae slot : Nat) (s : State) : Result :=
  s.onBody fun o b => slotEnds o b p c ae slot spent

theorem exec_slotRun (spent : Bool) (p : Fin 8) (c : Fin 32) (ae slot : Nat) (s : State) :
    exec (if spent then .decodeBudgetExhausted p c ae slot else .sampleDecodeComplete p c ae slot) s =
      Body.slotRun spent p c ae slot s := by
  cases spent <;> rfl

theorem slotRun_same {s : State} {spent : Bool} {p : Fin 8} {c : Fin 32} {ae slot : Nat}
    (h : slotEnds s.own s.body p c ae slot spent = s.body) : Body.slotRun spent p c ae slot s = .next s := State.onBody_same h

section
variable {s : State} {p : Fin 8} {c : Fin 32} {ae slot : Nat} {m : MjRun} {k : MediaSlot} (hcl : s.body.clocked = true)
  (h : s.body.workingSlot p c ae slot = some (m, k))
include hcl h

theorem slotRun_unreadable (spent : Bool) {w : Nat} (hw : s.body.slotWork s.own p m slot k = .unreadable w) :
    Body.slotRun spent p c ae slot s = .next { s with body := s.body.readBad s.own (.media p c ae) w } := by
  rw [← slotEnds_unreadable h spent hw]
  exact State.onBody_clocked _ hcl

/-- A slot whose writes the memories take: it is done and counted, they are stored, and nothing else in memory changes (R342, R354). -/
theorem slotRun_ends (hmp : m.ctx.part = p) {out : SlotOut} (hw : s.body.slotWork s.own p m slot k = .made out)
    (hu : Claims.unguarded s (.media p m.core m.idx) (s.body.endWrites s.own p m slot k out)) :
    ∃ t, Body.slotRun (out.exhausts m.budget) p c ae slot s = .next t ∧ t.own = s.own ∧ t.body.mail = s.body.mail ∧
      Claims.stored s t (s.body.endWrites s.own p m slot k out) ∧ (t.body.part p).medDone = (s.body.part p).medDone + 1 ∧
      ∃ n ∈ (t.body.part p).mjs, n.same m = true ∧ (n.slots[slot]?).map (·.done) = some true := by
  subst hmp
  obtain ⟨hmj, hslot⟩ := Body.workingSlot_spec h
  let b := s.body.countReadsOf s.own (s.body.slotSources s.own m.ctx.part m k).2
  let res := s.body.slotResult s.own m slot out
  let t := b.slotEnded s.own m.ctx.part m slot (s.body.slotSources s.own m.ctx.part m k).1.index k res
  have hread : s.body.memoryAlone b := Body.memoryAlone_countReadsOf s.own s.body _
  have hparts := Body.parts_of_memoryAlone hread
  have hpart := Body.part_of_memoryAlone hread m.ctx.part
  have hended : SlotEnded b t m.ctx.part m slot (k.ended (b.mjDesc m) res) := slotEnded_spec _ _ _ _ (hpart.symm ▸ hmj)
  have hwaits : ∀ a n, s.body.noneWaits a n = true → t.noneWaits a n = true := by
    intro a n hn
    have hb : b.noneWaits a n = true := Body.noneWaits_countReadsOf _ hn
    unfold Body.noneWaits at hb ⊢
    rwa [hended.stks]
  obtain ⟨hput, hstored⟩ := Claims.stored_mediaPut (t := t) (hended.board.trans (Body.board_of_memoryAlone hread))
    (hended.guards.trans (congrArg (List.map _) hparts)) (hended.mem.trans (Body.countReadsOf_mem ..)) hwaits hu
  obtain ⟨-, -, hmail, -⟩ := Body.eqs_of_memoryAlone hput
  obtain ⟨-, -, hbmail, -⟩ := Body.eqs_of_memoryAlone hread
  have htpart := Body.part_of_memoryAlone hput m.ctx.part
  obtain ⟨n, hn, hmn⟩ := hended.mj
  refine ⟨_, State.onBody_clocked _ hcl, ?_⟩
  rw [slotEnds_ends h hw hu.1]
  refine ⟨rfl, hmail.trans (hended.mail.trans hbmail), hstored, ?medDone, n, htpart.symm ▸ hn,
    hmn.same (MjRun.same_iff.mpr ⟨rfl, rfl, rfl⟩), ?slot⟩
  case medDone =>
    rw [htpart, hended.medDone, hpart]
  case slot =>
    rw [hmn.slot (f := (·.done)) (fun _ => rfl), MjRun.getElem?_withSlot _ hslot]
    rfl

end

end Sys2Proof.Machine

/-! PROOFS. VIDEO_BAND_PROGRESS: what the next progress band of a video slot leaves (R226, R370). -/

namespace Sys2Proof.Machine

open Sys2Proof

/-! ### A band in memory -/

/-- The band is the next of a video slot that has one. -/
def Mj.bandDue (j : Mj) (k : MediaSlot) (band : Nat) : Prop := j.video = true ∧ band = k.bands ∧ band < j.bands

/-- The frame that a band lies in, where the clip gives it. -/
def Mj.bandFrame (j : Mj) (out : SlotOut) (band : Nat) : Option VideoFrame := (out.frames[(j.bandRowsOf band).1]?).join

/-- What a band writes: the elements of its frame in the rows that it names (R370). -/
def Mj.bandWrites (j : Mj) (out : SlotOut) (slot band : Nat) (f : VideoFrame) : List (Nat × List Byte) :=
  let q := j.bandRowsOf band
  let cs := (j.convertAll ((out.frames.take q.1).flatMap j.frameVals ++ j.frameVals (some f))).drop (q.1 * j.pixels)
  (cs.zipIdx.filter fun ((_, i) : (List Byte × ConvEv) × Nat) =>
      decide (q.2.1 ≤ (j.place i).1) && decide ((j.place i).1 < q.2.2)).map fun ((v, i) : (List Byte × ConvEv) × Nat) =>
    (j.slotAt slot + q.1 * j.framePitch + i * j.elem, v.1)

/-- The body when a band is counted and its event too, before it is written. -/
def Body.bandCounted (b : Body) (p : Fin 8) (m : MjRun) (slot : Nat) (k : MediaSlot) (band : Nat) : Body :=
  (b.updPart p (·.setMj (m.withSlot slot { k with bands := band + 1 }))).updSlot m.ctx.part m.ctx.slot (·.event (b.mjDesc m).pevt)

/-- The partition then. -/
theorem Body.part_bandCounted {b : Body} {m : MjRun} (slot : Nat) (k : MediaSlot) (band : Nat) (hp : m.ctx.part.val < b.parts.length) :
    (b.bandCounted m.ctx.part m slot k band).part m.ctx.part =
      { (b.part m.ctx.part).setMj (m.withSlot slot { k with bands := band + 1 }) with
        slots := (b.part m.ctx.part).slots.modify m.ctx.slot.val (·.event (b.mjDesc m).pevt) } := by
  refine (Body.part_updPart _ _ _ (Nat.lt_of_lt_of_eq hp (b.updPart_parts_length _ _).symm)).trans ?_
  rw [b.part_updPart _ _ hp]
  rfl

theorem Body.guards_bandCounted (b : Body) (p : Fin 8) (m : MjRun) (slot : Nat) (k : MediaSlot) (band : Nat) :
    (b.bandCounted p m slot k band).guards = b.guards :=
  (Body.guards_event _ _ _).trans (Body.guards_updPart fun _ => rfl)

section
variable {o : Own} {b : Body} {p : Fin 8} {c : Fin 32} {ae slot : Nat} (band : Nat)

theorem bandProgress_none (h : b.workingSlot p c ae slot = none) : bandProgress o b p c ae slot band = b := by
  unfold bandProgress
  rw [h]

variable {m : MjRun} {k : MediaSlot} (h : b.workingSlot p c ae slot = some (m, k))
include h

theorem bandProgress_waits (hw : b.slotWork o p m slot k = .waits) : bandProgress o b p c ae slot band = b := by
  unfold bandProgress
  rw [h]
  dsimp only
  rw [hw]

theorem bandProgress_unreadable {w : Nat} (hw : b.slotWork o p m slot k = .unreadable w) :
    bandProgress o b p c ae slot band = b.readBad o (.media p c ae) w := by
  unfold bandProgress
  rw [h]
  dsimp only
  rw [hw]

variable {out : SlotOut} (hw : b.slotWork o p m slot k = .made out)
include hw

/-- A frame that the clip does not give has no band. -/
theorem bandProgress_frameless (hf : (b.mjDesc m).bandFrame out band = none) : bandProgress o b p c ae slot band = b := by
  unfold Mj.bandFrame at hf
  unfold bandProgress
  rw [h]
  dsimp only
  rw [hw]
  dsimp only
  rw [hf]

theorem bandProgress_undue (hd : ¬ (b.mjDesc m).bandDue k band) : bandProgress o b p c ae slot band = b := by
  cases hf : (b.mjDesc m).bandFrame out band with
  | none => exact bandProgress_frameless band h hw hf
  | some f =>
    unfold Mj.bandFrame at hf
    unfold bandProgress
    rw [h]
    dsimp only
    rw [hw]
    dsimp only
    rw [hf]
    refine if_pos ?_
    by_contra hn
    refine hd ?_
    unfold Mj.bandDue
    simpa using hn

theorem bandProgress_due {f : VideoFrame} (hd : (b.mjDesc m).bandDue k band) (hf : (b.mjDesc m).bandFrame out band = some f) :
    bandProgress o b p c ae slot band =
      (b.bandCounted p m slot k band).mediaPut o m ((b.mjDesc m).bandWrites out slot band f) := by
  obtain ⟨hvideo, hnext, hlt⟩ := hd
  unfold Mj.bandFrame at hf
  unfold bandProgress
  rw [h]
  dsimp only
  rw [hw]
  dsimp only
  rw [hf]
  exact if_neg (by simp [hvideo, ← hnext, hlt])

end

/-! ### The command -/

theorem execVideoBandProgress_same {s : State} {p : Fin 8} {c : Fin 32} {ae slot band : Nat}
    (h : bandProgress s.own s.body p c ae slot band = s.body) : execVideoBandProgress p c ae slot band s = .next s := State.onBody_same h

section
variable {s : State} {p : Fin 8} {c : Fin 32} {ae slot band : Nat} {m : MjRun} {k : MediaSlot} (hcl : s.body.clocked = true)
  (h : s.body.workingSlot p c ae slot = some (m, k))
include hcl h

theorem execVideoBandProgress_unreadable {w : Nat} (hw : s.body.slotWork s.own p m slot k = .unreadable w) :
    execVideoBandProgress p c ae slot band s = .next { s with body := s.body.readBad s.own (.media p c ae) w } := by
  rw [← bandProgress_unreadable band h hw]
  exact State.onBody_clocked _ hcl

/-- The next band of a slot whose bytes the memories take: it is counted and stored, with its event, and nothing else in memory changes. -/
theorem execVideoBandProgress_due (hwhole : Claims.slotsWhole s) (hmp : m.ctx.part = p) {out : SlotOut}
    (hw : s.body.slotWork s.own p m slot k = .made out) {f : VideoFrame} (hd : (s.body.mjDesc m).bandDue k band)
    (hf : (s.body.mjDesc m).bandFrame out band = some f)
    (hu : Claims.unguarded s (.media p m.core m.idx) ((s.body.mjDesc m).bandWrites out slot band f)) :
    ∃ t, execVideoBandProgress p c ae slot band s = .next t ∧ Claims.quiet s t ∧ Claims.counts s t m.ctx (s.body.mjDesc m).pevt ∧
      Claims.stored s t ((s.body.mjDesc m).bandWrites out slot band f) ∧
      ∃ n ∈ (t.body.part p).mjs, n.same m = true ∧ (n.slots[slot]?).map (·.bands) = some (band + 1) := by
  subst hmp
  obtain ⟨hmj, hslot⟩ := Body.workingSlot_spec h
  let b := s.body.bandCounted m.ctx.part m slot k band
  obtain ⟨hput, hstored⟩ := Claims.stored_mediaPut (t := b) rfl (Body.guards_bandCounted ..) rfl (fun _ _ hn => hn) hu
  have hpart := (Body.part_of_memoryAlone hput m.ctx.part).trans (Body.part_bandCounted slot k band (Claims.part_lt hwhole _))
  refine ⟨_, State.onBody_clocked _ hcl, ?_⟩
  rw [bandProgress_due band h hw hd hf]
  refine ⟨Claims.quiet_of_inner (Body.inner_trans ?inner (Body.inner_of_memoryAlone hput)), Claims.counts_of_event ?event, hstored,
    m.withSlot slot { k with bands := band + 1 }, ?mj, MjRun.same_iff.mpr ⟨rfl, rfl, rfl⟩, ?slot⟩
  case inner => exact ⟨rfl, rfl, rfl, rfl, rfl, rfl⟩
  case event =>
    unfold Body.slot
    rw [hpart]
    exact getD_modify_self _ _ _ _ (Nat.lt_of_lt_of_eq m.ctx.slot.isLt (hwhole.2 _).symm)
  case mj =>
    rw [hpart]
    exact Part.mem_setMj ⟨m, hmj, MjRun.same_iff.mpr ⟨rfl, rfl, rfl⟩⟩
  case slot =>
    rw [MjRun.getElem?_withSlot _ hslot]
    rfl

end

end Sys2Proof.Machine

/-! PROOFS. Media jobs (O59). -/

namespace Sys2Proof.Machine

open Sys2Proof

/-- Settles O59, by the outcomes of each command: whether a MEDIA entry may be launched and is refused; whether an MJ may start, and is an
encode MJ or not; whether its slots are done; what becomes of a slot in work, and which end it comes to; whether a band is due. -/
theorem mediaJobs : Obligations.MediaJobs := by
  unfold Obligations.MediaJobs
  refine ⟨⟨?media, fun s p c ae _ h => ⟨execMjStart_same (mjStart_none h), execMjComplete_same (mjComplete_none h)⟩, ?mj⟩,
    ⟨fun s p c ae slot band _ h => ⟨slotRun_same (slotEnds_none false h), slotRun_same (slotEnds_none true h),
      execVideoBandProgress_same (bandProgress_none band h)⟩, ?slot⟩, ?band⟩
  case media =>
    intro s c x e hf hn j y g
    refine ⟨execMedia_full hf hn, fun st hm hw hu hr hevt hl => execMedia_refused hf hn hm hw hu hr hevt hl, fun hm hw hok => ?_⟩
    obtain ⟨t, hexec, hquiet, hmem, hcx, hpart⟩ := execMedia_queued hf hn hm hw hok
    refine ⟨t, hexec, hquiet, hmem, hcx,
      ⟨s.body.mediaRun x c e, ?queue, rfl, rfl, rfl, beq_iff_eq, Mj.pos_take_align, ?encode, ?decode⟩, ?tick, ?pos⟩
    case queue =>
      rw [hpart]
      exact congrArg (· ++ [s.body.mediaRun x c e]) (j.mjs_take (s.body.part x.part))
    case encode =>
      intro hu he
      exact ⟨if_pos he, congrArg (·.slots) (Mj.take_encode hu he)⟩
    case decode =>
      intro hu he
      exact Mj.pos_take_decode hu (by rw [he]; decide)
    case tick =>
      intro hu hj
      rw [hpart]
      exact Mj.tick_take hu hj
    case pos =>
      intro hu he hj
      rw [hpart]
      exact Mj.streamPos_take hu (by rw [he]; decide) hj
  case mj =>
    intro s p c ae m hcl hrun j may
    exact ⟨fun h => execMjStart_same (mjStart_not hrun h), fun h _ => execMjStart_starts hcl hrun h,
      fun h => execMjComplete_same (mjComplete_early hrun h), fun l hm hd hl hw => execMjComplete_done hcl hrun hm hd hl hw⟩
  case slot =>
    intro s p c ae slot m k hcl _ h hmp
    refine ⟨fun hw => ⟨slotRun_same (slotEnds_waits h false hw), slotRun_same (slotEnds_waits h true hw)⟩,
      fun w hw => ⟨slotRun_unreadable hcl h false hw, slotRun_unreadable hcl h true hw⟩, ?_⟩
    intro out hw j spent res r ws
    refine ⟨fun hs => slotRun_same (slotEnds_other h hw hs), fun hs => slotRun_same (slotEnds_other h hw hs), fun hu _ => ?_⟩
    rw [exec_slotRun]
    exact slotRun_ends hcl h hmp hw hu
  case band =>
    intro s p c ae slot band m k hcl hwhole h hmp
    refine ⟨fun hw => execVideoBandProgress_same (bandProgress_waits band h hw),
      fun w hw => execVideoBandProgress_unreadable hcl h hw, ?_⟩
    intro out hw j q may
    refine ⟨?undue, ?due⟩
    case undue =>
      rintro (hd | hf)
      · exact execVideoBandProgress_same (bandProgress_undue band h hw hd)
      · exact execVideoBandProgress_same (bandProgress_frameless band h hw hf)
    case due =>
      intro f hd hf _ cs ws hu
      exact execVideoBandProgress_due hcl h hwhole hmp hw hd hf hu

end Sys2Proof.Machine

/-! PROOFS. Writes of a core's entry on sound memory: what they store, and that nothing else changes (R18, R19, R119, R218). -/

namespace Sys2Proof.Machine

open Sys2Proof

/-! ### Which writes are refused -/

/-- A body with the same guarded slots and the same checks of the world map refuses the same requests of a requester. -/
theorem refusedIn_congr {o : Own} {b t : Body} {who : Requester} (hn : ∀ a n, netCheck o t who a n = netCheck o b who a n)
    (hg : t.guards = b.guards) (a n : Nat) : t.refusedIn o who a n = b.refusedIn o who a n := by
  have hwrite : ∀ a n, writeCheck o t who a n = writeCheck o b who a n := fun a n => by
    unfold writeCheck
    rw [hn, protectedHit_eq, protectedHit_eq, hg]
  unfold Body.refusedIn
  simp only [hwrite]

/-- The world map's check of an entry's request turns on the board and the almanac of its core alone (R176). -/
theorem netCheck_entry {o : Own} {b t : Body} (p : Fin 8) (c : Fin 32) (i a n : Nat) (hb : t.board = b.board)
    (hi : t.coreImage c = b.coreImage c) : netCheck o t (.entry p c i) a n = netCheck o b (.entry p c i) a n := by
  have hcave : t.caveEntry (.entry p c i) = b.caveEntry (.entry p c i) := by
    unfold Body.caveEntry
    dsimp only
    rw [hi]
  unfold netCheck Body.dramUp
  rw [hb, hcave]
  rfl

/-- What changes stacks and memory alone leaves every check. -/
theorem refusedIn_of_memoryAlone {o : Own} {b t : Body} (h : b.memoryAlone t) (who : Requester) (a n : Nat) :
    t.refusedIn o who a n = b.refusedIn o who a n := by
  refine refusedIn_congr (fun a n => ?_) (congrArg (List.map _) (Body.parts_of_memoryAlone h)) a n
  unfold Body.memoryAlone at h
  rw [h]
  rfl

/-! ### The bytes that writes leave -/

/-- The stores of some writes, in order. -/
def Body.stores (o : Own) (b : Body) (ws : List (Nat × List (Option Byte))) : Body := ws.foldl (fun b w => b.store o w.1 w.2) b

theorem Body.stores_cons (o : Own) (b : Body) (w : Nat × List (Option Byte)) (t : List (Nat × List (Option Byte))) :
    b.stores o (w :: t) = (b.store o w.1 w.2).stores o t := rfl

/-- Stores leave the bytes of their writes, in order. -/
theorem Body.byte_stores {o : Own} {b : Body} (ws : List (Nat × List (Option Byte))) (h : b.mem.sound = true) (x : Nat) :
    (b.stores o ws).mem.byte x = maskedAfter x (b.mem.byte x) ws := by
  induction ws generalizing b with
  | nil => rfl
  | cons w t ih =>
    rw [Body.stores_cons, ih (Body.sound_store _ _ h), Body.byte_store h]
    rfl

/-- A write that the memories take is a store, and leaves nothing to report. -/
theorem Body.putOne_admitted {o : Own} {who : Requester} {r : Body × Written} {w : Nat × List (Option Byte)} (hs : r.1.mem.sound = true)
    (hw : r.1.refusedIn o who w.1 w.2.length = none) : Body.putOne o who r w = (r.1.store o w.1 w.2, r.2) := by
  unfold Body.putOne
  simp [hw, Mem.lostWords_sound _ _ _ hs]

/-- Writes of which none is refused are stores, whoever makes them. -/
theorem Body.putOnes_admitted {o : Own} {who : Requester} (ws : List (Nat × List (Option Byte))) (r : Body × Written)
    (hs : r.1.mem.sound = true) (hw : ∀ w ∈ ws, r.1.refusedIn o who w.1 w.2.length = none) :
    ws.foldl (Body.putOne o who) r = (r.1.stores o ws, r.2) := by
  induction ws generalizing r with
  | nil => rfl
  | cons w t ih =>
    rw [List.foldl_cons, Body.putOne_admitted hs (hw w List.mem_cons_self), Body.stores_cons]
    refine ih (r.1.store o w.1 w.2, r.2) (Body.sound_store w.1 w.2 hs) fun u hu => ?_
    dsimp only
    rw [refusedIn_of_memoryAlone (Body.memoryAlone_store w.1 w.2 hs)]
    exact hw u (List.mem_cons_of_mem _ hu)

/-- Writes of an entry that the memories take in a state, made in a body with its memory, its checks and no other waiting requests:
they are stored, and change stacks and memory alone (R18, R19, R119, R218). -/
theorem Claims.stored_put {s : State} {t : Body} {x : CtxId} {c : Fin 32} {idx : Nat} {ws : List (Nat × List Byte)}
    (hb : t.board = s.body.board) (hi : t.coreImage c = s.body.coreImage c) (hg : t.guards = s.body.guards)
    (hm : t.mem = s.body.mem) (hk : t.stks = s.body.stks) (hu : Claims.unguarded s (entryOf x c idx) ws) :
    t.memoryAlone (t.put s.own x c idx (ws.map whole)) ∧
      Claims.stored s { s with body := t.put s.own x c idx (ws.map whole) } ws := by
  obtain ⟨hs, hfree⟩ := hu
  have hsound : t.mem.sound = true := hm.symm ▸ hs
  have hok : ∀ w ∈ joinWrites (ws.map whole), t.refusedIn s.own (entryOf x c idx) w.1 w.2.length = none := fun w h =>
    (refusedIn_congr (fun a n => netCheck_entry x.part c idx a n hb hi) hg _ _).trans (hfree w h).1
  have hord : t.ordered s.own ((joinWrites (ws.map whole)).map fun w => (w.1, w.2.length)) = t := by
    refine Body.ordered_clear fun r hr => ?_
    obtain ⟨w, hw, rfl⟩ := List.mem_map.mp hr
    unfold Body.noneWaits
    rw [hk]
    exact (hfree w hw).2
  have hall : t.putAll s.own (entryOf x c idx) (ws.map whole) = (t.stores s.own (joinWrites (ws.map whole)), ⟨none, none⟩) :=
    Body.putOnes_admitted _ (t, ⟨none, none⟩) hsound hok
  have hput : t.put s.own x c idx (ws.map whole) = t.stores s.own (joinWrites (ws.map whole)) := by
    unfold Body.put Body.putOrdered
    dsimp only
    rw [hord, hall]
  have halone := (putSpec_putAll (o := s.own) (entryOf x c idx) (ws.map whole) hsound).alone
  rw [hall] at halone
  rw [hput]
  refine ⟨halone, fun a => (Body.byte_stores _ hsound a).trans ?_⟩
  rw [maskedAfter_joinWrites, maskedAfter_whole, hm]

/-! ### Writes of the engines -/

/-- A write of whole bytes in sound memory. -/
theorem Mem.byte_write {m : Mem} (word a : Nat) (d : List Byte) (h : m.sound = true) (y : Nat) :
    (m.write word a d).byte y = Claims.after m [(a, d)] y :=
  (m.byte_writeMasked word a (d.map some) y (Mem.lostWords_sound _ _ _ h)).trans (maskedAfter_whole y m [(a, d)])

/-- A byte after the first of a list of writes and then the others. -/
theorem Claims.after_cons {m k : Mem} {w : Nat × List Byte} {a : Nat} (h : k.byte a = Claims.after m [w] a)
    (ws : List (Nat × List Byte)) : Claims.after m (w :: ws) a = Claims.after k ws a := by
  unfold Claims.after at *
  rw [h]
  rfl

/-- The results of a piece stand in the press, in their order, and no other byte changes (R77). -/
theorem Piece.byte_store (p : Piece) (core j : Nat) (rs : List ((Nat × Nat) × Acc)) {m : Mem} (h : m.sound = true) (a : Nat) :
    (p.store core j rs m).byte a =
      Claims.after m (rs.map fun q => (p.t.pressAddr core j q.1.1 q.1.2, p.t.pressBytes q.2.v)) a := by
  induction rs generalizing m with
  | nil => rfl
  | cons r t ih => exact (ih (Mem.sound_writeMasked _ _ _ h)).trans (Claims.after_cons (Mem.byte_write _ _ _ h a) _).symm

/-- In sound memory an entry's operands are read, and nothing is found (R170, R171). -/
theorem Body.operands_sound {o : Own} {b : Body} (x : CtxId) (c : Fin 32) (idx : Nat) (reads : List (Nat × Nat))
    (h : b.mem.sound = true) : b.operands o x c idx reads = (b, true) := by
  unfold Body.operands
  rw [Body.firstBad_sound reads h, Body.correctedIn_sound reads h]

end Sys2Proof.Machine

/-! PROOFS. The write-out queue of a core: what the completion of its entries leaves (R114, R126). -/

namespace Sys2Proof.Machine

open Sys2Proof

/-! ### A field of a core, and of an almanac slot -/

/-- What a change of a core leaves of it is left of every core. -/
theorem Body.field_updCore {α : Type} {b : Body} {g : Core → α} {f : Core → Core} (c d : Fin 32) (h : ∀ k, g (f k) = g k) :
    g ((b.updCore c f).core d) = g (b.core d) := by
  unfold Body.updCore Body.core
  simp only [List.getD_eq_getElem?_getD, List.getElem?_modify]
  split
  · cases b.cores[d.val]? with
    | none => rfl
    | some k => exact h k
  · simp

/-- What a change of an almanac slot leaves of it is left of every slot. -/
theorem Body.field_slot_updSlot {α : Type} {b : Body} {g : Slot → α} {f : Slot → Slot} (p q : Fin 8) (k j : Fin 4)
    (h : ∀ y, g (f y) = g y) : g ((b.updSlot p k f).slot q j) = g (b.slot q j) := by
  unfold Body.slot Body.updSlot
  rcases b.part_updPart_or p q fun x => { x with slots := x.slots.modify k.val f } with hq | ⟨-, hq⟩
  · rw [hq]
  · rw [hq]
    simp only [List.getD_eq_getElem?_getD, List.getElem?_modify]
    split
    · cases (b.part q).slots[j.val]? with
      | none => rfl
      | some y => exact h y
    · simp

theorem Slot.image_event (s : Slot) (e : Nat) : (s.event e).image = s.image := by
  unfold Slot.event
  split <;> rfl

/-! ### Entries that complete -/

/-- A core without what the completion of its entries changes: the launched ones and its write-out queue. -/
def Core.unqueued (k : Core) : Core := { k with cx := { k.cx with launched := [], outs := [] } }

/-- t is b when entries have completed: but for launched entries, write-out queues and events, nothing has changed. -/
structure Body.Retired (b t : Body) : Prop where
  alone  : t = { b with cores := t.cores, parts := t.parts }
  core   : ∀ c, (t.core c).unqueued = (b.core c).unqueued
  guards : t.guards = b.guards
  image  : ∀ p k, (t.slot p k).image = (b.slot p k).image

theorem Body.retired_refl (b : Body) : b.Retired b := ⟨rfl, fun _ => rfl, rfl, fun _ _ => rfl⟩

theorem Body.Retired.trans {b t u : Body} (h : b.Retired t) (k : t.Retired u) : b.Retired u := by
  refine ⟨k.alone.trans ?_, fun c => (k.core c).trans (h.core c), k.guards.trans h.guards, fun p j => (k.image p j).trans (h.image p j)⟩
  rw [h.alone]

section
variable {b t : Body} (h : b.Retired t)
include h

theorem Body.Retired.inner : b.inner t := by
  rw [h.alone]
  exact ⟨rfl, rfl, rfl, rfl, rfl, rfl⟩

theorem Body.Retired.mem : t.mem = b.mem := by rw [h.alone]

theorem Body.Retired.stks : t.stks = b.stks := by rw [h.alone]

/-- What the launched entries and the write-out queue do not show is as it was. -/
theorem Body.Retired.field {α : Type} {g : Core → α} (c : Fin 32) (hg : ∀ k, g k.unqueued = g k) : g (t.core c) = g (b.core c) := by
  rw [← hg (t.core c), h.core c, hg]

/-- The almanac of each core stands. -/
theorem Body.Retired.coreImage (c : Fin 32) : t.coreImage c = b.coreImage c := by
  unfold Body.coreImage
  rw [h.field (g := (·.ctx)) c fun _ => rfl]
  cases (b.core c).ctx with
  | none => rfl
  | some x => exact h.image _ _

end

/-- A change of a core's launched entries and write-out queue. -/
theorem Body.retired_updCx {b : Body} (c : Fin 32) {f : CoreCtx → CoreCtx}
    (h : ∀ k, { f k with launched := [], outs := [] } = { k with launched := [], outs := [] }) : b.Retired (b.updCx c f) :=
  ⟨rfl, fun d => Body.field_updCore c d fun k => congrArg (fun x => { k with cx := x }) (h k.cx), rfl, fun _ _ => rfl⟩

/-- An entry completes (R124, R126). -/
theorem Body.retired_complete (b : Body) (x : CtxId) (c : Fin 32) (idx : Nat) : b.Retired (b.complete x c idx) := by
  unfold Body.complete
  split
  · exact b.retired_refl
  · next l _ =>
    have hout : b.Retired (b.updCx c (·.withdraw idx)) := Body.retired_updCx c fun _ => rfl
    exact hout.trans ⟨rfl, fun _ => rfl, Body.guards_event _ _ _, fun p k =>
      Body.field_slot_updSlot x.part p x.slot k fun y => y.image_event l.evt.toNat⟩

/-- The markers at the head of a write-out queue leave it, and their entries complete (R126). -/
theorem Body.retired_drainOuts (x : CtxId) (c : Fin 32) (n : Nat) (b : Body) : b.Retired (drainOuts x c n b) := by
  induction n generalizing b with
  | zero => exact b.retired_refl
  | succ n ih =>
    unfold drainOuts
    split
    · next q rest _ =>
      split
      · exact b.retired_refl
      · have hout : b.Retired (b.updCx c fun k => { k with outs := rest }) := Body.retired_updCx c fun _ => rfl
        refine Body.Retired.trans ?_ (ih _)
        split
        · exact hout.trans (Body.retired_complete _ x c q.idx)
        · exact hout
    · exact b.retired_refl

end Sys2Proof.Machine

/-! PROOFS. TILE: when an entry is held, and what its launch leaves (R95, R114, R118, R121, R125). -/

namespace Sys2Proof.Machine

open Sys2Proof

/-! ### Changes of a core's context -/

/-- Two changes of a core's context are one. -/
theorem Body.updCx_updCx (b : Body) (c : Fin 32) (f g : CoreCtx → CoreCtx) :
    (b.updCx c f).updCx c g = b.updCx c fun k => g (f k) := by
  unfold Body.updCx Body.updCore
  rw [List.modify_modify_eq]
  rfl

/-- Changes of a core's context that agree on it are one. -/
theorem Body.updCx_congr {b : Body} {c : Fin 32} {f g : CoreCtx → CoreCtx} (h : f (b.core c).cx = g (b.core c).cx) :
    b.updCx c f = b.updCx c g := by
  unfold Body.updCx Body.updCore
  congr 1
  refine List.ext_getElem (by simp) fun i h1 h2 => ?_
  rw [List.getElem_modify, List.getElem_modify]
  split
  · next hi =>
    subst hi
    have hcore : b.cores[c.val]'(by simpa using h1) = b.core c := (List.getD_eq_getElem _ _ _).symm
    rw [hcore, h]
  · rfl

/-! ### When an entry is held -/

/-- A TILE entry is held: sixteen entries are out, a rind job of its core is outstanding, a tile is in the engines, or a write-out of its
press range is to come (R95, R114, R118, R125). -/
def Body.tileHeld (b : Body) (x : CtxId) (c : Fin 32) (t : Td) : Prop :=
  b.mayLaunch c = false ∨
    if t.rind then (b.quad (quadOf c)).rindOf c = true
    else (b.core c).cx.tile ≠ none ∨ (t.listed = false ∧ pressFree (b.imageOf x) (b.core c).cx c.val t 0 = false)

/-- The run of a matrix tile as its entry is launched. -/
def TileRun.launched (idx td : Nat) (slot : Option Nat) : TileRun :=
  match slot with
  | none => ⟨idx, td, false, 0, 0, 0, 0, 0, none, 0xFFFF, true⟩
  | some a => ⟨idx, td, true, a, 0, 0, 0, 0, none, 0, false⟩

/-- A matrix tile is in the engines as its entry is launched: its one piece runs, or its first list entry is read next (R118, R121). -/
def CoreCtx.launchTile (k : CoreCtx) (e : Ae) (slot : Option Nat) : CoreCtx :=
  { k.launch e with tile := some (TileRun.launched k.aeIdx.toNat e.ref slot) }

section
variable {o : Own} {b : Body} {c : Fin 32} {x : CtxId} {e : Ae} {t : Td}

theorem tileRind_held (h : (b.quad (quadOf c)).rindOf c = true) : tileRind b c x e = b := if_pos h

/-- A rind tile joins its quadrant's queue (R95). -/
theorem tileRind_queued (h : (b.quad (quadOf c)).rindOf c = false) : tileRind b c x e =
    (b.updCx c (·.launch e)).updQuad (quadOf c) fun q => { q with rindQ := q.rindQ ++ [QJob.new x c (b.core c).cx.aeIdx.toNat e 0] } :=
  if_neg (Bool.eq_false_iff.mp h)

theorem tileMatrix_busy (h : (b.core c).cx.tile ≠ none) : tileMatrix o b c x e t = b := if_pos (Option.isSome_iff_ne_none.mpr h)

variable (h : (b.core c).cx.tile = none)
include h

theorem tileMatrix_pressed (hl : t.listed = false) (hp : pressFree (b.imageOf x) (b.core c).cx c.val t 0 = false) :
    tileMatrix o b c x e t = b := by
  have hp' : pressFree (b.slot x.part x.slot).image (b.core c).cx c.val t 0 = false := hp
  unfold tileMatrix
  simp [h, hl, hp']

/-- Without a list, the one piece starts (R118). -/
theorem tileMatrix_piece (hl : t.listed = false) (hp : pressFree (b.imageOf x) (b.core c).cx c.val t 0 = true) (hs : b.mem.sound = true) :
    tileMatrix o b c x e t = b.updCx c (·.launchTile e none) := by
  have hp' : pressFree (b.slot x.part x.slot).image (b.core c).cx c.val t 0 = true := hp
  unfold tileMatrix
  simp only [h, hl, hp', Option.isSome_none, Bool.false_eq_true, if_false, Bool.not_true]
  have hread : ∀ (f : CoreCtx → CoreCtx) (i : Nat) (rs : List (Nat × Nat)), (b.updCx c f).operands o x c i rs = (b.updCx c f, true) :=
    fun f i rs => Body.operands_sound x c i rs hs
  rw [hread]
  dsimp only
  exact Body.updCx_congr rfl

variable {r : BtRec} (hl : t.listed = true) (hr : btFind (b.imageOf x) t.btList = some r)
include hl hr

/-- With a list, its first entry is read next (R121). -/
theorem tileMatrix_listed (he : ((b.slot x.part x.slot).bt t.btList).empty = false) : tileMatrix o b c x e t =
    b.updCx c (·.launchTile e (some (r.active ((b.slot x.part x.slot).bt t.btList)))) := by
  have hr' : btFind (b.slot x.part x.slot).image t.btList = some r := hr
  unfold tileMatrix
  simp only [h, hl, hr', he, Option.isSome_none, Bool.false_eq_true, if_false, if_true]
  rw [Body.updCx_updCx]
  exact Body.updCx_congr rfl

/-- Over a slot that counts as empty, the entry completes at once (R118). -/
theorem tileMatrix_empty (he : ((b.slot x.part x.slot).bt t.btList).empty = true) : tileMatrix o b c x e t = b.passed x c e := by
  have hr' : btFind (b.slot x.part x.slot).image t.btList = some r := hr
  unfold tileMatrix
  simp only [h, hl, hr', he, Option.isSome_none, Bool.false_eq_true, if_false, if_true]
  rfl

end

/-! ### The entry's effect -/

section
variable {o : Own} {b : Body} {c : Fin 32} {x : CtxId} {e : Ae} (hn : b.nextAe c kTile = some (x, e))
include hn

theorem tileIssue_full (h : b.mayLaunch c = false) : tileIssue o b c = b := by
  unfold tileIssue
  simp [hn, h]

theorem tileIssue_rind (hm : b.mayLaunch c = true) (h : (tdOf (b.imageOf x) e.ref).rind = true) : tileIssue o b c = tileRind b c x e := by
  unfold tileIssue
  simp [hn, hm, h]

theorem tileIssue_matrix (hm : b.mayLaunch c = true) (h : (tdOf (b.imageOf x) e.ref).rind = false) :
    tileIssue o b c = tileMatrix o b c x e (tdOf (b.imageOf x) e.ref) := by
  unfold tileIssue
  simp [hn, hm, h]

/-- A held entry stays where it is. -/
theorem tileIssue_held (h : b.tileHeld x c (tdOf (b.imageOf x) e.ref)) : tileIssue o b c = b := by
  cases hm : b.mayLaunch c with
  | false => exact tileIssue_full hn hm
  | true =>
    replace h := h.resolve_left (Bool.not_eq_false _ ▸ hm)
    cases hr : (tdOf (b.imageOf x) e.ref).rind with
    | true =>
      rw [if_pos hr] at h
      exact (tileIssue_rind hn hm hr).trans (tileRind_held h)
    | false =>
      rw [if_neg (Bool.eq_false_iff.mp hr)] at h
      refine (tileIssue_matrix hn hm hr).trans ?_
      by_cases ht : (b.core c).cx.tile = none
      · obtain ⟨hl, hp⟩ := h.resolve_left (not_not.mpr ht)
        exact tileMatrix_pressed ht hl hp
      · exact tileMatrix_busy ht

end

/-- What an entry that is not held finds free. -/
theorem Body.mayLaunch_of_not_tileHeld {b : Body} {x : CtxId} {c : Fin 32} {t : Td} (h : ¬ b.tileHeld x c t) : b.mayLaunch c = true :=
  Bool.eq_true_of_not_eq_false fun hm => h (Or.inl hm)

theorem Body.rindOf_of_not_tileHeld {b : Body} {x : CtxId} {c : Fin 32} {t : Td} (h : ¬ b.tileHeld x c t) (hr : t.rind = true) :
    (b.quad (quadOf c)).rindOf c = false :=
  Bool.eq_false_iff.mpr fun hq => h (Or.inr (by rwa [if_pos hr]))

theorem Body.tile_of_not_tileHeld {b : Body} {x : CtxId} {c : Fin 32} {t : Td} (h : ¬ b.tileHeld x c t) (hr : t.rind = false) :
    (b.core c).cx.tile = none ∧ (t.listed = false → pressFree (b.imageOf x) (b.core c).cx c.val t 0 = true) := by
  unfold Body.tileHeld at h
  rw [if_neg (Bool.eq_false_iff.mp hr)] at h
  obtain ⟨-, hfree⟩ := not_or.mp h
  simpa using hfree

/-! ### The almanac slot of an entry -/

/-- A slot whose invocation runs is one of the module's. -/
theorem Body.slot_lt_of_running {b : Body} {p : Fin 8} {k : Fin 4} (h : (b.slot p k).run = .running) :
    p.val < b.parts.length ∧ k.val < (b.part p).slots.length := by
  have hempty : b.slot p k ≠ Slot.empty := fun he => absurd (he ▸ h) (by decide)
  refine ⟨Nat.lt_of_not_le fun hp => hempty ?_, Nat.lt_of_not_le fun hk => hempty (List.getD_eq_default _ _ hk)⟩
  unfold Body.slot Body.part
  rw [List.getD_eq_default _ _ hp]
  exact List.getD_replicate _ k.isLt

theorem Body.running_of_nextAe {b : Body} {c : Fin 32} {kind : Nat} {x : CtxId} {e : Ae} (h : b.nextAe c kind = some (x, e)) :
    (b.slot x.part x.slot).run = .running := by
  unfold Body.nextAe at h
  split at h
  · cases h
  · dsimp only at h
    split at h
    · next hrun =>
      cases h
      obtain ⟨hr, -⟩ := hrun
      exact hr
    · cases h

/-! ### The command -/

section
variable {s : State} {c : Fin 32} (hf : Claims.fetched s c)
include hf

/-- An entry that leaves memory: its effect on a body, and beside it what its sequencer's reads count. -/
theorem execTile_issues {t : Body} (ht : tileIssue s.own s.body c = t) (hmem : t.mem = s.body.mem) :
    ∃ u, execTile c [] s = .next { s with body := u } ∧ t.readAlone u := by
  refine ⟨_, State.onBody_clocked _ hf.1, ?_⟩
  have h := Body.issuing_alone (f := fun b => tileIssue s.own b c) hf ((congrArg Body.mem ht).trans hmem)
  rwa [ht] at h

variable {x : CtxId} {e : Ae} (hn : s.body.nextAe c kTile = some (x, e))
include hn

theorem execTile_held (h : s.body.tileHeld x c (tdOf (s.body.imageOf x) e.ref)) : execTile c [] s = .next s :=
  State.onBody_same (Body.issuing_idle hf (tileIssue_held hn h))

/-- An entry that changes its core's context and goes: its effect, and what its sequencer's reads count. -/
theorem execTile_launches {f : CoreCtx → CoreCtx} (ht : tileIssue s.own s.body c = s.body.updCx c f)
    (hk : (f (s.body.core c).cx).aeIdx = (s.body.core c).cx.aeIdx + 1) :
    execTile c [] s = .next { s with body := (s.body.updCx c f).stewardRead s.own (s.body.fetchReads s.own c) } := by
  obtain ⟨hc, -⟩ := Body.core_of_nextAe hn
  have hne : ((s.body.updCx c f).core c).cx.aeIdx ≠ (s.body.core c).cx.aeIdx := by
    rw [s.body.core_updCx c f hc, hk]
    bv_omega
  have hissue : s.body.issuing s.own c (fun b => tileIssue s.own b c) =
      (s.body.updCx c f).stewardRead s.own (s.body.fetchReads s.own c) := by
    rw [Body.issuing_fetched hf, ht, if_neg hne]
  refine (State.onBody_clocked _ hf.1).trans ?_
  exact congrArg (fun b => Host.Outcome.next { s with body := b }) hissue

variable (hh : ¬ s.body.tileHeld x c (tdOf (s.body.imageOf x) e.ref))
include hh

/-- A rind tile joins its quadrant's queue, and memory is unchanged (R95). -/
theorem execTile_rind (hr : (tdOf (s.body.imageOf x) e.ref).rind = true) (hq : s.body.quads.length = 4) :
    ∃ t, execTile c [] s = .next t ∧ Claims.quiet s t ∧ t.body.mem = s.body.mem ∧
      (t.body.core c).cx = (s.body.core c).cx.launch e ∧
      (t.body.quad (quadOf c)).rindQ = (s.body.quad (quadOf c)).rindQ ++ [QJob.new x c (s.body.core c).cx.aeIdx.toNat e 0] := by
  obtain ⟨hc, -⟩ := Body.core_of_nextAe hn
  have hissue := (tileIssue_rind (o := s.own) hn (Body.mayLaunch_of_not_tileHeld hh) hr).trans
    (tileRind_queued (Body.rindOf_of_not_tileHeld hh hr))
  obtain ⟨u, hexec, hread⟩ := execTile_issues hf hissue rfl
  obtain ⟨hinner, hcores, -, hmem⟩ := Body.eqs_of_readAlone hread
  refine ⟨_, hexec, Claims.quiet_of_inner hinner, hmem, ?core, ?queue⟩
  case core =>
    unfold Body.core
    rw [hcores]
    exact congrArg (·.cx) (s.body.core_updCx c (·.launch e) hc)
  case queue =>
    have hlen : (quadOf c).val < (s.body.updCx c (·.launch e)).quads.length := Nat.lt_of_lt_of_eq (quadOf c).isLt hq.symm
    unfold Body.readAlone at hread
    rw [hread]
    exact congrArg (·.rindQ) (Body.quad_updQuad _ (quadOf c) _ hlen)

variable (hr : (tdOf (s.body.imageOf x) e.ref).rind = false)
include hr

/-- A matrix tile without a list begins its one piece (R114, R118). -/
theorem execTile_piece (hl : (tdOf (s.body.imageOf x) e.ref).listed = false) (hs : s.body.mem.sound = true) : execTile c [] s =
    .next { s with body := (s.body.updCx c (·.launchTile e none)).stewardRead s.own (s.body.fetchReads s.own c) } := by
  obtain ⟨htile, hpress⟩ := Body.tile_of_not_tileHeld hh hr
  exact execTile_launches hf hn ((tileIssue_matrix hn (Body.mayLaunch_of_not_tileHeld hh) hr).trans
    (tileMatrix_piece htile hl (hpress hl) hs)) rfl

variable {r : BtRec} (hl : (tdOf (s.body.imageOf x) e.ref).listed = true)
  (hb : btFind (s.body.imageOf x) (tdOf (s.body.imageOf x) e.ref).btList = some r)
include hl hb

/-- With a list, its first entry is read next (R121). -/
theorem execTile_listed (he : ((s.body.slot x.part x.slot).bt (tdOf (s.body.imageOf x) e.ref).btList).empty = false) : execTile c [] s =
    .next { s with body := (s.body.updCx c (·.launchTile e (some (r.active
      ((s.body.slot x.part x.slot).bt (tdOf (s.body.imageOf x) e.ref).btList))))).stewardRead s.own (s.body.fetchReads s.own c) } := by
  obtain ⟨htile, -⟩ := Body.tile_of_not_tileHeld hh hr
  exact execTile_launches hf hn ((tileIssue_matrix hn (Body.mayLaunch_of_not_tileHeld hh) hr).trans
    (tileMatrix_listed htile hl hb he)) rfl

/-- Over a slot that counts as empty the entry completes at once, its event counted (R118, R126). -/
theorem execTile_empty (he : ((s.body.slot x.part x.slot).bt (tdOf (s.body.imageOf x) e.ref).btList).empty = true) (hevt : e.evt < 256)
    (hi : ∀ l ∈ (s.body.core c).cx.launched, l.idx ≠ (s.body.core c).cx.aeIdx.toNat) :
    ∃ t, execTile c [] s = .next t ∧ Claims.quiet s t ∧ t.body.mem = s.body.mem ∧ Claims.counts s t x e.evt ∧
      (t.body.core c).cx.launched = (s.body.core c).cx.launched ∧ (t.body.core c).cx.tile = none := by
  obtain ⟨hc, -⟩ := Body.core_of_nextAe hn
  obtain ⟨htile, -⟩ := Body.tile_of_not_tileHeld hh hr
  obtain ⟨hp, hk⟩ := Body.slot_lt_of_running (Body.running_of_nextAe hn)
  have hissue := (tileIssue_matrix (o := s.own) hn (Body.mayLaunch_of_not_tileHeld hh) hr).trans (tileMatrix_empty htile hl hb he)
  obtain ⟨u, hexec, hread⟩ := execTile_issues hf hissue (Body.mem_passed x hc hi hevt)
  obtain ⟨hinner, hcores, hparts, hmem⟩ := Body.eqs_of_readAlone hread
  have hpassed : s.body.inner (s.body.passed x c e) := by
    rw [Body.passed_eq x hc hi hevt]
    exact ⟨rfl, rfl, rfl, rfl, rfl, rfl⟩
  have hcore : u.core c = { s.body.core c with cx := { (s.body.core c).cx.launch e with launched := (s.body.core c).cx.launched } } :=
    (congrArg (·.getD c.val (Core.reset c.val)) hcores).trans (Body.core_passed x hc hi hevt)
  refine ⟨_, hexec, Claims.quiet_of_inner (Body.inner_trans hpassed hinner), hmem.trans (Body.mem_passed x hc hi hevt),
    Claims.counts_of_event ?event, congrArg (·.cx.launched) hcore, ?tile⟩
  case event =>
    have hpart : u.part x.part = { s.body.part x.part with slots := (s.body.part x.part).slots.modify x.slot.val (·.event e.evt) } :=
      (congrArg (·.getD x.part.val Part.reset) hparts).trans (Body.part_passed x hc hi hevt hp)
    unfold Body.slot
    rw [hpart]
    exact getD_modify_self _ _ _ _ hk
  case tile => exact (congrArg (·.cx.tile) hcore).trans htile

end

end Sys2Proof.Machine

/-! PROOFS. The end of a piece: what is left when its write-out joins the queue and its entry goes on (R114, R121, R126). -/

namespace Sys2Proof.Machine

open Sys2Proof

/-- A core that holds a context is one of the module's. -/
theorem Body.core_lt_of_holds {b : Body} {c : Fin 32} {x : CtxId} (h : b.holds c = some x) : c.val < b.cores.length := by
  refine Nat.lt_of_not_le fun hle => ?_
  have hclk : (b.core c).clk = 0 := by
    unfold Body.core
    rw [List.getD_eq_default _ _ hle]
    rfl
  unfold Body.holds at h
  simp [hclk] at h

/-- The tile in the engines after its piece: none where the entry ends with it, else the same entry at its next list entry (R121). -/
def TileRun.afterPiece (r : TileRun) : Option TileRun :=
  if r.listed = false ∨ r.next = 0xFFFF then none else some { r with j := r.j + 1, cur := r.next, running := false }

/-- The end of a piece: the tile goes on or leaves the engines, and, but for entries that complete, nothing else changes. -/
theorem Body.retired_pieceDone (b : Body) (x : CtxId) (c : Fin 32) (r : TileRun) (writes : Bool) :
    (b.updCx c fun k => { k with tile := r.afterPiece }).Retired (b.pieceDone x c r writes) := by
  have hlast : (if (!r.listed || r.next == 0xFFFF) = true then none else some { r with j := r.j + 1, cur := r.next, running := false }) =
      r.afterPiece := if_congr (by simp) rfl rfl
  have hqueue : (b.updCx c fun k => { k with
      outs := k.outs ++ [⟨r.idx, r.td, r.j, r.obase, r.len, writes, !r.listed || r.next == 0xFFFF⟩], tile := r.afterPiece }) =
        (b.updCx c fun k => { k with tile := r.afterPiece }).updCx c fun k => { k with
          outs := k.outs ++ [⟨r.idx, r.td, r.j, r.obase, r.len, writes, !r.listed || r.next == 0xFFFF⟩] } := by
    rw [Body.updCx_updCx]
  unfold Body.pieceDone
  dsimp only
  rw [hlast, hqueue]
  have hout : ∀ (b : Body) (l : List TileOut), b.Retired (b.updCx c fun k => { k with outs := k.outs ++ l }) :=
    fun b l => Body.retired_updCx c fun _ => rfl
  exact (hout _ _).trans (Body.retired_drainOuts x c _ _)

section
variable {b : Body} {c : Fin 32} (x : CtxId) (r : TileRun) (writes : Bool)

theorem Body.inner_pieceDone : b.inner (b.pieceDone x c r writes) :=
  Body.inner_trans ⟨rfl, rfl, rfl, rfl, rfl, rfl⟩ (b.retired_pieceDone x c r writes).inner

theorem Body.mem_pieceDone : (b.pieceDone x c r writes).mem = b.mem := (b.retired_pieceDone x c r writes).mem

variable (hc : c.val < b.cores.length)
include hc

/-- What the tile in the engines, launched entries and the write-out queue do not show of the core is as it was. -/
theorem Body.field_pieceDone {α : Type} {g : Core → α} (hg : ∀ k, g k.unqueued = g k)
    (ht : ∀ (k : Core) (t : Option TileRun), g { k with cx := { k.cx with tile := t } } = g k) :
    g ((b.pieceDone x c r writes).core c) = g (b.core c) := by
  rw [(b.retired_pieceDone x c r writes).field c hg, b.core_updCx c _ hc, ht]

theorem Body.tile_pieceDone : ((b.pieceDone x c r writes).core c).cx.tile = r.afterPiece := by
  rw [(b.retired_pieceDone x c r writes).field (g := (·.cx.tile)) c fun _ => rfl, b.core_updCx c _ hc]

end

end Sys2Proof.Machine

/-! PROOFS. LIST_TILE_PIECE: which list entry is read, and what its piece or its leap leaves (R114, R121 to R123, R135). -/

namespace Sys2Proof.Machine

open Sys2Proof

/-- A tile's next list entry may be read: the tile is over a batch table, no piece of it runs, and its invocation and core run. -/
def Body.pieceDue (b : Body) (x : CtxId) (c : Fin 32) (r : TileRun) : Prop :=
  r.listed = true ∧ r.running = false ∧ (b.slot x.part x.slot).run = .running ∧ (b.core c).cx.seq = .running

/-- The run of a tile at the list entry that it has read (R115, R121). -/
def TileRun.atEntry (r : TileRun) (e : BtEntry) (running : Bool) : TileRun :=
  { r with base := e.base, obase := e.obase, len := some e.len, next := e.next, running := running }

/-- A leapt entry's effect before the next is read: it is counted, and a K leap with ACC = 0 clears its press range (R122, R135). -/
def Body.leapt (b : Body) (c : Fin 32) (t : Td) (j : Nat) : Body :=
  if t.ragDim = 3 ∧ t.acc = false then
    (b.updCore c (·.countTile true)).updMem fun m => m.zero (t.pressRange c.val j).1 (t.pressRange c.val j).2
  else b.updCore c (·.countTile true)

theorem Body.leap_eq (b : Body) (x : CtxId) (c : Fin 32) (t : Td) (r : TileRun) :
    b.leap x c t r = (b.leapt c t r.j).pieceDone x c r (t.ragDim == 3 && t.fmtO != 0) := by
  unfold Body.leap Body.leapt
  simp only [Bool.not_eq_true']

section
variable (b : Body) (c : Fin 32) (t : Td) (j : Nat)

theorem Body.inner_leapt : b.inner (b.leapt c t j) := by
  unfold Body.leapt
  split <;> exact ⟨rfl, rfl, rfl, rfl, rfl, rfl⟩

theorem Body.cores_leapt : (b.leapt c t j).cores = (b.updCore c (·.countTile true)).cores := by
  unfold Body.leapt
  split <;> rfl

/-- A K leap with ACC = 0 leaves zeros in the press range, and no leap changes another byte (R122). -/
theorem Body.byte_leapt (a : Nat) : (b.leapt c t j).mem.byte a =
    if (t.ragDim = 3 ∧ t.acc = false) ∧
      (t.pressRange c.val j).1 ≤ a ∧ a < (t.pressRange c.val j).1 + (t.pressRange c.val j).2 then 0
    else b.mem.byte a := by
  unfold Body.leapt
  by_cases h : t.ragDim = 3 ∧ t.acc = false
  · rw [if_pos h]
    exact (Mem.byte_zero _ _ _ a).trans (if_congr (and_iff_right h).symm rfl rfl)
  · rw [if_neg h, if_neg fun hk => h hk.1]
    rfl

end

section
variable {o : Own} {b : Body} {c : Fin 32}

theorem listPiece_none (h : b.holds c = none ∨ (b.core c).cx.tile = none) : listPiece o b c = b := by
  unfold listPiece
  split
  · next hx hr => rw [hx, hr] at h; simp at h
  · rfl

variable {x : CtxId} {r : TileRun} (hx : b.holds c = some x) (hr : (b.core c).cx.tile = some r)
include hx hr

theorem listPiece_undue (h : ¬ b.pieceDue x c r) : listPiece o b c = b := by
  unfold listPiece
  rw [hx, hr]
  refine if_pos (by_contra fun hno => h ?_)
  simpa [Body.pieceDue, and_left_comm, and_assoc] using hno

variable (h : b.pieceDue x c r) (hs : b.mem.sound = true)
include h hs

/-- The list entry is read: its tile waits for its press range, is leapt, or runs (R114, R121, R122). -/
theorem listPiece_due : listPiece o b c =
    let t := tdOf (b.imageOf x) r.td
    let e := btEntryAt b.mem r.slot r.cur
    if pressFree (b.imageOf x) (b.core c).cx c.val t r.j = false then b
    else if t.ragDim ≠ 0 ∧ e.len ≤ t.ragOfs then b.leap x c t (r.atEntry e false)
    else (b.updCore c (·.countTile false)).updCx c fun k => { k with tile := some (r.atEntry e true) } := by
  obtain ⟨hlisted, hrunning, hrun, hseq⟩ := h
  have hread : ∀ (f : Core → Core) (g : CoreCtx → CoreCtx) (i : Nat) (rs : List (Nat × Nat)),
      ((b.updCore c f).updCx c g).operands o x c i rs = ((b.updCore c f).updCx c g, true) := fun f g i rs => Body.operands_sound x c i rs hs
  unfold listPiece
  rw [hx, hr]
  dsimp only
  rw [if_neg (by simp [hlisted, hrunning, hrun, hseq]), Body.firstBad_sound _ hs]
  dsimp only
  rw [Body.correctedIn_sound _ hs]
  simp only [hread, Bool.not_eq_true']
  rfl

theorem listPiece_pressed (hp : pressFree (b.imageOf x) (b.core c).cx c.val (tdOf (b.imageOf x) r.td) r.j = false) :
    listPiece o b c = b := (listPiece_due hx hr h hs).trans (if_pos hp)

variable (hp : pressFree (b.imageOf x) (b.core c).cx c.val (tdOf (b.imageOf x) r.td) r.j = true)
include hp

theorem listPiece_runs (he : (tdOf (b.imageOf x) r.td).ragDim = 0 ∨
    (tdOf (b.imageOf x) r.td).ragOfs < (btEntryAt b.mem r.slot r.cur).len) : listPiece o b c =
      (b.updCore c (·.countTile false)).updCx c fun k => { k with tile := some (r.atEntry (btEntryAt b.mem r.slot r.cur) true) } := by
  refine (listPiece_due hx hr h hs).trans ?_
  dsimp only
  rw [if_neg (by simp [hp]), if_neg (by omega)]

theorem listPiece_leaps (hd : (tdOf (b.imageOf x) r.td).ragDim ≠ 0)
    (he : (btEntryAt b.mem r.slot r.cur).len ≤ (tdOf (b.imageOf x) r.td).ragOfs) :
    listPiece o b c = b.leap x c (tdOf (b.imageOf x) r.td) (r.atEntry (btEntryAt b.mem r.slot r.cur) false) := by
  refine (listPiece_due hx hr h hs).trans ?_
  dsimp only
  rw [if_neg (by simp [hp]), if_pos ⟨hd, he⟩]

end

/-! ### The command -/

theorem execListTilePiece_same {s : State} {c : Fin 32} (h : listPiece s.own s.body c = s.body) : execListTilePiece c s = .next s :=
  State.onBody_same h

section
variable {s : State} {c : Fin 32} {x : CtxId} {r : TileRun} (hcl : s.body.clocked = true) (hx : s.body.holds c = some x)
  (hr : (s.body.core c).cx.tile = some r) (h : s.body.pieceDue x c r) (hs : s.body.mem.sound = true)
  (hp : pressFree (s.body.imageOf x) (s.body.core c).cx c.val (tdOf (s.body.imageOf x) r.td) r.j = true)
include hcl hx hr h hs hp

/-- A piece within the ragged extent runs, and is counted in SEQ_RUN (R121, R122, R135). -/
theorem execListTilePiece_runs (he : (tdOf (s.body.imageOf x) r.td).ragDim = 0 ∨
    (tdOf (s.body.imageOf x) r.td).ragOfs < (btEntryAt s.body.mem r.slot r.cur).len) :
    ∃ t, execListTilePiece c s = .next t ∧ Claims.quiet s t ∧ t.body.mem = s.body.mem ∧ t.body.parts = s.body.parts ∧
      (t.body.core c).run = satAdd (s.body.core c).run 1 ∧ (t.body.core c).leap = (s.body.core c).leap ∧
      (t.body.core c).cx.tile = some (r.atEntry (btEntryAt s.body.mem r.slot r.cur) true) := by
  have hc := Body.core_lt_of_holds hx
  refine ⟨_, State.onBody_clocked _ hcl, ?_⟩
  rw [listPiece_runs hx hr h hs hp he]
  have hcore := ((s.body.updCore c (·.countTile false)).core_updCx c
    (fun k => { k with tile := some (r.atEntry (btEntryAt s.body.mem r.slot r.cur) true) })
    (Nat.lt_of_lt_of_eq hc (s.body.updCore_cores_length c _).symm))
  rw [s.body.core_updCore c _ hc] at hcore
  exact ⟨Claims.quiet_of_inner ⟨rfl, rfl, rfl, rfl, rfl, rfl⟩, rfl, rfl, congrArg (·.run) hcore, congrArg (·.leap) hcore,
    congrArg (·.cx.tile) hcore⟩

/-- Another is leapt, and counted in SEQ_LEAP: memory is unchanged but for the press range that a K leap with ACC = 0 clears (R122,
R135). -/
theorem execListTilePiece_leaps (hd : (tdOf (s.body.imageOf x) r.td).ragDim ≠ 0)
    (he : (btEntryAt s.body.mem r.slot r.cur).len ≤ (tdOf (s.body.imageOf x) r.td).ragOfs) :
    ∃ t, execListTilePiece c s = .next t ∧ Claims.quiet s t ∧ (t.body.core c).leap = satAdd (s.body.core c).leap 1 ∧
      (t.body.core c).run = (s.body.core c).run ∧ ∀ a, t.body.mem.byte a =
        if ((tdOf (s.body.imageOf x) r.td).ragDim = 3 ∧ (tdOf (s.body.imageOf x) r.td).acc = false) ∧
          ((tdOf (s.body.imageOf x) r.td).pressRange c.val r.j).1 ≤ a ∧
          a < ((tdOf (s.body.imageOf x) r.td).pressRange c.val r.j).1 + ((tdOf (s.body.imageOf x) r.td).pressRange c.val r.j).2 then 0
        else s.body.mem.byte a := by
  have hc := Body.core_lt_of_holds hx
  refine ⟨_, State.onBody_clocked _ hcl, ?_⟩
  rw [listPiece_leaps hx hr h hs hp hd he, Body.leap_eq]
  generalize tdOf (s.body.imageOf x) r.td = t
  have hcores := s.body.cores_leapt c t r.j
  have hcore : (s.body.leapt c t r.j).core c = (s.body.core c).countTile true :=
    (congrArg (·.getD c.val (Core.reset c.val)) hcores).trans (s.body.core_updCore c _ hc)
  have hlen : c.val < (s.body.leapt c t r.j).cores.length := by
    rw [hcores]
    exact Nat.lt_of_lt_of_eq hc (s.body.updCore_cores_length c _).symm
  refine ⟨Claims.quiet_of_inner (Body.inner_trans (s.body.inner_leapt c t r.j) (Body.inner_pieceDone _ _ _)), ?leap, ?run,
    fun a => ?byte⟩
  case leap => exact (Body.field_pieceDone _ _ _ hlen (g := (·.leap)) (fun _ => rfl) fun _ _ => rfl).trans (congrArg (·.leap) hcore)
  case run => exact (Body.field_pieceDone _ _ _ hlen (g := (·.run)) (fun _ => rfl) fun _ _ => rfl).trans (congrArg (·.run) hcore)
  case byte => exact (congrArg (·.byte a) (Body.mem_pieceDone _ _ _)).trans (s.body.byte_leapt c t r.j a)

end

end Sys2Proof.Machine

/-! PROOFS. TILE_COMPLETE: what the last step of a piece leaves (R44, R54, R77, R109, R123, R131). -/

namespace Sys2Proof.Machine

open Sys2Proof

/-! ### Overflows of the press -/

section
variable (k : Core) (idx ovf nfIn : Nat)

theorem Core.aovf_pressOverflow : (k.pressOverflow idx ovf nfIn).cx.aovf = (k.cx.aovf || decide (ovf ≠ 0)) := by
  unfold Core.pressOverflow
  split
  · next h => simp [h, Core.count]
  · next h => simp [h]

/-- The first overflow of a context is recorded with its entry (R44, R131). -/
theorem Core.aovfAe_pressOverflow (h : k.cx.aovf = false) (ho : ovf ≠ 0) :
    (k.pressOverflow idx ovf nfIn).cx.aovfAe = BitVec.ofNat 16 idx := by
  unfold Core.pressOverflow
  rw [if_neg ho]
  exact if_neg (Bool.eq_false_iff.mp h)

theorem Core.nfOut_pressOverflow : (k.pressOverflow idx ovf nfIn).nfOut = satAdd k.nfOut ovf := by
  unfold Core.pressOverflow
  split <;> rfl

end

/-! ### A piece that ends -/

/-- The press elements that a piece leaves, as writes (R77). -/
def Piece.writes (p : Piece) (core j : Nat) : List (Nat × List Byte) :=
  (p.results core j).map fun q => (p.t.pressAddr core j q.1.1 q.1.2, p.t.pressBytes q.2.v)

/-- The overflows of a piece. -/
def Piece.overflows (p : Piece) (core j : Nat) : Nat := ((p.results core j).map fun q => q.2.ovf).sum

/-- The body when a piece's results are in the press, and its overflows are counted. -/
def Body.pieceStored (b : Body) (p : Piece) (c : Fin 32) (r : TileRun) : Body :=
  (b.updMem (p.store c.val r.j (p.results c.val r.j))).updCore c fun k =>
    k.pressOverflow r.idx (p.overflows c.val r.j) (((p.results c.val r.j).map fun q => q.2.nfIn).sum)

section
variable (b : Body) (p : Piece) (c : Fin 32) (r : TileRun)

theorem Body.inner_pieceStored : b.inner (b.pieceStored p c r) := ⟨rfl, rfl, rfl, rfl, rfl, rfl⟩

theorem Body.cores_length_pieceStored : (b.pieceStored p c r).cores.length = b.cores.length := Body.updCore_cores_length _ c _

theorem Body.byte_pieceStored (hs : b.mem.sound = true) (a : Nat) :
    (b.pieceStored p c r).mem.byte a = Claims.after b.mem (p.writes c.val r.j) a := p.byte_store c.val r.j (p.results c.val r.j) hs a

theorem Body.core_pieceStored (hc : c.val < b.cores.length) : (b.pieceStored p c r).core c =
    (b.core c).pressOverflow r.idx (p.overflows c.val r.j) (((p.results c.val r.j).map fun q => q.2.nfIn).sum) :=
  Body.core_updCore _ c _ hc

end

section
variable {o : Own} {b : Body} {c : Fin 32}

theorem tileComplete_idle (h : b.holds c = none ∨ ∀ r, (b.core c).cx.tile = some r → r.running = false) : tileComplete o b c = b := by
  unfold tileComplete
  split
  · next hx hr =>
    have hrun := h.resolve_left (by simp [hx]) _ hr
    exact if_pos (by simp [hrun])
  · rfl

theorem tileComplete_ends {x : CtxId} {r : TileRun} (hx : b.holds c = some x) (hr : (b.core c).cx.tile = some r)
    (hrun : r.running = true) (hs : b.mem.sound = true) : tileComplete o b c =
      (b.pieceStored ((b.slot x.part x.slot).piece b.mem r) c r).pieceDone x c r (((b.slot x.part x.slot).piece b.mem r).t.fmtO != 0) := by
  unfold tileComplete
  rw [hx, hr]
  dsimp only
  rw [if_neg (by simp [hrun]), Body.operands_sound _ _ _ _ hs]
  rfl

end

/-! ### The command -/

theorem execTileComplete_same {s : State} {c : Fin 32} (h : tileComplete s.own s.body c = s.body) : execTileComplete c s = .next s :=
  State.onBody_same h

/-- A piece's last step: its results are in the press, overflows are counted and the first recorded, and its tile goes on (R44, R54, R77,
R109, R123, R131). -/
theorem execTileComplete_ends {s : State} {c : Fin 32} {x : CtxId} {r : TileRun} (hcl : s.body.clocked = true)
    (hx : s.body.holds c = some x) (hr : (s.body.core c).cx.tile = some r) (hrun : r.running = true) (hs : s.body.mem.sound = true) :
    ∃ t, execTileComplete c s = .next t ∧ Claims.quiet s t ∧
      Claims.stored s t (((s.body.slot x.part x.slot).piece s.body.mem r).writes c.val r.j) ∧
      (t.body.core c).cx.aovf =
        ((s.body.core c).cx.aovf || decide (((s.body.slot x.part x.slot).piece s.body.mem r).overflows c.val r.j ≠ 0)) ∧
      ((s.body.core c).cx.aovf = false → ((s.body.slot x.part x.slot).piece s.body.mem r).overflows c.val r.j ≠ 0 →
        (t.body.core c).cx.aovfAe = BitVec.ofNat 16 r.idx) ∧
      (t.body.core c).nfOut = satAdd (s.body.core c).nfOut (((s.body.slot x.part x.slot).piece s.body.mem r).overflows c.val r.j) ∧
      (t.body.core c).cx.tile = r.afterPiece := by
  refine ⟨_, State.onBody_clocked _ hcl, ?_⟩
  rw [tileComplete_ends hx hr hrun hs]
  generalize (s.body.slot x.part x.slot).piece s.body.mem r = p
  have hc := Body.core_lt_of_holds hx
  have hlen := Nat.lt_of_lt_of_eq hc (s.body.cores_length_pieceStored p c r).symm
  have hcore := s.body.core_pieceStored p c r hc
  have hbyte := s.body.byte_pieceStored p c r hs
  have hinner := s.body.inner_pieceStored p c r
  generalize s.body.pieceStored p c r = b at hlen hcore hbyte hinner ⊢
  refine ⟨Claims.quiet_of_inner (Body.inner_trans hinner (Body.inner_pieceDone x r _)), fun a => ?stored, ?aovf,
    fun ha ho => ?aovfAe, ?nfOut, Body.tile_pieceDone x r _ hlen⟩
  case stored =>
    rw [Body.mem_pieceDone]
    exact hbyte a
  case aovf =>
    rw [Body.field_pieceDone x r _ hlen (g := (·.cx.aovf)) (fun _ => rfl) fun _ _ => rfl, hcore, Core.aovf_pressOverflow]
  case aovfAe =>
    rw [Body.field_pieceDone x r _ hlen (g := (·.cx.aovfAe)) (fun _ => rfl) fun _ _ => rfl, hcore,
      Core.aovfAe_pressOverflow _ _ _ _ ha ho]
  case nfOut =>
    rw [Body.field_pieceDone x r _ hlen (g := (·.nfOut)) (fun _ => rfl) fun _ _ => rfl, hcore, Core.nfOut_pressOverflow]

end Sys2Proof.Machine

/-! PROOFS. WRITE_OUT_COMPLETE: what the end of a write-out leaves (R52, R54, R114, R126). -/

namespace Sys2Proof.Machine

open Sys2Proof

/-- A body when the values of a write-out are counted and observed (R54, R148). -/
def Body.outCounted (b : Body) (c : Fin 32) (q : TileOut) (t : Td) (vals : List (List (List Byte × ConvEv))) : Body :=
  (b.updCore c fun k => k.countEvs (vals.flatMap fun row => row.map (·.2))).observe c ((b.core c).cx.setting q.idx)
    (vals.flatMap fun row => row.map fun v => widen t.fmtO v.1)

/-- A body when a write-out has left its core's queue, its entry completes where it was the last, and markers behind it leave the queue
(R114, R126). -/
def Body.outRetired (b : Body) (x : CtxId) (c : Fin 32) (q : TileOut) (rest : List TileOut) : Body :=
  drainOuts x c rest.length
    (if q.last then (b.updCx c fun k => { k with outs := rest }).complete x c q.idx
      else b.updCx c fun k => { k with outs := rest })

theorem Body.retired_outRetired (b : Body) (x : CtxId) (c : Fin 32) (q : TileOut) (rest : List TileOut) :
    b.Retired (b.outRetired x c q rest) := by
  have hout : b.Retired (b.updCx c fun k => { k with outs := rest }) := Body.retired_updCx c fun _ => rfl
  refine Body.Retired.trans ?_ (Body.retired_drainOuts x c _ _)
  split
  · exact hout.trans (Body.retired_complete _ x c q.idx)
  · exact hout

/-- The events of rows of values, counted. -/
theorem countP_rows {α β : Type} (p : β → Bool) (f : α → β) (rows : List (List α)) :
    (rows.flatMap fun row => row.map f).countP p = rows.flatten.countP fun v => p (f v) := by
  rw [List.flatMap_def, ← List.map_flatten, List.countP_map]
  rfl

/-- What a core's context does not show of the core after them is what counting their events leaves (R54). -/
theorem Body.field_outCounted {α : Type} {g : Core → α} {b : Body} {c : Fin 32} (q : TileOut) (t : Td)
    (vals : List (List (List Byte × ConvEv))) (hc : c.val < b.cores.length)
    (hg : ∀ (k : Core) (y : CoreCtx), g { k with cx := y } = g k) :
    g ((b.outCounted c q t vals).core c) = g ((b.core c).count (vals.flatten.countP (·.2.sat)) (vals.flatten.countP (·.2.nfIn))
      (vals.flatten.countP (·.2.nfOut))) := by
  unfold Body.outCounted Body.observe
  rw [Body.core_updCx _ c _ (Nat.lt_of_lt_of_eq hc (b.updCore_cores_length c _).symm), hg, b.core_updCore c _ hc]
  unfold Core.countEvs
  simp only [countP_rows]

section
variable {o : Own} {b : Body} {c : Fin 32}

theorem writeOut_idle (h : b.holds c = none ∨ (b.core c).cx.outs = []) : writeOut o b c = b := by
  unfold writeOut
  split
  · next hx hq => rw [hx, hq] at h; simp at h
  · rfl

theorem writeOut_ends {x : CtxId} {q : TileOut} {rest : List TileOut} (hx : b.holds c = some x) (hq : (b.core c).cx.outs = q :: rest)
    (hs : b.mem.sound = true) : writeOut o b c =
      let t := tdOf (b.imageOf x) q.td
      let vals := t.outVals b.mem c.val q.j (t.extents q.len)
      ((b.outCounted c q t vals).outRetired x c q rest).put o x c q.idx
        ((t.outWrites c.val q.j q.obase (t.extents q.len) vals).map whole) := by
  unfold writeOut
  rw [hx, hq]
  dsimp only
  rw [Body.operands_sound _ _ _ _ hs]
  rfl

end

/-! ### The command -/

theorem execWriteOutComplete_same {s : State} {c : Fin 32} (h : writeOut s.own s.body c = s.body) : execWriteOutComplete c s = .next s :=
  State.onBody_same h

/-- The end of a write-out: its rows and its flag bitmap are in memory, and its conversions are counted (R52, R54, R114). -/
theorem execWriteOutComplete_ends {s : State} {c : Fin 32} {x : CtxId} {q : TileOut} {rest : List TileOut} {t : Td}
    {vals : List (List (List Byte × ConvEv))} (hcl : s.body.clocked = true) (hx : s.body.holds c = some x)
    (hq : (s.body.core c).cx.outs = q :: rest) (ht : tdOf (s.body.imageOf x) q.td = t)
    (hv : t.outVals s.body.mem c.val q.j (t.extents q.len) = vals)
    (hu : Claims.unguarded s (entryOf x c q.idx) (t.outWrites c.val q.j q.obase (t.extents q.len) vals)) :
    ∃ u, execWriteOutComplete c s = .next u ∧ Claims.quiet s u ∧
      Claims.stored s u (t.outWrites c.val q.j q.obase (t.extents q.len) vals) ∧
      (u.body.core c).sat = satAdd (s.body.core c).sat (vals.flatten.countP (·.2.sat)) ∧
      (u.body.core c).nfIn = satAdd (s.body.core c).nfIn (vals.flatten.countP (·.2.nfIn)) ∧
      (u.body.core c).nfOut = satAdd (s.body.core c).nfOut (vals.flatten.countP (·.2.nfOut)) := by
  have hc := Body.core_lt_of_holds hx
  obtain ⟨hs, -⟩ := id hu
  refine ⟨_, State.onBody_clocked _ hcl, ?_⟩
  rw [writeOut_ends hx hq hs]
  dsimp only
  rw [ht, hv]
  let d := s.body.outCounted c q t vals
  have hret := d.retired_outRetired x c q rest
  have himage : d.coreImage c = s.body.coreImage c := by
    have hctx : (d.core c).ctx = (s.body.core c).ctx := Body.field_outCounted (g := (·.ctx)) q t vals hc fun _ _ => rfl
    unfold Body.coreImage
    rw [hctx]
    rfl
  have hinner : s.body.inner (d.outRetired x c q rest) := hret.inner
  obtain ⟨hboard, -⟩ := id hinner
  obtain ⟨halone, hstored⟩ := Claims.stored_put (ws := t.outWrites c.val q.j q.obase (t.extents q.len) vals) (x := x) (idx := q.idx)
    hboard ((hret.coreImage c).trans himage) hret.guards hret.mem hret.stks hu
  obtain ⟨-, -, -, -, -, -, -, hcores, -⟩ := Body.eqs_of_memoryAlone halone
  have hcount : ∀ {α : Type} (g : Core → α), (∀ (k : Core) (y : CoreCtx), g { k with cx := y } = g k) →
      g (((d.outRetired x c q rest).put s.own x c q.idx
        ((t.outWrites c.val q.j q.obase (t.extents q.len) vals).map whole)).core c) =
          g ((s.body.core c).count (vals.flatten.countP (·.2.sat)) (vals.flatten.countP (·.2.nfIn))
            (vals.flatten.countP (·.2.nfOut))) := fun g hg =>
    ((congrArg (fun l => g (l.getD c.val (Core.reset c.val))) hcores).trans (hret.field c fun k => hg k _)).trans
      (Body.field_outCounted q t vals hc hg)
  exact ⟨Claims.quiet_of_inner (Body.inner_trans hinner (Body.inner_of_memoryAlone halone)), hstored,
    hcount (·.sat) fun _ _ => rfl, hcount (·.nfIn) fun _ _ => rfl, hcount (·.nfOut) fun _ _ => rfl⟩

end Sys2Proof.Machine

/-! PROOFS. Tiles (O49). -/

namespace Sys2Proof.Machine

open Sys2Proof

/-- Settles O49, by the outcomes of each command: whether a TILE entry is held, and which kind of tile it launches; whether the next list
entry is due, and runs or is leapt; whether a piece runs; whether a write-out is to come. -/
theorem tiles : Obligations.Tiles := by
  unfold Obligations.Tiles
  refine ⟨?issue, ⟨fun s c _ h => execListTilePiece_same (listPiece_none h), ?piece⟩,
    ⟨fun s c _ => ⟨fun h => execTileComplete_same (tileComplete_idle h), fun h => execWriteOutComplete_same (writeOut_idle h)⟩, ?ends,
      ?out⟩⟩
  case issue =>
    intro s c x e hf hn t0 reads held
    exact ⟨execTile_held hf hn, execTile_rind hf hn, execTile_piece hf hn, fun r hh hr hl hb =>
      ⟨execTile_listed hf hn hh hr hl hb, execTile_empty hf hn hh hr hl hb⟩⟩
  case piece =>
    intro s c x r hcl hx hr t0 e free may
    refine ⟨fun h => execListTilePiece_same (listPiece_undue hx hr h),
      fun h hs hp => execListTilePiece_same (listPiece_pressed hx hr h hs (Bool.eq_false_iff.mpr hp)),
      fun h hs hp he => execListTilePiece_runs hcl hx hr h hs hp he, fun h hs hp hd he => ?_⟩
    obtain ⟨t, hexec, hquiet, hleap, hrun, hbyte⟩ := execListTilePiece_leaps hcl hx hr h hs hp hd he
    refine ⟨t, hexec, hquiet, hleap, hrun, fun a ha => ?kept, fun hk hacc a hlo hhi => ?cleared⟩
    case kept => exact (hbyte a).trans (if_neg fun ⟨⟨hk, hacc⟩, hlo, hhi⟩ => ha ⟨hk, hacc, hlo, hhi⟩)
    case cleared => exact (hbyte a).trans (if_pos ⟨⟨hk, hacc⟩, hlo, hhi⟩)
  case ends =>
    intro s c x r hcl hx hr hrun hs
    exact execTileComplete_ends hcl hx hr hrun hs
  case out =>
    intro s c x q rest hcl hx hq t0 vals hu
    exact execWriteOutComplete_ends hcl hx hq rfl rfl hu

end Sys2Proof.Machine

/-! PROOFS. What passing the almanac loader's checks guarantees of an image (R100, R102, R124, R129, R438; O43). -/

namespace Sys2Proof.Machine

open Sys2Proof

/-! ### Checks that find nothing -/

/-- A fold whose every step answers something answers something of a list that is not empty. -/
theorem isSome_foldl {α β : Type} {f : Option α → β → Option α} (h : ∀ r v, (f r v).isSome = true) (v : β) (l : List β) (r : Option α) :
    ((v :: l).foldl f r).isSome = true := by
  induction l generalizing v r with
  | nil => exact h r v
  | cons w l ih => exact ih w (f r v)

/-- A load reports no failure exactly where its checks found none. -/
theorem firstFail_eq_none_iff {fs : Fails} : firstFail fs = none ↔ fs = [] := by
  refine ⟨fun h => ?_, fun h => h ▸ rfl⟩
  cases fs with
  | nil => rfl
  | cons f fs =>
    have hsome : (firstFail (f :: fs)).isSome = true := isSome_foldl (fun r v => by
      cases r with
      | none => rfl
      | some g => simp only []; split <;> rfl) f fs none
    rw [h] at hsome
    exact absurd hsome (by decide)

/-- An item has no failure exactly where none of its conditions holds. -/
theorem itemFail_eq_nil_iff {off : Nat} {l : List (Bool × W16)} : itemFail off l = [] ↔ ∀ q ∈ l, q.1 = false := by
  unfold itemFail firstOf
  cases h : l.find? (·.1) with
  | none => simpa using h
  | some q =>
    have hq := List.find?_some h
    refine ⟨fun e => by simp at e, fun e => ?_⟩
    rw [e q (List.mem_of_find?_eq_some h)] at hq
    exact absurd hq (by decide)

/-- An accepted image's header passes, and no other check finds a failure. -/
theorem checkImage_accepted {o : Own} {b : Body} {p : Fin 8} {k : Fin 4} {at_ : Nat} {img : List Byte} {host : Option (List Byte)}
    (h : checkImage o b p k at_ img host = .accepted) :
    (b.loadCtx o p at_ img).hdrFails b.board.cause.coreOut = [] ∧ (b.loadCtx o p at_ img).allFails b host = [] := by
  unfold checkImage at h
  dsimp only at h
  split at h
  · cases h
  · split at h
    · cases h
    · cases h
    next hhdr _ =>
      split at h
      · cases h
      next hall => exact ⟨firstFail_eq_none_iff.mp hhdr, (List.append_eq_nil_iff.mp (firstFail_eq_none_iff.mp hall)).1⟩

/-! ### What each item's checks say -/

section
variable {x : LoadCtx}

/-- A header without a failure (R102, R438). -/
theorem LoadCtx.header_of_hdrFails {out : W32} (h : x.hdrFails out = []) :
    x.h.magic = 0x4E4D4C41 ∧ x.h.gen = 4 ∧ 10 ≤ x.h.ceil ∧ x.h.ceil ≤ 30 ∧ x.h.btCount ≤ 1024 ∧ x.h.events ≤ 255 ∧
      (imageCrc x.img).toNat = x.h.crc ∧
      ∀ c : Fin 32, x.h.cores.testBit c.val = true → x.o.hasCore x.p c.val = true ∧ out.toNat.testBit c.val = false := by
  have hq := itemFail_eq_nil_iff.mp h
  simp only [List.mem_cons, List.not_mem_nil, or_false, forall_eq_or_imp, forall_eq, Bool.or_eq_false_iff, bne_eq_false_iff_eq,
    decide_eq_false_iff_not, not_lt, gt_iff_lt, List.any_eq_false, List.mem_range, Bool.and_eq_true, Bool.not_eq_true'] at hq
  obtain ⟨⟨⟨⟨⟨⟨⟨⟨⟨⟨⟨hmagic, hgen⟩, hlo⟩, hhi⟩, _⟩, _⟩, _⟩, _⟩, hbt⟩, hev⟩, hcrc⟩, _, hcores, _⟩ := hq
  refine ⟨hmagic, hgen, hlo, hhi, hbt, hev, hcrc, fun c hc => ?_⟩
  have := hcores c.val c.isLt
  simp_all

/-- The list of a core in CORES has an entry, where its record has no failure. -/
theorem LoadCtx.one_le_aeCount {c : Nat} (hc : x.h.cores.testBit c = true) (h : x.recFails c = []) : 1 ≤ aeCount x.img c := by
  rw [LoadCtx.recFails, if_pos hc] at h
  have hq := itemFail_eq_nil_iff.mp h
  simp only [List.mem_cons, List.not_mem_nil, or_false, forall_eq_or_imp, forall_eq, Bool.or_eq_false_iff, beq_eq_false_iff_ne] at hq
  obtain ⟨⟨⟨_, hn⟩, _⟩, _⟩ := hq
  exact Nat.one_le_iff_ne_zero.mpr hn

/-- Every entry of the list of a core in CORES is checked, where the core's record has no failure. -/
theorem LoadCtx.mem_entries {c i : Nat} (hc : x.h.cores.testBit c = true) (h : x.recFails c = []) (hi : i < aeCount x.img c) :
    (aeFirst x.img c + 16 * i, i, aeOf x.img c i) ∈ x.entries c := by
  rw [LoadCtx.entries, if_pos ⟨hc, h⟩]
  refine List.mem_map.mpr ⟨(aeOf x.img c i, i), ?_, rfl⟩
  rw [List.mem_zipIdx_iff_getElem?]
  simp [aeList, hi]

/-- An entry without a FORMAT failure (R124): its kind, END at the end alone, its event, and where its descriptor begins. -/
theorem LoadCtx.entry_of_aeFormatBad {e : Ae} {i n : Nat} (h : x.aeFormatBad e i n = false) :
    1 ≤ e.kind ∧ e.kind ≤ kEnd ∧ (e.kind = kEnd ↔ i + 1 = n) ∧ (e.evt = 0xFF ∨ e.evt < x.h.events) ∧
      ∀ d, descOf e.kind = some d → e.ref % d.1 = 0 := by
  simp only [LoadCtx.aeFormatBad, Bool.or_eq_false_iff, beq_eq_false_iff_ne, decide_eq_false_iff_not, not_lt, gt_iff_lt,
    bne_eq_false_iff_eq] at h
  obtain ⟨⟨⟨⟨⟨⟨⟨hzero, hmax⟩, hend⟩, href⟩, hevt⟩, _⟩, _⟩, _⟩ := h
  refine ⟨Nat.one_le_iff_ne_zero.mpr hzero, hmax, ?_, ?_, fun d hd => ?_⟩
  · rw [← beq_iff_eq, ← hend, decide_eq_true_eq]
  · by_cases hff : e.evt = 0xFF
    · exact .inl hff
    · exact .inr (by simpa [hff] using hevt)
  · rw [hd] at href
    simpa using href

/-- What an entry's checks say where they find no failure (R124, R129). -/
theorem LoadCtx.entry_of_aeFails {b : Body} {core off : Nat} {e : Ae} {i n : Nat} (h : x.aeFails b core off e i n = []) :
    x.aeFormatBad e i n = false ∧ (x.aeRead e = true → x.minBound b e ≤ e.bound) ∧
      ∀ d, descOf e.kind = some d → x.has e.ref d.2 = true := by
  have hq := itemFail_eq_nil_iff.mp (List.append_eq_nil_iff.mp h).2
  simp only [List.mem_cons, List.not_mem_nil, or_false, forall_eq_or_imp, forall_eq, Bool.and_eq_false_iff, decide_eq_false_iff_not,
    not_lt, Bool.not_eq_eq_eq_not, Bool.not_false] at hq
  obtain ⟨hformat, hbound, himage⟩ := hq
  refine ⟨hformat, fun hr => ?_, fun d hd => ?_⟩
  · simpa [hr] using hbound
  · rwa [hd] at himage

/-- An entry with a descriptor has a BOUND of at least its static minimum (R129). -/
theorem LoadCtx.minBound_le {b : Body} {core off : Nat} {e : Ae} {i n : Nat} (h : x.aeFails b core off e i n = [])
    (hd : (descOf e.kind).isSome = true) : x.minBound b e ≤ e.bound := by
  obtain ⟨hformat, hbound, himage⟩ := x.entry_of_aeFails h
  obtain ⟨_, _, _, _, href⟩ := x.entry_of_aeFormatBad hformat
  obtain ⟨d, hd⟩ := Option.isSome_iff_exists.mp hd
  refine hbound ?_
  simp [LoadCtx.aeRead, hd, href d hd, himage d hd]

/-- Of an image with no failure, the records and the entries have none. -/
theorem LoadCtx.fails_of_allFails {b : Body} {host : Option (List Byte)} (h : x.allFails b host = []) :
    (∀ c : Fin 32, x.recFails c.val = []) ∧ ∀ c : Fin 32, x.h.cores.testBit c.val = true → ∀ e ∈ x.entries c.val,
      x.aeFails b c.val e.1 e.2.2 e.2.1 (aeCount x.img c.val) = [] := by
  simp only [LoadCtx.allFails, List.append_eq_nil_iff, List.flatMap_eq_nil_iff, List.mem_range] at h
  obtain ⟨⟨⟨⟨⟨⟨⟨⟨_, _⟩, hrec⟩, haes⟩, _⟩, _⟩, _⟩, _⟩, _⟩ := h
  refine ⟨fun c => hrec c.val c.isLt, fun c hc e he => (haes c ?_).1 e he⟩
  exact List.mem_filter.mpr ⟨List.mem_finRange c, hc⟩

end

/-- Settles O43, item by item: the header, the record of each core's list, and each entry of the list. -/
theorem loadCheckIsSound : Obligations.LoadCheckIsSound := by
  unfold Obligations.LoadCheckIsSound
  intro o b p k at_ img host h
  obtain ⟨hhdr, hall⟩ := checkImage_accepted h
  obtain ⟨hmagic, hgen, hlo, hhi, hbt, hev, hcrc, hcores⟩ := LoadCtx.header_of_hdrFails hhdr
  obtain ⟨hrec, haes⟩ := LoadCtx.fails_of_allFails hall
  refine ⟨hmagic, hgen, hlo, hhi, hbt, hev, hcrc, fun c hc => ?_⟩
  obtain ⟨hown, hin⟩ := hcores c hc
  refine ⟨hown, hin, LoadCtx.one_le_aeCount (x := b.loadCtx o p at_ img) hc (hrec c), fun i hi => ?_⟩
  have hae := haes c hc _ (LoadCtx.mem_entries (x := b.loadCtx o p at_ img) hc (hrec c) hi)
  obtain ⟨hmin, hmax, hend, hevt, _⟩ := LoadCtx.entry_of_aeFormatBad (LoadCtx.entry_of_aeFails hae).1
  exact ⟨hmin, hmax, hend, hevt, fun hd => LoadCtx.minBound_le hae hd⟩

end Sys2Proof.Machine

/-! PROOFS. Registers after power-on reset (O7). -/

namespace Sys2Proof.Machine

open Sys2Proof

/-- A core's registers after power-on reset read as the spec's Reset column says (R54, R135, R174). -/
theorem core_reset_registers : ∀ c : Fin 32, (State.reset.body.core c).seqStat = 0 ∧
    (State.reset.body.core c).seqFirst = 0xFFFFFFFF00000000 ∧ (State.reset.body.core c).seqLeap = 0 ∧ (State.reset.body.core c).ecc = 0 ∧
    (State.reset.body.core c).eccAddrReg = 0 ∧ (State.reset.body.core c).satCnt = 0 ∧ (State.reset.body.core c).nfCnt = 0 := by
  decide +kernel

/-- A quadrant's registers after power-on reset are zero (R97, R174, R203). -/
theorem quad_reset_registers : ∀ q : Fin 4, (State.reset.body.quad q).udDone = 0 ∧ (State.reset.body.quad q).xfDone = 0 ∧
    (State.reset.body.quad q).celCe = 0 := by
  decide +kernel

/-- Settles O7, register by register: cores and quadrants as they are created, the rest read off the reset state. -/
theorem resetRegisters : Obligations.ResetRegisters := by
  unfold Obligations.ResetRegisters
  exact ⟨by decide, rfl, rfl, by decide, by decide, rfl, rfl, core_reset_registers, quad_reset_registers⟩

end Sys2Proof.Machine

/-! PROOFS. Contexts in memory: what reading, saving and restoring one make of its bytes (R134, R168, R170, R428, R513). -/

namespace Sys2Proof.Machine

open Sys2Proof

/-! ### Reads and transfers that only note what they find -/

/-- Nothing changes but the counters of cores, quadrants and stacks, and which words memory holds errors in. -/
structure Body.Noted (b t : Body) : Prop where
  inner : b.inner t
  parts : t.parts = b.parts
  cells : t.mem.cells = b.mem.cells

theorem Body.noted_refl (b : Body) : b.Noted b := ⟨b.inner_refl, rfl, rfl⟩

theorem Body.Noted.trans {b t u : Body} (h : b.Noted t) (k : t.Noted u) : b.Noted u :=
  ⟨Body.inner_trans h.inner k.inner, k.parts.trans h.parts, k.cells.trans h.cells⟩

theorem Body.noted_of_counted {b t : Body} (h : b.counted t) : b.Noted t := by
  obtain ⟨hboard, hports, hmail, hfab, hparts, hmem, hbkp, hout, -⟩ := h
  exact ⟨⟨hboard, hports, hmail, hfab, hbkp, hout⟩, hparts, congrArg Mem.cells hmem⟩

/-- A fold of operations that each only note only notes. -/
theorem Body.noted_foldl {α : Type} {f : Body → α → Body} (h : ∀ (b : Body) (x : α), b.Noted (f b x)) (l : List α) (b : Body) :
    b.Noted (l.foldl f b) := by
  induction l generalizing b with
  | nil => exact b.noted_refl
  | cons x t ih => exact (h b x).trans (ih _)

/-- A change of memory's marks. -/
theorem Body.noted_updMem {b : Body} {f : Mem → Mem} (h : ∀ m, (f m).cells = m.cells) : b.Noted (b.updMem f) :=
  ⟨⟨rfl, rfl, rfl, rfl, rfl, rfl⟩, rfl, h b.mem⟩

theorem Body.noted_corrected (o : Own) (b : Body) (a : Nat) : b.Noted (b.corrected o a) := by
  unfold Body.corrected
  exact (Body.noted_of_counted (b.counted_countCe o a)).trans (Body.noted_updMem fun _ => rfl)

theorem Body.noted_correctedIn (o : Own) (b : Body) (rs : List (Nat × Nat)) : b.Noted (b.correctedIn o rs) :=
  Body.noted_foldl (fun b a => b.noted_corrected o a) _ b

theorem Body.noted_bulkMove (o : Own) (b : Body) (write : Bool) (r : Nat × Nat) : b.Noted (b.bulkMove o write r) := by
  unfold Body.bulkMove
  split
  · exact b.noted_refl
  · refine Body.noted_foldl (fun b j => ?_) _ b
    dsimp only
    split
    · exact b.noted_refl
    · exact Body.noted_of_counted (b.counted_stks _ _)

theorem Body.noted_saveReads (o : Own) (b : Body) (x : CtxId) (guest : Bool) : b.Noted (b.saveReads o x guest) := by
  unfold Body.saveReads
  refine (b.noted_correctedIn o _).trans (Body.noted_foldl (fun b a => ?_) _ _)
  exact Body.noted_updMem fun _ => rfl

section
variable {b t : Body} (h : b.Noted t)
include h

theorem Body.Noted.part (p : Fin 8) : t.part p = b.part p := by
  unfold Body.part
  rw [h.parts]

theorem Body.Noted.slot (p : Fin 8) (k : Fin 4) : t.slot p k = b.slot p k := by
  unfold Body.slot
  rw [h.part]

theorem Body.Noted.imageOf (x : CtxId) : t.imageOf x = b.imageOf x := by
  unfold Body.imageOf
  rw [h.slot]

theorem Body.Noted.byte (a : Nat) : t.mem.byte a = b.mem.byte a := by
  unfold Mem.byte
  rw [h.cells]

theorem Body.Noted.rivals (p : Fin 8) (k : Fin 4) : t.rivals p k = b.rivals p k := by
  unfold Body.rivals
  simp only [h.slot]

end

/-! ### Bytes put back from an image -/

/-- An address that no cell lists reads zero. -/
theorem lookupCell_of_not_listed {cs : List Host.Cell} {x : Nat} (h : ∀ c ∈ cs, c.1 ≠ x) : lookupCell cs x = 0 := by
  induction cs with
  | nil => rfl
  | cons c cs ih =>
    obtain ⟨a, v⟩ := c
    rw [lookupCell, if_neg (h (a, v) List.mem_cons_self)]
    exact ih fun c hc => h c (List.mem_cons_of_mem _ hc)

/-- Setting the bytes of an image in canonical form: they read as in the image, the others as before. -/
theorem lookupCell_putAll {img : List Host.Cell} (h : cellsWf img = true) (cs : List Host.Cell) (x : Nat) :
    lookupCell (img.foldl (fun cs c => putCell cs c.1 c.2) cs) x = if lookupCell img x = 0 then lookupCell cs x else lookupCell img x := by
  induction img generalizing cs with
  | nil => simp [lookupCell]
  | cons c t ih =>
    obtain ⟨a, v⟩ := c
    obtain ⟨hsorted, hzero⟩ := (cellsWf_iff _).mp h
    obtain ⟨habove, ht⟩ := List.pairwise_cons.mp hsorted
    rw [List.foldl_cons, ih ((cellsWf_iff _).mpr ⟨ht, fun c hc => hzero c (List.mem_cons_of_mem _ hc)⟩)]
    by_cases hx : a = x
    · subst hx
      rw [lookupCell_of_not_listed fun c hc => (Nat.ne_of_lt (habove c hc)).symm, if_pos rfl, lookupCell_putCell, if_pos rfl, lookupCell,
        if_pos rfl, if_neg (hzero (a, v) List.mem_cons_self)]
    · rw [lookupCell_putCell, if_neg (Ne.symm hx), lookupCell, if_neg hx]

/-- Zeroing a list of ranges clears their bytes and no other. -/
theorem Mem.byte_zeroAll (rs : List (Nat × Nat)) (m : Mem) (a : Nat) :
    (rs.foldl (fun (m : Mem) r => m.zero r.1 r.2) m).byte a = if inRanges rs a then 0 else m.byte a := by
  induction rs generalizing m with
  | nil => simp [inRanges]
  | cons r t ih =>
    rw [List.foldl_cons, ih, Mem.byte_zero]
    by_cases hr : r.1 ≤ a ∧ a < r.1 + r.2
    · have : inRanges (r :: t) a = true := by simp [inRanges, hr]
      rw [if_pos hr, ite_self, if_pos this]
    · have : inRanges (r :: t) a = inRanges t a := by simp [inRanges, hr]
      rw [if_neg hr, this]

/-- The part of memory's bytes that lies in some ranges. -/
def Mem.cellsIn (m : Mem) (rs : List (Nat × Nat)) : List Host.Cell := m.cells.filter fun c => inRanges rs c.1

theorem Mem.lookup_cellsIn (m : Mem) (rs : List (Nat × Nat)) (a : Nat) :
    lookupCell (m.cellsIn rs) a = if inRanges rs a then m.byte a else 0 := lookupCell_filter m.cells (inRanges rs) a

/-- Ranges put back from an image of them have the image's bytes, and no other byte changes (R428). -/
theorem Mem.byte_putBack {m k : Mem} {rs : List (Nat × Nat)} {img : SaveImage} (hwf : k.wf = true) (himg : img.cells = k.cellsIn rs)
    (a : Nat) : (m.putBack rs img).byte a = if inRanges rs a then k.byte a else m.byte a := by
  have hput := lookupCell_putAll (img := img.cells) (himg ▸ cellsWf_filter _ hwf)
    (rs.foldl (fun (m : Mem) r => m.zero r.1 r.2) m).cells a
  refine hput.trans ?_
  change (if lookupCell img.cells a = 0 then Mem.byte _ a else _) = _
  rw [Mem.byte_zeroAll, himg, k.lookup_cellsIn]
  by_cases hr : inRanges rs a = true
  · simp only [hr, if_true, ite_eq_right_iff]
    exact Eq.symm
  · simp [hr]

/-! ### Saving -/

section
variable (o : Own) (b : Body) (x : CtxId) (guest : Bool)

/-- The state as a save copies it: its reads noted, its save area written whole. -/
def Body.saved : Body := (b.saveReads o x guest).storeWritten o (b.savedArea o x guest)

theorem Body.saved_parts : (b.saved o x guest).parts = b.parts :=
  (Body.noted_bulkMove o _ true _).parts.trans (b.noted_saveReads o x guest).parts

/-- A save clears its area, and no other byte. -/
theorem Body.byte_saved (a : Nat) : (b.saved o x guest).mem.byte a =
    if inRanges [b.savedArea o x guest] a then 0 else b.mem.byte a := by
  rw [Body.saved, Body.storeWritten, Body.updMem_mem, Mem.byte_zero, (Body.noted_bulkMove o _ true _).byte,
    (b.noted_saveReads o x guest).byte]
  simp [inRanges]

theorem Body.wf_saved (h : b.mem.wf = true) : (b.saved o x guest).mem.wf = true := by
  refine Mem.wf_zero _ _ (Mem.wf_congr ?_ h)
  exact (Body.noted_bulkMove o _ true _).cells.trans (b.noted_saveReads o x guest).cells

theorem Body.part_saved (p : Fin 8) : (b.saved o x guest).part p = b.part p := by
  unfold Body.part
  rw [b.saved_parts]

theorem Body.slot_saved (p : Fin 8) (k : Fin 4) : (b.saved o x guest).slot p k = b.slot p k := by
  unfold Body.slot
  rw [b.part_saved]

/-- The image that a save leaves. -/
def Body.saveImage : SaveImage := (b.saved o x guest).snapshot x guest

theorem Body.saveImage_cells :
    (b.saveImage o x guest).cells = (b.saved o x guest).mem.cellsIn (savedRanges (b.imageOf x) guest) := by
  rw [Body.saveImage, Body.snapshot]
  unfold Body.imageOf
  rw [b.slot_saved]
  rfl

/-- A slot whose context has been saved. -/
def Slot.saved (s : Slot) (img : SaveImage) : Slot := { s with ctx := .saved, save := img }

/-- A slot as a completed PREEMPT leaves it. -/
def Slot.preempted (s : Slot) : Slot := { s with run := .preempted, preempts := [], underGuest := none }

/-- Saving a context changes its partition in its slot alone (R428). -/
theorem saveContext_parts :
    (saveContext o b x guest).parts = (b.updSlot x.part x.slot (·.saved (b.saveImage o x guest))).parts := by
  change ((b.saved o x guest).updSlot x.part x.slot (·.saved (b.saveImage o x guest))).parts = _
  unfold Body.updSlot Body.updPart
  rw [b.saved_parts]

theorem saveContext_mem : (saveContext o b x guest).mem = (b.saved o x guest).mem := rfl

theorem slot_of_parts {t u : Body} (h : t.parts = u.parts) (p : Fin 8) (k : Fin 4) : t.slot p k = u.slot p k := by
  unfold Body.slot Body.part
  rw [h]

/-- The slot of a saved context. -/
theorem slot_saveContext (hp : x.part.val < b.parts.length) (hk : x.slot.val < (b.part x.part).slots.length) :
    (saveContext o b x guest).slot x.part x.slot = (b.slot x.part x.slot).saved (b.saveImage o x guest) := by
  rw [slot_of_parts (saveContext_parts o b x guest)]
  exact b.slot_updSlot _ _ _ hp hk

end

/-! ### Going on leaves memory -/

theorem requeue_mem (b : Body) (x : CtxId) (c : Fin 32) (l : Launched) : (requeue b x c l).mem = b.mem := by
  unfold requeue
  dsimp only
  split
  · split <;> rfl
  · split
    · rfl
    · split
      · rfl
      · split
        · rfl
        · split
          · split <;> rfl
          · rfl

theorem requeueJobs_mem (b : Body) (x : CtxId) : (requeueJobs b x).mem = b.mem := by
  refine Body.mem_foldl (fun b r => ?_) _ b
  split
  · exact requeue_mem b x r.1 _
  · rfl

theorem keepPositions_mem (b : Body) (x : CtxId) : (keepPositions b x).mem = b.mem := by
  unfold keepPositions
  refine Body.mem_foldl (fun b j => ?_) _ b
  rfl

theorem askStop_mem (b : Body) (p : Fin 8) (k : Fin 4) : (askStop b p k).mem = b.mem := keepPositions_mem b ⟨p, k⟩

theorem dispatch_mem (o : Own) (b : Body) (p : Fin 8) : (b.dispatch o p).mem = b.mem := rfl

/-- Going on from a pre-emption changes no memory (R134). -/
theorem resumeRun_mem (o : Own) (b : Body) (p : Fin 8) (k : Fin 4) : (resumeRun o b p k).mem = b.mem := by
  have hb : ∀ b : Body, (((b.coresOf ⟨p, k⟩).foldl (fun (b : Body) c =>
      ((b.core c).cx.launched).foldl (fun (b : Body) l => requeue b ⟨p, k⟩ c l) b) b).mem) = b.mem := fun b =>
    Body.mem_foldl (fun b c => Body.mem_foldl (fun b l => requeue_mem b ⟨p, k⟩ c l) _ b) _ b
  unfold resumeRun
  dsimp only
  rw [dispatch_mem]
  split
  · exact (Body.mem_foldl (fun b c => Body.mem_foldl (fun b l => requeue_mem b ⟨p, k⟩ c l) _ b) _ _).trans (requeueJobs_mem b _)
  · refine (askStop_mem _ p k).trans ?_
    exact (Body.mem_foldl (fun b c => Body.mem_foldl (fun b l => requeue_mem b ⟨p, k⟩ c l) _ b) _ _).trans (requeueJobs_mem b _)

/-! ### Restoring -/

/-- Nothing is saved to make room for a context whose cores no other almanac names. -/
theorem evict_of_no_rivals {o : Own} {b : Body} {p : Fin 8} {k : Fin 4} (h : b.rivals p k = []) : evict o b p k = b := by
  rw [evict, h]
  rfl

/-- A saved context that is made resident is restored. -/
theorem makeResident_saved {o : Own} {b : Body} {x : CtxId} (h : (b.slot x.part x.slot).ctx = .saved) (hr : b.rivals x.part x.slot = []) :
    makeResident o b x = restoreContext o b x false := by
  rw [makeResident, h]
  dsimp only
  rw [evict_of_no_rivals hr]

/-- A restore replaces the bytes of the saved ranges by those of the save image (R428). -/
theorem restoreContext_mem (o : Own) (b : Body) (x : CtxId) (guest : Bool) : ∃ m : Mem, m.cells = b.mem.cells ∧
    (restoreContext o b x guest).mem = m.putBack (savedRanges (b.slot x.part x.slot).image guest) (b.slot x.part x.slot).save := by
  refine ⟨(b.bulkMove o false (b.savedArea o x guest)).mem, (b.noted_bulkMove o false _).cells, ?_⟩
  rw [← (b.noted_bulkMove o false (b.savedArea o x guest)).slot]
  rfl

/-! ### The two commands -/

section
variable {s : State} {p : Fin 8} {k : Fin 4} (hcl : s.body.clocked = true)
include hcl

/-- The save that a PREEMPT has asked for (R430): the context is saved, and the slot pre-empted. -/
theorem execContextSaveComplete_preempted {t : State} (hw : Claims.slotsWhole s) (hrun : (s.body.slot p k).run = .stopping)
    (hcan : canSave s.body ⟨p, k⟩ = true) (hflow : s.body.storeFlows s.own p = true) (hguest : (s.body.slot p k).underGuest = none)
    (ht : exec (.contextSaveComplete p ⟨k, []⟩) s = .next t) : t.body.slot p k =
      ((s.body.slot p k).saved (s.body.saveImage s.own ⟨p, k⟩ false)).preempted := by
  have hb : saveComplete s.own s.body p k =
      ((saveContext s.own s.body ⟨p, k⟩ false).updSlot p k Slot.preempted).respondAll s.own (s.body.slot p k).preempts stOk := by
    rw [saveComplete]
    simp only [hflow, hrun, hcan, hguest, Body.guestBack, and_self, if_true, Bool.not_true, Bool.false_eq_true, if_false,
      Option.isSome_none, Bool.false_and]
    rfl
  have hnext : execContextSaveComplete p ⟨k, []⟩ s = .next { s with body := saveComplete s.own s.body p k } := State.onBody_clocked _ hcl
  have htt := hnext.symm.trans ht
  cases htt
  obtain ⟨-, -, -, -, -, hparts, -⟩ := Body.respondAll_spec s.own
    ((saveContext s.own s.body ⟨p, k⟩ false).updSlot p k Slot.preempted) (s.body.slot p k).preempts stOk
  have hp : p.val < s.body.parts.length := Claims.part_lt hw p
  have hk : k.val < (s.body.part p).slots.length := by rw [hw.2 p]; exact k.isLt
  dsimp only
  rw [hb, slot_of_parts hparts, Body.slot_updSlot, slot_saveContext s.own s.body ⟨p, k⟩ false hp hk]
  · rw [saveContext_parts]
    exact (Body.updPart_parts_length _ _ _).symm ▸ hp
  · have hpart : (saveContext s.own s.body ⟨p, k⟩ false).part p =
        (s.body.updSlot p k (·.saved (s.body.saveImage s.own ⟨p, k⟩ false))).part p := by
      unfold Body.part
      rw [saveContext_parts]
    rw [hpart, Body.updSlot, Body.part_updPart _ _ _ hp]
    simpa using hk

/-- A saved context that is restored to go on, on cores that no other almanac names. -/
theorem execContextRestoreComplete_resumed (hrun : (s.body.slot p k).run = .restoring) (hres : (s.body.slot p k).resuming = true)
    (hctx : (s.body.slot p k).ctx = .saved) (hguest : (s.body.slot p k).underGuest = none) (hriv : s.body.rivals p k = [])
    (hmay : s.body.mayRestore s.own p k = true) (hread : s.body.firstBad s.own [s.body.savedArea s.own ⟨p, k⟩ false] = none) :
    exec (.contextRestoreComplete p ⟨k, []⟩) s = .next { s with body := resumeRun s.own (restoreContext s.own
      (s.body.correctedIn s.own [s.body.savedArea s.own ⟨p, k⟩ false]) ⟨p, k⟩ false) p k } := by
  have hb : restoreComplete s.own s.body p k = resumeRun s.own (makeResident s.own
      (s.body.correctedIn s.own [s.body.savedArea s.own ⟨p, k⟩ false]) ⟨p, k⟩) p k := by
    rw [restoreComplete]
    simp only [hrun, hctx, hguest, hmay, hread, hres, if_true, Bool.not_true, Bool.or_false, Bool.false_eq_true, if_false, beq_self_eq_true,
      Bool.or_self]
  have hnoted := s.body.noted_correctedIn s.own [s.body.savedArea s.own ⟨p, k⟩ false]
  rw [← makeResident_saved (by rw [hnoted.slot]; exact hctx) (by rw [hnoted.rivals]; exact hriv), ← hb]
  exact State.onBody_clocked (fun o b => restoreComplete o (b.upset []) p k) hcl

end

/-- Settles O45: the save's image holds the bytes of the saved ranges, which lie apart from the save area, and the restore puts them back;
going on changes no byte. -/
theorem saveThenRestoreGivesBack : Obligations.SaveThenRestoreGivesBack := by
  unfold Obligations.SaveThenRestoreGivesBack
  intro s t u p k hs hcl hwf hrun hcan hflow hguest hapart ht _ hclu hu hriv hmay hread
  have hslot := execContextSaveComplete_preempted hcl hs hrun hcan hflow hguest ht
  rw [hslot] at hu
  have himage : (u.body.slot p k).image = s.body.imageOf ⟨p, k⟩ := by rw [hu]; rfl
  have hsave : (u.body.slot p k).save = s.body.saveImage s.own ⟨p, k⟩ false := by rw [hu]; rfl
  refine ⟨_, execContextRestoreComplete_resumed hclu (by rw [hu]) (by rw [hu]) (by rw [hu]; rfl) (by rw [hu]; rfl) hriv hmay hread, fun a => ?_⟩
  have hnoted := u.body.noted_correctedIn u.own [u.body.savedArea u.own ⟨p, k⟩ false]
  obtain ⟨m, hm, hback⟩ := restoreContext_mem u.own (u.body.correctedIn u.own [u.body.savedArea u.own ⟨p, k⟩ false]) ⟨p, k⟩ false
  have hmbyte : m.byte a = u.body.mem.byte a := congrArg (lookupCell · a) (hm.trans hnoted.cells)
  dsimp only
  rw [resumeRun_mem, hback, hnoted.slot, himage, hsave,
    Mem.byte_putBack (s.body.wf_saved s.own ⟨p, k⟩ false hwf) (s.body.saveImage_cells s.own ⟨p, k⟩ false), hmbyte]
  change (if inRanges (saveRanges (s.body.slot p k).image) a = true then _ else _) = _
  by_cases hr : inRanges (saveRanges (s.body.slot p k).image) a = true
  · rw [if_pos hr, if_pos hr, Body.byte_saved, if_neg (by rw [hapart a hr]; decide)]
  · rw [if_neg hr, if_neg hr]

end Sys2Proof.Machine

/-! PROOFS. A BT_COMMIT of a list that a slot holds no state of (O46). -/

namespace Sys2Proof.Machine

open Sys2Proof

/-! ### A slot without the state of its almanac's list -/

/-- An almanac whose directory, at offset 0x20, has one list: identifier 0, one entry, both slots at address 0, bounds of 0 (R102, R116). -/
def oneListImage : List Byte := ((List.replicate 64 0).set 0x18 0x20).set 0x1C 1 |>.set 0x22 1

/-- The record of that list. -/
def oneListRec : BtRec := ⟨0, 1, 0, 0, 0, 0, 0⟩

/-- A saved context of that almanac, in a slot that holds the state of no list; its one entry as saved ends the list (R115, R117). -/
def Slot.unlisted (y : Slot) : Slot :=
  { y with loaded := true, image := oneListImage, ctx := .saved, bts := [], save := ⟨[(12, 0xFF), (13, 0xFF)], [], [], []⟩ }

/-- A READY module whose partition 0, held by port A, has that slot. -/
def unlistedState : State :=
  ⟨[], Own.reset.updSem 1 fun _ => ⟨true, .a, 0⟩,
    ((Body.reset.updBoard fun y => { y with phase := .ready }).updPort .a fun q => { q with linkUp := true }).updSlot 0 0 Slot.unlisted⟩

/-- BT_COMMIT of list 0 of slot 0, from port A. -/
def commitListZero : Xnx := ⟨.a, .part 0, 0, 0, 2, 0, 0, [0, 0], []⟩

/-- Whether list 0 of slot 0 has its swap pending after a command. -/
def Result.pendsSwap : Result → Bool
  | .next t => ((t.body.slot 0 0).bt 0).swap
  | _ => false

theorem slotsWhole_unlistedState : Claims.slotsWhole unlistedState := by
  unfold Claims.slotsWhole
  decide +kernel

/-- The commit marks the list in the slot's states of lists, and there is none. -/
theorem pendsSwap_commitListZero : Result.pendsSwap (exec (.btCommit commitListZero) unlistedState) = false := by decide +kernel

/-- Refutes O46: a saved context whose slot holds no state of the list (`bts` is a list of its own, which nothing in the statement ties to
the almanac's directory) passes the walk, and the commit leaves no swap pending. -/
theorem not_batchTableCommit : ¬ Obligations.BatchTableCommit := by
  unfold Obligations.BatchTableCommit
  intro h
  obtain ⟨-, hlist⟩ := h unlistedState commitListZero 0 0 (by decide +kernel) rfl rfl
  obtain ⟨-, -, hsaved, -⟩ := hlist oneListRec (by decide +kernel) (by decide +kernel)
  obtain ⟨-, hpasses⟩ := hsaved (by decide +kernel) (by decide +kernel) (by decide +kernel) (by decide +kernel) (by decide +kernel)
  obtain ⟨t, ht, -, hswap, -⟩ := hpasses (by decide +kernel) slotsWhole_unlistedState
  have hnone := pendsSwap_commitListZero
  rw [ht] at hnone
  exact absurd (hnone.symm.trans hswap) (by decide)

end Sys2Proof.Machine

/-! PROOFS. Commands on a partition's page: what a response changes, what a command's rule reads, and its outcome (R402, R405, R412, R512). -/

namespace Sys2Proof.Machine

open Sys2Proof

/-! ### Responses and their signals -/

/-- Nothing changes but mailboxes, and what a vector leaves at the ports and among the observations. -/
def Body.answered (b t : Body) : Prop := t = { b with mail := t.mail, ports := t.ports, out := t.out }

/-- The same with the mailboxes as they were: a vector alone. -/
def Body.fired (b t : Body) : Prop := t = { b with ports := t.ports, out := t.out }

theorem Body.fired_fire (b : Body) (q : Port) (v : Nat) : b.fired (b.fire q v) := by
  unfold Body.fire
  split
  · rfl
  · split
    · rfl
    · split <;> rfl

theorem Body.fired_firePart (o : Own) (b : Body) (p : Fin 8) (v : Nat) : b.fired (b.firePart o p v) := by
  unfold Body.firePart
  split
  · exact b.fired_fire _ _
  · rfl

theorem Body.fired_fireMail (o : Own) (b : Body) (pg : Page) (m : Fin 4) : b.fired (b.fireMail o pg m) := by
  unfold Body.fireMail
  split
  · exact b.fired_firePart _ _ _
  · split
    · exact b.fired_fire _ _
    · rfl

theorem Body.answered_refl (b : Body) : b.answered b := rfl

theorem Body.answered_trans {b t u : Body} (h : b.answered t) (k : t.answered u) : b.answered u := by
  unfold Body.answered at *
  rw [k, h]

theorem Body.fired.answered {b t : Body} (h : b.fired t) : b.answered t := by
  unfold Body.fired at h
  unfold Body.answered
  rw [h]

theorem Body.answered_updMail (b : Body) (pg : Page) (m : Fin 4) (f : Mailbox → Mailbox) : b.answered (b.updMail pg m f) := rfl

theorem Body.answered_respond (o : Own) (b : Body) (t : Ticket) (st : W16) (d : Nat) (r : List Byte) : b.answered (b.respond o t st d r) := by
  unfold Body.respond
  split
  · exact Body.answered_trans (b.answered_updMail _ _ _) (Body.fired_fireMail o _ _ _).answered
  · exact b.answered_updMail _ _ _

theorem Body.answered_respondPending (b : Body) (t : Ticket) : b.answered (b.respondPending t) := rfl

theorem Body.answered_respondEach (o : Own) (ts : List Ticket) (st : W16) (r : List Byte) (b : Body) :
    b.answered (b.respondEach o ts st r) := by
  unfold Body.respondEach
  induction ts generalizing b with
  | nil => rfl
  | cons t ts ih => exact Body.answered_trans (b.answered_respond o t st 0 r) (ih _)

theorem Body.answered_respondAll (o : Own) (b : Body) (ts : List Ticket) (st : W16) : b.answered (b.respondAll o ts st) :=
  b.answered_respondEach o ts st []

section
variable {b t : Body} (h : b.answered t)
include h

theorem Body.answered.parts : t.parts = b.parts := by rw [h]
theorem Body.answered.mem : t.mem = b.mem := by rw [h]
theorem Body.answered.gos : t.gos = b.gos := by rw [h]
theorem Body.answered.board : t.board = b.board := by rw [h]
theorem Body.answered.fab : t.fab = b.fab := by rw [h]
theorem Body.answered.part (p : Fin 8) : t.part p = b.part p := by rw [h]; rfl
theorem Body.answered.slot (p : Fin 8) (k : Fin 4) : t.slot p k = b.slot p k := by rw [h]; rfl
theorem Body.answered.core (c : Fin 32) : t.core c = b.core c := by rw [h]; rfl
theorem Body.answered.quad (q : Fin 4) : t.quad q = b.quad q := by rw [h]; rfl

end

/-- The response area after a final response, where the mailbox exists. -/
theorem Body.resp_respond (o : Own) (b : Body) (t : Ticket) (st : W16) (d : Nat) (r : List Byte) (hm : b.mail.length = 9)
    (hl : ∀ l ∈ b.mail, l.length = 4) : ((b.respond o t st d r).mailbox t.page t.mb).resp = respBytes st t.tag d r := by
  have hp : pageIx t.page < b.mail.length := by
    rw [hm]
    cases t.page with
    | part p => exact Nat.lt_of_lt_of_le p.isLt (by decide)
    | module => decide
  have hb : t.mb.val < (b.mail.getD (pageIx t.page) []).length := by
    rw [List.getD_eq_getElem _ _ hp, hl _ (List.getElem_mem hp)]
    exact t.mb.isLt
  obtain ⟨-, hmail, -⟩ := b.respond_spec o t st d r
  have hbox : (b.respond o t st d r).mailbox t.page t.mb = (b.updMail t.page t.mb fun x =>
      { x with resp := respBytes st t.tag d r, done := x.done + 1, pend := false, owner := false }).mailbox t.page t.mb := by
    unfold Body.mailbox
    rw [hmail]
  rw [hbox, b.mailbox_updMail _ _ _ hp hb]

/-! ### Whole almanac slots -/

/-- Every partition has its four almanac slots. -/
def Body.slotsWhole (b : Body) : Prop := b.parts.length = 8 ∧ ∀ p, (b.part p).slots.length = 4

section
variable {b : Body} (h : b.slotsWhole)
include h

theorem Body.slotsWhole.part_lt (p : Fin 8) : p.val < b.parts.length := by
  rw [h.1]; exact p.isLt

theorem Body.slotsWhole.slot_lt (p : Fin 8) (k : Fin 4) : k.val < (b.part p).slots.length := by
  rw [h.2 p]; exact k.isLt

theorem Body.slotsWhole.congr {t : Body} (hp : t.parts = b.parts) : t.slotsWhole := by
  refine ⟨hp ▸ h.1, fun p => ?_⟩
  unfold Body.part
  rw [hp]
  exact h.2 p

theorem Body.slotsWhole.updPart (p : Fin 8) {f : Part → Part} (hf : ∀ y, (f y).slots.length = y.slots.length) :
    (b.updPart p f).slotsWhole := by
  refine ⟨(b.updPart_parts_length p f).trans h.1, fun q => ?_⟩
  rcases b.part_updPart_or p q f with hq | ⟨-, hq⟩
  · rw [hq]; exact h.2 q
  · rw [hq, hf]; exact h.2 q

theorem Body.slotsWhole.updSlot (p : Fin 8) (k : Fin 4) (f : Slot → Slot) : (b.updSlot p k f).slotsWhole :=
  h.updPart p fun _ => length_modify_eq _ _ _

theorem Body.slotsWhole.slot_updSlot (p : Fin 8) (k : Fin 4) (f : Slot → Slot) : (b.updSlot p k f).slot p k = f (b.slot p k) :=
  b.slot_updSlot p k f (h.part_lt p) (h.slot_lt p k)

theorem Body.slotsWhole.slot_updSlot_ne (p : Fin 8) {k j : Fin 4} (f : Slot → Slot) (hj : j ≠ k) : (b.updSlot p k f).slot p j = b.slot p j :=
  b.slot_updSlot_ne p k j f (h.part_lt p) hj

end

/-- Two changes of one slot are one. -/
theorem Body.updSlot_updSlot (b : Body) (p : Fin 8) (k : Fin 4) (f g : Slot → Slot) :
    (b.updSlot p k f).updSlot p k g = b.updSlot p k fun y => g (f y) := by
  have hpart : ∀ l : List Part, (l.modify p.val fun y => { y with slots := y.slots.modify k.val f }).modify p.val
      (fun y => { y with slots := y.slots.modify k.val g }) = l.modify p.val fun y => { y with slots := y.slots.modify k.val fun y => g (f y) } :=
    fun l => (List.modify_modify_eq _ _ _ _).trans (congrArg (l.modify p.val) (funext fun y => by
      simp only [Function.comp, List.modify_modify_eq]; rfl))
  exact congrArg (fun l => ({ b with parts := l } : Body)) (hpart b.parts)

/-! ### What a command's rule reads -/

/-- What the error-correcting code is told changes memory's marks alone. -/
theorem Body.upset_eq (b : Body) (f : Found) : b.upset f = { b with mem := { b.mem with upsets := (b.upset f).mem.upsets } } := by
  unfold Body.upset
  split <;> rfl

section
variable (s : State) (code : Nat) (x : Xnx)

/-- The state that a command's rule reads differs from the state before in its mailbox and memory's marks alone. -/
theorem State.commandedWith_eq : s.commandedWith code x = { s.body with
    mail := (s.commandedWith code x).mail
    mem := { s.body.mem with upsets := (s.commandedWith code x).mem.upsets } } := by
  unfold State.commandedWith
  rw [Body.upset_eq]
  rfl

@[simp] theorem State.commandedWith_parts : (s.commandedWith code x).parts = s.body.parts := by rw [State.commandedWith_eq]
@[simp] theorem State.commandedWith_cores : (s.commandedWith code x).cores = s.body.cores := by rw [State.commandedWith_eq]
@[simp] theorem State.commandedWith_board : (s.commandedWith code x).board = s.body.board := by rw [State.commandedWith_eq]
@[simp] theorem State.commandedWith_gos : (s.commandedWith code x).gos = s.body.gos := by rw [State.commandedWith_eq]
@[simp] theorem State.commandedWith_part (p : Fin 8) : (s.commandedWith code x).part p = s.body.part p := by
  rw [State.commandedWith_eq]; rfl
@[simp] theorem State.commandedWith_slot (p : Fin 8) (k : Fin 4) : (s.commandedWith code x).slot p k = s.body.slot p k := by
  rw [State.commandedWith_eq]; rfl
@[simp] theorem State.commandedWith_core (c : Fin 32) : (s.commandedWith code x).core c = s.body.core c := by
  rw [State.commandedWith_eq]; rfl
@[simp] theorem State.commandedWith_byte (a : Nat) : (s.commandedWith code x).mem.byte a = s.body.mem.byte a := by
  rw [State.commandedWith_eq]; rfl

theorem State.slotsWhole_commandedWith {s : State} (h : Claims.slotsWhole s) : (s.commandedWith code x).slotsWhole :=
  Body.slotsWhole.congr (b := s.body) h (s.commandedWith_parts code x)

end

/-! ### The outcome of a command -/

/-- The state that a rule's answer makes of a command that has passed the shared checks (R402). -/
def State.concluded (s : State) (code : Nat) (x : Xnx) : Xres → State
  | .refused st d => s.answer s.own (s.commanded code x) x st d []
  | .foreign a => s.answer s.own ((s.commanded code x).logForeign s.own x.page a) x stWorld 0 []
  | .done o b st d r => s.answer o b x st d r
  | .pending o b => s.promise o b x

section
variable {s : State} {x : Xnx} {p : Fin 8} (h : s.takesOn x p = true)
include h

theorem page_of_takesOn : x.page = .part p := by
  simp only [State.takesOn, Bool.and_eq_true, beq_iff_eq] at h
  exact h.1.2

theorem gos_of_takesOn : s.body.gos = [] := by
  have := takes_of_takesOn h
  simp only [State.takes, Bool.and_eq_true, beq_iff_eq] at this
  exact this.2

theorem clocked_of_takesOn : s.body.clocked = true := by
  have := takes_of_takesOn h
  simp only [State.takes, Bool.and_eq_true, beq_iff_eq] at this
  obtain ⟨⟨⟨⟨⟨⟨hphase, hmod⟩, -⟩, -⟩, -⟩, -⟩, -⟩ := this
  simp [Body.clocked, hphase, hmod]

/-- A command whose length and ARG0 are in order ends as its rule says. -/
theorem State.xnx_part {code : Nat} {lenOk arg0Ok : Bool} (act : Own → Body → Xres) (hl : lenOk = true) (ha : arg0Ok = true) :
    s.xnx code x .part lenOk arg0Ok act = .next (s.concluded code x (act s.own (s.commandedWith code x))) := by
  rw [xnx_run s x code .part lenOk arg0Ok act (takes_of_takesOn h), hl, ha, xRefusal_part h]
  dsimp only
  cases act s.own (s.commandedWith code x) <;> rfl

end

/-- The almanac slot that ARG0 names. -/
theorem slotArg_of {x : Xnx} {k : Fin 4} (h : x.arg0 = k.val) : slotArg x = k := by
  unfold slotArg
  rw [h]
  exact Fin.ofNat_val_eq_self k

theorem onPart_of {x : Xnx} {p : Fin 8} (h : x.page = .part p) (f : Fin 8 → Xres) : onPart x f = f p := by
  unfold onPart
  rw [h]

end Sys2Proof.Machine

/-! PROOFS. INVOKE and INVOCATION_COMPLETE: each outcome of the command's rule, and what a start and an end leave (R117, R125, R253, R272, R414,
R428, R429). -/

namespace Sys2Proof.Machine

open Sys2Proof

/-! ### What a start and a first residence leave -/

theorem inRanges_append (l r : List (Nat × Nat)) (a : Nat) : inRanges (l ++ r) a = (inRanges l a || inRanges r a) := List.any_append

/-- A core of a context that is changed, and any other. -/
theorem Body.core_mapCtx (b : Body) (x : CtxId) (f : Core → Core) (c : Fin 32) :
    (b.mapCtx x f).core c = if (b.core c).ctx = some x then f (b.core c) else b.core c := by
  unfold Body.mapCtx Body.core
  by_cases h : c.val < b.cores.length
  · rw [List.getD_eq_getElem _ _ (by simpa using h), List.getD_eq_getElem _ _ h, List.getElem_map]
    simp only [beq_iff_eq]
  · rw [List.getD_eq_default _ _ (by simpa using h), List.getD_eq_default _ _ (by simpa using h), if_neg (by simp [Core.reset])]

/-- A core of an almanac as its context takes it, idle. -/
def Core.taken (c : Core) (x : CtxId) : Core := { c with ctx := some x, cx := CoreCtx.idle }

/-- The cores that a context is put on. -/
theorem getD_zipIdx_map {α : Type} (l : List α) (f : α × Nat → α) (d : α) {i : Nat} (h : i < l.length) :
    (l.zipIdx.map f).getD i d = f (l.getD i d, i) := by
  rw [List.getD_eq_getElem _ _ (by simpa using h), List.getElem_map, List.getElem_zipIdx, List.getD_eq_getElem _ _ h, Nat.zero_add]

section
variable (b : Body) (p : Fin 8) (k : Fin 4)

/-- The norm vectors of a starting invocation. -/
def Body.normRanges : List (Nat × Nat) := (normRegion (b.slot p k).image).toList.map fun n => (n, 0x5000)

theorem byte_startRun (a : Nat) : (startRun b p k).mem.byte a = if inRanges (b.normRanges p k) a then 0 else b.mem.byte a := by
  have hmem : (startRun b p k).mem = (b.normRanges p k).foldl (fun (m : Mem) r => m.zero r.1 r.2) b.mem := by
    unfold startRun Body.normRanges
    cases hn : normRegion (b.slot p k).image <;> simp only [hn] <;> rfl
  rw [hmem, Mem.byte_zeroAll]

theorem core_startRun (c : Fin 32) : (startRun b p k).core c =
    if (b.core c).ctx = some ⟨p, k⟩ then { b.core c with cx := { CoreCtx.idle with seq := .running } } else b.core c := by
  have hcore : (startRun b p k).core c =
      (b.mapCtx ⟨p, k⟩ fun c => { c with cx := { CoreCtx.idle with seq := .running } }).core c := by
    unfold startRun
    cases hn : normRegion (b.slot p k).image <;> simp only [hn] <;> rfl
  rw [hcore, Body.core_mapCtx]

theorem startRun_parts : (startRun b p k).parts =
    ((b.updPart p fun y => { y with decision := 0 }).updSlot p k fun s => s.started.stopIfAsked).parts := by
  unfold startRun
  cases hn : normRegion (b.slot p k).image <;> simp only [hn] <;> rfl

variable {b}

theorem slot_startRun (h : b.slotsWhole) : (startRun b p k).slot p k = (b.slot p k).started.stopIfAsked := by
  have hd : (b.updPart p fun y => { y with decision := 0 }).slotsWhole := h.updPart p fun _ => rfl
  rw [slot_of_parts (startRun_parts b p k), hd.slot_updSlot, Body.slot_updPart p p k (by intro _; rfl)]

theorem decision_startRun (h : b.slotsWhole) : ((startRun b p k).part p).decision = 0 := by
  have hd : (b.updPart p fun y => { y with decision := 0 }).slotsWhole := h.updPart p fun _ => rfl
  have hpart : (startRun b p k).part p =
      ((b.updPart p fun y => { y with decision := 0 }).updSlot p k fun s => s.started.stopIfAsked).part p := by
    unfold Body.part
    rw [startRun_parts]
  rw [hpart, Body.updSlot, Body.part_updPart _ _ _ (hd.part_lt p), b.part_updPart p _ (h.part_lt p)]

end

theorem Slot.stopIfAsked_of_unasked {s : Slot} (h : s.preempts = []) : s.started.stopIfAsked = s.started := if_pos h

theorem Slot.count_started (s : Slot) (e : Nat) : s.started.count e = 0 := rfl

theorem Slot.swap_started {s : Slot} {l : BtList} (h : l ∈ s.started.bts) : l.swap = false := by
  obtain ⟨m, -, rfl⟩ := List.mem_map.mp h
  unfold BtList.atStart
  split
  · rfl
  · exact Bool.eq_false_iff.mpr ‹_›

section
variable (b : Body) (x : CtxId)

/-- The ranges that a context's first residence zeroes (R428). -/
def Body.residenceRanges : List (Nat × Nat) := keepRanges (b.imageOf x) ++ pressRanges (b.imageOf x)

theorem byte_firstResidence (a : Nat) :
    (firstResidence b x).mem.byte a = if inRanges (b.residenceRanges x) a then 0 else b.mem.byte a :=
  Mem.byte_zeroAll (b.residenceRanges x) b.mem a

theorem core_firstResidence {c : Fin 32} (hc : b.cores.length = 32) (h : (hdrOf (b.imageOf x)).cores.testBit c.val = true) :
    (firstResidence b x).core c = (b.core c).taken x := by
  have hlt : c.val < b.cores.length := by rw [hc]; exact c.isLt
  have hcores : (firstResidence b x).cores = b.cores.zipIdx.map fun r =>
      if (hdrOf (b.imageOf x)).cores.testBit r.2 = true then r.1.taken x else r.1 := by
    simp only [firstResidence, Body.updSlot, Body.updPart, Body.updMem, Core.taken]
  unfold Body.core
  rw [hcores, getD_zipIdx_map _ _ _ hlt]
  exact if_pos h

theorem firstResidence_parts :
    (firstResidence b x).parts = (b.updSlot x.part x.slot fun s => { s with ctx := .resident }).parts := by
  simp only [firstResidence, Body.updSlot, Body.updPart, Body.updMem]

end

/-! ### The rule of INVOKE -/

section
variable (s : State) (code : Nat) (x : Xnx) (p : Fin 8) (k : Fin 4)

@[simp] theorem State.commandedWith_rivals : (s.commandedWith code x).rivals p k = s.body.rivals p k := by
  rw [State.commandedWith_eq]; rfl
@[simp] theorem State.commandedWith_heldBy : (s.commandedWith code x).heldBy p k = s.body.heldBy p k := by
  rw [State.commandedWith_eq]; rfl
@[simp] theorem State.commandedWith_startRefused : startRefused s.own (s.commandedWith code x) p k = startRefused s.own s.body p k := by
  rw [State.commandedWith_eq]; rfl
@[simp] theorem State.commandedWith_zeroingCores (img : List Byte) :
    (s.commandedWith code x).zeroingCores img = s.body.zeroingCores img := by
  rw [State.commandedWith_eq]; rfl

end

section
variable {x : Xnx} {p : Fin 8} {k : Fin 4} (hx : x.page = .part p) (hk : slotArg x = k) {o : Own} {b : Body}
include hx hk

theorem invokeAct_empty (hl : (b.slot p k).loaded = false) : invokeAct x o b = .refused stBounds 0 := by
  simp only [invokeAct, onPart_of hx, hk, hl, Bool.not_false, if_true]

variable (hl : (b.slot p k).loaded = true)
include hl

theorem invokeAct_busy (hw : (b.slot p k).invoke.isSome = true ∨ (b.slot p k).guest.isSome = true) :
    invokeAct x o b = .refused stBusy 0 := by
  simp only [invokeAct, onPart_of hx, hk, hl, Bool.not_true, Bool.false_eq_true, if_false, Bool.or_eq_true, hw, if_true]

variable (hw : ¬ ((b.slot p k).invoke.isSome = true ∨ (b.slot p k).guest.isSome = true))
include hw

theorem invokeAct_guest (hh : (b.slot p k).hostSlot ≠ 0xFF) :
    invokeAct x o b = .pending o (b.updSlot p k fun y => { y with guest := some (xTicket x) }) := by
  simp only [invokeAct, onPart_of hx, hk, hl, Bool.not_true, Bool.false_eq_true, if_false, Bool.or_eq_true, hw, hh, ne_eq, not_false_eq_true,
    if_true]

variable (hh : (b.slot p k).hostSlot = 0xFF)
include hh

theorem invokeAct_held (hb : b.heldBy p k ≠ []) : invokeAct x o b = .refused stBusy 0 := by
  simp only [invokeAct, onPart_of hx, hk, hl, Bool.not_true, Bool.false_eq_true, if_false, Bool.or_eq_true, hw, hh, ne_eq, not_true_eq_false,
    hb, not_false_eq_true, if_true]

variable (hb : b.heldBy p k = [])
include hb

theorem invokeAct_refused (hr : startRefused o b p k = true) : invokeAct x o b = .refused stBounds 0 := by
  simp only [invokeAct, onPart_of hx, hk, hl, Bool.not_true, Bool.false_eq_true, if_false, Bool.or_eq_true, hw, hh, ne_eq, not_true_eq_false,
    hb, hr, if_true]

variable (hr : startRefused o b p k = false)
include hr

/-- A slot with its INVOKE pending. -/
def Slot.invoked (x : Xnx) (y : Slot) : Slot := { y with invoke := some (xTicket x) }

/-- The rule's last choice: a save goes on, or the context starts, or is restored first. -/
theorem invokeAct_accepted : invokeAct x o b = .pending o
    (if (b.slot p k).run = .saving then b.updSlot p k (Slot.invoked x)
    else if (b.slot p k).ctx = .resident then startRun (b.updSlot p k (Slot.invoked x)) p k
    else if (b.slot p k).ctx = .unrun ∧ (!(b.rivals p k).any fun i => (b.slot p i).ctx == .resident) = true ∧
        (!b.zeroingCores (b.slot p k).image) = true then
      startRun (firstResidence (b.updSlot p k (Slot.invoked x)) ⟨p, k⟩) p k
    else (b.updSlot p k (Slot.invoked x)).updSlot p k fun y => { y with run := .restoring, resuming := false }) := by
  simp only [invokeAct, onPart_of hx, hk, hl, Bool.not_true, Bool.false_eq_true, if_false, Bool.or_eq_true, hw, hh, ne_eq, not_true_eq_false,
    hb, hr]
  unfold Slot.invoked
  split
  · rfl
  · split
    · rfl
    · split <;> rfl

end

end Sys2Proof.Machine

/-! PROOFS. INVOKE and INVOCATION_COMPLETE: the commands (R117, R125, R253, R272, R414, R428, R429). -/

namespace Sys2Proof.Machine

open Sys2Proof

/-! ### INVOKE -/

/-- An INVOKE runs the slot at once: every event at zero, every pending swap made, DECISION 0. -/
structure Starts (s : State) (x : Xnx) (p : Fin 8) (k : Fin 4) (t : State) : Prop where
  next : exec (.invoke x) s = .next t
  own : t.own = s.own
  invoke : (t.body.slot p k).invoke = some (xTicket x)
  run : (t.body.slot p k).run = .running
  events : ∀ e, (t.body.slot p k).count e = 0
  swaps : ∀ l ∈ (t.body.slot p k).bts, l.swap = false
  decision : (t.body.slot p k).decision = 0
  partDecision : (t.body.part p).decision = 0

section
variable {s : State} {x : Xnx} {p : Fin 8} {k : Fin 4} (h : s.takesOn x p = true) (hlen : x.len = 0) (harg : x.arg0 = k.val)
include h hlen harg

theorem execInvoke_eq : exec (.invoke x) s = .next (s.concluded 0x0103 x (invokeAct x s.own (s.commandedWith 0x0103 x))) :=
  s.xnx_part h (invokeAct x) (by simp [hlen]) (by simp [harg])

theorem execInvoke_refused {st : W16} (ha : invokeAct x s.own (s.commandedWith 0x0103 x) = .refused st 0) :
    exec (.invoke x) s = .next (s.answer s.own (s.commanded 0x0103 x) x st 0 []) := by
  rw [execInvoke_eq h hlen harg, ha]
  rfl

theorem execInvoke_pending {t : Body} (ha : invokeAct x s.own (s.commandedWith 0x0103 x) = .pending s.own t) :
    exec (.invoke x) s = .next (s.promise s.own t x) := by
  rw [execInvoke_eq h hlen harg, ha]
  rfl

/-- The start of an invocation whose context stands on its cores. -/
theorem starts_of_startRun {b : Body} (hb : b.slotsWhole) (hp : (b.slot p k).preempts = []) (hi : (b.slot p k).invoke = some (xTicket x))
    (ha : invokeAct x s.own (s.commandedWith 0x0103 x) = .pending s.own (startRun b p k)) :
    Starts s x p k (s.promise s.own (startRun b p k) x) := by
  have hslot : (s.promise s.own (startRun b p k) x).body.slot p k = (b.slot p k).started := by
    rw [← Slot.stopIfAsked_of_unasked hp, ← slot_startRun p k hb]
    exact (Body.answered_respondPending _ _).slot p k
  refine ⟨execInvoke_pending h hlen harg ha, rfl, ?_, ?_, ?_, ?_, ?_, ?_⟩
  · rw [hslot]; exact hi
  · rw [hslot]; rfl
  · rw [hslot]; exact Slot.count_started _
  · rw [hslot]; exact fun l hl => Slot.swap_started hl
  · rw [hslot]; rfl
  · exact decision_startRun p k hb

variable (hw : Claims.slotsWhole s) (hl : (s.body.slot p k).loaded = true)
  (hfree : ¬ ((s.body.slot p k).invoke.isSome = true ∨ (s.body.slot p k).guest.isSome = true))
  (hhost : (s.body.slot p k).hostSlot = 0xFF) (hheld : s.body.heldBy p k = []) (hmay : startRefused s.own s.body p k = false)
include hl hfree hhost hheld hmay

omit hlen in
theorem invokeAct_of_may : invokeAct x s.own (s.commandedWith 0x0103 x) = .pending s.own
    (if (s.body.slot p k).run = .saving then (s.commandedWith 0x0103 x).updSlot p k (Slot.invoked x)
    else if (s.body.slot p k).ctx = .resident then startRun ((s.commandedWith 0x0103 x).updSlot p k (Slot.invoked x)) p k
    else if (s.body.slot p k).ctx = .unrun ∧ (!(s.body.rivals p k).any fun i => (s.body.slot p i).ctx == .resident) = true ∧
        (!s.body.zeroingCores (s.body.slot p k).image) = true then
      startRun (firstResidence ((s.commandedWith 0x0103 x).updSlot p k (Slot.invoked x)) ⟨p, k⟩) p k
    else ((s.commandedWith 0x0103 x).updSlot p k (Slot.invoked x)).updSlot p k fun y =>
      { y with run := .restoring, resuming := false }) := by
  have := invokeAct_accepted (o := s.own) (b := s.commandedWith 0x0103 x) (page_of_takesOn h) (slotArg_of harg) (by simpa using hl)
    (by simpa using hfree) (by simpa using hhost) (by simpa using hheld) (by simpa using hmay)
  simpa only [State.commandedWith_slot, State.commandedWith_rivals, State.commandedWith_zeroingCores] using this

theorem execInvoke_saving (hs : (s.body.slot p k).run = .saving) : exec (.invoke x) s =
    .next (s.promise s.own ((s.commandedWith 0x0103 x).updSlot p k (Slot.invoked x)) x) :=
  execInvoke_pending h hlen harg ((invokeAct_of_may h harg hl hfree hhost hheld hmay).trans (by rw [if_pos hs]))

variable (hs : (s.body.slot p k).run ≠ .saving)
include hs

theorem execInvoke_restoring (hc : (s.body.slot p k).ctx = .saved ∨ ((s.body.slot p k).ctx = .unrun ∧
      (((s.body.rivals p k).all fun i => (s.body.slot p i).ctx != .resident) = false ∨
        s.body.zeroingCores (s.body.slot p k).image = true))) :
    exec (.invoke x) s = .next (s.promise s.own ((s.commandedWith 0x0103 x).updSlot p k fun y =>
      { y with invoke := some (xTicket x), run := .restoring, resuming := false }) x) := by
  have hres : (s.body.slot p k).ctx ≠ .resident := by rcases hc with hc | ⟨hc, -⟩ <;> rw [hc] <;> decide
  have hone : ¬ ((s.body.slot p k).ctx = .unrun ∧ (!(s.body.rivals p k).any fun i => (s.body.slot p i).ctx == .resident) = true ∧
      (!s.body.zeroingCores (s.body.slot p k).image) = true) := by
    rintro ⟨hu, hr, hz⟩
    rcases hc with hc | ⟨-, hc | hc⟩
    · rw [hc] at hu; exact absurd hu (by decide)
    · rw [List.not_any_eq_all_not] at hr
      exact absurd (hc.symm.trans hr) (by decide)
    · rw [hc] at hz; exact absurd hz (by decide)
  have ha := invokeAct_of_may h harg hl hfree hhost hheld hmay
  rw [if_neg hs, if_neg hres, if_neg hone, Body.updSlot_updSlot] at ha
  exact execInvoke_pending h hlen harg ha

variable (hp : (s.body.slot p k).preempts = [])
include hw hp

theorem execInvoke_resident (hc : (s.body.slot p k).ctx = .resident) : ∃ t, Starts s x p k t ∧
    (∀ c, (s.body.core c).ctx = some ⟨p, k⟩ → (t.body.core c).cx = { CoreCtx.idle with seq := .running }) ∧
    (∀ c, (s.body.core c).ctx ≠ some ⟨p, k⟩ → t.body.core c = s.body.core c) ∧
    (∀ a, t.body.mem.byte a = if inRanges ((normRegion (s.body.slot p k).image).toList.map fun n => (n, 0x5000)) a then 0
      else s.body.mem.byte a) := by
  have hb := (State.slotsWhole_commandedWith 0x0103 x hw).updSlot p k (Slot.invoked x)
  have hslot := (State.slotsWhole_commandedWith 0x0103 x hw).slot_updSlot p k (Slot.invoked x)
  have hcore : ∀ c, ((s.commandedWith 0x0103 x).updSlot p k (Slot.invoked x)).core c = s.body.core c := s.commandedWith_core 0x0103 x
  have hbyte : ∀ a, ((s.commandedWith 0x0103 x).updSlot p k (Slot.invoked x)).mem.byte a = s.body.mem.byte a :=
    s.commandedWith_byte 0x0103 x
  rw [State.commandedWith_slot] at hslot
  have ha := invokeAct_of_may h harg hl hfree hhost hheld hmay
  rw [if_neg hs, if_pos hc] at ha
  generalize (s.commandedWith 0x0103 x).updSlot p k (Slot.invoked x) = b at hb hslot hcore hbyte ha
  refine ⟨_, starts_of_startRun h hlen harg hb (by rw [hslot]; exact hp) (by rw [hslot]; rfl) ha, fun c hc => ?_, fun c hc => ?_, fun a => ?_⟩
  · exact congrArg Core.cx ((core_startRun b p k c).trans (if_pos (by rw [hcore]; exact hc)))
  · exact (core_startRun b p k c).trans ((if_neg (by rw [hcore]; exact hc)).trans (hcore c))
  · have hnorm : b.normRanges p k = (normRegion (s.body.slot p k).image).toList.map fun n => (n, 0x5000) := by
      rw [Body.normRanges, hslot]
      rfl
    rw [← hnorm, ← hbyte]
    exact byte_startRun b p k a

theorem execInvoke_unrun (hc : (s.body.slot p k).ctx = .unrun)
    (hr : ((s.body.rivals p k).all fun i => (s.body.slot p i).ctx != .resident) = true)
    (hz : s.body.zeroingCores (s.body.slot p k).image = false) (hcores : s.body.cores.length = 32) : ∃ t, Starts s x p k t ∧
    (t.body.slot p k).ctx = .resident ∧
    (∀ c : Fin 32, (hdrOf (s.body.slot p k).image).cores.testBit c.val = true → (t.body.core c).ctx = some ⟨p, k⟩ ∧
      (t.body.core c).cx = { CoreCtx.idle with seq := .running }) ∧
    (∀ a, t.body.mem.byte a = if inRanges (keepRanges (s.body.slot p k).image ++ pressRanges (s.body.slot p k).image ++
      (normRegion (s.body.slot p k).image).toList.map fun n => (n, 0x5000)) a then 0 else s.body.mem.byte a) := by
  have hb := (State.slotsWhole_commandedWith 0x0103 x hw).updSlot p k (Slot.invoked x)
  have hslot := (State.slotsWhole_commandedWith 0x0103 x hw).slot_updSlot p k (Slot.invoked x)
  rw [State.commandedWith_slot] at hslot
  generalize hb0 : (s.commandedWith 0x0103 x).updSlot p k (Slot.invoked x) = b at hb hslot
  have hfirst : (firstResidence b ⟨p, k⟩).slotsWhole := (hb.updSlot p k _).congr (firstResidence_parts b ⟨p, k⟩)
  have hslot1 : (firstResidence b ⟨p, k⟩).slot p k = { (s.body.slot p k).invoked x with ctx := .resident } := by
    rw [slot_of_parts (firstResidence_parts b ⟨p, k⟩), hb.slot_updSlot, hslot]
  have ha := invokeAct_of_may h harg hl hfree hhost hheld hmay
  rw [if_neg hs, if_neg (by rw [hc]; decide), if_pos ⟨hc, by rw [List.not_any_eq_all_not]; exact hr, by rw [hz]; rfl⟩, hb0] at ha
  have hstarts := starts_of_startRun h hlen harg hfirst (by rw [hslot1]; exact hp) (by rw [hslot1]; rfl) ha
  have himage : b.imageOf ⟨p, k⟩ = (s.body.slot p k).image := by rw [Body.imageOf, hslot]; rfl
  refine ⟨_, hstarts, ?_, fun c hbit => ?_, fun a => ?_⟩
  · refine (congrArg Slot.ctx (slot_startRun p k hfirst)).trans ?_
    rw [Slot.stopIfAsked_of_unasked (by rw [hslot1]; exact hp), hslot1]
    rfl
  · have hcore := core_firstResidence b ⟨p, k⟩ (by rw [← hb0]; simpa using hcores) (by rw [himage]; exact hbit)
    have hrun := (core_startRun _ p k c).trans (if_pos (by rw [hcore]; rfl))
    exact ⟨(congrArg Core.ctx hrun).trans (by rw [hcore]; rfl), congrArg Core.cx hrun⟩
  · have hbyte : b.mem.byte a = s.body.mem.byte a := by rw [← hb0]; exact s.commandedWith_byte 0x0103 x a
    refine (byte_startRun _ p k a).trans ?_
    rw [byte_firstResidence, Body.normRanges, hslot1, Body.residenceRanges, himage, hbyte, inRanges_append _ (List.map _ _)]
    change (if inRanges ((normRegion (s.body.slot p k).image).toList.map fun n => (n, 0x5000)) a = true then _ else _) = _
    by_cases hn : inRanges ((normRegion (s.body.slot p k).image).toList.map fun n => (n, 0x5000)) a = true <;> simp [hn]

end

/-! ### The end of an invocation -/

/-- A slot whose invocation has ended. -/
def Slot.ended (y : Slot) : Slot :=
  { y with run := if y.preempts = [] ∧ y.hostSlot = 0xFF then .idle else .saving, invoke := none }

/-- A core whose list has ended with its invocation. -/
def Core.ended (c : Core) : Core := { c with invoc := c.invoc + 1, cx := { c.cx with seq := .idle, aeIdx := 0, ended := false } }

/-- An invocation's end before its response. -/
def Body.ended (b : Body) (p : Fin 8) (k : Fin 4) : Body := (b.mapCtx ⟨p, k⟩ Core.ended).updSlot p k Slot.ended

/-- The result bytes of an invocation that ends. -/
def Slot.endResult (y : Slot) : List Byte := invokeResult y.endStatus y.decision y.repaired 0xFF 0xFFFF

section
variable {o : Own} {b : Body} {p : Fin 8} {k : Fin 4}

theorem invocationComplete_idle (h : (b.slot p k).run ∉ [RunState.running, .stopping] ∨ b.allEnded ⟨p, k⟩ = false) :
    invocationComplete o b p k = b := by
  refine if_neg fun hc => ?_
  rcases h with h | h
  · exact h (by simpa using hc.1)
  · rw [h] at hc
    exact absurd hc.2 (by decide)

theorem invocationComplete_ends (h : (b.slot p k).run ∈ [RunState.running, .stopping]) (he : b.allEnded ⟨p, k⟩ = true) :
    invocationComplete o b p k =
      (b.ended p k).respondEach o (b.slot p k).invoke.toList (b.slot p k).endStatus (b.slot p k).endResult := by
  refine (if_pos ⟨by simpa using h, he⟩).trans ?_
  cases hi : (b.slot p k).invoke <;> rfl

theorem core_ended (c : Fin 32) :
    (b.ended p k).core c = if (b.core c).ctx = some ⟨p, k⟩ then (b.core c).ended else b.core c := b.core_mapCtx ⟨p, k⟩ Core.ended c

end

theorem execInvocationComplete_idle {s : State} {p : Fin 8} {k : Fin 4}
    (h : (s.body.slot p k).run ∉ [RunState.running, .stopping] ∨ s.body.allEnded ⟨p, k⟩ = false) :
    exec (.invocationComplete p k) s = .next s := 
  State.onBody_same (f := fun o b => invocationComplete o b p k) (invocationComplete_idle h)

theorem execInvocationComplete_ends {s : State} {p : Fin 8} {k : Fin 4} (hcl : s.body.clocked = true)
    (h : (s.body.slot p k).run ∈ [RunState.running, .stopping]) (he : s.body.allEnded ⟨p, k⟩ = true) (hw : Claims.slotsWhole s) :
    ∃ t, exec (.invocationComplete p k) s = .next t ∧ t.own = s.own ∧ t.body.mem = s.body.mem ∧
      (∀ c, (s.body.core c).ctx = some ⟨p, k⟩ → (t.body.core c).invoc = (s.body.core c).invoc + 1 ∧
        (t.body.core c).cx.seq = .idle ∧ (t.body.core c).ctx = some ⟨p, k⟩) ∧
      (∀ c, (s.body.core c).ctx ≠ some ⟨p, k⟩ → t.body.core c = s.body.core c) ∧ t.body.slot p k = (s.body.slot p k).ended ∧
      (∀ k1, (s.body.slot p k).invoke = some k1 → s.body.mail.length = 9 → (∀ l ∈ s.body.mail, l.length = 4) →
        (t.body.mailbox k1.page k1.mb).resp = respBytes (s.body.slot p k).endStatus k1.tag 0 (s.body.slot p k).endResult) := by
  have hans := (s.body.ended p k).answered_respondEach s.own (s.body.slot p k).invoke.toList (s.body.slot p k).endStatus
    (s.body.slot p k).endResult
  refine ⟨_, State.onBody_clocked (fun o b => invocationComplete o b p k) hcl, rfl, ?_⟩
  dsimp only
  rw [invocationComplete_ends h he]
  refine ⟨hans.mem, fun c hc => ?_, fun c hc => ?_, ?_, fun k1 hk hm hl => ?_⟩
  · rw [hans.core, core_ended, if_pos hc]
    exact ⟨rfl, rfl, hc⟩
  · rw [hans.core, core_ended, if_neg hc]
  · rw [hans.slot]
    exact Body.slotsWhole.slot_updSlot (b := s.body.mapCtx ⟨p, k⟩ Core.ended) hw p k Slot.ended
  · rw [hk]
    exact (s.body.ended p k).resp_respond s.own k1 _ 0 _ hm hl

end Sys2Proof.Machine

/-! PROOFS. PREEMPT and RESUME: each outcome of the commands' rules, and what a request to stop leaves (R133, R402, R414, R430, R433). -/

namespace Sys2Proof.Machine

open Sys2Proof

/-! ### A request to stop -/

/-- Nothing changes but cores, quadrants and partitions. -/
def Body.jobsAlone (b t : Body) : Prop := t = { b with cores := t.cores, quads := t.quads, parts := t.parts }

theorem Body.jobsAlone_trans {b t u : Body} (h : b.jobsAlone t) (k : t.jobsAlone u) : b.jobsAlone u := by
  unfold Body.jobsAlone at *
  rw [k, h]

theorem Body.inner_of_jobsAlone {b t : Body} (h : b.jobsAlone t) : b.inner t := by
  rw [h]
  exact ⟨rfl, rfl, rfl, rfl, rfl, rfl⟩

/-- A job whose position is kept. -/
def CoreCtx.keep (k : CoreCtx) (j : QJob) : CoreCtx :=
  { k.stopAt j.idx j.pos with partSums := (j.idx, j.sumHi, j.sumLo, j.nf) :: k.partSums.filter (·.1 != j.idx) }

/-- The positions kept change cores alone, and there nothing but what is kept. -/
structure Body.Keeps (b t : Body) : Prop where
  alone : t = { b with cores := t.cores }
  core : ∀ {α : Type} (g : Core → α), (∀ k j, g { k with cx := k.cx.keep j } = g k) → ∀ c, g (t.core c) = g (b.core c)

theorem keeps_foldl (l : List QJob) (b : Body) : b.Keeps (l.foldl (fun b j => b.updCx j.core (·.keep j)) b) := by
  induction l generalizing b with
  | nil => exact ⟨rfl, fun _ _ _ => rfl⟩
  | cons j t ih =>
    obtain ⟨halone, hcore⟩ := ih (b.updCx j.core (·.keep j))
    refine ⟨by rw [List.foldl_cons, halone]; rfl, fun g hg c => ?_⟩
    rw [List.foldl_cons, hcore g hg c]
    exact Body.field_updCore j.core c fun k => hg k j

theorem keeps_keepPositions (b : Body) (x : CtxId) : b.Keeps (keepPositions b x) := keeps_foldl _ b

/-- A partition whose collective jobs of a context, those that have not started, are withdrawn. -/
def Part.withdrawn (y : Part) (x : CtxId) : Part := { y with collRuns := y.collRuns.filter fun r => r.ctx != x || r.started }

/-- A slot asked to stop. -/
def Slot.stopped (y : Slot) (order : List (Fin 32 × Nat)) : Slot := { y with run := .stopping, order := order }

section
variable (b : Body) (p : Fin 8) (k : Fin 4)

theorem askStop_jobsAlone : b.jobsAlone (askStop b p k) := by
  have h : b.jobsAlone (keepPositions b ⟨p, k⟩) := by
    rw [(keeps_keepPositions b ⟨p, k⟩).alone]
    rfl
  exact Body.jobsAlone_trans h rfl

theorem core_askStop {α : Type} {g : Core → α} (hg : ∀ k j, g { k with cx := k.cx.keep j } = g k) (c : Fin 32) :
    g ((askStop b p k).core c) = g (b.core c) := (keeps_keepPositions b ⟨p, k⟩).core g hg c

theorem askStop_parts : (askStop b p k).parts = ((b.updPart p (·.withdrawn ⟨p, k⟩)).updSlot p k (·.stopped (b.jobOrder ⟨p, k⟩))).parts := by
  have h : (keepPositions b ⟨p, k⟩).parts = b.parts := by rw [(keeps_keepPositions b ⟨p, k⟩).alone]
  unfold askStop withdraw Body.updSlot Body.updPart
  dsimp only
  rw [h]
  rfl

/-- No job of the context waits in a quadrant's queues. -/
theorem queues_askStop (q : Fin 4) {j : QJob} (hj : j ∈ ((askStop b p k).quad q).rindQ ++ ((askStop b p k).quad q).xfQ ++
    ((askStop b p k).quad q).udQ) : j.ctx ≠ ⟨p, k⟩ := by
  have hq : (askStop b p k).quad q = Quad.reset ∨ ∃ k0 : Quad, (askStop b p k).quad q =
      { k0 with
        rindQ := k0.rindQ.filter fun j => j.ctx != ⟨p, k⟩
        xfQ := k0.xfQ.filter fun j => j.ctx != ⟨p, k⟩
        udQ := k0.udQ.filter fun j => j.ctx != ⟨p, k⟩ } := by
    change ((keepPositions b ⟨p, k⟩).quads.map _).getD q.val Quad.reset = _ ∨ _
    by_cases h : q.val < (keepPositions b ⟨p, k⟩).quads.length
    · refine Or.inr ⟨(keepPositions b ⟨p, k⟩).quads[q.val], ?_⟩
      change ((keepPositions b ⟨p, k⟩).quads.map _).getD q.val Quad.reset = _
      rw [List.getD_eq_getElem _ _ (by simpa using h), List.getElem_map]
    · exact Or.inl (List.getD_eq_default _ _ (by simpa using h))
  rcases hq with hq | ⟨k0, hq⟩
  · rw [hq] at hj
    exact absurd hj (by decide +revert)
  · rw [hq] at hj
    simp only [List.mem_append, List.mem_filter, bne_iff_ne] at hj
    rcases hj with (⟨-, hne⟩ | ⟨-, hne⟩) | ⟨-, hne⟩ <;> exact hne

variable {b}

theorem Body.slotsWhole.withdrawn (h : b.slotsWhole) (p : Fin 8) (x : CtxId) : (b.updPart p (·.withdrawn x)).slotsWhole :=
  h.updPart p fun _ => rfl

theorem slot_askStop (h : b.slotsWhole) : (askStop b p k).slot p k = (b.slot p k).stopped (b.jobOrder ⟨p, k⟩) := by
  rw [slot_of_parts (askStop_parts b p k), (h.withdrawn p ⟨p, k⟩).slot_updSlot, Body.slot_updPart p p k (by intro _; rfl)]

theorem slot_askStop_ne (h : b.slotsWhole) {j : Fin 4} (hj : j ≠ k) : (askStop b p k).slot p j = b.slot p j := by
  rw [slot_of_parts (askStop_parts b p k), (h.withdrawn p ⟨p, k⟩).slot_updSlot_ne p _ hj, Body.slot_updPart p p j (by intro _; rfl)]

theorem slotsWhole_askStop (h : b.slotsWhole) : (askStop b p k).slotsWhole :=
  ((h.withdrawn p ⟨p, k⟩).updSlot p k _).congr (askStop_parts b p k)

/-- Of the context's collective jobs only those stand that have started. -/
theorem collRuns_askStop (h : b.slotsWhole) {r : CollRun} (hr : r ∈ ((askStop b p k).part p).collRuns) (hx : r.ctx = ⟨p, k⟩) :
    r.started = true := by
  have hpart : (askStop b p k).part p = ((b.updPart p (·.withdrawn ⟨p, k⟩)).updSlot p k (·.stopped (b.jobOrder ⟨p, k⟩))).part p := by
    unfold Body.part
    rw [askStop_parts]
  rw [hpart, Body.updSlot, Body.part_updPart _ _ _ ((h.withdrawn p ⟨p, k⟩).part_lt p), b.part_updPart p _ (h.part_lt p)] at hr
  obtain ⟨-, hkeep⟩ := List.mem_filter.mp hr
  simpa [hx] using hkeep

end

/-! ### The rules -/

/-- A slot that a PREEMPT joins. -/
def Slot.joined (x : Xnx) (y : Slot) : Slot := { y with preempts := y.preempts ++ [xTicket x] }

section
variable {x : Xnx} {p : Fin 8} {k : Fin 4} (hx : x.page = .part p) (hk : slotArg x = k) {o : Own} {b : Body}
include hx hk

theorem preemptAct_empty (hl : (b.slot p k).loaded = false) : preemptAct x o b = .done o b stOk 0 [] := by
  simp only [preemptAct, onPart_of hx, hk, hl, Bool.not_false, if_true]

theorem preemptAct_runs (hl : (b.slot p k).loaded = true) (hr : (b.slot p k).run ∈ [RunState.running, .held]) :
    preemptAct x o b = .pending o ((askStop b p k).updSlot p k (Slot.joined x)) := by
  simp only [List.mem_cons, List.not_mem_nil, or_false] at hr
  rcases hr with hr | hr <;>
  · simp only [preemptAct, onPart_of hx, hk, hl, hr, Bool.not_true, Bool.false_eq_true, if_false]
    rfl

theorem preemptAct_joins (hl : (b.slot p k).loaded = true) (hr : (b.slot p k).run ∈ [RunState.stopping, .saving, .restoring] ∨
    ((b.slot p k).run = .preempted ∧ (b.slot p k).underGuest.isSome = true)) :
    preemptAct x o b = .pending o (b.updSlot p k (Slot.joined x)) := by
  simp only [List.mem_cons, List.not_mem_nil, or_false] at hr
  rcases hr with (hr | hr | hr) | ⟨hr, hg⟩
  case inr =>
    simp only [preemptAct, onPart_of hx, hk, hl, hr, hg, Bool.not_true, Bool.false_eq_true, if_false, if_true]
    rfl
  all_goals
    simp only [preemptAct, onPart_of hx, hk, hl, hr, Bool.not_true, Bool.false_eq_true, if_false]
    rfl

theorem preemptAct_idle (hl : (b.slot p k).loaded = true) (hr : (b.slot p k).run = .idle) (hc : (b.slot p k).ctx = .resident) :
    preemptAct x o b = .pending o (b.updSlot p k fun z => { z with run := .saving, preempts := z.preempts ++ [xTicket x] }) := by
  simp only [preemptAct, onPart_of hx, hk, hl, hr, hc, Bool.not_true, Bool.false_eq_true, if_false, if_true, Body.updSlot_updSlot]

theorem preemptAct_nothing (h : (b.slot p k).loaded = false ∨ ((b.slot p k).run = .preempted ∧ (b.slot p k).underGuest = none) ∨
    ((b.slot p k).run = .idle ∧ (b.slot p k).ctx ≠ .resident)) : preemptAct x o b = .done o b stOk 0 [] := by
  rcases hl : (b.slot p k).loaded with _ | _
  · exact preemptAct_empty hx hk hl
  · rcases h with h | ⟨hr, hg⟩ | ⟨hr, hc⟩
    · exact absurd (hl.symm.trans h) (by decide)
    · simp only [preemptAct, onPart_of hx, hk, hl, hr, hg, Bool.not_true, Bool.false_eq_true, if_false, Option.isSome_none]
    · simp only [preemptAct, onPart_of hx, hk, hl, hr, hc, Bool.not_true, Bool.false_eq_true, if_false]

theorem resumeAct_nothing (h : (b.slot p k).run ≠ .preempted ∨ (b.slot p k).underGuest.isSome = true) :
    resumeAct x o b = .done o b stOk 0 [] := by
  simp only [resumeAct, onPart_of hx, hk]
  exact if_pos h

theorem resumeAct_held (hr : (b.slot p k).run = .preempted) (hg : (b.slot p k).underGuest = none) (hb : b.heldBy p k ≠ []) :
    resumeAct x o b = .refused stBusy 0 := by
  simp [resumeAct, onPart_of hx, hk, hr, hg, hb]

theorem resumeAct_resumes (hr : (b.slot p k).run = .preempted) (hg : (b.slot p k).underGuest = none) (hb : b.heldBy p k = []) :
    resumeAct x o b = .done o (b.updSlot p k fun z => { z with run := .restoring, resuming := true }) stOk 0 [] := by
  simp [resumeAct, onPart_of hx, hk, hr, hg, hb]

end

/-! ### The commands -/

section
variable {s : State} {x : Xnx} {p : Fin 8} {k : Fin 4} (h : s.takesOn x p = true) (hlen : x.len = 0) (harg : x.arg0 = k.val)
include h hlen harg

theorem execResume_eq : exec (.resume x) s = .next (s.concluded 0x0105 x (resumeAct x s.own (s.commandedWith 0x0105 x))) :=
  s.xnx_part h (resumeAct x) (by simp [hlen]) (by simp [harg])

/-- No GO waits once a PREEMPT has been taken, so none is forwarded ahead of the steward: it ends as its rule says. -/
theorem execPreempt_eq (hg : (s.concluded 0x0104 x (preemptAct x s.own (s.commandedWith 0x0104 x))).body.gos = []) :
    exec (.preempt x) s = .next (s.concluded 0x0104 x (preemptAct x s.own (s.commandedWith 0x0104 x))) := by
  have hcl := clocked_of_takesOn h
  have hrun : s.both (fun o b => runXnx o b 0x0104 x .part (x.len == 0) (decide (x.arg0 < 4)) (preemptAct x)) =
      .next (s.concluded 0x0104 x (preemptAct x s.own (s.commandedWith 0x0104 x))) :=
    s.xnx_part h (preemptAct x) (by simp [hlen]) (by simp [harg])
  rw [State.both, if_pos hcl] at hrun
  have hbody : (runXnx s.own s.body 0x0104 x .part (x.len == 0) (decide (x.arg0 < 4)) (preemptAct x)).2.gos = [] := by
    rw [← hg]
    exact congrArg (fun r : Result => match r with | .next t => t.body.gos | _ => []) hrun
  refine Eq.trans ?_ hrun
  change s.both _ = _
  rw [State.both, if_pos hcl]
  have hsame : (s.body.gos.getLast? !=
      (runXnx s.own s.body 0x0104 x .part (x.len == 0) (decide (x.arg0 < 4)) (preemptAct x)).2.gos.getLast?) = false := by
    rw [hbody, gos_of_takesOn h]
    rfl
  simp only [State.always, hsame, Bool.false_eq_true, if_false]

theorem execPreempt_done (ha : preemptAct x s.own (s.commandedWith 0x0104 x) = .done s.own (s.commandedWith 0x0104 x) stOk 0 []) :
    exec (.preempt x) s = .next (s.answer s.own (s.commandedWith 0x0104 x) x stOk 0 []) := by
  refine (execPreempt_eq h hlen harg ?_).trans (by rw [ha]; rfl)
  rw [ha]
  exact (Body.answered_respond _ _ _ _ _ _).gos.trans ((s.commandedWith_gos 0x0104 x).trans (gos_of_takesOn h))

theorem execPreempt_pending {t : Body} (ha : preemptAct x s.own (s.commandedWith 0x0104 x) = .pending s.own t) (ht : t.gos = []) :
    exec (.preempt x) s = .next (s.promise s.own t x) := by
  refine (execPreempt_eq h hlen harg ?_).trans (by rw [ha]; rfl)
  rw [ha]
  exact ht

end

end Sys2Proof.Machine

/-! PROOFS. CONTEXT_SAVE_COMPLETE and CONTEXT_RESTORE_COMPLETE: when each ends, and what it leaves (R226, R272, R428, R430, R431, R437, R513). -/

namespace Sys2Proof.Machine

open Sys2Proof

/-! ### What a save leaves -/

/-- A core whose context has been saved, if it is this one. -/
def Core.released (c : Core) (x : CtxId) : Core := if c.ctx = some x then { c with ctx := none, cx := c.cx.left } else c

section
variable (o : Own) (b : Body) (x : CtxId) (guest : Bool)

theorem saveContext_core (c : Fin 32) : (saveContext o b x guest).core c = ((b.saved o x guest).core c).released x := by
  change ((b.saved o x guest).cores.map fun k => k.released x).getD c.val (Core.reset c.val) = _
  unfold Body.core
  by_cases h : c.val < (b.saved o x guest).cores.length
  · rw [List.getD_eq_getElem _ _ (by simpa using h), List.getElem_map, List.getD_eq_getElem _ _ h]
  · rw [List.getD_eq_default _ _ (by simpa using h), List.getD_eq_default _ _ (by simpa using h), Core.released, if_neg (by simp [Core.reset])]

/-- No core holds a context that has been saved. -/
theorem ctx_saveContext (c : Fin 32) : ((saveContext o b x guest).core c).ctx ≠ some x := by
  rw [saveContext_core, Core.released]
  split
  · simp
  · assumption

/-- A move of whole units counts at the stacks alone. -/
theorem Body.readAlone_bulkMove (write : Bool) (r : Nat × Nat) : b.readAlone (b.bulkMove o write r) := by
  unfold Body.bulkMove
  split
  · exact b.readAlone_refl
  · refine List.foldlRecOn (motive := b.readAlone) _ _ b.readAlone_refl fun t ht j _ => Body.readAlone_trans ht ?_
    dsimp only
    split
    · exact t.readAlone_refl
    · rfl

/-- With no errors in memory a save changes no other context's core. -/
theorem core_saveContext {b : Body} (h : b.mem.upsets = []) {c : Fin 32} (hc : (b.core c).ctx ≠ some x) :
    (saveContext o b x guest).core c = b.core c := by
  have hreads : b.saveReads o x guest = b := by
    unfold Body.saveReads Body.correctedIn
    rw [h]
    rfl
  have hcore : (b.saved o x guest).core c = b.core c := by
    unfold Body.saved Body.core
    rw [hreads, Body.storeWritten, Body.updMem_cores, (Body.eqs_of_readAlone (b.readAlone_bulkMove o true _)).2.1]
  rw [saveContext_core, hcore, Core.released, if_neg hc]

/-- A save writes its area, and no other byte. -/
theorem byte_saveContext {a : Nat} (ha : ¬ ((b.savedArea o x guest).1 ≤ a ∧ a < (b.savedArea o x guest).1 + (b.savedArea o x guest).2)) :
    (saveContext o b x guest).mem.byte a = b.mem.byte a := by
  rw [saveContext_mem, Body.byte_saved, if_neg (by simpa [inRanges] using ha)]

end

/-! ### The guest of a training context that is saved whole -/

section
variable (b : Body) (p : Fin 8) (g : Option (Fin 4))

/-- A guest put back to wait keeps what a store region's layout reads, and its almanac. -/
theorem Body.field_guestBack {α : Type} {f : Slot → α} (hf : ∀ y r u v, f { y with run := r, guest := u, invoke := v } = f y) (q : Fin 8)
    (k : Fin 4) : f ((b.guestBack p g).slot q k) = f (b.slot q k) := by
  cases g with
  | none => rfl
  | some g =>
    refine Body.field_slot_updSlot p q g k fun y => ?_
    split
    · exact hf y _ _ _
    · rfl

theorem Body.storeAt_congr {o : Own} {b t : Body} {q : Fin 8} (h : ∀ i, (t.slot q i).loaded = (b.slot q i).loaded ∧
    (t.slot q i).unload = (b.slot q i).unload ∧ (t.slot q i).image = (b.slot q i).image) (k : Fin 4) : t.storeAt o q k = b.storeAt o q k := by
  unfold Body.storeAt
  simp only [fun i => (h i).1, fun i => (h i).2.1, fun i => (h i).2.2]

theorem Body.savedArea_guestBack (o : Own) (x : CtxId) (guest : Bool) : (b.guestBack p g).savedArea o x guest = b.savedArea o x guest := by
  have himage : ∀ q i, ((b.guestBack p g).slot q i).image = (b.slot q i).image := fun q i => b.field_guestBack p g (fun _ _ _ _ => rfl) q i
  have hat := Body.storeAt_congr (o := o) (b := b) (t := b.guestBack p g) (q := x.part) (fun i =>
    ⟨b.field_guestBack p g (f := Slot.loaded) (fun _ _ _ _ => rfl) _ i, b.field_guestBack p g (f := Slot.unload) (fun _ _ _ _ => rfl) _ i,
      himage _ i⟩) x.slot
  unfold Body.savedArea Body.saveArea Body.imageOf
  rw [hat, himage]

theorem Body.core_guestBack (c : Fin 32) : (b.guestBack p g).core c = b.core c := by cases g <;> rfl

variable {b}

theorem Body.slotsWhole.guestBack (h : b.slotsWhole) : (b.guestBack p g).slotsWhole := by
  cases g with
  | none => exact h
  | some g => exact h.updSlot p g _

/-- A slot that is not being restored stays as it is. -/
theorem Body.slot_guestBack (h : b.slotsWhole) {k : Fin 4} (hk : (b.slot p k).run ≠ .restoring) :
    (b.guestBack p g).slot p k = b.slot p k := by
  cases g with
  | none => rfl
  | some g =>
    by_cases hg : k = g
    · subst hg
      exact (h.slot_updSlot p k _).trans (if_neg hk)
    · exact h.slot_updSlot_ne p _ hg

end

/-! ### When a save ends -/

/-- The store's path flows, and every block stands at its pre-emption point, or the context is idle. -/
def Body.saveReady (o : Own) (b : Body) (p : Fin 8) (k : Fin 4) : Prop := b.storeFlows o p = true ∧
  ((b.slot p k).run = .saving ∨ ((b.slot p k).run = .stopping ∧ canSave b ⟨p, k⟩ = true))

/-- A training context stops for a guest alone: it is saved in part (R272). -/
def Slot.forGuest (y : Slot) : Bool := decide (y.run = .stopping) && y.underGuest.isSome && y.preempts == []

/-- A slot as the save of an idle context leaves it. -/
def Slot.saveOver (y : Slot) : Slot := { y with run := if y.invoke.isSome then .restoring else .idle, preempts := [] }

/-- A slot as the end of its save leaves it. -/
def Slot.saveEnds (y : Slot) : Slot :=
  if y.run = .stopping then (if y.forGuest = true then { y with run := .preempted } else y.preempted) else y.saveOver

section
variable {y : Slot}

theorem Slot.forGuest_iff : y.forGuest = true ↔ y.run = .stopping ∧ y.underGuest.isSome = true ∧ y.preempts = [] := by
  simp [Slot.forGuest, and_assoc]

theorem Slot.preempts_saveEnds (y : Slot) : y.saveEnds.preempts = [] := by
  unfold Slot.saveEnds
  split
  · split
    next hg => exact (Slot.forGuest_iff.mp hg).2.2
    · rfl
  · rfl

theorem Slot.invoke_saveEnds (y : Slot) : y.saveEnds.invoke = y.invoke := by
  unfold Slot.saveEnds
  split
  · split <;> rfl
  · rfl

theorem Slot.run_saveEnds (y : Slot) :
    y.saveEnds.run = if y.run = .stopping then .preempted else if y.invoke.isSome then .restoring else .idle := by
  unfold Slot.saveEnds
  split
  · split <;> rfl
  · rfl

theorem Slot.underGuest_saveEnds_forGuest (h : y.forGuest = true) : y.saveEnds.underGuest = y.underGuest := by
  rw [Slot.saveEnds, if_pos (Slot.forGuest_iff.mp h).1, if_pos h]

theorem Slot.underGuest_saveEnds (hr : y.run = .stopping) (h : ¬ y.forGuest = true) : y.saveEnds.underGuest = none := by
  rw [Slot.saveEnds, if_pos hr, if_neg h]
  rfl

end

section
variable {o : Own} {b : Body} {p : Fin 8} {k : Fin 4}

theorem saveComplete_unready (h : ¬ b.saveReady o p k) : saveComplete o b p k = b := by
  unfold Body.saveReady at h
  unfold saveComplete
  dsimp only
  by_cases hf : b.storeFlows o p = true
  · have hs : ¬ (b.slot p k).run = .saving := fun hs => h ⟨hf, .inl hs⟩
    have hc : ¬ ((b.slot p k).run = .stopping ∧ canSave b ⟨p, k⟩ = true) := fun hc => h ⟨hf, .inr hc⟩
    rw [if_neg hc, if_neg hs, ite_self]
  · rw [if_pos (by simpa using hf)]

/-- A save that ends: the context is saved, the slot goes on as its state says, and PREEMPTs are answered. -/
theorem saveComplete_ready (h : b.saveReady o p k) (hw : b.slotsWhole) : ∃ (b1 : Body) (f : Slot → Slot) (ts : List Ticket),
    saveComplete o b p k = ((saveContext o b1 ⟨p, k⟩ (b.slot p k).forGuest).updSlot p k f).respondAll o ts stOk ∧
    b1.slotsWhole ∧ b1.slot p k = b.slot p k ∧ (∀ c, b1.core c = b.core c) ∧ b1.mem = b.mem ∧
    b1.savedArea o ⟨p, k⟩ (b.slot p k).forGuest = b.savedArea o ⟨p, k⟩ (b.slot p k).forGuest ∧
    ∀ img, f ((b.slot p k).saved img) = (b.slot p k).saveEnds.saved img := by
  obtain ⟨hflow, hrun⟩ := h
  rcases hrun with hrun | ⟨hrun, hcan⟩
  · refine ⟨b, fun s => s.saveOver, (b.slot p k).preempts, ?_, hw, rfl, fun _ => rfl, rfl, rfl, fun img => ?_⟩
    · simp only [saveComplete, hflow, hrun, Slot.forGuest, Bool.not_true, Bool.false_eq_true, if_false, if_true, reduceCtorEq, false_and,
        decide_false, Bool.false_and]
      rfl
    · simp only [Slot.saveEnds, hrun, reduceCtorEq, if_false]
      rfl
  · by_cases hg : (b.slot p k).forGuest = true
    · refine ⟨b, fun s => { s with run := .preempted }, [], ?_, hw, rfl, fun _ => rfl, rfl, rfl, fun img => ?_⟩
      · have hg' : ((b.slot p k).underGuest.isSome && (b.slot p k).preempts == []) = true := by
          simpa [Slot.forGuest, hrun] using hg
        simp only [saveComplete, hflow, hrun, hcan, hg', hg, Bool.not_true, Bool.false_eq_true, if_false, if_true, and_self]
        rfl
      · simp only [Slot.saveEnds, hrun, hg, if_true]
        rfl
    · refine ⟨b.guestBack p (b.slot p k).underGuest, Slot.preempted, (b.slot p k).preempts, ?_, hw.guestBack p _,
        Body.slot_guestBack p _ hw (by rw [hrun]; decide), fun c => b.core_guestBack p _ c, b.guestBack_mem p _,
        b.savedArea_guestBack p _ o _ _, fun img => ?_⟩
      · have hg' : ((b.slot p k).underGuest.isSome && (b.slot p k).preempts == []) = false := by
          simpa [Slot.forGuest, hrun] using hg
        have hg'' : (b.slot p k).forGuest = false := by simpa using hg
        simp only [saveComplete, hflow, hrun, hcan, hg', hg'', Bool.not_true, Bool.false_eq_true, if_false, if_true, and_self]
        rfl
      · simp only [Slot.saveEnds, hrun, hg, if_true]
        rfl

end

/-! ### The command -/

section
variable (b : Body) (found : Found) (o : Own) (p : Fin 8) (k : Fin 4)

theorem Body.upset_slot : (b.upset found).slot p k = b.slot p k := by rw [Body.upset_eq]; rfl
theorem Body.upset_core (c : Fin 32) : (b.upset found).core c = b.core c := by rw [Body.upset_eq]; rfl
theorem Body.upset_savedArea (x : CtxId) (guest : Bool) : (b.upset found).savedArea o x guest = b.savedArea o x guest := by
  rw [Body.upset_eq]; rfl
theorem Body.upset_byte (a : Nat) : (b.upset found).mem.byte a = b.mem.byte a := by rw [Body.upset_eq]; rfl
theorem Body.upset_mayRestore : (b.upset found).mayRestore o p k = b.mayRestore o p k := by rw [Body.upset_eq]; rfl
theorem Body.upset_saveReady : (b.upset found).saveReady o p k ↔ b.saveReady o p k := by rw [Body.upset_eq]; rfl

end

section
variable {s : State} {p : Fin 8} {k : Fin 4} {found : Found} (hcl : s.body.clocked = true)
include hcl

theorem execContextSaveComplete_eq : exec (.contextSaveComplete p ⟨k, found⟩) s =
    .next { s with body := saveComplete s.own (s.body.upset found) p k } :=
  State.onBody_clocked (fun o b => saveComplete o (b.upset found) p k) hcl

theorem execContextSaveComplete_unready (h : ¬ s.body.saveReady s.own p k) :
    exec (.contextSaveComplete p ⟨k, found⟩) s = .next { s with body := s.body.upset found } := by
  rw [execContextSaveComplete_eq hcl, saveComplete_unready (by rw [Body.upset_saveReady]; exact h)]

theorem execContextSaveComplete_ready (h : s.body.saveReady s.own p k) (hw : Claims.slotsWhole s) :
    ∃ t, exec (.contextSaveComplete p ⟨k, found⟩) s = .next t ∧ t.own = s.own ∧
      s.sameOutside t (s.body.savedArea s.own ⟨p, k⟩ (s.body.slot p k).forGuest).1 (s.body.savedArea s.own ⟨p, k⟩ (s.body.slot p k).forGuest).2 ∧
      (∃ img, t.body.slot p k = (s.body.slot p k).saveEnds.saved img) ∧ (∀ c, (t.body.core c).ctx ≠ some ⟨p, k⟩) ∧
      ((s.body.upset found).mem.upsets = [] → ∀ c, (s.body.core c).ctx ≠ some ⟨p, k⟩ → t.body.core c = s.body.core c) := by
  have hwb : (s.body.upset found).slotsWhole := Body.slotsWhole.congr (b := s.body) hw (by rw [Body.upset_eq])
  obtain ⟨b1, f, ts, heq, hw1, hslot, hcore, hmem, harea, hf⟩ :=
    saveComplete_ready (by rw [Body.upset_saveReady]; exact h : (s.body.upset found).saveReady s.own p k) hwb
  rw [Body.upset_slot] at heq hslot harea hf
  have hans := Body.answered_respondAll s.own ((saveContext s.own b1 ⟨p, k⟩ (s.body.slot p k).forGuest).updSlot p k f) ts stOk
  have hwsave : (saveContext s.own b1 ⟨p, k⟩ (s.body.slot p k).forGuest).slotsWhole :=
    (hw1.updSlot p k _).congr (saveContext_parts s.own b1 ⟨p, k⟩ _)
  rw [Body.upset_savedArea] at harea
  refine ⟨_, execContextSaveComplete_eq hcl, rfl, fun a ha => ?_, ⟨b1.saveImage s.own ⟨p, k⟩ (s.body.slot p k).forGuest, ?_⟩, fun c => ?_,
    fun hu c hc => ?_⟩
  · dsimp only
    rw [heq, hans.mem, Body.updSlot_mem, byte_saveContext _ _ _ _ (by rw [harea]; exact ha), hmem, Body.upset_byte]
  · dsimp only
    rw [heq, hans.slot, hwsave.slot_updSlot, slot_saveContext s.own b1 ⟨p, k⟩ _ (hw1.part_lt p) (hw1.slot_lt p k), hslot, hf]
  · dsimp only
    rw [heq, hans.core, Body.updSlot_core]
    exact ctx_saveContext s.own b1 ⟨p, k⟩ _ c
  · dsimp only
    have hc1 : b1.core c = s.body.core c := (hcore c).trans (s.body.upset_core found c)
    rw [heq, hans.core, Body.updSlot_core, core_saveContext s.own ⟨p, k⟩ _ (by rw [hmem]; exact hu) (by rw [hc1]; exact hc), hc1]

end

/-! ### When a restore ends -/

/-- A training context comes back: its SLOT's guest has left the cores (R272). -/
def Body.comesBack (b : Body) (p : Fin 8) (k : Fin 4) : Bool :=
  (b.slot p k).underGuest.any fun g => (b.slot p k).run == .preempted && b.guestGone p g

/-- What a restore reads of the save area. -/
def Body.restoreReads (o : Own) (b : Body) (p : Fin 8) (k : Fin 4) : List (Nat × Nat) :=
  if (b.slot p k).ctx = .saved then [b.savedArea o ⟨p, k⟩ (b.comesBack p k)] else []

section
variable {o : Own} {b : Body} {p : Fin 8} {k : Fin 4}

theorem comesBack_iff : b.comesBack p k = true ↔
    (b.slot p k).run = .preempted ∧ ∃ g, (b.slot p k).underGuest = some g ∧ b.guestGone p g = true := by
  rw [Body.comesBack, Option.any_eq_true]
  simp only [Bool.and_eq_true, beq_iff_eq]
  exact ⟨fun ⟨g, hg, hr, hgone⟩ => ⟨hr, g, hg, hgone⟩, fun ⟨hr, g, hg, hgone⟩ => ⟨g, hg, hr, hgone⟩⟩

/-- What a restore that ends makes of the slot's context, the training context coming back or not. -/
def Body.restored (o : Own) (b : Body) (p : Fin 8) (k : Fin 4) (back resuming : Bool) : Body :=
  if back then resumeRun o (restoreContext o b ⟨p, k⟩ true) p k
  else if resuming then resumeRun o (makeResident o b ⟨p, k⟩) p k
  else startRun (makeResident o b ⟨p, k⟩) p k

theorem restoreComplete_eq : restoreComplete o b p k =
    if !((b.slot p k).run == .restoring || b.comesBack p k) || !b.mayRestore o p k then b
    else (b.firstBad o (b.restoreReads o p k)).elim
      ((b.correctedIn o (b.restoreReads o p k)).restored o p k (b.comesBack p k) (b.slot p k).resuming) (b.stewardBad o p) := by
  have hreads : b.restoreReads o p k = if (b.slot p k).ctx = .saved then [b.savedArea o ⟨p, k⟩ (b.comesBack p k)] else [] := rfl
  generalize b.restoreReads o p k = reads at hreads
  generalize hc : b.comesBack p k = c at hreads
  unfold Body.comesBack at hc
  unfold restoreComplete
  dsimp only
  cases hg : (b.slot p k).underGuest with
  | none =>
    rw [hg, Option.any_none] at hc
    subst hc
    dsimp only
    rw [← hreads]
    refine if_congr Iff.rfl rfl ?_
    cases b.firstBad o reads <;> rfl
  | some g =>
    rw [hg, Option.any_some] at hc
    subst hc
    dsimp only
    rw [← hreads]
    refine if_congr Iff.rfl rfl ?_
    cases b.firstBad o reads <;> rfl

theorem comesBack_of_restoring (h : (b.slot p k).run = .restoring) : b.comesBack p k = false :=
  Bool.eq_false_iff.mpr fun hc => absurd (h.symm.trans (comesBack_iff.mp hc).1) (by decide)

theorem restoreComplete_waits (h : ((b.slot p k).run ≠ .restoring ∧ b.comesBack p k = false) ∨ b.mayRestore o p k = false) :
    restoreComplete o b p k = b := by
  rw [restoreComplete_eq]
  refine if_pos ?_
  rcases h with ⟨hr, hc⟩ | hm
  · simp [hr, hc]
  · simp [hm]

variable (hm : b.mayRestore o p k = true) (h : (b.slot p k).run = .restoring ∨ b.comesBack p k = true)
include hm h

theorem restoreComplete_ends : restoreComplete o b p k = (b.firstBad o (b.restoreReads o p k)).elim
    ((b.correctedIn o (b.restoreReads o p k)).restored o p k (b.comesBack p k) (b.slot p k).resuming) (b.stewardBad o p) := by
  rw [restoreComplete_eq]
  refine if_neg ?_
  rcases h with hr | hc
  · simp [hr, hm]
  · simp [hc, hm]

end

theorem execContextRestoreComplete_eq {s : State} {p : Fin 8} {k : Fin 4} {found : Found} (hcl : s.body.clocked = true) :
    exec (.contextRestoreComplete p ⟨k, found⟩) s = .next { s with body := restoreComplete s.own (s.body.upset found) p k } :=
  State.onBody_clocked (fun o b => restoreComplete o (b.upset found) p k) hcl

theorem Body.upset_comesBack (b : Body) (found : Found) (p : Fin 8) (k : Fin 4) : (b.upset found).comesBack p k = b.comesBack p k := by
  rw [Body.upset_eq]; rfl

end Sys2Proof.Machine

/-! PROOFS. Invocations: INVOKE and its end, PREEMPT and RESUME, save and restore (O44). -/

namespace Sys2Proof.Machine

open Sys2Proof

/-! ### The clauses of the statement -/

section
variable {s : State} {x : Xnx} {p : Fin 8} {k : Fin 4} (h : s.takesOn x p = true) (hlen : x.len = 0) (harg : x.arg0 = k.val)
include h hlen harg

/-- INVOKE of a slot that is empty, or busy with an invocation, or a guest's. -/
theorem execInvoke_turned : ((s.body.slot p k).loaded = false →
      exec (.invoke x) s = .next (s.answer s.own (s.commanded 0x0103 x) x stBounds 0 [])) ∧
    ((s.body.slot p k).loaded = true → ((s.body.slot p k).invoke.isSome = true ∨ (s.body.slot p k).guest.isSome = true) →
      exec (.invoke x) s = .next (s.answer s.own (s.commanded 0x0103 x) x stBusy 0 [])) ∧
    ((s.body.slot p k).loaded = true → ¬ ((s.body.slot p k).invoke.isSome = true ∨ (s.body.slot p k).guest.isSome = true) →
      (s.body.slot p k).hostSlot ≠ 0xFF → exec (.invoke x) s = .next (s.promise s.own
        ((s.commandedWith 0x0103 x).updSlot p k fun y => { y with guest := some (xTicket x) }) x)) := by
  have hx := page_of_takesOn h
  have hk := slotArg_of harg
  refine ⟨fun hl => ?_, fun hl hw => ?_, fun hl hw hh => ?_⟩
  · exact execInvoke_refused h hlen harg (invokeAct_empty hx hk (by simpa using hl))
  · exact execInvoke_refused h hlen harg (invokeAct_busy hx hk (by simpa using hl) (by simpa using hw))
  · exact execInvoke_pending h hlen harg (invokeAct_guest hx hk (by simpa using hl) (by simpa using hw) (by simpa using hh))

/-- INVOKE of a loaded slot whose cores another context holds, or whose almanac may not start. -/
theorem execInvoke_barred (hl : (s.body.slot p k).loaded = true)
    (hw : ¬ ((s.body.slot p k).invoke.isSome = true ∨ (s.body.slot p k).guest.isSome = true)) (hh : (s.body.slot p k).hostSlot = 0xFF) :
    (s.body.heldBy p k ≠ [] → exec (.invoke x) s = .next (s.answer s.own (s.commanded 0x0103 x) x stBusy 0 [])) ∧
    (s.body.heldBy p k = [] → startRefused s.own s.body p k = true →
      exec (.invoke x) s = .next (s.answer s.own (s.commanded 0x0103 x) x stBounds 0 [])) := by
  have hx := page_of_takesOn h
  have hk := slotArg_of harg
  refine ⟨fun hb => ?_, fun hb hr => ?_⟩
  · exact execInvoke_refused h hlen harg
      (invokeAct_held hx hk (by simpa using hl) (by simpa using hw) (by simpa using hh) (by simpa using hb))
  · exact execInvoke_refused h hlen harg
      (invokeAct_refused hx hk (by simpa using hl) (by simpa using hw) (by simpa using hh) (by simpa using hb) (by simpa using hr))

/-- PREEMPT of an invocation that runs, or whose comparison is held. -/
theorem execPreempt_runs (hw : Claims.slotsWhole s) (hl : (s.body.slot p k).loaded = true)
    (hr : (s.body.slot p k).run ∈ [RunState.running, .held]) : ∃ t, exec (.preempt x) s = .next t ∧ t.own = s.own ∧
      t.body.mem = (s.commandedWith 0x0104 x).mem ∧ (t.body.slot p k).run = .stopping ∧
      (t.body.slot p k).preempts = (s.body.slot p k).preempts ++ [xTicket x] ∧ (t.body.slot p k).invoke = (s.body.slot p k).invoke ∧
      (∀ q, ∀ j ∈ (t.body.quad q).rindQ ++ (t.body.quad q).xfQ ++ (t.body.quad q).udQ, j.ctx ≠ ⟨p, k⟩) ∧
      (∀ r ∈ (t.body.part p).collRuns, r.ctx = ⟨p, k⟩ → r.started = true) := by
  have hb := State.slotsWhole_commandedWith 0x0104 x hw
  have ha := preemptAct_runs (page_of_takesOn h) (slotArg_of harg) (o := s.own) (b := s.commandedWith 0x0104 x) (by simpa using hl)
    (by simpa using hr)
  have hgos : ((askStop (s.commandedWith 0x0104 x) p k).updSlot p k (Slot.joined x)).gos = [] := by
    rw [Body.updSlot_gos, askStop_jobsAlone]
    exact (s.commandedWith_gos 0x0104 x).trans (gos_of_takesOn h)
  have hslot : ((askStop (s.commandedWith 0x0104 x) p k).updSlot p k (Slot.joined x)).slot p k =
      ((s.body.slot p k).stopped ((s.commandedWith 0x0104 x).jobOrder ⟨p, k⟩)).joined x := by
    rw [(slotsWhole_askStop p k hb).slot_updSlot, slot_askStop p k hb, State.commandedWith_slot]
  have hans := Body.answered_respondPending ((askStop (s.commandedWith 0x0104 x) p k).updSlot p k (Slot.joined x)) (xTicket x)
  refine ⟨_, execPreempt_pending h hlen harg ha hgos, rfl, ?_, ?_, ?_, ?_, fun q j hj => ?_, fun r hr hx => ?_⟩
  · exact hans.mem.trans (askStop_mem _ p k)
  · exact congrArg Slot.run ((hans.slot p k).trans hslot)
  · exact congrArg Slot.preempts ((hans.slot p k).trans hslot)
  · exact (congrArg Slot.invoke ((hans.slot p k).trans hslot)).trans rfl
  · exact queues_askStop (s.commandedWith 0x0104 x) p k q hj
  · refine collRuns_askStop p k hb (r := r) ?_ hx
    rw [show (s.promise s.own _ x).body.part p = _ from hans.part p] at hr
    rwa [Body.updSlot, Body.field_updPart (g := Part.collRuns) p p (by intro y; rfl)] at hr

/-- PREEMPT that joins one under way, or asks for the save of an idle context. -/
theorem execPreempt_joins (hl : (s.body.slot p k).loaded = true) :
    (((s.body.slot p k).run ∈ [RunState.stopping, .saving, .restoring] ∨
        ((s.body.slot p k).run = .preempted ∧ (s.body.slot p k).underGuest.isSome = true)) →
      exec (.preempt x) s = .next (s.promise s.own ((s.commandedWith 0x0104 x).updSlot p k fun z =>
        { z with preempts := z.preempts ++ [xTicket x] }) x)) ∧
    ((s.body.slot p k).run = .idle → (s.body.slot p k).ctx = .resident →
      exec (.preempt x) s = .next (s.promise s.own ((s.commandedWith 0x0104 x).updSlot p k fun z =>
        { z with run := .saving, preempts := z.preempts ++ [xTicket x] }) x)) := by
  have hx := page_of_takesOn h
  have hk := slotArg_of harg
  have hgos : ∀ f, ((s.commandedWith 0x0104 x).updSlot p k f).gos = [] := fun f => (s.commandedWith_gos 0x0104 x).trans (gos_of_takesOn h)
  refine ⟨fun hr => ?_, fun hr hc => ?_⟩
  · exact execPreempt_pending h hlen harg (preemptAct_joins hx hk (by simpa using hl) (by simpa using hr)) (hgos _)
  · exact execPreempt_pending h hlen harg (preemptAct_idle hx hk (by simpa using hl) (by simpa using hr) (by simpa using hc)) (hgos _)

theorem execPreempt_nothing (hn : (s.body.slot p k).loaded = false ∨
      ((s.body.slot p k).run = .preempted ∧ (s.body.slot p k).underGuest = none) ∨
      ((s.body.slot p k).run = .idle ∧ (s.body.slot p k).ctx ≠ .resident)) :
    exec (.preempt x) s = .next (s.answer s.own (s.commandedWith 0x0104 x) x stOk 0 []) :=
  execPreempt_done h hlen harg (preemptAct_nothing (page_of_takesOn h) (slotArg_of harg) (by simpa using hn))

theorem execResume_nothing (hn : (s.body.slot p k).run ≠ .preempted ∨ (s.body.slot p k).underGuest.isSome = true) :
    exec (.resume x) s = .next (s.answer s.own (s.commandedWith 0x0105 x) x stOk 0 []) := by
  rw [execResume_eq h hlen harg, resumeAct_nothing (page_of_takesOn h) (slotArg_of harg) (by simpa using hn)]
  rfl

theorem execResume_preempted (hr : (s.body.slot p k).run = .preempted) (hg : (s.body.slot p k).underGuest = none) :
    (s.body.heldBy p k ≠ [] → exec (.resume x) s = .next (s.answer s.own (s.commanded 0x0105 x) x stBusy 0 [])) ∧
    (s.body.heldBy p k = [] → exec (.resume x) s = .next (s.answer s.own
      ((s.commandedWith 0x0105 x).updSlot p k fun z => { z with run := .restoring, resuming := true }) x stOk 0 [])) := by
  have hx := page_of_takesOn h
  have hk := slotArg_of harg
  refine ⟨fun hb => ?_, fun hb => ?_⟩
  · rw [execResume_eq h hlen harg, resumeAct_held hx hk (by simpa using hr) (by simpa using hg) (by simpa using hb)]
    rfl
  · rw [execResume_eq h hlen harg, resumeAct_resumes hx hk (by simpa using hr) (by simpa using hg) (by simpa using hb)]
    rfl

end

section
variable {s : State} {p : Fin 8} {k : Fin 4} {found : Found} (hcl : s.body.clocked = true)
include hcl

theorem execContextRestoreComplete_waits (h : ((s.body.slot p k).run ≠ .restoring ∧ s.body.comesBack p k = false) ∨
      s.body.mayRestore s.own p k = false) :
    exec (.contextRestoreComplete p ⟨k, found⟩) s = .next { s with body := s.body.upset found } := by
  rw [execContextRestoreComplete_eq hcl, restoreComplete_waits (by
    rw [Body.upset_slot, Body.upset_comesBack, Body.upset_mayRestore]; exact h)]

theorem execContextRestoreComplete_ends (hm : s.body.mayRestore s.own p k = true)
    (h : (s.body.slot p k).run = .restoring ∨ s.body.comesBack p k = true) :
    exec (.contextRestoreComplete p ⟨k, found⟩) s =
      .next { s with
        body := ((s.body.upset found).firstBad s.own (s.body.restoreReads s.own p k)).elim
          (((s.body.upset found).correctedIn s.own (s.body.restoreReads s.own p k)).restored s.own p k (s.body.comesBack p k)
            (s.body.slot p k).resuming)
          ((s.body.upset found).stewardBad s.own p) } := by
  have hreads : (s.body.upset found).restoreReads s.own p k = s.body.restoreReads s.own p k := by
    rw [Body.upset_eq]; rfl
  rw [execContextRestoreComplete_eq hcl, restoreComplete_ends (by rw [Body.upset_mayRestore]; exact hm) (by
    rw [Body.upset_slot, Body.upset_comesBack]; exact h), hreads, Body.upset_comesBack, Body.upset_slot]

omit hcl in
/-- What a restore that ends reads: the save area, the part of it that a training context left if it comes back. -/
theorem Body.restoreReads_of (h : (s.body.slot p k).run = .restoring ∨ s.body.comesBack p k = true) : s.body.restoreReads s.own p k =
    if (s.body.slot p k).ctx = .saved then [s.body.savedArea s.own ⟨p, k⟩ (decide ((s.body.slot p k).run = .preempted))] else [] := by
  have hback : s.body.comesBack p k = decide ((s.body.slot p k).run = .preempted) := by
    rcases h with hr | hc
    · rw [comesBack_of_restoring hr, hr]
      rfl
    · rw [hc, (comesBack_iff.mp hc).1]
      rfl
  rw [Body.restoreReads, hback]

end

/-- Settles O44: each outcome of a command's rule by the branch it takes, each end by what its operation leaves of cores, slot and memory. -/
theorem invocations : Obligations.Invocations := by
  unfold Obligations.Invocations
  refine ⟨fun s x p k h hlen harg hw => ?_, fun s p k hcl => ⟨fun hn => execInvocationComplete_idle hn, fun hr he hw => ?_⟩,
    fun s x p k h hlen harg hw => ?_, fun s p k found hw hcl => ?_, fun s p k found hcl => ?_⟩
  · obtain ⟨hempty, hbusy, hguest⟩ := execInvoke_turned h hlen harg
    refine ⟨hempty, hbusy, hguest, fun hl hfree hh => (execInvoke_barred h hlen harg hl hfree hh).1, fun hl hfree hh hheld =>
      ⟨(execInvoke_barred h hlen harg hl hfree hh).2 hheld, fun hmay => ⟨?_, ?_, ?_, ?_⟩⟩⟩
    · exact execInvoke_saving h hlen harg hl hfree hh hheld hmay
    · intro hs hc hp
      obtain ⟨t, ⟨hnext, hown, hinvoke, hrun, hevents, hswaps, hdec, hpart⟩, hcores, hothers, hbytes⟩ :=
        execInvoke_resident h hlen harg hw hl hfree hh hheld hmay hs hp hc
      exact ⟨t, ⟨hnext, hown, hinvoke, hrun, hevents, hswaps, hdec, hpart⟩, hcores, hothers, hbytes⟩
    · intro hs hc hr hz hp hcores
      obtain ⟨t, ⟨hnext, hown, hinvoke, hrun, hevents, hswaps, hdec, hpart⟩, hres, htaken, hbytes⟩ :=
        execInvoke_unrun h hlen harg hw hl hfree hh hheld hmay hs hp hc hr hz hcores
      exact ⟨t, ⟨hnext, hown, hinvoke, hrun, hevents, hswaps, hdec, hpart⟩, hres, htaken, hbytes⟩
    · exact execInvoke_restoring h hlen harg hl hfree hh hheld hmay
  · obtain ⟨t, hnext, hown, hmem, hcores, hothers, hslot, hresp⟩ := execInvocationComplete_ends hcl hr he hw
    exact ⟨t, hnext, hown, hmem, hcores, hothers, by rw [hslot]; rfl, by rw [hslot]; rfl, hresp⟩
  · exact ⟨execPreempt_runs h hlen harg hw, fun hl => (execPreempt_joins h hlen harg hl).1, fun hl => (execPreempt_joins h hlen harg hl).2,
      execPreempt_nothing h hlen harg, execResume_nothing h hlen harg, execResume_preempted h hlen harg⟩
  · refine ⟨execContextSaveComplete_unready hcl, fun hready => ?_⟩
    obtain ⟨t, hnext, hown, hbytes, ⟨img, hslot⟩, hcores, hothers⟩ := execContextSaveComplete_ready (found := found) hcl hready hw
    refine ⟨t, hnext, hown, hbytes, by rw [hslot]; rfl, ?_, hcores, ?_, ?_, ?_, ?_, hothers⟩
    · rw [hslot]
      exact Slot.preempts_saveEnds _
    · rw [hslot]
      exact Slot.invoke_saveEnds _
    · rw [hslot]
      exact Slot.run_saveEnds _
    · rintro ⟨hr, hg, hp⟩
      rw [hslot]
      exact Slot.underGuest_saveEnds_forGuest (Slot.forGuest_iff.mpr ⟨hr, hg, hp⟩)
    · intro hr hn
      rw [hslot]
      exact Slot.underGuest_saveEnds hr fun hg => hn (Slot.forGuest_iff.mp hg)
  · have hback : ((s.body.slot p k).run = .preempted ∧ ∃ g, (s.body.slot p k).underGuest = some g ∧ s.body.guestGone p g = true) ↔
        s.body.comesBack p k = true := comesBack_iff.symm
    refine ⟨fun hn => execContextRestoreComplete_waits hcl ?_, fun hm hr => ?_⟩
    · rwa [hback, Bool.not_eq_true] at hn
    · rw [hback] at hr
      have hends := execContextRestoreComplete_ends (found := found) hcl hm hr
      rw [Body.restoreReads_of hr] at hends
      refine ⟨fun w hw => by rw [hends, hw]; rfl, fun hread => ?_⟩
      rw [hread, Option.elim_none] at hends
      refine ⟨fun hb => ?_, fun hrun hres => ?_, fun hrun hres => ?_⟩
      · rw [hends, hback.mp hb]
        rfl
      · rw [hends, hres, comesBack_of_restoring hrun]
        rfl
      · rw [hends, hres, comesBack_of_restoring hrun]
        rfl

end Sys2Proof.Machine

/-! PROOFS. An event record: what appending one to a partition's queue changes (R408, R410, R411). -/

namespace Sys2Proof.Machine

open Sys2Proof

/-- A partition once a record is due at its event queue: the queue takes it, or, full, counts it as lost. -/
def Part.recorded (y : Part) (r : EventRec) : Part :=
  if y.events.length ≥ 1024 then { y with lost := satAdd y.lost 1 } else { y with events := y.events ++ [r] }

theorem Part.recorded_slots (y : Part) (r : EventRec) : (y.recorded r).slots = y.slots := by
  unfold Part.recorded
  split <;> rfl

theorem Part.recorded_events {y : Part} (r : EventRec) (h : y.events.length < 1024) : (y.recorded r).events = y.events ++ [r] := by
  unfold Part.recorded
  rw [if_neg (Nat.not_le.mpr h)]

theorem Body.updPart_congr {b : Body} {p : Fin 8} {f g : Part → Part} (h : f (b.part p) = g (b.part p)) : b.updPart p f = b.updPart p g := by
  unfold Body.updPart
  have hl : b.parts.modify p.val f = b.parts.modify p.val g := by
    refine List.ext_getElem? fun n => ?_
    simp only [List.getElem?_modify]
    split
    · next hn =>
      subst hn
      cases hy : b.parts[p.val]? with
      | none => rfl
      | some y =>
        unfold Body.part at h
        rw [List.getD_eq_getElem?_getD, hy] at h
        exact congrArg some h
    · rfl
  rw [hl]

section
variable (o : Own) (b : Body) (p : Fin 8) (r : EventRec)

/-- Beside the queue, an event record changes only what its vector does. -/
theorem Body.fired_appendEvent : (b.updPart p (·.recorded r)).fired (b.appendEvent o p r) := by
  unfold Body.appendEvent
  extract_lets evs b'
  split
  · next h =>
    have hr : b.updPart p (·.recorded r) = b.updPart p fun x => { x with lost := satAdd x.lost 1 } := Body.updPart_congr (if_pos h)
    rw [hr]
    rfl
  · next h =>
    have hr : b.updPart p (·.recorded r) = b' := Body.updPart_congr (if_neg h)
    rw [hr]
    split
    · exact Body.fired_firePart o b' _ _
    · rfl

theorem Body.part_appendEvent_self (hp : p.val < b.parts.length) : (b.appendEvent o p r).part p = (b.part p).recorded r :=
  ((b.fired_appendEvent o p r).answered.part p).trans (b.part_updPart p _ hp)

theorem Body.core_appendEvent (c : Fin 32) : (b.appendEvent o p r).core c = b.core c :=
  (b.fired_appendEvent o p r).answered.core c

theorem Body.slot_appendEvent (q : Fin 8) (k : Fin 4) : (b.appendEvent o p r).slot q k = b.slot q k := by
  refine ((b.fired_appendEvent o p r).answered.slot q k).trans ?_
  unfold Body.slot
  rcases b.part_updPart_or p q (·.recorded r) with hq | ⟨-, hq⟩
  · rw [hq]
  · rw [hq, Part.recorded_slots]

end

end Sys2Proof.Machine

/-! PROOFS. What a core's sequencer issues: when an entry waits for its reads, and WAIT, SIGNAL and END at issue (R11, R99, R125, R126, R133, R216,
R226, R437). -/

namespace Sys2Proof.Machine

open Sys2Proof

/-! ### The commands that issue an entry -/

/-- The command issues the next entry of a core, of a kind: its own effect is nothing where no such entry is next. -/
structure IssuesAs (cmd : Instr) (c : Fin 32) (kind : Nat) (f : Own → Body → Body) : Prop where
  exec_eq : ∀ s, exec cmd s = s.onBody fun o b => b.issuing o c (f o)
  noEntry : ∀ o b, b.nextAe c kind = none → f o b = b

section
variable (c : Fin 32)

theorem issuesAs_wait : IssuesAs (.wait c) c kWait fun _ b => waitIssue b c :=
  ⟨fun _ => rfl, fun _ b h => by unfold waitIssue; rw [h]⟩

theorem issuesAs_signal : IssuesAs (.signal c) c kSignal fun _ b => signalIssue b c :=
  ⟨fun _ => rfl, fun _ b h => by unfold signalIssue; rw [h]⟩

theorem issuesAs_btCommitEntry : IssuesAs (.btCommitEntry c) c kBtCommit fun o b => btCommitIssue o b c :=
  ⟨fun _ => rfl, fun _ b h => by unfold btCommitIssue; rw [h]⟩

theorem issuesAs_slot : IssuesAs (.slot c) c kSlot fun o b => slotIssue o b c :=
  ⟨fun _ => rfl, fun _ b h => by unfold slotIssue; rw [h]⟩

theorem issuesAs_end : IssuesAs (.end_ c) c kEnd fun _ b => endIssue b c :=
  ⟨fun _ => rfl, fun _ b h => by unfold endIssue; rw [h]⟩

theorem issuesAs_tile : IssuesAs (.tile c []) c kTile fun o b => tileIssue o b c :=
  ⟨fun _ => rfl, fun _ b h => by unfold tileIssue; rw [h]⟩

theorem issuesAs_vec : IssuesAs (.vec c []) c kVec fun o b => vecIssue o b c :=
  ⟨fun _ => rfl, fun _ b h => by unfold vecIssue; rw [h]⟩

theorem issuesAs_xform : IssuesAs (.xform c) c kXform fun _ b => xformIssue b c :=
  ⟨fun _ => rfl, fun _ b h => by unfold xformIssue; rw [h]⟩

theorem issuesAs_upd : IssuesAs (.upd c) c kUpd fun _ b => updIssue b c :=
  ⟨fun _ => rfl, fun _ b h => by unfold updIssue; rw [h]⟩

theorem issuesAs_coll : IssuesAs (.coll c) c kColl fun _ b => collIssue b c :=
  ⟨fun _ => rfl, fun _ b h => by unfold collIssue; rw [h]⟩

theorem issuesAs_media : IssuesAs (.media c) c kMedia fun o b => mediaGo o b c :=
  ⟨fun _ => rfl, fun _ b h => by unfold mediaGo; rw [h]⟩

/-- Each command of the statement's list issues entries of its kind. -/
theorem exists_issuesAs {cmd : Instr} {kind : Nat} (h : (cmd, kind) ∈ [(Instr.wait c, kWait), (.signal c, kSignal),
      (.btCommitEntry c, kBtCommit), (.slot c, kSlot), (.end_ c, kEnd), (.tile c [], kTile), (.vec c [], kVec), (.xform c, kXform),
      (.upd c, kUpd), (.coll c, kColl), (.media c, kMedia)]) : ∃ f, IssuesAs cmd c kind f := by
  simp only [List.mem_cons, List.not_mem_nil, or_false, Prod.mk.injEq] at h
  rcases h with ⟨rfl, rfl⟩ | ⟨rfl, rfl⟩ | ⟨rfl, rfl⟩ | ⟨rfl, rfl⟩ | ⟨rfl, rfl⟩ | ⟨rfl, rfl⟩ | ⟨rfl, rfl⟩ | ⟨rfl, rfl⟩ | ⟨rfl, rfl⟩ |
    ⟨rfl, rfl⟩ | ⟨rfl, rfl⟩
  exacts [⟨_, issuesAs_wait c⟩, ⟨_, issuesAs_signal c⟩, ⟨_, issuesAs_btCommitEntry c⟩, ⟨_, issuesAs_slot c⟩, ⟨_, issuesAs_end c⟩,
    ⟨_, issuesAs_tile c⟩, ⟨_, issuesAs_vec c⟩, ⟨_, issuesAs_xform c⟩, ⟨_, issuesAs_upd c⟩, ⟨_, issuesAs_coll c⟩, ⟨_, issuesAs_media c⟩]

end

section
variable {b : Body} {o : Own} {c : Fin 32} {f : Body → Body}

/-- Reads that their stack holds back hold the entry up (R226). -/
theorem Body.issuing_held (h : b.flows o (b.fetchReads o c) = false) : b.issuing o c f = b := by
  unfold Body.issuing
  dsimp only
  rw [h]
  rfl

/-- A read that meets an uncorrectable error is the store's fault (R437). -/
theorem Body.issuing_bad {x : CtxId} {w : Nat} (h : b.flows o (b.fetchReads o c) = true) (hx : b.holds c = some x)
    (hw : b.firstBad o (b.fetchReads o c) = some w) : b.issuing o c f = b.readBad o (entryOf x c (b.core c).cx.aeIdx.toNat) w := by
  unfold Body.issuing
  dsimp only
  rw [h, hx, hw]
  rfl

theorem Body.issuing_nothing (h : b.flows o (b.fetchReads o c) = true) (hw : b.firstBad o (b.fetchReads o c) = none)
    (hf : f b = b) : b.issuing o c f = b := by
  unfold Body.issuing
  dsimp only
  rw [h, hw, hf]
  cases b.holds c <;> exact if_pos rfl

end

section
variable {cmd : Instr} {c : Fin 32} {kind : Nat} {f : Own → Body → Body} (hi : IssuesAs cmd c kind f) {s : State}
include hi

theorem IssuesAs.held (h : s.body.flows s.own (s.body.fetchReads s.own c) = false) : exec cmd s = .next s :=
  (hi.exec_eq s).trans (State.onBody_same (Body.issuing_held h))

theorem IssuesAs.bad (hcl : s.body.clocked = true) {x : CtxId} {w : Nat} (h : s.body.flows s.own (s.body.fetchReads s.own c) = true)
    (hx : s.body.holds c = some x) (hw : s.body.firstBad s.own (s.body.fetchReads s.own c) = some w) :
    exec cmd s = .next { s with body := s.body.readBad s.own (entryOf x c (s.body.core c).cx.aeIdx.toNat) w } := by
  rw [hi.exec_eq, State.onBody_clocked _ hcl, Body.issuing_bad h hx hw]

theorem IssuesAs.nothing (h : s.body.flows s.own (s.body.fetchReads s.own c) = true)
    (hw : s.body.firstBad s.own (s.body.fetchReads s.own c) = none) (hn : s.body.nextAe c kind = none) : exec cmd s = .next s :=
  (hi.exec_eq s).trans (State.onBody_same (Body.issuing_nothing h hw (hi.noEntry s.own s.body hn)))

variable (hf : Claims.fetched s c)
include hf

/-- An entry that leaves the body leaves the state. -/
theorem IssuesAs.same (ht : f s.own s.body = s.body) : exec cmd s = .next s :=
  (hi.exec_eq s).trans (State.onBody_same (Body.issuing_idle hf ht))

/-- An entry that leaves memory: its effect on a body, and beside it what its sequencer's reads count. -/
theorem IssuesAs.issues {t : Body} (ht : f s.own s.body = t) (hmem : t.mem = s.body.mem) :
    ∃ u, exec cmd s = .next { s with body := u } ∧ t.readAlone u := by
  refine ⟨_, (hi.exec_eq s).trans (State.onBody_clocked _ hf.1), ?_⟩
  have h := Body.issuing_alone (f := f s.own) hf ((congrArg Body.mem ht).trans hmem)
  rwa [ht] at h

/-- An entry that changes its core's context and goes: its effect, and what its sequencer's reads count. -/
theorem IssuesAs.goes (hc : c.val < s.body.cores.length) {g : CoreCtx → CoreCtx} (ht : f s.own s.body = s.body.updCx c g)
    (hk : (g (s.body.core c).cx).aeIdx = (s.body.core c).cx.aeIdx + 1) :
    exec cmd s = .next { s with body := (s.body.updCx c g).stewardRead s.own (s.body.fetchReads s.own c) } := by
  have hne : ((s.body.updCx c g).core c).cx.aeIdx ≠ (s.body.core c).cx.aeIdx := by
    rw [s.body.core_updCx c g hc, hk]
    bv_omega
  rw [hi.exec_eq, State.onBody_clocked _ hf.1, Body.issuing_fetched hf, ht, if_neg hne]

end

/-- What an entry that only its own reads follow shows of cores and slots. -/
theorem Body.core_of_readAlone {t u : Body} (h : t.readAlone u) (c : Fin 32) : u.core c = t.core c := by
  unfold Body.core
  rw [(Body.eqs_of_readAlone h).2.1]

theorem Body.slot_of_readAlone {t u : Body} (h : t.readAlone u) (p : Fin 8) (k : Fin 4) : u.slot p k = t.slot p k :=
  slot_of_parts (Body.eqs_of_readAlone h).2.2.1 p k

/-! ### WAIT and its release -/

section
variable {s : State} {c : Fin 32} {x : CtxId}

/-- A core's context once a WAIT blocks it. -/
def CoreCtx.block (k : CoreCtx) (e : Ae) : CoreCtx :=
  { k.advance with waiting := some { Launched.new k e with ref := e.arg }, fabSeen := false }

section
variable {e : Ae} (hf : Claims.fetched s c) (hn : s.body.nextAe c kWait = some (x, e))
include hf hn

theorem execWait_passes (h : e.arg ≤ (s.body.slot x.part x.slot).count e.evt) : exec (.wait c) s =
    .next { s with body := (s.body.updCx c fun k => { k with aeIdx := k.aeIdx + 1 }).stewardRead s.own (s.body.fetchReads s.own c) } := by
  refine (issuesAs_wait c).goes hf (Body.core_of_nextAe hn).1 ?_ rfl
  unfold waitIssue
  rw [hn]
  simp only [h, if_true]
  rfl

theorem execWait_blocks (h : (s.body.slot x.part x.slot).count e.evt < e.arg) : ∃ t, exec (.wait c) s = .next t ∧ Claims.quiet s t ∧
    t.body.mem = s.body.mem ∧ t.body.parts = s.body.parts ∧ (t.body.core c).cx = (s.body.core c).cx.block e := by
  have hissue : waitIssue s.body c = s.body.updCx c (·.block e) := by
    unfold waitIssue
    rw [hn]
    simp only [Nat.not_le.mpr h, if_false]
    rfl
  obtain ⟨u, hexec, hread⟩ := (issuesAs_wait c).issues hf hissue rfl
  obtain ⟨hinner, -, hparts, hmem⟩ := Body.eqs_of_readAlone hread
  refine ⟨_, hexec, Claims.quiet_of_inner hinner, hmem, hparts, ?_⟩
  dsimp only
  rw [Body.core_of_readAlone hread, s.body.core_updCx c _ (Body.core_of_nextAe hn).1]

end

theorem waitRelease_none (h : s.body.holds c = none ∨ (s.body.core c).cx.waiting = none) : waitRelease s.body c = s.body := by
  unfold waitRelease
  rcases h with h | h
  · rw [h]
  · rw [h]
    cases s.body.holds c <;> rfl

section
variable {w : Launched} (hx : s.body.holds c = some x) (hw : (s.body.core c).cx.waiting = some w)
include hx hw

theorem waitRelease_of : waitRelease s.body c =
    if (s.body.slot x.part x.slot).run = .running ∧ w.ref ≤ (s.body.slot x.part x.slot).count w.evt.toNat then
      s.body.updCx c fun k => { k with waiting := none } else s.body := by
  unfold waitRelease
  rw [hx, hw]

theorem execWaitRelease_releases (hcl : s.body.clocked = true) (hr : (s.body.slot x.part x.slot).run = .running)
    (he : w.ref ≤ (s.body.slot x.part x.slot).count w.evt.toNat) :
    exec (.waitRelease c) s = .next { s with body := s.body.updCx c fun k => { k with waiting := none } } := by
  refine (State.onBody_clocked (fun _ b => waitRelease b c) hcl).trans ?_
  rw [waitRelease_of hx hw, if_pos ⟨hr, he⟩]

theorem execWaitRelease_stays (h : (s.body.slot x.part x.slot).run ≠ .running ∨ (s.body.slot x.part x.slot).count w.evt.toNat < w.ref) :
    exec (.waitRelease c) s = .next s := by
  refine State.onBody_same (f := fun _ b => waitRelease b c) ((waitRelease_of hx hw).trans (if_neg ?_))
  rintro ⟨hr, he⟩
  rcases h with h | h
  · exact h hr
  · exact Nat.not_le.mpr h he

end

/-! ### SIGNAL and END at issue -/

section
variable {e : Ae} (hf : Claims.fetched s c)
include hf

theorem execSignal_counts (hn : s.body.nextAe c kSignal = some (x, e)) : ∃ t, exec (.signal c) s = .next t ∧ Claims.quiet s t ∧
    t.body.mem = s.body.mem ∧ Claims.counts s t x e.evt ∧
    (t.body.core c).cx = { (s.body.core c).cx with aeIdx := (s.body.core c).cx.aeIdx + 1 } ∧ ∀ d, d ≠ c → t.body.core d = s.body.core d := by
  have hissue : signalIssue s.body c = (s.body.updCx c CoreCtx.advance).updSlot x.part x.slot (·.event e.evt) := by
    unfold signalIssue
    rw [hn]
  obtain ⟨hp, hk⟩ := Body.slot_lt_of_running (Body.running_of_nextAe hn)
  obtain ⟨u, hexec, hread⟩ := (issuesAs_signal c).issues hf hissue rfl
  obtain ⟨hinner, -, -, hmem⟩ := Body.eqs_of_readAlone hread
  refine ⟨_, hexec, Claims.quiet_of_inner hinner, hmem, Claims.counts_of_event ?_, ?_, fun d hd => ?_⟩
  · exact (Body.slot_of_readAlone hread _ _).trans ((s.body.updCx c CoreCtx.advance).slot_updSlot _ _ _ hp hk)
  · dsimp only
    rw [Body.core_of_readAlone hread, Body.updSlot_core, s.body.core_updCx c _ (Body.core_of_nextAe hn).1]
    rfl
  · dsimp only
    rw [Body.core_of_readAlone hread, Body.updSlot_core, s.body.core_updCx_ne c d _ hd]

theorem execEnd_issued (hn : s.body.nextAe c kEnd = some (x, e)) : exec (.end_ c) s =
    .next { s with body := (s.body.updCx c fun k => { k with aeIdx := k.aeIdx + 1 }).stewardRead s.own (s.body.fetchReads s.own c) } := by
  refine (issuesAs_end c).goes hf (Body.core_of_nextAe hn).1 ?_ rfl
  unfold endIssue
  rw [hn]
  rfl

end

end

end Sys2Proof.Machine

/-! PROOFS. The BT_COMMIT entry of a sequencer: the walk that passes, the pending swap and the walk that fails (R117, R118, R120, R125). -/

namespace Sys2Proof.Machine

open Sys2Proof

/-! ### A slot's states of lists -/

theorem Slot.bts_event (y : Slot) (e : Nat) : (y.event e).bts = y.bts := by
  unfold Slot.event
  split <;> rfl

theorem Slot.bt_event (y : Slot) (e id : Nat) : (y.event e).bt id = y.bt id := by
  unfold Slot.bt
  rw [y.bts_event]

theorem Slot.updBt_event (y : Slot) (id : Nat) (f : BtList → BtList) (e : Nat) : (y.updBt id f).event e = (y.event e).updBt id f := by
  unfold Slot.event
  split <;> rfl

theorem Slot.count_updBt (y : Slot) (id : Nat) (f : BtList → BtList) (e : Nat) : (y.updBt id f).count e = y.count e := rfl

theorem Slot.bt_updBt {y : Slot} {id : Nat} {f : BtList → BtList} (hf : ∀ l, (f l).id = l.id) (h : y.bts.any (·.id == id) = true) :
    (y.updBt id f).bt id = f (y.bt id) := by
  have hsame : ((fun l : BtList => l.id == id) ∘ fun l => if l.id = id then f l else l) = fun l => l.id == id := by
    funext l
    by_cases hl : l.id = id <;> simp [hl, hf]
  have hsome : ∃ l, y.bts.find? (·.id == id) = some l := by
    rw [← Option.isSome_iff_exists, List.find?_isSome]
    simpa using h
  obtain ⟨l, hl⟩ := hsome
  have hid : l.id = id := eq_of_beq (List.find?_some (p := fun (l : BtList) => l.id == id) hl)
  unfold Slot.bt Slot.updBt
  dsimp only
  rw [List.find?_map, hsame, hl]
  exact if_pos hid

/-! ### A commit that has been issued -/

theorem btUnread_sound {o : Own} {m : Mem} (h : m.sound = true) (at_ : Nat) (l : List Nat) : btUnread o m at_ l = none := by
  obtain ⟨hp, hu⟩ := Mem.sound_iff.mp h
  refine List.findSome?_eq_none_iff.mpr fun i _ => ?_
  have hnone : m.firstBad (wordSize o.maps (at_ + 16 * i)) (at_ + 16 * i) 16 = none := by
    rw [Mem.firstBad_eq_none_iff]
    simp [Mem.badWords, hp, hu]
  simp only [hnone]
  rfl

section
variable {o : Own} {b : Body} {x : CtxId} {c : Fin 32} {r : BtRec} {idx : Nat} (hs : b.mem.sound = true)
include hs

theorem btCommitRun_swaps (h : ((b.slot x.part x.slot).bt r.id).swap = true ∨
      btWalk b.mem r (r.inactive ((b.slot x.part x.slot).bt r.id)) r.maxEnt 0 = none) :
    btCommitRun o b x c r idx = (b.updSlot x.part x.slot (·.updBt r.id BtList.swapped)).complete x c idx := by
  unfold btCommitRun
  extract_lets l swapNow at_ reached b1
  by_cases hl : l.swap = true
  · exact if_pos hl
  · refine (if_neg hl).trans ?_
    rw [btUnread_sound hs, h.resolve_left hl]
    exact congrArg swapNow (Body.correctedIn_sound _ hs)

theorem btCommitRun_fails {i : Nat} (hl : ((b.slot x.part x.slot).bt r.id).swap = false)
    (h : btWalk b.mem r (r.inactive ((b.slot x.part x.slot).bt r.id)) r.maxEnt 0 = some i) :
    btCommitRun o b x c r idx = (btFailed o b x c r.id i).complete x c idx := by
  unfold btCommitRun
  extract_lets l swapNow at_ reached b1
  refine (if_neg (by rw [hl]; decide)).trans ?_
  rw [btUnread_sound hs, h]
  exact congrArg (fun b => (btFailed o b x c r.id i).complete x c idx) (Body.correctedIn_sound _ hs)

end

/-- The body once a failed walk has emptied a core's list and marked its BTREF. -/
def Body.btEmptied (b : Body) (x : CtxId) (c : Fin 32) (id : Nat) : Body :=
  (b.updSlot x.part x.slot (·.updBt id fun l => { l with empty := true })).updCx c fun k => { k with btref := true }

theorem btFailed_eq (o : Own) (b : Body) (x : CtxId) (c : Fin 32) (id i : Nat) : btFailed o b x c id i =
    (b.btEmptied x c id).appendEvent o x.part (faultRecord 2 stBounds (0, c.val) (id * 2 ^ 32 + i) b.fab.time) := rfl

theorem Body.core_btEmptied {b : Body} {c : Fin 32} (x : CtxId) (id : Nat) (hc : c.val < b.cores.length) :
    (b.btEmptied x c id).core c = { b.core c with cx := { (b.core c).cx with btref := true } } :=
  (b.updSlot x.part x.slot _).core_updCx c _ hc

/-! ### The completion of an entry that was launched just before -/

section
variable {b t : Body} {c : Fin 32} {e : Ae} {k : CoreCtx} (x : CtxId) (hn : ∀ l ∈ k.launched, l.idx ≠ k.aeIdx.toNat)
  (hl : (t.core c).cx.launched = (k.launch e).launched)
include hn hl

theorem Body.complete_launched (hevt : e.evt < 256) : t.complete x c k.aeIdx.toNat =
    (t.updCx c (·.withdraw k.aeIdx.toNat)).updSlot x.part x.slot (·.event e.evt) := by
  have hnone : k.launched.find? (·.idx == k.aeIdx.toNat) = none := List.find?_eq_none.mpr fun l hm => by simpa using hn l hm
  refine (Body.complete_of_find (l := Launched.new k e) ?_).trans ?_
  · rw [hl]
    simp [CoreCtx.launch, hnone, Launched.new]
  · rw [Launched.new, BitVec.toNat_ofNat, Nat.mod_eq_of_lt hevt]

theorem CoreCtx.launched_withdraw : ((t.core c).cx.withdraw k.aeIdx.toNat).launched = k.launched := by
  have hold : k.launched.filter (fun m => m.idx != k.aeIdx.toNat) = k.launched :=
    List.filter_eq_self.mpr fun l hm => bne_iff_ne.mpr (hn l hm)
  unfold CoreCtx.withdraw
  dsimp only
  rw [hl]
  simp [CoreCtx.launch, hold, Launched.new]

end

/-! ### The command -/

section
variable {s : State} {c : Fin 32} {x : CtxId} {e : Ae} (hf : Claims.fetched s c) (hn : s.body.nextAe c kBtCommit = some (x, e))
include hf hn

theorem execBtCommitEntry_full (h : s.body.mayLaunch c = false) : exec (.btCommitEntry c) s = .next s := by
  refine (issuesAs_btCommitEntry c).same hf ?_
  unfold btCommitIssue
  rw [hn]
  exact if_pos (by rw [h]; rfl)

variable (hm : s.body.mayLaunch c = true) (hi : ∀ l ∈ (s.body.core c).cx.launched, l.idx ≠ (s.body.core c).cx.aeIdx.toNat)
  (hevt : e.evt < 256) {r : BtRec} (hr : btFind (s.body.imageOf x) e.arg = some r)
  (hany : (s.body.slot x.part x.slot).bts.any (·.id == r.id) = true)
include hm hr

omit hf in
theorem btCommitIssue_runs : btCommitIssue s.own s.body c =
    btCommitRun s.own (s.body.updCx c (·.launch e)) x c r (s.body.core c).cx.aeIdx.toNat := by
  unfold btCommitIssue
  rw [hn]
  dsimp only
  rw [hm, hr]
  rfl

include hi hevt hany

/-- A commit whose list has been changed, and whose entry completes: its event is counted, and its core goes on. -/
theorem execBtCommitEntry_completes {t : Body} {g : BtList → BtList} (hg : ∀ l, (g l).id = l.id) (hc : c.val < t.cores.length)
    (ht : btCommitRun s.own (s.body.updCx c (·.launch e)) x c r (s.body.core c).cx.aeIdx.toNat =
      t.complete x c (s.body.core c).cx.aeIdx.toNat)
    (hl : (t.core c).cx.launched = ((s.body.core c).cx.launch e).launched) (hmem : t.mem = s.body.mem)
    (hslot : t.slot x.part x.slot = (s.body.slot x.part x.slot).updBt r.id g) :
    ∃ u, exec (.btCommitEntry c) s = .next { s with body := u } ∧ (t.complete x c (s.body.core c).cx.aeIdx.toNat).readAlone u ∧
      u.mem = s.body.mem ∧ Claims.counts s { s with body := u } x e.evt ∧
      (u.core c).cx = (t.core c).cx.withdraw (s.body.core c).cx.aeIdx.toNat ∧ (u.core c).cx.launched = (s.body.core c).cx.launched ∧
      (u.slot x.part x.slot).bt r.id = g ((s.body.slot x.part x.slot).bt r.id) ∧
      (u.part x.part).events = (t.part x.part).events := by
  have hdone := Body.complete_launched x hi hl hevt
  obtain ⟨u, hexec, hread⟩ := (issuesAs_btCommitEntry c).issues hf ((btCommitIssue_runs hn hm hr).trans ht)
    ((congrArg Body.mem hdone).trans hmem)
  obtain ⟨-, -, -, hread_mem⟩ := Body.eqs_of_readAlone hread
  obtain ⟨hp, hk⟩ := Body.slot_lt_of_running (b := t) (by rw [hslot]; exact Body.running_of_nextAe hn)
  have hend : u.slot x.part x.slot = ((s.body.slot x.part x.slot).event e.evt).updBt r.id g := by
    rw [Body.slot_of_readAlone hread, hdone, (t.updCx c _).slot_updSlot _ _ _ hp hk, ← Slot.updBt_event]
    exact congrArg (·.event e.evt) hslot
  have hcx : (u.core c).cx = (t.core c).cx.withdraw (s.body.core c).cx.aeIdx.toNat := by
    rw [Body.core_of_readAlone hread, hdone, Body.updSlot_core, t.core_updCx c _ hc]
  refine ⟨u, hexec, hread, ?_, fun n => ?_, hcx, ?_, ?_, ?_⟩
  · rw [hread_mem, hdone]
    exact hmem
  · dsimp only
    rw [hend, Slot.count_updBt, Slot.count_event]
  · rw [hcx, CoreCtx.launched_withdraw hi hl]
  · rw [hend, Slot.bt_updBt hg ((congrArg (List.any · _) (Slot.bts_event _ _)).trans hany), Slot.bt_event]
  · unfold Body.part
    rw [(Body.eqs_of_readAlone hread).2.2.1, hdone]
    exact Body.field_updPart (g := Part.events) _ _ (by intro _; rfl)

variable (hs : s.body.mem.sound = true)
include hs

theorem execBtCommitEntry_swaps (h : ((s.body.slot x.part x.slot).bt r.id).swap = true ∨
      btWalk s.body.mem r (r.inactive ((s.body.slot x.part x.slot).bt r.id)) r.maxEnt 0 = none) :
    ∃ t, exec (.btCommitEntry c) s = .next t ∧ t.own = s.own ∧ t.body.mem = s.body.mem ∧ Claims.counts s t x e.evt ∧
      (t.body.core c).cx.aeIdx = (s.body.core c).cx.aeIdx + 1 ∧ (t.body.core c).cx.launched = (s.body.core c).cx.launched ∧
      Claims.quiet s t ∧ (t.body.slot x.part x.slot).bt r.id =
        ⟨((s.body.slot x.part x.slot).bt r.id).id, !((s.body.slot x.part x.slot).bt r.id).slot1, false, false⟩ ∧
      (t.body.core c).cx.btref = (s.body.core c).cx.btref := by
  obtain ⟨hc, -⟩ := Body.core_of_nextAe hn
  obtain ⟨hp, hk⟩ := Body.slot_lt_of_running (Body.running_of_nextAe hn)
  have hcx := congrArg Core.cx (s.body.core_updCx c (·.launch e) hc)
  obtain ⟨u, hexec, hread, hmem, hcount, hend, hlaunched, hbt, -⟩ := execBtCommitEntry_completes (g := BtList.swapped)
    (t := (s.body.updCx c (·.launch e)).updSlot x.part x.slot (·.updBt r.id BtList.swapped)) hf hn hm hi hevt hr hany (fun _ => rfl)
    (Nat.lt_of_lt_of_eq hc (s.body.updCore_cores_length c _).symm) (btCommitRun_swaps hs h)
    (congrArg CoreCtx.launched hcx) rfl ((s.body.updCx c (·.launch e)).slot_updSlot _ _ _ hp hk)
  have hinner := (Body.eqs_of_readAlone hread).1
  refine ⟨_, hexec, rfl, hmem, hcount, ?_, hlaunched, Claims.quiet_of_inner (Body.inner_trans ?_ hinner), hbt, ?_⟩
  · rw [hend, Body.updSlot_core, hcx]
    rfl
  · exact Body.inner_trans ⟨rfl, rfl, rfl, rfl, rfl, rfl⟩ (Body.retired_complete _ x c _).inner
  · rw [hend, Body.updSlot_core, hcx]
    rfl

theorem execBtCommitEntry_fails {i : Nat} (hsw : ((s.body.slot x.part x.slot).bt r.id).swap = false)
    (h : btWalk s.body.mem r (r.inactive ((s.body.slot x.part x.slot).bt r.id)) r.maxEnt 0 = some i) :
    ∃ t, exec (.btCommitEntry c) s = .next t ∧ t.own = s.own ∧ t.body.mem = s.body.mem ∧ Claims.counts s t x e.evt ∧
      (t.body.core c).cx.aeIdx = (s.body.core c).cx.aeIdx + 1 ∧ (t.body.core c).cx.launched = (s.body.core c).cx.launched ∧
      (t.body.slot x.part x.slot).bt r.id = { (s.body.slot x.part x.slot).bt r.id with empty := true } ∧
      (t.body.core c).cx.btref = true ∧ ((s.body.part x.part).events.length < 1024 → (t.body.part x.part).events =
        (s.body.part x.part).events ++ [faultRecord 2 stBounds (0, c.val) (r.id * 2 ^ 32 + i) s.body.fab.time]) := by
  obtain ⟨hc, -⟩ := Body.core_of_nextAe hn
  obtain ⟨hp, hk⟩ := Body.slot_lt_of_running (Body.running_of_nextAe hn)
  have hcx := congrArg Core.cx (s.body.core_updCx c (·.launch e) hc)
  have hc1 : c.val < (s.body.updCx c (·.launch e)).cores.length := Nat.lt_of_lt_of_eq hc (s.body.updCore_cores_length c _).symm
  have hfail : ((btFailed s.own (s.body.updCx c (·.launch e)) x c r.id i).core c).cx =
      { (s.body.core c).cx.launch e with btref := true } := by
    rw [btFailed_eq, Body.core_appendEvent, Body.core_btEmptied x _ hc1, hcx]
  have hrun := btCommitRun_fails (o := s.own) (b := s.body.updCx c (·.launch e)) (x := x) (c := c)
    (idx := (s.body.core c).cx.aeIdx.toNat) hs hsw h
  generalize hb : btFailed s.own (s.body.updCx c (·.launch e)) x c r.id i = t at hfail hrun
  have hlen : c.val < t.cores.length := by
    rw [← hb, btFailed_eq, (Body.fired_appendEvent _ _ _ _).answered]
    exact Nat.lt_of_lt_of_eq hc1 (Body.updCore_cores_length _ c _).symm
  have htmem : t.mem = s.body.mem := by
    rw [← hb, btFailed_eq, (Body.fired_appendEvent _ _ _ _).answered.mem]
    rfl
  have hslot : t.slot x.part x.slot = (s.body.slot x.part x.slot).updBt r.id fun l => { l with empty := true } := by
    rw [← hb, btFailed_eq, Body.slot_appendEvent]
    exact (s.body.updCx c (·.launch e)).slot_updSlot _ _ _ hp hk
  obtain ⟨u, hexec, -, hmem, hcount, hend, hlaunched, hbt, hev⟩ := execBtCommitEntry_completes (g := fun l => { l with empty := true })
    hf hn hm hi hevt hr hany (fun _ => rfl) hlen hrun (by rw [hfail]) htmem hslot
  refine ⟨_, hexec, rfl, hmem, hcount, by rw [hend, hfail]; rfl, hlaunched, hbt, by rw [hend, hfail]; rfl, fun hlen => hev.trans ?_⟩
  have hold : (((s.body.updCx c (·.launch e)).btEmptied x c r.id).part x.part).events = (s.body.part x.part).events :=
    Body.field_updPart (g := Part.events) (b := s.body.updCx c (·.launch e)) x.part x.part (by intro _; rfl)
  rw [← hb, btFailed_eq, Body.part_appendEvent_self _ _ _ _ ((s.body.updPart_parts_length x.part _).symm ▸ hp),
    Part.recorded_events _ (hold ▸ hlen), hold]
  rfl

end

end Sys2Proof.Machine

/-! PROOFS. SLOT: with no guest that waits, with one that may start, and with one that is refused (R11, R125, R253, R272). -/

namespace Sys2Proof.Machine

open Sys2Proof

/-- A core with a next entry runs, and so does its invocation. -/
theorem Body.seq_of_nextAe {b : Body} {c : Fin 32} {kind : Nat} {x : CtxId} {e : Ae} (h : b.nextAe c kind = some (x, e)) :
    (b.core c).cx.seq = .running := by
  unfold Body.nextAe at h
  split at h
  · cases h
  · dsimp only at h
    split at h
    · next hr =>
      obtain ⟨-, hseq, -⟩ := hr
      exact hseq
    · cases h

theorem Slot.run_event (y : Slot) (e : Nat) : (y.event e).run = y.run := by
  unfold Slot.event
  split <;> rfl

/-- The body once a core has stepped past an entry that completes at issue. -/
def Body.stepped (b : Body) (x : CtxId) (c : Fin 32) (e : Ae) : Body :=
  (b.updCx c CoreCtx.advance).updSlot x.part x.slot (·.event e.evt)

/-- A guest that its SLOT admits: it waits for its cores. -/
def Slot.admitted (y : Slot) : Slot := { y with run := .restoring, resuming := false, invoke := y.guest, guest := none }

/-- A sequencer that stands at its pre-emption point. -/
def CoreCtx.stand (k : CoreCtx) : CoreCtx := { k with seq := .preempted }

/-- The body once a SLOT has admitted a guest: the training invocation stops for it. -/
def Body.hosting (b : Body) (x : CtxId) (c : Fin 32) (g : Fin 4) : Body :=
  ((askStop (b.updCx c CoreCtx.stand) x.part x.slot).updSlot x.part x.slot fun y =>
    { y with underGuest := some g }).updSlot x.part g Slot.admitted

/-- The body once a SLOT has refused a guest. -/
def Body.guestRefused (b : Body) (o : Own) (p : Fin 8) (g : Fin 4) (t : Slot) : Body :=
  (b.updSlot p g fun y => { y with guest := none }).respondEach o t.guest.toList stBounds (invokeResult stBounds t.decision false 0xFF 0xFFFF)

section
variable {o : Own} {b : Body} {c : Fin 32} {x : CtxId} {e : Ae} (hn : b.nextAe c kSlot = some (x, e))
include hn

theorem slotIssue_alone (h : b.guestWaiting x.part x.slot = none) : slotIssue o b c = b.stepped x c e := by
  unfold slotIssue
  rw [hn]
  dsimp only
  rw [h]
  rfl

theorem slotIssue_hosts {g : Fin 4} (h : b.guestWaiting x.part x.slot = some g) (hr : startRefused o b x.part g = false) :
    slotIssue o b c = (b.stepped x c e).hosting x c g := by
  unfold slotIssue
  rw [hn]
  dsimp only
  rw [h]
  exact if_neg (by rw [hr]; decide)

theorem slotIssue_refuses {g : Fin 4} (h : b.guestWaiting x.part x.slot = some g) (hr : startRefused o b x.part g = true) :
    slotIssue o b c = (b.stepped x c e).guestRefused o x.part g (b.slot x.part g) := by
  unfold slotIssue
  rw [hn]
  dsimp only
  rw [h]
  exact if_pos hr

end

/-! ### What each leaves -/

section
variable {b : Body} (x : CtxId) {c : Fin 32} (e : Ae)

theorem Body.core_stepped (hc : c.val < b.cores.length) : (b.stepped x c e).core c = { b.core c with cx := (b.core c).cx.advance } :=
  b.core_updCx c _ hc

theorem Body.slot_stepped (hp : x.part.val < b.parts.length) (hk : x.slot.val < (b.part x.part).slots.length) :
    (b.stepped x c e).slot x.part x.slot = (b.slot x.part x.slot).event e.evt := (b.updCx c _).slot_updSlot _ _ _ hp hk

variable (h : b.slotsWhole)
include h

theorem Body.slotsWhole.stepped : (b.stepped x c e).slotsWhole :=
  Body.slotsWhole.updSlot (b := b.updCx c CoreCtx.advance) (h.congr rfl) x.part x.slot _

theorem Body.slot_stepped_ne {g : Fin 4} (hg : g ≠ x.slot) : (b.stepped x c e).slot x.part g = b.slot x.part g :=
  Body.slotsWhole.slot_updSlot_ne (b := b.updCx c CoreCtx.advance) (h.congr rfl) x.part _ hg

end

section
variable {b : Body} {x : CtxId} {c : Fin 32} {g : Fin 4}

theorem Body.inner_hosting : b.inner (b.hosting x c g) := by
  have h := Body.inner_of_jobsAlone (askStop_jobsAlone (b.updCx c CoreCtx.stand) x.part x.slot)
  exact Body.inner_trans (Body.inner_trans ⟨rfl, rfl, rfl, rfl, rfl, rfl⟩ h) ⟨rfl, rfl, rfl, rfl, rfl, rfl⟩

theorem Body.mem_hosting : (b.hosting x c g).mem = b.mem := askStop_mem _ _ _

theorem Body.core_hosting (hc : c.val < b.cores.length) :
    ((b.hosting x c g).core c).cx.seq = .preempted ∧ ((b.hosting x c g).core c).cx.aeIdx = (b.core c).cx.aeIdx := by
  have hcx : ((b.updCx c CoreCtx.stand).core c).cx = (b.core c).cx.stand := congrArg Core.cx (b.core_updCx c _ hc)
  have hseq := core_askStop (g := fun k => k.cx.seq) (b.updCx c CoreCtx.stand) x.part x.slot (fun _ _ => rfl) c
  have hidx := core_askStop (g := fun k => k.cx.aeIdx) (b.updCx c CoreCtx.stand) x.part x.slot (fun _ _ => rfl) c
  exact ⟨hseq.trans (congrArg CoreCtx.seq hcx), hidx.trans ((congrArg CoreCtx.aeIdx hcx).trans rfl)⟩

/-- No event is counted. -/
theorem Body.events_hosting (p : Fin 8) (k : Fin 4) : ((b.hosting x c g).slot p k).events = (b.slot p k).events := by
  have hstop : ((askStop (b.updCx c CoreCtx.stand) x.part x.slot).slot p k).events = (b.slot p k).events := by
    rw [slot_of_parts (askStop_parts _ _ _)]
    refine (Body.field_slot_updSlot (g := Slot.events) x.part p x.slot k (by intro _; rfl)).trans ?_
    rw [Body.slot_updPart x.part p k (by intro _; rfl)]
    rfl
  exact (Body.field_slot_updSlot (g := Slot.events) x.part p g k (by intro _; rfl)).trans
    ((Body.field_slot_updSlot (g := Slot.events) x.part p x.slot k (by intro _; rfl)).trans hstop)

variable (h : b.slotsWhole) (hg : g ≠ x.slot)
include h hg

theorem Body.slot_hosting : ∃ order, (b.hosting x c g).slot x.part x.slot =
    { (b.slot x.part x.slot).stopped order with underGuest := some g } := by
  have hb : (b.updCx c CoreCtx.stand).slotsWhole := h.congr rfl
  have hs := slotsWhole_askStop x.part x.slot hb
  refine ⟨(b.updCx c CoreCtx.stand).jobOrder ⟨x.part, x.slot⟩, ?_⟩
  rw [Body.hosting, (hs.updSlot x.part x.slot _).slot_updSlot_ne _ _ hg.symm, hs.slot_updSlot, slot_askStop x.part x.slot hb]
  rfl

theorem Body.slot_hosting_guest : (b.hosting x c g).slot x.part g = (b.slot x.part g).admitted := by
  have hb : (b.updCx c CoreCtx.stand).slotsWhole := h.congr rfl
  have hs := slotsWhole_askStop x.part x.slot hb
  rw [Body.hosting, (hs.updSlot x.part x.slot _).slot_updSlot, hs.slot_updSlot_ne _ _ hg, slot_askStop_ne x.part x.slot hb hg]
  rfl

end

section
variable (b : Body) (o : Own) (p : Fin 8) (g : Fin 4) (y : Slot)

theorem Body.answered_guestRefused : (b.updSlot p g fun z => { z with guest := none }).answered (b.guestRefused o p g y) :=
  Body.answered_respondEach o _ _ _ _

theorem Body.events_guestRefused (q : Fin 8) (k : Fin 4) : ((b.guestRefused o p g y).slot q k).events = (b.slot q k).events := by
  rw [(b.answered_guestRefused o p g y).slot]
  exact Body.field_slot_updSlot (g := Slot.events) p q g k (by intro _; rfl)

end

/-! ### The command -/

section
variable {s : State} {c : Fin 32} {x : CtxId} {e : Ae} (hn : s.body.nextAe c kSlot = some (x, e))
include hn

/-- In each of its outcomes a SLOT leaves memory, moves its core on and counts its event. -/
theorem slotIssue_steps : (slotIssue s.own s.body c).mem = s.body.mem ∧
    ((slotIssue s.own s.body c).core c).cx.aeIdx = (s.body.core c).cx.aeIdx + 1 ∧
    ((slotIssue s.own s.body c).slot x.part x.slot).events = ((s.body.slot x.part x.slot).event e.evt).events := by
  have hc := s.body.core_stepped x e (Body.core_of_nextAe hn).1
  obtain ⟨hp, hk⟩ := Body.slot_lt_of_running (Body.running_of_nextAe hn)
  have hslot := s.body.slot_stepped x (c := c) e hp hk
  have hlen : c.val < (s.body.stepped x c e).cores.length :=
    Nat.lt_of_lt_of_eq (Body.core_of_nextAe hn).1 (s.body.updCore_cores_length c _).symm
  cases h : s.body.guestWaiting x.part x.slot with
  | none =>
    rw [slotIssue_alone hn h, hc, hslot]
    exact ⟨rfl, rfl, rfl⟩
  | some g =>
    cases hr : startRefused s.own s.body x.part g with
    | false =>
      obtain ⟨-, hidx⟩ := Body.core_hosting (x := x) (g := g) hlen
      rw [slotIssue_hosts hn h hr, hidx, Body.events_hosting, hc, hslot]
      exact ⟨Body.mem_hosting, rfl, rfl⟩
    | true =>
      have hans := (s.body.stepped x c e).answered_guestRefused s.own x.part g (s.body.slot x.part g)
      rw [slotIssue_refuses hn h hr, Body.events_guestRefused, hans.core, hslot, Body.updSlot_core, hc]
      exact ⟨hans.mem, rfl, rfl⟩

/-- A SLOT goes: its reads are counted beside its effect. -/
theorem execSlot_steps (hf : Claims.fetched s c) : ∃ u, exec (.slot c) s = .next { s with body := u } ∧
    (slotIssue s.own s.body c).readAlone u ∧ u.mem = s.body.mem ∧ Claims.counts s { s with body := u } x e.evt ∧
    (u.core c).cx.aeIdx = (s.body.core c).cx.aeIdx + 1 := by
  obtain ⟨hmem, hidx, hev⟩ := slotIssue_steps hn
  obtain ⟨u, hexec, hread⟩ := (issuesAs_slot c).issues hf rfl hmem
  obtain ⟨-, -, -, hm⟩ := Body.eqs_of_readAlone hread
  refine ⟨u, hexec, hread, hm.trans hmem, fun n => ?_, by rw [Body.core_of_readAlone hread, hidx]⟩
  rw [← Slot.count_event]
  dsimp only
  unfold Slot.count
  rw [Body.slot_of_readAlone hread, hev]

variable {u : Body} (hread : (slotIssue s.own s.body c).readAlone u)
include hread

/-- With no guest that waits, the invocation goes on. -/
theorem slot_goesOn (h : s.body.guestWaiting x.part x.slot = none) : Claims.quiet s { s with body := u } ∧
    (u.core c).cx.seq = .running ∧ (u.slot x.part x.slot).run = .running := by
  have hrun := Body.running_of_nextAe hn
  obtain ⟨hp, hk⟩ := Body.slot_lt_of_running hrun
  rw [slotIssue_alone hn h] at hread
  refine ⟨Claims.quiet_of_inner (Body.inner_trans ⟨rfl, rfl, rfl, rfl, rfl, rfl⟩ (Body.eqs_of_readAlone hread).1), ?_, ?_⟩
  · rw [Body.core_of_readAlone hread, s.body.core_stepped x e (Body.core_of_nextAe hn).1]
    exact Body.seq_of_nextAe hn
  · rw [Body.slot_of_readAlone hread, s.body.slot_stepped x e hp hk, Slot.run_event, hrun]

variable {g : Fin 4} (h : s.body.guestWaiting x.part x.slot = some g) (hg : g ≠ x.slot) (hw : Claims.slotsWhole s)
include h hg hw

/-- With a guest that may start, the invocation stops for it, and it waits for its cores (R272). -/
theorem slot_hosts (hr : startRefused s.own s.body x.part g = false) : Claims.quiet s { s with body := u } ∧
    (u.core c).cx.seq = .preempted ∧ (u.slot x.part x.slot).run = .stopping ∧ (u.slot x.part x.slot).underGuest = some g ∧
    u.slot x.part g = (s.body.slot x.part g).admitted := by
  have hb : (s.body.stepped x c e).slotsWhole := Body.slotsWhole.stepped x e hw
  have hlen : c.val < (s.body.stepped x c e).cores.length :=
    Nat.lt_of_lt_of_eq (Body.core_of_nextAe hn).1 (s.body.updCore_cores_length c _).symm
  obtain ⟨hseq, -⟩ := Body.core_hosting (x := x) (g := g) hlen
  obtain ⟨order, hslot⟩ := Body.slot_hosting (c := c) hb hg
  rw [slotIssue_hosts hn h hr] at hread
  have hstep : s.body.inner (s.body.stepped x c e) := ⟨rfl, rfl, rfl, rfl, rfl, rfl⟩
  have hend := (Body.slot_of_readAlone hread x.part x.slot).trans hslot
  refine ⟨Claims.quiet_of_inner (Body.inner_trans (Body.inner_trans hstep Body.inner_hosting) (Body.eqs_of_readAlone hread).1), ?_, ?_, ?_, ?_⟩
  · rw [Body.core_of_readAlone hread, hseq]
  · rw [hend]
    rfl
  · rw [hend]
  · rw [Body.slot_of_readAlone hread, Body.slot_hosting_guest hb hg, Body.slot_stepped_ne x e hw hg]

/-- A guest that may not start is refused, and the invocation goes on (R253). -/
theorem slot_refuses (hr : startRefused s.own s.body x.part g = true) : (u.core c).cx.seq = .running ∧
    (u.slot x.part x.slot).run = .running ∧ u.slot x.part g = { s.body.slot x.part g with guest := none } ∧
    ∀ k1, (s.body.slot x.part g).guest = some k1 → s.body.mail.length = 9 → (∀ m ∈ s.body.mail, m.length = 4) →
      (u.mailbox k1.page k1.mb).resp = respBytes stBounds k1.tag 0 (invokeResult stBounds
        (s.body.slot x.part g).decision false 0xFF 0xFFFF) := by
  have hrun := Body.running_of_nextAe hn
  obtain ⟨hp, hk⟩ := Body.slot_lt_of_running hrun
  have hb : (s.body.stepped x c e).slotsWhole := Body.slotsWhole.stepped x e hw
  have hans := (s.body.stepped x c e).answered_guestRefused s.own x.part g (s.body.slot x.part g)
  rw [slotIssue_refuses hn h hr] at hread
  refine ⟨?_, ?_, ?_, fun k1 hk1 hm hl => ?_⟩
  · rw [Body.core_of_readAlone hread, hans.core, Body.updSlot_core, s.body.core_stepped x e (Body.core_of_nextAe hn).1]
    exact Body.seq_of_nextAe hn
  · rw [Body.slot_of_readAlone hread, hans.slot, hb.slot_updSlot_ne x.part _ hg.symm, s.body.slot_stepped x e hp hk, Slot.run_event, hrun]
  · rw [Body.slot_of_readAlone hread, hans.slot, hb.slot_updSlot, Body.slot_stepped_ne x e hw hg]
  · obtain ⟨-, -, hmail, -⟩ := (Body.eqs_of_readAlone hread).1
    have hbox : u.mailbox k1.page k1.mb =
        ((s.body.stepped x c e).guestRefused s.own x.part g (s.body.slot x.part g)).mailbox k1.page k1.mb := by
      unfold Body.mailbox
      rw [hmail]
    rw [hbox, Body.guestRefused, hk1]
    exact Body.resp_respond s.own ((s.body.stepped x c e).updSlot x.part g _) k1 stBounds 0 _ hm hl

end

end Sys2Proof.Machine

/-! PROOFS. The flush of a core's harvest unit: what its records' stores leave, in memory of any state (R18, R152, R153, R171, R172). -/

namespace Sys2Proof.Machine

open Sys2Proof

/-! ### What a store leaves -/

/-- What a core shows of its job: the context, and where the core stands in it. -/
def Core.job (k : Core) : Option CtxId × CoreCtx := (k.ctx, k.cx)

/-- t is b when bytes have been stored: nothing but counters, stacks, memory and what f does not show of a partition has changed, no
request has come to wait, and every byte that S does not hold stands. -/
structure Body.Stores {β : Type} (f : Part → β) (S : Nat → Prop) (b t : Body) : Prop where
  inner : b.inner t
  cores : t.cores.length = b.cores.length
  job   : ∀ c, (t.core c).job = (b.core c).job
  parts : t.parts.length = b.parts.length
  part  : ∀ p, f (t.part p) = f (b.part p)
  waits : ∀ a n, b.noneWaits a n = true → t.noneWaits a n = true
  byte  : ∀ a, ¬ S a → t.mem.byte a = b.mem.byte a

section
variable {β : Type} {f : Part → β} {S : Nat → Prop}

theorem Body.stores_refl (b : Body) : b.Stores f S b := ⟨b.inner_refl, rfl, fun _ => rfl, rfl, fun _ => rfl, fun _ _ h => h, fun _ _ => rfl⟩

theorem Body.Stores.trans {b t u : Body} (h : b.Stores f S t) (k : t.Stores f S u) : b.Stores f S u :=
  ⟨Body.inner_trans h.inner k.inner, k.cores.trans h.cores, fun c => (k.job c).trans (h.job c), k.parts.trans h.parts,
    fun p => (k.part p).trans (h.part p), fun a n hn => k.waits a n (h.waits a n hn), fun a ha => (k.byte a ha).trans (h.byte a ha)⟩

theorem Body.stores_foldl {α : Type} {g : Body → α → Body} (h : ∀ (b : Body) (x : α), b.Stores f S (g b x)) (l : List α) (b : Body) :
    b.Stores f S (l.foldl g b) :=
  List.foldlRecOn (motive := b.Stores f S) l g b.stores_refl fun t ht x _ => ht.trans (h t x)

variable (b : Body)

theorem Body.stores_cores (i : Nat) {g : Core → Core} (hg : ∀ k, (g k).job = k.job) : b.Stores f S { b with cores := b.cores.modify i g } := by
  refine ⟨⟨rfl, rfl, rfl, rfl, rfl, rfl⟩, length_modify_eq _ _ _, fun c => ?_, rfl, fun _ => rfl, fun _ _ h => h, fun _ _ => rfl⟩
  unfold Body.core
  simp only [List.getD_eq_getElem?_getD, List.getElem?_modify]
  split
  · cases b.cores[c.val]? with
    | none => rfl
    | some k => exact hg k
  · simp

theorem Body.stores_quads (i : Nat) (g : Quad → Quad) : b.Stores f S { b with quads := b.quads.modify i g } :=
  ⟨⟨rfl, rfl, rfl, rfl, rfl, rfl⟩, rfl, fun _ => rfl, rfl, fun _ => rfl, fun _ _ h => h, fun _ _ => rfl⟩

theorem Body.stores_stks (i : Nat) {g : Stack → Stack} (hg : ∀ y, (g y).queues = y.queues) :
    b.Stores f S { b with stks := b.stks.modify i g } := by
  refine ⟨⟨rfl, rfl, rfl, rfl, rfl, rfl⟩, rfl, fun _ => rfl, rfl, fun _ => rfl, fun a n h => ?_, fun _ _ => rfl⟩
  refine Body.noneWaits_modify (fun y hy => ?_) h
  unfold Stack.clear at *
  rwa [hg]

theorem Body.stores_updMem {g : Mem → Mem} (hg : ∀ a, ¬ S a → (g b.mem).byte a = b.mem.byte a) : b.Stores f S (b.updMem g) :=
  ⟨⟨rfl, rfl, rfl, rfl, rfl, rfl⟩, rfl, fun _ => rfl, rfl, fun _ => rfl, fun _ _ h => h, hg⟩

theorem Body.stores_updPart (p : Fin 8) {g : Part → Part} (hg : ∀ y, f (g y) = f y) : b.Stores f S (b.updPart p g) :=
  ⟨⟨rfl, rfl, rfl, rfl, rfl, rfl⟩, rfl, fun _ => rfl, Body.updPart_parts_length _ _ _, fun q => Body.field_updPart (g := f) p q hg,
    fun _ _ h => h, fun _ _ => rfl⟩

omit b in
theorem Stack.queues_rows (y : Stack) (rows : List (BitVec 30 × Nat)) (cands : List (BitVec 30)) :
    ({ y with corrected := rows, cands := cands } : Stack).queues = y.queues := rfl

omit b in
/-- What a corrected error notes at a stack leaves its queues. -/
theorem Stack.queues_noteCorrected (y : Stack) (row : BitVec 30) (now : Nat) : (y.noteCorrected row now).queues = y.queues := by
  unfold Stack.noteCorrected
  extract_lets recent
  exact y.queues_rows _ _

theorem Body.stores_countCe (o : Own) (a : Nat) : b.Stores f S (b.countCe o a) := by
  unfold Body.countCe
  split
  · exact b.stores_cores _ fun _ => rfl
  · exact b.stores_cores _ fun _ => rfl
  · exact b.stores_quads _ _
  · split
    · next l _ => exact b.stores_stks _ fun y => y.queues_noteCorrected l.rowOf b.fab.time
    · exact b.stores_refl
  · exact b.stores_refl

theorem Body.stores_countUe (o : Own) (a : Nat) (scrub : Bool) : b.Stores f S (b.countUe o a scrub) := by
  unfold Body.countUe
  dsimp only
  split
  · exact b.stores_cores _ fun _ => rfl
  · exact b.stores_cores _ fun _ => rfl
  · exact b.stores_quads _ _
  · split
    · exact b.stores_stks _ fun _ => rfl
    · exact b.stores_refl
  · exact b.stores_refl

theorem Body.stores_countWrites (o : Own) (a : Nat) (d : List (Option Byte)) : b.Stores f S (b.countWrites o a d) := by
  have h := b.memoryAlone_countWrites o a d
  have hmem : (b.countWrites o a d).mem = b.mem := Body.countWrites_mem o b a d
  obtain ⟨-, -, -, -, -, -, hparts, hcores, -⟩ := Body.eqs_of_memoryAlone h
  refine ⟨Body.inner_of_memoryAlone h, congrArg List.length hcores, fun c => ?_, congrArg List.length hparts, fun p => ?_,
    fun _ _ hn => Body.noneWaits_countWrites hn, fun _ _ => by rw [hmem]⟩
  · unfold Body.core
    rw [hcores]
  · rw [Body.part_of_memoryAlone h]

theorem Body.stores_mergeRead (o : Own) (a : Nat) (d : List (Option Byte)) : b.Stores f S (b.mergeRead o a d) := by
  refine Body.stores_foldl (fun b u => ?_) _ b
  split
  · exact b.stores_updMem fun _ _ => rfl
  · exact b.stores_countCe o _
  · exact b.stores_refl

/-- A store in memory of any state: outside its bytes, no byte changes. -/
theorem Body.stores_store (o : Own) (a : Nat) (d : List (Option Byte)) (hS : ∀ y, a ≤ y ∧ y < a + d.length → S y) :
    b.Stores f S (b.store o a d) := by
  unfold Body.store Body.place
  extract_lets w b1
  have hput : b1.Stores f S (b1.updMem (·.writeMasked w a d)) :=
    b1.stores_updMem fun y hy => Mem.byte_writeMasked_outside _ _ _ _ _ fun h => hy (hS y h)
  exact ((b.stores_countWrites o a d).trans (Body.stores_mergeRead _ o a d)).trans
    (hput.trans (Body.stores_foldl (fun b x => b.stores_countUe o x false) _ _))

end

/-! ### Records -/

theorem leBytes_length (n v : Nat) : (leBytes n v).length = n := by simp [leBytes]

theorem HarvAcc.record_length (h : HarvAcc) (src seq : Nat) : (h.record src seq).length = 64 := by
  simp [HarvAcc.record, leBytes_length]

theorem mem_insertBy {α : Type} {le : α → α → Bool} {a x : α} {l : List α} (h : x ∈ insertBy le a l) : x = a ∨ x ∈ l := by
  induction l with
  | nil => exact Or.inl (List.mem_singleton.mp h)
  | cons y t ih =>
    unfold insertBy at h
    split at h
    · exact List.mem_cons.mp h
    · rcases List.mem_cons.mp h with rfl | h
      · exact Or.inr List.mem_cons_self
      · exact (ih h).imp_right (List.mem_cons_of_mem y)

theorem mem_sortBy {α : Type} {le : α → α → Bool} {x : α} {l : List α} (h : x ∈ sortBy le l) : x ∈ l := by
  induction l with
  | nil => exact h
  | cons a t ih =>
    rcases mem_insertBy h with rfl | h
    · exact List.mem_cons_self
    · exact List.mem_cons_of_mem a (ih h)

/-- A partition without its records' sequence numbers. -/
def Part.unnumbered (y : Part) : Part := { y with harvSeq := [] }

/-- The bytes of the records that a core's accumulators have in its partition's table (R153). -/
def Body.records (b : Body) (p : Fin 8) (c : Fin 32) (a : Nat) : Prop :=
  ∃ tab h, (b.part p).harvTab = some tab ∧ h ∈ (b.core c).cx.harv ∧
    tab + (h.tag.toNat * 36 + c.val) * 64 ≤ a ∧ a < tab + (h.tag.toNat * 36 + c.val) * 64 + 64

/-- One record of a flush, where no older request waits for its bytes. -/
theorem Body.stores_flushOne (o : Own) (b : Body) (p : Fin 8) (tab src : Nat) (h : HarvAcc) {S : Nat → Prop}
    (hw : b.noneWaits (tab + (h.tag.toNat * 36 + src) * 64) 64 = true)
    (hS : ∀ a, tab + (h.tag.toNat * 36 + src) * 64 ≤ a ∧ a < tab + (h.tag.toNat * 36 + src) * 64 + 64 → S a) :
    b.Stores Part.unnumbered S (b.flushOne o p tab src h) := by
  unfold Body.flushOne
  extract_lets key seq
  have holder : serveOlder o b (tab + key * 64) 64 = b := if_pos hw
  rw [holder]
  have hstore : b.Stores Part.unnumbered S (b.storeBytes o (tab + key * 64) (h.record src seq.toNat)) :=
    b.stores_store o _ _ (by rw [List.length_map, HarvAcc.record_length]; exact hS)
  exact hstore.trans (Body.stores_updPart _ p (by intro _; rfl))

section
variable (o : Own) {b : Body} {p : Fin 8} {c : Fin 32}
  (hw : ∀ tab h, (b.part p).harvTab = some tab → h ∈ (b.core c).cx.harv → b.noneWaits (tab + (h.tag.toNat * 36 + c.val) * 64) 64 = true)
include hw

theorem Body.stores_flushAll : b.Stores Part.unnumbered (b.records p c) (b.flushAll o p c.val (b.core c).cx.harv) := by
  unfold Body.flushAll
  split
  · exact b.stores_refl
  · next tab htab =>
    refine List.foldlRecOn (motive := b.Stores Part.unnumbered (b.records p c)) _ _ b.stores_refl fun t ht h hh => ht.trans ?_
    have hin := mem_sortBy hh
    exact t.stores_flushOne o p tab c.val h (ht.waits _ _ (hw tab h htab hin)) fun a ha => ⟨tab, h, htab, hin, ha⟩

/-- A core's flush: its records, and its accumulators gone. -/
theorem Body.stores_flushCore (hc : c.val < b.cores.length) : ∃ t, b.Stores Part.unnumbered (b.records p c) t ∧ b.flushCore o p c =
    { t with cores := (b.flushCore o p c).cores } ∧ (b.flushCore o p c).cores.length = b.cores.length ∧
    ((b.flushCore o p c).core c).cx = { (b.core c).cx with harv := [] } := by
  have h := Body.stores_flushAll o hw
  refine ⟨_, h, rfl, (Body.updCore_cores_length _ c _).trans h.cores, ?_⟩
  unfold Body.flushCore
  extract_lets k hs n
  rw [Body.core_updCore _ c _ (h.cores.symm ▸ hc)]
  exact congrArg (fun k : CoreCtx => { k with harv := [] }) (congrArg Prod.snd (h.job c))

end

end Sys2Proof.Machine

/-! PROOFS. END_COMPLETE: when a list ends, and what its end leaves (R125, R126, R133, R152, R226). -/

namespace Sys2Proof.Machine

open Sys2Proof

/-- A slot that is not as an empty one is one of the module's. -/
theorem Body.slot_lt_of_ne {b : Body} {p : Fin 8} {k : Fin 4} (h : b.slot p k ≠ Slot.empty) :
    p.val < b.parts.length ∧ k.val < (b.part p).slots.length := by
  refine ⟨Nat.lt_of_not_le fun hp => h ?_, Nat.lt_of_not_le fun hk => h (List.getD_eq_default _ _ hk)⟩
  unfold Body.slot Body.part
  rw [List.getD_eq_default _ _ hp]
  exact List.getD_replicate _ k.isLt

/-- The entry with which a core's list ends. -/
def Body.lastAe (b : Body) (x : CtxId) (c : Fin 32) : Ae := aeOf (b.imageOf x) c.val ((b.core c).cx.aeIdx.toNat - 1)

/-- A core's list may end: its END is issued and alone, the invocation runs or stops, and its flush is admitted. -/
def Body.mayEnd (b : Body) (o : Own) (x : CtxId) (c : Fin 32) : Prop :=
  ((b.slot x.part x.slot).run = .running ∨ (b.slot x.part x.slot).run = .stopping) ∧
    (b.core c).cx.listDone (b.imageOf x) c.val = true ∧ (b.lastAe x c).kind = kEnd ∧ b.flushFlows o x.part c = true

/-- A core whose list has ended. -/
def CoreCtx.listEnded (k : CoreCtx) : CoreCtx := { k with flushes := [], ended := true }

section
variable {o : Own} {b : Body} {c : Fin 32}

theorem endComplete_none (h : b.holds c = none) : endComplete o b c = b := by
  unfold endComplete
  rw [h]

variable {x : CtxId} (hx : b.holds c = some x)
include hx

theorem endComplete_waits (h : ¬ b.mayEnd o x c) : endComplete o b c = b := by
  unfold endComplete
  rw [hx]
  exact if_neg h

theorem endComplete_ends (h : b.mayEnd o x c) : endComplete o b c =
    ((b.flushCore o x.part c).updCx c CoreCtx.listEnded).updSlot x.part x.slot (·.event (b.lastAe x c).evt) := by
  unfold endComplete
  rw [hx]
  exact if_pos h

end

section
variable {s : State} {c : Fin 32} {x : CtxId}

theorem execEndComplete_same (h : endComplete s.own s.body c = s.body) : exec (.endComplete c) s = .next s :=
  State.onBody_same (f := fun o b => endComplete o b c) h

theorem execEndComplete_ends (hcl : s.body.clocked = true) (hx : s.body.holds c = some x) (h : s.body.mayEnd s.own x c)
    (hw : ∀ tab h, (s.body.part x.part).harvTab = some tab → h ∈ (s.body.core c).cx.harv →
      s.body.noneWaits (tab + (h.tag.toNat * 36 + c.val) * 64) 64 = true) :
    ∃ t, exec (.endComplete c) s = .next t ∧ Claims.quiet s t ∧ Claims.counts s t x (s.body.lastAe x c).evt ∧
      (t.body.core c).cx = { (s.body.core c).cx with flushes := [], harv := [], ended := true } ∧
      ∀ a, ¬ s.body.records x.part c a → t.body.mem.byte a = s.body.mem.byte a := by
  have hc := Body.core_lt_of_holds hx
  obtain ⟨t, ht, hflush, hlen, hcx⟩ := Body.stores_flushCore s.own hw hc
  have hslots : ∀ p, ((s.body.flushCore s.own x.part c).part p).slots = (s.body.part p).slots := fun p => by
    rw [hflush]
    exact (congrArg (fun y : Part => y.slots) (ht.part p) :)
  have hslot : (s.body.flushCore s.own x.part c).slot x.part x.slot = s.body.slot x.part x.slot := by
    unfold Body.slot
    rw [hslots]
  obtain ⟨hp, hk⟩ := Body.slot_lt_of_ne (b := s.body.flushCore s.own x.part c) (p := x.part) (k := x.slot) fun hempty => by
    rw [hslot] at hempty
    rcases h.1 with hr | hr <;> exact absurd (hempty ▸ hr) (by decide)
  have hexec : exec (.endComplete c) s = .next { s with body := _ } :=
    (State.onBody_clocked (fun o b => endComplete o b c) hcl).trans (by rw [endComplete_ends hx h])
  refine ⟨_, hexec, Claims.quiet_of_inner ?_, Claims.counts_of_event ?_, ?_, fun a ha => ?_⟩
  · refine Body.inner_trans (t := s.body.flushCore s.own x.part c) ?_ ⟨rfl, rfl, rfl, rfl, rfl, rfl⟩
    rw [hflush]
    exact Body.inner_trans ht.inner ⟨rfl, rfl, rfl, rfl, rfl, rfl⟩
  · exact (((s.body.flushCore s.own x.part c).updCx c CoreCtx.listEnded).slot_updSlot _ _ _ hp hk).trans
      (congrArg (·.event (s.body.lastAe x c).evt) hslot)
  · dsimp only
    rw [Body.updSlot_core, Body.core_updCx _ c _ (hlen.symm ▸ hc)]
    dsimp only
    rw [hcx]
    rfl
  · have hmem : (s.body.flushCore s.own x.part c).mem = t.mem := by rw [hflush]
    exact (congrArg (Mem.byte · a) hmem).trans (ht.byte a ha)

end

end Sys2Proof.Machine

/-! PROOFS. PREEMPTION_POINT: a core that stands, and a VEC entry that stops before a row (R133, R147). -/

namespace Sys2Proof.Machine

open Sys2Proof

/-! ### Rows of a vector program in sound memory -/

section
variable {b : Body} {r : VRun} (v : Vp) (o : Own)

theorem putSpec_storeChunk (p : VAt) (i : VInst) (h : PutSpec b r.body) : PutSpec b (v.storeChunk o r p i).body := by
  unfold Vp.storeChunk
  extract_lets s ccw
  split
  · exact h
  · exact putSpec_putOne _ h

theorem putSpec_word (p : VAt) (i : VInst) (h : PutSpec b r.body) : PutSpec b (v.word o p r i).body := by
  unfold Vp.word
  extract_lets f
  split
  · exact h
  · split
    · exact h
    · split
      · exact putSpec_storeChunk v o p i h
      · split
        · exact h
        · split <;> exact h

theorem putSpec_sec (n : Nat) (p : VAt) (h : PutSpec b r.body) : PutSpec b (v.sec o n p r).body :=
  List.foldlRecOn (motive := fun (r : VRun) => PutSpec b r.body) _ _ h fun _ hr i _ => putSpec_word v o p i hr

theorem putSpec_bodySec (n core row : Nat) (h : PutSpec b r.body) : PutSpec b (v.bodySec o n core row r).body :=
  List.foldlRecOn (motive := fun (r : VRun) => PutSpec b r.body) _ _ h fun _ hr _ _ => putSpec_sec v o n _ hr

theorem putSpec_row (core row : Nat) (h : PutSpec b r.body) : PutSpec b (v.row o core r row).body := by
  have h0 : PutSpec b ({ r with accs := v.accs0 } : VRun).body := h
  exact putSpec_bodySec v o 5 core row (putSpec_sec v o 4 _ (putSpec_bodySec v o 3 core row (putSpec_sec v o 2 _
    (putSpec_bodySec v o 1 core row h0))))

/-- Rows that run in sound memory leave the cores, and lose no byte. -/
theorem vecRows_sound (b : Body) (x : CtxId) (c : Fin 32) (run : VecRun) (upto : Nat) (hs : b.mem.sound = true) :
    (vecRows o b x c v run upto).body.1.cores = b.cores ∧ (vecRows o b x c v run upto).body.2.lost = none := by
  unfold vecRows
  extract_lets fresh b0 r0 r1
  have hcores : b0.cores = b.cores := by
    unfold b0
    split <;> rfl
  have hmem : b0.mem = b.mem := by
    unfold b0
    split <;> rfl
  have h0 : PutSpec b0 r0.body := ⟨b0.memoryAlone_refl, hmem ▸ hs, rfl, fun _ _ h => h⟩
  have h1 : PutSpec b0 r1.body := by
    unfold r1
    split
    · exact putSpec_sec v o 0 _ h0
    · exact h0
  have h := List.foldlRecOn (motive := fun (r : VRun) => PutSpec b0 r.body) ((List.range upto).drop run.row) (v.row o c.val) h1
    fun _ hr row _ => putSpec_row v o c.val row hr
  obtain ⟨-, -, -, -, -, -, -, hc, -⟩ := Body.eqs_of_memoryAlone h.alone
  exact ⟨hc.trans hcores, h.lost⟩

end

/-- What rows that have run, none of whose bytes was lost, leave of a core: all that counts and harvests do not show. -/
theorem core_vecSettle {α : Type} {g : Core → α} (hg : ∀ (k : Core) a b c l,
      g { k with sat := a, nfIn := b, nfOut := c, cx := { k.cx with harv := l } } = g k)
    (o : Own) (x : CtxId) (c : Fin 32) (idx : Nat) (r : VRun) (hl : r.body.2.lost = none) (d : Fin 32) :
    g ((vecSettle o x c idx r).core d) = g (r.body.1.core d) := by
  unfold vecSettle
  extract_lets set b1 b2 b3
  rw [hl]
  have h1 : g (b1.core d) = g (r.body.1.core d) := Body.field_updCore c d fun k => hg k _ _ _ k.cx.harv
  have h2 : g (b2.core d) = g (b1.core d) := Body.field_updCore c d fun k => hg k k.sat k.nfIn k.nfOut _
  have h3 : b3.core d = b2.core d := by
    unfold b3
    split
    · next st a _ =>
      obtain ⟨-, hcores, -⟩ := b2.logged_logEntry o x.part c idx st a
      unfold Body.core
      rw [hcores]
    · rfl
  exact (congrArg g h3).trans (h2.trans h1)

/-! ### The stop -/

/-- The core of a context that stops, that runs and has no tile in its span and no write-out under way. -/
def Body.mayStop (b : Body) (x : CtxId) (c : Fin 32) : Prop :=
  (b.slot x.part x.slot).run = .stopping ∧ (b.core c).cx.seq = .running ∧ (b.core c).cx.quiet = true

section
variable {o : Own} {b : Body} {c : Fin 32} {row : Nat}

theorem preemptionPoint_none (h : (b.core c).ctx = none) : preemptionPoint o b c row = b := by
  unfold preemptionPoint
  rw [h]

variable {x : CtxId} (hx : (b.core c).ctx = some x)
include hx

theorem preemptionPoint_goes (h : ¬ b.mayStop x c) : preemptionPoint o b c row = b := by
  unfold preemptionPoint
  rw [hx]
  exact if_neg h

theorem preemptionPoint_stops (h : b.mayStop x c) (hk : ((vecStop o b c x row).core c).ctx = some x) :
    preemptionPoint o b c row = (vecStop o b c x row).updCx c CoreCtx.stand := by
  unfold preemptionPoint
  rw [hx]
  exact (if_pos h).trans (if_pos hk)

end

theorem vecStop_none {o : Own} {b : Body} {c : Fin 32} {x : CtxId} {row : Nat} (h : (b.core c).cx.vec = none) : vecStop o b c x row = b := by
  unfold vecStop
  rw [h]

/-- A core whose vector entry stands at a row. -/
def CoreCtx.vecAt (k : CoreCtx) (w : VecRun) : CoreCtx := { k with vec := some w }

/-- Rows that have run, whose entry stands at a row. -/
def VRun.standAt (r : VRun) (c : Fin 32) (idx upto : Nat) : VRun :=
  { r with body := (r.body.1.updCx c (·.vecAt ⟨idx, upto, r.regs, r.flags⟩), r.body.2) }

/-- The body once the rows of a vector entry up to one have run, and the entry stands there. -/
def Body.vecStopped (b : Body) (o : Own) (x : CtxId) (c : Fin 32) (v : Vp) (run : VecRun) (upto : Nat) : Body :=
  vecSettle o x c run.idx ((vecRows o b x c v run upto).standAt c run.idx upto)

/-- A core's context without what a vector entry's stop changes. -/
def Core.unvectored (k : Core) : Core := { k with sat := 0, nfIn := 0, nfOut := 0, cx := { k.cx with harv := [], vec := none } }

section
variable {b : Body} {c : Fin 32} (hs : b.mem.sound = true) (hc : c.val < b.cores.length)
include hs hc

theorem Body.core_vecStopped (o : Own) (x : CtxId) (v : Vp) (run : VecRun) (upto : Nat) :
    ((b.vecStopped o x c v run upto).core c).unvectored = (b.core c).unvectored ∧
      ((b.vecStopped o x c v run upto).core c).cx.vec.map (fun w => (w.idx, w.row)) = some (run.idx, upto) := by
  obtain ⟨hcores, hlost⟩ := vecRows_sound v o b x c run upto hs
  have hcore : (((vecRows o b x c v run upto).standAt c run.idx upto).body.1.core c) = { b.core c with
      cx := (b.core c).cx.vecAt ⟨run.idx, upto, (vecRows o b x c v run upto).regs, (vecRows o b x c v run upto).flags⟩ } := by
    unfold VRun.standAt
    rw [Body.core_updCx _ c _ (hcores.symm ▸ hc)]
    unfold Body.core
    rw [hcores]
  unfold Body.vecStopped
  generalize hr : (vecRows o b x c v run upto).standAt c run.idx upto = r at hcore
  have hkeep : r.body.2.lost = none := by
    rw [← hr]
    exact hlost
  constructor
  · rw [core_vecSettle (g := Core.unvectored) (fun _ _ _ _ _ => rfl) o x c run.idx r hkeep c, hcore]
    rfl
  · rw [core_vecSettle (g := fun k => k.cx.vec.map fun w => (w.idx, w.row)) (fun _ _ _ _ _ => rfl) o x c run.idx r hkeep c, hcore]
    rfl

theorem vecStop_stops {o : Own} {x : CtxId} {row : Nat} {run : VecRun} {l : Launched} (hv : (b.core c).cx.vec = some run)
    (hl : (b.core c).cx.launched.find? (·.idx == run.idx) = some l) :
    ((vecStop o b c x row).core c).unvectored = (b.core c).unvectored ∧
      ((vecStop o b c x row).core c).cx.vec.map (fun w => (w.idx, w.row)) =
        some (run.idx, min (vpOf (b.imageOf x) l.ref).rows (max row run.row)) := by
  have href : ((b.core c).cx.launched.find? (·.idx == run.idx)).elim 0 (·.ref) = l.ref := by rw [hl]; rfl
  unfold vecStop
  rw [hv]
  dsimp only
  rw [href]
  generalize vpOf (b.imageOf x) l.ref = v
  generalize hu : min v.rows (max row run.row) = upto
  rw [Body.operands_sound x c run.idx _ hs]
  split
  · next heq => exact ⟨rfl, by rw [hv, heq]; rfl⟩
  · exact b.core_vecStopped hs hc o x v run upto

end

/-! ### The command -/

/-- A core that holds a context is one of the module's. -/
theorem Body.core_lt_of_ctx {b : Body} {c : Fin 32} {x : CtxId} (h : (b.core c).ctx = some x) : c.val < b.cores.length := by
  refine Nat.lt_of_not_le fun hle => ?_
  unfold Body.core at h
  rw [List.getD_eq_default _ _ hle] at h
  cases h

section
variable {s : State} {c : Fin 32} {x : CtxId} {row : Nat}

theorem execPreemptionPoint_same (h : preemptionPoint s.own s.body c row = s.body) : exec (.preemptionPoint c row) s = .next s :=
  State.onBody_same (f := fun o b => preemptionPoint o b c row) h

variable (hcl : s.body.clocked = true) (hx : (s.body.core c).ctx = some x) (h : s.body.mayStop x c)
include hcl hx h

theorem execPreemptionPoint_stands (hv : (s.body.core c).cx.vec = none) :
    exec (.preemptionPoint c row) s = .next { s with body := s.body.updCx c fun k => { k with seq := .preempted } } := by
  refine (State.onBody_clocked (fun o b => preemptionPoint o b c row) hcl).trans ?_
  have hstop : vecStop s.own s.body c x row = s.body := vecStop_none hv
  rw [preemptionPoint_stops hx h (hstop.symm ▸ hx), hstop]
  rfl

theorem execPreemptionPoint_vector {v : VecRun} {l : Launched} (hv : (s.body.core c).cx.vec = some v)
    (hl : (s.body.core c).cx.launched.find? (·.idx == v.idx) = some l) (hs : s.body.mem.sound = true) :
    ∃ t, exec (.preemptionPoint c row) s = .next t ∧ t.own = s.own ∧ (t.body.core c).cx.seq = .preempted ∧
      (t.body.core c).cx.launched = (s.body.core c).cx.launched ∧
      (t.body.core c).cx.vec.map (fun w => (w.idx, w.row)) =
        some (v.idx, min (vpOf (s.body.imageOf x) l.ref).rows (max row v.row)) := by
  obtain ⟨hrest, hvec⟩ := vecStop_stops (o := s.own) (x := x) (row := row) hs (Body.core_lt_of_ctx hx) hv hl
  have hk : ((vecStop s.own s.body c x row).core c).ctx = some x := (congrArg Core.ctx hrest).trans hx
  have hcore := (vecStop s.own s.body c x row).core_updCx c CoreCtx.stand (Body.core_lt_of_ctx hk)
  have hexec : exec (.preemptionPoint c row) s = .next { s with body := _ } :=
    (State.onBody_clocked (fun o b => preemptionPoint o b c row) hcl).trans (by rw [preemptionPoint_stops hx h hk])
  refine ⟨_, hexec, rfl, ?_, ?_, ?_⟩
  · dsimp only
    rw [hcore]
    rfl
  · dsimp only
    rw [hcore]
    exact (congrArg (fun k : Core => k.cx.launched) hrest :)
  · dsimp only
    rw [hcore]
    exact hvec

end

end Sys2Proof.Machine

/-! PROOFS. The entries that a sequencer handles itself (O47). -/

namespace Sys2Proof.Machine

open Sys2Proof

section
variable {s : State} {c : Fin 32} {x : CtxId} {e : Ae}

/-- A core whose WAIT blocks: the WAIT waits for its event to reach ARG, and nothing that is out changes. -/
theorem CoreCtx.waiting_block (k : CoreCtx) (e : Ae) : (k.block e).waiting.map (fun w => (w.idx, w.evt.toNat, w.ref, w.counter)) =
    some (k.aeIdx.toNat, e.evt % 256, e.arg, 0) := by
  simp [CoreCtx.block, Launched.new]

theorem execBtCommitEntry_commits (hf : Claims.fetched s c) (hn : s.body.nextAe c kBtCommit = some (x, e)) (hm : s.body.mayLaunch c = true)
    (hi : ∀ l ∈ (s.body.core c).cx.launched, l.idx ≠ (s.body.core c).cx.aeIdx.toNat) (hevt : e.evt < 256) {r : BtRec}
    (hr : btFind (s.body.imageOf x) e.arg = some r) (hany : (s.body.slot x.part x.slot).bts.any (·.id == r.id) = true)
    (hs : s.body.mem.sound = true) :
    let l := (s.body.slot x.part x.slot).bt r.id
    ∃ t, exec (.btCommitEntry c) s = .next t ∧ t.own = s.own ∧ t.body.mem = s.body.mem ∧ Claims.counts s t x e.evt ∧
      (t.body.core c).cx.aeIdx = (s.body.core c).cx.aeIdx + 1 ∧ (t.body.core c).cx.launched = (s.body.core c).cx.launched ∧
      ((l.swap = true ∨ btWalk s.body.mem r (r.inactive l) r.maxEnt 0 = none) → Claims.quiet s t ∧
        (t.body.slot x.part x.slot).bt r.id = ⟨l.id, !l.slot1, false, false⟩ ∧
        (t.body.core c).cx.btref = (s.body.core c).cx.btref) ∧
      (∀ i, l.swap = false → btWalk s.body.mem r (r.inactive l) r.maxEnt 0 = some i →
        (t.body.slot x.part x.slot).bt r.id = { l with empty := true } ∧ (t.body.core c).cx.btref = true ∧
        ((s.body.part x.part).events.length < 1024 → (t.body.part x.part).events = (s.body.part x.part).events ++
          [faultRecord 2 stBounds (0, c.val) (r.id * 2 ^ 32 + i) s.body.fab.time])) := by
  intro l
  by_cases hgo : l.swap = true ∨ btWalk s.body.mem r (r.inactive l) r.maxEnt 0 = none
  · obtain ⟨t, hexec, hown, hmem, hcount, hidx, hlaunched, hquiet, hbt, hbtref⟩ :=
      execBtCommitEntry_swaps hf hn hm hi hevt hr hany hs hgo
    refine ⟨t, hexec, hown, hmem, hcount, hidx, hlaunched, fun _ => ⟨hquiet, hbt, hbtref⟩, fun i hsw hw => ?_⟩
    rcases hgo with hsw' | hw'
    · exact absurd (hsw'.symm.trans hsw) (by decide)
    · exact absurd (hw'.symm.trans hw) (by simp)
  · obtain ⟨hsw, hw⟩ := not_or.mp hgo
    obtain ⟨i, hi'⟩ := Option.ne_none_iff_exists'.mp hw
    obtain ⟨t, hexec, hown, hmem, hcount, hidx, hlaunched, hbt, hbtref, hev⟩ :=
      execBtCommitEntry_fails hf hn hm hi hevt hr hany hs (Bool.eq_false_iff.mpr hsw) hi'
    refine ⟨t, hexec, hown, hmem, hcount, hidx, hlaunched, fun h => absurd h hgo, fun j _ hj => ?_⟩
    cases Option.some.inj (hi'.symm.trans hj)
    exact ⟨hbt, hbtref, hev⟩

theorem execSlot_completes (hf : Claims.fetched s c) (hn : s.body.nextAe c kSlot = some (x, e)) :
    ∃ t, exec (.slot c) s = .next t ∧ t.own = s.own ∧ t.body.mem = s.body.mem ∧ Claims.counts s t x e.evt ∧
      (t.body.core c).cx.aeIdx = (s.body.core c).cx.aeIdx + 1 ∧
      (s.body.guestWaiting x.part x.slot = none → Claims.quiet s t ∧ (t.body.core c).cx.seq = .running ∧
        (t.body.slot x.part x.slot).run = .running) ∧
      (∀ g, s.body.guestWaiting x.part x.slot = some g → g ≠ x.slot → Claims.slotsWhole s →
        (startRefused s.own s.body x.part g = false → Claims.quiet s t ∧ (t.body.core c).cx.seq = .preempted ∧
          (t.body.slot x.part x.slot).run = .stopping ∧ (t.body.slot x.part x.slot).underGuest = some g ∧
          (t.body.slot x.part g).run = .restoring ∧ (t.body.slot x.part g).invoke = (s.body.slot x.part g).guest ∧
          (t.body.slot x.part g).guest = none) ∧
        (startRefused s.own s.body x.part g = true → (t.body.core c).cx.seq = .running ∧
          (t.body.slot x.part x.slot).run = .running ∧ (t.body.slot x.part g).guest = none ∧
          (t.body.slot x.part g).ctx = (s.body.slot x.part g).ctx ∧
          ∀ k1, (s.body.slot x.part g).guest = some k1 → s.body.mail.length = 9 → (∀ m ∈ s.body.mail, m.length = 4) →
            (t.body.mailbox k1.page k1.mb).resp = respBytes stBounds k1.tag 0 (invokeResult stBounds
              (s.body.slot x.part g).decision false 0xFF 0xFFFF))) := by
  obtain ⟨u, hexec, hread, hmem, hcount, hidx⟩ := execSlot_steps hn hf
  refine ⟨_, hexec, rfl, hmem, hcount, hidx, slot_goesOn hn hread, fun g h hg hw => ⟨fun hr => ?_, fun hr => ?_⟩⟩
  · obtain ⟨hquiet, hseq, hstop, hunder, hguest⟩ := slot_hosts hn hread h hg hw hr
    exact ⟨hquiet, hseq, hstop, hunder, by rw [hguest]; rfl, by rw [hguest]; rfl, by rw [hguest]; rfl⟩
  · obtain ⟨hseq, hrun, hguest, hresp⟩ := slot_refuses hn hread h hg hw hr
    exact ⟨hseq, hrun, by rw [hguest], by rw [hguest], hresp⟩

end

/-- Settles O47: by the rule of each entry, and of each kind of end and stop. -/
theorem sequencerEntries : Obligations.SequencerEntries := by
  unfold Obligations.SequencerEntries
  refine ⟨fun s c cmd kind hcl hk => ?reads, ⟨fun s c x e hf hn => ?wait, fun s c x w hcl hx hw => ?release, fun s c _ h => ?unblocked,
    fun s c x e hf hn => execSignal_counts hf hn⟩, fun s c x e hf hn => ?commit, fun s c x e hf hn => execSlot_completes hf hn,
    ⟨fun s c x e hf hn => execEnd_issued hf hn, fun s c _ h => ?idle, fun s c x hcl hx => ?ends⟩, fun s c row hcl => ?point⟩
  case reads =>
    obtain ⟨f, hi⟩ := exists_issuesAs c hk
    exact ⟨hi.held, fun x w hfl hx hw => hi.bad hcl hfl hx hw, hi.nothing⟩
  case wait =>
    refine ⟨execWait_passes hf hn, fun h => ?_⟩
    obtain ⟨t, hexec, hquiet, hmem, hparts, hcx⟩ := execWait_blocks hf hn h
    refine ⟨t, hexec, hquiet, hmem, hparts, ?_, ?_, ?_⟩
    · rw [hcx]; rfl
    · rw [hcx, CoreCtx.waiting_block]
    · rw [hcx]; rfl
  case release => exact ⟨execWaitRelease_releases hx hw hcl, execWaitRelease_stays hx hw⟩
  case unblocked => exact State.onBody_same (f := fun _ b => waitRelease b c) (waitRelease_none h)
  case commit => exact ⟨execBtCommitEntry_full hf hn, fun r hm hi hevt hr hany hs => execBtCommitEntry_commits hf hn hm hi hevt hr hany hs⟩
  case idle => exact execEndComplete_same (endComplete_none h)
  case ends =>
    refine ⟨fun h => execEndComplete_same (endComplete_waits hx h), fun h hw => ?_⟩
    obtain ⟨t, hexec, hquiet, hcount, hcx, hbyte⟩ := execEndComplete_ends hcl hx h hw
    refine ⟨t, hexec, hquiet, hcount, hcx, fun a ha => hbyte a ?_⟩
    rintro ⟨tab, h, htab, hh, hin⟩
    exact ha tab h htab hh hin
  case point =>
    refine ⟨fun h => execPreemptionPoint_same (preemptionPoint_none h), fun x hx => ⟨fun h =>
      execPreemptionPoint_same (preemptionPoint_goes hx h), fun h hv => execPreemptionPoint_stands hcl hx h hv, fun v l h hv hl hs =>
      execPreemptionPoint_vector hcl hx h hv hl hs⟩⟩

end Sys2Proof.Machine

/-! PROOFS. A halted core's tile that finishes: what it, its write-outs and the older requests that they wait for leave for the teardown of its
job to find (R114, R130, R218). -/

namespace Sys2Proof.Machine

open Sys2Proof

/-! ### What a teardown finds -/

/-- A slot without its events and the refusals that it has reported. -/
def Slot.unlogged (y : Slot) : Slot := { y with events := [], reported := [] }

/-- What a core shows of its job and its faults. -/
def Core.fault (k : Core) : Option CtxId × SeqState × Bool × W16 × Byte := (k.ctx, k.cx.seq, k.cx.ovr, k.cx.ovrAe, k.cx.ovrKind)

/-- t is as b for the teardown of a job: mailboxes, the fabric, slots but for their events, event records, and what g shows of each core;
and memory that was sound is sound. -/
structure Body.Attends {α : Type} (g : Core → α) (b t : Body) : Prop where
  mail   : t.mail = b.mail
  fab    : t.fab = b.fab
  parts  : t.parts.length = b.parts.length
  slots  : ∀ p, (t.part p).slots.length = (b.part p).slots.length
  slot   : ∀ p k, (t.slot p k).unlogged = (b.slot p k).unlogged
  events : ∀ p r, r ∈ (b.part p).events → r ∈ (t.part p).events
  core   : ∀ c, g (t.core c) = g (b.core c)
  sound  : b.mem.sound = true → t.mem.sound = true

section
variable {α : Type} {g : Core → α}

theorem Body.attends_refl (b : Body) : b.Attends g b := ⟨rfl, rfl, rfl, fun _ => rfl, fun _ _ => rfl, fun _ _ h => h, fun _ => rfl, fun h => h⟩

theorem Body.Attends.trans {b t u : Body} (h : b.Attends g t) (k : t.Attends g u) : b.Attends g u :=
  ⟨k.mail.trans h.mail, k.fab.trans h.fab, k.parts.trans h.parts, fun p => (k.slots p).trans (h.slots p),
    fun p j => (k.slot p j).trans (h.slot p j), fun p r hr => k.events p r (h.events p r hr), fun c => (k.core c).trans (h.core c),
    fun hs => k.sound (h.sound hs)⟩

/-- What is kept keeps what it shows. -/
theorem Body.Attends.map {β : Type} {b t : Body} (h : b.Attends g t) (f : α → β) : b.Attends (fun k => f (g k)) t :=
  { h with core := fun c => congrArg f (h.core c) }

theorem Body.Attends.slotsWhole {b t : Body} (h : b.Attends g t) (hw : b.slotsWhole) : t.slotsWhole :=
  ⟨h.parts.trans hw.1, fun p => (h.slots p).trans (hw.2 p)⟩

/-- A fold of operations, each of which leaves sound memory's state so. -/
theorem Body.attends_foldl {β : Type} {f : Body → β → Body} (h : ∀ (t : Body) (x : β), t.mem.sound = true → t.Attends g (f t x))
    (l : List β) {b : Body} (hs : b.mem.sound = true) : b.Attends g (l.foldl f b) :=
  List.foldlRecOn (motive := b.Attends g) l f b.attends_refl fun t ht x _ => ht.trans (h t x (ht.sound hs))

variable (b : Body)

theorem Body.attends_of_memoryAlone {b t : Body} (h : b.memoryAlone t) (hs : t.mem.sound = true) : b.Attends g t := by
  obtain ⟨-, -, hmail, hfab, -, -, hparts, hcores, -⟩ := Body.eqs_of_memoryAlone h
  refine ⟨hmail, hfab, congrArg List.length hparts, fun p => ?_, fun p k => ?_, fun p r hr => ?_, fun c => ?_, fun _ => hs⟩
  · rw [Body.part_of_memoryAlone h]
  · rw [slot_of_parts hparts]
  · rwa [Body.part_of_memoryAlone h]
  · unfold Body.core
    rw [hcores]

theorem Body.attends_updCore (c : Fin 32) {f : Core → Core} (hf : ∀ k, g (f k) = g k) : b.Attends g (b.updCore c f) :=
  ⟨rfl, rfl, rfl, fun _ => rfl, fun _ _ => rfl, fun _ _ h => h, fun d => Body.field_updCore c d hf, fun h => h⟩

theorem Body.attends_updCx (c : Fin 32) {f : CoreCtx → CoreCtx} (hf : ∀ k : Core, g { k with cx := f k.cx } = g k) :
    b.Attends g (b.updCx c f) := b.attends_updCore c hf

theorem Body.attends_updMem {f : Mem → Mem} (hf : (f b.mem).sound = true) : b.Attends g (b.updMem f) :=
  ⟨rfl, rfl, rfl, fun _ => rfl, fun _ _ => rfl, fun _ _ h => h, fun _ => rfl, fun _ => hf⟩

theorem Body.attends_emit (x : Out) : b.Attends g (b.emit x) :=
  ⟨rfl, rfl, rfl, fun _ => rfl, fun _ _ => rfl, fun _ _ h => h, fun _ => rfl, fun h => h⟩

theorem Body.attends_updBoard (f : Board → Board) : b.Attends g (b.updBoard f) :=
  ⟨rfl, rfl, rfl, fun _ => rfl, fun _ _ => rfl, fun _ _ h => h, fun _ => rfl, fun h => h⟩

theorem Body.attends_updSlot (p : Fin 8) (k : Fin 4) {f : Slot → Slot} (hf : ∀ y, (f y).unlogged = y.unlogged) :
    b.Attends g (b.updSlot p k f) := by
  refine ⟨rfl, rfl, b.updPart_parts_length _ _, fun q => ?_, fun q j => Body.field_slot_updSlot p q k j hf, fun q r hr => ?_, fun _ => rfl,
    fun h => h⟩
  · exact Body.field_updPart (g := fun y => y.slots.length) p q fun y => length_modify_eq _ _ _
  · have he : ((b.updSlot p k f).part q).events = (b.part q).events := Body.field_updPart (g := Part.events) p q (by intro _; rfl)
    rwa [he]

theorem Part.mem_recorded {y : Part} {r x : EventRec} (h : x ∈ y.events) : x ∈ (y.recorded r).events := by
  unfold Part.recorded
  split
  · exact h
  · exact List.mem_append_left _ h

theorem Body.attends_appendEvent (o : Own) (p : Fin 8) (r : EventRec) : b.Attends g (b.appendEvent o p r) := by
  have hfired := b.fired_appendEvent o p r
  obtain ⟨hmail, -, -, -, hfab, hmem, -⟩ := b.logged_appendEvent o p r
  have hslots : ∀ q, ((b.appendEvent o p r).part q).slots = (b.part q).slots := fun q => by
    rw [hfired.answered.part]
    exact Body.field_updPart (g := Part.slots) p q fun y => y.recorded_slots r
  refine ⟨hmail, hfab, ?_, fun q => congrArg List.length (hslots q), fun q k => ?_, fun q x hx => ?_, fun c => ?_, fun h => ?_⟩
  · rw [hfired.answered.parts]
    exact b.updPart_parts_length _ _
  · rw [b.slot_appendEvent]
  · rw [hfired.answered.part]
    rcases b.part_updPart_or p q (·.recorded r) with hq | ⟨-, hq⟩
    · rwa [hq]
    · rw [hq]
      exact Part.mem_recorded hx
  · rw [b.core_appendEvent]
  · rwa [hmem]

theorem Body.attends_logRefusal (o : Own) (p : Fin 8) (st : W16) (src : Nat × Nat) (a : Nat) : b.Attends g (b.logRefusal o p st src a) := by
  unfold Body.logRefusal
  extract_lets b1
  have h1 : b.Attends g b1 := b.attends_appendEvent o p _
  split
  · exact h1.trans (b1.attends_updBoard _)
  · exact h1

theorem Body.attends_logEntry (o : Own) (p : Fin 8) (c : Fin 32) (idx : Nat) (st : W16) (a : Nat) :
    b.Attends g (b.logEntry o p c idx st a) := by
  unfold Body.logEntry
  split
  · split
    · exact b.attends_refl
    · next x _ _ =>
      have h1 : b.Attends g (b.updSlot x.part x.slot fun s => { s with reported := s.reported ++ [(c, idx)] }) :=
        b.attends_updSlot _ _ (by intro _; rfl)
      exact h1.trans (Body.attends_logRefusal _ o p st (0, c.val) a)
  · exact b.attends_logRefusal o p st _ a

/-! ### Older requests, in sound memory -/

theorem Body.attends_atStack (l : DramLoc) (f : Stack → Stack) (hs : b.mem.sound = true) : b.Attends g (b.atStack l f) :=
  Body.attends_of_memoryAlone (b.memoryAlone_atStack l f) hs

theorem attends_readNow (o : Own) (r : DReq) (hs : b.mem.sound = true) : b.Attends g (readNow o b r) := by
  obtain ⟨hp, hu⟩ := Mem.sound_iff.mp hs
  have hgood : b.mem.firstBad (wordSize o.maps r.addr) r.addr r.n = none := by
    rw [Mem.firstBad_eq_none_iff]
    simp [Mem.badWords, hp, hu]
  rw [readNow_sound hu hgood]
  unfold answerRead
  split
  · exact b.attends_emit _
  · exact b.attends_emit _

theorem attends_drainOne (o : Own) (l : DramLoc) (hs : b.mem.sound = true) : b.Attends g (drainOne o b l) := by
  unfold drainOne
  extract_lets q
  split
  · exact b.attends_refl
  · split
    · exact b.attends_refl
    · refine Body.attends_of_memoryAlone (Body.memoryAlone_trans (b.memoryAlone_atStack l _) (Body.memoryAlone_countWrites o _ _ _)) ?_
      rwa [Body.countWrites_mem]

theorem attends_serveLc (o : Own) (l : DramLoc) (hs : b.mem.sound = true) : b.Attends g (serveLc o b l) := by
  unfold serveLc
  extract_lets b1
  have h1 : b.Attends g b1 := by
    unfold b1
    split
    · exact attends_drainOne b o l hs
    · exact b.attends_refl
  exact h1.trans (b1.attends_atStack l _ (h1.sound hs))

/-- A request that is served in sound memory raises no fault. -/
theorem attends_serve (o : Own) (l : DramLoc) (r : DReq) (hs : b.mem.sound = true) : b.Attends g (serve o b l r) := by
  cases hd : r.data with
  | some d =>
    rw [serve_write hd (Mem.sound_iff.mp hs).2 (Mem.lostWords_sound _ _ _ hs)]
    have h1 := b.attends_updMem (g := g) (f := (·.writeMasked (wordSize o.maps r.addr) r.addr d)) (Mem.sound_writeMasked _ _ _ hs)
    exact h1.trans (Body.attends_atStack _ l _ (h1.sound hs))
  | none =>
    unfold serve
    rw [hd]
    dsimp only
    split
    · have h1 := b.attends_atStack (g := g) l (·.latency r) hs
      exact h1.trans (attends_readNow _ o r (h1.sound hs))
    · have h1 : b.Attends g (if r.lc then serveLc o b l else b.atStack l fun s => s.updPc l.pc fun q => { q with lcRow := 0 }) := by
        split
        · exact attends_serveLc b o l hs
        · exact b.attends_atStack l _ hs
      generalize (if r.lc then serveLc o b l else b.atStack l fun s => s.updPc l.pc fun q => { q with lcRow := 0 }) = b1 at h1 ⊢
      have h2 : b1.Attends g (b1.countReads o r.addr r.n) :=
        Body.attends_of_memoryAlone (b1.memoryAlone_traffic _ _) (by rw [Body.countReads_mem]; exact h1.sound hs)
      have h3 := (h1.trans h2).trans (Body.attends_atStack _ l (·.latency r) (h2.sound (h1.sound hs)))
      exact h3.trans (attends_readNow _ o r (h3.sound hs))

theorem attends_serveOlder (o : Own) (a n : Nat) (hs : b.mem.sound = true) : b.Attends g (serveOlder o b a n) := by
  unfold serveOlder
  split
  · exact b.attends_refl
  · refine Body.attends_foldl (fun t x ht => ?_) _ hs
    have h1 := t.attends_atStack (g := g) x.1 (fun s => s.updPc x.1.pc fun q => { q with waiting := q.waiting.erase x.2 }) ht
    exact h1.trans (attends_serve _ o x.1 x.2 (h1.sound ht))

theorem Body.attends_ordered (o : Own) (rs : List (Nat × Nat)) (hs : b.mem.sound = true) : b.Attends g (b.ordered o rs) :=
  Body.attends_foldl (fun t r ht => attends_serveOlder t o r.1 r.2 ht) rs hs

/-- An entry's writes in sound memory raise no fault. -/
theorem Body.attends_put (o : Own) (x : CtxId) (c : Fin 32) (idx : Nat) (ws : List (Nat × List (Option Byte))) (hs : b.mem.sound = true) :
    b.Attends g (b.put o x c idx ws) := by
  unfold Body.put Body.putOrdered
  have h1 : b.Attends g (b.ordered o ((joinWrites ws).map fun w => (w.1, w.2.length))) := b.attends_ordered o _ hs
  generalize b.ordered o ((joinWrites ws).map fun w => (w.1, w.2.length)) = t at h1 ⊢
  have hput := putSpec_putAll (o := o) (entryOf x c idx) ws (h1.sound hs)
  extract_lets r b1
  have h2 : b.Attends g r.1 := h1.trans (Body.attends_of_memoryAlone hput.alone hput.sound)
  have h3 : b.Attends g b1 := by
    unfold b1
    split
    · exact h2.trans (Body.attends_logEntry _ o _ _ _ _ _)
    · exact h2
  have hlost : r.2.lost = none := hput.lost
  rw [hlost]
  exact h3

/-! ### The tile and its write-outs -/

end

section
variable (b : Body) (x : CtxId) (c : Fin 32)

theorem Slot.unlogged_event (y : Slot) (e : Nat) : (y.event e).unlogged = y.unlogged := by
  unfold Slot.event
  split <;> rfl

theorem Body.attends_complete (idx : Nat) : b.Attends Core.fault (b.complete x c idx) := by
  unfold Body.complete
  split
  · exact b.attends_refl
  · next l _ => exact (b.attends_updCx c (by intro _; rfl)).trans (Body.attends_updSlot _ _ _ fun y => y.unlogged_event l.evt.toNat)

theorem Body.attends_observe (set : Byte × Byte) (vals : List W32) : b.Attends Core.fault (b.observe c set vals) :=
  b.attends_updCx c (by intro _; rfl)

theorem attends_drainOuts (n : Nat) : b.Attends Core.fault (drainOuts x c n b) := by
  induction n generalizing b with
  | zero => exact b.attends_refl
  | succ n ih =>
    unfold drainOuts
    split
    · next q rest _ =>
      split
      · exact b.attends_refl
      · have hout : b.Attends Core.fault (b.updCx c fun k => { k with outs := rest }) := b.attends_updCx c (by intro _; rfl)
        refine Body.Attends.trans ?_ (ih _)
        split
        · exact hout.trans (Body.attends_complete _ x c q.idx)
        · exact hout
    · exact b.attends_refl

theorem Piece.sound_store (p : Piece) (core j : Nat) (rs : List ((Nat × Nat) × Acc)) {m : Mem} (h : m.sound = true) :
    (p.store core j rs m).sound = true :=
  List.foldlRecOn (motive := fun (m : Mem) => m.sound = true) _ _ h fun _ hm _ _ => Mem.sound_writeMasked _ _ _ hm

theorem Core.fault_pressOverflow (k : Core) (idx ovf nfIn : Nat) : (k.pressOverflow idx ovf nfIn).fault = k.fault := by
  unfold Core.pressOverflow
  dsimp only
  split <;> rfl

variable {b c} (o : Own) (hs : b.mem.sound = true)
include hs

theorem attends_tileComplete : b.Attends Core.fault (tileComplete o b c) := by
  by_cases h : b.holds c = none ∨ ∀ r, (b.core c).cx.tile = some r → r.running = false
  · rw [tileComplete_idle h]
    exact b.attends_refl
  · simp only [not_or, not_forall, Bool.not_eq_false] at h
    obtain ⟨hx, r, hr, hrun⟩ := h
    obtain ⟨x, hx⟩ := Option.ne_none_iff_exists'.mp hx
    rw [tileComplete_ends hx hr hrun hs]
    generalize (b.slot x.part x.slot).piece b.mem r = p
    have hstored : b.Attends Core.fault (b.pieceStored p c r) :=
      (b.attends_updMem (p.sound_store c.val r.j _ hs)).trans (Body.attends_updCore _ c fun k => k.fault_pressOverflow _ _ _)
    refine hstored.trans ?_
    unfold Body.pieceDone
    extract_lets last b1
    exact Body.Attends.trans (t := b1) (Body.attends_updCx _ c (by intro _; rfl)) (attends_drainOuts b1 x c _)

theorem attends_writeOut : b.Attends Core.fault (writeOut o b c) := by
  by_cases h : b.holds c = none ∨ (b.core c).cx.outs = []
  · rw [writeOut_idle h]
    exact b.attends_refl
  · obtain ⟨hx, hq⟩ := not_or.mp h
    obtain ⟨x, hx⟩ := Option.ne_none_iff_exists'.mp hx
    obtain ⟨q, rest, hq⟩ := List.exists_cons_of_ne_nil hq
    rw [writeOut_ends hx hq hs]
    extract_lets t vals
    have hevents : b.Attends Core.fault (b.updCore c fun k => k.countEvs (vals.flatMap fun row => row.map (·.2))) :=
      b.attends_updCore c (by intro _; rfl)
    have hcounted : b.Attends Core.fault (b.outCounted c q t vals) := hevents.trans (Body.attends_observe _ c _ _)
    have hretired : (b.outCounted c q t vals).Attends Core.fault ((b.outCounted c q t vals).outRetired x c q rest) := by
      unfold Body.outRetired
      refine Body.Attends.trans ?_ (attends_drainOuts _ x c _)
      have hout := (b.outCounted c q t vals).attends_updCx (g := Core.fault) c (f := fun k => { k with outs := rest }) (by intro _; rfl)
      split
      · exact hout.trans (Body.attends_complete _ x c q.idx)
      · exact hout
    have h1 := hcounted.trans hretired
    exact h1.trans (Body.attends_put _ o x c q.idx _ (h1.sound hs))

/-- A halted core's tile finishes, with the write-outs before it and its own (R130). -/
theorem attends_finishTile : b.Attends Core.fault (finishTile o b c) := by
  have h1 := attends_tileComplete (c := c) o hs
  exact h1.trans (Body.attends_foldl (fun t _ ht => attends_writeOut o ht) _ (h1.sound hs))

end

/-- Without a tile in its engines or a write-out under way a core finishes nothing. -/
theorem finishTile_idle {o : Own} {b : Body} {c : Fin 32} (ht : (b.core c).cx.tile = none) (hq : (b.core c).cx.outs = []) :
    finishTile o b c = b := by
  have h1 : tileComplete o b c = b := tileComplete_idle (Or.inr fun r hr => absurd (ht.symm.trans hr) (by simp))
  unfold finishTile
  rw [h1]
  dsimp only
  rw [hq]
  rfl

end Sys2Proof.Machine

/-! PROOFS. The jobs of a context that a fault or a reset drops: what the groups that they finish leave, and the notices sent (R199, R321,
R435). -/

namespace Sys2Proof.Machine

open Sys2Proof

/-! ### Groups that finish -/

section
variable {β : Type} {f : Part → β} {S : Nat → Prop} (b : Body)

theorem Body.stores_corrected (o : Own) (a : Nat) : b.Stores f S (b.corrected o a) := by
  unfold Body.corrected
  extract_lets w
  exact (b.stores_countCe o a).trans (Body.stores_updMem _ fun _ _ => rfl)

theorem Body.stores_correctedIn (o : Own) (rs : List (Nat × Nat)) : b.Stores f S (b.correctedIn o rs) :=
  Body.stores_foldl (fun b a => b.stores_corrected o a) _ b

theorem Body.stores_of_memoryAlone {b t : Body} (h : b.memoryAlone t) (hm : t.mem = b.mem)
    (hw : ∀ a n, b.noneWaits a n = true → t.noneWaits a n = true) : b.Stores f S t := by
  obtain ⟨-, -, -, -, -, -, hparts, hcores, -⟩ := Body.eqs_of_memoryAlone h
  refine ⟨Body.inner_of_memoryAlone h, congrArg List.length hcores, fun c => ?_, congrArg List.length hparts, fun p => ?_, hw,
    fun _ _ => by rw [hm]⟩
  · unfold Body.core
    rw [hcores]
  · rw [Body.part_of_memoryAlone h]

theorem Body.stores_countReadsOf (o : Own) (rs : List (Nat × Nat)) : b.Stores f S (b.countReadsOf o rs) :=
  Body.stores_of_memoryAlone (b.memoryAlone_countReadsOf o rs) (Body.countReadsOf_mem o b rs) fun _ _ => Body.noneWaits_countReadsOf rs

/-- Writes that are made, with no view of where. -/
theorem Body.stores_putAll (o : Own) (who : Requester) (ws : List (Nat × List (Option Byte))) :
    b.Stores f (fun _ => True) (b.putAll o who ws).1 :=
  List.foldlRecOn (motive := fun (r : Body × Written) => b.Stores f (fun _ => True) r.1) _ _ b.stores_refl
    fun r hr _ _ => hr.trans (r.1.stores_store o _ _ fun _ _ => trivial)

/-- A group that finishes in the background of a teardown: its bytes and its counts (R199). -/
theorem Body.stores_finishGroup (o : Own) (j : QJob) : b.Stores f (fun _ => True) (b.finishGroup o j) := by
  unfold Body.finishGroup
  extract_lets s x ps n groups hi b1 reads stopped r
  have hfree : b.Stores f (fun _ => True) b1 :=
    ⟨⟨rfl, rfl, rfl, rfl, rfl, rfl⟩, rfl, fun _ => rfl, rfl, fun _ => rfl, fun _ _ h => h, fun _ _ => rfl⟩
  split
  · exact hfree
  · have hcount : (b1.correctedIn o reads).Stores f (fun _ => True)
        ((b1.correctedIn o reads).updCore j.core fun k => (k.countEvs r.2.1).count r.2.2.1 r.2.2.2 0) :=
      Body.stores_cores _ _ (by intro _; rfl)
    exact (hfree.trans (b1.stores_correctedIn o reads)).trans
      (hcount.trans ((Body.stores_countReadsOf _ o reads).trans (Body.stores_putAll _ o _ _)))

end

/-- A partition whose jobs of a context are dropped. -/
def Part.dropped (y : Part) (x : CtxId) : Part :=
  { y with
    collRuns := y.collRuns.filter fun r => r.ctx != x
    collHeld := y.collHeld.filter fun r => r.ctx != x
    mjs := y.mjs.filter fun m => m.ctx != x
    streams := y.streams.zipIdx.map fun ((t, i) : Stream × Nat) =>
      ((y.mjs.filter fun m => m.ctx == x && m.unit != 5 && m.session == none && m.stream == i).foldl
        (fun (t : Stream) m => { t with ended := t.ended ++ [(m.number, none)] }) t).settled
    encs := y.encs.zipIdx.map fun ((e, i) : EncSession × Nat) =>
      if y.mjs.any (fun m => m.ctx == x && m.session == some i) then { e with newSeq := true } else e }

/-- A quadrant whose jobs of a context are dropped. -/
def Quad.dropped (k : Quad) (x : CtxId) : Quad :=
  let q (l : List QJob) := l.filter fun j => j.ctx != x
  { k with
    rindQ := q k.rindQ, xfQ := q k.xfQ, xfRun := q k.xfRun, udQ := q k.udQ, udRun := q k.udRun,
    harv := k.harv.filter fun h => h.1 != x }

/-- No transform of a context is under way. -/
def Body.transformsNot (b : Body) (x : CtxId) : Prop := ∀ q ∈ b.quads, ∀ j ∈ q.xfRun, j.ctx ≠ x

section
variable (b : Body) (o : Own) (x : CtxId)

/-- Jobs dropped: what the groups that finished have stored, and then the quadrants and the partition without the jobs. -/
theorem Body.dropJobs_spec : ∃ t, b.Stores id (fun _ => True) t ∧ (b.transformsNot x → t = b) ∧
    b.dropJobs o x = { t.updPart x.part (·.dropped x) with quads := t.quads.map (·.dropped x) } := by
  refine ⟨_, Body.stores_foldl (fun b j => b.stores_finishGroup o j) ((b.quads.flatMap (·.xfRun)).filter fun j => j.ctx == x) b,
    fun h => ?_, rfl⟩
  have hnone : (b.quads.flatMap (·.xfRun)).filter (fun j => j.ctx == x) = [] := by
    refine List.filter_eq_nil_iff.mpr fun j hj => ?_
    obtain ⟨q, hq, hj⟩ := List.mem_flatMap.mp hj
    simpa using h q hq j hj
  rw [hnone]
  rfl

/-- What a teardown's jobs leave: all but quadrants, memory, counters and the partition's jobs. -/
structure Body.Drops (p : Fin 8) (b t : Body) : Prop where
  inner : b.inner t
  cores : t.cores.length = b.cores.length
  job   : ∀ c, (t.core c).job = (b.core c).job
  parts : t.parts.length = b.parts.length
  other : ∀ q, q ≠ p → t.part q = b.part q
  slots : (t.part p).slots = (b.part p).slots
  event : (t.part p).events = (b.part p).events

theorem Body.drops_dropJobs : b.Drops x.part (b.dropJobs o x) := by
  obtain ⟨t, ht, -, hdrop⟩ := b.dropJobs_spec o x
  rw [hdrop]
  refine ⟨Body.inner_trans ht.inner ⟨rfl, rfl, rfl, rfl, rfl, rfl⟩, ht.cores, ht.job, (t.updPart_parts_length _ _).trans ht.parts,
    fun q hq => (t.part_updPart_ne x.part q _ hq).trans (ht.part q), ?_, ?_⟩
  · exact (Body.field_updPart (g := Part.slots) x.part x.part (by intro _; rfl)).trans (congrArg Part.slots (ht.part x.part))
  · exact (Body.field_updPart (g := Part.events) x.part x.part (by intro _; rfl)).trans (congrArg Part.events (ht.part x.part))

variable {b x}

/-- With none of the context's transforms under way, nothing is finished. -/
theorem Body.dropJobs_eq (h : b.transformsNot x) :
    b.dropJobs o x = { b.updPart x.part (·.dropped x) with quads := b.quads.map (·.dropped x) } := by
  obtain ⟨t, -, hnone, hdrop⟩ := b.dropJobs_spec o x
  rw [hdrop, hnone h]

theorem Body.mem_dropJobs (h : b.transformsNot x) : (b.dropJobs o x).mem = b.mem := by
  rw [Body.dropJobs_eq o h]
  rfl

/-- No transform of another context begins. -/
theorem Body.transformsNot_dropJobs {y : CtxId} (hx : b.transformsNot x) (hy : b.transformsNot y) : (b.dropJobs o x).transformsNot y := by
  rw [Body.dropJobs_eq o hx]
  intro q hq j hj
  obtain ⟨k, hk, rfl⟩ := List.mem_map.mp hq
  exact hy k hk j (List.mem_filter.mp hj).1

end

/-! ### Abort notices -/

/-- t is b but for the fabric's links. -/
def Body.linksAlone (b t : Body) : Prop := t = { b with fab := { b.fab with links := t.fab.links } }

theorem Body.linksAlone_trans {b t u : Body} (h : b.linksAlone t) (k : t.linksAlone u) : b.linksAlone u := by
  unfold Body.linksAlone at *
  rw [k, h]

theorem Body.linksAlone_foldl {α : Type} {f : Body → α → Body} (h : ∀ (b : Body) (x : α), b.linksAlone (f b x)) (l : List α) (b : Body) :
    b.linksAlone (l.foldl f b) :=
  List.foldlRecOn (motive := b.linksAlone) l f rfl fun t ht x _ => Body.linksAlone_trans ht (h t x)

theorem Body.linksAlone_route (b : Body) (fwd : Option (Fin 24)) (m : Msg) : b.linksAlone (b.route fwd m) := by
  unfold Body.route
  extract_lets e m'
  split <;> rfl

theorem Body.linksAlone_sendAborts (b : Body) (cg : CollGroup) : b.linksAlone (b.sendAborts cg) := by
  refine Body.linksAlone_foldl (fun b r => ?_) _ b
  dsimp only
  split
  · rfl
  · exact b.linksAlone_route _ _

theorem Body.linksAlone_abortGroups (p : Fin 8) (gs : List Nat) (b : Body) : b.linksAlone (b.abortGroups p gs) := by
  refine Body.linksAlone_foldl (fun b i => ?_) _ b
  split
  · exact b.linksAlone_sendAborts _
  · rfl

end Sys2Proof.Machine

/-! PROOFS. The teardown of a job: what it leaves of cores, of the slot, of memory, and what INVOKE's final response carries (R130, R175, R414,
R435). -/

namespace Sys2Proof.Machine

open Sys2Proof

/-! ### Zeroed ranges -/

theorem VEntry.le_addr (v : VEntry) : 0xD800000000 ≤ v.addr := by
  unfold VEntry.addr cellarBase vatBase
  split <;> omega

theorem le_keepRanges {img : List Byte} {r : Nat × Nat} (h : r ∈ keepRanges img) : 0xD800000000 ≤ r.1 := by
  obtain ⟨v, -, rfl⟩ := List.mem_map.mp h
  exact v.le_addr

/-- Ranges that lie behind DRAM hold no byte of it. -/
theorem inRanges_dram {rs : List (Nat × Nat)} (h : ∀ r ∈ rs, 0xD800000000 ≤ r.1) {a : Nat} (ha : a < 0xD800000000) :
    inRanges rs a = false := by
  refine List.any_eq_false.mpr fun r hr => ?_
  have hle := h r hr
  simp only [Bool.and_eq_true, decide_eq_true_eq, not_and, not_lt]
  omega

theorem Mem.byte_zeroAll_dram {rs : List (Nat × Nat)} (h : ∀ r ∈ rs, 0xD800000000 ≤ r.1) (m : Mem) {a : Nat} (ha : a < 0xD800000000) :
    (m.zeroAll rs).byte a = m.byte a :=
  (Mem.byte_zeroAll rs m a).trans (if_neg (by rw [inRanges_dram h ha]; decide))

/-- No byte of DRAM is zeroed. -/
theorem Body.byte_zeroContext (b : Body) (img : List Byte) (r : Residence) {a : Nat} (ha : a < 0xD800000000) :
    (b.zeroContext img r).mem.byte a = b.mem.byte a := by
  have hpress : ∀ r ∈ (imgCores img).map fun c => (pressBase c.val, pressSize), 0xD800000000 ≤ r.1 := by
    intro r hr
    obtain ⟨c, -, rfl⟩ := List.mem_map.mp hr
    unfold pressBase
    dsimp only
    omega
  have hcellar : ∀ r ∈ (keepRanges img).filter fun r => cellarBase ≤ r.1, 0xD800000000 ≤ r.1 := fun r hr =>
    le_keepRanges (List.mem_filter.mp hr).1
  unfold Body.zeroContext
  extract_lets cs presses cellar mark
  have hzeroed : ∀ rs : List (Nat × Nat), (∀ r ∈ rs, 0xD800000000 ≤ r.1) → (mark (b.mem.zeroAll rs)).byte a = b.mem.byte a :=
    fun rs h => Mem.byte_zeroAll_dram h b.mem ha
  cases r with
  | none => rfl
  | kept => exact Mem.byte_zeroAll_dram (fun r hr => le_keepRanges hr) _ ha
  | shared =>
    refine hzeroed _ fun r hr => ?_
    rcases List.mem_append.mp hr with hr | hr
    · rcases List.mem_append.mp hr with hr | hr
      · obtain ⟨v, -, rfl⟩ := List.mem_map.mp hr
        exact v.le_addr
      · exact hpress r hr
    · exact hcellar r hr
  | alone =>
    refine hzeroed _ fun r hr => ?_
    rcases List.mem_append.mp hr with hr | hr
    · rcases List.mem_append.mp hr with hr | hr
      · obtain ⟨c, -, rfl⟩ := List.mem_map.mp hr
        unfold vatBase
        dsimp only
        omega
      · exact hpress r hr
    · exact hcellar r hr

theorem Body.zeroContext_eq (b : Body) (img : List Byte) (r : Residence) :
    b.zeroContext img r = { b with mem := (b.zeroContext img r).mem } := by
  unfold Body.zeroContext
  cases r <;> rfl

/-! ### The parts of a teardown -/

/-- Nothing changes but the fabric, mailboxes and what a vector does. -/
def Body.noticed (b t : Body) : Prop := t = { b with fab := t.fab, mail := t.mail, ports := t.ports, out := t.out }

theorem Body.noticed_of_linksAlone {b t u : Body} (h : b.linksAlone t) (k : t.answered u) : b.noticed u := by
  unfold Body.linksAlone at h
  unfold Body.answered at k
  unfold Body.noticed
  rw [k, h]

section
variable (b : Body) (o : Own) (p : Fin 8) (k : Fin 4)

/-- The body once a job's work is gone, its memory zeroed and its cores free, before its notices and answers. -/
def Body.jobGone : Body :=
  ((((b.dropJobs o ⟨p, k⟩).zeroContext (b.slot p k).image (b.slot p k).residence).releaseCores ⟨p, k⟩ CoreCtx.tornDown).updSlot p k
    Slot.unrun).guestBack p (b.slot p k).underGuest

/-- The same once the groups that it held are told. -/
def Body.jobTold : Body :=
  if (b.slot p k).invoke.isSome then (b.jobGone o p k).abortGroups p (collGroups (b.slot p k).image) else b.jobGone o p k

theorem Body.linksAlone_jobTold : (b.jobGone o p k).linksAlone (b.jobTold o p k) := by
  unfold Body.jobTold
  split
  · exact Body.linksAlone_abortGroups p _ _
  · rfl

theorem Body.teardown_noticed (st : W16) (core : Byte) (ae : W16) : (b.jobGone o p k).noticed (b.teardown o p k st core ae) := by
  refine Body.noticed_of_linksAlone (b.linksAlone_jobTold o p k) ?_
  unfold Body.teardown
  extract_lets s x b1 b2 b3 b4 b5
  have h5 : b4.answered b5 := by
    unfold b5
    split
    · exact b4.answered_respond o _ _ _ _
    · exact b4.answered_refl
  exact Body.answered_trans h5 (b5.answered_respondAll o _ _)

/-- With nothing else that waits on the job, INVOKE's final response is the one that is given. -/
theorem Body.teardown_invoked {t : Ticket} (st : W16) (core : Byte) (ae : W16) (hi : (b.slot p k).invoke = some t)
    (hp : (b.slot p k).preempts = []) (hr : (b.slot p k).replTicket = none) : b.teardown o p k st core ae =
      (b.jobTold o p k).respond o t st 0 (invokeResult st (b.slot p k).decision (b.slot p k).repaired core ae) := by
  unfold Body.teardown
  simp only [hi, hp, hr]
  unfold Body.jobTold
  rw [hi]
  rfl

theorem Body.jobGone_mail : (b.jobGone o p k).mail = b.mail := by
  obtain ⟨-, -, hmail, -⟩ := (b.drops_dropJobs o ⟨p, k⟩).inner
  unfold Body.jobGone
  rw [Body.zeroContext_eq]
  cases (b.slot p k).underGuest <;> exact hmail

/-! ### What it leaves -/

theorem Body.core_jobGone (c : Fin 32) : (b.jobGone o p k).core c =
    (((b.dropJobs o ⟨p, k⟩).releaseCores ⟨p, k⟩ CoreCtx.tornDown).core c) := by
  unfold Body.jobGone
  rw [Body.core_guestBack, Body.updSlot_core, Body.zeroContext_eq]
  rfl

end

theorem Body.core_releaseCores (b : Body) (x : CtxId) (f : CoreCtx → CoreCtx) (c : Fin 32) : (b.releaseCores x f).core c =
    if (b.core c).ctx = some x then { b.core c with ctx := none, cx := f (b.core c).cx } else b.core c := by
  unfold Body.releaseCores Body.core
  simp only [List.getD_eq_getElem?_getD, List.getElem?_map]
  cases b.cores[c.val]? with
  | none => rfl
  | some k => rfl

section
variable (b : Body) (o : Own) (p : Fin 8) (k : Fin 4)

/-- No core holds the context. -/
theorem Body.ctx_jobGone (c : Fin 32) : ((b.jobGone o p k).core c).ctx ≠ some ⟨p, k⟩ := by
  rw [Body.core_jobGone, Body.core_releaseCores]
  split
  · simp
  · assumption

/-- A core that held it is idle but for its faults. -/
theorem Body.cx_jobGone {c : Fin 32} (h : (b.core c).ctx = some ⟨p, k⟩) : ((b.jobGone o p k).core c).cx = (b.core c).cx.tornDown := by
  have hjob := (b.drops_dropJobs o ⟨p, k⟩).job c
  have hctx : ((b.dropJobs o ⟨p, k⟩).core c).ctx = some ⟨p, k⟩ := (congrArg Prod.fst hjob).trans h
  have hcx : ((b.dropJobs o ⟨p, k⟩).core c).cx = (b.core c).cx := congrArg Prod.snd hjob
  rw [Body.core_jobGone, Body.core_releaseCores, if_pos hctx, hcx]

variable {b}

theorem Body.slotsWhole.dropJobs (h : b.slotsWhole) : (b.dropJobs o ⟨p, k⟩).slotsWhole := by
  have hd := b.drops_dropJobs o ⟨p, k⟩
  refine ⟨hd.parts.trans h.1, fun q => ?_⟩
  by_cases hq : q = p
  · subst hq
    exact (congrArg List.length hd.slots).trans (h.2 q)
  · rw [hd.other q hq]
    exact h.2 q

/-- The body with the job's memory zeroed and its cores free: its partitions are those that dropping its jobs left. -/
theorem Body.parts_released (x : CtxId) (img : List Byte) (r : Residence) (f : CoreCtx → CoreCtx) :
    ((b.zeroContext img r).releaseCores x f).parts = b.parts := by
  rw [Body.zeroContext_eq]
  rfl

/-- Its slot is unrun, with its almanac still loaded. -/
theorem Body.slot_jobGone (h : b.slotsWhole) : (b.jobGone o p k).slot p k = (b.slot p k).unrun := by
  have hw : (((b.dropJobs o ⟨p, k⟩).zeroContext (b.slot p k).image (b.slot p k).residence).releaseCores ⟨p, k⟩
      CoreCtx.tornDown).slotsWhole := (h.dropJobs o p k).congr (Body.parts_released _ _ _ _)
  have hslot : (b.dropJobs o ⟨p, k⟩).slot p k = b.slot p k := by
    unfold Body.slot
    rw [(b.drops_dropJobs o ⟨p, k⟩).slots]
  unfold Body.jobGone
  have hunrun := hw.slot_updSlot p k Slot.unrun
  rw [slot_of_parts (Body.parts_released _ _ _ _), hslot] at hunrun
  rw [Body.slot_guestBack p _ (hw.updSlot p k _) (by rw [hunrun]; exact (by decide : RunState.idle ≠ .restoring)), hunrun]

theorem Body.events_updSlot (b : Body) (p q : Fin 8) (k : Fin 4) (f : Slot → Slot) :
    ((b.updSlot p k f).part q).events = (b.part q).events := Body.field_updPart (g := Part.events) p q (by intro _; rfl)

theorem Body.events_guestBack (b : Body) (p : Fin 8) (g : Option (Fin 4)) : ((b.guestBack p g).part p).events = (b.part p).events := by
  cases g with
  | none => rfl
  | some g => exact b.events_updSlot p p g _

/-- The records of its partition's queue stand. -/
theorem Body.events_jobGone : ((b.jobGone o p k).part p).events = (b.part p).events := by
  unfold Body.jobGone
  rw [Body.events_guestBack, Body.events_updSlot]
  unfold Body.part
  rw [Body.parts_released]
  exact (b.drops_dropJobs o ⟨p, k⟩).event

/-- DRAM is untouched where no transform of the job runs. -/
theorem Body.byte_jobGone (h : b.transformsNot ⟨p, k⟩) {a : Nat} (ha : a < 0xD800000000) :
    (b.jobGone o p k).mem.byte a = b.mem.byte a := by
  unfold Body.jobGone
  rw [Body.guestBack_mem]
  exact (Body.byte_zeroContext _ _ _ ha).trans (by rw [Body.mem_dropJobs o h])

end

end Sys2Proof.Machine

/-! PROOFS. BOUND_OVERRUN: the marks of the entries past their bounds, the tiles that finish, and the teardown (R128, R130, R411, R435, R437). -/

namespace Sys2Proof.Machine

open Sys2Proof

/-! ### The marks -/

/-- What a core shows of its work: the context it holds, the tile in its engines and its write-outs. -/
def Core.work (k : Core) : Option CtxId × Option TileRun × List TileOut := (k.ctx, k.cx.tile, k.cx.outs)

/-- What a core shows of an overrun. -/
def Core.overrun (k : Core) : Bool × SeqState × W16 × Byte := (k.cx.ovr, k.cx.seq, k.cx.ovrAe, k.cx.ovrKind)

/-- A core that an overrun has halted. -/
def Core.overran (k : Core) : Prop := k.cx.ovr = true ∧ k.cx.seq = .halted

/-- A core's context once an entry of it has overrun: OVR, the first such entry, and the halt (R130). -/
def CoreCtx.overrun (k : CoreCtx) (l : Launched) (thr : Bool) : CoreCtx :=
  { k with
    ovr := true
    ovrAe := if !k.ovr then BitVec.ofNat 16 l.idx else k.ovrAe
    ovrKind := if !k.ovr then l.kind else k.ovrKind
    ovrThr := if !k.ovr then l.thr || thr else k.ovrThr
    seq := .halted }

section
variable (o : Own) (x : CtxId) (b : Body) (c : Fin 32) (l : Launched)

theorem overrunMark_eq : overrunMark o x b c l =
    (b.updCx c fun k => k.overrun l (b.throttled o x.part)).faultEvent o x.part ftOverrun (0, c.val) l.idx := rfl

theorem attends_overrunMark : b.Attends Core.work (overrunMark o x b c l) :=
  Body.Attends.trans (b.attends_updCx (g := Core.work) c (by intro _; rfl)) (Body.attends_appendEvent _ o x.part _)

theorem overrunMark_alone : (overrunMark o x b c l).mem = b.mem ∧ (overrunMark o x b c l).quads = b.quads := by
  obtain ⟨-, -, hquads, -, -, hmem, -⟩ := Body.logged_appendEvent o (b.updCx c fun k => k.overrun l (b.throttled o x.part)) x.part
    (faultRecord 1 ftOverrun (0, c.val) l.idx (b.fab.time % 2 ^ 64))
  exact ⟨hmem, hquads⟩

theorem core_overrunMark (d : Fin 32) : (overrunMark o x b c l).core d =
    (b.updCx c fun k => k.overrun l (b.throttled o x.part)).core d := Body.core_appendEvent o _ x.part _ d

variable {b c}

/-- The mark at the core that it names. -/
theorem cx_overrunMark (hc : c.val < b.cores.length) : ((overrunMark o x b c l).core c).cx =
    (b.core c).cx.overrun l (b.throttled o x.part) := by
  rw [core_overrunMark, b.core_updCx c _ hc]

/-- A core that has overrun stays so, with its first record. -/
theorem overrun_overrunMark {d : Fin 32} (h : (b.core d).overran) : ((overrunMark o x b c l).core d).overrun = (b.core d).overrun := by
  obtain ⟨hovr, hseq⟩ := h
  by_cases hd : d = c
  · subst hd
    by_cases hlt : d.val < b.cores.length
    · unfold Core.overrun
      rw [cx_overrunMark o x l hlt]
      simp [CoreCtx.overrun, hovr, hseq]
    · unfold Body.core at hovr
      rw [List.getD_eq_default _ _ (Nat.le_of_not_lt hlt)] at hovr
      cases hovr
  · rw [core_overrunMark, b.core_updCx_ne c d _ hd]

end

/-- Every entry of a list of overruns marked, in their order. -/
def Body.marked (b : Body) (o : Own) (x : CtxId) (hits : List (Fin 32 × Launched)) : Body :=
  hits.foldl (fun b r => overrunMark o x b r.1 r.2) b

section
variable (o : Own) (x : CtxId) (hits : List (Fin 32 × Launched)) (b : Body)

theorem Body.attends_marked : b.Attends Core.work (b.marked o x hits) :=
  List.foldlRecOn (motive := b.Attends Core.work) hits _ b.attends_refl fun t ht r _ => ht.trans (attends_overrunMark o x t r.1 r.2)

theorem Body.marked_alone : (b.marked o x hits).mem = b.mem ∧ (b.marked o x hits).quads = b.quads :=
  List.foldlRecOn (motive := fun t : Body => t.mem = b.mem ∧ t.quads = b.quads) hits _ ⟨rfl, rfl⟩ fun t ht r _ => by
    obtain ⟨hmem, hquads⟩ := overrunMark_alone o x t r.1 r.2
    exact ⟨hmem.trans ht.1, hquads.trans ht.2⟩

/-- A core that has overrun stays so. -/
theorem Body.overrun_marked {d : Fin 32} (h : (b.core d).overran) : ((b.marked o x hits).core d).overrun = (b.core d).overrun := by
  have hover : ∀ u : Body, (u.core d).overrun = (b.core d).overrun → (u.core d).overran := fun u hu =>
    ⟨(congrArg Prod.fst hu).trans h.1, (congrArg (fun v => v.2.1) hu).trans h.2⟩
  exact List.foldlRecOn (motive := fun t : Body => (t.core d).overrun = (b.core d).overrun) hits _ rfl fun t ht r _ =>
    (overrun_overrunMark o x r.2 (hover t ht)).trans ht

/-- The core of every hit has overrun. -/
theorem Body.overran_marked {r : Fin 32 × Launched} (hr : r ∈ hits) (hx : (b.core r.1).ctx = some x) :
    ((b.marked o x hits).core r.1).overran := by
  induction hits generalizing b with
  | nil => exact absurd hr List.not_mem_nil
  | cons h t ih =>
    have hctx : ((overrunMark o x b h.1 h.2).core r.1).ctx = some x :=
      (congrArg Prod.fst ((attends_overrunMark o x b h.1 h.2).core r.1)).trans hx
    rcases List.mem_cons.mp hr with rfl | hr
    · have hmark : ((overrunMark o x b r.1 r.2).core r.1).overran := by
        unfold Core.overran
        rw [cx_overrunMark o x r.2 (Body.core_lt_of_ctx hx)]
        exact ⟨rfl, rfl⟩
      have hkeep := Body.overrun_marked o x t (overrunMark o x b r.1 r.2) hmark
      exact ⟨(congrArg Prod.fst hkeep).trans hmark.1, (congrArg (fun v => v.2.1) hkeep).trans hmark.2⟩
    · exact ih _ hr hctx

end

/-! ### The command's effect -/

section
variable (b : Body) (o : Own) (x : CtxId) (c : Fin 32) (ae : Nat) (l : Launched)

/-- The entries that overrun together: the one named, and those beside it. -/
def Body.hits : List (Fin 32 × Launched) := (c, l) :: b.overrunsBeside x c ae

/-- The body with its overruns marked and the tiles of the halted cores finished (R130). -/
def Body.halted : Body :=
  ((b.hits x c ae l).map (·.1)).eraseDups.foldl (finishTile o) (b.marked o x (b.hits x c ae l))

variable {b x c ae l} {o}

theorem Body.ctx_of_hits (hx : (b.core c).ctx = some x) {r : Fin 32 × Launched} (h : r ∈ b.hits x c ae l) : (b.core r.1).ctx = some x := by
  rcases List.mem_cons.mp h with rfl | h
  · exact hx
  · obtain ⟨d, -, h⟩ := List.mem_flatMap.mp h
    split at h
    · next hd =>
      obtain ⟨m, -, hm⟩ := List.mem_filterMap.mp h
      split at hm
      · cases hm
        exact hd
      · cases hm
    · cases h

/-- An entry of the job that has passed its bound is of a core that is hit. -/
theorem Body.exists_hit {d : Fin 32} {m : Launched} (hd : (b.core d).ctx = some x) (hm : m ∈ (b.core d).cx.launched)
    (h : m.bound < m.counter) : ∃ n, (d, n) ∈ b.hits x c ae l := by
  by_cases hsame : (d == c && m.idx == ae) = true
  · have hdc : d = c := by simpa using (Bool.and_eq_true_iff.mp hsame).1
    exact ⟨l, by rw [hdc]; exact List.mem_cons_self⟩
  · refine ⟨m, List.mem_cons_of_mem _ (List.mem_flatMap.mpr ⟨d, List.mem_finRange d, ?_⟩)⟩
    rw [if_pos hd]
    refine List.mem_filterMap.mpr ⟨m, List.mem_append_left _ hm, if_pos ⟨h, ?_⟩⟩
    rw [Bool.eq_false_iff.mpr hsame]
    rfl

variable (b x c ae l)

/-- Without tiles and write-outs the halted cores finish nothing. -/
theorem Body.halted_idle (hx : (b.core c).ctx = some x)
    (hq : ∀ d, (b.core d).ctx = some x → (b.core d).cx.tile = none ∧ (b.core d).cx.outs = []) :
    b.halted o x c ae l = b.marked o x (b.hits x c ae l) := by
  unfold Body.halted
  have hcores : ∀ d ∈ ((b.hits x c ae l).map (·.1)).eraseDups, finishTile o (b.marked o x (b.hits x c ae l)) d =
      b.marked o x (b.hits x c ae l) := fun d hd => by
    obtain ⟨r, hr, rfl⟩ := List.mem_map.mp (List.mem_eraseDups.mp hd)
    have hwork := (b.attends_marked o x (b.hits x c ae l)).core r.1
    obtain ⟨htile, houts⟩ := hq r.1 (Body.ctx_of_hits hx hr)
    exact finishTile_idle ((congrArg (fun v => v.2.1) hwork).trans htile) ((congrArg (fun v => v.2.2) hwork).trans houts)
  generalize ((b.hits x c ae l).map (·.1)).eraseDups = cores at hcores ⊢
  induction cores with
  | nil => rfl
  | cons d t ih =>
    rw [List.foldl_cons, hcores d List.mem_cons_self]
    exact ih fun e he => hcores e (List.mem_cons_of_mem d he)

/-- What is left for the teardown, where memory is sound or no tile is to finish. -/
theorem Body.attends_halted (hx : (b.core c).ctx = some x) (h : b.mem.sound = true ∨
      ∀ d, (b.core d).ctx = some x → (b.core d).cx.tile = none ∧ (b.core d).cx.outs = []) :
    (b.marked o x (b.hits x c ae l)).Attends Core.fault (b.halted o x c ae l) := by
  rcases h with hs | hq
  · exact Body.attends_foldl (fun t d ht => attends_finishTile o ht) _ ((b.attends_marked o x _).sound hs)
  · rw [b.halted_idle x c ae l hx hq]
    exact Body.attends_refl _

end

/-! ### What the halted body shows -/

section
variable {b : Body} {o : Own} {x : CtxId} {c : Fin 32} {ae : Nat} {l : Launched}

/-- The core that is named, with its first record: the marks beside it do not change that. -/
theorem Body.overrun_marked_self (hx : (b.core c).ctx = some x) : ((b.marked o x (b.hits x c ae l)).core c).overrun =
    (true, .halted, if !(b.core c).cx.ovr then BitVec.ofNat 16 l.idx else (b.core c).cx.ovrAe,
      if !(b.core c).cx.ovr then l.kind else (b.core c).cx.ovrKind) := by
  have hcx := cx_overrunMark o x l (Body.core_lt_of_ctx hx)
  have hmark : ((overrunMark o x b c l).core c).overran := by
    unfold Core.overran
    rw [hcx]
    exact ⟨rfl, rfl⟩
  refine (Body.overrun_marked o x (b.overrunsBeside x c ae) (overrunMark o x b c l) hmark).trans ?_
  unfold Core.overrun
  rw [hcx]
  rfl

/-- The record of the entry named is the first appended. -/
theorem Body.event_marked (hp : x.part.val < b.parts.length) (h : (b.part x.part).events.length < 1024) :
    faultRecord 1 ftOverrun (0, c.val) l.idx (b.fab.time % 2 ^ 64) ∈ ((b.marked o x (b.hits x c ae l)).part x.part).events := by
  refine (Body.attends_marked o x (b.overrunsBeside x c ae) (overrunMark o x b c l)).events _ _ ?_
  rw [overrunMark_eq, Body.faultEvent, Body.part_appendEvent_self o (b.updCx c _) x.part _ hp]
  exact (Part.recorded_events _ h).symm ▸ List.mem_append_right _ (List.mem_singleton.mpr rfl)

variable (hx : (b.core c).ctx = some x)
  (h : b.mem.sound = true ∨ ∀ d, (b.core d).ctx = some x → (b.core d).cx.tile = none ∧ (b.core d).cx.outs = [])
include hx h

theorem Body.ctx_halted (d : Fin 32) : ((b.halted o x c ae l).core d).ctx = (b.core d).ctx :=
  (congrArg Prod.fst ((b.attends_halted x c ae l hx h).core d)).trans
    (congrArg Prod.fst ((b.attends_marked o x (b.hits x c ae l)).core d))

theorem Body.overrun_halted (d : Fin 32) : ((b.halted o x c ae l).core d).overrun = ((b.marked o x (b.hits x c ae l)).core d).overrun :=
  congrArg (fun v : Option CtxId × SeqState × Bool × W16 × Byte => (v.2.2.1, v.2.1, v.2.2.2.1, v.2.2.2.2))
    ((b.attends_halted x c ae l hx h).core d)

/-- Slots are as they were but for their events, and mailboxes as they were. -/
theorem Body.attended_halted : b.Attends (fun _ => ()) (b.halted o x c ae l) :=
  ((b.attends_marked o x (b.hits x c ae l)).map fun _ => ()).trans ((b.attends_halted x c ae l hx h).map fun _ => ())

end

section
variable {o : Own} {b : Body} {c : Fin 32} {ae : Nat}

theorem boundOverrun_none (h : (b.core c).ctx = none ∨ (b.core c).cx.timed ae = none) : boundOverrun o b c ae = b := by
  unfold boundOverrun
  rcases h with h | h
  · rw [h]
  · rw [h]
    cases (b.core c).ctx <;> rfl

variable {x : CtxId} {l : Launched} (hx : (b.core c).ctx = some x) (hl : (b.core c).cx.timed ae = some l)
include hx hl

theorem boundOverrun_within (h : l.counter ≤ l.bound) : boundOverrun o b c ae = b := by
  unfold boundOverrun
  rw [hx, hl]
  exact if_neg (Nat.not_lt.mpr h)

theorem boundOverrun_over (h : l.bound < l.counter) : boundOverrun o b c ae =
    (b.halted o x c ae l).teardown o x.part x.slot ftOverrun (BitVec.ofNat 8 c.val) (BitVec.ofNat 16 ae) := by
  unfold boundOverrun
  rw [hx, hl]
  exact if_pos h

end

end Sys2Proof.Machine

/-! PROOFS. What an overrun leaves once its job is torn down (R128, R130, R411, R414, R435). -/

namespace Sys2Proof.Machine

open Sys2Proof

theorem Body.noticed.core {b t : Body} (h : b.noticed t) (c : Fin 32) : t.core c = b.core c := by rw [h]; rfl
theorem Body.noticed.slot {b t : Body} (h : b.noticed t) (p : Fin 8) (k : Fin 4) : t.slot p k = b.slot p k := by rw [h]; rfl
theorem Body.noticed.part {b t : Body} (h : b.noticed t) (p : Fin 8) : t.part p = b.part p := by rw [h]; rfl
theorem Body.noticed.mem {b t : Body} (h : b.noticed t) : t.mem = b.mem := by rw [h]

section
variable {b : Body} {o : Own} {x : CtxId} {st : W16} {core : Byte} {ae : W16}

theorem Body.ctx_teardown (d : Fin 32) : ((b.teardown o x.part x.slot st core ae).core d).ctx ≠ some x := by
  rw [(b.teardown_noticed o x.part x.slot st core ae).core]
  exact b.ctx_jobGone o x.part x.slot d

theorem Body.cx_teardown {d : Fin 32} (h : (b.core d).ctx = some x) :
    ((b.teardown o x.part x.slot st core ae).core d).cx = (b.core d).cx.tornDown := by
  rw [(b.teardown_noticed o x.part x.slot st core ae).core]
  exact b.cx_jobGone o x.part x.slot h

theorem Body.slot_teardown (hw : b.slotsWhole) : (b.teardown o x.part x.slot st core ae).slot x.part x.slot = (b.slot x.part x.slot).unrun := by
  rw [(b.teardown_noticed o x.part x.slot st core ae).slot]
  exact Body.slot_jobGone o x.part x.slot hw

theorem Body.events_teardown : ((b.teardown o x.part x.slot st core ae).part x.part).events = (b.part x.part).events := by
  rw [(b.teardown_noticed o x.part x.slot st core ae).part]
  exact Body.events_jobGone o x.part x.slot

theorem Body.byte_teardown (h : b.transformsNot x) {a : Nat} (ha : a < 0xD800000000) :
    (b.teardown o x.part x.slot st core ae).mem.byte a = b.mem.byte a := by
  rw [(b.teardown_noticed o x.part x.slot st core ae).mem]
  exact Body.byte_jobGone o x.part x.slot h ha

theorem Body.resp_teardown {t : Ticket} (hi : (b.slot x.part x.slot).invoke = some t) (hp : (b.slot x.part x.slot).preempts = [])
    (hr : (b.slot x.part x.slot).replTicket = none) (hm : b.mail.length = 9) (hl : ∀ m ∈ b.mail, m.length = 4) :
    ((b.teardown o x.part x.slot st core ae).mailbox t.page t.mb).resp =
      respBytes st t.tag 0 (invokeResult st (b.slot x.part x.slot).decision (b.slot x.part x.slot).repaired core ae) := by
  have hmail : (b.jobTold o x.part x.slot).mail = b.mail := by
    rw [b.linksAlone_jobTold o x.part x.slot]
    exact b.jobGone_mail o x.part x.slot
  rw [b.teardown_invoked o x.part x.slot st core ae hi hp hr]
  exact Body.resp_respond o _ t st 0 _ (hmail ▸ hm) (hmail ▸ hl)

end

section
variable {s : State} {c : Fin 32} {x : CtxId} {ae : Nat} {l : Launched}

theorem execBoundOverrun_same (h : boundOverrun s.own s.body c ae = s.body) : exec (.boundOverrun c ae) s = .next s :=
  State.onBody_same (f := fun o b => boundOverrun o b c ae) h

theorem execBoundOverrun_over (hcl : s.body.clocked = true) (hx : (s.body.core c).ctx = some x) (hl : (s.body.core c).cx.timed ae = some l)
    (h : l.bound < l.counter) (hw : Claims.slotsWhole s) (hcond : s.body.mem.sound = true ∨ Claims.noTiles s x) :
    ∃ t, exec (.boundOverrun c ae) s = .next t ∧ t.own = s.own ∧
      (t.body.core c).cx.ovr = true ∧ (t.body.core c).cx.seq = .halted ∧
      ((s.body.core c).cx.ovr = false → (t.body.core c).cx.ovrAe = BitVec.ofNat 16 ae ∧ (t.body.core c).cx.ovrKind = l.kind) ∧
      ((s.body.core c).cx.ovr = true → (t.body.core c).cx.ovrAe = (s.body.core c).cx.ovrAe) ∧
      (∀ d m, (s.body.core d).ctx = some x → m ∈ (s.body.core d).cx.launched → m.bound < m.counter → (t.body.core d).cx.ovr = true) ∧
      (∀ d, (t.body.core d).ctx ≠ some x) ∧ (t.body.slot x.part x.slot).ctx = .unrun ∧
      (t.body.slot x.part x.slot).invoke = none ∧ (t.body.slot x.part x.slot).loaded = (s.body.slot x.part x.slot).loaded ∧
      (Claims.noTiles s x → (∀ q ∈ s.body.quads, ∀ j ∈ q.xfRun, j.ctx ≠ x) →
        ∀ a, a < 0xD800000000 → t.body.mem.byte a = s.body.mem.byte a) ∧
      ((s.body.part x.part).events.length < 1024 →
        faultRecord 1 0x0204 (0, c.val) ae (s.body.fab.time % 2 ^ 64) ∈ (t.body.part x.part).events) ∧
      (∀ k1, (s.body.slot x.part x.slot).invoke = some k1 → (s.body.slot x.part x.slot).preempts = [] →
        (s.body.slot x.part x.slot).replTicket = none → s.body.mail.length = 9 → (∀ m ∈ s.body.mail, m.length = 4) →
        (t.body.mailbox k1.page k1.mb).resp = respBytes 0x0204 k1.tag 0 (invokeResult 0x0204
          (s.body.slot x.part x.slot).decision (s.body.slot x.part x.slot).repaired (BitVec.ofNat 8 c.val) (BitVec.ofNat 16 ae))) := by
  have hidx : l.idx = ae := by
    have := List.find?_some hl
    simpa using this
  have hatt := Body.attended_halted (o := s.own) (ae := ae) (l := l) hx hcond
  have hctx := Body.ctx_halted (o := s.own) (ae := ae) (l := l) hx hcond
  have hfirst := (Body.overrun_halted (o := s.own) (ae := ae) (l := l) hx hcond c).trans (Body.overrun_marked_self hx)
  have hbeside : ∀ d m, (s.body.core d).ctx = some x → m ∈ (s.body.core d).cx.launched → m.bound < m.counter →
      ((s.body.halted s.own x c ae l).core d).overrun.1 = true := fun d m hd hm hb => by
    obtain ⟨n, hn⟩ := Body.exists_hit (c := c) (ae := ae) (l := l) hd hm hb
    rw [Body.overrun_halted hx hcond]
    exact (Body.overran_marked s.own x (s.body.hits x c ae l) s.body hn hd).1
  have hevent : (s.body.part x.part).events.length < 1024 → faultRecord 1 ftOverrun (0, c.val) ae (s.body.fab.time % 2 ^ 64) ∈
      ((s.body.halted s.own x c ae l).part x.part).events := fun hlen => by
    have hmark := Body.event_marked (o := s.own) (x := x) (c := c) (ae := ae) (l := l) (Body.slotsWhole.part_lt hw x.part) hlen
    rw [hidx] at hmark
    exact (s.body.attends_halted x c ae l hx hcond).events x.part _ hmark
  have hidle : Claims.noTiles s x → (s.body.halted s.own x c ae l).mem = s.body.mem ∧
      (s.body.halted s.own x c ae l).quads = s.body.quads := fun ht => by
    rw [s.body.halted_idle x c ae l hx ht]
    exact s.body.marked_alone s.own x (s.body.hits x c ae l)
  have hexec : exec (.boundOverrun c ae) s = .next { s with
      body := (s.body.halted s.own x c ae l).teardown s.own x.part x.slot ftOverrun (BitVec.ofNat 8 c.val) (BitVec.ofNat 16 ae) } :=
    (State.onBody_clocked (fun o b => boundOverrun o b c ae) hcl).trans (by rw [boundOverrun_over hx hl h])
  generalize s.body.halted s.own x c ae l = u at *
  obtain ⟨hovr, hseq, hae, hkind⟩ : (u.core c).cx.ovr = true ∧ (u.core c).cx.seq = .halted ∧
      (u.core c).cx.ovrAe = (if !(s.body.core c).cx.ovr then BitVec.ofNat 16 l.idx else (s.body.core c).cx.ovrAe) ∧
      (u.core c).cx.ovrKind = (if !(s.body.core c).cx.ovr then l.kind else (s.body.core c).cx.ovrKind) := by
    simpa only [Core.overrun, Prod.mk.injEq] using hfirst
  have hcore := Body.cx_teardown (o := s.own) (st := ftOverrun) (core := BitVec.ofNat 8 c.val) (ae := BitVec.ofNat 16 ae) ((hctx c).trans hx)
  have hend := Body.slot_teardown (o := s.own) (x := x) (st := ftOverrun) (core := BitVec.ofNat 8 c.val) (ae := BitVec.ofNat 16 ae)
    (hatt.slotsWhole hw)
  have hslot := hatt.slot x.part x.slot
  refine ⟨_, hexec, rfl, ?ovr, ?seq, fun h0 => ⟨?first, ?kind⟩, fun h1 => ?kept, fun d m hd hm hb => ?beside, Body.ctx_teardown, ?ctx, ?invoke,
    ?loaded, fun ht hq a ha => ?dram, fun hlen => ?event, fun k1 hk1 hpre hrepl hm hl => ?resp⟩ <;> dsimp only
  case ovr => rw [hcore]; exact hovr
  case seq => rw [hcore]; exact if_pos hseq
  case first => rw [hcore]; exact hae.trans (by simp [h0, hidx])
  case kind => rw [hcore]; exact hkind.trans (by simp [h0])
  case kept => rw [hcore]; exact hae.trans (by simp [h1])
  case beside =>
    rw [Body.cx_teardown ((hctx d).trans hd)]
    exact hbeside d m hd hm hb
  case ctx => rw [hend]; rfl
  case invoke => rw [hend]; rfl
  case loaded => rw [hend]; exact (congrArg Slot.loaded hslot :)
  case dram =>
    obtain ⟨hmem, hquads⟩ := hidle ht
    rw [Body.byte_teardown (by unfold Body.transformsNot; rwa [hquads]) ha, hmem]
  case event =>
    rw [Body.events_teardown]
    exact hevent hlen
  case resp =>
    have hdec : (u.slot x.part x.slot).decision = (s.body.slot x.part x.slot).decision := (congrArg Slot.decision hslot :)
    have hrep : (u.slot x.part x.slot).repaired = (s.body.slot x.part x.slot).repaired := (congrArg Slot.repaired hslot :)
    rw [Body.resp_teardown ((congrArg Slot.invoke hslot).trans hk1) ((congrArg Slot.preempts hslot).trans hpre)
      ((congrArg Slot.replTicket hslot).trans hrepl) (hatt.mail.symm ▸ hm) (hatt.mail.symm ▸ hl), hdec, hrep]
    rfl

end

end Sys2Proof.Machine

/-! PROOFS. The reset of a partition by a fault: what it leaves of the partition, of the others and of memory (R436, R437). -/

namespace Sys2Proof.Machine

open Sys2Proof

/-- t is as b outside partition p: the board, the fabric's time and the other partitions. -/
structure Body.Apart (p : Fin 8) (b t : Body) : Prop where
  board : t.board = b.board
  time  : t.fab.time = b.fab.time
  parts : t.parts.length = b.parts.length
  other : ∀ q, q ≠ p → t.part q = b.part q

section
variable {p : Fin 8}

theorem Body.Apart.trans {b t u : Body} (h : b.Apart p t) (k : t.Apart p u) : b.Apart p u :=
  ⟨k.board.trans h.board, k.time.trans h.time, k.parts.trans h.parts, fun q hq => (k.other q hq).trans (h.other q hq)⟩

theorem Body.apart_of_answered {b t : Body} (h : b.answered t) : b.Apart p t :=
  ⟨h.board, congrArg (·.time) h.fab, congrArg List.length h.parts, fun q _ => h.part q⟩

theorem Body.apart_of_linksAlone {b t : Body} (h : b.linksAlone t) : b.Apart p t := by
  rw [h]
  exact ⟨rfl, rfl, rfl, fun _ _ => rfl⟩

theorem Body.Drops.apart {b t : Body} (h : b.Drops p t) : b.Apart p t := by
  obtain ⟨hboard, -, -, hfab, -⟩ := h.inner
  exact ⟨hboard, congrArg (·.time) hfab, h.parts, h.other⟩

theorem Body.apart_updPart (b : Body) (f : Part → Part) : b.Apart p (b.updPart p f) :=
  ⟨rfl, rfl, b.updPart_parts_length _ _, fun q hq => b.part_updPart_ne p q f hq⟩

theorem Body.apart_appendEvent (o : Own) (b : Body) (r : EventRec) : b.Apart p (b.appendEvent o p r) :=
  (b.apart_updPart _).trans (Body.apart_of_answered (b.fired_appendEvent o p r).answered)

end

/-! ### The parts of a reset -/

section
variable (b : Body) (o : Own) (p : Fin 8)

/-- Abort notices to every group of the partition. -/
def Body.groupsTold : Body := (List.range 16).foldl (fun b g => b.abortGroups p [g]) b

/-- A context's jobs dropped and its cores freed. -/
def Body.contextGone (k : Fin 4) : Body := (b.dropJobs o ⟨p, k⟩).releaseCores ⟨p, k⟩ fun _ => CoreCtx.idle

/-- The same of each context, once the groups are told. -/
def Body.contextsGone : Body := (List.finRange 4).foldl (fun b k => b.contextGone o p k) (b.groupsTold p)

/-- The partition as a reset leaves it: nothing but the commands that alone complete it. -/
def Part.resetTo (y : Part) : Part :=
  { y.cleared with create := y.create, modifies := y.modifies, resets := y.resets, delete := y.delete, resetting := true }

/-- The body once the partition's memory is zeroed and its cores are cleared. -/
def Body.memoryGone : Body :=
  { (b.contextsGone o p).zeroPartition o p with
    cores := ((b.contextsGone o p).zeroPartition o p).cores.zipIdx.map fun ((k, i) : Core × Nat) =>
      if o.hasCore p i then k.cleared i else k }

/-- The same once its records are gone too, before the answers. -/
def Body.partGone : Body := (b.memoryGone o p).updPart p Part.resetTo

theorem Body.partitionReset_answered : (b.partGone o p).answered (b.partitionReset o p) := by
  unfold Body.partitionReset
  extract_lets pt loads invokes b1 b2 b3 b4 b5 b6 b7 b8
  have h6 : b5.answered b6 := List.foldlRecOn (motive := b5.answered) _ _ b5.answered_refl fun t ht r _ =>
    Body.answered_trans ht (t.answered_respond o _ _ _ _)
  exact Body.answered_trans (Body.answered_trans (Body.answered_trans h6 (b6.answered_respondAll o _ _)) (b7.answered_respondAll o _ _))
    (b8.answered_respondAll o _ _)

theorem Body.linksAlone_groupsTold : b.linksAlone (b.groupsTold p) :=
  Body.linksAlone_foldl (fun b g => Body.linksAlone_abortGroups p [g] b) _ b

theorem Body.apart_contextsGone : b.Apart p (b.contextsGone o p) :=
  List.foldlRecOn (motive := b.Apart p) _ _ (Body.apart_of_linksAlone (b.linksAlone_groupsTold p)) fun t ht k _ =>
    ht.trans ((t.drops_dropJobs o ⟨p, k⟩).apart.trans ⟨rfl, rfl, rfl, fun _ _ => rfl⟩)

theorem Body.apart_zeroPartition : b.Apart p (b.zeroPartition o p) := ⟨rfl, rfl, rfl, fun _ _ => rfl⟩

theorem Body.apart_cores (cs : List Core) : b.Apart p { b with cores := cs } := ⟨rfl, rfl, rfl, fun _ _ => rfl⟩

theorem Body.apart_memoryGone : b.Apart p (b.memoryGone o p) :=
  ((b.apart_contextsGone o p).trans (Body.apart_zeroPartition _ o p)).trans (Body.apart_cores _ p _)

theorem Body.apart_partitionReset : b.Apart p (b.partitionReset o p) :=
  ((b.apart_memoryGone o p).trans (Body.apart_updPart _ Part.resetTo)).trans (Body.apart_of_answered (b.partitionReset_answered o p))

theorem Body.part_partitionReset (hp : p.val < b.parts.length) : ∃ y : Part, (b.partitionReset o p).part p = y.resetTo := by
  have hlen : p.val < (b.memoryGone o p).parts.length := by
    rw [(b.apart_memoryGone o p).parts]
    exact hp
  exact ⟨_, ((b.partitionReset_answered o p).part p).trans ((b.memoryGone o p).part_updPart p _ hlen)⟩

/-- With none of the partition's transforms under way, memory is as it was before it is zeroed. -/
theorem Body.mem_contextsGone {b : Body} (h : ∀ k, b.transformsNot ⟨p, k⟩) : (b.contextsGone o p).mem = b.mem := by
  have htold := b.linksAlone_groupsTold p
  have hstart : (b.groupsTold p).mem = b.mem ∧ ∀ k, (b.groupsTold p).transformsNot ⟨p, k⟩ := by
    generalize b.groupsTold p = t at htold ⊢
    rw [htold]
    exact ⟨rfl, h⟩
  have hall : (b.contextsGone o p).mem = b.mem ∧ ∀ k, (b.contextsGone o p).transformsNot ⟨p, k⟩ :=
    List.foldlRecOn (motive := fun t : Body => t.mem = b.mem ∧ ∀ k, t.transformsNot ⟨p, k⟩) _ _ hstart fun t ht k _ =>
      ⟨(Body.mem_dropJobs o (ht.2 k)).trans ht.1, fun j => Body.transformsNot_dropJobs o (ht.2 k) (ht.2 j)⟩
  exact hall.1

/-- No byte of DRAM is zeroed. -/
theorem Body.byte_zeroPartition {a : Nat} (ha : a < 0xD800000000) : (b.zeroPartition o p).mem.byte a = b.mem.byte a := by
  have hzero : ∀ (m : Mem) (r n : Nat), 0xD800000000 ≤ r → (m.zero r n).byte a = m.byte a := fun m r n hr =>
    (m.byte_zero r n a).trans (if_neg fun h => absurd (Nat.lt_of_le_of_lt (Nat.le_trans hr h.1) ha) (Nat.lt_irrefl _))
  have hcores : ∀ l : List (Fin 32), (l.foldl (fun (m : Mem) c => (m.zero (vatBase c.val) vatSize).zero (pressBase c.val) pressSize)
      b.mem).byte a = b.mem.byte a := fun l =>
    List.foldlRecOn (motive := fun m : Mem => m.byte a = b.mem.byte a) l _ rfl fun m hm c _ => by
      rw [hzero _ _ _ (by unfold pressBase; omega), hzero _ _ _ (by unfold vatBase; omega), hm]
  exact (hzero _ _ _ (by unfold PBlock.cellarRange cellarBase; dsimp only; omega)).trans (hcores _)

theorem Body.byte_partitionReset {b : Body} (h : ∀ k, b.transformsNot ⟨p, k⟩) {a : Nat} (ha : a < 0xD800000000) :
    (b.partitionReset o p).mem.byte a = b.mem.byte a := by
  have hmem := Body.mem_contextsGone o p h
  rw [(b.partitionReset_answered o p).mem]
  unfold Body.partGone Body.memoryGone
  generalize b.contextsGone o p = t at hmem ⊢
  have hzero := Body.byte_zeroPartition t o p ha
  generalize t.zeroPartition o p = z at hzero ⊢
  rw [← hmem]
  exact hzero

end

end Sys2Proof.Machine

/-! PROOFS. The known-answer tile of a core, and overruns (O48). -/

namespace Sys2Proof.Machine

open Sys2Proof

/-! ### The fault of a partition -/

section
variable {o : Own} {b : Body} {p : Fin 8} {st : W16} {src : Nat × Nat} {d : Nat}

theorem Body.faultPartition_fresh (h : (b.part p).resetting = false) :
    b.faultPartition o p st src d = (b.partitionReset o p).faultEvent o p st src d := by
  unfold Body.faultPartition
  rw [h]
  rfl

theorem Body.faultPartition_joins (h : (b.part p).resetting = true) : b.faultPartition o p st src d = b.faultEvent o p st src d := by
  unfold Body.faultPartition
  rw [h]
  rfl

/-- In both cases it leaves the board, the fabric's time and the other partitions. -/
theorem Body.apart_faultPartition : b.Apart p (b.faultPartition o p st src d) := by
  cases h : (b.part p).resetting with
  | false =>
    rw [Body.faultPartition_fresh h]
    exact (b.apart_partitionReset o p).trans (Body.apart_appendEvent o _ _)
  | true =>
    rw [Body.faultPartition_joins h]
    exact Body.apart_appendEvent o _ _

theorem Part.slot_resetTo (y : Part) (k : Fin 4) : y.resetTo.slots.getD k.val Slot.empty = Slot.empty := List.getD_replicate _ k.isLt

/-- A partition that is not being reset yet: the fault's record is the one of its queue, and its slots are empty. -/
theorem Body.part_faultPartition (hp : p.val < b.parts.length) (h : (b.part p).resetting = false) :
    ((b.faultPartition o p st src d).part p).events = [faultRecord 1 st src d (b.fab.time % 2 ^ 64)] ∧
      ∀ k, (b.faultPartition o p st src d).slot p k = Slot.empty := by
  have hapart := b.apart_partitionReset o p
  obtain ⟨y, hy⟩ := b.part_partitionReset o p hp
  rw [Body.faultPartition_fresh h, Body.faultEvent, hapart.time]
  generalize b.partitionReset o p = t at hapart hy ⊢
  refine ⟨?_, fun k => ?_⟩
  · rw [t.part_appendEvent_self o p _ (hapart.parts.symm ▸ hp), hy]
    have hempty : y.resetTo.events = [] := rfl
    rw [Part.recorded_events _ (by rw [hempty]; decide), hempty, List.nil_append]
  · rw [t.slot_appendEvent]
    unfold Body.slot
    rw [hy]
    exact y.slot_resetTo k

theorem Body.byte_faultPartition (h : (b.part p).resetting = false) (hq : ∀ k, b.transformsNot ⟨p, k⟩) {a : Nat} (ha : a < 0xD800000000) :
    (b.faultPartition o p st src d).mem.byte a = b.mem.byte a := by
  rw [Body.faultPartition_fresh h, Body.faultEvent_mem, Body.byte_partitionReset o p hq ha]

end

/-! ### The known-answer tile -/

/-- A core that may begin the known-answer tile: in service and clocked, between spans, in a ready module (R473). -/
def Body.mayTest (b : Body) (c : Fin 32) : Prop :=
  b.board.phase = .ready ∧ (b.core c).clk ≠ 0 ∧ (b.core c).relock = false ∧ (b.core c).kat = 0 ∧ (b.core c).cx.quiet = true ∧
    b.board.cause.coreOut.toNat.testBit c.val = false

/-- A core that stands for the tile. -/
def Body.testing (b : Body) (c : Fin 32) : Body := b.updCore c fun k => { k with kat := 2048 }

section
variable {o : Own} {b : Body} {c : Fin 32}

/-- The same as the command tests it. -/
theorem Body.mayTest_iff : b.mayTest c ↔ ¬ (b.board.phase ≠ .ready ∨ (b.core c).clk = 0 ∨ (b.core c).relock = true ∨ (b.core c).kat ≠ 0 ∨
    (!(b.core c).cx.quiet) = true ∨ b.board.cause.coreOut.toNat.testBit c.val = true) := by
  simp only [Body.mayTest, not_or, Decidable.not_not, Bool.not_eq_true, Bool.not_eq_false', ne_eq]

theorem katTile_idle (h : ¬ b.mayTest c) (pass : Bool) : katTile o b c pass = b := by
  rw [Body.mayTest_iff, Classical.not_not] at h
  exact if_pos h

section
variable (h : b.mayTest c)
include h

theorem katTile_passes : katTile o b c true = b.testing c := if_neg (Body.mayTest_iff.mp h)

theorem katTile_unowned (ho : o.coreOwner c.val = none) : katTile o b c false = (b.testing c).withdrawCore c := by
  unfold katTile
  refine (if_neg (Body.mayTest_iff.mp h)).trans ?_
  rw [ho]
  rfl

theorem katTile_fails {p : Fin 8} (ho : o.coreOwner c.val = some p) : katTile o b c false =
    ((b.testing c).withdrawCore c).faultPartition o p ftKat (0, c.val) (b.core c).cx.aeIdx.toNat := by
  unfold katTile
  refine (if_neg (Body.mayTest_iff.mp h)).trans ?_
  rw [ho]
  rfl

end

/-- The withdrawn core is out of service. -/
theorem Body.coreOut_withdrawCore (b : Body) (c : Fin 32) : (b.withdrawCore c).board.cause.coreOut.toNat.testBit c.val = true := by
  have hlt : 2 ^ c.val < 2 ^ 32 := Nat.pow_lt_pow_right (by decide) c.isLt
  unfold Body.withdrawCore Body.updBoard
  dsimp only
  rw [BitVec.toNat_or, Nat.testBit_or, BitVec.toNat_ofNat, Nat.mod_eq_of_lt hlt, Nat.testBit_two_pow_self, Bool.or_true]

end

section
variable {s : State} {c : Fin 32}

theorem execKatTile_eq (hcl : s.body.clocked = true) {pass : Bool} {t : Body} (h : katTile s.own s.body c pass = t) :
    exec (.katTile c pass) s = .next { s with body := t } :=
  (State.onBody_clocked (fun o b => katTile o b c pass) hcl).trans (by rw [h])

theorem execKatTile_fails (hcl : s.body.clocked = true) (h : s.body.mayTest c) {p : Fin 8} (ho : s.own.coreOwner c.val = some p)
    (hlen : s.body.parts.length = 8) :
    let rec_ := faultRecord 1 0x020A (0, c.val) (s.body.core c).cx.aeIdx.toNat (s.body.fab.time % 2 ^ 64)
    ∃ t, exec (.katTile c false) s = .next t ∧ t.own = s.own ∧ t.body.board.cause.coreOut.toNat.testBit c.val = true ∧
      (∀ q, q ≠ p → t.body.part q = s.body.part q) ∧
      ((s.body.part p).resetting = false → (t.body.part p).events = [rec_] ∧ (∀ k, t.body.slot p k = Slot.empty) ∧
        ((∀ q ∈ s.body.quads, ∀ j ∈ q.xfRun, j.ctx.part ≠ p) →
          ∀ a, a < 0xD800000000 → t.body.mem.byte a = s.body.mem.byte a)) ∧
      ((s.body.part p).resetting = true → t.body.mem = s.body.mem ∧ (∀ k, t.body.slot p k = s.body.slot p k) ∧
        ((s.body.part p).events.length < 1024 → (t.body.part p).events = (s.body.part p).events ++ [rec_])) := by
  intro rec_
  have hp : p.val < s.body.parts.length := by rw [hlen]; exact p.isLt
  generalize hb : (s.body.testing c).withdrawCore c = b
  have hcore : b.board.cause.coreOut.toNat.testBit c.val = true := by
    rw [← hb]
    exact (s.body.testing c).coreOut_withdrawCore c
  obtain ⟨hparts, hmem, htime, hquads⟩ : b.parts = s.body.parts ∧ b.mem = s.body.mem ∧ b.fab.time = s.body.fab.time ∧
      b.quads = s.body.quads := by
    rw [← hb]
    exact ⟨rfl, rfl, rfl, rfl⟩
  have hpart : ∀ q, b.part q = s.body.part q := fun q => by
    unfold Body.part
    rw [hparts]
  have hexec := execKatTile_eq hcl (katTile_fails h ho)
  rw [hb] at hexec
  refine ⟨_, hexec, rfl, ?out, fun q hq => ?others, fun hr => ?resets, fun hr => ?joins⟩ <;> dsimp only
  case out => rw [Body.apart_faultPartition.board, hcore]
  case others => rw [Body.apart_faultPartition.other q hq, hpart]
  case resets =>
    rw [← hpart] at hr
    obtain ⟨hevents, hslots⟩ := Body.part_faultPartition (o := s.own) (st := ftKat) (src := (0, c.val))
      (d := (s.body.core c).cx.aeIdx.toNat) (hparts ▸ hp) hr
    rw [htime] at hevents
    refine ⟨hevents, hslots, fun hx a ha => ?_⟩
    rw [Body.byte_faultPartition hr (fun k q hq j hj hctx => hx q (hquads ▸ hq) j hj (by rw [hctx])) ha, hmem]
  case joins =>
    rw [← hpart] at hr
    rw [Body.faultPartition_joins hr, Body.faultEvent_mem, Body.faultEvent, htime]
    refine ⟨hmem, fun k => ?_, fun hl => ?_⟩
    · rw [Body.slot_appendEvent, slot_of_parts hparts]
    · rw [b.part_appendEvent_self _ _ _ (hparts ▸ hp), hpart]
      exact Part.recorded_events _ hl

end

/-- Settles O48: an overrun by its marks, the tiles that finish and the teardown; the known-answer tile by its outcome, and for a failing
core by the reset of its partition. -/
theorem overrunAndKnownAnswer : Obligations.OverrunAndKnownAnswer := by
  unfold Obligations.OverrunAndKnownAnswer
  refine ⟨⟨fun s c ae _ h => execBoundOverrun_same (boundOverrun_none h), fun s c ae x l hcl hx hl => ⟨fun h =>
    execBoundOverrun_same (boundOverrun_within hx hl h), fun h hw hcond => execBoundOverrun_over hcl hx hl h hw hcond⟩⟩,
    fun s c hcl => ⟨fun h pass => ?idle, fun h => ⟨?passes, fun ho => ?unowned, fun p ho hlen => execKatTile_fails hcl h ho hlen⟩⟩⟩
  case idle => exact State.onBody_same (f := fun o b => katTile o b c pass) (katTile_idle h pass)
  case passes => exact execKatTile_eq hcl (katTile_passes h)
  case unowned => exact execKatTile_eq hcl (katTile_unowned h ho)

end Sys2Proof.Machine

/-! PROOFS. HARVEST_CFG: each outcome of the command's rule, and the state that it ends with (R152, R227, R412, R413, R511; O19). -/

namespace Sys2Proof.Machine

open Sys2Proof

/-! ### The rule -/

/-- A partition without a harvest table, or with one, and no record numbered (R152, R153). -/
def Part.tabled (y : Part) (tab : Option Nat) : Part := { y with harvTab := tab, harvSeq := [] }

/-- A partition's harvest table set at an address, and zeroed. -/
def Body.tableSet (b : Body) (p : Fin 8) (tab : Nat) : Body := (b.updMem (·.zero tab harvestTableBytes)).updPart p (·.tabled (some tab))

/-- The table that a HARVEST_CFG names may be its partition's: it names none, or one in the data region. -/
def tableReached (x : Xnx) (o : Own) (p : Fin 8) : Prop := xArg x 0 8 = 0 ∨ o.inData p (xArg x 0 8) 589824 = true

section
variable {x : Xnx} {o : Own} {b : Body} {p : Fin 8} (hx : x.page = .part p)
include hx

theorem harvestCfgAct_foreign (h0 : xArg x 0 8 ≠ 0) (hd : o.inData p (xArg x 0 8) 589824 = false) :
    harvestCfgAct x o b = .foreign (o.outside p (xArg x 0 8)) := by
  unfold harvestCfgAct
  rw [onPart_of hx]
  exact if_pos ⟨h0, by rw [harvestTableBytes, hd]; rfl⟩

variable (hr : tableReached x o p)
include hr

/-- A table that the command may name is judged by its alignment, then by the partition's invocations (R413). -/
theorem harvestCfgAct_reached : harvestCfgAct x o b =
    if xArg x 0 8 % 64 ≠ 0 then .refused stBounds 0
    else if (b.part p).invoking then .refused stBusy 0
    else if xArg x 0 8 ≠ 0 ∧ b.board.tripped then .pending o b
    else if xArg x 0 8 = 0 then .done o (b.updPart p (·.tabled none)) stOk 0 []
    else .done o (b.tableSet p (xArg x 0 8)) stOk 0 [] := by
  unfold harvestCfgAct
  rw [onPart_of hx]
  refine if_neg fun h => ?_
  obtain ⟨h0, hout⟩ := h
  rcases hr with h | h
  · exact h0 h
  · rw [harvestTableBytes, h] at hout
    exact absurd hout (by decide)

theorem harvestCfgAct_misaligned (ha : xArg x 0 8 % 64 ≠ 0) : harvestCfgAct x o b = .refused stBounds 0 := by
  rw [harvestCfgAct_reached hx hr, if_pos ha]

variable (ha : xArg x 0 8 % 64 = 0)
include ha

theorem harvestCfgAct_busy (hi : (b.part p).invoking = true) : harvestCfgAct x o b = .refused stBusy 0 := by
  rw [harvestCfgAct_reached hx hr, if_neg (not_not_intro ha), if_pos hi]

variable (hi : (b.part p).invoking = false)
include hi

theorem harvestCfgAct_removes (h0 : xArg x 0 8 = 0) : harvestCfgAct x o b = .done o (b.updPart p (·.tabled none)) stOk 0 [] := by
  rw [harvestCfgAct_reached hx hr, if_neg (not_not_intro ha), if_neg (ne_true_of_eq_false hi), if_neg fun h => h.1 h0, if_pos h0]

/-- A tripped module's DRAM takes no write (R227). -/
theorem harvestCfgAct_waits (h0 : xArg x 0 8 ≠ 0) (ht : b.board.tripped = true) : harvestCfgAct x o b = .pending o b := by
  rw [harvestCfgAct_reached hx hr, if_neg (not_not_intro ha), if_neg (ne_true_of_eq_false hi), if_pos ⟨h0, ht⟩]

theorem harvestCfgAct_sets (h0 : xArg x 0 8 ≠ 0) (ht : b.board.tripped = false) :
    harvestCfgAct x o b = .done o (b.tableSet p (xArg x 0 8)) stOk 0 [] := by
  rw [harvestCfgAct_reached hx hr, if_neg (not_not_intro ha), if_neg (ne_true_of_eq_false hi),
    if_neg fun h => ne_true_of_eq_false ht h.2, if_neg h0]

end

/-! ### What a table that is set leaves -/

section
variable (b : Body) (p : Fin 8) (tab : Nat)

theorem Body.part_tableSet (hp : p.val < b.parts.length) : ((b.tableSet p tab).part p).harvTab = some tab :=
  congrArg Part.harvTab ((b.updMem (·.zero tab harvestTableBytes)).part_updPart p _ hp)

theorem Body.part_tableSet_ne {q : Fin 8} (hq : q ≠ p) : (b.tableSet p tab).part q = b.part q :=
  (b.updMem (·.zero tab harvestTableBytes)).part_updPart_ne p q _ hq

theorem Body.byte_tableSet (a : Nat) : (b.tableSet p tab).mem.byte a = if tab ≤ a ∧ a < tab + harvestTableBytes then 0 else b.mem.byte a :=
  b.mem.byte_zero tab harvestTableBytes a

end

/-! ### The command -/

section
variable {s : State} {x : Xnx} {p : Fin 8} (h : s.takesOn x p = true) (hlen : x.len = 8) (harg : x.arg0 = 0)
include h hlen harg

theorem execHarvestCfg_eq {r : Xres} (hr : harvestCfgAct x s.own (s.commandedWith 0x0008 x) = r) :
    exec (.harvestCfg x) s = .next (s.concluded 0x0008 x r) :=
  hr ▸ s.xnx_part h (harvestCfgAct x) (by simp [hlen]) (by simp [harg])

/-- A table that is set is zeroed; no other byte, and no other partition, changes. -/
theorem execHarvestCfg_sets (hr : harvestCfgAct x s.own (s.commandedWith 0x0008 x) =
      .done s.own ((s.commandedWith 0x0008 x).tableSet p (xArg x 0 8)) stOk 0 []) (hparts : s.body.parts.length = 8) :
    ∃ t, exec (.harvestCfg x) s = .next t ∧ t.own = s.own ∧ (t.body.part p).harvTab = some (xArg x 0 8) ∧
      (∀ q, q ≠ p → t.body.part q = s.body.part q) ∧
      s.sameOutside t (xArg x 0 8) 589824 ∧ t.bytes (xArg x 0 8) 589824 = List.replicate 589824 0 := by
  generalize htab : xArg x 0 8 = tab at hr
  have hans := ((s.commandedWith 0x0008 x).tableSet p tab).answered_respond s.own (xTicket x) stOk 0 []
  have hbyte : ∀ a, (s.answer s.own ((s.commandedWith 0x0008 x).tableSet p tab) x stOk 0 []).body.mem.byte a =
      if tab ≤ a ∧ a < tab + 589824 then 0 else s.body.mem.byte a := fun a => by
    refine (congrArg (Mem.byte · a) hans.mem).trans ?_
    rw [Body.byte_tableSet, s.commandedWith_byte, harvestTableBytes]
  refine ⟨_, execHarvestCfg_eq h hlen harg hr, rfl, ?_, fun q hq => ?_, fun a ha => ?_, ?_⟩
  · refine (congrArg Part.harvTab (hans.part p)).trans (Body.part_tableSet _ p tab ?_)
    rw [s.commandedWith_parts, hparts]
    exact p.isLt
  · exact (hans.part q).trans ((Body.part_tableSet_ne _ p tab hq).trans (s.commandedWith_part 0x0008 x q))
  · exact (hbyte a).trans (if_neg ha)
  · refine List.eq_replicate_iff.mpr ⟨by rw [State.bytes, List.length_map, List.length_range], fun v hv => ?_⟩
    obtain ⟨i, hi, rfl⟩ := List.mem_map.mp hv
    exact (hbyte _).trans (if_pos ⟨Nat.le_add_right _ _, Nat.add_lt_add_left (List.mem_range.mp hi) _⟩)

end

/-- Settles O19: each outcome of the command by the branch of its rule that it takes. -/
theorem harvestCfg : Obligations.HarvestCfg := by
  unfold Obligations.HarvestCfg
  intro s x p h hlen harg t0
  have hx := page_of_takesOn h
  have hpart := s.commandedWith_part 0x0008 x p
  have hboard := s.commandedWith_board 0x0008 x
  refine ⟨fun h0 hd => ?foreign, fun hr => ⟨fun ha => ?misaligned, fun ha hi => ?busy, fun ha hi =>
    ⟨fun h0 => ?removes, fun h0 ht => ?waits, fun h0 ht hparts => ?sets⟩⟩⟩
  case foreign =>
    rw [execHarvestCfg_eq h hlen harg (harvestCfgAct_foreign hx h0 hd), ← hx]
    rfl
  case misaligned => exact execHarvestCfg_eq h hlen harg (harvestCfgAct_misaligned hx hr ha)
  case busy => exact execHarvestCfg_eq h hlen harg (harvestCfgAct_busy hx hr ha (hpart ▸ hi))
  case removes => exact execHarvestCfg_eq h hlen harg (harvestCfgAct_removes hx hr ha (hpart ▸ hi) h0)
  case waits => exact execHarvestCfg_eq h hlen harg (harvestCfgAct_waits hx hr ha (hpart ▸ hi) h0 (hboard ▸ ht))
  case sets => exact execHarvestCfg_sets h hlen harg (harvestCfgAct_sets hx hr ha (hpart ▸ hi) h0 (hboard ▸ ht)) hparts

end Sys2Proof.Machine

/-! PROOFS. VEC_COMPLETE in a state that holds none of its partitions' records (R126, R146; O50). -/

namespace Sys2Proof.Machine

open Sys2Proof

/-! ### A core whose context names a partition that the state holds no record of -/

/-- The context of partition 0's almanac slot 0. -/
def slotZero : CtxId := ⟨0, 0⟩

/-- A VEC entry that is out: entry 0, event 0, its program at offset 0 of the almanac. -/
def vecZero : Launched := ⟨0, BitVec.ofNat 8 kVec, 0, 0, 0, 0, 0, 0, false⟩

/-- The run of that entry, before its first row. -/
def vecRunZero : VecRun := ⟨0, 0, [], []⟩

/-- A clocked core that runs it. -/
def Core.vecRunning (k : Core) : Core :=
  { k with ctx := some slotZero, clk := 1, cx := { k.cx with seq := .running, launched := [vecZero], vec := some vecRunZero } }

/-- A module whose core 0 runs it, and whose state holds the record of no partition. -/
def unpartitionedState : State := ⟨[], Own.reset, { Body.reset.updCore 0 Core.vecRunning with parts := [] }⟩

/-- The count of event 0 in partition 0's slot 0 after a command. -/
def Result.countZero : Result → Nat
  | .next t => (t.body.slot 0 0).count 0
  | _ => 0

/-- The program of that entry, in a slot that is as an empty one: no rows. -/
theorem rows_unpartitionedState : (vpOf (unpartitionedState.body.imageOf slotZero) vecZero.ref).rows = 0 := by decide +kernel

/-- The entry completes, and there is no slot to count its event in. -/
theorem countZero_vecComplete : Result.countZero (exec (.vecComplete 0) unpartitionedState) = 0 := by decide +kernel

/-- Refutes O50: the completion of a VEC entry is to count the entry's event in its almanac slot, and nothing in the statement says that
the state holds that slot (`Claims.slotsWhole`, which other statements assume). Without the partition's record the event is not counted;
each hypothesis is met. -/
theorem not_vectorAndHarvest : ¬ Obligations.VectorAndHarvest := by
  unfold Obligations.VectorAndHarvest
  intro h
  obtain ⟨⟨-, -, hcompletes⟩, -⟩ := h
  obtain ⟨t, ht, -, -, -, -, -, hcounts, -⟩ := hcompletes unpartitionedState 0 slotZero vecRunZero vecZero (by decide +kernel)
    (by decide +kernel) (by decide +kernel) (by decide +kernel) (by decide +kernel) (by decide +kernel) (by decide +kernel)
    fun i row _ hrow => absurd hrow (by rw [rows_unpartitionedState]; exact Nat.not_lt_zero row)
  have hone : (t.body.slot 0 0).count 0 = (unpartitionedState.body.slot 0 0).count 0 + 1 := hcounts 0
  have hnone := countZero_vecComplete
  rw [ht, Result.countZero, hone] at hnone
  exact Nat.succ_ne_zero _ hnone

end Sys2Proof.Machine

/-! PROOFS. CAVE_WRITE over a poison mark that stands between two words of the cave (R169, R172, R413; O18). -/

namespace Sys2Proof.Machine

open Sys2Proof

/-! ### A cave whose poison mark starts no word -/

/-- A READY module whose partition 0, held by port A, has a poison mark over the last half of the first word of its cave region and the
first half of the next. -/
def straddledState : State :=
  ⟨[], Own.reset.updSem 1 fun _ => ⟨true, .a, 0⟩,
    ((Body.reset.updBoard fun y => { y with phase := .ready }).updPort .a fun q => { q with linkUp := true }).updMem
      fun m => { m with poison := [0xF2000010004] }⟩

/-- CAVE_WRITE of the first word of the region, from port A: OFS 0, eight bytes of data. -/
def caveWordWrite : Xnx := ⟨.a, .part 0, 0, 0, 16, 0, 0, leBytes 4 0 ++ leBytes 4 8 ++ List.replicate 8 0xFF, []⟩

/-- The bytes of that word after a command. -/
def Result.caveWord : Result → List Byte
  | .next t => t.bytes 0xF2000010000 8
  | _ => []

/-- The write covers its word, so nothing is read and merged, and no read meets the mark. -/
theorem firstBad_caveWordWrite :
    (straddledState.commandedWith 0x0006 caveWordWrite).firstBad straddledState.own (mergeWords 0xF2000010000 8) = none := by decide +kernel

/-- The mark is one that the write covers only in part: the four bytes that fall on it are lost. -/
theorem caveWord_caveWordWrite : Result.caveWord (exec (.caveWrite caveWordWrite) straddledState) =
    List.replicate 4 0xFF ++ List.replicate 4 0 := by decide +kernel

/-- Refutes O18: a CAVE_WRITE that covers its words is to store all its data, and nothing in the statement says that a poison mark starts a
word (as those that `Mem.poisonUnit` sets in the cave do). A mark across two words is met by no merge read of the write, which is told of
whole words alone, and still takes the bytes that fall on it. -/
theorem not_backupAndCave : ¬ Obligations.BackupAndCave := by
  unfold Obligations.BackupAndCave
  intro h
  obtain ⟨-, hcave⟩ := h
  obtain ⟨-, hwrites⟩ := hcave straddledState caveWordWrite 0 (by decide +kernel) rfl (by decide +kernel)
  obtain ⟨-, hstores⟩ := hwrites (by decide +kernel) (by decide +kernel) (by decide +kernel)
  obtain ⟨t, ht, -, -, -, -, -, -, -, hbytes⟩ := hstores firstBad_caveWordWrite (by decide +kernel)
  have hlost := caveWord_caveWordWrite
  rw [ht] at hlost
  have hdata : t.bytes 0xF2000010000 8 = List.replicate 8 0xFF := hbytes
  exact absurd (hdata.symm.trans hlost) (by decide)

end Sys2Proof.Machine

/-! PROOFS. Words of the SRAMs as the scrubber meets them (R158, R163, R169, R170, R173, R455; O38). -/

namespace Sys2Proof.Machine

open Sys2Proof

/-! ### Where an address of a vat or of the cave falls -/

/-- An address lies in the vat of a core. -/
def inVat (c : Fin 32) (a : Nat) : Prop := 0xF0000000000 + c.val * 0x4000000 ≤ a ∧ a < 0xF0000000000 + (c.val + 1) * 0x4000000

/-- An address lies in the steward's cave region. -/
def inStewardCave (a : Nat) : Prop := 0xF2000000000 ≤ a ∧ a < 0xF2000010000

theorem inVat_word {c : Fin 32} {a : Nat} (h : inVat c a) : inVat c (a / 8 * 8) := by
  unfold inVat at *
  omega

theorem inStewardCave_word {a : Nat} (h : inStewardCave a) : inStewardCave (a / 8 * 8) := by
  unfold inStewardCave at *
  omega

theorem placeOf_inVat (maps : List MapDesc) {c : Fin 32} {a : Nat} (h : inVat c a) : placeOf maps a = .vat c.val := by
  have hc := c.isLt
  obtain ⟨hlo, hhi⟩ := h
  have hq : (a - vatBase 0) / vatSize = c.val := by
    unfold vatBase vatSize
    omega
  unfold placeOf
  rw [if_neg (by omega), if_pos (by unfold vatBase; omega), hq]

theorem placeOf_inStewardCave (maps : List MapDesc) {a : Nat} (h : inStewardCave a) : placeOf maps a = .cave := by
  obtain ⟨hlo, hhi⟩ := h
  unfold placeOf
  rw [if_neg (by omega), if_neg (by unfold vatBase; omega), if_neg (by unfold cellarBase; omega), if_pos (by unfold caveBase; omega)]

/-- Below the presses a word of SRAM has eight bytes (R169). -/
theorem wordSize_sram (maps : List MapDesc) {a : Nat} (hlo : 0xD800000000 ≤ a) (hhi : a < 0xF3000000000) : wordSize maps a = 8 := by
  unfold wordSize
  rw [if_neg (by omega), if_pos hhi]

theorem wordSize_inVat (maps : List MapDesc) {c : Fin 32} {a : Nat} (h : inVat c a) : wordSize maps a = 8 := by
  have hc := c.isLt
  obtain ⟨hlo, hhi⟩ := h
  exact wordSize_sram maps (by omega) (by omega)

theorem inside_cave_inVat {c : Fin 32} {a : Nat} (h : inVat c a) : inside (caveBase, 0x10000) a 8 = false := by
  have hc := c.isLt
  obtain ⟨-, hhi⟩ := h
  exact Bool.and_eq_false_imp.mpr fun h => absurd (of_decide_eq_true h) (by unfold caveBase; omega)

theorem inside_cave_inStewardCave {a : Nat} (h : inStewardCave a) : inside (caveBase, 0x10000) (a / 8 * 8) 8 = true := by
  obtain ⟨hlo, hhi⟩ := h
  unfold inside caveBase
  rw [Bool.and_eq_true]
  exact ⟨decide_eq_true (by omega), decide_eq_true (by omega)⟩

/-! ### Errors counted at a core, and a warm reset asked for -/

theorem Body.countCe_inVat (o : Own) (b : Body) {c : Fin 32} {a : Nat} (h : inVat c a) :
    b.countCe o a = b.updCore c fun k => { k with vatCe := satAdd k.vatCe 1 } := by
  unfold Body.countCe
  rw [placeOf_inVat o.maps h]
  rfl

/-- A core whose vat holds a word that cannot be read: counted, and its offset recorded where none is (R174). -/
def Core.vatLost (k : Core) (ofs : Nat) : Core :=
  { k with vatUe := satAdd k.vatUe 1, eccAddr := k.eccAddr <|> some (false, BitVec.ofNat 26 ofs) }

theorem Body.countUe_inVat (o : Own) (b : Body) {c : Fin 32} {a : Nat} (h : inVat c (a / 8 * 8)) (hw : wordSize o.maps a = 8)
    (scrub : Bool) : b.countUe o a scrub = b.updCore c (·.vatLost (a / 8 * 8 - vatBase c)) := by
  unfold Body.countUe
  rw [hw]
  dsimp only
  rw [placeOf_inVat o.maps h]
  rfl

theorem Body.requestWarm_first (b : Body) (r : ResetSrc) (h : b.board.warmReq = none) :
    b.requestWarm r = b.updBoard fun x => { x with warmReq := some r } := by
  unfold Body.requestWarm Body.updBoard
  dsimp only
  rw [h]

/-- A unit found bad changes marks of memory and counters, and no board or partition. -/
theorem Body.foundBad_board (o : Own) (b : Body) (a : Nat) : (b.foundBad o a).board = b.board := by
  obtain ⟨hboard, -⟩ := Body.counted_countUe o (b.updMem (·.poisonUnit (wordSize o.maps a) a)) a false
  exact hboard

theorem Body.foundBad_parts (o : Own) (b : Body) (a : Nat) : (b.foundBad o a).parts = b.parts := by
  obtain ⟨-, -, -, -, hparts, -⟩ := Body.counted_countUe o (b.updMem (·.poisonUnit (wordSize o.maps a) a)) a false
  exact hparts

/-! ### The scrubber -/

/-- The scrubber reads the words of a memory: the vats, the cellar and the cave (R173). -/
def Place.scrubbed : Place → Bool
  | .vat _ | .cellar | .cave => true
  | .dram | .press _ | .reserved => false

/-- Memory with a corrected word to be written back unless a write reaches its unit first (R170, R173). -/
def Mem.toWriteBack (m : Mem) (w : Nat) : Mem := { m with writeBack := m.writeBack ++ [(w, 64)] }

theorem upsetsIn_nil (maps : List MapDesc) (e : Ecc) (rs : List (Nat × Nat)) : upsetsIn maps [] e rs = [] := rfl

section
variable {o : Own} {b : Body} {a : Nat}

theorem sramScrub_clean (hu : b.mem.upsets = []) (hb : b.mem.bad 8 (a / 8 * 8) 8 = false) : sramScrub o b a .clean = b := by
  unfold sramScrub
  dsimp only
  split
  · rfl
  · rfl
  · rfl
  · rw [hb, hu, upsetsIn_nil]
    rfl

variable (hp : (placeOf o.maps a).scrubbed = true)
include hp

theorem sramScrub_corrected (hu : b.mem.upsets = []) (hb : b.mem.bad 8 (a / 8 * 8) 8 = false) :
    sramScrub o b a .corrected = (b.countCe o (a / 8 * 8)).updMem (·.toWriteBack (a / 8 * 8)) := by
  have hm : (b.countCe o (a / 8 * 8)).mem.upsets = [] := by rw [Body.countCe_mem, hu]
  unfold sramScrub
  dsimp only
  split
  case h_4 =>
    rw [hb]
    simp only [Body.updMem, Mem.toWriteBack, hm]
    rfl
  all_goals simp_all [Place.scrubbed]

theorem sramScrub_zeroes (hc : inside (caveBase, 0x10000) (a / 8 * 8) 8 = false) (hd : declaredBy b (a / 8 * 8) = none) :
    sramScrub o b a .bad = (b.countUe o (a / 8 * 8) false).updMem (·.zero (a / 8 * 8) 8) := by
  unfold sramScrub
  dsimp only
  rw [hc, hd]
  split
  case h_4 => rfl
  all_goals simp_all [Place.scrubbed]

theorem sramScrub_restarts (hc : inside (caveBase, 0x10000) (a / 8 * 8) 8 = true) :
    sramScrub o b a .bad = (b.foundBad o (a / 8 * 8)).requestWarm .memory := by
  unfold sramScrub
  dsimp only
  rw [hc]
  split
  case h_4 => rfl
  all_goals simp_all [Place.scrubbed]

end

/-! ### The command -/

section
variable {s : State} (hcl : s.body.clocked = true) {a : Addr}
include hcl

theorem execSramScrub_at (e : Ecc) : exec (.sramScrub (.at_ a) e) s = .next { s with body := sramScrub s.own s.body a.toNat e } :=
  State.onBody_clocked (fun o b => sramScrub o b a.toNat e) hcl

theorem execSramScrub_corrected {c : Fin 32} (ha : inVat c a.toNat) (hu : s.body.mem.upsets = [])
    (hb : s.body.mem.bad 8 (a.toNat / 8 * 8) 8 = false) (hlen : s.body.cores.length = 32) :
    ∃ t, exec (.sramScrub (.at_ a) .corrected) s = .next t ∧ t.own = s.own ∧ t.body.mem.cells = s.body.mem.cells ∧
      (t.body.core c).vatCe = satAdd (s.body.core c).vatCe 1 ∧
      t.body.mem.writeBack = s.body.mem.writeBack ++ [(a.toNat / 8 * 8, 64)] := by
  have hp : (placeOf s.own.maps a.toNat).scrubbed = true := by rw [placeOf_inVat _ ha]; rfl
  refine ⟨_, execSramScrub_at hcl .corrected, rfl, ?_⟩
  dsimp only
  rw [sramScrub_corrected hp hu hb, Body.countCe_inVat _ _ (inVat_word ha)]
  refine ⟨rfl, ?_, rfl⟩
  exact congrArg Core.vatCe (s.body.core_updCore c _ (lt_of_lt_of_eq c.isLt hlen.symm))

theorem execSramScrub_zeroes {c : Fin 32} (ha : inVat c a.toNat) (hd : declaredBy s.body (a.toNat / 8 * 8) = none)
    (hlen : s.body.cores.length = 32) :
    ∃ t, exec (.sramScrub (.at_ a) .bad) s = .next t ∧ t.own = s.own ∧ t.body.parts = s.body.parts ∧
      (t.body.core c).vatUe = satAdd (s.body.core c).vatUe 1 ∧ s.sameOutside t (a.toNat / 8 * 8) 8 ∧
      ∀ i, i < 8 → t.body.mem.byte (a.toNat / 8 * 8 + i) = 0 := by
  have hw := inVat_word ha
  have hp : (placeOf s.own.maps a.toNat).scrubbed = true := by rw [placeOf_inVat _ ha]; rfl
  have hww : a.toNat / 8 * 8 / 8 * 8 = a.toNat / 8 * 8 := by omega
  refine ⟨_, execSramScrub_at hcl .bad, rfl, ?_⟩
  dsimp only
  rw [sramScrub_zeroes hp (inside_cave_inVat hw) hd, Body.countUe_inVat _ _ (hww.symm ▸ hw) (wordSize_inVat _ hw)]
  refine ⟨rfl, ?_, fun y hy => ?_, fun i hi => ?_⟩
  · exact congrArg Core.vatUe (s.body.core_updCore c _ (lt_of_lt_of_eq c.isLt hlen.symm))
  · exact (s.body.mem.byte_zero _ _ _).trans (if_neg hy)
  · exact (s.body.mem.byte_zero _ _ _).trans (if_pos ⟨Nat.le_add_right _ _, Nat.add_lt_add_left hi _⟩)

theorem execSramScrub_restarts (ha : inStewardCave a.toNat) (hr : s.body.board.warmReq = none) :
    ∃ t, exec (.sramScrub (.at_ a) .bad) s = .next t ∧ t.own = s.own ∧ t.body.board.warmReq = some .memory ∧
      t.body.parts = s.body.parts := by
  have hp : (placeOf s.own.maps a.toNat).scrubbed = true := by rw [placeOf_inStewardCave _ ha]; rfl
  refine ⟨_, execSramScrub_at hcl .bad, rfl, ?_⟩
  dsimp only
  rw [sramScrub_restarts hp (inside_cave_inStewardCave ha), Body.requestWarm_first _ _ (by rw [Body.foundBad_board, hr])]
  exact ⟨rfl, Body.foundBad_parts _ _ _⟩

theorem execSramScrub_steward (hr : s.body.board.warmReq = none) :
    exec (.sramScrub .steward .bad) s = .next (s.onBoard fun b => { b with warmReq := some .memory }) := by
  refine (State.onBody_clocked (fun _ b => b.requestWarm .memory) hcl).trans ?_
  rw [Body.requestWarm_first _ _ hr]
  rfl

end

end Sys2Proof.Machine

/-! PROOFS. The patrol scrubber's units and their words, and the write-back of a corrected word (R170, R210, R211, R213, R226, R231; O38). -/

namespace Sys2Proof.Machine

open Sys2Proof

/-! ### Units and their words -/

/-- The address of a unit is a whole number of units: a region starts at a whole GiB. -/
theorem unitAddr_unit {maps : List MapDesc} {st loc u : Nat} (h : unitAddr maps st loc = some u) : u % 64 = 0 := by
  obtain ⟨d, -, hd⟩ := List.exists_of_findSome?_eq_some h
  obtain ⟨-, hu⟩ := Option.ite_none_right_eq_some.mp hd
  rw [← Option.some.inj hu, MapDesc.lo]
  omega

theorem wordSize_le (maps : List MapDesc) (a : Nat) : wordSize maps a ≤ 64 := by
  unfold wordSize
  split
  · split <;> decide
  · split <;> decide

/-- A bound of whole GiB does not part the halves of a unit. -/
theorem wordSize_half (maps : List MapDesc) {u : Nat} (hu : u % 64 = 0) : wordSize maps (u + 32) = wordSize maps u := by
  have hle (g : Nat) : g * 2 ^ 30 ≤ u + 32 ↔ g * 2 ^ 30 ≤ u := by omega
  have hlt (g k : Nat) : u + 32 < g * 2 ^ 30 + k * 2 ^ 30 ↔ u < g * 2 ^ 30 + k * 2 ^ 30 := by omega
  have hdram : u + 32 < 0xD800000000 ↔ u < 0xD800000000 := by omega
  have hsram : u + 32 < 0xF3000000000 ↔ u < 0xF3000000000 := by omega
  unfold wordSize
  simp only [hle, hlt, hdram, hsram]

/-- Bytes among those in which every word can be read. -/
theorem Mem.bad_within {m : Mem} {word a n c k : Nat} (h : m.bad word a n = false) (hlo : a ≤ c) (hhi : c + k ≤ a + n) :
    m.bad word c k = false := by
  unfold Mem.bad at *
  rw [List.any_eq_false] at *
  intro w hw ht
  refine h w hw ?_
  simp only [touches, Bool.and_eq_true, decide_eq_true_eq] at *
  omega

/-- Poison in the lower half-unit of a sector-mode region leaves the upper one, where no word was found bad (R211). -/
theorem Mem.bad_poisonUnit_lower {m : Mem} {u : Nat} (hu : m.upsets = []) (h32 : u % 32 = 0) (h : m.bad 32 (u + 32) 32 = false) :
    (m.poisonUnit 32 u).bad 32 (u + 32) 32 = false := by
  have hmarks : (m.poisonUnit 32 u).badWords 32 = m.poison ++ [u].filter fun w => !m.poison.contains w := by
    have hbase : u / 32 * 32 = u := by omega
    simp [Mem.poisonUnit, Mem.badWords, hu, hbase]
  unfold Mem.bad Mem.badWords at h
  rw [hu] at h
  unfold Mem.bad
  rw [hmarks, List.any_append, Bool.or_eq_false_iff]
  refine ⟨by simpa using h, List.any_eq_false.mpr fun w hw => ?_⟩
  rw [List.mem_singleton.mp (List.mem_filter.mp hw).1]
  simp [touches]

/-! ### The scrub registers of a stack -/

/-- What the patrol scrubber counts at a stack: passes, and units that cannot be read (R213, R231). -/
def Stack.scrubRegs (s : Stack) : Byte × Byte := (s.scrub, s.ue)

/-- A stack at which the scrubber found a unit that cannot be read: counted, and recorded where none is (R213). -/
def Stack.unitLost (s : Stack) (loc : BitVec 30) : Stack := { s with ue := satAdd s.ue 1, eccAddr := s.eccAddr <|> some (true, loc) }

/-- A stack with a patrol pass finished. -/
def Stack.passDone (s : Stack) : Stack := { s with scrub := s.scrub + 1 }

theorem Stack.scrubRegs_move (ceil : Nat) (l : DramLoc) (w : Bool) (n : Nat) (s : Stack) : (s.move ceil l w n).scrubRegs = s.scrubRegs := by
  simp only [Stack.move, Stack.updPc, Stack.turn]
  split <;> rfl

/-- A change of one stack that leaves its scrub registers. -/
theorem Body.scrubRegs_modify (b : Body) (i : Nat) (f : Stack → Stack) (st : Fin 24) (hf : ∀ s, (f s).scrubRegs = s.scrubRegs) :
    (({ b with stks := b.stks.modify i f } : Body).stack st).scrubRegs = (b.stack st).scrubRegs := by
  unfold Body.stack
  by_cases hi : i = st.val
  · subst hi
    by_cases h : st.val < b.stks.length
    · rw [getD_modify_self _ _ _ _ h, hf]
    · rw [List.getD_eq_default _ _ (by simpa using h), List.getD_eq_default _ _ (by simpa using h)]
  · rw [getD_modify_ne _ _ _ _ _ hi]

theorem Body.scrubRegs_traffic (b : Body) (w : Bool) (us : List (DramLoc × Nat)) (st : Fin 24) :
    ((b.traffic w us).stack st).scrubRegs = (b.stack st).scrubRegs := by
  refine List.foldlRecOn (motive := fun (t : Body) => (t.stack st).scrubRegs = (b.stack st).scrubRegs) _ _
    (List.foldlRecOn (motive := fun (t : Body) => (t.stack st).scrubRegs = (b.stack st).scrubRegs) _ _ rfl
      fun t ht u _ => ?moved) fun t ht i _ => ?counted
  case moved => exact (t.scrubRegs_modify _ _ st (Stack.scrubRegs_move _ _ _ _)).trans ht
  case counted =>
    refine (t.scrubRegs_modify _ _ st fun s => ?_).trans ht
    split <;> rfl

/-! ### The patrol scrubber -/

/-- Where a packed location of a stack falls (R418). -/
def patrolLoc (st : Fin 24) (loc : BitVec 30) : DramLoc :=
  ⟨st.val, bitsOf loc.toNat 29 24, bitsOf loc.toNat 23 18, bitsOf loc.toNat 17 4, loc.toNat % 16⟩

/-- The unit is read: traffic of its stack (R226). -/
def Body.patrolRead (b : Body) (st : Fin 24) (loc : BitVec 30) : Body := b.traffic false [(patrolLoc st loc, 2)]

/-- A finished pass is counted. -/
def Body.unitDone (b : Body) (st : Fin 24) (pass : Bool) : Body := if pass then b.updStack st Stack.passDone else b

/-- The words of a unit, each with what its code finds: its half-units in a sector-mode region, else the unit (R211). -/
def patrolWords (maps : List MapDesc) (u : Nat) (e upper : Ecc) : List (Nat × Ecc) :=
  if wordSize maps u = 32 then [(u, e), (u + 32, upper)] else [(u, e)]

section
variable {o : Own} {b : Body} {st : Fin 24} {loc : BitVec 30} {u : Nat}

theorem Body.patrolRead_leaves (b : Body) (st : Fin 24) (loc : BitVec 30) :
    (b.patrolRead st loc).mem = b.mem ∧ (b.patrolRead st loc).parts = b.parts ∧
      (b.patrolRead st loc).stks.length = b.stks.length ∧ ((b.patrolRead st loc).stack st).scrub = (b.stack st).scrub ∧
      ((b.patrolRead st loc).stack st).ue = (b.stack st).ue := by
  obtain ⟨-, -, -, -, hparts, hmem, -, -, -, -, hlen, -⟩ := b.counted_traffic false [(patrolLoc st loc, 2)]
  exact ⟨hmem, hparts, hlen, Prod.mk.inj (b.scrubRegs_traffic _ _ st)⟩

/-- A word that its code finds clean and that can be read stays as it is. -/
theorem patrolWord_clean (hu : b.mem.upsets = []) (hb : b.mem.bad (wordSize o.maps u) u (wordSize o.maps u) = false) :
    patrolWord o st loc b (u, .clean) = b := by
  unfold patrolWord
  dsimp only
  rw [hb, hu, upsetsIn_nil]
  rfl

theorem patrolWord_bad : patrolWord o st loc b (u, .bad) =
    (b.updMem (·.poisonUnit (wordSize o.maps u) u)).updStack st (·.unitLost loc) := rfl

theorem patrolScrub_mapped (h : unitAddr o.maps st.val loc.toNat = some u) (e upper : Ecc) (pass : Bool) :
    patrolScrub o b ⟨st, loc, upper⟩ e pass =
      ((patrolWords o.maps u e upper).foldl (patrolWord o st loc) (b.patrolRead st loc)).unitDone st pass := by
  unfold patrolScrub
  dsimp only
  rw [h]
  rfl

theorem patrolScrub_unmapped (h : unitAddr o.maps st.val loc.toNat = none) (upper : Ecc) : patrolScrub o b ⟨st, loc, upper⟩ .bad true =
    ((b.patrolRead st loc).updStack st (·.unitLost loc)).unitDone st true := by
  unfold patrolScrub
  dsimp only
  rw [h]
  rfl

section
variable (h : unitAddr o.maps st.val loc.toNat = some u) (hu : b.mem.upsets = [])
  (hb : b.mem.bad (wordSize o.maps u) u 64 = false)
include h hu hb

theorem foldl_patrolWords_clean : (patrolWords o.maps u .clean .clean).foldl (patrolWord o st loc) b = b := by
  have hhalf := wordSize_half o.maps (unitAddr_unit h)
  unfold patrolWords
  split
  case isTrue hw =>
    rw [hw] at hb hhalf
    rw [List.foldl_cons, List.foldl_cons, List.foldl_nil,
      patrolWord_clean hu (hw.symm ▸ Mem.bad_within hb (Nat.le_refl _) (by omega)),
      patrolWord_clean hu (hhalf.symm ▸ Mem.bad_within hb (by omega) (by omega))]
  case isFalse => exact patrolWord_clean hu (Mem.bad_within hb (Nat.le_refl _) (by have := wordSize_le o.maps u; omega))

/-- The unit, in a sector-mode region its lower half alone, is poisoned and counted. -/
theorem foldl_patrolWords_bad : (patrolWords o.maps u .bad .clean).foldl (patrolWord o st loc) b =
    (b.updMem (·.poisonUnit (wordSize o.maps u) u)).updStack st (·.unitLost loc) := by
  have hunit := unitAddr_unit h
  have hhalf := wordSize_half o.maps hunit
  unfold patrolWords
  split
  case isTrue hw =>
    rw [hw] at hb hhalf
    have hupper := Mem.bad_poisonUnit_lower hu (by omega) (Mem.bad_within (c := u + 32) (k := 32) hb (by omega) (by omega))
    rw [List.foldl_cons, List.foldl_cons, List.foldl_nil, patrolWord_bad, hw]
    refine patrolWord_clean ?_ (hhalf.symm ▸ hupper)
    simp [Mem.poisonUnit, hu]
  case isFalse => rfl

end

end

/-! ### PATROL_SCRUB -/

section
variable {s : State} (hcl : s.body.clocked = true) {st : Fin 24} {loc : BitVec 30} (hlen : s.body.stks.length = 24)
include hcl

theorem execPatrolScrub_eq (unit : StackUnit) (e : Ecc) (pass : Bool) :
    exec (.patrolScrub unit e pass) s = .next { s with body := patrolScrub s.own s.body unit e pass } :=
  State.onBody_clocked (fun o b => patrolScrub o b unit e pass) hcl

include hlen

theorem execPatrolScrub_unmapped (h : unitAddr s.own.maps st.val loc.toNat = none) (upper : Ecc) :
    ∃ t, exec (.patrolScrub ⟨st, loc, upper⟩ .bad true) s = .next t ∧ t.own = s.own ∧ t.body.mem = s.body.mem ∧
      (t.body.stack st).ue = satAdd (s.body.stack st).ue 1 ∧ (t.body.stack st).scrub = (s.body.stack st).scrub + 1 ∧
      t.body.parts = s.body.parts := by
  obtain ⟨hmem, hparts, hlength, hscrub, hue⟩ := s.body.patrolRead_leaves st loc
  have hst : st.val < (s.body.patrolRead st loc).stks.length := lt_of_lt_of_eq st.isLt (hlength.trans hlen).symm
  refine ⟨_, execPatrolScrub_eq hcl _ _ _, rfl, ?_⟩
  dsimp only
  rw [patrolScrub_unmapped h, Body.unitDone, if_pos rfl, Body.stack_updStack _ _ _ (by rwa [Body.updStack_stks_length]),
    Body.stack_updStack _ _ _ hst]
  exact ⟨hmem, congrArg (satAdd · 1) hue, congrArg (· + 1) hscrub, hparts⟩

variable {u : Nat} (h : unitAddr s.own.maps st.val loc.toNat = some u) (hu : s.body.mem.upsets = [])
  (hb : s.body.mem.bad (wordSize s.own.maps u) u 64 = false)
include h hu hb

theorem execPatrolScrub_clean :
    ∃ t, exec (.patrolScrub ⟨st, loc, .clean⟩ .clean true) s = .next t ∧ t.own = s.own ∧ t.body.mem = s.body.mem ∧
      (t.body.stack st).scrub = (s.body.stack st).scrub + 1 := by
  obtain ⟨hmem, -, hlength, hscrub, -⟩ := s.body.patrolRead_leaves st loc
  have hst : st.val < (s.body.patrolRead st loc).stks.length := lt_of_lt_of_eq st.isLt (hlength.trans hlen).symm
  refine ⟨_, execPatrolScrub_eq hcl _ _ _, rfl, ?_⟩
  dsimp only
  rw [patrolScrub_mapped h, foldl_patrolWords_clean h (hmem ▸ hu) (hmem ▸ hb)]
  exact ⟨hmem, (congrArg Stack.scrub (Body.stack_updStack _ _ _ hst)).trans (congrArg (· + 1) hscrub)⟩

theorem execPatrolScrub_bad :
    ∃ t, exec (.patrolScrub ⟨st, loc, .clean⟩ .bad false) s = .next t ∧ t.own = s.own ∧ t.body.mem.cells = s.body.mem.cells ∧
      t.body.mem = s.body.mem.poisonUnit (wordSize s.own.maps u) u ∧ (t.body.stack st).ue = satAdd (s.body.stack st).ue 1 ∧
      t.body.parts = s.body.parts := by
  obtain ⟨hmem, hparts, hlength, -, hue⟩ := s.body.patrolRead_leaves st loc
  have hst : st.val < (s.body.patrolRead st loc).stks.length := lt_of_lt_of_eq st.isLt (hlength.trans hlen).symm
  have hpoison := congrArg (Mem.poisonUnit · (wordSize s.own.maps u) u) hmem
  refine ⟨_, execPatrolScrub_eq hcl _ _ _, rfl, ?_⟩
  dsimp only
  rw [patrolScrub_mapped h, foldl_patrolWords_bad h (hmem ▸ hu) (hmem ▸ hb)]
  refine ⟨(congrArg Mem.cells hmem :), hpoison, ?_, hparts⟩
  exact (congrArg Stack.ue (Body.stack_updStack _ _ _ hst)).trans (congrArg (satAdd · 1) hue)

end

/-! ### ECC_WRITE_BACK -/

/-- The base of the word at an address. -/
def wordBase (maps : List MapDesc) (a : Nat) : Nat := a / wordSize maps a * wordSize maps a

/-- Memory without the write-back marks of a word. -/
def Mem.writtenBack (m : Mem) (k : Nat) : Mem := { m with writeBack := m.writeBack.filter fun x => x.1 != k }

theorem Mem.writtenBack_unmarked {m : Mem} {k : Nat} (h : m.writeBack.any (fun x => x.1 == k) = false) : m.writtenBack k = m := by
  have hall : m.writeBack.filter (fun x => x.1 != k) = m.writeBack :=
    List.filter_eq_self.mpr fun x hx => by simpa using List.any_eq_false.mp h x hx
  unfold Mem.writtenBack
  rw [hall]

/-- A write of one unit, or of one half-unit, counts one at its stack (R231). -/
theorem Body.wr_traffic_unit {b : Body} {l : DramLoc} {k : Nat} (h1 : 1 ≤ k) (h2 : k ≤ 2) (hl : l.stack < b.stks.length) :
    ((b.traffic true [(l, k)]).stks.getD l.stack Stack.reset).wr = (b.stks.getD l.stack Stack.reset).wr + 1 := by
  have hs : stackUnits l.stack [(l, k)] = 1 := by
    have hhalf : (k + 1) / 2 = 1 := by omega
    simpa [stackUnits] using hhalf
  have ht : b.traffic true [(l, k)] = (b.atStack l (·.move b.board.ceil.toNat l true (32 * k))).atStack l
      fun s => { s with wr := s.wr + BitVec.ofNat 64 (stackUnits l.stack [(l, k)]) } := rfl
  rw [ht, hs, Body.getD_atStack (by rwa [Body.atStack_length]), Body.getD_atStack hl]
  simp only [Stack.move, Stack.updPc, Stack.turn]
  split <;> rfl

section
variable {o : Own} {b : Body} {a : Nat}

theorem eccWriteBack_unmarked (h : b.mem.writeBack.any (fun x => x.1 == wordBase o.maps a) = false) : eccWriteBack o b a = b := by
  refine if_pos ?_
  exact congrArg not h

/-- Outside DRAM a word is written back at once. -/
theorem eccWriteBack_sram (h : locate o.maps (wordBase o.maps a) = none) :
    eccWriteBack o b a = b.updMem (·.writtenBack (wordBase o.maps a)) := by
  cases hm : b.mem.writeBack.any (fun x => x.1 == wordBase o.maps a) with
  | false =>
    rw [eccWriteBack_unmarked hm, Body.updMem, Mem.writtenBack_unmarked hm]
  | true =>
    unfold wordBase at h hm
    unfold eccWriteBack
    dsimp only
    rw [hm, h]
    rfl

/-- In DRAM it is written back once the controller takes the traffic (R226, R227). -/
theorem eccWriteBack_dram {l : DramLoc} (h : locate o.maps (wordBase o.maps a) = some l)
    (hm : b.mem.writeBack.any (fun x => x.1 == wordBase o.maps a) = true) :
    eccWriteBack o b a = if b.board.tripped || !(b.stks.getD l.stack Stack.reset).admits then b
      else (b.traffic true [(l, wordSize o.maps a / 32)]).updMem (·.writtenBack (wordBase o.maps a)) := by
  unfold wordBase at h hm
  unfold eccWriteBack
  dsimp only
  rw [hm, h]
  rfl

end

section
variable {s : State} (hcl : s.body.clocked = true) {a : Addr}
include hcl

theorem execEccWriteBack_eq : exec (.eccWriteBack a) s = .next { s with body := eccWriteBack s.own s.body a.toNat } :=
  State.onBody_clocked (fun o b => eccWriteBack o b a.toNat) hcl

theorem execEccWriteBack_unmarked (h : s.body.mem.writeBack.any (fun x => x.1 == wordBase s.own.maps a.toNat) = false) :
    exec (.eccWriteBack a) s = .next s := by
  rw [execEccWriteBack_eq hcl, eccWriteBack_unmarked h]

theorem execEccWriteBack_sram (h : locate s.own.maps (wordBase s.own.maps a.toNat) = none) :
    exec (.eccWriteBack a) s =
      .next { s with body := { s.body with mem := s.body.mem.writtenBack (wordBase s.own.maps a.toNat) } } := by
  rw [execEccWriteBack_eq hcl, eccWriteBack_sram h]
  rfl

variable {l : DramLoc} (h : locate s.own.maps (wordBase s.own.maps a.toNat) = some l)
  (hm : s.body.mem.writeBack.any (fun x => x.1 == wordBase s.own.maps a.toNat) = true)
include h hm

theorem execEccWriteBack_waits (hw : s.body.board.tripped = true ∨ (s.body.stks.getD l.stack Stack.reset).admits = false) :
    exec (.eccWriteBack a) s = .next s := by
  rw [execEccWriteBack_eq hcl, eccWriteBack_dram h hm, if_pos]
  rw [Bool.or_eq_true, Bool.not_eq_true']
  exact hw

theorem execEccWriteBack_dram (ha : a.toNat < 0xD800000000) (ht : s.body.board.tripped = false)
    (hadm : (s.body.stks.getD l.stack Stack.reset).admits = true) (hl : l.stack < s.body.stks.length) :
    ∃ t, exec (.eccWriteBack a) s = .next t ∧ t.own = s.own ∧ t.body.mem = s.body.mem.writtenBack (wordBase s.own.maps a.toNat) ∧
      t.body.parts = s.body.parts ∧
      (t.body.stks.getD l.stack Stack.reset).wr = (s.body.stks.getD l.stack Stack.reset).wr + 1 := by
  have hhalves : 1 ≤ wordSize s.own.maps a.toNat / 32 ∧ wordSize s.own.maps a.toNat / 32 ≤ 2 := by
    rcases wordSize_dram (maps := s.own.maps) ha with hw | hw <;> rw [hw] <;> decide
  have hparts := Body.parts_of_memoryAlone (s.body.memoryAlone_traffic true [(l, wordSize s.own.maps a.toNat / 32)])
  refine ⟨_, execEccWriteBack_eq hcl, rfl, ?_⟩
  dsimp only
  rw [eccWriteBack_dram h hm, if_neg (by rw [ht, hadm]; decide)]
  exact ⟨congrArg (Mem.writtenBack · _) (s.body.traffic_mem _ _), hparts, Body.wr_traffic_unit hhalves.1 hhalves.2 hl⟩

end

end Sys2Proof.Machine

/-! PROOFS. Scrubs, write-backs and the end of zeroings, together (R170, R173, R180, R213, R226, R455; O38). -/

namespace Sys2Proof.Machine

open Sys2Proof

theorem execMemoryZeroingComplete_eq {s : State} (hcl : s.body.clocked = true) (z : ZeroTarget) :
    exec (.memoryZeroingComplete z) s =
      .next { s with body := s.body.updMem fun m => { m with zeroing := m.zeroing.filter fun x => x != z } } :=
  State.onBody_clocked (fun _ b => b.updMem fun m => { m with zeroing := m.zeroing.filter fun x => x != z }) hcl

/-- Settles O38, memory by memory: a word of a vat, of the cave and of the steward's memory by what the scrubber finds, a DRAM unit by its
words, a write-back by where its word falls. -/
theorem scrubbing : Obligations.Scrubbing := by
  unfold Obligations.Scrubbing
  intro s a hcl
  refine ⟨fun hu c ha => ⟨fun hb => ⟨?vatClean, fun hlen => ?vatCorrected⟩, fun hd hlen => ?vatZeroed⟩, fun ha hr => ?cave,
    ⟨?stewardClean, ?stewardCorrected, fun hr => ?steward⟩,
    fun st loc hlen hu => ⟨fun u h hb => ⟨?unitClean, ?unitBad⟩, fun h upper => ?unmapped⟩,
    ⟨fun h => ?unmarked, fun h => ?sram, fun l ha h hm => ⟨fun hw => ?waits, fun ht hadm hl => ?dram⟩⟩, fun z => ?zeroed⟩
  case vatClean => rw [execSramScrub_at hcl, sramScrub_clean hu hb]
  case vatCorrected => exact execSramScrub_corrected hcl ha hu hb hlen
  case vatZeroed => exact execSramScrub_zeroes hcl ha hd hlen
  case cave => exact execSramScrub_restarts hcl ha hr
  case stewardClean => exact State.onBody_clocked (fun _ b => b) hcl
  case stewardCorrected => exact State.onBody_clocked (fun _ b => b) hcl
  case steward => exact execSramScrub_steward hcl hr
  case unitClean => exact execPatrolScrub_clean hcl hlen h hu hb
  case unitBad => exact execPatrolScrub_bad hcl hlen h hu hb
  case unmapped => exact execPatrolScrub_unmapped hcl hlen h upper
  case unmarked => exact execEccWriteBack_unmarked hcl h
  case sram => exact execEccWriteBack_sram hcl h
  case waits => exact execEccWriteBack_waits hcl h hm hw
  case dram => exact execEccWriteBack_dram hcl h hm ha ht hadm hl
  case zeroed => exact execMemoryZeroingComplete_eq hcl z

end Sys2Proof.Machine

/-! PROOFS. PART_RESET and its completion: each outcome of the command's rule, and what a reset that begins leaves of its partition and of
memory (R179, R427, R436, R440; O23). -/

namespace Sys2Proof.Machine

open Sys2Proof

/-! ### Commands on the module page -/

/-- A command of the module page whose length and ARG0 are in order ends as its rule says (R402, R412). -/
theorem State.xnx_module {s : State} {x : Xnx} {code : Nat} {lenOk arg0Ok : Bool} (h : s.takesModule x = true) (act : Own → Body → Xres)
    (hl : lenOk = true) (ha : arg0Ok = true) :
    s.xnx code x .module lenOk arg0Ok act = .next (s.concluded code x (act s.own (s.commandedWith code x))) := by
  rw [xnx_run s x code .module lenOk arg0Ok act (takes_of_takesModule h), hl, ha, xRefusal_module h]
  dsimp only
  cases act s.own (s.commandedWith code x) <;> rfl

/-- The partition that ARG0 names. -/
theorem partArg_of {x : Xnx} {p : Fin 8} (h : x.arg0 = p.val) : partArg x = p := by
  unfold partArg
  rw [h]
  exact Fin.ofNat_val_eq_self p

@[simp] theorem State.commandedWith_quads (s : State) (code : Nat) (x : Xnx) : (s.commandedWith code x).quads = s.body.quads := by
  rw [State.commandedWith_eq]

/-! ### What a reset leaves of its partition -/

theorem Body.part_of_linksAlone {b t : Body} (h : b.linksAlone t) (p : Fin 8) : t.part p = b.part p := by
  rw [h]
  rfl

section
variable (b : Body) (o : Own) (p : Fin 8)

/-- The PART_RESETs of the partition wait on while its contexts go. -/
theorem Body.resets_contextsGone : ((b.contextsGone o p).part p).resets = (b.part p).resets := by
  have hgone : ∀ (t : Body) (k : Fin 4), ((t.contextGone o p k).part p).resets = (t.part p).resets := fun t k => by
    obtain ⟨u, hu, -, hdrop⟩ := t.dropJobs_spec o ⟨p, k⟩
    unfold Body.contextGone
    rw [hdrop]
    exact (Body.field_updPart (b := u) (f := (·.dropped ⟨p, k⟩)) (g := Part.resets) p p fun _ => rfl).trans (congrArg Part.resets (hu.part p))
  exact List.foldlRecOn (motive := fun t : Body => (t.part p).resets = (b.part p).resets) _ _
    (congrArg Part.resets (Body.part_of_linksAlone (b.linksAlone_groupsTold p) p))
    fun t ht k _ => (hgone t k).trans ht

/-- Zeroing memory and clearing cores leaves the partition's records. -/
theorem Body.part_memoryGone : (b.memoryGone o p).part p = (b.contextsGone o p).part p := by
  unfold Body.memoryGone
  generalize b.contextsGone o p = t
  rfl

/-- A reset leaves the commands that wait for its end, and marks the partition as being reset. -/
theorem Body.part_partitionReset_resets (hp : p.val < b.parts.length) :
    ∃ y : Part, (b.partitionReset o p).part p = y.resetTo ∧ y.resets = (b.part p).resets := by
  have hlen : p.val < (b.memoryGone o p).parts.length := by rwa [(b.apart_memoryGone o p).parts]
  refine ⟨(b.memoryGone o p).part p, ?_, (congrArg Part.resets (b.part_memoryGone o p)).trans (b.resets_contextsGone o p)⟩
  exact ((b.partitionReset_answered o p).part p).trans ((b.memoryGone o p).part_updPart p _ hlen)

/-- The cellar run of the partition is zeroed (R179). -/
theorem Body.byte_partitionReset_cellar {a : Nat} (hlo : (o.prec p).block.cellarRange.1 ≤ a)
    (hhi : a < (o.prec p).block.cellarRange.1 + (o.prec p).block.cellarRange.2) : (b.partitionReset o p).mem.byte a = 0 := by
  rw [(b.partitionReset_answered o p).mem]
  unfold Body.partGone Body.memoryGone
  generalize b.contextsGone o p = t
  exact (Mem.byte_zero _ _ _ a).trans (if_pos ⟨hlo, hhi⟩)

end

/-! ### The rule -/

/-- A PART_RESET joins those that wait for the end of the partition's reset. -/
def Body.resetJoined (b : Body) (p : Fin 8) (t : Ticket) : Body := b.updPart p fun y => { y with resets := y.resets ++ [t] }

section
variable {x : Xnx} {o : Own} {b : Body} {p : Fin 8} (hx : x.arg0 = p.val)
include hx

theorem partResetAct_busy (hd : (o.prec p).phase = .deleting) : partResetAct x o b = .refused stBusy 0 := by
  unfold partResetAct
  rw [partArg_of hx]
  exact if_pos (beq_iff_eq.mpr hd)

variable (hd : (o.prec p).phase ≠ .deleting)
include hd

theorem partResetAct_absent (hp : o.present p = false) : partResetAct x o b = .refused stBounds 0 := by
  unfold partResetAct
  rw [partArg_of hx]
  exact (if_neg (mt beq_iff_eq.mp hd)).trans (if_pos (by rw [hp]; rfl))

variable (hp : o.present p = true)
include hp

theorem partResetAct_present : partResetAct x o b =
    .pending o ((if (b.part p).resetting then b else b.partitionReset o p).resetJoined p (xTicket x)) := by
  unfold partResetAct
  rw [partArg_of hx]
  exact (if_neg (mt beq_iff_eq.mp hd)).trans (if_neg (by rw [hp]; decide))

theorem partResetAct_joins (hr : (b.part p).resetting = true) : partResetAct x o b = .pending o (b.resetJoined p (xTicket x)) := by
  rw [partResetAct_present hx hd hp, if_pos hr]

theorem partResetAct_begins (hr : (b.part p).resetting = false) :
    partResetAct x o b = .pending o ((b.partitionReset o p).resetJoined p (xTicket x)) := by
  rw [partResetAct_present hx hd hp, if_neg (ne_true_of_eq_false hr)]

end

/-! ### The commands -/

section
variable {s : State} {x : Xnx} {p : Fin 8} (h : s.takesModule x = true) (hlen : x.len = 0) (harg : x.arg0 = p.val)
include h hlen harg

theorem execPartReset_eq {r : Xres} (hr : partResetAct x s.own (s.commandedWith 0x0503 x) = r) :
    exec (.partReset x) s = .next (s.concluded 0x0503 x r) :=
  hr ▸ State.xnx_module h (partResetAct x) (by simp [hlen]) (by simp [harg])

/-- A reset that begins: the partition is empty but for the commands that wait for it, its cellar run is zeroed, and DRAM is kept where
none of its transforms is under way (R199, R436). -/
theorem execPartReset_begins (hr : partResetAct x s.own (s.commandedWith 0x0503 x) =
      .pending s.own (((s.commandedWith 0x0503 x).partitionReset s.own p).resetJoined p (xTicket x))) (hparts : s.body.parts.length = 8) :
    ∃ t, exec (.partReset x) s = .next t ∧ t.own = s.own ∧ (t.body.part p).events = [] ∧ (∀ k, t.body.slot p k = Slot.empty) ∧
      (t.body.part p).resets = (s.body.part p).resets ++ [xTicket x] ∧ (t.body.part p).resetting = true ∧
      ((∀ k ∈ s.body.quads, ∀ j ∈ k.xfRun, j.ctx.part ≠ p) → ∀ a, a < 0xD800000000 → t.body.mem.byte a = s.body.mem.byte a) ∧
      (∀ a, (s.own.prec p).block.cellarRange.1 ≤ a →
        a < (s.own.prec p).block.cellarRange.1 + (s.own.prec p).block.cellarRange.2 → t.body.mem.byte a = 0) := by
  have hexec := execPartReset_eq h hlen harg hr
  let b := s.commandedWith 0x0503 x
  have hp : p.val < b.parts.length := by rw [s.commandedWith_parts, hparts]; exact p.isLt
  have hp' : p.val < (b.partitionReset s.own p).parts.length := by rwa [(b.apart_partitionReset s.own p).parts]
  obtain ⟨y, hy, hres⟩ := b.part_partitionReset_resets s.own p hp
  have hpart : (((b.partitionReset s.own p).resetJoined p (xTicket x)).respondPending (xTicket x)).part p =
      { y.resetTo with resets := y.resets ++ [xTicket x] } := by
    rw [(Body.answered_respondPending _ _).part, Body.resetJoined, Body.part_updPart _ p _ hp', hy]
    rfl
  refine ⟨_, hexec, rfl, congrArg Part.events hpart, fun k => ?slots, ?resets, congrArg Part.resetting hpart,
    fun hnone a ha => ?dram, fun a hlo hhi => ?cellar⟩
  case slots => exact (congrArg (fun z : Part => z.slots.getD k.val Slot.empty) hpart).trans (y.slot_resetTo k)
  case resets =>
    refine (congrArg Part.resets hpart).trans ?_
    rw [hres, s.commandedWith_part]
  case dram =>
    have hnot : ∀ k, b.transformsNot ⟨p, k⟩ := fun k q hq j hj hctx =>
      hnone q (s.commandedWith_quads 0x0503 x ▸ hq) j hj (congrArg CtxId.part hctx)
    exact (Body.byte_partitionReset s.own p hnot ha).trans (s.commandedWith_byte 0x0503 x a)
  case cellar => exact b.byte_partitionReset_cellar s.own p hlo hhi

end

/-- A steward that is up has its clock. -/
theorem Body.clocked_of_stewardUp {b : Body} (h : b.stewardUp = true) : b.clocked = true := by
  simp only [Body.stewardUp, Bool.and_eq_true, beq_iff_eq] at h
  simp [Body.clocked, h.1, h.2]

theorem execPartitionResetComplete_waits {s : State} (p : Fin 8) (h : s.body.stewardUp = false) :
    execPartitionResetComplete p s = .next s := by
  unfold execPartitionResetComplete
  exact State.onBody_same (if_pos (by rw [h]; rfl))

theorem execPartitionResetComplete_answers {s : State} (p : Fin 8) (h : s.body.stewardUp = true) :
    execPartitionResetComplete p s = .next { s with body :=
      (s.body.updPart p fun y => { y with resets := [], resetting := false }).respondAll s.own (s.body.part p).resets stOk } := by
  unfold execPartitionResetComplete
  rw [State.onBody_clocked _ (Body.clocked_of_stewardUp h)]
  dsimp only
  rw [if_neg (by rw [h]; decide)]

/-- Settles O23: each outcome of the command by the branch of its rule that it takes, and the completion by whether the steward runs. -/
theorem partReset : Obligations.PartReset := by
  unfold Obligations.PartReset
  refine ⟨fun s x p h hlen harg => ⟨fun hd => ?busy, fun hd hp => ?absent, fun hd hp => ⟨fun hr => ?joins, fun hr hparts => ?begins⟩⟩,
    fun s p => ⟨execPartitionResetComplete_waits p, execPartitionResetComplete_answers p⟩⟩
  case busy => exact execPartReset_eq h hlen harg (partResetAct_busy harg hd)
  case absent => exact execPartReset_eq h hlen harg (partResetAct_absent harg hd hp)
  case joins =>
    exact execPartReset_eq h hlen harg (partResetAct_joins harg hd hp ((s.commandedWith_part 0x0503 x p).symm ▸ hr))
  case begins =>
    exact execPartReset_begins h hlen harg (partResetAct_begins harg hd hp ((s.commandedWith_part 0x0503 x p).symm ▸ hr)) hparts

end Sys2Proof.Machine

/-! PROOFS. Jobs of a quadrant's engines: changes of a quadrant, its lists of jobs, and what an engine that stores results leaves (R95, R197). -/

namespace Sys2Proof.Machine

open Sys2Proof

/-- A command whose effect on a body is known. -/
theorem State.onBody_eq {s : State} {f : Own → Body → Body} {t : Body} (hcl : s.body.clocked = true) (h : f s.own s.body = t) :
    s.onBody f = .next { s with body := t } := h ▸ State.onBody_clocked f hcl

/-! ### Changes of a quadrant -/

/-- Changes of a list's element that agree on it are one. -/
theorem modify_congr_getD {α : Type} {l : List α} {i : Nat} {f g : α → α} (d : α) (h : f (l.getD i d) = g (l.getD i d)) :
    l.modify i f = l.modify i g := by
  refine List.ext_getElem? fun n => ?_
  simp only [List.getElem?_modify]
  split
  · next hn =>
    subst hn
    rw [List.getD_eq_getElem?_getD] at h
    cases hx : l[i]? with
    | none => rfl
    | some x =>
      rw [hx] at h
      exact congrArg some h
  · rfl

section
variable {b : Body} {q : Fin 4} {f g : Quad → Quad}

theorem Body.updQuad_congr (h : f (b.quad q) = g (b.quad q)) : b.updQuad q f = b.updQuad q g :=
  congrArg (fun l => ({ b with quads := l } : Body)) (modify_congr_getD Quad.reset h)

theorem Body.updQuad_same (h : f (b.quad q) = b.quad q) : b.updQuad q f = b := by
  refine (Body.updQuad_congr (g := id) h).trans ?_
  unfold Body.updQuad
  rw [List.modify_id]

theorem Body.quad_lt_of_ne (h : b.quad q ≠ Quad.reset) : q.val < b.quads.length :=
  Nat.lt_of_not_le fun hle => h (List.getD_eq_default _ _ hle)

end

/-! ### Lists of jobs -/

theorem findJob_dropJob (l : List QJob) (c : Fin 32) (ae : Nat) : findJob (dropJob l c ae) c ae = none := by
  refine List.find?_eq_none.mpr fun j hj => ?_
  simpa only [Bool.not_eq_true', Bool.not_eq_true] using (List.mem_filter.mp hj).2

/-- A job that is found is the one of that core and entry. -/
theorem place_of_findJob {l : List QJob} {c : Fin 32} {ae : Nat} {j : QJob} (h : findJob l c ae = some j) : j.core = c ∧ j.idx = ae := by
  simpa using List.find?_some h

/-- A quadrant that runs a transform is one of the module's. -/
theorem Body.quad_lt_of_findJob {b : Body} {q : Fin 4} {c : Fin 32} {ae : Nat} {j : QJob} (h : findJob (b.quad q).xfRun c ae = some j) :
    q.val < b.quads.length :=
  Body.quad_lt_of_ne fun hq => by
    rw [hq] at h
    cases h

/-! ### What an engine that stores results leaves -/

/-- t is b but for the counters of its cores, its stacks and its memory. -/
structure Body.Tallied (b t : Body) : Prop where
  alone : t = { b with cores := t.cores, stks := t.stks, mem := t.mem }
  cores : t.cores.length = b.cores.length
  job   : ∀ c, (t.core c).job = (b.core c).job

theorem Body.tallied_refl (b : Body) : b.Tallied b := ⟨rfl, rfl, fun _ => rfl⟩

theorem Body.Tallied.trans {b t u : Body} (h : b.Tallied t) (k : t.Tallied u) : b.Tallied u := by
  refine ⟨k.alone.trans ?_, k.cores.trans h.cores, fun c => (k.job c).trans (h.job c)⟩
  rw [h.alone]

theorem Body.tallied_of_memoryAlone {b t : Body} (h : b.memoryAlone t) : b.Tallied t := by
  obtain ⟨-, -, -, -, -, -, -, hcores, -⟩ := Body.eqs_of_memoryAlone h
  refine ⟨?_, congrArg List.length hcores, fun c => ?_⟩
  · unfold Body.memoryAlone at h
    rw [h]
  · unfold Body.core
    rw [hcores]

/-- Counters of a core. -/
theorem Body.tallied_updCore (b : Body) (c : Fin 32) {f : Core → Core} (h : ∀ k, (f k).job = k.job) : b.Tallied (b.updCore c f) :=
  ⟨rfl, b.updCore_cores_length c f, fun d => Body.field_updCore c d h⟩

section
variable {b t : Body} (h : b.Tallied t)
include h

theorem Body.Tallied.inner : b.inner t := by
  rw [h.alone]
  exact ⟨rfl, rfl, rfl, rfl, rfl, rfl⟩

theorem Body.Tallied.parts : t.parts = b.parts := by rw [h.alone]

theorem Body.Tallied.quads : t.quads = b.quads := by rw [h.alone]

theorem Body.Tallied.quad (q : Fin 4) : t.quad q = b.quad q := congrArg (·.getD q.val Quad.reset) h.quads

theorem Body.Tallied.cx (c : Fin 32) : (t.core c).cx = (b.core c).cx := congrArg Prod.snd (h.job c)

theorem Body.Tallied.ctx (c : Fin 32) : (t.core c).ctx = (b.core c).ctx := congrArg Prod.fst (h.job c)

theorem Body.Tallied.guards : t.guards = b.guards := by
  unfold Body.guards
  rw [h.parts]

theorem Body.Tallied.coreImage (c : Fin 32) : t.coreImage c = b.coreImage c := by
  unfold Body.coreImage Body.slot Body.part
  rw [h.ctx, h.parts]

/-- Writes that the memories take are taken once counters have been counted: where memory is the same and no request has come to
wait. -/
theorem Claims.unguarded_tallied {s : State} (hs : s.body = b) {x : CtxId} {c : Fin 32} {idx : Nat} {ws : List (Nat × List Byte)}
    (hm : t.mem = b.mem) (hw : ∀ a n, b.noneWaits a n = true → t.noneWaits a n = true)
    (hu : Claims.unguarded s (entryOf x c idx) ws) : Claims.unguarded { s with body := t } (entryOf x c idx) ws := by
  subst hs
  obtain ⟨hsound, hfree⟩ := hu
  obtain ⟨hboard, -⟩ := h.inner
  refine ⟨(congrArg Mem.sound hm).trans hsound, fun w hmem => ⟨?_, hw _ _ (hfree w hmem).2⟩⟩
  exact (refusedIn_congr (fun a n => netCheck_entry x.part c idx a n hboard (h.coreImage c)) h.guards _ _).trans (hfree w hmem).1

end

/-- An entry that completes counts its event (R126). -/
theorem Claims.counts_complete {s : State} {u : Body} {x : CtxId} {c : Fin 32} {idx : Nat} {l : Launched} (hw : Claims.slotsWhole s)
    (hp : u.parts = s.body.parts) (hl : (u.core c).cx.launched.find? (·.idx == idx) = some l) :
    Claims.counts s { s with body := u.complete x c idx } x l.evt.toNat := by
  have hwhole : Body.slotsWhole u := Body.slotsWhole.congr (b := s.body) hw hp
  refine Claims.counts_of_event ?_
  dsimp only
  rw [Body.complete_of_find hl]
  refine ((Body.slotsWhole.congr (t := u.updCx c (·.withdraw idx)) hwhole rfl).slot_updSlot x.part x.slot _).trans ?_
  rw [Body.updCx_slot, slot_of_parts hp]

end Sys2Proof.Machine

/-! PROOFS. XFORM, XD_START, XD_COMPLETE and XD_PREEMPT_STOP: when each takes effect, and what the groups of a transform leave (R187 to R191,
R196 to R199, R226, R227). -/

namespace Sys2Proof.Machine

open Sys2Proof

/-! ### Queueing and starting -/

/-- An XFORM entry is launched, and its transform joins its quadrant's queue (R197). -/
def Body.xfQueued (b : Body) (x : CtxId) (c : Fin 32) (e : Ae) : Body :=
  (b.updCx c fun k => k.launch e).updQuad (quadOf c) fun q => { q with xfQ := q.xfQ ++ [QJob.new x c (b.core c).cx.aeIdx.toNat e 0] }

section
variable {s : State} {c : Fin 32} {x : CtxId} {e : Ae} (hf : Claims.fetched s c) (hn : s.body.nextAe c kXform = some (x, e))
include hf hn

/-- An XFORM entry is held while sixteen entries are out or its quadrant's queue is full (R125, R197). -/
theorem execXform_held (h : ¬ (s.body.mayLaunch c = true ∧ (s.body.quad (quadOf c)).xfQ.length < 128)) : exec (.xform c) s = .next s := by
  refine (issuesAs_xform c).same hf ?_
  unfold xformIssue
  rw [hn]
  refine if_pos ?_
  by_cases hl : s.body.mayLaunch c = true
  · exact Or.inr (Nat.le_of_not_lt fun hq => h ⟨hl, hq⟩)
  · exact Or.inl (by simpa using hl)

theorem execXform_joins (hl : s.body.mayLaunch c = true) (hq : (s.body.quad (quadOf c)).xfQ.length < 128) :
    exec (.xform c) s = .next { s with body := (s.body.xfQueued x c e).stewardRead s.own (s.body.fetchReads s.own c) } := by
  have hissue : xformIssue s.body c = s.body.xfQueued x c e := by
    unfold xformIssue
    rw [hn]
    refine if_neg fun h => ?_
    rcases h with h | h
    · rw [hl] at h
      exact absurd h (by decide)
    · exact absurd hq (Nat.not_lt.mpr h)
  have hnext : ((s.body.xfQueued x c e).core c).cx.aeIdx ≠ (s.body.core c).cx.aeIdx := by
    unfold Body.xfQueued
    rw [Body.updQuad_core, s.body.core_updCx c _ (Body.core_of_nextAe hn).1]
    unfold CoreCtx.launch
    dsimp only
    bv_omega
  obtain ⟨hcl, -⟩ := id hf
  rw [(issuesAs_xform c).exec_eq, State.onBody_clocked _ hcl, Body.issuing_fetched hf, hissue, if_neg hnext]

end

section
variable {s : State} {q : Fin 4}

theorem execXdStart_same (h : (s.body.quad q).xfQ = [] ∨ 8 ≤ (s.body.quad q).xfRun.length) : execXdStart q s = .next s := by
  refine State.onBody_same (Body.updQuad_same ?_)
  split
  · next hq => exact if_neg (Nat.not_lt.mpr (h.resolve_left (by rw [hq]; exact List.cons_ne_nil _ _)))
  · rfl

theorem execXdStart_starts {j : QJob} {rest : List QJob} (hcl : s.body.clocked = true) (hq : (s.body.quad q).xfQ = j :: rest)
    (hr : (s.body.quad q).xfRun.length < 8) :
    execXdStart q s = .next { s with body := s.body.updQuad q fun k => { k with xfQ := rest, xfRun := k.xfRun ++ [j] } } := by
  refine State.onBody_eq hcl (Body.updQuad_congr ?_)
  rw [hq]
  exact if_pos hr

end

/-! ### The groups of a transform -/

/-- What the elements of a transform from a group on write, up to an element, and at its end its side list and flag bitmap; a MOVE onto
itself writes nothing (R187 to R191, R196). -/
def Xd.writes (x : Xd) (m : Mem) (ps : Option PlaneSet) (pos upto core : Nat) (fin : Bool) : List (Nat × List Byte) :=
  if x.identity then [] else (x.span m ps (4096 * pos) upto).1 ++ (if fin then x.final m ps core else [])

/-- Groups that do not reach the end of a transform write its elements alone. -/
theorem Xd.writes_groups (x : Xd) (m : Mem) (ps : Option PlaneSet) (pos upto core : Nat) :
    x.writes m ps pos upto core false = if x.identity then [] else (x.span m ps (4096 * pos) upto).1 := by
  unfold Xd.writes
  rw [if_neg Bool.false_ne_true, List.append_nil]

/-- The body when the elements of a transform have been read and their events counted (R54, R231). -/
def Body.xdCounted (o : Own) (b : Body) (j : QJob) (x : Xd) (ps : Option PlaneSet) (upto : Nat) : Body :=
  let r := x.span b.mem ps (4096 * j.pos) upto
  (b.updCore j.core fun k => (k.countEvs r.2.1).count r.2.2.1 r.2.2.2 0).countReadsOf o (x.reads b.mem ps (4096 * j.pos) upto)

section
variable (o : Own) (b : Body) (j : QJob) (x : Xd) (ps : Option PlaneSet) (upto : Nat)

theorem Body.tallied_xdCounted : b.Tallied (b.xdCounted o j x ps upto) :=
  (b.tallied_updCore j.core (by intro _; rfl)).trans (Body.tallied_of_memoryAlone (Body.memoryAlone_countReadsOf _ _ _))

theorem Body.mem_xdCounted : (b.xdCounted o j x ps upto).mem = b.mem := Body.countReadsOf_mem _ _ _

variable {b} in
theorem Body.noneWaits_xdCounted {a n : Nat} (h : b.noneWaits a n = true) : (b.xdCounted o j x ps upto).noneWaits a n = true :=
  Body.noneWaits_countReadsOf _ h

variable {x}

/-- A MOVE onto itself is done as it stands (R196). -/
theorem xdAdvance_identity (fin : Bool) (hid : x.identity = true) : xdAdvance o b j x ps upto fin = (b, true) := if_pos hid

variable {b} in
/-- In sound memory the elements of a transform are read, and its writes are put; it goes on with its context. -/
theorem xdAdvance_sound (fin : Bool) (hid : ¬ x.identity = true) (hs : b.mem.sound = true) : xdAdvance o b j x ps upto fin =
    let u := (b.xdCounted o j x ps upto).put o j.ctx j.core j.idx ((x.writes b.mem ps j.pos upto j.core.val fin).map whole)
    (u, (u.core j.core).ctx == some j.ctx) := by
  unfold xdAdvance Xd.writes
  rw [if_neg hid, if_neg hid]
  dsimp only
  rw [Body.firstBad_sound _ hs, Body.correctedIn_sound _ hs]
  rfl

end

/-- Groups whose writes the memories take are stored, and the transform goes on: nothing but counters, stacks and memory changes. -/
theorem xdAdvance_stores {s : State} {j : QJob} {x : Xd} {ps : Option PlaneSet} {upto : Nat} {fin : Bool} {ws : List (Nat × List Byte)}
    (hws : x.writes s.body.mem ps j.pos upto j.core.val fin = ws) (hx : (s.body.core j.core).ctx = some j.ctx)
    (hu : Claims.unguarded s (entryOf j.ctx j.core j.idx) ws) :
    ∃ t, xdAdvance s.own s.body j x ps upto fin = (t, true) ∧ s.body.Tallied t ∧ Claims.stored s { s with body := t } ws := by
  by_cases hid : x.identity = true
  · have hnone : ws = [] := hws.symm.trans (if_pos hid)
    subst hnone
    exact ⟨s.body, xdAdvance_identity _ _ _ _ _ _ hid, s.body.tallied_refl, fun _ => rfl⟩
  · have hcount := s.body.tallied_xdCounted s.own j x ps upto
    have hmem := s.body.mem_xdCounted s.own j x ps upto
    obtain ⟨halone, hstored⟩ := Claims.stored_put (s := { s with body := s.body.xdCounted s.own j x ps upto }) rfl rfl rfl rfl rfl
      (Claims.unguarded_tallied hcount rfl hmem (fun _ _ => Body.noneWaits_xdCounted s.own j x ps upto) hu)
    have hput := hcount.trans (Body.tallied_of_memoryAlone halone)
    obtain ⟨hs, -⟩ := hu
    refine ⟨_, ?_, hput, fun a => (hstored a).trans (congrArg (Claims.after · ws a) hmem)⟩
    rw [xdAdvance_sound s.own j ps upto fin hid hs, hws]
    exact congrArg (Prod.mk _) (by rw [hput.ctx, hx]; exact beq_self_eq_true _)

/-! ### Ends and stops -/

/-- The descriptor of a transform that runs. -/
def Body.xdOfJob (b : Body) (j : QJob) : Xd := xdOf (b.imageOf j.ctx) j.ref

/-- The plane set that a transform that runs reads. -/
def Body.planeOfJob (b : Body) (j : QJob) : Option PlaneSet := (b.slot j.ctx.part j.ctx.slot).xdPlane (b.xdOfJob j)

/-- The operands of a transform that runs flow (R226, R227). -/
def Body.jobFlows (o : Own) (b : Body) (j : QJob) : Bool := (b.xdOfJob j).flows o b (b.planeOfJob j)

/-- The group at whose end a transform stops that is asked to go on to a group: no earlier than its current one, and no later than its
last (R199). -/
def Body.stopGroup (b : Body) (j : QJob) (group : Nat) : Nat :=
  min (max group (j.pos + 1)) (ceilDiv ((b.xdOfJob j).count (b.planeOfJob j)) 4096)

/-- A transform leaves its engine once it has gone as far as it was to go. -/
def Body.xdLeaves (b : Body) (q : Fin 4) (c : Fin 32) (ae : Nat) (f : Quad → Quad) : Body :=
  b.updQuad q fun k => { f k with xfRun := dropJob k.xfRun c ae }

section
variable {o : Own} {b : Body} {q : Fin 4} {c : Fin 32} {ae : Nat}

theorem xdComplete_idle (h : findJob (b.quad q).xfRun c ae = none) : xdComplete o b q c ae = b := by
  unfold xdComplete
  rw [h]

theorem xdStop_idle (group : Nat) (h : findJob (b.quad q).xfRun c ae = none) : xdStop o b q c ae group = b := by
  unfold xdStop
  rw [h]

variable {j : QJob} (hj : findJob (b.quad q).xfRun c ae = some j)
include hj

theorem xdComplete_held (hf : b.jobFlows o j = false) : xdComplete o b q c ae = b := by
  unfold xdComplete
  rw [hj]
  exact if_pos (by rw [Bool.not_eq_true']; exact hf)

theorem xdComplete_ends {t : Body} (hf : b.jobFlows o j = true)
    (ha : xdAdvance o b j (b.xdOfJob j) (b.planeOfJob j) ((b.xdOfJob j).count (b.planeOfJob j)) true = (t, true)) :
    xdComplete o b q c ae = (t.xdLeaves q c ae fun k => { k with xfDone := k.xfDone + 1 }).complete j.ctx c ae := by
  unfold Body.jobFlows Body.planeOfJob Body.xdOfJob at *
  unfold xdComplete
  rw [hj]
  dsimp only
  rw [ha, hf]
  rfl

theorem xdStop_held (group : Nat) (h : ¬ ((b.slot j.ctx.part j.ctx.slot).run = .stopping ∧ b.jobFlows o j = true)) :
    xdStop o b q c ae group = b := by
  unfold xdStop
  rw [hj]
  dsimp only
  split
  · rfl
  · next hrun => exact if_pos (by rw [Bool.not_eq_true', ← Bool.not_eq_true]; exact fun hf => h ⟨not_not.mp hrun, hf⟩)

theorem xdStop_stops {t : Body} {group : Nat} (hrun : (b.slot j.ctx.part j.ctx.slot).run = .stopping) (hf : b.jobFlows o j = true)
    (ha : xdAdvance o b j (b.xdOfJob j) (b.planeOfJob j)
      (min (4096 * b.stopGroup j group) ((b.xdOfJob j).count (b.planeOfJob j))) false = (t, true)) :
    xdStop o b q c ae group =
      (t.xdLeaves q c ae fun k => { k with xfStopped := satAdd k.xfStopped 1 }).updCx c fun k => k.stopAt ae (b.stopGroup j group) := by
  unfold Body.stopGroup Body.jobFlows Body.planeOfJob Body.xdOfJob at *
  unfold xdStop
  rw [hj]
  dsimp only
  rw [ha, hf, hrun]
  rfl

end

theorem execXdComplete_same {s : State} {q : Fin 4} {c : Fin 32} {ae : Nat} (h : xdComplete s.own s.body q c ae = s.body) :
    execXdComplete q c ae s = .next s :=
  State.onBody_same h

theorem execXdPreemptStop_same {s : State} {q : Fin 4} {c : Fin 32} {ae group : Nat} (h : xdStop s.own s.body q c ae group = s.body) :
    execXdPreemptStop q c ae group s = .next s :=
  State.onBody_same h

/-- A transform that leaves its engine is gone from its quadrant, whose count it raises. -/
theorem Body.quad_xdLeaves {b t : Body} {q : Fin 4} {c : Fin 32} {ae : Nat} {j : QJob} (h : b.Tallied t)
    (hj : findJob (b.quad q).xfRun c ae = some j) (f : Quad → Quad) :
    (t.xdLeaves q c ae f).quad q = { f (b.quad q) with xfRun := dropJob (b.quad q).xfRun c ae } := by
  refine (t.quad_updQuad q _ ?_).trans ?_
  · rw [h.quads]
    exact Body.quad_lt_of_findJob hj
  · rw [h.quad]

section
variable {s : State} {q : Fin 4} {c : Fin 32} {ae : Nat} {j : QJob} (hcl : s.body.clocked = true)
  (hj : findJob (s.body.quad q).xfRun c ae = some j)
include hcl hj

/-- The end of a transform: its writes are stored, XF_DONE counts it, and its entry completes (R198). -/
theorem execXdComplete_ends {l : Launched} {ws : List (Nat × List Byte)} (hf : s.body.jobFlows s.own j = true)
    (hws : (s.body.xdOfJob j).writes s.body.mem (s.body.planeOfJob j) j.pos ((s.body.xdOfJob j).count (s.body.planeOfJob j)) c.val true = ws)
    (hu : Claims.unguarded s (entryOf j.ctx c ae) ws) (hw : Claims.slotsWhole s) (hx : (s.body.core c).ctx = some j.ctx)
    (hl : (s.body.core c).cx.launched.find? (·.idx == ae) = some l) :
    ∃ t, execXdComplete q c ae s = .next t ∧ Claims.quiet s t ∧ Claims.stored s t ws ∧
      findJob (t.body.quad q).xfRun c ae = none ∧ (t.body.quad q).xfDone = (s.body.quad q).xfDone + 1 ∧
      Claims.counts s t j.ctx l.evt.toNat := by
  obtain ⟨rfl, rfl⟩ := place_of_findJob hj
  obtain ⟨t, hadv, htally, hstored⟩ := xdAdvance_stores hws hx hu
  let u := t.xdLeaves q j.core j.idx fun k => { k with xfDone := k.xfDone + 1 }
  have hret := u.retired_complete j.ctx j.core j.idx
  have hquad : (u.complete j.ctx j.core j.idx).quad q =
      { s.body.quad q with xfDone := (s.body.quad q).xfDone + 1, xfRun := dropJob (s.body.quad q).xfRun j.core j.idx } := by
    rw [hret.alone]
    exact Body.quad_xdLeaves htally hj _
  refine ⟨_, State.onBody_eq hcl (xdComplete_ends hj hf hadv), ?quiet, ?stored, ?gone,
    congrArg Quad.xfDone hquad, ?counts⟩
  case quiet => exact Claims.quiet_of_inner (Body.inner_trans htally.inner (Body.inner_trans ⟨rfl, rfl, rfl, rfl, rfl, rfl⟩ hret.inner))
  case stored => exact fun a => (congrArg (Mem.byte · a) hret.mem).trans (hstored a)
  case gone => exact (congrArg (fun k : Quad => findJob k.xfRun j.core j.idx) hquad).trans (findJob_dropJob _ _ _)
  case counts =>
    have hlaunched : (t.core j.core).cx.launched.find? (·.idx == j.idx) = some l := by
      rw [htally.cx]
      exact hl
    exact Claims.counts_complete hw (u := u) htally.parts hlaunched

/-- The stop of a transform whose invocation is pre-empted: its groups so far are stored, and its context keeps its position (R199). -/
theorem execXdPreemptStop_stops {group : Nat} {ws : List (Nat × List Byte)}
    (hrun : (s.body.slot j.ctx.part j.ctx.slot).run = .stopping)
    (hf : s.body.jobFlows s.own j = true)
    (hws : (s.body.xdOfJob j).writes s.body.mem (s.body.planeOfJob j) j.pos
      (min (4096 * s.body.stopGroup j group) ((s.body.xdOfJob j).count (s.body.planeOfJob j))) c.val false = ws)
    (hu : Claims.unguarded s (entryOf j.ctx c ae) ws) (hx : (s.body.core c).ctx = some j.ctx) :
    ∃ t, execXdPreemptStop q c ae group s = .next t ∧ Claims.quiet s t ∧ Claims.stored s t ws ∧
      findJob (t.body.quad q).xfRun c ae = none ∧ (t.body.quad q).xfStopped = satAdd (s.body.quad q).xfStopped 1 ∧
      (t.body.core c).cx.stopped.head? = some (ae, s.body.stopGroup j group) := by
  obtain ⟨rfl, rfl⟩ := place_of_findJob hj
  obtain ⟨t, hadv, htally, hstored⟩ := xdAdvance_stores hws hx hu
  let u := t.xdLeaves q j.core j.idx fun k => { k with xfStopped := satAdd k.xfStopped 1 }
  have hquad : u.quad q = { s.body.quad q with
      xfStopped := satAdd (s.body.quad q).xfStopped 1, xfRun := dropJob (s.body.quad q).xfRun j.core j.idx } :=
    Body.quad_xdLeaves htally hj _
  have hcore : j.core.val < u.cores.length := Nat.lt_of_lt_of_eq (Body.core_lt_of_ctx hx) htally.cores.symm
  refine ⟨_, State.onBody_eq hcl (xdStop_stops hj hrun hf hadv), ?quiet, hstored, ?gone,
    congrArg Quad.xfStopped hquad, ?kept⟩
  case quiet => exact Claims.quiet_of_inner (Body.inner_trans htally.inner ⟨rfl, rfl, rfl, rfl, rfl, rfl⟩)
  case gone => exact (congrArg (fun k : Quad => findJob k.xfRun j.core j.idx) hquad).trans (findJob_dropJob _ _ _)
  case kept => exact congrArg (fun k : Core => k.cx.stopped.head?) (u.core_updCx j.core (·.stopAt j.idx (s.body.stopGroup j group)) hcore)

end

end Sys2Proof.Machine

/-! PROOFS. RIND_JOB_START and RIND_JOB_COMPLETE: when the rind engine takes a job, and what the job's end leaves (R93, R95 to R97). -/

namespace Sys2Proof.Machine

open Sys2Proof

section
variable {s : State} {q : Fin 4}

theorem execRindJobStart_same (h : (s.body.quad q).rindQ = [] ∨ (s.body.quad q).rindRun ≠ none) : execRindJobStart q s = .next s := by
  refine State.onBody_same (Body.updQuad_same ?_)
  split
  · next hr hq => rw [hr, hq] at h; simp at h
  · rfl

theorem execRindJobStart_starts {j : QJob} {rest : List QJob} (hcl : s.body.clocked = true) (hq : (s.body.quad q).rindQ = j :: rest)
    (hr : (s.body.quad q).rindRun = none) :
    execRindJobStart q s = .next { s with body := s.body.updQuad q fun k => { k with rindQ := rest, rindRun := some j } } := by
  refine State.onBody_eq hcl (Body.updQuad_congr ?_)
  rw [hr, hq]

end

/-! ### The end of a rind job -/

/-- A rind job leaves its engine, and RIND_STAT.JOBS counts it (R97). -/
def Body.rindLeaves (b : Body) (q : Fin 4) : Body := b.updQuad q fun k => { k with rindRun := none, rindJobs := k.rindJobs + 1 }

/-- The same with the events of the job's conversions counted at its core (R54). -/
def Body.rindCounted (b : Body) (q : Fin 4) (c : Fin 32) (vals : List (List (List Byte × ConvEv))) : Body :=
  (b.rindLeaves q).updCore c fun k => k.countEvs (vals.flatMap fun row => row.map (·.2))

section
variable {o : Own} {b : Body} {q : Fin 4}

theorem rindComplete_idle (h : (b.quad q).rindRun = none) : rindComplete o b q = b := by
  unfold rindComplete
  rw [h]

variable {j : QJob} (hj : (b.quad q).rindRun = some j)
include hj

/-- A job whose context was torn down leaves nothing but its count (R96). -/
theorem rindComplete_torn (hx : (b.core j.core).ctx ≠ some j.ctx) : rindComplete o b q = b.rindLeaves q := by
  unfold rindComplete
  rw [hj]
  refine if_pos ?_
  rw [beq_eq_false_iff_ne.mpr hx]
  rfl

theorem rindComplete_ends {l : Launched} {t : Td} (hx : (b.core j.core).ctx = some j.ctx)
    (hl : (b.core j.core).cx.launched.find? (·.idx == j.idx) = some l) (hs : b.mem.sound = true)
    (ht : tdOf (b.imageOf j.ctx) j.ref = t) :
    rindComplete o b q = ((b.rindCounted q j.core (rindVals t b.mem)).complete j.ctx j.core j.idx).put o j.ctx j.core j.idx
      ((t.outWrites j.core.val 0 0 (t.extents none) (rindVals t b.mem)).map whole) := by
  subst ht
  have hout : (b.core j.core).cx.launched.any (·.idx == j.idx) = true :=
    List.any_eq_true.mpr ⟨l, List.mem_of_find?_eq_some hl, by simpa using List.find?_some hl⟩
  unfold rindComplete
  rw [hj]
  dsimp only
  rw [hx, hout, Body.firstBad_sound _ hs]
  exact (if_neg (by simp)).trans (congrArg (fun d : Body => ((d.updCore j.core _).complete j.ctx j.core j.idx).put o j.ctx j.core j.idx _)
    (Body.correctedIn_sound (b := b.rindLeaves q) _ hs))

end

theorem execRindJobComplete_same {s : State} {q : Fin 4} (h : rindComplete s.own s.body q = s.body) : execRindJobComplete q s = .next s :=
  State.onBody_same h

section
variable {s : State} {q : Fin 4} {j : QJob} (hcl : s.body.clocked = true) (hj : (s.body.quad q).rindRun = some j)
include hcl hj

theorem execRindJobComplete_torn (hx : (s.body.core j.core).ctx ≠ some j.ctx) :
    execRindJobComplete q s = .next { s with body := s.body.rindLeaves q } :=
  State.onBody_eq hcl (rindComplete_torn hj hx)

/-- The end of a rind job: its converted results and flags are stored, JOBS counts it, and its entry completes (R93, R96, R97). -/
theorem execRindJobComplete_ends {l : Launched} {t0 : Td} {ws : List (Nat × List Byte)} (hx : (s.body.core j.core).ctx = some j.ctx)
    (hl : (s.body.core j.core).cx.launched.find? (·.idx == j.idx) = some l) (hw : Claims.slotsWhole s)
    (ht : tdOf (s.body.imageOf j.ctx) j.ref = t0)
    (hws : t0.outWrites j.core.val 0 0 (t0.extents none) (rindVals t0 s.body.mem) = ws)
    (hu : Claims.unguarded s (entryOf j.ctx j.core j.idx) ws) :
    ∃ t, execRindJobComplete q s = .next t ∧ Claims.quiet s t ∧ Claims.stored s t ws ∧ (t.body.quad q).rindRun = none ∧
      (t.body.quad q).rindJobs = (s.body.quad q).rindJobs + 1 ∧ Claims.counts s t j.ctx l.evt.toNat := by
  obtain ⟨hs, -⟩ := id hu
  have hq : q.val < s.body.quads.length := Body.quad_lt_of_ne fun hq => by
    rw [hq] at hj
    cases hj
  let u := s.body.rindCounted q j.core (rindVals t0 s.body.mem)
  have htally : (s.body.rindLeaves q).Tallied u := Body.tallied_updCore _ j.core fun _ => rfl
  have hret := u.retired_complete j.ctx j.core j.idx
  have hinner : s.body.inner (u.complete j.ctx j.core j.idx) :=
    Body.inner_trans ⟨rfl, rfl, rfl, rfl, rfl, rfl⟩ (Body.inner_trans htally.inner hret.inner)
  obtain ⟨hboard, -⟩ := id hinner
  obtain ⟨halone, hstored⟩ := Claims.stored_put (t := u.complete j.ctx j.core j.idx) hboard
    ((hret.coreImage j.core).trans (htally.coreImage j.core)) (hret.guards.trans htally.guards) hret.mem hret.stks hu
  obtain ⟨-, -, -, -, -, -, hparts, -, hquads, -⟩ := Body.eqs_of_memoryAlone halone
  have hquad : ((u.complete j.ctx j.core j.idx).put s.own j.ctx j.core j.idx (ws.map whole)).quad q =
      { s.body.quad q with rindRun := none, rindJobs := (s.body.quad q).rindJobs + 1 } := by
    refine (congrArg (·.getD q.val Quad.reset) hquads).trans ?_
    rw [hret.alone]
    exact s.body.quad_updQuad q _ hq
  refine ⟨_, State.onBody_eq hcl (hws ▸ rindComplete_ends hj hx hl hs ht),
    Claims.quiet_of_inner (Body.inner_trans hinner (Body.inner_of_memoryAlone halone)), hstored, congrArg Quad.rindRun hquad,
    congrArg Quad.rindJobs hquad, fun e => ?_⟩
  have hlaunched : (u.core j.core).cx.launched.find? (·.idx == j.idx) = some l := by
    rw [htally.cx]
    exact hl
  refine Eq.trans (congrArg (Slot.count · e) ?_) (Claims.counts_complete hw (u := u) rfl hlaunched e)
  exact slot_of_parts hparts _ _

end

end Sys2Proof.Machine

/-! PROOFS. The transform and rind engines together (O51). -/

namespace Sys2Proof.Machine

open Sys2Proof

/-- Settles O51, by the outcomes of each command: whether an XFORM entry is held; whether a queued transform or rind job may start; whether
a running one is found, flows, is to stop, or has lost its context. -/
theorem quadrantEngines : Obligations.QuadrantEngines := by
  unfold Obligations.QuadrantEngines
  refine ⟨⟨?issue, ?start, ?absent, ?ends, ?stops⟩, ?rindStart, ?rindEnds⟩
  case issue =>
    intro s c x e hf hn may
    exact ⟨execXform_held hf hn, fun h => execXform_joins hf hn h.1 h.2⟩
  case start =>
    intro s q hcl
    exact ⟨execXdStart_same, fun j rest => execXdStart_starts hcl⟩
  case absent =>
    intro s q c ae group _ h
    exact ⟨execXdComplete_same (xdComplete_idle h), execXdPreemptStop_same (xdStop_idle group h)⟩
  case ends =>
    intro s q c ae j hcl hj x ps ws
    exact ⟨fun hf => execXdComplete_same (xdComplete_held hj hf), fun l hf hu hw hx hl => execXdComplete_ends hcl hj hf rfl hu hw hx hl⟩
  case stops =>
    intro s q c ae group j hcl hj x ps stops g ws
    refine ⟨fun h => execXdPreemptStop_same (xdStop_held hj group h), fun h hu hx => ?_⟩
    exact execXdPreemptStop_stops hcl hj h.1 h.2 (x.writes_groups _ _ _ _ _) hu hx
  case rindStart =>
    intro s q hcl
    exact ⟨execRindJobStart_same, fun j rest => execRindJobStart_starts hcl, fun h => execRindJobComplete_same (rindComplete_idle h)⟩
  case rindEnds =>
    intro s q j hcl hj
    refine ⟨execRindJobComplete_torn hcl hj, fun l hx hl hw => ?_⟩
    intro t0 ws hu
    exact execRindJobComplete_ends hcl hj hx hl hw rfl rfl hu

end Sys2Proof.Machine

/-! PROOFS. PART_DELETE and its completion: what each makes of the ownership, and each outcome of the commands (R208, R227, R420, R427, R443;
O24). -/

namespace Sys2Proof.Machine

open Sys2Proof

/-! ### Ownership while a partition is being deleted -/

/-- The ownership with which a deletion of the partition begins: its semaphore free, its record marked (R427). -/
def Own.deletion (o : Own) (p : Fin 8) : Own :=
  (if (o.sem (p.val + 1)).held then o.free (p.val + 1) else o).setRec p .deleting (o.prec p).block

theorem deleteStart_own (o : Own) (b : Body) (p : Fin 8) (k : Ticket) : (deleteStart o b p k).1 = o.deletion p := rfl

section
variable (o : Own) (p : Fin 8)

theorem Own.deletion_maps : (o.deletion p).maps = o.maps := by
  unfold Own.deletion
  split <;> rfl

theorem Own.deletion_worlds : (o.deletion p).worlds = o.worlds := by
  unfold Own.deletion
  split <;> rfl

theorem Own.deletion_recs : (o.deletion p).recs = (o.setRec p .deleting (o.prec p).block).recs := by
  unfold Own.deletion
  split <;> rfl

theorem Own.deletion_prec (h : p.val < o.recs.length) : (o.deletion p).prec p = ⟨.deleting, (o.prec p).block⟩ := by
  unfold Own.prec
  rw [Own.deletion_recs]
  exact o.prec_updRec p _ h

theorem Own.deletion_prec_ne {q : Fin 8} (hq : q ≠ p) : (o.deletion p).prec q = o.prec q := by
  unfold Own.prec
  rw [Own.deletion_recs]
  exact o.prec_updRec_ne p q _ hq

/-- The semaphore of the partition is free. -/
theorem Own.deletion_sem_free (h : p.val + 1 < o.sems.length) : ((o.deletion p).sem (p.val + 1)).held = false := by
  unfold Own.deletion
  split
  next => exact congrArg Sem.held (o.sem_updSem (p.val + 1) _ h)
  next hfree => exact Bool.eq_false_iff.mpr hfree

theorem Own.deletion_sem_ne {n : Nat} (hn : n ≠ p.val + 1) : (o.deletion p).sem n = o.sem n := by
  unfold Own.deletion
  split
  · exact o.sem_updSem_ne _ n _ hn.symm
  · rfl

/-! ### Ownership once it is deleted -/

/-- The descriptors and records once the partition is gone, the world map following (R427, R443). -/
def Own.without (o : Own) (p : Fin 8) : Own :=
  ({ o with maps := (o.maps.set (2 * p.val) MapDesc.off).set (2 * p.val + 1) MapDesc.off }.updRec p fun _ => PartRec.none).remap

/-- The end of a deletion differs from that in the first map descriptor alone. -/
theorem deleteEnd_eq : deleteEnd o p = { o.without p with
    maps := if (o.without p).noPartition then (o.without p).maps.set 0 MapDesc.default else (o.without p).maps } := by
  unfold deleteEnd
  dsimp only
  by_cases h : (o.without p).noPartition
  · rw [if_pos h]
    exact if_pos h
  · rw [if_neg h]
    exact if_neg h

theorem deleteEnd_sems : (deleteEnd o p).sems = o.sems := by
  rw [deleteEnd_eq]
  rfl

theorem deleteEnd_recs : (deleteEnd o p).recs = (o.updRec p fun _ => PartRec.none).recs := by
  rw [deleteEnd_eq]
  rfl

theorem deleteEnd_prec (h : p.val < o.recs.length) : (deleteEnd o p).prec p = PartRec.none := by
  unfold Own.prec
  rw [deleteEnd_recs]
  exact o.prec_updRec p _ h

theorem deleteEnd_prec_ne {q : Fin 8} (hq : q ≠ p) : (deleteEnd o p).prec q = o.prec q := by
  unfold Own.prec
  rw [deleteEnd_recs]
  exact o.prec_updRec_ne p q _ hq

theorem deleteEnd_noPartition : (deleteEnd o p).noPartition = (o.without p).noPartition := by
  rw [deleteEnd_eq]
  rfl

theorem deleteEnd_worlds : (deleteEnd o p).worlds = (deleteEnd o p).buildWorlds := by
  rw [deleteEnd_eq]
  rfl

/-- The second descriptor of the partition is off: it is no DRM_MAP00. -/
theorem deleteEnd_storeMap (h : 2 * p.val + 1 < o.maps.length) : (deleteEnd o p).maps[2 * p.val + 1]? = some MapDesc.off := by
  have hoff : (o.without p).maps[2 * p.val + 1]? = some MapDesc.off := List.getElem?_set_self (by rwa [List.length_set])
  rw [deleteEnd_eq]
  dsimp only
  split
  · exact (List.getElem?_set_ne (by omega)).trans hoff
  · exact hoff

/-- With no partition left, DRM_MAP00 is over all of DRAM. -/
theorem deleteEnd_defaultMap (h : 0 < o.maps.length) (hnone : (deleteEnd o p).noPartition = true) :
    (deleteEnd o p).maps[0]? = some MapDesc.default := by
  have hlen : 0 < (o.without p).maps.length := by
    show 0 < ((o.maps.set _ _).set _ _).length
    rwa [List.length_set, List.length_set]
  rw [deleteEnd_noPartition] at hnone
  rw [deleteEnd_eq]
  dsimp only
  rw [if_pos hnone]
  exact List.getElem?_set_self hlen

end

/-! ### The rule -/

/-- A deletion that begins is kept in its partition, to be answered at its end. -/
theorem deleteStart_delete (o : Own) (b : Body) (p : Fin 8) (k : Ticket) (h : p.val < b.parts.length) :
    ((deleteStart o b p k).2.part p).delete = some k := by
  have hlen : p.val < (b.partitionReset o p).parts.length := by rwa [(b.apart_partitionReset o p).parts]
  unfold deleteStart
  dsimp only
  rw [(Body.answered_respondAll _ _ _ _).part]
  refine congrArg Part.delete (Body.part_updPart _ p _ ?_)
  show p.val < (ite _ _ _ : Body).parts.length
  split
  · rwa [Body.updPart_parts_length]
  · exact hlen

section
variable {x : Xnx} {o : Own} {b : Body} {p : Fin 8} (hx : x.arg0 = p.val)
include hx

theorem partDeleteAct_busy (hd : (o.prec p).phase = .deleting) : partDeleteAct x o b = .refused stBusy 0 := by
  unfold partDeleteAct
  rw [partArg_of hx]
  exact if_pos (beq_iff_eq.mpr hd)

variable (hd : (o.prec p).phase ≠ .deleting)
include hd

theorem partDeleteAct_absent (hp : o.present p = false) : partDeleteAct x o b = .refused stBounds 0 := by
  unfold partDeleteAct
  rw [partArg_of hx]
  exact (if_neg (mt beq_iff_eq.mp hd)).trans (if_pos (by rw [hp]; rfl))

theorem partDeleteAct_begins (hp : o.present p = true) :
    partDeleteAct x o b = .pending (o.deletion p) (deleteStart o b p (xTicket x)).2 := by
  unfold partDeleteAct
  rw [partArg_of hx]
  exact (if_neg (mt beq_iff_eq.mp hd)).trans (if_neg (by rw [hp]; decide))

end

/-! ### The commands -/

section
variable {s : State} {x : Xnx} {p : Fin 8} (h : s.takesModule x = true) (hlen : x.len = 0) (harg : x.arg0 = p.val)
include h hlen harg

theorem execPartDelete_eq {r : Xres} (hr : partDeleteAct x s.own (s.commandedWith 0x0502 x) = r) :
    exec (.partDelete x) s = .next (s.concluded 0x0502 x r) :=
  hr ▸ State.xnx_module h (partDeleteAct x) (by simp [hlen]) (by simp [harg])

theorem execPartDelete_begins (hd : (s.own.prec p).phase ≠ .deleting) (hp : s.own.present p = true) :
    exec (.partDelete x) s =
      .next (s.promise (s.own.deletion p) (deleteStart s.own (s.commandedWith 0x0502 x) p (xTicket x)).2 x) :=
  execPartDelete_eq h hlen harg (partDeleteAct_begins harg hd hp)

end

section
variable {s : State} {p : Fin 8} {k : Ticket} (hk : (s.body.part p).delete = some k)
include hk

/-- The end of a deletion waits on a tripped module, and once the steward has stopped (R227, R420). -/
theorem execPartDeleteComplete_waits (h : s.body.board.tripped = true ∨ s.body.stewardUp = false) :
    execPartDeleteComplete p s = .next s := by
  have hnot : ¬ ((s.own.prec p).phase = .deleting ∧ (!s.body.board.tripped) = true ∧ s.body.stewardUp = true) := by
    rintro ⟨-, htrip, hup⟩
    rcases h with h | h <;> simp_all
  unfold execPartDeleteComplete State.both State.always
  dsimp only
  rw [hk]
  dsimp only
  rw [if_neg hnot]
  exact ite_self _

theorem execPartDeleteComplete_ends (hd : (s.own.prec p).phase = .deleting) (htrip : s.body.board.tripped = false)
    (hup : s.body.stewardUp = true) : execPartDeleteComplete p s = .next { s with
      own := deleteEnd s.own p
      body := (s.body.updPart p fun _ => Part.reset).respond (deleteEnd s.own p) k stOk 0 [] } := by
  have hnow : (s.own.prec p).phase = .deleting ∧ (!s.body.board.tripped) = true ∧ s.body.stewardUp = true :=
    ⟨hd, by rw [htrip]; rfl, hup⟩
  unfold execPartDeleteComplete State.both State.always
  rw [if_pos (Body.clocked_of_stewardUp hup)]
  dsimp only
  rw [hk]
  dsimp only
  rw [if_pos hnow]

end

/-- Settles O24: each outcome of the command by the branch of its rule that it takes, and the completion by whether the deletion can end. -/
theorem partDelete : Obligations.PartDelete := by
  unfold Obligations.PartDelete
  refine ⟨fun s x p h hlen harg => ⟨fun hd => ?busy, fun hd hp => ?absent, fun hd hp hrecs hsems => ?begins⟩,
    fun s p k hk hd => ⟨execPartDeleteComplete_waits hk, fun htrip hup hrecs hmaps => ?ends⟩⟩
  case busy => exact execPartDelete_eq h hlen harg (partDeleteAct_busy harg hd)
  case absent => exact execPartDelete_eq h hlen harg (partDeleteAct_absent harg hd hp)
  case begins =>
    refine ⟨_, execPartDelete_begins h hlen harg hd hp, s.own.deletion_maps p, s.own.deletion_worlds p,
      s.own.deletion_prec p (by rw [hrecs]; exact p.isLt), fun q hq => s.own.deletion_prec_ne p hq, fun hparts => ?_,
      s.own.deletion_sem_free p (by omega), fun n hn => s.own.deletion_sem_ne p hn⟩
    exact (congrArg Part.delete ((Body.answered_respondPending _ _).part p)).trans
      (deleteStart_delete _ _ p _ (by rw [s.commandedWith_parts, hparts]; exact p.isLt))
  case ends =>
    exact ⟨_, execPartDeleteComplete_ends hk hd htrip hup, deleteEnd_sems _ p, deleteEnd_prec _ p (by rw [hrecs]; exact p.isLt),
      fun q hq => deleteEnd_prec_ne _ p hq, deleteEnd_worlds _ p, deleteEnd_storeMap _ p (by omega),
      deleteEnd_defaultMap _ p (by omega), rfl⟩

end Sys2Proof.Machine

/-! PROOFS. Stack tests, spare-row reports and row repair: the rule of each command, and what a repaired row leaves (R229, R230, R418; O25). -/

namespace Sys2Proof.Machine

open Sys2Proof

@[simp] theorem State.commandedWith_stks (s : State) (code : Nat) (x : Xnx) : (s.commandedWith code x).stks = s.body.stks := by
  rw [State.commandedWith_eq]
@[simp] theorem State.commandedWith_stack (s : State) (code : Nat) (x : Xnx) (st : Fin 24) :
    (s.commandedWith code x).stack st = s.body.stack st := by
  rw [State.commandedWith_eq]; rfl

/-! ### The rules -/

theorem finOf_val {n : Nat} (i : Fin n) : finOf n i.val = some i := dif_pos i.isLt

section
variable {x : Xnx} {o : Own} {st : Fin 24} (hx : x.arg0 = st.val)
include hx

theorem repairAct_busy (h : o.noPartition = false) (f : Fin 24 → Xres) : repairAct x o f = .refused stBusy 0 := by
  unfold repairAct
  rw [hx, finOf_val]
  exact if_pos (by rw [h]; rfl)

theorem repairAct_free (h : o.noPartition = true) (f : Fin 24 → Xres) : repairAct x o f = f st := by
  unfold repairAct
  rw [hx, finOf_val]
  exact if_neg (by rw [h]; decide)

end

theorem stkTestAct_bounds {x : Xnx} (o : Own) (b : Body) (h : 15 < xArg x 0 1) : stkTestAct x o b = .refused stBounds 0 := if_pos h

theorem stkTestAct_pattern {x : Xnx} (o : Own) (b : Body) (h : xArg x 0 1 ≤ 15) :
    stkTestAct x o b = repairAct x o fun st => .pending o (b.updStack st fun y => { y with tests := y.tests ++ [xTicket x] }) :=
  if_neg (Nat.not_lt.mpr h)

/-- A row's repair as PPR_SOFT keeps it. -/
def Body.softRepair (b : Body) (st : Fin 24) (loc : Nat) : Body :=
  (b.repairRow st loc).updStack st fun y => { y with softRows := y.softRows ++ [BitVec.ofNat 30 loc] }

/-- A row's repair as PPR_HARD keeps it, in the fault log and the flash log too (R230). -/
def Body.hardRepair (b : Body) (st : Fin 24) (loc : Nat) : Body :=
  ((b.repairRow st loc).updStack st fun y => { y with hardRows := y.hardRows ++ [BitVec.ofNat 30 loc] }).updBoard fun y =>
    { y with
      faultLog := y.faultLog ++ [(st, BitVec.ofNat 32 loc)]
      flash := { y.flash with log := y.flash.log ++ [(st, BitVec.ofNat 32 loc)] } }

/-- A repair's rule, over what the command makes of a row that has a spare. -/
def pprAct (fix : Body → Fin 24 → Nat → Body) (x : Xnx) (o : Own) (b : Body) : Xres :=
  if !locOk (xArg x 0 4) then .refused stBounds 0
  else repairAct x o fun st =>
    if (b.stack st).sparesLeft (locGroup (xArg x 0 4)) = 0 then .refused stBounds 0 else .done o (fix b st (xArg x 0 4)) stOk 0 []

theorem pprSoftAct_eq : pprSoftAct = pprAct Body.softRepair := rfl
theorem pprHardAct_eq : pprHardAct = pprAct Body.hardRepair := rfl

section
variable {x : Xnx} {o : Own} {b : Body} {st : Fin 24} (fix : Body → Fin 24 → Nat → Body)

theorem pprAct_nowhere (h : locOk (xArg x 0 4) = false) : pprAct fix x o b = .refused stBounds 0 := if_pos (by rw [h]; rfl)

theorem pprAct_somewhere (h : locOk (xArg x 0 4) = true) : pprAct fix x o b = repairAct x o fun st =>
    if (b.stack st).sparesLeft (locGroup (xArg x 0 4)) = 0 then .refused stBounds 0 else .done o (fix b st (xArg x 0 4)) stOk 0 [] :=
  if_neg (by rw [h]; decide)

variable (hx : x.arg0 = st.val)
include hx

theorem pprAct_busy (h : locOk (xArg x 0 4) = true) (hnone : o.noPartition = false) : pprAct fix x o b = .refused stBusy 0 := by
  rw [pprAct_somewhere fix h, repairAct_busy hx hnone]

variable (hnone : o.noPartition = true)
include hnone

theorem pprAct_bounds (h : locOk (xArg x 0 4) = false ∨ (b.stack st).sparesLeft (locGroup (xArg x 0 4)) = 0) :
    pprAct fix x o b = .refused stBounds 0 := by
  rcases Bool.eq_false_or_eq_true (locOk (xArg x 0 4)) with hloc | hloc
  · rw [pprAct_somewhere fix hloc, repairAct_free hx hnone]
    exact if_pos (h.resolve_left (by rw [hloc]; decide))
  · exact pprAct_nowhere fix hloc

theorem pprAct_repairs (h : locOk (xArg x 0 4) = true) (hspare : (b.stack st).sparesLeft (locGroup (xArg x 0 4)) ≠ 0) :
    pprAct fix x o b = .done o (fix b st (xArg x 0 4)) stOk 0 [] := by
  rw [pprAct_somewhere fix h, repairAct_free hx hnone]
  exact if_neg hspare

end

/-! ### A repaired row -/

/-- One more spare row of a bank group is used. -/
def Stack.spareTaken (y : Stack) (g : Nat) : Stack := { y with used := (g, y.usedIn g + 1) :: y.used.filter (·.1 != g) }

theorem Stack.usedIn_spareTaken (y : Stack) (g : Nat) : (y.spareTaken g).usedIn g = y.usedIn g + 1 := by
  simp [Stack.usedIn, Stack.spareTaken]

/-- The spare row that a repair takes is one of those left. -/
theorem Stack.sparesLeft_spareTaken {y : Stack} {g : Nat} (h : y.sparesLeft g ≠ 0) :
    (y.spareTaken g).sparesLeft g + 1 = y.sparesLeft g := by
  have htaken := y.usedIn_spareTaken g
  have hrows : (y.spareTaken g).spareRows = y.spareRows := rfl
  unfold Stack.sparesLeft at *
  omega

theorem length_flatMap_range (n : Nat) {k : Nat} {f : Nat → List Byte} (h : ∀ i, (f i).length = k) :
    ((List.range n).flatMap f).length = n * k := by
  simp [List.length_flatMap, h]

section
variable (b : Body) (st : Fin 24) (loc : Nat)

/-- The bytes that a repaired row holds, which are free. -/
def Body.rowBytes : List Byte := (List.range 256).flatMap fun i => leBytes 4 (Config.freeWord (b.free + i)).toNat

theorem Body.length_rowBytes : b.rowBytes.length = 1024 := length_flatMap_range 256 fun _ => leBytes_length 4 _

theorem Body.repairRow_eq : b.repairRow st loc = { b.updStack st (·.spareTaken (locGroup loc)) with
    mem := { b.mem with cells := putCells b.mem.cells (rowAddr st.val loc) b.rowBytes }
    free := b.free + 256 } := by
  unfold Body.repairRow Body.rowBytes
  dsimp only
  generalize (List.range 256).flatMap _ = l
  rfl

theorem Body.repairRow_stks : (b.repairRow st loc).stks = b.stks.modify st.val (·.spareTaken (locGroup loc)) :=
  congrArg Body.stks (b.repairRow_eq st loc)

theorem Body.repairRow_cells : (b.repairRow st loc).mem.cells = putCells b.mem.cells (rowAddr st.val loc) b.rowBytes := by
  rw [Body.repairRow_eq]

/-- The repair takes a spare row of its bank group, then the stack notes what row it was for. -/
theorem Body.stack_repairRow (f : Stack → Stack) (h : st.val < b.stks.length) :
    ((b.repairRow st loc).updStack st f).stack st = f ((b.stack st).spareTaken (locGroup loc)) := by
  have hstks := b.repairRow_stks st loc
  generalize b.repairRow st loc = t at hstks
  have hlen : st.val < t.stks.length := by rwa [hstks, length_modify_eq]
  rw [t.stack_updStack st f hlen]
  refine congrArg f ?_
  unfold Body.stack
  rw [hstks, getD_modify_self _ _ _ _ h]

/-- No byte outside the row is another (R230). -/
theorem Body.byte_repairRow {a : Nat} (h : ¬ (rowAddr st.val loc ≤ a ∧ a < rowAddr st.val loc + 1024)) :
    (b.repairRow st loc).mem.byte a = b.mem.byte a := by
  have hput := lookupCell_putCells b.mem.cells (rowAddr st.val loc) b.rowBytes a
  rw [b.length_rowBytes, if_neg h] at hput
  unfold Mem.byte
  rw [Body.repairRow_cells]
  exact hput

end

/-! ### The commands -/

section
variable {s : State} {x : Xnx} {st : Fin 24} (h : s.takesModule x = true) (harg : x.arg0 = st.val)
include h harg

theorem State.xnx_stack {code : Nat} {lenOk : Bool} {act : Own → Body → Xres} {r : Xres} (hlen : lenOk = true)
    (hr : act s.own (s.commandedWith code x) = r) :
    s.xnx code x .module lenOk (decide (x.arg0 < 24)) act = .next (s.concluded code x r) :=
  hr ▸ State.xnx_module h act hlen (by simp [harg])

theorem execPpr_eq {r r' : Xres} (hlen : x.len = 4) (hsoft : pprAct Body.softRepair x s.own (s.commandedWith 0x0604 x) = r)
    (hhard : pprAct Body.hardRepair x s.own (s.commandedWith 0x0605 x) = r') :
    exec (.pprSoft x) s = .next (s.concluded 0x0604 x r) ∧ exec (.pprHard x) s = .next (s.concluded 0x0605 x r') :=
  ⟨State.xnx_stack h harg (beq_iff_eq.mpr hlen) hsoft, State.xnx_stack h harg (beq_iff_eq.mpr hlen) hhard⟩

/-- While a partition exists nothing is tested, reported or repaired (R229). -/
theorem execStack_busy (hnone : s.own.noPartition = false) :
    (x.len = 0 → exec (.pprQuery x) s = .next (s.answer s.own (s.commanded 0x0602 x) x stBusy 0 []) ∧
      exec (.pprCand x) s = .next (s.answer s.own (s.commanded 0x0603 x) x stBusy 0 [])) ∧
    (x.len = 1 → xArg x 0 1 ≤ 15 → exec (.stkTest x) s = .next (s.answer s.own (s.commanded 0x0601 x) x stBusy 0 [])) ∧
    (x.len = 4 → locOk (xArg x 0 4) = true → exec (.pprSoft x) s = .next (s.answer s.own (s.commanded 0x0604 x) x stBusy 0 []) ∧
      exec (.pprHard x) s = .next (s.answer s.own (s.commanded 0x0605 x) x stBusy 0 [])) := by
  refine ⟨fun hlen => ⟨?query, ?cand⟩, fun hlen hpat => ?test, fun hlen hloc => ?repairs⟩
  case query => exact State.xnx_stack (act := pprQueryAct x) h harg (beq_iff_eq.mpr hlen) (repairAct_busy harg hnone _)
  case cand => exact State.xnx_stack (act := pprCandAct x) h harg (beq_iff_eq.mpr hlen) (repairAct_busy harg hnone _)
  case test =>
    exact State.xnx_stack h harg (beq_iff_eq.mpr hlen) ((stkTestAct_pattern _ _ hpat).trans (repairAct_busy harg hnone _))
  case repairs => exact execPpr_eq h harg hlen (pprAct_busy _ harg hloc hnone) (pprAct_busy _ harg hloc hnone)

variable (hnone : s.own.noPartition = true) (hlen : x.len = 4)
include hnone hlen

theorem execPpr_bounds (hno : locOk (xArg x 0 4) = false ∨ (s.body.stack st).sparesLeft (locGroup (xArg x 0 4)) = 0) :
    exec (.pprSoft x) s = .next (s.answer s.own (s.commanded 0x0604 x) x stBounds 0 []) ∧
      exec (.pprHard x) s = .next (s.answer s.own (s.commanded 0x0605 x) x stBounds 0 []) :=
  execPpr_eq h harg hlen (pprAct_bounds _ harg hnone (s.commandedWith_stack 0x0604 x st ▸ hno))
    (pprAct_bounds _ harg hnone (s.commandedWith_stack 0x0605 x st ▸ hno))

theorem execPpr_repairs (hloc : locOk (xArg x 0 4) = true) (hspare : (s.body.stack st).sparesLeft (locGroup (xArg x 0 4)) ≠ 0) :
    exec (.pprSoft x) s = .next (s.answer s.own ((s.commandedWith 0x0604 x).softRepair st (xArg x 0 4)) x stOk 0 []) ∧
      exec (.pprHard x) s = .next (s.answer s.own ((s.commandedWith 0x0605 x).hardRepair st (xArg x 0 4)) x stOk 0 []) :=
  execPpr_eq h harg hlen (pprAct_repairs _ harg hnone hloc (s.commandedWith_stack 0x0604 x st ▸ hspare))
    (pprAct_repairs _ harg hnone hloc (s.commandedWith_stack 0x0605 x st ▸ hspare))

end

/-- What the answered repair of a row leaves of its stack and of memory: fix is PPR_SOFT's or PPR_HARD's, note what the stack keeps. -/
theorem State.answered_repair (s : State) (code : Nat) (x : Xnx) (st : Fin 24) (loc : Nat) (note : Stack → Stack) (d : Body)
    (hfix : d.stks = (((s.commandedWith code x).repairRow st loc).updStack st note).stks)
    (hmem : d.mem = ((s.commandedWith code x).repairRow st loc).mem) (hst : s.body.stks.length = 24) :
    let t := s.answer s.own d x stOk 0 []
    t.body.stack st = note ((s.body.stack st).spareTaken (locGroup loc)) ∧ s.sameOutside t (rowAddr st.val loc) 1024 := by
  refine ⟨?_, fun a ha => ?_⟩
  · have hlen : st.val < (s.commandedWith code x).stks.length := by rw [s.commandedWith_stks, hst]; exact st.isLt
    have hstack := (s.commandedWith code x).stack_repairRow st loc note hlen
    rw [s.commandedWith_stack] at hstack
    refine Eq.trans ?_ hstack
    unfold Body.stack
    rw [← hfix]
    exact congrArg (fun l => List.getD l st.val Stack.reset) (Body.respond_stacks s.own d (xTicket x) stOk 0 [])
  · have hm : (s.answer s.own d x stOk 0 []).body.mem = ((s.commandedWith code x).repairRow st loc).mem :=
      (Body.respond_mem s.own d (xTicket x) stOk 0 []).trans hmem
    rw [hm, Body.byte_repairRow _ st loc ha, s.commandedWith_byte]

/-! ### The end of a test -/

section
variable {s : State} {st : Fin 24} (pass : Bool) (fails loc : W32)

theorem execStkTestComplete_waits (h : s.body.stewardUp = false) : execStkTestComplete st pass fails loc s = .next s := by
  refine State.onBody_same ?_
  split
  · exact if_pos (by rw [h]; rfl)
  · rfl

theorem execStkTestComplete_ends {k : Ticket} {rest : List Ticket} (hk : (s.body.stack st).tests = k :: rest)
    (h : s.body.stewardUp = true) : execStkTestComplete st pass fails loc s = .next { s with
      body := (s.body.updStack st fun y => { y with tests := rest }).respond s.own k stOk 0
        ([if pass then 1 else 0, 0, 0, 0] ++ leBytes 4 fails.toNat ++ leBytes 4 loc.toNat) } := by
  refine State.onBody_eq (Body.clocked_of_stewardUp h) ?_
  rw [hk]
  exact if_neg (by rw [h]; decide)

end

/-- Settles O25: each outcome by the rule of its command, and a repaired row by what it leaves of its stack and of memory. -/
theorem stackRepair : Obligations.StackRepair := by
  unfold Obligations.StackRepair
  refine ⟨fun s x st h harg => ⟨execStack_busy h harg, fun hlen hpat => ?pattern, fun hnone => ⟨fun hlen => ?query, fun hlen => ?cand,
    fun hlen hpat => ?test, execPpr_bounds h harg hnone, fun hlen hloc hspare hst => ⟨?soft, ?hard⟩⟩⟩,
    fun s st k rest pass fails loc hk =>
      ⟨execStkTestComplete_waits pass fails loc, execStkTestComplete_ends pass fails loc hk⟩⟩
  case pattern => exact State.xnx_stack h harg (beq_iff_eq.mpr hlen) (stkTestAct_bounds _ _ hpat)
  case query =>
    refine State.xnx_stack (code := 0x0602) (act := pprQueryAct x) h harg (beq_iff_eq.mpr hlen) ((repairAct_free harg hnone _).trans (congrArg _ ?_))
    rw [s.commandedWith_stack]
  case cand =>
    refine State.xnx_stack (code := 0x0603) (act := pprCandAct x) h harg (beq_iff_eq.mpr hlen) ((repairAct_free harg hnone _).trans (congrArg _ ?_))
    rw [s.commandedWith_stack]
  case test => exact State.xnx_stack h harg (beq_iff_eq.mpr hlen) ((stkTestAct_pattern _ _ hpat).trans (repairAct_free harg hnone _))
  case soft =>
    obtain ⟨hstack, hout⟩ := s.answered_repair 0x0604 x st (xArg x 0 4) _ (Body.softRepair _ st (xArg x 0 4)) rfl rfl hst
    refine ⟨_, (execPpr_repairs h harg hnone hlen hloc hspare).1, rfl, ?_, hout, ?_, congrArg Stack.softRows hstack⟩
    · exact (Body.respond_board _ _ _ _ _ _).trans (s.commandedWith_board 0x0604 x)
    · exact (congrArg (fun y : Stack => y.sparesLeft _ + 1) hstack).trans (Stack.sparesLeft_spareTaken hspare)
  case hard =>
    obtain ⟨hstack, hout⟩ := s.answered_repair 0x0605 x st (xArg x 0 4) _ (Body.hardRepair _ st (xArg x 0 4)) rfl rfl hst
    have hboard := (Body.respond_board s.own ((s.commandedWith 0x0605 x).hardRepair st (xArg x 0 4)) (xTicket x) stOk 0 []).trans
      (congrArg (fun y : Board => { y with
        faultLog := y.faultLog ++ [(st, BitVec.ofNat 32 (xArg x 0 4))]
        flash := { y.flash with log := y.flash.log ++ [(st, BitVec.ofNat 32 (xArg x 0 4))] } }) (s.commandedWith_board 0x0605 x))
    refine ⟨_, (execPpr_repairs h harg hnone hlen hloc hspare).2, rfl, hout, ?_, congrArg Stack.hardRows hstack,
      congrArg Board.faultLog hboard, congrArg (fun y : Board => y.flash.log) hboard⟩
    exact (congrArg (fun y : Stack => y.sparesLeft _ + 1) hstack).trans (Stack.sparesLeft_spareTaken hspare)

end Sys2Proof.Machine

/-! PROOFS. The thermal ladder: readings, steps at a reading, steps that take their time, and the trip (R26, R225, R227, R228, R324; O34). -/

namespace Sys2Proof.Machine

open Sys2Proof

/-! ### Changes of a stack -/

/-- A change of a stack, as the change to a known stack. -/
theorem Body.updStack_eq_const (b : Body) (st : Fin 24) (f : Stack → Stack) : b.updStack st f = b.updStack st fun _ => f (b.stack st) := by
  have hlist : b.stks.modify st.val f = b.stks.modify st.val fun _ => f (b.stack st) := by
    apply List.ext_getElem?
    intro i
    rw [List.getElem?_modify, List.getElem?_modify]
    by_cases hi : st.val = i
    · subst hi
      rcases hget : b.stks[st.val]? with _ | y
      · rfl
      · have hy : b.stack st = y := by rw [Body.stack, List.getD_eq_getElem?_getD, hget, Option.getD_some]
        simp [hy]
    · simp [hi]
  exact congrArg (fun l => ({ b with stks := l } : Body)) hlist

/-- A change that makes of a stack what it is leaves the module as it is. -/
theorem Body.updStack_same {b : Body} {st : Fin 24} {f : Stack → Stack} (h : f (b.stack st) = b.stack st) : b.updStack st f = b := by
  rw [b.updStack_eq_const st f, h, ← b.updStack_eq_const st fun x => x]
  exact congrArg (fun l => ({ b with stks := l } : Body)) (List.modify_id _ _)

section
variable {s : State} {st : Fin 24} {f : Stack → Stack}

/-- A command that changes one stack. -/
theorem State.onStack_eq (g : Own → Body → Body) (hg : g s.own s.body = s.body.updStack st f) {y : Stack} (hcl : s.body.clocked = true)
    (hf : f (s.body.stack st) = y) : s.onBody g = .next { s with body := s.body.updStack st fun _ => y } := by
  rw [State.onBody_clocked g hcl, hg, s.body.updStack_eq_const st f, hf]

/-- A command that makes of a stack what it is. -/
theorem State.onStack_same (g : Own → Body → Body) (hg : g s.own s.body = s.body.updStack st f)
    (hf : f (s.body.stack st) = s.body.stack st) : s.onBody g = .next s :=
  State.onBody_same (hg.trans (Body.updStack_same hf))

end

/-! ### Steps that take their time (R225, R228) -/

section
variable {s : State} (st : Fin 24)

theorem execThermalCapLower_lowers {c : Nat} (hcl : s.body.clocked = true) (hc : (s.body.stack st).cap = some c)
    (h : (s.body.stack st).sensor = true ∨ (11 ≤ (s.body.stack st).above92 ∧ 10 ≤ (s.body.stack st).sinceCap)) :
    execThermalCapLower st s = .next { s with body := s.body.updStack st fun _ =>
      { s.body.stack st with cap := some (max 10 (c - 1)), sinceCap := 0 } } := by
  refine State.onStack_eq _ rfl hcl ?_
  rw [hc]
  exact if_pos h

theorem execThermalCapLower_leaves (h : (s.body.stack st).cap = none ∨
    ¬ ((s.body.stack st).sensor = true ∨ (11 ≤ (s.body.stack st).above92 ∧ 10 ≤ (s.body.stack st).sinceCap))) :
    execThermalCapLower st s = .next s := by
  refine State.onStack_same _ rfl ?_
  split
  next c hc => exact if_neg (h.resolve_left (by rw [hc]; exact Option.some_ne_none c))
  next => rfl

/-- The traffic limit is halved while it is above 12.5 %. -/
theorem limit_lt_three (n : BitVec 2) : n.toNat < 3 ↔ n ≠ 3 := by decide +revert

theorem execTrafficLimitHalve_halves (hcl : s.body.clocked = true) (h : (s.body.stack st).limit ≠ 0 ∧ (s.body.stack st).limit ≠ 3 ∧
    ((s.body.stack st).sensor = true ∨ (11 ≤ (s.body.stack st).above95 ∧ 10 ≤ (s.body.stack st).sinceLim))) :
    execTrafficLimitHalve st s = .next { s with body := s.body.updStack st fun _ =>
      { s.body.stack st with limit := (s.body.stack st).limit + 1, sinceLim := 0 } } := by
  obtain ⟨hon, hlast, hlong⟩ := h
  refine State.onStack_eq _ rfl hcl ?_
  exact if_pos ⟨hon, (limit_lt_three _).mpr hlast, hlong⟩

theorem execTrafficLimitHalve_leaves (h : ¬ ((s.body.stack st).limit ≠ 0 ∧ (s.body.stack st).limit ≠ 3 ∧
    ((s.body.stack st).sensor = true ∨ (11 ≤ (s.body.stack st).above95 ∧ 10 ≤ (s.body.stack st).sinceLim)))) :
    execTrafficLimitHalve st s = .next s := by
  refine State.onStack_same _ rfl (if_neg ?_)
  rwa [limit_lt_three]

theorem execRefreshRateRelease_releases (hcl : s.body.clocked = true)
    (h : 101 ≤ (s.body.stack st).below83 ∧ s.body.board.tripped = false) : execRefreshRateRelease st s =
      .next { s with body := s.body.updStack st fun _ => { s.body.stack st with doubled := false } } := by
  refine State.onStack_eq _ rfl hcl ?_
  exact if_pos ⟨h.1, by rw [h.2]; rfl⟩

theorem execRefreshRateRelease_leaves (h : ¬ (101 ≤ (s.body.stack st).below83 ∧ s.body.board.tripped = false)) :
    execRefreshRateRelease st s = .next s :=
  State.onStack_same _ rfl (if_neg fun k => h ⟨k.1, by simpa using k.2⟩)

theorem execThermalCapRise_rises {c : Nat} (hcl : s.body.clocked = true) (hc : (s.body.stack st).cap = some c)
    (hlong : 101 ≤ (s.body.stack st).below90) (hsince : 10 ≤ (s.body.stack st).sinceCap) :
    execThermalCapRise st s = .next { s with body := s.body.noteCauses.updStack st fun _ => { s.body.stack st with
      cap := if s.body.board.ceil.toNat ≤ c + 1 then none else some (c + 1), sinceCap := 0 } } := by
  have hstack : s.body.noteCauses.stack st = s.body.stack st := rfl
  refine (State.onBody_clocked _ hcl).trans ?_
  dsimp only
  rw [Body.updStack_eq_const, hstack, hc]
  dsimp only
  rw [if_pos ⟨hlong, hsince⟩]
  rfl

end

/-! ### Signals leave the stacks -/

theorem Body.fired_noteModule (b old : Body) : b.fired (b.noteModule old) := by
  unfold Body.noteModule
  split
  · rfl
  · have h := b.fired_fire .a 0
    have k := (b.fire .a 0).fired_fire .b 0
    unfold Body.fired at *
    rw [k, h]

section
variable {b t : Body} (h : b.fired t)
include h

theorem Body.fired.stack (st : Fin 24) : t.stack st = b.stack st := by rw [h]; rfl
theorem Body.fired.stks : t.stks = b.stks := by rw [h]
theorem Body.fired.cores : t.cores = b.cores := by rw [h]
theorem Body.fired.mem : t.mem = b.mem := by rw [h]
theorem Body.fired.parts : t.parts = b.parts := by rw [h]
theorem Body.fired.board : t.board = b.board := by rw [h]

end

/-- The limit released by one step (R225): the stack alone, and what it signals. -/
theorem execTrafficLimitRelease_releases {s : State} (st : Fin 24) (hcl : s.body.clocked = true) (hon : (s.body.stack st).limit ≠ 0)
    (hlong : 101 ≤ (s.body.stack st).below93) (hsince : 10 ≤ (s.body.stack st).sinceLim) (hst : s.body.stks.length = 24) :
    ∃ t, execTrafficLimitRelease st s = .next t ∧ t.own = s.own ∧ (t.body.stack st).limit = (s.body.stack st).limit - 1 ∧
      (∀ st', st' ≠ st → t.body.stack st' = s.body.stack st') ∧ t.body.mem = s.body.mem ∧ t.body.parts = s.body.parts := by
  let b := s.body.updStack st fun x =>
    if x.limit ≠ 0 ∧ x.below93 ≥ 101 ∧ x.sinceLim ≥ 10 then { x with limit := x.limit - 1, sinceLim := 0 } else x
  have hfire := b.fired_noteModule s.body
  refine ⟨_, State.onBody_clocked _ hcl, rfl, ?_, fun st' hne => (hfire.stack st').trans (Body.stack_updStack_ne _ _ _ _ hne), hfire.mem,
    hfire.parts⟩
  refine (congrArg Stack.limit (hfire.stack st)).trans ?_
  rw [Body.stack_updStack _ _ _ (by rw [hst]; exact st.isLt), if_pos ⟨hon, hlong, hsince⟩]

/-! ### Steps at a reading (R225, R231) -/

section
variable (x : Stack) (t under : Nat)

theorem Stack.ladder_doubled : (x.ladder t under).doubled = (decide (85 ≤ t) || x.doubled) := by
  unfold Stack.ladder
  grind

theorem Stack.ladder_cap : (x.ladder t under).cap = if 92 ≤ t ∧ x.cap = none then some (max 10 (under - 1)) else x.cap := by
  unfold Stack.ladder clkFloor
  grind

theorem Stack.ladder_limit : (x.ladder t under).limit = if 95 ≤ t ∧ x.limit = 0 then 1 else x.limit := by
  unfold Stack.ladder
  grind

theorem Stack.ladder_readings : (x.ladder t under).temp = x.temp ∧ (x.ladder t under).samples = x.samples ∧
    (x.ladder t under).maxT = x.maxT ∧ (x.ladder t under).valid = x.valid := by
  unfold Stack.ladder
  grind

end

theorem Body.phase_of_clocked {b : Body} (h : b.clocked = true) : b.board.phase ≠ .off := by
  simp only [Body.clocked, Bool.and_eq_true, bne_iff_ne, ne_eq] at h
  exact h.2

/-- A reading taken, with the steps that it takes at once and what it signals. -/
def Body.read (b : Body) (st : Fin 24) (t : Nat) : Body :=
  (b.updStack st fun x => (x.reading t).ladder t (b.clockUnder st.val)).noteModule b

section
variable (b : Body) (st : Fin 24) (t : Nat)

theorem Body.read_fired : (b.updStack st fun x => (x.reading t).ladder t (b.clockUnder st.val)).fired (b.read st t) :=
  Body.fired_noteModule _ _

theorem Body.stack_read (h : b.stks.length = 24) : (b.read st t).stack st = ((b.stack st).reading t).ladder t (b.clockUnder st.val) :=
  ((b.read_fired st t).stack st).trans (Body.stack_updStack _ _ _ (by rw [h]; exact st.isLt))

theorem Body.stack_read_ne {st' : Fin 24} (h : st' ≠ st) : (b.read st t).stack st' = b.stack st' :=
  ((b.read_fired st t).stack st').trans (Body.stack_updStack_ne _ _ _ _ h)

end

theorem execStackTempSample_eq {s : State} (st : Fin 24) (t : Nat) (hcl : s.body.clocked = true) : execStackTempSample st t s =
    .next { s with body := if t ≥ 100 then (s.body.read st t).trip s.own (2, st.val) else s.body.read st t } := by
  refine (State.onBody_clocked _ hcl).trans ?_
  rw [if_neg (Body.phase_of_clocked hcl)]
  rfl

/-- The largest reading so far. -/
theorem Stack.maxT_reading (x : Stack) {t : Nat} (h : t < 100) : (x.reading t).maxT.toNat = max x.maxT.toNat t := by
  have hm : (x.reading t).maxT = BitVec.ofNat 8 (max x.maxT.toNat (min t 255)) := rfl
  have hx := x.maxT.isLt
  rw [hm, BitVec.toNat_ofNat, Nat.min_eq_left (by omega)]
  exact Nat.mod_eq_of_lt (by omega)

/-- A reading below the trip. -/
theorem execStackTempSample_reads {s : State} (st : Fin 24) (t : Nat) (hcl : s.body.clocked = true) (ht : t < 100)
    (hst : s.body.stks.length = 24) :
    ∃ u, exec (.stackTempSample st t) s = .next u ∧ u.own = s.own ∧
      (u.body.stack st).temp = BitVec.ofNat 8 t ∧ (u.body.stack st).samples = (s.body.stack st).samples + 1 ∧
      (u.body.stack st).maxT.toNat = max (s.body.stack st).maxT.toNat t ∧ (u.body.stack st).valid = true ∧
      (u.body.stack st).doubled = (decide (85 ≤ t) || (s.body.stack st).doubled) ∧
      (u.body.stack st).cap = (if 92 ≤ t ∧ (s.body.stack st).cap = none then some (max 10 (s.body.clockUnder st.val - 1))
        else (s.body.stack st).cap) ∧
      (u.body.stack st).limit = (if 95 ≤ t ∧ (s.body.stack st).limit = 0 then 1 else (s.body.stack st).limit) ∧
      (∀ st', st' ≠ st → u.body.stack st' = s.body.stack st') ∧ u.body.cores = s.body.cores ∧ u.body.mem = s.body.mem ∧
      u.body.parts = s.body.parts := by
  have hexec := execStackTempSample_eq st t hcl
  rw [if_neg (Nat.not_le.mpr ht)] at hexec
  have hfire := s.body.read_fired st t
  have hstack := s.body.stack_read st t hst
  obtain ⟨htemp, hsamples, hmax, hvalid⟩ := ((s.body.stack st).reading t).ladder_readings t (s.body.clockUnder st.val)
  refine ⟨_, hexec, rfl, ?_⟩
  rw [hstack]
  exact ⟨htemp, hsamples, (congrArg BitVec.toNat hmax).trans (Stack.maxT_reading _ ht), hvalid, Stack.ladder_doubled _ _ _,
    Stack.ladder_cap _ _ _, Stack.ladder_limit _ _ _, fun st' hne => s.body.stack_read_ne st t hne, hfire.cores, hfire.mem, hfire.parts⟩

/-! ### The trip (R227) -/

/-- The module as a trip leaves it, before the partitions are told. -/
def Body.stopped (b : Body) : Body :=
  { b with
    board := { b.board with tripped := true }
    cores := b.cores.map fun (k : Core) => { k with clk := 0, relock := false }
    stks := b.stks.map fun (x : Stack) => { x with doubled := true } }

theorem Body.logged_trans {b t u : Body} (h : b.logged t) (k : t.logged u) : b.logged u := by
  obtain ⟨h1, h2, h3, h4, h5, h6, h7, h8, h9, h10, h11⟩ := h
  obtain ⟨k1, k2, k3, k4, k5, k6, k7, k8, k9, k10, k11⟩ := k
  exact ⟨k1.trans h1, k2.trans h2, k3.trans h3, k4.trans h4, k5.trans h5, k6.trans h6, k7.trans h7, k8.trans h8, k9.trans (by rw [h9]),
    k10.trans h10, k11.trans h11⟩

theorem Body.logged_faultAll (o : Own) (b : Body) (status : W16) (src : Nat × Nat) : b.logged (b.faultAll o status src) :=
  List.foldlRecOn (motive := b.logged) _ _ b.logged_refl fun t ht p _ => Body.logged_trans ht (t.logged_appendEvent o p _)

/-- A trip of a module that is not tripped yet: clocks and refresh, the junction reading and memory as they were (R227). -/
theorem Body.trip_spec (o : Own) {b : Body} (src : Nat × Nat) (h : b.board.tripped = false) :
    (b.trip o src).board.tripped = true ∧ (b.trip o src).board.junction = b.board.junction ∧ (∀ c ∈ (b.trip o src).cores, c.clk = 0) ∧
      (∀ x ∈ (b.trip o src).stks, x.doubled = true) ∧ (b.trip o src).mem = b.mem := by
  have htrip : b.trip o src = (b.stopped.faultAll o ftThermal src).noteModule b := if_neg (by rw [h]; decide)
  have hfire := (b.stopped.faultAll o ftThermal src).fired_noteModule b
  obtain ⟨-, hcores, -, hstks, -, hmem, -, -, hboard, -⟩ := b.stopped.logged_faultAll o ftThermal src
  rw [htrip, hfire.board, hfire.cores, hfire.stks, hfire.mem, hboard, hcores, hstks, hmem]
  refine ⟨rfl, rfl, fun c hc => ?_, fun x hx => ?_, rfl⟩
  · obtain ⟨k, -, rfl⟩ := List.mem_map.mp hc
    rfl
  · obtain ⟨y, -, rfl⟩ := List.mem_map.mp hx
    rfl

theorem execStackSensorTimeout_eq {s : State} (st : Fin 24) (hcl : s.body.clocked = true) : execStackSensorTimeout st s =
    .next { s with body := if (s.body.stack st).sensor then s.body.trip s.own (2, st.val) else s.body } := State.onBody_clocked _ hcl

/-- The junction's reading kept. -/
def Body.junctionRead (b : Body) (t : Nat) : Body := b.updBoard fun x => { x with junction := t }

theorem execJunctionTrip_eq {s : State} (j : Junction) (t : Nat) (hcl : s.body.clocked = true) : execJunctionTrip j t s =
    .next { s with body := if t ≥ 105 then (s.body.junctionRead t).trip s.own (junctionSrc j) else s.body.junctionRead t } := by
  refine (State.onBody_clocked _ hcl).trans ?_
  simp only [Body.phase_of_clocked hcl, ne_eq, not_false_eq_true, and_true]
  rfl

section
variable {s : State} (hcl : s.body.clocked = true) (htrip : s.body.board.tripped = false)
include hcl htrip

theorem execStackTempSample_trips (st : Fin 24) (t : Nat) (ht : 100 ≤ t) :
    ∃ u, exec (.stackTempSample st t) s = .next u ∧ u.own = s.own ∧ u.body.board.tripped = true ∧ (∀ c ∈ u.body.cores, c.clk = 0) ∧
      (∀ x ∈ u.body.stks, x.doubled = true) ∧ u.body.mem = s.body.mem := by
  have hexec := execStackTempSample_eq st t hcl
  rw [if_pos ht] at hexec
  have hfire := s.body.read_fired st t
  obtain ⟨hon, -, hclk, hdbl, hmem⟩ := Body.trip_spec s.own (2, st.val) ((congrArg Board.tripped hfire.board).trans htrip)
  exact ⟨_, hexec, rfl, hon, hclk, hdbl, hmem.trans hfire.mem⟩

theorem execStackSensorTimeout_trips (st : Fin 24) (h : (s.body.stack st).sensor = true) :
    ∃ u, exec (.stackSensorTimeout st) s = .next u ∧ u.own = s.own ∧ u.body.board.tripped = true ∧ (∀ c ∈ u.body.cores, c.clk = 0) ∧
      (∀ x ∈ u.body.stks, x.doubled = true) ∧ u.body.mem = s.body.mem := by
  have hexec := execStackSensorTimeout_eq st hcl
  rw [if_pos h] at hexec
  obtain ⟨hon, -, hclk, hdbl, hmem⟩ := Body.trip_spec s.own (2, st.val) htrip
  exact ⟨_, hexec, rfl, hon, hclk, hdbl, hmem⟩

theorem execJunctionTrip_trips (j : Junction) (t : Nat) (ht : 105 ≤ t) :
    ∃ u, exec (.junctionTrip j t) s = .next u ∧ u.own = s.own ∧ u.body.board.junction = t ∧ u.body.board.tripped = true ∧
      (∀ c ∈ u.body.cores, c.clk = 0) ∧ u.body.mem = s.body.mem := by
  have hexec := execJunctionTrip_eq j t hcl
  rw [if_pos ht] at hexec
  obtain ⟨hon, hj, hclk, -, hmem⟩ := Body.trip_spec (b := s.body.junctionRead t) s.own (junctionSrc j) htrip
  exact ⟨_, hexec, rfl, hj, hon, hclk, hmem⟩

end

theorem execStackSensorTimeout_leaves {s : State} (st : Fin 24) (h : (s.body.stack st).sensor = false) :
    execStackSensorTimeout st s = .next s :=
  State.onBody_same (if_neg (by rw [h]; decide))

theorem execJunctionTrip_keeps {s : State} (j : Junction) {t : Nat} (hcl : s.body.clocked = true) (ht : t < 105) :
    execJunctionTrip j t s = .next (s.onBoard fun b => { b with junction := t }) :=
  (execJunctionTrip_eq j t hcl).trans (by rw [if_neg (Nat.not_le.mpr ht)]; rfl)

/-! ### Sensor faults (R228) -/

/-- A stack whose sensor has failed: the steps of 95 degrees, and no valid reading. -/
def Stack.failed (x : Stack) (under : Nat) : Stack :=
  { (x.ladder 95 under) with valid := false, sensor := true, below83 := 0, below90 := 0, below93 := 0 }

theorem Stack.failed_steps (x : Stack) (under : Nat) :
    (x.failed under).doubled = true ∧ (x.failed under).cap.isSome = true ∧ (x.failed under).limit ≠ 0 := by
  have hcap := x.ladder_cap 95 under
  have hlim := x.ladder_limit 95 under
  refine ⟨x.ladder_doubled 95 under, ?_, ?_⟩
  · refine (congrArg Option.isSome hcap).trans ?_
    cases x.cap <;> rfl
  · intro h
    have hzero := hlim.symm.trans h
    split at hzero
    next => exact absurd hzero (by decide)
    next hx => exact hx ⟨by decide, hzero⟩

theorem execStackSensorFault_eq {s : State} (st : Fin 24) (hcl : s.body.clocked = true) : execStackSensorFault st s =
    .next { s with body := (s.body.updStack st (·.failed (s.body.clockUnder st.val))).noteModule s.body } := by
  refine (State.onBody_clocked _ hcl).trans ?_
  rw [if_neg (Body.phase_of_clocked hcl)]
  rfl

theorem execStackSensorFault_marks {s : State} (st : Fin 24) (hcl : s.body.clocked = true) (hst : s.body.stks.length = 24) :
    ∃ u, exec (.stackSensorFault st) s = .next u ∧ u.own = s.own ∧ (u.body.stack st).valid = false ∧
      (u.body.stack st).sensor = true ∧ (u.body.stack st).doubled = true ∧ (u.body.stack st).cap.isSome = true ∧
      (u.body.stack st).limit ≠ 0 ∧ (∀ st', st' ≠ st → u.body.stack st' = s.body.stack st') ∧ u.body.mem = s.body.mem := by
  have hfire := (s.body.updStack st (·.failed (s.body.clockUnder st.val))).fired_noteModule s.body
  have hstack := (hfire.stack st).trans (Body.stack_updStack s.body st _ (by rw [hst]; exact st.isLt))
  obtain ⟨hdbl, hcap, hlim⟩ := (s.body.stack st).failed_steps (s.body.clockUnder st.val)
  refine ⟨_, execStackSensorFault_eq st hcl, rfl, ?_⟩
  rw [hstack]
  exact ⟨rfl, rfl, hdbl, hcap, hlim, fun st' hne => (hfire.stack st').trans (Body.stack_updStack_ne _ _ _ _ hne), hfire.mem⟩

/-- Settles O34: each step of the ladder by its condition, a reading by the steps it takes at once, the trip by what it stops. -/
theorem thermal : Obligations.Thermal := by
  unfold Obligations.Thermal
  refine ⟨fun s st t hcl ht hst => execStackTempSample_reads st t hcl ht hst, fun s st hcl => ⟨fun c hc => ?lowers, ?keepsCap,
    execTrafficLimitHalve_halves st hcl, execTrafficLimitHalve_leaves st, execRefreshRateRelease_releases st hcl,
    execRefreshRateRelease_leaves st, fun c hc => execThermalCapRise_rises st hcl hc,
    execTrafficLimitRelease_releases st hcl⟩, fun s hcl htrip hst => ⟨execStackTempSample_trips hcl htrip,
    execStackSensorTimeout_trips hcl htrip, execJunctionTrip_trips hcl htrip, execStackSensorTimeout_leaves,
    fun j t => execJunctionTrip_keeps j hcl, fun st => execStackSensorFault_marks st hcl hst⟩⟩
  case lowers => exact execThermalCapLower_lowers st hcl hc
  case keepsCap => exact execThermalCapLower_leaves st

end Sys2Proof.Machine

/-! PROOFS. NETWORK_READ and NETWORK_WRITE, outside DRAM and at a controller that serves a request as it arrives (R18, R19, R119, R217, R227;
O37). -/

namespace Sys2Proof.Machine

open Sys2Proof

/-! ### A controller that has nothing to do -/

/-- Nothing waits, is queued, or is under way at a pseudo-channel. -/
structure PcQueues.Idle (q : PcQueues) : Prop where
  waiting    : q.waiting = []
  writes     : q.writes = []
  batch      : q.batch = 0
  refreshing : q.refreshing = none

theorem PcQueues.Idle.arrived {q : PcQueues} (h : q.Idle) (r : DReq) : (q.arrived r).Idle :=
  ⟨h.waiting, h.writes, by simp [PcQueues.arrived, h.batch], h.refreshing⟩

/-- A request that finds a pseudo-channel idle is ready (R217, R222). -/
theorem PcQueues.Idle.ready {q : PcQueues} (h : q.Idle) (maps : List MapDesc) (r : DReq) : q.ready maps r = true := by
  cases hd : r.data with
  | none => exact PcQueues.ready_read hd h.refreshing (Or.inr (Or.inr h.batch))
  | some d => exact (PcQueues.ready_write hd).trans (by rw [h.writes]; rfl)

theorem PcQueues.Idle.forwards {q : PcQueues} (h : q.Idle) (r : DReq) : q.forwards r = false := by
  unfold PcQueues.forwards
  rw [h.writes]
  exact Bool.and_false _

/-- A controller serves a request as it arrives where the module is not tripped, traffic is admitted and the pseudo-channel is idle. -/
theorem Body.servesAt_iff {b : Body} {l : DramLoc} : b.servesAt l = true ↔
    b.board.tripped = false ∧ (b.stks.getD l.stack Stack.reset).admits = true ∧ (b.pcAt l).Idle := by
  unfold Body.servesAt Body.pcAt
  simp only [Bool.and_eq_true, Bool.not_eq_true', beq_iff_eq, Option.isNone_iff_eq_none]
  constructor
  · rintro ⟨⟨⟨⟨⟨ht, ha⟩, hw⟩, hq⟩, hb⟩, hr⟩
    exact ⟨ht, ha, hw, hq, hb, hr⟩
  · rintro ⟨ht, ha, hw, hq, hb, hr⟩
    exact ⟨⟨⟨⟨⟨ht, ha⟩, hw⟩, hq⟩, hb⟩, hr⟩

/-- An update of a stack that is not there changes nothing. -/
theorem Body.updPcAt_absent {b : Body} {l : DramLoc} (f : PcQueues → PcQueues) (h : ¬ l.stack < b.stks.length) : b.updPcAt l f = b :=
  congrArg (fun k => ({ b with stks := k } : Body)) (List.modify_eq_self (Nat.le_of_not_lt h))

/-- It serves it as well when it has counted an arrival. -/
theorem Body.servesAt_arrived {b : Body} {l : DramLoc} (r : DReq) (h : b.servesAt l = true) :
    (b.updPcAt l (·.arrived r)).servesAt l = true := by
  by_cases hs : l.stack < b.stks.length
  · obtain ⟨ht, ha, hidle⟩ := Body.servesAt_iff.mp h
    have hpc : (b.updPcAt l (·.arrived r)).pcAt l = (b.pcAt l).arrived r := Body.pcAt_updPcAt hs _ rfl
    exact Body.servesAt_iff.mpr ⟨ht, (Body.getD_updPcAt_admits _ hs).trans ha, hpc ▸ hidle.arrived r⟩
  · rwa [Body.updPcAt_absent _ hs]

/-- A request that arrives where it is served at once. -/
theorem arrive_served {o : Own} {b : Body} {l : DramLoc} (r : DReq) (h : b.servesAt l = true) :
    arrive o b l r = serve o (b.updPcAt l (·.arrived r)) l (r.stamped (b.pcAt l).arrivals) := by
  obtain ⟨-, ha, hidle⟩ := Body.servesAt_iff.mp (Body.servesAt_arrived r h)
  rw [arrive_untripped (Body.servesAt_iff.mp h).1, if_pos ⟨hidle.waiting, Or.inr ⟨ha, hidle.ready _ _⟩⟩]

/-! ### Serving -/

theorem Body.memoryAlone_updPcAt (b : Body) (l : DramLoc) (f : PcQueues → PcQueues) : b.memoryAlone (b.updPcAt l f) := rfl

/-- Where no write is queued, an LC read goes ahead of none (R217). -/
theorem serveLc_idle {o : Own} {b : Body} {l : DramLoc} (h : (b.pcAt l).writes = []) :
    serveLc o b l = b.updPcAt l fun q => { q with lcRow := q.lcRow + 1 } := by
  have hdrain : drainOne o b l = b := by
    unfold drainOne
    unfold Body.pcAt at h
    dsimp only
    rw [h]
  unfold serveLc
  rw [hdrain, ite_self]
  rfl

/-- Serving a read where no write is queued: traffic and latency are counted, and the bytes are read. -/
theorem serve_read_idle {o : Own} {b : Body} {l : DramLoc} {r : DReq} (hd : r.data = none) (h : (b.pcAt l).Idle) :
    ∃ t, serve o b l r = readNow o t r ∧ b.memoryAlone t ∧ t.mem = b.mem := by
  have hrest : ∀ u : Body, b.memoryAlone u → u.mem = b.mem →
      ∃ t, readNow o ((u.countReads o r.addr r.n).atStack l (·.latency r)) r = readNow o t r ∧ b.memoryAlone t ∧ t.mem = b.mem :=
    fun u hu hm => ⟨_, rfl, Body.memoryAlone_trans (Body.memoryAlone_trans hu (u.memoryAlone_traffic _ _)) (Body.memoryAlone_atStack _ _ _),
      (Body.countReads_mem o u r.addr r.n).trans hm⟩
  have hfwd : ¬ ((b.stks.getD l.stack Stack.reset).pcOf l.pc).forwards r = true := Bool.eq_false_iff.mp (h.forwards r)
  unfold serve
  rw [hd]
  dsimp only
  rw [if_neg hfwd]
  cases r.lc with
  | true =>
    rw [if_pos rfl, serveLc_idle h.writes]
    exact hrest _ (b.memoryAlone_updPcAt l _) rfl
  | false => exact hrest _ (b.memoryAlone_updPcAt l _) rfl

/-- A sound read that is served as it arrives returns its bytes, and leaves memory. -/
theorem arrive_read_served {o : Own} {b : Body} {l : DramLoc} {r : DReq} (h : b.servesAt l = true) (hr : ReadsSound o b r) :
    ∃ t, arrive o b l r = t.emit (.netData r.who (b.mem.bytes r.addr r.n)) ∧ b.memoryAlone t ∧ t.mem = b.mem := by
  obtain ⟨t, hserve, halone, hmem⟩ := serve_read_idle (o := o) (r := r.stamped (b.pcAt l).arrivals) hr.data
    (Body.servesAt_iff.mp (Body.servesAt_arrived r h)).2.2
  have hstamp : ReadsSound o b (r.stamped (b.pcAt l).arrivals) := ⟨hr.data, hr.via, hr.upsets, hr.bad⟩
  refine ⟨t, ?_, Body.memoryAlone_trans (b.memoryAlone_updPcAt l _) halone, hmem⟩
  rw [arrive_served r h, hserve, hstamp.readNow hmem]
  rfl

/-- A write that loses no byte and is served as it arrives is the masked write of memory. -/
theorem arrive_write_served {o : Own} {b : Body} {l : DramLoc} {r : DReq} {d : List (Option Byte)} (h : b.servesAt l = true)
    (hd : r.data = some d) (hu : b.mem.upsets = []) (hl : b.mem.lostWords (wordSize o.maps r.addr) r.addr d = []) :
    b.memoryAlone (arrive o b l r) ∧ (arrive o b l r).mem = b.mem.writeMasked (wordSize o.maps r.addr) r.addr d := by
  have hserve := serve_write (o := o) (b := b.updPcAt l (·.arrived r)) (l := l) (r := r.stamped (b.pcAt l).arrivals) hd hu hl
  rw [arrive_served r h, hserve]
  exact ⟨rfl, rfl⟩

/-! ### Requests outside DRAM -/

/-- A write to an SRAM that loses no byte is the masked write of memory. -/
theorem sramWrite_sound {o : Own} {b : Body} {who : Requester} {a : Nat} {d : List (Option Byte)} (hu : b.mem.upsets = [])
    (hl : b.mem.lostWords (wordSize o.maps a) a d = []) :
    b.memoryAlone (sramWrite o b who a d) ∧ (sramWrite o b who a d).mem = b.mem.writeMasked (wordSize o.maps a) a d := by
  have hmem : (b.countWrites o a d).mem = b.mem := Body.countWrites_mem o b a d
  have hput : sramWrite o b who a d = (b.countWrites o a d).updMem (·.writeMasked (wordSize o.maps a) a d) := by
    unfold sramWrite
    rw [hl]
    exact Body.place_sound (hmem ▸ hu) (hmem ▸ hl)
  rw [hput]
  refine ⟨Body.memoryAlone_trans (b.memoryAlone_countWrites o a d) rfl, ?_⟩
  rw [Body.updMem_mem, hmem]

/-! ### The two commands -/

section
variable {s : State} {who : Requester} {addr : Addr}

theorem execNetworkRead_clocked (n : Nat) (ecc : Found) (h : s.body.clocked = true) :
    execNetworkRead who addr n ecc s = .next { s with body := networkRead s.own s.body who addr.toNat n ecc } := State.onBody_clocked _ h

theorem execNetworkWrite_clocked (d : List (Option Byte)) (ecc : Found) (h : s.body.clocked = true) :
    execNetworkWrite who addr ⟨d, ecc⟩ s = .next { s with body := networkWrite s.own s.body who addr.toNat d ecc } :=
  State.onBody_clocked _ h

/-- The request of a network read at a controller: its class, and for an LC read a latency, which is free (R216, R219). -/
def netReadReq (o : Own) (b : Body) (who : Requester) (a n : Nat) : DReq :=
  { netReq who a n none with
    lc := readClass o who false a n
    latency := if readClass o who false a n then (Config.freeWord b.free).toNat else 0 }

section
variable {o : Own} {b : Body} {a n : Nat} {d : List (Option Byte)}

theorem networkRead_refused {st : W16} (ecc : Found) (h : netCheck o b who a n = some st) :
    networkRead o b who a n ecc = (b.refuse o who st a).emit (.netStatus who st) := by
  unfold networkRead
  rw [h]

theorem networkRead_dram {l : DramLoc} (h : netCheck o b who a n = none) (hl : locate o.maps a = some l) :
    networkRead o b who a n [] = arrive o { b with free := b.free + 1 } l (netReadReq o b who a n) := by
  unfold networkRead
  rw [h]
  dsimp only
  rw [hl]
  rfl

theorem networkRead_sram (h : netCheck o b who a n = none) (hl : locate o.maps a = none) :
    networkRead o b who a n [] = readNow o b (netReq who a n none) := by
  unfold networkRead
  rw [h]
  dsimp only
  rw [hl]
  rfl

theorem networkWrite_refused {st : W16} {x : Nat} (ecc : Found) (h : writeCheck o b who a d.length = some (st, x)) :
    networkWrite o b who a d ecc = (b.refuse o who st x).emit (.netStatus who st) := by
  unfold networkWrite
  rw [h]

theorem networkWrite_dram {l : DramLoc} (h : writeCheck o b who a d.length = none) (hl : locate o.maps a = some l) :
    networkWrite o b who a d [] = arrive o b l (netReq who a d.length (some d)) := by
  unfold networkWrite
  rw [h]
  dsimp only
  rw [hl]
  rfl

theorem networkWrite_sram (h : writeCheck o b who a d.length = none) (hl : locate o.maps a = none) :
    networkWrite o b who a d [] = sramWrite o b who a d := by
  unfold networkWrite
  rw [h]
  dsimp only
  rw [hl]
  rfl

end

section
variable (hserves : ∀ l, locate s.own.maps addr.toNat = some l → s.body.servesAt l = true) (hu : s.body.mem.upsets = [])
include hserves hu

/-- A read that passes its check returns its bytes; a fresh latency is all that it takes of the state beside its controller's counts. -/
theorem networkRead_passes {n : Nat} (hc : netCheck s.own s.body who addr.toNat n = none)
    (hbad : s.body.mem.firstBad (wordSize s.own.maps addr.toNat) addr.toNat n = none) :
    ∃ b t : Body, (b = s.body ∨ b = { s.body with free := s.body.free + 1 }) ∧ b.memoryAlone t ∧ t.mem = s.body.mem ∧
      networkRead s.own s.body who addr.toNat n [] = t.emit (.netData who (s.bytes addr.toNat n)) := by
  cases hl : locate s.own.maps addr.toNat with
  | none =>
    refine ⟨s.body, s.body, Or.inl rfl, rfl, rfl, ?_⟩
    rw [networkRead_sram hc hl, readNow_sound hu hbad]
    rfl
  | some l =>
    obtain ⟨t, harrive, halone, hmem⟩ := arrive_read_served (o := s.own) (b := { s.body with free := s.body.free + 1 })
      (r := netReadReq s.own s.body who addr.toNat n) (hserves l hl) ⟨rfl, rfl, hu, hbad⟩
    exact ⟨_, t, Or.inr rfl, halone, hmem, (networkRead_dram hc hl).trans harrive⟩

theorem execNetworkRead_passes {n : Nat} (hcl : s.body.clocked = true) (hc : netCheck s.own s.body who addr.toNat n = none)
    (hbad : s.body.mem.firstBad (wordSize s.own.maps addr.toNat) addr.toNat n = none) :
    ∃ t, exec (.networkRead who addr n []) s = .next t ∧ t.own = s.own ∧ t.body.mem = s.body.mem ∧
      t.body.out = s.body.out ++ [.netData who (s.bytes addr.toNat n)] ∧ t.body.parts = s.body.parts ∧ t.body.cores = s.body.cores ∧
      t.body.board = s.body.board := by
  obtain ⟨b, t, hb, halone, hmem, hread⟩ := networkRead_passes hserves hu hc hbad
  obtain ⟨hboard, -, -, -, -, hout, hparts, hcores, -⟩ := Body.eqs_of_memoryAlone halone
  refine ⟨_, execNetworkRead_clocked n [] hcl, rfl, ?_⟩
  dsimp only
  rw [hread, Body.emit_mem, Body.emit_out, Body.emit_parts, Body.emit_cores, Body.emit_board, hmem, hout, hparts, hcores, hboard]
  rcases hb with rfl | rfl <;> exact ⟨rfl, rfl, rfl, rfl, rfl⟩

theorem networkWrite_passes {d : List (Option Byte)} (hc : writeCheck s.own s.body who addr.toNat d.length = none)
    (hlost : s.body.mem.lostWords (wordSize s.own.maps addr.toNat) addr.toNat d = []) :
    s.body.memoryAlone (networkWrite s.own s.body who addr.toNat d []) ∧ (networkWrite s.own s.body who addr.toNat d []).mem =
      s.body.mem.writeMasked (wordSize s.own.maps addr.toNat) addr.toNat d := by
  cases hl : locate s.own.maps addr.toNat with
  | none =>
    rw [networkWrite_sram hc hl]
    exact sramWrite_sound hu hlost
  | some l =>
    rw [networkWrite_dram hc hl]
    exact arrive_write_served (r := netReq who addr.toNat d.length (some d)) (hserves l hl) rfl hu hlost

theorem execNetworkWrite_passes {d : List (Option Byte)} (hcl : s.body.clocked = true)
    (hc : writeCheck s.own s.body who addr.toNat d.length = none)
    (hlost : s.body.mem.lostWords (wordSize s.own.maps addr.toNat) addr.toNat d = []) :
    ∃ t, exec (.networkWrite who addr ⟨d, []⟩) s = .next t ∧ t.own = s.own ∧ t.body.parts = s.body.parts ∧
      t.body.cores = s.body.cores ∧ t.body.board = s.body.board ∧ s.sameOutside t addr.toNat d.length ∧
      ∀ i : Nat, ∀ h : i < d.length, t.body.mem.byte (addr.toNat + i) = (d[i]'h).getD (s.body.mem.byte (addr.toNat + i)) := by
  obtain ⟨halone, hmem⟩ := networkWrite_passes (who := who) hserves hu hc hlost
  obtain ⟨hboard, -, -, -, -, -, hparts, hcores, -⟩ := Body.eqs_of_memoryAlone halone
  refine ⟨_, execNetworkWrite_clocked d [] hcl, rfl, hparts, hcores, hboard, fun x hx => ?_, fun i hi => ?_⟩
  · rw [hmem]
    exact Mem.byte_writeMasked_outside _ _ _ _ _ hx
  · rw [hmem, Mem.byte_writeMasked s.body.mem _ _ _ _ hlost, if_pos (by omega), Nat.add_sub_cancel_left, List.getD_eq_getElem _ _ hi]

end

/-- A tripped module's DRAM takes no read: a fresh latency is all that changes (R227). -/
theorem execNetworkRead_tripped {l : DramLoc} {n : Nat} (hcl : s.body.clocked = true) (ht : s.body.board.tripped = true)
    (hl : locate s.own.maps addr.toNat = some l) (hc : netCheck s.own s.body who addr.toNat n = none) :
    ∃ t, exec (.networkRead who addr n []) s = .next t ∧ t.own = s.own ∧ t.body = { s.body with free := t.body.free } := by
  have hread : networkRead s.own s.body who addr.toNat n [] = { s.body with free := s.body.free + 1 } := by
    rw [networkRead_dram hc hl]
    exact arrive_tripped ht
  exact ⟨_, execNetworkRead_clocked n [] hcl, rfl, by rw [hread]⟩

/-- It takes no write either. -/
theorem execNetworkWrite_tripped {l : DramLoc} {d : List (Option Byte)} (hcl : s.body.clocked = true) (ht : s.body.board.tripped = true)
    (hl : locate s.own.maps addr.toNat = some l) (hc : writeCheck s.own s.body who addr.toNat d.length = none) :
    exec (.networkWrite who addr ⟨d, []⟩) s = .next s := by
  refine (execNetworkWrite_clocked d [] hcl).trans ?_
  rw [networkWrite_dram hc hl, arrive_tripped ht]

theorem execNetworkRead_refused {n : Nat} {st : W16} (ecc : Found) (hcl : s.body.clocked = true)
    (hc : netCheck s.own s.body who addr.toNat n = some st) : ∃ t, exec (.networkRead who addr n ecc) s = .next t ∧ t.own = s.own ∧
      t.body.mem = s.body.mem ∧ t.body.out.getLast? = some (.netStatus who st) := by
  refine ⟨_, execNetworkRead_clocked n ecc hcl, rfl, ?_⟩
  dsimp only
  rw [networkRead_refused ecc hc]
  exact refuse_emit_spec _ _ _ _ _ _

theorem execNetworkWrite_refused {d : List (Option Byte)} {st : W16} {x : Nat} (ecc : Found) (hcl : s.body.clocked = true)
    (hc : writeCheck s.own s.body who addr.toNat d.length = some (st, x)) : ∃ t, exec (.networkWrite who addr ⟨d, ecc⟩) s = .next t ∧
      t.own = s.own ∧ t.body.mem = s.body.mem ∧ t.body.out.getLast? = some (.netStatus who st) := by
  refine ⟨_, execNetworkWrite_clocked d ecc hcl, rfl, ?_⟩
  dsimp only
  rw [networkWrite_refused ecc hc]
  exact refuse_emit_spec _ _ _ _ _ _

end

/-- Settles O37: a request that passes by its controller, or at once outside DRAM; one that a check or a trip stops by what it leaves. -/
theorem networkAccess : Obligations.NetworkAccess := by
  unfold Obligations.NetworkAccess
  intro s who addr hcl
  exact ⟨fun hserves hu => ⟨fun n => execNetworkRead_passes hserves hu hcl, fun d => execNetworkWrite_passes hserves hu hcl⟩,
    fun ht l hl => ⟨fun n => execNetworkRead_tripped hcl ht hl, fun d => execNetworkWrite_tripped hcl ht hl⟩,
    fun n st ecc => execNetworkRead_refused ecc hcl, fun d st x ecc => execNetworkWrite_refused ecc hcl⟩

end Sys2Proof.Machine

/-! PROOFS. HOST_COPY: each outcome of its rule, and what the end of a copy leaves (R226, R227, R231, R390, R412, R420, R511, R512; O20). -/

namespace Sys2Proof.Machine

open Sys2Proof

/-! ### Writes that meet no unreadable word, in memory of any state -/

theorem maskedAt_isSome {a x : Nat} {d : List (Option Byte)} (h : (maskedAt a d x).isSome = true) : a ≤ x ∧ x < a + d.length := by
  unfold maskedAt at h
  split at h
  next ha =>
    refine ⟨ha, ?_⟩
    by_contra hx
    rw [List.getElem?_eq_none (by omega)] at h
    exact absurd h (by decide)
  next => exact absurd h (by decide)

/-- A word that a masked write reaches is met by the range of its bytes. -/
theorem touches_of_partWord {word w a : Nat} {d : List (Option Byte)} (h : partWord word w a d = true) :
    touches word w a d.length = true := by
  unfold partWord reachesWord at h
  obtain ⟨hreach, -⟩ := Bool.and_eq_true_iff.mp h
  obtain ⟨i, hi, hsome⟩ := List.any_eq_true.mp hreach
  have hlt := List.mem_range.mp hi
  obtain ⟨hlo, hhi⟩ := maskedAt_isSome hsome
  simp only [touches, Bool.and_eq_true, decide_eq_true_eq]
  omega

theorem Mem.not_touches_of_bad {m : Mem} {word a n w : Nat} (h : m.bad word a n = false) (hw : w ∈ m.badWords word) :
    touches word w a n = false := Bool.eq_false_iff.mpr (List.any_eq_false.mp h w hw)

theorem Mem.lostWords_of_bad {m : Mem} {word a : Nat} {d : List (Option Byte)} (h : m.bad word a d.length = false) :
    m.lostWords word a d = [] := by
  refine List.filter_eq_nil_iff.mpr fun w hw hp => ?_
  exact absurd ((touches_of_partWord hp).symm.trans (Mem.not_touches_of_bad h hw)) (by decide)

section
variable {o : Own} {b : Body} {a : Nat} {d : List (Option Byte)}

/-- The merge reads of a write that meets no unreadable word correct what they find, and leave memory (R170, R172). -/
theorem Body.mergeRead_mem (h : b.mem.bad (wordSize o.maps a) a d.length = false) : (b.mergeRead o a d).mem = b.mem := by
  refine List.foldlRecOn (motive := fun t : Body => t.mem = b.mem) _ _ rfl fun t ht u hu => ?_
  obtain ⟨hmem, hpart⟩ := List.mem_filter.mp hu
  have hgood : u.2 ≠ .bad := fun hbad => by
    have hword : u.1 / wordSize o.maps a * wordSize o.maps a ∈ b.mem.badWords (wordSize o.maps a) :=
      List.mem_append_right _ (List.mem_map.mpr ⟨u, List.mem_filter.mpr ⟨hmem, by rw [hbad]; decide⟩, rfl⟩)
    exact absurd ((touches_of_partWord hpart).symm.trans (Mem.not_touches_of_bad h hword)) (by decide)
  rcases hecc : u.2 with _ | _ | _
  case clean => exact ht
  case corrected => exact (Body.mem_of_counted (t.counted_countCe o u.1)).trans ht
  case bad => exact absurd hecc hgood

theorem Body.store_mem_of_bad (h : b.mem.bad (wordSize o.maps a) a d.length = false) :
    (b.store o a d).mem = b.mem.writeMasked (wordSize o.maps a) a d := by
  have hcount : (b.countWrites o a d).mem = b.mem := Body.countWrites_mem o b a d
  unfold Body.store Body.place
  extract_lets w b1
  have hb1 : b1.mem = b.mem := (Body.mergeRead_mem (hcount.symm ▸ h)).trans hcount
  rw [Body.mem_foldl_countUe, Body.updMem_mem, hb1]

/-- Whole bytes stored where no word is unreadable are those that memory then holds. -/
theorem Body.bytes_storeBytes {l : List Byte} (h : b.mem.bad (wordSize o.maps a) a l.length = false) :
    (b.storeBytes o a l).mem.bytes a l.length = l := by
  have hlen : (l.map some).length = l.length := List.length_map _
  rw [← hlen] at h
  unfold Body.storeBytes
  rw [Body.store_mem_of_bad h]
  refine List.ext_getElem (by simp [Mem.bytes]) fun i hi hl => ?_
  have hlt : i < l.length := hl
  simp only [Mem.bytes, List.getElem_map, List.getElem_range]
  rw [Mem.byte_writeMasked b.mem _ _ _ _ (Mem.lostWords_of_bad h), if_pos (by omega), Nat.add_sub_cancel_left]
  simp [hlt]

end

/-! ### The rule -/

/-- The copy that a HOST_COPY asks for. -/
def copyOf (x : Xnx) : CopyJob := ⟨xTicket x, x.arg0 == 1, xArg x 0 8, xArg x 8 8, xArg x 16 8⟩

section
variable {x : Xnx} {o : Own} {b : Body} {p : Fin 8} (hx : x.page = .part p)
include hx

theorem hostCopyAct_foreign (h : o.inData p (xArg x 8 8) (xArg x 16 8) = false) :
    hostCopyAct x o b = .foreign (o.outside p (xArg x 8 8)) := by
  unfold hostCopyAct
  rw [onPart_of hx]
  exact if_pos (by rw [h]; rfl)

variable (h : o.inData p (xArg x 8 8) (xArg x 16 8) = true)
include h

/-- A copy within the data region is judged by its alignment and length (R390). -/
theorem hostCopyAct_within : hostCopyAct x o b =
    if xArg x 0 8 % 64 ≠ 0 ∨ xArg x 8 8 % 64 ≠ 0 ∨ xArg x 16 8 % 64 ≠ 0 ∨ xArg x 16 8 > 2 ^ 40 then .refused stBounds 0
    else .pending o (b.updPart p fun y => { y with copies := y.copies ++ [copyOf x] }) := by
  unfold hostCopyAct
  rw [onPart_of hx]
  exact if_neg (by rw [h]; decide)

theorem hostCopyAct_bounds (hbad : xArg x 0 8 % 64 ≠ 0 ∨ xArg x 8 8 % 64 ≠ 0 ∨ xArg x 16 8 % 64 ≠ 0 ∨ 2 ^ 40 < xArg x 16 8) :
    hostCopyAct x o b = .refused stBounds 0 := (hostCopyAct_within hx h).trans (if_pos hbad)

theorem hostCopyAct_accepted (hh : xArg x 0 8 % 64 = 0) (hd : xArg x 8 8 % 64 = 0) (hn : xArg x 16 8 % 64 = 0)
    (hlen : xArg x 16 8 ≤ 2 ^ 40) :
    hostCopyAct x o b = .pending o (b.updPart p fun y => { y with copies := y.copies ++ [copyOf x] }) := by
  refine (hostCopyAct_within hx h).trans (if_neg ?_)
  rintro (k | k | k | k)
  · exact k hh
  · exact k hd
  · exact k hn
  · exact Nat.not_lt.mpr hlen k

end

theorem execHostCopy_eq {s : State} {x : Xnx} {p : Fin 8} (h : s.takesOn x p = true) (hlen : x.len = 24) (harg : x.arg0 < 2) {r : Xres}
    (hr : hostCopyAct x s.own (s.commandedWith 0x0009 x) = r) : exec (.hostCopy x) s = .next (s.concluded 0x0009 x r) :=
  hr ▸ State.xnx_part h (hostCopyAct x) (beq_iff_eq.mpr hlen) (decide_eq_true harg)

/-! ### The end of a copy -/

/-- Bytes driven to the host by a copy: n of its bytes, counted as DRAM reads (R231, R390). -/
def Body.copiedOut (b : Body) (o : Own) (c : CopyJob) (n : Nat) (l : List Byte) : Body :=
  (b.countReads o c.daddr n).emit (.hostWrite c.haddr l)

/-- The copies of the partition but for a mailbox's. -/
def Body.copiesBut (b : Body) (p : Fin 8) (mb : Fin 4) : Body :=
  b.updPart p fun y => { y with copies := y.copies.filter fun z => z.ticket.mb != mb }

section
variable {o : Own} {b : Body} {p : Fin 8} {mb : Fin 4} {c : CopyJob} (hc : (b.part p).copies.find? (fun y => y.ticket.mb == mb) = some c)
  (d : List Byte)
include hc

/-- A copy does not end once the steward has stopped, nor before its DRAM admits the traffic (R226, R227, R420). -/
theorem hostCopyDone_waits (h : b.stewardUp = false ∨ b.flows o [(c.daddr, c.bytes)] = false) : hostCopyDone o b p mb d = b := by
  unfold hostCopyDone
  rw [hc]
  refine if_pos ?_
  rcases h with h | h <;> simp [h]

variable (hup : b.stewardUp = true) (hflow : b.flows o [(c.daddr, c.bytes)] = true)
include hup hflow

theorem hostCopyDone_ends : hostCopyDone o b p mb d =
    if c.toHost then
      let b1 := b.correctedIn o [(c.daddr, c.bytes)]
      match b1.firstBad o [(c.daddr, c.bytes)] with
      | some w =>
        let n := w / 64 * 64 - c.daddr
        (((b1.copiesBut p mb).copiedOut o c n (b1.mem.bytes c.daddr n)).stewardBad o p w).respond o c.ticket ftEcc (w / 64 * 64) []
      | none => ((b1.copiesBut p mb).copiedOut o c c.bytes (b1.mem.bytes c.daddr c.bytes)).respond o c.ticket stOk 0 []
    else ((b.copiesBut p mb).storeBytes o c.daddr (d.take c.bytes)).respond o c.ticket stOk 0 [] := by
  unfold hostCopyDone
  rw [hc]
  refine (if_neg (by simp [hup, hflow])).trans ?_
  rfl

end

section
variable {s : State} {p : Fin 8} {mb : Fin 4} {c : CopyJob}
  (hc : (s.body.part p).copies.find? (fun y => y.ticket.mb == mb) = some c) (d : List Byte)

theorem State.bytes_correctedIn (s : State) (rs : List (Nat × Nat)) (a n : Nat) :
    (s.body.correctedIn s.own rs).mem.bytes a n = s.bytes a n := by
  unfold Mem.bytes Mem.byte
  rw [Body.correctedIn_cells]
  rfl

theorem execHostCopyComplete_eq (hup : s.body.stewardUp = true) {t : Body} (ht : hostCopyDone s.own s.body p mb d = t) :
    execHostCopyComplete p mb d s = .next { s with body := t } := State.onBody_eq (Body.clocked_of_stewardUp hup) ht

include hc

theorem execHostCopyComplete_waits (h : s.body.stewardUp = false ∨ s.body.flows s.own [(c.daddr, c.bytes)] = false) :
    execHostCopyComplete p mb d s = .next s := State.onBody_same (hostCopyDone_waits hc d h)

variable (hup : s.body.stewardUp = true) (hflow : s.body.flows s.own [(c.daddr, c.bytes)] = true)
include hup hflow

/-- A copy to the host of bytes that can all be read (R390). -/
theorem execHostCopyComplete_toHost (hto : c.toHost = true)
    (hbad : ((s.body.correctedIn s.own [(c.daddr, c.bytes)]).copiesBut p mb).firstBad s.own [(c.daddr, c.bytes)] = none) :
    execHostCopyComplete p mb d s = .next { s with
      body := (((s.body.correctedIn s.own [(c.daddr, c.bytes)]).copiesBut p mb).copiedOut s.own c c.bytes
        (s.bytes c.daddr c.bytes)).respond s.own c.ticket stOk 0 [] } := by
  have hnone : (s.body.correctedIn s.own [(c.daddr, c.bytes)]).firstBad s.own [(c.daddr, c.bytes)] = none := hbad
  refine execHostCopyComplete_eq d hup ?_
  rw [hostCopyDone_ends hc d hup hflow, if_pos hto]
  dsimp only
  rw [hnone, State.bytes_correctedIn]

/-- A copy to the host stops at the first unit that cannot be read (R512). -/
theorem execHostCopyComplete_stops (hto : c.toHost = true) {w : Nat}
    (hbad : ((s.body.correctedIn s.own [(c.daddr, c.bytes)]).copiesBut p mb).firstBad s.own [(c.daddr, c.bytes)] = some w) :
    let n := w / 64 * 64 - c.daddr
    execHostCopyComplete p mb d s = .next { s with
      body := ((((s.body.correctedIn s.own [(c.daddr, c.bytes)]).copiesBut p mb).copiedOut s.own c n
        (s.bytes c.daddr n)).stewardBad s.own p w).respond s.own c.ticket ftEcc (w / 64 * 64) [] } := by
  have hsome : (s.body.correctedIn s.own [(c.daddr, c.bytes)]).firstBad s.own [(c.daddr, c.bytes)] = some w := hbad
  refine execHostCopyComplete_eq d hup ?_
  rw [hostCopyDone_ends hc d hup hflow, if_pos hto]
  dsimp only
  rw [hsome]
  dsimp only
  rw [State.bytes_correctedIn]

/-- A copy to DRAM writes the bytes that the host memory held, and no others. -/
theorem execHostCopyComplete_toDram (hd : d.length = c.bytes) (hto : c.toHost = false)
    (hbad : s.body.mem.bad (wordSize s.own.maps c.daddr) c.daddr c.bytes = false) :
    ∃ t, execHostCopyComplete p mb d s = .next t ∧ t.own = s.own ∧ s.sameOutside t c.daddr c.bytes ∧ t.bytes c.daddr c.bytes = d ∧
      (∀ y ∈ (t.body.part p).copies, y.ticket.mb ≠ mb ∨ s.body.parts.length ≠ 8) := by
  have hdone := hostCopyDone_ends hc d hup hflow
  rw [if_neg (by rw [hto]; decide), List.take_of_length_le (Nat.le_of_eq hd)] at hdone
  have hstores : (s.body.copiesBut p mb).Stores id (fun y => c.daddr ≤ y ∧ y < c.daddr + c.bytes)
      ((s.body.copiesBut p mb).storeBytes s.own c.daddr d) :=
    Body.stores_store _ s.own c.daddr (d.map some) fun y hy => by rwa [List.length_map, hd] at hy
  have hresp := Body.answered_respond s.own ((s.body.copiesBut p mb).storeBytes s.own c.daddr d) c.ticket stOk 0 []
  refine ⟨_, execHostCopyComplete_eq d hup hdone, rfl, fun y hy => ?outside, ?bytes, fun y hy => ?copies⟩
  case outside =>
    rw [hresp.mem]
    exact hstores.byte y hy
  case bytes =>
    have hstored : ((s.body.copiesBut p mb).storeBytes s.own c.daddr d).mem.bytes c.daddr d.length = d :=
      Body.bytes_storeBytes (b := s.body.copiesBut p mb) (hd.symm ▸ hbad)
    unfold State.bytes
    rw [hresp.mem, ← hd]
    exact hstored
  case copies =>
    by_cases hparts : s.body.parts.length = 8
    · have hpart : ((s.body.copiesBut p mb).storeBytes s.own c.daddr d).part p = (s.body.copiesBut p mb).part p := hstores.part p
      rw [hresp.part, hpart, Body.copiesBut, Body.part_updPart _ p _ (by rw [hparts]; exact p.isLt)] at hy
      exact Or.inl (bne_iff_ne.mp (List.mem_filter.mp hy).2)
    · exact Or.inr hparts

end

/-- Settles O20: each outcome of the command by the branch of its rule that it takes, the end of a copy by its direction. -/
theorem hostCopy : Obligations.HostCopy := by
  unfold Obligations.HostCopy
  refine ⟨fun s x p h hlen harg => ⟨fun hin => ?foreign, fun hin => ⟨fun hbad => ?bounds, fun hh hd hn hmax => ?accepted⟩⟩,
    fun s p mb c d hc hd => ⟨execHostCopyComplete_waits hc d, fun hup hflow => ⟨execHostCopyComplete_toHost hc d hup hflow,
      fun w hto hbad => execHostCopyComplete_stops hc d hup hflow hto hbad, execHostCopyComplete_toDram hc d hup hflow hd⟩⟩⟩
  case foreign =>
    have hexec := execHostCopy_eq h hlen harg (hostCopyAct_foreign (page_of_takesOn h) hin)
    unfold State.concluded at hexec
    rwa [page_of_takesOn h] at hexec
  case bounds => exact execHostCopy_eq h hlen harg (hostCopyAct_bounds (page_of_takesOn h) hin hbad)
  case accepted => exact execHostCopy_eq h hlen harg (hostCopyAct_accepted (page_of_takesOn h) hin hh hd hn hmax)

end Sys2Proof.Machine

/-! PROOFS. FAB_CFG: the tables that it reads, each outcome of its rule, and the fabric that it leaves (R227, R293, R300, R416, R511, R512;
O54). -/

namespace Sys2Proof.Machine

open Sys2Proof

/-! ### Numbers read from bytes -/

theorem ofLe_lt (l : List Byte) : ofLe l < 256 ^ l.length := by
  induction l with
  | nil => decide
  | cons v t ih =>
    have hv := v.isLt
    rw [ofLe, List.length_cons, Nat.pow_succ]
    omega

theorem Mem.le_lt (m : Mem) (a n : Nat) : m.le a n < 256 ^ n := by
  have h := ofLe_lt (m.bytes a n)
  rwa [Mem.bytes, List.length_map, List.length_range] at h

theorem field_lt (bs : List Byte) (off n : Nat) : field bs off n < 256 ^ n :=
  Nat.lt_of_lt_of_le (ofLe_lt _) (Nat.pow_le_pow_right (by decide) (List.length_take_le n _))

/-- A number read depends on the bytes alone. -/
theorem Mem.le_congr {m k : Mem} (h : ∀ a, m.byte a = k.byte a) (a n : Nat) : m.le a n = k.le a n := by
  unfold Mem.le Mem.bytes
  simp only [h]

section
variable (s : State) (code : Nat) (x : Xnx)

@[simp] theorem State.commandedWith_fab : (s.commandedWith code x).fab = s.body.fab := by rw [State.commandedWith_eq]
@[simp] theorem State.commandedWith_link (l : Fin 24) : (s.commandedWith code x).link l = s.body.link l := by
  rw [State.commandedWith_eq]; rfl
@[simp] theorem State.commandedWith_linkCfg (l : Fin 24) : (s.commandedWith code x).linkCfg l = s.body.linkCfg l := by
  rw [State.commandedWith_eq]; rfl
@[simp] theorem State.commandedWith_le (a n : Nat) : (s.commandedWith code x).mem.le a n = s.body.mem.le a n :=
  Mem.le_congr (s.commandedWith_byte code x) a n
@[simp] theorem State.commandedWith_linkRecAt (a i : Nat) : linkRecAt (s.commandedWith code x).mem a i = linkRecAt s.body.mem a i := by
  simp only [linkRecAt, s.commandedWith_le code x]

end

/-! ### Route tables -/

/-- Looking up a table of the entries that are not zero. -/
theorem find?_nonzero (n : Nat) (f : Nat → W32) (d : Nat) :
    (((List.range n).map fun i => (i, f i)).filter fun e => e.2 != 0).find? (·.1 == d) =
      if d < n ∧ f d ≠ 0 then some (d, f d) else none := by
  rw [List.find?_filter, List.find?_map]
  split
  next h =>
    obtain ⟨hd, h0⟩ := h
    refine (congrArg (Option.map _) (List.find?_range_eq_some.mpr ⟨?_, List.mem_range.mpr hd, fun j hj => ?_⟩)).trans rfl
    · simpa using h0
    · simp [Nat.ne_of_lt hj]
  next h =>
    refine (congrArg (Option.map _) (List.find?_eq_none.mpr fun i hi hp => ?_)).trans rfl
    simp only [Function.comp, decide_eq_true_eq, bne_iff_ne, beq_iff_eq] at hp
    exact h ⟨hp.2 ▸ List.mem_range.mp hi, hp.2 ▸ hp.1⟩

section
variable (m : Mem) (rt : Nat)

theorem toNat_entry (i : Nat) : (BitVec.ofNat 32 (m.le (rt + 4 * i) 4)).toNat = m.le (rt + 4 * i) 4 := by
  rw [BitVec.toNat_ofNat]
  exact Nat.mod_eq_of_lt (m.le_lt _ 4)

variable {d : Nat} (hd : d < 4096)
include hd

/-- The entry of a device, as a fabric with that table routes by it (R293). -/
theorem entry_routeAt {f : Fab} (hf : f.route = routeAt m rt) : f.entry d = BitVec.ofNat 32 (m.le (rt + 4 * d) 4) := by
  unfold Fab.entry
  rw [hf, routeAt, find?_nonzero]
  by_cases h0 : BitVec.ofNat 32 (m.le (rt + 4 * d) 4) = 0
  · rw [if_neg fun h => h.2 h0, h0]
  · rw [if_pos ⟨hd, h0⟩]

/-- The entry of a device, as FAB_CFG tests it. -/
theorem own_routeAt : (((routeAt m rt).find? (·.1 == d)).elim 0 fun e => e.2.toNat) = m.le (rt + 4 * d) 4 := by
  rw [routeAt, find?_nonzero]
  by_cases h0 : BitVec.ofNat 32 (m.le (rt + 4 * d) 4) = 0
  · rw [if_neg fun h => h.2 h0, ← toNat_entry, h0]
    rfl
  · rw [if_pos ⟨hd, h0⟩, Option.elim_some, toNat_entry]

end

/-- Some entry of a table has a reserved bit. -/
theorem routeAt_any (m : Mem) (rt : Nat) : ((routeAt m rt).any fun e => decide (e.2.toNat ≥ 2 ^ 26)) = true ↔
    ∃ i, i < 4096 ∧ 2 ^ 26 ≤ m.le (rt + 4 * i) 4 := by
  simp only [routeAt, List.any_filter, List.any_map, List.any_eq_true, List.mem_range, Function.comp, Bool.and_eq_true, bne_iff_ne,
    decide_eq_true_eq, toNat_entry, ge_iff_le]
  refine exists_congr fun i => and_congr_right fun _ => ⟨And.right, fun h => ⟨fun h0 => ?_, h⟩⟩
  rw [← toNat_entry, h0] at h
  exact absurd h (by decide)

/-! ### The rule -/

/-- An identity, a weight or SYNC out of range (R416). -/
def fabWide (x : Xnx) : Prop :=
  4096 ≤ xArg x 0 2 ∨ 4096 ≤ xArg x 4 2 ∨ xArg x 2 1 = 0 ∨ 15 < xArg x 2 1 ∨ xArg x 3 1 = 0 ∨ 15 < xArg x 3 1 ∨
    ¬ (xArg x 6 1 = 0 ∨ 249 ≤ xArg x 6 1)

/-- Both tables lie in DRAM. -/
def fabTablesIn (o : Own) (x : Xnx) : Prop := inDram o (xArg x 8 8) 16384 = true ∧ inDram o (xArg x 16 8) 384 = true

/-- The ranges that FAB_CFG reads. -/
def fabReads (x : Xnx) : List (Nat × Nat) := [(xArg x 8 8, 16384), (xArg x 16 8, 384)]

/-- The link records that FAB_CFG reads. -/
def fabRecs (m : Mem) (x : Xnx) : List LinkRec := (List.range 24).map (linkRecAt m (xArg x 16 8))

/-- The own entry as FAB_CFG looks it up. -/
def fabOwn (m : Mem) (x : Xnx) : Nat := ((routeAt m (xArg x 8 8)).find? (·.1 == xArg x 0 2)).elim 0 fun e => e.2.toNat

/-- A link record names a role or a link out of range. -/
def fabRecBad (m : Mem) (x : Xnx) : Bool := (fabRecs m x).any fun r => decide (r.role > 3) || decide (r.link > 23)

/-- A link is up, the own entry is not LOCAL or names a link, or something reserved is not zero (R293, R416). -/
def fabBadForm (b : Body) (x : Xnx) : Bool :=
  b.fab.links.any Link.up || fabOwn b.mem x / 2 ^ 25 % 2 == 0 || fabOwn b.mem x % 2 ^ 24 != 0 ||
    (routeAt b.mem (xArg x 8 8)).any (fun e => decide (e.2.toNat ≥ 2 ^ 26)) || (fabRecs b.mem x).any fun r => r.rsv != 0

theorem fabRecBad_iff {m : Mem} {x : Xnx} : fabRecBad m x = true ↔
    ∃ i, i < 24 ∧ (3 < (linkRecAt m (xArg x 16 8) i).role ∨ 23 < (linkRecAt m (xArg x 16 8) i).link) := by
  simp only [fabRecBad, fabRecs, List.any_map, List.any_eq_true, List.mem_range, Function.comp, Bool.or_eq_true, decide_eq_true_eq,
    gt_iff_lt]

theorem anyUp_iff {b : Body} (hl : b.fab.links.length = 24) : b.fab.links.any Link.up = true ↔ ∃ l, (b.link l).up = true := by
  constructor
  · intro h
    obtain ⟨y, hy, hup⟩ := List.any_eq_true.mp h
    obtain ⟨i, hi, rfl⟩ := List.mem_iff_getElem.mp hy
    exact ⟨⟨i, hl ▸ hi⟩, by rwa [Body.link, List.getD_eq_getElem _ _ hi]⟩
  · rintro ⟨l, hup⟩
    have hi : l.val < b.fab.links.length := by rw [hl]; exact l.isLt
    rw [Body.link, List.getD_eq_getElem _ _ hi] at hup
    exact List.any_eq_true.mpr ⟨_, List.getElem_mem hi, hup⟩

theorem fabBadForm_iff {b : Body} {x : Xnx} (hl : b.fab.links.length = 24) (hd : xArg x 0 2 < 4096) : fabBadForm b x = true ↔
    (∃ l, (b.link l).up = true) ∨ b.mem.le (xArg x 8 8 + 4 * xArg x 0 2) 4 / 2 ^ 25 % 2 = 0 ∨
      b.mem.le (xArg x 8 8 + 4 * xArg x 0 2) 4 % 2 ^ 24 ≠ 0 ∨ (∃ i, i < 4096 ∧ 2 ^ 26 ≤ b.mem.le (xArg x 8 8 + 4 * i) 4) ∨
      ∃ i, i < 24 ∧ (linkRecAt b.mem (xArg x 16 8) i).rsv ≠ 0 := by
  have hown : fabOwn b.mem x = b.mem.le (xArg x 8 8 + 4 * xArg x 0 2) 4 := own_routeAt b.mem (xArg x 8 8) hd
  have hrsv : ((fabRecs b.mem x).any fun r => r.rsv != 0) = true ↔ ∃ i, i < 24 ∧ (linkRecAt b.mem (xArg x 16 8) i).rsv ≠ 0 := by
    simp only [fabRecs, List.any_map, List.any_eq_true, List.mem_range, Function.comp, bne_iff_ne]
  unfold fabBadForm
  rw [hown, Bool.or_eq_true, Bool.or_eq_true, Bool.or_eq_true, Bool.or_eq_true, anyUp_iff hl, routeAt_any, hrsv, beq_iff_eq, bne_iff_ne,
    or_assoc, or_assoc, or_assoc]

/-- A link's configuration with what a record says. -/
def LinkCfg.recorded (c : LinkCfg) (r : LinkRec) : LinkCfg :=
  { c with
    expectId := BitVec.ofNat 56 r.id, expectLink := BitVec.ofNat 8 r.link, role := BitVec.ofNat 8 r.role, asym := BitVec.ofNat 32 r.asym }

/-- The fabric that FAB_CFG leaves, its tables read from a memory. -/
def Fab.configured (f : Fab) (m : Mem) (x : Xnx) : Fab :=
  { f with
    locked := decide (xArg x 4 2 = xArg x 0 2), syncAt := 0, devId := some (BitVec.ofNat 12 (xArg x 0 2))
    wColl := xArg x 2 1, wData := xArg x 3 1, gm := BitVec.ofNat 16 (xArg x 4 2), sync := BitVec.ofNat 8 (xArg x 6 1)
    route := routeAt m (xArg x 8 8)
    cfg := (f.cfg.zip ((List.range 24).map (linkRecAt m (xArg x 16 8)))).map fun (c, r) => c.recorded r }

section
variable {x : Xnx} {o : Own} {b : Body}

/-- The ranges of FAB_CFG's numbers as its rule tests them. -/
theorem fabWide_iff : (xArg x 0 2 ≥ 4096 ∨ xArg x 4 2 ≥ 4096 ∨ xArg x 2 1 = 0 ∨ xArg x 2 1 > 15 ∨ xArg x 3 1 = 0 ∨ xArg x 3 1 > 15 ∨
    (!(xArg x 6 1 == 0 || decide (249 ≤ xArg x 6 1))) = true) ↔ fabWide x := by
  unfold fabWide
  simp only [Bool.not_eq_true', Bool.or_eq_false_iff, beq_eq_false_iff_ne, decide_eq_false_iff_not, not_or, ge_iff_le, gt_iff_lt, ne_eq]

theorem not_not_tablesIn (hin : fabTablesIn o x) : ¬ (!inDram o (xArg x 8 8) 16384 || !inDram o (xArg x 16 8) 384) = true := by
  rw [hin.1, hin.2]
  decide

theorem fabCfgAct_reserved (h7 : xArg x 7 1 ≠ 0) : fabCfgAct x o b = .refused stFormat 0 := if_pos h7

variable (h7 : xArg x 7 1 = 0)
include h7

theorem fabCfgAct_foreign (hin : ¬ fabTablesIn o x) :
    fabCfgAct x o b = .foreign (if inDram o (xArg x 8 8) 16384 then xArg x 16 8 else xArg x 8 8) := by
  refine (if_neg (not_not_intro h7)).trans (if_pos ?_)
  by_contra h
  simp only [Bool.or_eq_true, Bool.not_eq_true', not_or, Bool.not_eq_false] at h
  exact hin h

variable (hin : fabTablesIn o x)
include hin

theorem fabCfgAct_wide (hw : fabWide x) : fabCfgAct x o b = .refused stBounds 0 :=
  (if_neg (not_not_intro h7)).trans ((if_neg (not_not_tablesIn hin)).trans (if_pos (fabWide_iff.mpr hw)))

variable (hw : ¬ fabWide x)
include hw

/-- A tripped module's DRAM is not read (R227). -/
theorem fabCfgAct_waits (ht : b.board.tripped = true) : fabCfgAct x o b = .pending o b :=
  (if_neg (not_not_intro h7)).trans ((if_neg (not_not_tablesIn hin)).trans ((if_neg (mt fabWide_iff.mp hw)).trans (if_pos ht)))

variable (ht : b.board.tripped = false)
include ht

/-- The rule once the tables may be read. -/
theorem fabCfgAct_reads : fabCfgAct x o b =
    match b.firstBad o (fabReads x) with
    | some w =>
      match o.ownerOf w with
      | some p => .done o (b.stewardBad o p w) ftEcc 0 []
      | none => .done o (b.foundBad o w) ftEcc 0 []
    | none =>
      if fabRecBad b.mem x then .refused stBounds 0
      else if fabBadForm b x then .refused stFormat 0
      else .done o ((b.stewardRead o (fabReads x)).updFab (·.configured b.mem x)) stOk 0 [] :=
  (if_neg (not_not_intro h7)).trans ((if_neg (not_not_tablesIn hin)).trans
    ((if_neg (mt fabWide_iff.mp hw)).trans ((if_neg (by rw [ht]; decide)).trans rfl)))

/-- A word of the tables that cannot be read ends the command (R512). -/
theorem fabCfgAct_unreadable {w : Nat} (hbad : b.firstBad o (fabReads x) = some w) : fabCfgAct x o b =
    .done o (match o.ownerOf w with | some p => b.stewardBad o p w | none => b.foundBad o w) ftEcc 0 [] := by
  rw [fabCfgAct_reads h7 hin hw ht, hbad]
  dsimp only
  cases o.ownerOf w <;> rfl

variable (hgood : b.firstBad o (fabReads x) = none)
include hgood

theorem fabCfgAct_recBad (hr : fabRecBad b.mem x = true) : fabCfgAct x o b = .refused stBounds 0 := by
  rw [fabCfgAct_reads h7 hin hw ht, hgood]
  exact if_pos hr

variable (hr : fabRecBad b.mem x = false)
include hr

theorem fabCfgAct_badForm (hf : fabBadForm b x = true) : fabCfgAct x o b = .refused stFormat 0 := by
  rw [fabCfgAct_reads h7 hin hw ht, hgood]
  exact (if_neg (ne_true_of_eq_false hr)).trans (if_pos hf)

theorem fabCfgAct_sets (hf : fabBadForm b x = false) :
    fabCfgAct x o b = .done o ((b.stewardRead o (fabReads x)).updFab (·.configured b.mem x)) stOk 0 [] := by
  rw [fabCfgAct_reads h7 hin hw ht, hgood]
  exact (if_neg (ne_true_of_eq_false hr)).trans (if_neg (ne_true_of_eq_false hf))

end

/-! ### The fabric that is left -/

/-- The steward's reads leave all but counters and which words memory holds errors in. -/
theorem Body.noted_stewardRead (o : Own) (b : Body) (rs : List (Nat × Nat)) : b.Noted (b.stewardRead o rs) := by
  unfold Body.stewardRead
  extract_lets sts
  obtain ⟨hinner, -, hparts, hmem⟩ := Body.eqs_of_readAlone
    (Body.readAlone_trans (b.readAlone_countReadsOf o rs) (Body.readAlone_lcSeen (b.countReadsOf o rs) sts))
  exact Body.Noted.trans ⟨hinner, hparts, congrArg Mem.cells hmem⟩ (Body.noted_correctedIn o _ rs)

theorem Body.fab_of_noted {b t : Body} (h : b.Noted t) : t.fab = b.fab := by
  obtain ⟨-, -, -, hfab, -⟩ := h.inner
  exact hfab

/-- The configuration of each link, with what its record says. -/
theorem Fab.cfg_configured (f : Fab) (m : Mem) (x : Xnx) (hc : f.cfg.length = 24) (l : Fin 24) :
    (f.configured m x).cfg.getD l.val LinkCfg.reset =
      (f.cfg.getD l.val LinkCfg.reset).recorded (linkRecAt m (xArg x 16 8) l.val) := by
  have hl := l.isLt
  have hlen : l.val < (f.configured m x).cfg.length := by simp [Fab.configured, hc]
  rw [List.getD_eq_getElem _ _ hlen, List.getD_eq_getElem _ _ (hc.symm ▸ hl)]
  simp [Fab.configured]

theorem Fab.route_configured (f : Fab) (m : Mem) (x : Xnx) : (f.configured m x).route = routeAt m (xArg x 8 8) := by
  rw [Fab.configured]

/-- The next sync is due at once. -/
theorem Fab.syncDue_configured (f : Fab) (m : Mem) (x : Xnx) : (f.configured m x).syncDue = true :=
  Bool.or_eq_true_iff.mpr (Or.inl (decide_eq_true (Nat.zero_le _)))

theorem LinkCfg.toNat_recorded (c : LinkCfg) (m : Mem) (a i : Nat) :
    (c.recorded (linkRecAt m a i)).expectLink.toNat = (linkRecAt m a i).link ∧
      (c.recorded (linkRecAt m a i)).role.toNat = (linkRecAt m a i).role :=
  ⟨(BitVec.toNat_ofNat _ _).trans (Nat.mod_eq_of_lt (m.le_lt _ 1)), (BitVec.toNat_ofNat _ _).trans (Nat.mod_eq_of_lt (m.le_lt _ 1))⟩

/-! ### The command -/

section
variable {s : State} {x : Xnx} (h : s.takesModule x = true) (hlen : x.len = 24) (harg : x.arg0 = 0)
include h hlen harg

theorem execFabCfg_eq {r : Xres} (hr : fabCfgAct x s.own (s.commandedWith 0x0301 x) = r) :
    exec (.fabCfg x) s = .next (s.concluded 0x0301 x r) :=
  hr ▸ State.xnx_module h (fabCfgAct x) (beq_iff_eq.mpr hlen) (beq_iff_eq.mpr harg)

theorem execFabCfg_done {b2 : Body} (hr : fabCfgAct x s.own (s.commandedWith 0x0301 x) = .done s.own b2 stOk 0 []) :
    exec (.fabCfg x) s = .next (s.answer s.own b2 x stOk 0 []) := execFabCfg_eq h hlen harg hr

/-- On the module page a foreign address is counted alone. -/
theorem execFabCfg_foreign (h7 : xArg x 7 1 = 0) (hin : ¬ fabTablesIn s.own x) : exec (.fabCfg x) s = .next (s.answer s.own
    ((s.commanded 0x0301 x).logForeign s.own .module (if inDram s.own (xArg x 8 8) 16384 then xArg x 16 8 else xArg x 8 8)) x
    stWorld 0 []) := by
  have hpage : x.page = .module := by
    simp only [State.takesModule, Bool.and_eq_true, beq_iff_eq] at h
    exact h.1.2
  have hexec := execFabCfg_eq h hlen harg (fabCfgAct_foreign (b := s.commandedWith 0x0301 x) h7 hin)
  unfold State.concluded at hexec
  rwa [hpage] at hexec

/-- FAB_CFG whose tables are in order changes the fabric's configuration, and counters of reads. -/
theorem execFabCfg_configures (h7 : xArg x 7 1 = 0) (hin : fabTablesIn s.own x) (hw : ¬ fabWide x) (ht : s.body.board.tripped = false)
    (hgood : (s.commandedWith 0x0301 x).firstBad s.own (fabReads x) = none)
    (hr : fabRecBad (s.commandedWith 0x0301 x).mem x = false) (hf : fabBadForm (s.commandedWith 0x0301 x) x = false) :
    ∃ b2, exec (.fabCfg x) s = .next (s.answer s.own b2 x stOk 0 []) ∧ (∀ a, b2.mem.byte a = s.body.mem.byte a) ∧
      b2.parts = s.body.parts ∧ b2.fab = s.body.fab.configured (s.commandedWith 0x0301 x).mem x := by
  have hnoted := (s.commandedWith 0x0301 x).noted_stewardRead s.own (fabReads x)
  have hexec := execFabCfg_done h hlen harg
    (fabCfgAct_sets h7 hin hw ((s.commandedWith_board 0x0301 x).symm ▸ ht) hgood hr hf)
  generalize hb : ((s.commandedWith 0x0301 x).stewardRead s.own (fabReads x)).updFab
      (·.configured (s.commandedWith 0x0301 x).mem x) = b2 at hexec
  refine ⟨b2, hexec, fun a => ?_, ?_, ?_⟩
  · rw [← hb, Body.updFab_mem, hnoted.byte, s.commandedWith_byte]
  · rw [← hb, Body.updFab_parts, hnoted.parts, s.commandedWith_parts]
  · rw [← hb, Body.updFab_fab, Body.fab_of_noted hnoted, s.commandedWith_fab]

/-- What FAB_CFG sets, by the bytes of its tables (R293, R300, R416). -/
theorem execFabCfg_sets (h7 : xArg x 7 1 = 0) (hin : fabTablesIn s.own x) (hw : ¬ fabWide x) (ht : s.body.board.tripped = false)
    (hgood : (s.commandedWith 0x0301 x).firstBad s.own (fabReads x) = none)
    (hr : fabRecBad (s.commandedWith 0x0301 x).mem x = false) (hf : fabBadForm (s.commandedWith 0x0301 x) x = false)
    (hcfg : s.body.fab.cfg.length = 24) :
    ∃ b2, exec (.fabCfg x) s = .next (s.answer s.own b2 x stOk 0 []) ∧ (∀ a, b2.mem.byte a = s.body.mem.byte a) ∧
      b2.parts = s.body.parts ∧
      b2.fab.devId = some (BitVec.ofNat 12 (xArg x 0 2)) ∧ b2.fab.wColl = xArg x 2 1 ∧ b2.fab.wData = xArg x 3 1 ∧
      b2.fab.gm = BitVec.ofNat 16 (xArg x 4 2) ∧ b2.fab.sync = BitVec.ofNat 8 (xArg x 6 1) ∧
      (∀ d, d < 4096 → b2.fab.entry d = BitVec.ofNat 32 (s.body.mem.le (xArg x 8 8 + 4 * d) 4)) ∧
      (∀ l : Fin 24, let r := linkRecAt s.body.mem (xArg x 16 8) l.val
        (b2.linkCfg l).expectId = BitVec.ofNat 56 r.id ∧ (b2.linkCfg l).expectLink.toNat = r.link ∧
          (b2.linkCfg l).role.toNat = r.role ∧ (b2.linkCfg l).savedKey = (s.body.linkCfg l).savedKey) ∧
      b2.fab.links = s.body.fab.links ∧ b2.fab.time = s.body.fab.time ∧
      b2.fab.locked = decide (xArg x 4 2 = xArg x 0 2) ∧ b2.fab.syncDue = true := by
  obtain ⟨b2, hexec, hbyte, hparts, hfab⟩ := execFabCfg_configures h hlen harg h7 hin hw ht hgood hr hf
  have hroute : b2.fab.route = routeAt (s.commandedWith 0x0301 x).mem (xArg x 8 8) :=
    (congrArg Fab.route hfab).trans (Fab.route_configured _ _ _)
  have hrec : ∀ l : Fin 24, b2.linkCfg l = (s.body.linkCfg l).recorded (linkRecAt s.body.mem (xArg x 16 8) l.val) := fun l => by
    unfold Body.linkCfg
    rw [hfab, Fab.cfg_configured _ _ _ hcfg l, s.commandedWith_linkRecAt]
  refine ⟨b2, hexec, hbyte, hparts, hfab ▸ rfl, hfab ▸ rfl, hfab ▸ rfl, hfab ▸ rfl, hfab ▸ rfl, fun d hd => ?entries,
    fun l => ?records, hfab ▸ rfl, hfab ▸ rfl, hfab ▸ rfl, hfab ▸ Fab.syncDue_configured _ _ _⟩
  case entries => rw [entry_routeAt _ _ hd hroute, s.commandedWith_le]
  case records =>
    obtain ⟨hlink, hrole⟩ := LinkCfg.toNat_recorded (s.body.linkCfg l) s.body.mem (xArg x 16 8) l.val
    rw [hrec l]
    exact ⟨rfl, hlink, hrole, rfl⟩

end

end Sys2Proof.Machine

/-! PROOFS. LINK_ENABLE, LINK_DISABLE, FAB_ADMIT and FAB_TIME: each outcome of their rules (R284, R298, R300, R416, R497; O54). -/

namespace Sys2Proof.Machine

open Sys2Proof

/-! ### LINK_ENABLE and LINK_DISABLE -/

/-- The link that ARG0 names. -/
theorem linkArg_of {x : Xnx} {l : Fin 24} (h : x.arg0 = l.val) : linkArg x = l := by
  unfold linkArg
  rw [h]
  exact Fin.ofNat_val_eq_self l

/-- The partner of a trained link is the one expected, or none is (R298). -/
def LinkCfg.Expects (c : LinkCfg) (y : Link) : Prop :=
  c.expectId = 0 ∨ (c.expectId = y.peerId ∧ c.expectLink.toNat = y.peerLink.toNat)

theorem LinkCfg.expects_iff {c : LinkCfg} {y : Link} : c.expects y = true ↔ c.Expects y := by
  simp only [LinkCfg.expects, LinkCfg.Expects, Bool.or_eq_true, Bool.and_eq_true, beq_iff_eq]

/-- The link has trained, and waits to be enabled (R298). -/
def Link.Trained (y : Link) : Prop := y.state = .notReady ∨ y.state = .mismatch ∨ y.state = .tooLong

section
variable {x : Xnx} {o : Own} {b : Body} {l : Fin 24} (hx : x.arg0 = l.val)
include hx

theorem linkEnableAct_up (hs : (b.link l).state = .up) : linkEnableAct x o b = .done o b stOk 0 [] := by
  unfold linkEnableAct
  rw [linkArg_of hx]
  dsimp only
  rw [hs]

theorem linkEnableAct_off (hs : (b.link l).state = .off) : linkEnableAct x o b =
    .done o (b.updLink l fun y => { y with state := if b.board.fabRef then .training else .off, disabled := false }) stOk 0 [] := by
  unfold linkEnableAct
  rw [linkArg_of hx]
  dsimp only
  rw [hs]

theorem linkEnableAct_trains (hs : (b.link l).state = .training ∨ (b.link l).state = .lost) :
    linkEnableAct x o b = .refused stBounds 0 := by
  unfold linkEnableAct
  rw [linkArg_of hx]
  dsimp only
  rcases hs with hs | hs <;> rw [hs]

variable (hs : (b.link l).Trained)
include hs

theorem linkEnableAct_trained : linkEnableAct x o b =
    if !(b.linkCfg l).expects (b.link l) then .done o (b.updLink l fun y => { y with state := .mismatch, enabled := false }) stBounds 0 []
    else if (b.link l).rtt.toNat > 1900 then .done o (b.updLink l fun y => { y with state := .tooLong, enabled := false }) stBounds 0 []
    else .done o (b.updLink l fun y => { y with state := .notReady, enabled := true }) stOk 0 [] := by
  unfold linkEnableAct
  rw [linkArg_of hx]
  dsimp only
  rcases hs with hs | hs | hs <;> rw [hs]

theorem linkEnableAct_stranger (he : ¬ (b.linkCfg l).Expects (b.link l)) : linkEnableAct x o b =
    .done o (b.updLink l fun y => { y with state := .mismatch, enabled := false }) stBounds 0 [] :=
  (linkEnableAct_trained hx hs).trans (if_pos (by rw [Bool.eq_false_iff.mpr (mt LinkCfg.expects_iff.mp he)]; rfl))

variable (he : (b.linkCfg l).Expects (b.link l))
include he

theorem linkEnableAct_far (hr : 1900 < (b.link l).rtt.toNat) : linkEnableAct x o b =
    .done o (b.updLink l fun y => { y with state := .tooLong, enabled := false }) stBounds 0 [] :=
  (linkEnableAct_trained hx hs).trans ((if_neg (by rw [LinkCfg.expects_iff.mpr he]; decide)).trans (if_pos hr))

theorem linkEnableAct_enables (hr : (b.link l).rtt.toNat ≤ 1900) : linkEnableAct x o b =
    .done o (b.updLink l fun y => { y with state := .notReady, enabled := true }) stOk 0 [] :=
  (linkEnableAct_trained hx hs).trans ((if_neg (by rw [LinkCfg.expects_iff.mpr he]; decide)).trans (if_neg (Nat.not_lt.mpr hr)))

end

/-- A link that is switched off: empty, squelched, and kept off (R416). -/
def Link.shut (y : Link) : Link := { y.quiet with state := .off, disabled := true }

theorem Link.shut_spec (y : Link) : y.shut.state = .off ∧ y.shut.disabled = true ∧ y.shut.heldBlocks = [] ∧ y.shut.enabled = false ∧
    ∀ c, y.shut.txq.getD c [] = [] := by
  refine ⟨rfl, rfl, rfl, rfl, fun c => ?_⟩
  have hq : y.shut.txq = List.replicate 6 [] := rfl
  rw [hq, List.getD_eq_getElem?_getD, List.getElem?_replicate]
  split <;> rfl

theorem linkDisableAct_eq {x : Xnx} (o : Own) (b : Body) {l : Fin 24} (hx : x.arg0 = l.val) :
    linkDisableAct x o b = .done o (b.updLink l Link.shut) stOk 0 [] := by
  unfold linkDisableAct
  rw [linkArg_of hx]
  rfl

section
variable {s : State} {x : Xnx} {l : Fin 24} (h : s.takesModule x = true) (hlen : x.len = 0) (harg : x.arg0 = l.val)
include h hlen harg

theorem execLinkEnable_eq {r : Xres} (hr : linkEnableAct x s.own (s.commandedWith 0x0302 x) = r) :
    exec (.linkEnable x) s = .next (s.concluded 0x0302 x r) :=
  hr ▸ State.xnx_module h (linkEnableAct x) (beq_iff_eq.mpr hlen) (decide_eq_true (by rw [harg]; exact l.isLt))

theorem execLinkEnable_off (hs : (s.body.link l).state = .off) : exec (.linkEnable x) s = .next (s.answer s.own
    ((s.commandedWith 0x0302 x).updLink l fun y =>
      { y with state := if s.body.board.fabRef then .training else .off, disabled := false }) x stOk 0 []) := by
  have hexec := execLinkEnable_eq h hlen harg (linkEnableAct_off harg ((s.commandedWith_link 0x0302 x l).symm ▸ hs))
  rwa [s.commandedWith_board] at hexec

/-- A trained link is enabled, or put into STATE 5 or 6, by its partner and the round trip (R298; log entry 101). -/
theorem execLinkEnable_trained (hs : (s.body.link l).Trained) :
    let enables (f : Link → Link) (st : W16) : Prop :=
      exec (.linkEnable x) s = .next (s.answer s.own ((s.commandedWith 0x0302 x).updLink l f) x st 0 [])
    let ok := (s.body.linkCfg l).Expects (s.body.link l)
    (ok → (s.body.link l).rtt.toNat ≤ 1900 → enables (fun y => { y with state := .notReady, enabled := true }) stOk) ∧
      (ok → 1900 < (s.body.link l).rtt.toNat → enables (fun y => { y with state := .tooLong, enabled := false }) stBounds) ∧
      (¬ ok → enables (fun y => { y with state := .mismatch, enabled := false }) stBounds) := by
  have hlink := (s.commandedWith_link 0x0302 x l).symm
  have hcfg := (s.commandedWith_linkCfg 0x0302 x l).symm
  rw [hlink] at hs ⊢
  rw [hcfg]
  exact ⟨fun he hr => execLinkEnable_eq h hlen harg (linkEnableAct_enables harg hs he hr),
    fun he hr => execLinkEnable_eq h hlen harg (linkEnableAct_far harg hs he hr),
    fun he => execLinkEnable_eq h hlen harg (linkEnableAct_stranger harg hs he)⟩

theorem execLinkDisable_shuts (hl : s.body.fab.links.length = 24) :
    ∃ b2, exec (.linkDisable x) s = .next (s.answer s.own b2 x stOk 0 []) ∧ (∀ a, b2.mem.byte a = s.body.mem.byte a) ∧
      b2.parts = s.body.parts ∧ (b2.link l).state = .off ∧ (b2.link l).disabled = true ∧ (b2.link l).heldBlocks = [] ∧
      (b2.link l).enabled = false ∧ (∀ c, (b2.link l).txq.getD c [] = []) ∧ ∀ m, m ≠ l → b2.link m = s.body.link m := by
  have hexec : exec (.linkDisable x) s =
      .next (s.concluded 0x0303 x (.done s.own ((s.commandedWith 0x0303 x).updLink l Link.shut) stOk 0 [])) :=
    linkDisableAct_eq s.own (s.commandedWith 0x0303 x) harg ▸
      State.xnx_module h (linkDisableAct x) (beq_iff_eq.mpr hlen) (decide_eq_true (by rw [harg]; exact l.isLt))
  have hself : ((s.commandedWith 0x0303 x).updLink l Link.shut).link l = ((s.commandedWith 0x0303 x).link l).shut :=
    Body.link_updLink _ l _ (by rw [s.commandedWith_fab, hl]; exact l.isLt)
  obtain ⟨hoff, hdis, hheld, hen, hq⟩ := ((s.commandedWith 0x0303 x).link l).shut_spec
  refine ⟨_, hexec, s.commandedWith_byte 0x0303 x, s.commandedWith_parts 0x0303 x, ?_⟩
  rw [hself]
  exact ⟨hoff, hdis, hheld, hen, hq, fun m hm => (Body.link_updLink_ne _ l m _ hm).trans (s.commandedWith_link 0x0303 x m)⟩

end

/-! ### FAB_ADMIT and FAB_TIME -/

/-- A class, a reserved byte or a source of FAB_ADMIT that its format does not have (R416). -/
def admitBadForm (x : Xnx) : Prop := 4 ≤ xArg x 0 1 ∨ xArg x 1 1 ≠ 0 ∨ ∃ i, i < xArg x 2 2 ∧ 0x8000 ≤ xArg x (4 + 2 * i) 2

/-- The sources that FAB_ADMIT lists. -/
def admitSources (x : Xnx) : List W16 := (List.range (xArg x 2 2)).map fun i => BitVec.ofNat 16 (xArg x (4 + 2 * i) 2)

theorem admitSources_any (x : Xnx) : (admitSources x).any (fun w => decide (w.toNat ≥ 0x8000)) = true ↔
    ∃ i, i < xArg x 2 2 ∧ 0x8000 ≤ xArg x (4 + 2 * i) 2 := by
  have hsrc : ∀ i, (BitVec.ofNat 16 (xArg x (4 + 2 * i) 2)).toNat = xArg x (4 + 2 * i) 2 := fun i =>
    (BitVec.toNat_ofNat _ _).trans (Nat.mod_eq_of_lt (field_lt x.args _ 2))
  simp only [admitSources, List.any_map, List.any_eq_true, List.mem_range, Function.comp, decide_eq_true_eq, hsrc, ge_iff_le]

theorem admitBadForm_iff (x : Xnx) : (xArg x 0 1 ≥ 4 ∨ xArg x 1 1 ≠ 0 ∨ (admitSources x).any (fun w => decide (w.toNat ≥ 0x8000)) = true) ↔
    admitBadForm x := by
  rw [admitSources_any]
  rfl

section
variable {x : Xnx} {o : Own} {b : Body} {p : Fin 8} (hx : x.page = .part p)
include hx

theorem fabAdmitAct_badForm (h : admitBadForm x) : fabAdmitAct x o b = .refused stFormat 0 := by
  unfold fabAdmitAct
  rw [onPart_of hx]
  exact if_pos ((admitBadForm_iff x).mpr h)

variable (h : ¬ admitBadForm x)
include h

theorem fabAdmitAct_many (hn : 1024 < xArg x 2 2) : fabAdmitAct x o b = .refused stBounds 0 := by
  unfold fabAdmitAct
  rw [onPart_of hx]
  exact (if_neg (mt (admitBadForm_iff x).mp h)).trans (if_pos hn)

theorem fabAdmitAct_sets (hn : xArg x 2 2 ≤ 1024) :
    fabAdmitAct x o b = .done o (b.updPart p fun y => { y with admission := Claims.admission x }) stOk 0 [] := by
  unfold fabAdmitAct
  rw [onPart_of hx]
  exact (if_neg (mt (admitBadForm_iff x).mp h)).trans (if_neg (Nat.not_lt.mpr hn))

end

section
variable {s : State} {x : Xnx} {p : Fin 8} (h : s.takesOn x p = true) (harg : x.arg0 = 0)
include h harg

theorem execFabAdmit_eq (hlen : x.len = 4 + 2 * xArg x 2 2) {r : Xres} (hr : fabAdmitAct x s.own (s.commandedWith 0x0304 x) = r) :
    exec (.fabAdmit x) s = .next (s.concluded 0x0304 x r) :=
  hr ▸ State.xnx_part h (fabAdmitAct x) (beq_iff_eq.mpr hlen) (beq_iff_eq.mpr harg)

theorem execFabTime_reads (hlen : x.len = 0) : exec (.fabTime x) s = .next (s.answer s.own (s.commandedWith 0x0305 x) x stOk 0
    (leBytes 6 (s.body.fab.time / 1000000000) ++ leBytes 4 (s.body.fab.time % 1000000000) ++ [if s.body.fab.locked then 1 else 0])) := by
  have hexec : exec (.fabTime x) s = .next (s.concluded 0x0305 x (fabTimeAct s.own (s.commandedWith 0x0305 x))) :=
    State.xnx_part h fabTimeAct (beq_iff_eq.mpr hlen) (beq_iff_eq.mpr harg)
  unfold fabTimeAct at hexec
  rwa [s.commandedWith_fab] at hexec

end

/-! ### The statement -/

/-- The records' and the tables' faults, by the bytes that memory held before the command. -/
theorem State.fabRecBad_iff (s : State) (x : Xnx) : fabRecBad (s.commandedWith 0x0301 x).mem x = true ↔
    ∃ i, i < 24 ∧ (3 < (linkRecAt s.body.mem (xArg x 16 8) i).role ∨ 23 < (linkRecAt s.body.mem (xArg x 16 8) i).link) := by
  simp only [Machine.fabRecBad_iff, s.commandedWith_linkRecAt]

theorem State.fabBadForm_iff {s : State} {x : Xnx} (hl : s.body.fab.links.length = 24) (hw : ¬ fabWide x) :
    fabBadForm (s.commandedWith 0x0301 x) x = true ↔
      (∃ l, (s.body.link l).up = true) ∨ s.body.mem.le (xArg x 8 8 + 4 * xArg x 0 2) 4 / 2 ^ 25 % 2 = 0 ∨
        s.body.mem.le (xArg x 8 8 + 4 * xArg x 0 2) 4 % 2 ^ 24 ≠ 0 ∨
        (∃ i, i < 4096 ∧ 2 ^ 26 ≤ s.body.mem.le (xArg x 8 8 + 4 * i) 4) ∨
        ∃ i, i < 24 ∧ (linkRecAt s.body.mem (xArg x 16 8) i).rsv ≠ 0 := by
  have hd : xArg x 0 2 < 4096 := Nat.lt_of_not_le fun hge => hw (Or.inl hge)
  rw [Machine.fabBadForm_iff (by rw [s.commandedWith_fab, hl]) hd]
  simp only [s.commandedWith_link, s.commandedWith_le, s.commandedWith_linkRecAt]

/-- Settles O54: FAB_CFG by its checks in order and the fabric that it leaves, then the outcomes of the four smaller commands. -/
theorem fabricConfiguration : Obligations.FabricConfiguration := by
  unfold Obligations.FabricConfiguration
  refine ⟨fun s x h hlen harg hl hcfg => ?fabCfg, fun s x l h hlen harg hl => ?links, fun s x p h harg => ?partition⟩
  case fabCfg =>
    refine ⟨fun h7 => execFabCfg_eq h hlen harg (fabCfgAct_reserved h7), fun h7 hin => execFabCfg_foreign h hlen harg h7 hin,
      fun h7 hin hw => execFabCfg_eq h hlen harg (fabCfgAct_wide h7 hin hw),
      fun h7 hin hw ht => execFabCfg_eq h hlen harg (fabCfgAct_waits h7 hin hw ((s.commandedWith_board 0x0301 x).symm ▸ ht)),
      fun h7 hin hw ht => ?reads⟩
    have ht2 : (s.commandedWith 0x0301 x).board.tripped = false := (s.commandedWith_board 0x0301 x).symm ▸ ht
    have hrec := s.fabRecBad_iff x
    have hform := State.fabBadForm_iff hl hw
    refine ⟨fun w hbad => execFabCfg_eq h hlen harg (fabCfgAct_unreadable h7 hin hw ht2 hbad), fun hgood =>
      ⟨fun hr => execFabCfg_eq h hlen harg (fabCfgAct_recBad h7 hin hw ht2 hgood (hrec.mpr hr)), fun hr hf => ?_, fun hr hf => ?_⟩⟩
    · exact execFabCfg_eq h hlen harg
        (fabCfgAct_badForm h7 hin hw ht2 hgood (Bool.eq_false_iff.mpr (mt hrec.mp hr)) (hform.mpr hf))
    · exact execFabCfg_sets h hlen harg h7 hin hw ht hgood (Bool.eq_false_iff.mpr (mt hrec.mp hr))
        (Bool.eq_false_iff.mpr (mt hform.mp hf)) hcfg
  case links =>
    have hlink := (s.commandedWith_link 0x0302 x l).symm
    refine ⟨fun hs => execLinkEnable_eq h hlen harg (linkEnableAct_up harg (hlink ▸ hs)), execLinkEnable_off h hlen harg,
      fun hs => execLinkEnable_eq h hlen harg (linkEnableAct_trains harg (hlink ▸ hs)), execLinkEnable_trained h hlen harg,
      execLinkDisable_shuts h hlen harg hl⟩
  case partition =>
    have hpage := page_of_takesOn h
    exact ⟨fun hlen => ⟨fun hf => execFabAdmit_eq h harg hlen (fabAdmitAct_badForm hpage hf),
      fun hf hn => execFabAdmit_eq h harg hlen (fabAdmitAct_many hpage hf hn),
      fun hf hn => execFabAdmit_eq h harg hlen (fabAdmitAct_sets hpage hf hn)⟩, execFabTime_reads h harg⟩

end Sys2Proof.Machine

/-! PROOFS. The rules of the mailbox commands that leave ownership as it is, and ownership along every command that is not named as
changing it (R208, R396, R397, R425 to R427, R443, R457; O4). -/

namespace Sys2Proof.Machine

open Sys2Proof

/-! ### What a mailbox command's answer does to ownership -/

/-- A rule's answer leaves ownership as it is. -/
def Xres.KeepsOwn (o : Own) : Xres → Prop
  | .done o2 _ _ _ _ => o2 = o
  | .pending o2 _ => o2 = o
  | .refused _ _ => True
  | .foreign _ => True

theorem Xres.keepsOwn_ite {o : Own} {c : Prop} [Decidable c] {r r2 : Xres} (h : r.KeepsOwn o) (h2 : r2.KeepsOwn o) :
    (if c then r else r2).KeepsOwn o := by
  split
  · exact h
  · exact h2

open Xres (keepsOwn_ite)

theorem onPart_keepsOwn {o : Own} {x : Xnx} {f : Fin 8 → Xres} (h : ∀ p, (f p).KeepsOwn o) : (onPart x f).KeepsOwn o := by
  unfold onPart
  split
  · exact h _
  · exact trivial

theorem repairAct_keepsOwn {o : Own} {x : Xnx} {f : Fin 24 → Xres} (h : ∀ st, (f st).KeepsOwn o) : (repairAct x o f).KeepsOwn o := by
  unfold repairAct
  split
  · exact trivial
  · exact keepsOwn_ite trivial (h _)

section
variable {x : Xnx} {on : OnPage} {lenOk arg0Ok : Bool} {act : Own → Body → Xres} (ha : ∀ o b, (act o b).KeepsOwn o)
include ha

theorem own_carryOut (o : Own) (b : Body) : (carryOut o b x on lenOk arg0Ok act).1 = o := by
  have hr := ha o (b.upset x.ecc)
  unfold carryOut
  split
  · rfl
  · cases hact : act o (b.upset x.ecc) with
    | refused st d => rfl
    | foreign a => rfl
    | done o2 b2 st d r => rwa [hact] at hr
    | pending o2 b2 => rwa [hact] at hr

theorem own_goXnx (o : Own) (b : Body) (code : Nat) : (goXnx o b code x on lenOk arg0Ok act).1 = o := by
  unfold goXnx
  dsimp only
  split
  · split
    · exact own_carryOut ha _ _
    · rfl
  · split
    · rfl
    · split
      · exact own_carryOut ha _ _
      · rfl

theorem own_runXnx (o : Own) (b : Body) (code : Nat) : (runXnx o b code x on lenOk arg0Ok act).1 = o := by
  unfold runXnx
  split
  · rfl
  · split
    · rfl
    · exact own_goXnx ha _ _ _

end

/-! ### Ownership through the outcomes of a command -/

section
variable {s t : State}

theorem State.own_onBody {f : Own → Body → Body} (h : s.onBody f = .next t) : t.own = s.own := by
  unfold State.onBody at h
  split at h <;> cases h <;> rfl

theorem State.own_always {f : Own → Body → Own × Body} (hf : ∀ o b, (f o b).1 = o) (h : s.always f = .next t) : t.own = s.own := by
  cases h
  exact hf _ _

theorem State.own_always_body {f : Own → Body → Body} (h : (s.always fun o b => (o, f o b)) = .next t) : t.own = s.own :=
  State.own_always (f := fun o b => (o, f o b)) (fun _ _ => rfl) h

theorem State.own_both {f : Own → Body → Own × Body} (hf : ∀ o b, (f o b).1 = o) (h : s.both f = .next t) : t.own = s.own := by
  unfold State.both at h
  split at h
  · exact State.own_always hf h
  · cases h
    rfl

theorem State.own_xnx {x : Xnx} {code : Nat} {on : OnPage} {lenOk arg0Ok : Bool} {act : Own → Body → Xres}
    (ha : ∀ o b, (act o b).KeepsOwn o) (h : s.xnx code x on lenOk arg0Ok act = .next t) : t.own = s.own :=
  State.own_both (fun o b => own_runXnx ha o b code) h

end

/-! ### Each rule -/

section
variable (x : Xnx) (o : Own) (b : Body)

theorem nopAct_keepsOwn : (nopAct o b).KeepsOwn o := rfl

theorem telemSnapAct_keepsOwn : (telemSnapAct x o b).KeepsOwn o := onPart_keepsOwn fun _ => keepsOwn_ite trivial rfl

theorem eventReadAct_keepsOwn : (eventReadAct x o b).KeepsOwn o := onPart_keepsOwn fun _ => keepsOwn_ite trivial rfl

theorem pressReadAct_keepsOwn : (pressReadAct x o b).KeepsOwn o := by
  refine onPart_keepsOwn fun p => ?_
  dsimp only
  split
  next => exact trivial
  next c => exact keepsOwn_ite trivial (keepsOwn_ite trivial (keepsOwn_ite trivial (by split <;> rfl)))

theorem caveReadAct_keepsOwn : (caveReadAct x o b).KeepsOwn o :=
  onPart_keepsOwn fun _ => keepsOwn_ite trivial (by split <;> rfl)

theorem caveWriteAct_keepsOwn : (caveWriteAct x o b).KeepsOwn o :=
  onPart_keepsOwn fun _ => keepsOwn_ite trivial (by split <;> rfl)

theorem backupWriteAct_keepsOwn : (backupWriteAct x o b).KeepsOwn o := onPart_keepsOwn fun _ => rfl

theorem harvestCfgAct_keepsOwn : (harvestCfgAct x o b).KeepsOwn o :=
  onPart_keepsOwn fun _ =>
    keepsOwn_ite trivial (keepsOwn_ite trivial (keepsOwn_ite trivial (keepsOwn_ite rfl (keepsOwn_ite rfl rfl))))

theorem hostCopyAct_keepsOwn : (hostCopyAct x o b).KeepsOwn o :=
  onPart_keepsOwn fun _ => keepsOwn_ite trivial (keepsOwn_ite trivial rfl)

theorem fabCfgAct_keepsOwn : (fabCfgAct x o b).KeepsOwn o := by
  refine keepsOwn_ite trivial (keepsOwn_ite trivial (keepsOwn_ite trivial (keepsOwn_ite rfl ?_)))
  split
  next w => split <;> rfl
  next => exact keepsOwn_ite trivial (keepsOwn_ite trivial rfl)

theorem linkEnableAct_keepsOwn : (linkEnableAct x o b).KeepsOwn o := by
  unfold linkEnableAct
  dsimp only
  split
  case h_1 => rfl
  case h_2 => rfl
  case h_3 => exact trivial
  case h_4 => exact trivial
  case h_5 => exact keepsOwn_ite rfl (keepsOwn_ite rfl rfl)

theorem linkDisableAct_keepsOwn : (linkDisableAct x o b).KeepsOwn o := rfl

theorem fabAdmitAct_keepsOwn : (fabAdmitAct x o b).KeepsOwn o :=
  onPart_keepsOwn fun _ => keepsOwn_ite trivial (keepsOwn_ite trivial rfl)

theorem fabTimeAct_keepsOwn : (fabTimeAct o b).KeepsOwn o := rfl

theorem updParamsAct_keepsOwn : (updParamsAct x o b).KeepsOwn o :=
  onPart_keepsOwn fun _ => keepsOwn_ite trivial (keepsOwn_ite trivial rfl)

theorem updRecoverAct_keepsOwn : (updRecoverAct x o b).KeepsOwn o := by
  refine onPart_keepsOwn fun p => keepsOwn_ite trivial (keepsOwn_ite rfl ?_)
  dsimp only
  split
  next w => rfl
  next => exact keepsOwn_ite trivial rfl

theorem replCfgAct_keepsOwn : (replCfgAct x o b).KeepsOwn o := by
  refine onPart_keepsOwn fun p => keepsOwn_ite trivial (keepsOwn_ite trivial (keepsOwn_ite trivial (keepsOwn_ite rfl ?_)))
  dsimp only
  split
  next w => rfl
  next => exact keepsOwn_ite trivial rfl

theorem replRepairAct_keepsOwn (segments : List (Nat × List Byte)) (after : List (List W64)) :
    (replRepairAct x segments after o b).KeepsOwn o := by
  refine onPart_keepsOwn fun p => ?_
  dsimp only
  split
  next k q j g =>
    refine keepsOwn_ite trivial (keepsOwn_ite rfl ?_)
    split
    next w => rfl
    next => exact keepsOwn_ite rfl rfl
  next => exact trivial

theorem collCfgAct_keepsOwn : (collCfgAct x o b).KeepsOwn o := by
  refine onPart_keepsOwn fun p => keepsOwn_ite trivial (keepsOwn_ite trivial (keepsOwn_ite trivial (keepsOwn_ite rfl ?_)))
  split
  next w => rfl
  next => exact keepsOwn_ite trivial rfl

theorem mediaCfgAct_keepsOwn : (mediaCfgAct x o b).KeepsOwn o :=
  onPart_keepsOwn fun _ =>
    keepsOwn_ite trivial (keepsOwn_ite trivial (keepsOwn_ite trivial (keepsOwn_ite trivial (keepsOwn_ite trivial rfl))))

theorem mediaStreamAct_keepsOwn : (mediaStreamAct x o b).KeepsOwn o :=
  onPart_keepsOwn fun _ => keepsOwn_ite trivial (keepsOwn_ite trivial (keepsOwn_ite trivial (keepsOwn_ite trivial rfl)))

theorem mediaVocabAct_keepsOwn : (mediaVocabAct x o b).KeepsOwn o :=
  onPart_keepsOwn fun _ => keepsOwn_ite trivial (keepsOwn_ite trivial (keepsOwn_ite trivial rfl))

theorem mediaEncodeAct_keepsOwn : (mediaEncodeAct x o b).KeepsOwn o :=
  onPart_keepsOwn fun _ => keepsOwn_ite trivial (keepsOwn_ite trivial (keepsOwn_ite trivial (keepsOwn_ite trivial rfl)))

theorem mediaAlignAct_keepsOwn : (mediaAlignAct x o b).KeepsOwn o := by
  refine onPart_keepsOwn fun p => keepsOwn_ite trivial ?_
  split
  next r => exact trivial
  next => exact keepsOwn_ite trivial rfl

theorem preemptAct_keepsOwn : (preemptAct x o b).KeepsOwn o := by
  refine onPart_keepsOwn fun p => keepsOwn_ite rfl ?_
  split
  case h_1 => rfl
  case h_2 => rfl
  case h_3 => rfl
  case h_4 => rfl
  case h_5 => rfl
  case h_6 => exact keepsOwn_ite rfl rfl
  case h_7 => exact keepsOwn_ite rfl rfl

theorem resumeAct_keepsOwn : (resumeAct x o b).KeepsOwn o :=
  onPart_keepsOwn fun _ => keepsOwn_ite rfl (keepsOwn_ite trivial rfl)

theorem invokeAct_keepsOwn : (invokeAct x o b).KeepsOwn o :=
  onPart_keepsOwn fun _ => keepsOwn_ite trivial (keepsOwn_ite trivial (keepsOwn_ite rfl (keepsOwn_ite trivial
    (keepsOwn_ite trivial (keepsOwn_ite rfl (keepsOwn_ite rfl (keepsOwn_ite rfl rfl)))))))

theorem btCommitAct_keepsOwn : (btCommitAct x o b).KeepsOwn o := by
  refine onPart_keepsOwn fun p => ?_
  dsimp only
  split
  next => exact trivial
  next r =>
    refine keepsOwn_ite trivial (keepsOwn_ite rfl ?_)
    split
    case h_1 => rfl
    case h_2 => rfl
    case h_3 => exact trivial
    case h_4 => rfl

theorem almLoadAct_keepsOwn : (almLoadAct x o b).KeepsOwn o := by
  refine onPart_keepsOwn fun p => keepsOwn_ite trivial (keepsOwn_ite rfl ?_)
  dsimp only
  split
  next w => rfl
  next => exact keepsOwn_ite trivial (keepsOwn_ite trivial (keepsOwn_ite trivial (keepsOwn_ite trivial rfl)))

theorem almUnloadAct_keepsOwn : (almUnloadAct x o b).KeepsOwn o :=
  onPart_keepsOwn fun _ => keepsOwn_ite trivial (keepsOwn_ite trivial rfl)

theorem fwStageAct_keepsOwn (tree : List (BitVec 12)) (image : List Byte) : (fwStageAct x tree image o b).KeepsOwn o :=
  keepsOwn_ite trivial (keepsOwn_ite trivial (keepsOwn_ite trivial rfl))

theorem fwStatusAct_keepsOwn : (fwStatusAct o b).KeepsOwn o := rfl

theorem fwCommitAct_keepsOwn : (fwCommitAct x o b).KeepsOwn o :=
  keepsOwn_ite trivial (keepsOwn_ite trivial (keepsOwn_ite trivial rfl))

/-- PART_RESET ends the partition's work, and leaves it its units (R427). -/
theorem partResetAct_keepsOwn : (partResetAct x o b).KeepsOwn o := keepsOwn_ite trivial (keepsOwn_ite trivial rfl)

theorem stkTestAct_keepsOwn : (stkTestAct x o b).KeepsOwn o := keepsOwn_ite trivial (repairAct_keepsOwn fun _ => rfl)

theorem pprQueryAct_keepsOwn : (pprQueryAct x o b).KeepsOwn o := repairAct_keepsOwn fun _ => rfl

theorem pprCandAct_keepsOwn : (pprCandAct x o b).KeepsOwn o := repairAct_keepsOwn fun _ => rfl

theorem pprSoftAct_keepsOwn : (pprSoftAct x o b).KeepsOwn o :=
  keepsOwn_ite trivial (repairAct_keepsOwn fun _ => keepsOwn_ite trivial rfl)

theorem pprHardAct_keepsOwn : (pprHardAct x o b).KeepsOwn o :=
  keepsOwn_ite trivial (repairAct_keepsOwn fun _ => keepsOwn_ite trivial rfl)

end

/-! ### Commands outside the mailboxes -/

/-- A test instruction that holds reset asks for a warm reset; the reset, not the instruction, changes ownership (R502). -/
theorem own_tapLoad {i : TapInstr} (hi : tapHolds i = true) (o : Own) (b : Body) : (tapLoad i o b).1 = o := by
  unfold tapLoad
  dsimp only
  rw [hi]
  split <;> rfl

theorem own_execPreempt {x : Xnx} {s t : State} (h : execPreempt x s = .next t) : t.own = s.own := by
  refine State.own_both (fun o b => ?_) h
  dsimp only
  split <;> exact own_runXnx (preemptAct_keepsOwn x) o b _

theorem own_smbRead {f : Body → List Byte} {s t : State} (h : smbRead f s = .next t) : t.own = s.own := State.own_always_body h

/-- Settles O4: the mailbox commands by their rules, the pins, pads and test instructions by what they answer; every other command acts
on the body alone. -/
theorem ownershipChangedOnlyBy : Obligations.OwnershipChangedOnlyBy := by
  unfold Obligations.OwnershipChangedOnlyBy
  intro c s t hc h
  cases c
  -- the commands that are named
  case semAcquire | semRelease | portReset | portLinkDownTimeout => cases hc
  case partCreate | partCreateComplete | partModify | partModifyComplete | partDelete | partDeleteComplete => cases hc
  case tapReset | bypass | idcode | samplePreload | tapLeaveExtest => cases hc
  case moduleShutdown | powerOnReset | resetNLow | warmReset | sagResetRelease | referenceClockReturn | moduleReady => cases hc
  -- the mailbox commands
  case nop x => exact State.own_xnx nopAct_keepsOwn h
  case unknownXnxCode x code => exact State.own_xnx (act := fun _ _ => .refused stFormat 0) (fun _ _ => trivial) h
  case telemSnap x => exact State.own_xnx (telemSnapAct_keepsOwn x) h
  case eventRead x => exact State.own_xnx (eventReadAct_keepsOwn x) h
  case pressRead x => exact State.own_xnx (pressReadAct_keepsOwn x) h
  case caveRead x => exact State.own_xnx (caveReadAct_keepsOwn x) h
  case caveWrite x => exact State.own_xnx (caveWriteAct_keepsOwn x) h
  case backupWrite x => exact State.own_xnx (backupWriteAct_keepsOwn x) h
  case harvestCfg x => exact State.own_xnx (harvestCfgAct_keepsOwn x) h
  case hostCopy x => exact State.own_xnx (hostCopyAct_keepsOwn x) h
  case almLoad x => exact State.own_xnx (almLoadAct_keepsOwn x) h
  case almUnload x => exact State.own_xnx (almUnloadAct_keepsOwn x) h
  case invoke x => exact State.own_xnx (invokeAct_keepsOwn x) h
  case preempt x => exact own_execPreempt h
  case resume x => exact State.own_xnx (resumeAct_keepsOwn x) h
  case btCommit x => exact State.own_xnx (btCommitAct_keepsOwn x) h
  case updParams x => exact State.own_xnx (updParamsAct_keepsOwn x) h
  case updRecover x => exact State.own_xnx (updRecoverAct_keepsOwn x) h
  case replCfg x => exact State.own_xnx (replCfgAct_keepsOwn x) h
  case replRepair x data => exact State.own_xnx (fun o b => replRepairAct_keepsOwn x o b data.segments data.after) h
  case fabCfg x => exact State.own_xnx (fabCfgAct_keepsOwn x) h
  case linkEnable x => exact State.own_xnx (linkEnableAct_keepsOwn x) h
  case linkDisable x => exact State.own_xnx (linkDisableAct_keepsOwn x) h
  case fabAdmit x => exact State.own_xnx (fabAdmitAct_keepsOwn x) h
  case fabTime x => exact State.own_xnx fabTimeAct_keepsOwn h
  case collCfg x => exact State.own_xnx (collCfgAct_keepsOwn x) h
  case mediaCfg x => exact State.own_xnx (mediaCfgAct_keepsOwn x) h
  case mediaStream x => exact State.own_xnx (mediaStreamAct_keepsOwn x) h
  case mediaVocab x => exact State.own_xnx (mediaVocabAct_keepsOwn x) h
  case mediaAlign x => exact State.own_xnx (mediaAlignAct_keepsOwn x) h
  case mediaEncode x => exact State.own_xnx (mediaEncodeAct_keepsOwn x) h
  case stkTest x => exact State.own_xnx (stkTestAct_keepsOwn x) h
  case pprQuery x => exact State.own_xnx (pprQueryAct_keepsOwn x) h
  case pprCand x => exact State.own_xnx (pprCandAct_keepsOwn x) h
  case pprSoft x => exact State.own_xnx (pprSoftAct_keepsOwn x) h
  case pprHard x => exact State.own_xnx (pprHardAct_keepsOwn x) h
  case partReset x => exact State.own_xnx (partResetAct_keepsOwn x) h
  case fwStage x tree image => exact State.own_xnx (fun o b => fwStageAct_keepsOwn x o b tree image) h
  case fwStatus x => exact State.own_xnx fwStatusAct_keepsOwn h
  case fwCommit x => exact State.own_xnx (fwCommitAct_keepsOwn x) h
  -- pins, pads, references and test instructions
  case smbStatusRead | smbPwrInRead | smbPwrSagRead | smbStackTempRead | smbIdentityRead | smbFwVerRead | smbXnxResponseRead =>
    exact own_smbRead h
  case smbXnxCommandWrite | railSequenceStart | railStartTimeout | shutdownRetry | supplySagReset | referenceClockLoss =>
    unfold exec at h
    exact State.own_always_body h
  case extest | clamp | highz | extestPulse | extestTrain => exact State.own_always (own_tapLoad rfl) h
  -- the rest acts on the body
  all_goals
    unfold exec at h
    exact State.own_onBody h

end Sys2Proof.Machine

/-! PROOFS. The shape of the partitions: what the controllers' requests, faults, resets, teardowns and an entry's writes leave of it, whatever
errors memory holds (R171, R218, R435, R436). -/

namespace Sys2Proof.Machine

open Sys2Proof

/-! ### Shape -/

/-- t has as many partitions as b, and each has as many almanac slots as it had, or the four that a reset gives it. -/
structure Body.Shaped (b t : Body) : Prop where
  parts : t.parts.length = b.parts.length
  slots : ∀ p, (t.part p).slots.length = (b.part p).slots.length ∨ (t.part p).slots.length = 4

theorem Body.shaped_refl (b : Body) : b.Shaped b := ⟨rfl, fun _ => Or.inl rfl⟩

theorem Body.Shaped.trans {b t u : Body} (h : b.Shaped t) (k : t.Shaped u) : b.Shaped u := by
  refine ⟨k.parts.trans h.parts, fun p => ?_⟩
  rcases k.slots p with hk | hk
  · rw [hk]
    exact h.slots p
  · exact Or.inr hk

theorem Body.Shaped.slotsWhole {b t : Body} (h : b.Shaped t) (hw : b.slotsWhole) : t.slotsWhole :=
  ⟨h.parts.trans hw.1, fun p => (h.slots p).elim (fun hp => hp.trans (hw.2 p)) id⟩

theorem Body.shaped_foldl {α : Type} {f : Body → α → Body} (h : ∀ (b : Body) (x : α), b.Shaped (f b x)) (l : List α) (b : Body) :
    b.Shaped (l.foldl f b) :=
  List.foldlRecOn (motive := b.Shaped) l f b.shaped_refl fun t ht x _ => ht.trans (h t x)

theorem Body.shaped_of_parts {b t : Body} (h : t.parts = b.parts) : b.Shaped t :=
  ⟨congrArg List.length h, fun p => Or.inl (by unfold Body.part; rw [h])⟩

theorem Body.shaped_of_stores {S : Nat → Prop} {b t : Body} (h : b.Stores id S t) : b.Shaped t :=
  ⟨h.parts, fun p => Or.inl (congrArg (fun y : Part => y.slots.length) (h.part p))⟩

theorem Body.shaped_of_answered {b t : Body} (h : b.answered t) : b.Shaped t := Body.shaped_of_parts h.parts

theorem Body.shaped_of_memoryAlone {b t : Body} (h : b.memoryAlone t) : b.Shaped t :=
  Body.shaped_of_parts (Body.parts_of_memoryAlone h)

section
variable (b : Body)

theorem Body.shaped_updPart (p : Fin 8) {f : Part → Part} (hf : ∀ y, (f y).slots.length = y.slots.length) : b.Shaped (b.updPart p f) :=
  ⟨b.updPart_parts_length p f, fun q => Or.inl (Body.field_updPart (g := fun y => y.slots.length) p q hf)⟩

theorem Body.shaped_updSlot (p : Fin 8) (k : Fin 4) (f : Slot → Slot) : b.Shaped (b.updSlot p k f) :=
  b.shaped_updPart p fun _ => length_modify_eq _ _ _

/-! ### Faults -/

variable (o : Own)

theorem Body.shaped_faultEvent (p : Fin 8) (st : W16) (src : Nat × Nat) (d : Nat) : b.Shaped (b.faultEvent o p st src d) := by
  have hfired := b.fired_appendEvent o p (faultRecord 1 st src d (b.fab.time % 2 ^ 64))
  exact (b.shaped_updPart p fun y => congrArg List.length (y.recorded_slots _)).trans (Body.shaped_of_answered hfired.answered)

theorem Body.shaped_partitionReset (p : Fin 8) : b.Shaped (b.partitionReset o p) := by
  have hapart := b.apart_partitionReset o p
  refine ⟨hapart.parts, fun q => ?_⟩
  by_cases hq : q = p
  · subst hq
    refine Or.inr ?_
    by_cases hlt : q.val < b.parts.length
    · obtain ⟨y, hy⟩ := b.part_partitionReset o q hlt
      rw [hy]
      rfl
    · have hgone : (b.partitionReset o q).part q = Part.reset :=
        List.getD_eq_default _ _ (hapart.parts.symm ▸ Nat.le_of_not_lt hlt)
      rw [hgone]
      rfl
  · exact Or.inl (by rw [hapart.other q hq])

theorem Body.shaped_faultPartition (p : Fin 8) (st : W16) (src : Nat × Nat) (d : Nat) : b.Shaped (b.faultPartition o p st src d) := by
  unfold Body.faultPartition
  refine Body.Shaped.trans ?_ (Body.shaped_faultEvent _ o p st src d)
  split
  · exact b.shaped_refl
  · exact b.shaped_partitionReset o p

theorem Body.shaped_guestBack (p : Fin 8) (g : Option (Fin 4)) : b.Shaped (b.guestBack p g) := by
  cases g with
  | none => exact b.shaped_refl
  | some g => exact b.shaped_updSlot p g _

theorem Body.Drops.shaped {b t : Body} {p : Fin 8} (h : b.Drops p t) : b.Shaped t := by
  refine ⟨h.parts, fun q => Or.inl ?_⟩
  by_cases hq : q = p
  · rw [hq, h.slots]
  · rw [h.other q hq]

theorem Body.shaped_teardown (p : Fin 8) (k : Fin 4) (st : W16) (core : Byte) (ae : W16) : b.Shaped (b.teardown o p k st core ae) := by
  have hgone : b.Shaped (b.jobGone o p k) :=
    (b.drops_dropJobs o ⟨p, k⟩).shaped.trans ((Body.shaped_of_parts (Body.parts_released _ _ _ _)).trans
      ((Body.shaped_updSlot _ p k _).trans (Body.shaped_guestBack _ p _)))
  have hnoticed := b.teardown_noticed o p k st core ae
  refine hgone.trans (Body.shaped_of_parts ?_)
  rw [hnoticed]

theorem Body.shaped_faultCore (p : Fin 8) (c : Fin 32) (ae : Nat) (st : W16) : b.Shaped (b.faultCore o p c ae st) := by
  unfold Body.faultCore
  split
  · have hhalt : b.Shaped (b.haltCore c) := Body.shaped_of_parts rfl
    exact hhalt.trans ((Body.shaped_faultEvent _ o _ _ _ _).trans (Body.shaped_teardown _ o _ _ _ _ _))
  · exact b.shaped_faultEvent o _ _ _ _

theorem Body.shaped_eccFault (who : Requester) (a : Nat) : b.Shaped (b.eccFault o who a) := by
  unfold Body.eccFault
  split
  · exact Body.shaped_of_parts rfl
  · split
    · exact b.shaped_faultPartition o _ _ _ _
    · cases who with
      | steward =>
        dsimp only
        split
        · exact b.shaped_faultEvent o _ _ _ _
        · exact b.shaped_refl
      | entry p c ae => exact b.shaped_faultCore o p c ae _
      | media p c ae => exact b.shaped_faultCore o p c ae _
      | fabric p l => exact b.shaped_faultEvent o _ _ _ _
      | host _ _ => exact b.shaped_refl

/-! ### Requests that the controllers serve -/

theorem Body.shaped_foundBad (a : Nat) : b.Shaped (b.foundBad o a) := Body.shaped_of_parts (b.foundBad_parts o a)

theorem Body.shaped_correctedIn (rs : List (Nat × Nat)) : b.Shaped (b.correctedIn o rs) :=
  Body.shaped_of_parts (b.noted_correctedIn o rs).parts

theorem Body.shaped_atStack (l : DramLoc) (f : Stack → Stack) : b.Shaped (b.atStack l f) := Body.shaped_of_parts rfl

theorem shaped_answerRead (r : DReq) (poisoned : Bool) : b.Shaped (answerRead b r poisoned) := by
  unfold answerRead
  split
  · split
    · exact b.shaped_refl
    · exact Body.shaped_of_parts rfl
  · exact Body.shaped_of_parts rfl

theorem shaped_readNow (r : DReq) : b.Shaped (readNow o b r) := by
  unfold readNow
  extract_lets b0
  have hcorrected : b.Shaped b0 := b.shaped_correctedIn o _
  split
  · exact hcorrected.trans (shaped_answerRead b0 r false)
  · next x t _ =>
    have hfound : b0.Shaped (t.foldl (Body.foundBad o) (b0.foundBad o x)) :=
      (b0.shaped_foundBad o x).trans (Body.shaped_foldl (fun d a => d.shaped_foundBad o a) t _)
    exact hcorrected.trans (hfound.trans ((Body.shaped_eccFault _ o r.who x).trans (shaped_answerRead _ r true)))

theorem Body.shaped_place (a : Nat) (d : List (Option Byte)) : b.Shaped (b.place o a d) := by
  unfold Body.place
  extract_lets w b1
  have hmerged : b.Shaped b1 := Body.shaped_of_stores (S := fun _ => True) (b.stores_mergeRead o a d)
  have hwritten : b1.Shaped (b1.updMem (·.writeMasked w a d)) := Body.shaped_of_parts rfl
  exact hmerged.trans (hwritten.trans (Body.shaped_foldl
    (fun c x => Body.shaped_of_stores (S := fun _ => True) (c.stores_countUe o x false)) _ _))

theorem shaped_acceptWrite (l : DramLoc) (r : DReq) (d : List (Option Byte)) : b.Shaped (acceptWrite o b l r d) := by
  unfold acceptWrite
  extract_lets b1
  have hplaced : b.Shaped b1 := (b.shaped_place o r.addr d).trans (Body.shaped_atStack _ l _)
  split
  · exact hplaced
  · exact hplaced.trans (Body.shaped_eccFault _ o r.who _)

theorem shaped_drainOne (l : DramLoc) : b.Shaped (drainOne o b l) := by
  unfold drainOne
  extract_lets q
  split
  · exact b.shaped_refl
  · split
    · exact b.shaped_refl
    · exact (b.shaped_atStack l _).trans (Body.shaped_of_memoryAlone (Body.memoryAlone_countWrites o _ _ _))

theorem shaped_serveLc (l : DramLoc) : b.Shaped (serveLc o b l) := by
  unfold serveLc
  extract_lets b1
  have hdrained : b.Shaped b1 := by
    unfold b1
    split
    · exact shaped_drainOne b o l
    · exact b.shaped_refl
  exact hdrained.trans (b1.shaped_atStack l _)

theorem shaped_serve (l : DramLoc) (r : DReq) : b.Shaped (serve o b l r) := by
  unfold serve
  split
  · exact shaped_acceptWrite b o l r _
  · split
    · exact (b.shaped_atStack l _).trans (shaped_readNow _ o r)
    · extract_lets b1
      have hserved : b.Shaped b1 := by
        unfold b1
        split
        · exact shaped_serveLc b o l
        · exact b.shaped_atStack l _
      exact hserved.trans ((Body.shaped_of_memoryAlone (b1.memoryAlone_traffic _ _)).trans
        ((Body.shaped_atStack _ l _).trans (shaped_readNow _ o r)))

/-- The requests that are served before a younger one (R218). -/
theorem Body.shaped_ordered (rs : List (Nat × Nat)) : b.Shaped (b.ordered o rs) := by
  refine Body.shaped_foldl (fun c r => ?_) rs b
  unfold serveOlder
  split
  · exact c.shaped_refl
  · exact Body.shaped_foldl (fun d (x : DramLoc × DReq) => (d.shaped_atStack x.1 _).trans (shaped_serve _ o x.1 x.2)) _ c

theorem Body.shaped_stewardRead (rs : List (Nat × Nat)) : b.Shaped (b.stewardRead o rs) :=
  Body.shaped_of_parts (Body.noted_stewardRead o b rs).parts

theorem Body.shaped_countReadsOf (rs : List (Nat × Nat)) : b.Shaped (b.countReadsOf o rs) :=
  Body.shaped_of_memoryAlone (b.memoryAlone_countReadsOf o rs)

theorem Body.shaped_logEntry (p : Fin 8) (c : Fin 32) (idx : Nat) (st : W16) (a : Nat) : b.Shaped (b.logEntry o p c idx st a) :=
  have h := b.attends_logEntry (g := id) o p c idx st a
  ⟨h.parts, fun q => Or.inl (h.slots q)⟩

/-- The writes of an entry, refused or with bytes lost (R19, R172). -/
theorem Body.shaped_put (x : CtxId) (c : Fin 32) (idx : Nat) (ws : List (Nat × List (Option Byte))) : b.Shaped (b.put o x c idx ws) := by
  unfold Body.put Body.putOrdered
  extract_lets r b1
  have hput : b.Shaped r.1 := (b.shaped_ordered o _).trans (Body.shaped_of_stores (Body.stores_putAll _ o _ ws))
  have hlogged : b.Shaped b1 := by
    unfold b1
    split
    · exact hput.trans (Body.shaped_logEntry _ o _ _ _ _ _)
    · exact hput
  split
  · exact hlogged.trans (b1.shaped_eccFault o _ _)
  · exact hlogged

end

end Sys2Proof.Machine

/-! PROOFS. UPD_PARAMS and UPD_RECOVER: each outcome of their rules, and the commit records that a recovery leaves (R227, R252, R270, R415,
R512; O52). -/

namespace Sys2Proof.Machine

open Sys2Proof

/-! ### Numbers stored and read back -/

theorem leBytes_succ (n v : Nat) : leBytes (n + 1) v = BitVec.ofNat 8 v :: leBytes n (v / 256) := by
  unfold leBytes
  rw [List.range_succ_eq_map, List.map_cons, List.map_map]
  refine congrArg₂ List.cons (by simp) (List.map_congr_left fun i _ => ?_)
  have hpow : 2 ^ (8 * (i + 1)) = 256 * 2 ^ (8 * i) := by rw [Nat.mul_add, Nat.pow_add, Nat.mul_comm]
  simp only [Function.comp, Nat.succ_eq_add_one, hpow, Nat.div_div_eq_div_mul]

theorem ofLe_leBytes (n v : Nat) : ofLe (leBytes n v) = v % 256 ^ n := by
  induction n generalizing v with
  | zero => rw [Nat.pow_zero, Nat.mod_one]; rfl
  | succ n ih =>
    have hpow : 256 ^ (n + 1) = 256 * 256 ^ n := Nat.pow_succ'
    rw [leBytes_succ, ofLe, ih, BitVec.toNat_ofNat, hpow]
    exact Nat.mod_mul.symm

theorem Mem.not_bad_of_sound {m : Mem} (word a n : Nat) (h : m.sound = true) : m.bad word a n = false := by
  obtain ⟨hp, hu⟩ := Mem.sound_iff.mp h
  unfold Mem.bad Mem.badWords
  rw [hp, hu]
  rfl

/-- A number that is stored whole in sound memory is read back. -/
theorem Body.le_storeBytes (o : Own) {b : Body} (a : Nat) {v : Nat} (hs : b.mem.sound = true) (hv : v < 2 ^ 64) :
    (b.storeBytes o a (leBytes 8 v)).mem.le a 8 = v := by
  have hread := Body.bytes_storeBytes (o := o) (a := a) (l := leBytes 8 v) (Mem.not_bad_of_sound _ a _ hs)
  rw [leBytes_length] at hread
  unfold Mem.le
  rw [hread, ofLe_leBytes]
  exact Nat.mod_eq_of_lt hv

/-- Bytes that a store does not write are read as before. -/
theorem Body.byte_storeBytes_outside (o : Own) (b : Body) (a : Nat) (l : List Byte) {i : Nat} (hi : ¬ (a ≤ i ∧ i < a + l.length)) :
    (b.storeBytes o a l).mem.byte i = b.mem.byte i :=
  (b.stores_store (f := id) (S := fun y => a ≤ y ∧ y < a + l.length) o a (l.map some) fun y hy => by rwa [List.length_map] at hy).byte i hi

theorem Mem.le_congr_of_bytes {m k : Mem} {a n : Nat} (h : ∀ i, i < n → m.byte (a + i) = k.byte (a + i)) : m.le a n = k.le a n :=
  congrArg ofLe (List.map_congr_left fun i hi => h i (List.mem_range.mp hi))

/-! ### Commit records -/

theorem recStep_eq (r : Nat) : recStep r = r / 4 % 2 ^ 54 := rfl

theorem recStep_lt (r : Nat) : recStep r < 2 ^ 54 := Nat.mod_lt _ (by decide)

theorem mkRec_lt (step : Nat) (dirty slot : Bool) : mkRec step dirty slot < 2 ^ 64 := by
  unfold mkRec
  cases dirty <;> cases slot <;> simp only [if_true, Bool.false_eq_true, if_false] <;> omega

theorem recStep_mkRec {step : Nat} (h : step < 2 ^ 54) (dirty slot : Bool) : recStep (mkRec step dirty slot) = step := by
  rw [recStep_eq]
  unfold mkRec
  cases dirty <;> cases slot <;> simp only [if_true, Bool.false_eq_true, if_false] <;> omega

/-- The commit record allows recovery to a step (R270). -/
def recAllows (tgt r : Nat) : Prop := recMark r = 0xC7 ∧ (recStep r = tgt ∨ (recStep r = tgt + 1 ∧ recDirty r = false))

theorem recoverOk_iff {tgt r : Nat} : recoverOk tgt r = true ↔ recAllows tgt r := by
  simp only [recoverOk, recAllows, Bool.and_eq_true, Bool.or_eq_true, beq_iff_eq, Bool.not_eq_true']

/-- Records one step ahead are written back to a step (R270). -/
def Body.recovered (o : Own) (b : Body) (tgt : Nat) (rs : List (Nat × Nat)) : Body :=
  rs.foldl (fun b r => b.storeBytes o r.1 (leBytes 8 (mkRec tgt false (!recSlot r.2)))) b

/-- Two eight-byte records are one, or do not meet. -/
def recsApart (a c : Nat) : Prop := a = c ∨ a + 8 ≤ c ∨ c + 8 ≤ a

section
variable (o : Own) (tgt : Nat)

theorem Body.parts_recovered (b : Body) (rs : List (Nat × Nat)) : (b.recovered o tgt rs).parts.length = b.parts.length :=
  (Body.shaped_foldl (fun d (r : Nat × Nat) => Body.shaped_of_stores (d.stores_store (S := fun _ => True) o r.1 _ fun _ _ => trivial)) rs b).parts

theorem Body.byte_recovered (b : Body) {rs : List (Nat × Nat)} {i : Nat} (h : ∀ r ∈ rs, ¬ (r.1 ≤ i ∧ i < r.1 + 8)) :
    (b.recovered o tgt rs).mem.byte i = b.mem.byte i :=
  List.foldlRecOn (motive := fun d : Body => d.mem.byte i = b.mem.byte i) rs _ rfl fun d hd r hr =>
    (d.byte_storeBytes_outside o r.1 _ (by rw [leBytes_length]; exact h r hr)).trans hd

/-- A record that was a step ahead, or stood at the step already, has the step. -/
theorem Body.recStep_recovered {b : Body} {rs : List (Nat × Nat)} {a : Nat} (hs : b.mem.sound = true) (ht : ∀ r ∈ rs, tgt < 2 ^ 54)
    (hapart : ∀ r ∈ rs, recsApart r.1 a) (ha : (∃ r ∈ rs, r.1 = a) ∨ recStep (b.mem.le a 8) = tgt) :
    recStep ((b.recovered o tgt rs).mem.le a 8) = tgt := by
  induction rs generalizing b with
  | nil => exact ha.resolve_left fun ⟨r, hr, _⟩ => absurd hr List.not_mem_nil
  | cons r rs ih =>
    refine ih (b := b.storeBytes o r.1 (leBytes 8 (mkRec tgt false (!recSlot r.2)))) (Body.sound_store _ _ hs)
      (fun q hq => ht q (List.mem_cons_of_mem r hq)) (fun q hq => hapart q (List.mem_cons_of_mem r hq)) ?_
    rcases hapart r List.mem_cons_self with hra | hra
    · refine Or.inr ?_
      rw [← hra, Body.le_storeBytes o r.1 hs (mkRec_lt _ _ _)]
      exact recStep_mkRec (ht r List.mem_cons_self) _ _
    · rcases ha with ⟨q, hq, hqa⟩ | ha
      · rcases List.mem_cons.mp hq with rfl | hq
        · omega
        · exact Or.inl ⟨q, hq, hqa⟩
      · refine Or.inr (Eq.trans (congrArg recStep (Mem.le_congr_of_bytes fun i hi => ?_)) ha)
        exact b.byte_storeBytes_outside o r.1 _ (by rw [leBytes_length]; omega)

end

/-! ### The rule of UPD_PARAMS -/

/-- A reserved byte of a parameter set is not zero. -/
def setsReserved (x : Xnx) : Prop := ∃ i, i < 16 ∧ field (paramSet (x.args.drop 8) i) 0x1C 4 ≠ 0

/-- A parameter is outside its range, or the STEP is not the one that follows UPD_STEP.STEP (R252). -/
def setsBad (x : Xnx) (y : Part) : Prop :=
  (∃ i, i < 16 ∧ paramSetOk (paramSet (x.args.drop 8) i) = false) ∨ y.stepValid = false ∨ xArg x 0 8 ≠ y.step.toNat + 1

/-- A slot with parameter sets that wait for its next start. -/
def Slot.withSets (y : Slot) (x : Xnx) : Slot := { y with newParams := some (BitVec.ofNat 64 (xArg x 0 8), (x.args.drop 8).take 512) }

theorem setsReserved_iff {x : Xnx} : ((List.range 16).any fun i => field (paramSet (x.args.drop 8) i) 0x1C 4 != 0) = true ↔ setsReserved x := by
  simp only [setsReserved, List.any_eq_true, List.mem_range, bne_iff_ne, ne_eq]

theorem setsBad_iff {x : Xnx} {y : Part} : (!(List.range 16).all (fun i => paramSetOk (paramSet (x.args.drop 8) i)) || !y.stepValid ||
    xArg x 0 8 != y.step.toNat + 1) = true ↔ setsBad x y := by
  simp only [setsBad, Bool.or_eq_true, Bool.not_eq_true', List.all_eq_false, List.mem_range, bne_iff_ne, ne_eq, Bool.not_eq_true, or_assoc]

section
variable {x : Xnx} {o : Own} {b : Body} {p : Fin 8} (hx : x.page = .part p)
include hx

theorem updParamsAct_reserved (h : setsReserved x) : updParamsAct x o b = .refused stFormat 0 := by
  unfold updParamsAct
  rw [onPart_of hx]
  exact if_pos (setsReserved_iff.mpr h)

variable (h : ¬ setsReserved x)
include h

theorem updParamsAct_bad (hb : setsBad x (b.part p)) : updParamsAct x o b = .refused stBounds 0 := by
  unfold updParamsAct
  rw [onPart_of hx]
  exact (if_neg (mt setsReserved_iff.mp h)).trans (if_pos (setsBad_iff.mpr hb))

theorem updParamsAct_sets {k : Fin 4} (hk : x.arg0 = k.val) (hb : ¬ setsBad x (b.part p)) :
    updParamsAct x o b = .done o (b.updSlot p k (·.withSets x)) stOk 0 [] := by
  unfold updParamsAct
  rw [onPart_of hx, slotArg_of hk]
  exact (if_neg (mt setsReserved_iff.mp h)).trans (if_neg (mt setsBad_iff.mp hb))

end

/-! ### The rule of UPD_RECOVER -/

/-- The addresses of a slot's shard headers. -/
def Slot.headers (y : Slot) : List Nat := y.shards.map (·.1)

/-- The shard headers that a recovery reads. -/
def Slot.headerReads (y : Slot) : List (Nat × Nat) := y.headers.map fun a => (a, 64)

/-- The commit records of a slot, by address, as a memory holds them. -/
def Slot.recordsIn (y : Slot) (m : Mem) : List (Nat × Nat) := y.headers.map fun a => (a, m.le a 8)

/-- The body as a recovery has read the headers of a slot (R218, R231). -/
def Body.headersRead (o : Own) (b : Body) (y : Slot) : Body := (b.ordered o y.headerReads).stewardRead o y.headerReads

/-- A slot's records that are one step ahead. -/
def Slot.ahead (y : Slot) (m : Mem) (tgt : Nat) : List (Nat × Nat) := (y.recordsIn m).filter fun r => recStep r.2 == tgt + 1

/-- A recovery's end: the records are at the step, and so is UPD_STEP.STEP. -/
def Body.stepRecovered (o : Own) (b : Body) (p : Fin 8) (y : Slot) (tgt : Nat) : Body :=
  (b.recovered o tgt (y.ahead b.mem tgt)).updPart p fun z => { z with step := BitVec.ofNat 54 tgt, stepValid := true }

theorem Slot.recordsIn_all {y : Slot} {m : Mem} {tgt : Nat} :
    ((y.recordsIn m).all fun r => recoverOk tgt r.2) = true ↔ ∀ a ∈ y.headers, recAllows tgt (m.le a 8) := by
  simp only [Slot.recordsIn, List.all_map, List.all_eq_true, Function.comp, recoverOk_iff]

section
variable {x : Xnx} {o : Own} {b : Body} {p : Fin 8} {k : Fin 4} (hx : x.page = .part p) (hk : x.arg0 = k.val)
include hx hk

theorem updRecoverAct_empty (hl : (b.slot p k).loaded = false) : updRecoverAct x o b = .refused stBounds 0 := by
  unfold updRecoverAct
  rw [onPart_of hx, slotArg_of hk]
  exact if_pos (by rw [hl]; rfl)

variable (hl : (b.slot p k).loaded = true)
include hl

/-- A tripped module's DRAM is not read (R227). -/
theorem updRecoverAct_waits (ht : b.board.tripped = true) : updRecoverAct x o b = .pending o b := by
  unfold updRecoverAct
  rw [onPart_of hx, slotArg_of hk]
  exact (if_neg (by rw [hl]; decide)).trans (if_pos ht)

variable (ht : b.board.tripped = false)
include ht

/-- The rule once the headers may be read. -/
theorem updRecoverAct_reads : updRecoverAct x o b =
    let c := b.headersRead o (b.slot p k)
    match c.firstBad o (b.slot p k).headerReads with
    | some w => .done o (c.stewardBad o p w) ftEcc 0 []
    | none =>
      if !((b.slot p k).recordsIn c.mem).all (fun r => recoverOk (xArg x 0 8) r.2) then .refused stBounds 0
      else .done o (c.stepRecovered o p (b.slot p k) (xArg x 0 8)) stOk 0 [] := by
  have hreads : (b.slot p k).headerReads = (b.slot p k).shards.map fun h => (h.1, 64) := List.map_map
  have hrecs : ∀ m, (b.slot p k).recordsIn m = (b.slot p k).shards.map fun h => (h.1, m.le h.1 8) := fun m => List.map_map
  unfold updRecoverAct Body.stepRecovered Slot.ahead Body.headersRead
  rw [onPart_of hx, slotArg_of hk]
  dsimp only
  rw [hreads, hrecs]
  refine (if_neg (by rw [hl]; decide)).trans ((if_neg (by rw [ht]; decide)).trans ?_)
  rfl

/-- A header that cannot be read ends the command (R512). -/
theorem updRecoverAct_unreadable {w : Nat} (hbad : (b.headersRead o (b.slot p k)).firstBad o (b.slot p k).headerReads = some w) :
    updRecoverAct x o b = .done o ((b.headersRead o (b.slot p k)).stewardBad o p w) ftEcc 0 [] := by
  rw [updRecoverAct_reads hx hk hl ht]
  dsimp only
  rw [hbad]

variable (hgood : (b.headersRead o (b.slot p k)).firstBad o (b.slot p k).headerReads = none)
include hgood

theorem updRecoverAct_forbidden
    (h : ¬ ∀ a ∈ (b.slot p k).headers, recAllows (xArg x 0 8) ((b.headersRead o (b.slot p k)).mem.le a 8)) :
    updRecoverAct x o b = .refused stBounds 0 := by
  rw [updRecoverAct_reads hx hk hl ht]
  dsimp only
  rw [hgood]
  exact if_pos (by rw [Bool.not_eq_true', ← Bool.not_eq_true]; exact mt Slot.recordsIn_all.mp h)

theorem updRecoverAct_recovers (h : ∀ a ∈ (b.slot p k).headers, recAllows (xArg x 0 8) ((b.headersRead o (b.slot p k)).mem.le a 8)) :
    updRecoverAct x o b = .done o ((b.headersRead o (b.slot p k)).stepRecovered o p (b.slot p k) (xArg x 0 8)) stOk 0 [] := by
  rw [updRecoverAct_reads hx hk hl ht]
  dsimp only
  rw [hgood]
  exact if_neg (by rw [Slot.recordsIn_all.mpr h]; decide)

end

/-! ### What a recovery leaves -/

section
variable {o : Own} {b : Body} {p : Fin 8} {y : Slot} {tgt : Nat}

theorem Slot.mem_ahead {m : Mem} {r : Nat × Nat} (h : r ∈ y.ahead m tgt) : r.1 ∈ y.headers ∧ recStep r.2 = tgt + 1 := by
  obtain ⟨hr, hstep⟩ := List.mem_filter.mp h
  obtain ⟨a, ha, rfl⟩ := List.mem_map.mp hr
  exact ⟨ha, by simpa using hstep⟩

theorem Body.part_stepRecovered (hp : b.parts.length = 8) :
    ((b.stepRecovered o p y tgt).part p).step = BitVec.ofNat 54 tgt ∧ ((b.stepRecovered o p y tgt).part p).stepValid = true := by
  have hlt : p.val < (b.recovered o tgt (y.ahead b.mem tgt)).parts.length := by
    rw [Body.parts_recovered, hp]
    exact p.isLt
  unfold Body.stepRecovered
  rw [Body.part_updPart _ p _ hlt]
  exact ⟨rfl, rfl⟩

theorem Body.byte_stepRecovered {i : Nat} (h : ∀ a ∈ y.headers, ¬ (a ≤ i ∧ i < a + 8)) :
    (b.stepRecovered o p y tgt).mem.byte i = b.mem.byte i :=
  b.byte_recovered o tgt fun r hr => h r.1 (Slot.mem_ahead hr).1

/-- Every record that allows the recovery has the step after it. -/
theorem Body.recStep_stepRecovered {a : Nat} (hs : b.mem.sound = true) (hall : ∀ a ∈ y.headers, recAllows tgt (b.mem.le a 8))
    (hapart : ∀ a ∈ y.headers, ∀ c ∈ y.headers, recsApart a c) (ha : a ∈ y.headers) :
    recStep ((b.stepRecovered o p y tgt).mem.le a 8) = tgt := by
  obtain ⟨-, hstep⟩ := hall a ha
  refine Body.recStep_recovered o tgt hs (fun r hr => ?_) (fun r hr => hapart r.1 (Slot.mem_ahead hr).1 a ha) ?_
  · have hlt := recStep_lt r.2
    rw [(Slot.mem_ahead hr).2] at hlt
    omega
  · rcases hstep with hstep | ⟨hstep, -⟩
    · exact Or.inr hstep
    · exact Or.inl ⟨(a, b.mem.le a 8), List.mem_filter.mpr ⟨List.mem_map.mpr ⟨a, ha, rfl⟩, beq_iff_eq.mpr hstep⟩, rfl⟩

end

/-! ### The commands -/

section
variable {s : State} {x : Xnx} {p : Fin 8} {k : Fin 4} (h : s.takesOn x p = true) (harg : x.arg0 = k.val)
include h harg

theorem execUpdParams_eq (hlen : x.len = 520) {r : Xres} (hr : updParamsAct x s.own (s.commandedWith 0x0201 x) = r) :
    exec (.updParams x) s = .next (s.concluded 0x0201 x r) :=
  hr ▸ State.xnx_part h (updParamsAct x) (beq_iff_eq.mpr hlen) (decide_eq_true (by rw [harg]; exact k.isLt))

variable (hlen : x.len = 8)
include hlen

theorem execUpdRecover_eq {r : Xres} (hr : updRecoverAct x s.own (s.commandedWith 0x0202 x) = r) :
    exec (.updRecover x) s = .next (s.concluded 0x0202 x r) :=
  hr ▸ State.xnx_part h (updRecoverAct x) (beq_iff_eq.mpr hlen) (decide_eq_true (by rw [harg]; exact k.isLt))

/-- A recovery that every record allows. -/
theorem execUpdRecover_recovers {y : Slot} {b : Body} (hy : s.body.slot p k = y) (hb : (s.commandedWith 0x0202 x).headersRead s.own y = b)
    (hl : y.loaded = true) (ht : s.body.board.tripped = false) (hgood : b.firstBad s.own y.headerReads = none)
    (hall : ∀ a ∈ y.headers, recAllows (xArg x 0 8) (b.mem.le a 8)) (hs : b.mem.sound = true) (hparts : s.body.parts.length = 8)
    (hapart : ∀ a ∈ y.headers, ∀ c ∈ y.headers, recsApart a c) :
    ∃ b2, exec (.updRecover x) s = .next (s.answer s.own b2 x stOk 0 []) ∧
      (b2.part p).step = BitVec.ofNat 54 (xArg x 0 8) ∧ (b2.part p).stepValid = true ∧
      (∀ a ∈ y.headers, recStep (b2.mem.le a 8) = xArg x 0 8) ∧
      (∀ i, (∀ a ∈ y.headers, ¬ (a ≤ i ∧ i < a + 8)) → b2.mem.byte i = b.mem.byte i) := by
  have hslot := (s.commandedWith_slot 0x0202 x p k).trans hy
  have hwhole : b.parts.length = 8 := by
    have hshaped := (Body.shaped_ordered (s.commandedWith 0x0202 x) s.own y.headerReads).trans
      (Body.shaped_stewardRead _ s.own y.headerReads)
    unfold Body.headersRead at hb
    rw [hb] at hshaped
    rw [hshaped.parts, s.commandedWith_parts, hparts]
  obtain ⟨hstep, hvalid⟩ := Body.part_stepRecovered (o := s.own) (p := p) (y := y) (tgt := xArg x 0 8) hwhole
  have hrule : updRecoverAct x s.own (s.commandedWith 0x0202 x) = .done s.own (b.stepRecovered s.own p y (xArg x 0 8)) stOk 0 [] := by
    have hact := updRecoverAct_recovers (o := s.own) (b := s.commandedWith 0x0202 x) (page_of_takesOn h) harg
    rw [hslot, hb] at hact
    exact hact hl ((s.commandedWith_board 0x0202 x).symm ▸ ht) hgood hall
  exact ⟨_, execUpdRecover_eq h harg hlen hrule, hstep, hvalid, fun a ha => Body.recStep_stepRecovered hs hall hapart ha,
    fun i hi => Body.byte_stepRecovered hi⟩

end

end Sys2Proof.Machine

/-! PROOFS. REPL_CFG and REPL_REPAIR: each outcome of their rules, what a repair leaves, and the four commands together (R227, R266 to R269,
R415, R511, R512; O52). -/

namespace Sys2Proof.Machine

open Sys2Proof

/-! ### The rule of REPL_CFG -/

/-- A number of REPL_CFG out of range (R266). -/
abbrev replWide (x : Xnx) : Prop :=
  xArg x 0 2 < 2 ∨ 4096 < xArg x 0 2 ∨ xArg x 0 2 ≤ xArg x 2 2 ∨ xArg x 0 2 ≤ xArg x 4 2 ∨ 2 < xArg x 6 1 ∨
    (xArg x 6 1 = 2 ∧ xArg x 0 2 < 3) ∨ xArg x 7 1 = 0 ∨ 64 < xArg x 7 1

/-- The member list that REPL_CFG reads. -/
def memberReads (x : Xnx) : List (Nat × Nat) := [(xArg x 8 8, 2 * xArg x 0 2)]

/-- The body as REPL_CFG has read its member list (R218, R231). -/
def Body.membersRead (o : Own) (b : Body) (x : Xnx) : Body := (b.ordered o (memberReads x)).stewardRead o (memberReads x)

/-- A member names no partition. -/
def memberBad (m : Mem) (x : Xnx) : Prop := ∃ i, i < xArg x 0 2 ∧ 0x8000 ≤ m.le (xArg x 8 8 + 2 * i) 2

/-- The group that REPL_CFG configures, its members read from a memory. -/
def replGroupAt (m : Mem) (x : Xnx) : ReplGroup :=
  ⟨membersAt m (xArg x 8 8) (xArg x 0 2), xArg x 2 2, xArg x 4 2, xArg x 6 1, xArg x 7 1⟩

/-- A partition with a replica group. -/
def Part.withGroup (y : Part) (i : Nat) (g : ReplGroup) : Part := { y with repl := y.repl.set i (some g) }

theorem membersAt_any {m : Mem} {x : Xnx} : ((membersAt m (xArg x 8 8) (xArg x 0 2)).any fun w => w.toNat ≥ 0x8000) = true ↔
    memberBad m x := by
  have hmember : ∀ i, (BitVec.ofNat 16 (m.le (xArg x 8 8 + 2 * i) 2)).toNat = m.le (xArg x 8 8 + 2 * i) 2 := fun i =>
    (BitVec.toNat_ofNat _ _).trans (Nat.mod_eq_of_lt (m.le_lt _ 2))
  simp only [membersAt, memberBad, List.any_map, List.any_eq_true, List.mem_range, Function.comp, decide_eq_true_eq, hmember, ge_iff_le]

section
variable {x : Xnx} {o : Own} {b : Body} {p : Fin 8} (hx : x.page = .part p)
include hx

theorem replCfgAct_foreign (hd : o.inData p (xArg x 8 8) (2 * xArg x 0 2) = false) :
    replCfgAct x o b = .foreign (o.outside p (xArg x 8 8)) := by
  unfold replCfgAct
  rw [onPart_of hx]
  exact if_pos (by rw [hd]; rfl)

variable (hd : o.inData p (xArg x 8 8) (2 * xArg x 0 2) = true)
include hd

/-- The rule once the member list may be the partition's. -/
theorem replCfgAct_reached : replCfgAct x o b =
    if replWide x then .refused stBounds 0
    else if (b.part p).comparing x.arg0 then .refused stBusy 0
    else if b.board.tripped then .pending o b
    else
      let c := b.membersRead o x
      match c.firstBad o (memberReads x) with
      | some w => .done o (c.stewardBad o p w) ftEcc 0 []
      | none =>
        if (membersAt c.mem (xArg x 8 8) (xArg x 0 2)).any fun w => w.toNat ≥ 0x8000 then .refused stFormat 0
        else .done o (c.updPart p (·.withGroup x.arg0 (replGroupAt c.mem x))) stOk 0 [] := by
  unfold replCfgAct
  rw [onPart_of hx]
  exact if_neg (by rw [hd]; decide)

theorem replCfgAct_wide (hw : replWide x) : replCfgAct x o b = .refused stBounds 0 :=
  (replCfgAct_reached hx hd).trans (if_pos hw)

variable (hw : ¬ replWide x)
include hw

theorem replCfgAct_busy (hc : (b.part p).comparing x.arg0 = true) : replCfgAct x o b = .refused stBusy 0 :=
  (replCfgAct_reached hx hd).trans ((if_neg hw).trans (if_pos hc))

variable (hc : (b.part p).comparing x.arg0 = false)
include hc

/-- A tripped module's DRAM is not read (R227). -/
theorem replCfgAct_waits (ht : b.board.tripped = true) : replCfgAct x o b = .pending o b :=
  (replCfgAct_reached hx hd).trans ((if_neg hw).trans ((if_neg (ne_true_of_eq_false hc)).trans (if_pos ht)))

variable (ht : b.board.tripped = false)
include ht

/-- The rule once the member list may be read. -/
theorem replCfgAct_reads : replCfgAct x o b =
    match (b.membersRead o x).firstBad o (memberReads x) with
    | some w => .done o ((b.membersRead o x).stewardBad o p w) ftEcc 0 []
    | none =>
      if (membersAt (b.membersRead o x).mem (xArg x 8 8) (xArg x 0 2)).any fun w => w.toNat ≥ 0x8000 then .refused stFormat 0
      else .done o ((b.membersRead o x).updPart p (·.withGroup x.arg0 (replGroupAt (b.membersRead o x).mem x))) stOk 0 [] :=
  (replCfgAct_reached hx hd).trans ((if_neg hw).trans ((if_neg (ne_true_of_eq_false hc)).trans (if_neg (ne_true_of_eq_false ht))))

/-- A member list that cannot be read ends the command (R512). -/
theorem replCfgAct_unreadable {w : Nat} (hbad : (b.membersRead o x).firstBad o (memberReads x) = some w) :
    replCfgAct x o b = .done o ((b.membersRead o x).stewardBad o p w) ftEcc 0 [] := by
  rw [replCfgAct_reads hx hd hw hc ht, hbad]

variable (hgood : (b.membersRead o x).firstBad o (memberReads x) = none)
include hgood

theorem replCfgAct_badMember (hm : memberBad (b.membersRead o x).mem x) : replCfgAct x o b = .refused stFormat 0 := by
  rw [replCfgAct_reads hx hd hw hc ht, hgood]
  exact if_pos (membersAt_any.mpr hm)

theorem replCfgAct_sets (hm : ¬ memberBad (b.membersRead o x).mem x) : replCfgAct x o b =
    .done o ((b.membersRead o x).updPart p (·.withGroup x.arg0 (replGroupAt (b.membersRead o x).mem x))) stOk 0 [] := by
  rw [replCfgAct_reads hx hd hw hc ht, hgood]
  exact if_neg (mt membersAt_any.mp hm)

end

theorem execReplCfg_eq {s : State} {x : Xnx} {p : Fin 8} (h : s.takesOn x p = true) (harg : x.arg0 < 16) (hlen : x.len = 16) {r : Xres}
    (hr : replCfgAct x s.own (s.commandedWith 0x0203 x) = r) : exec (.replCfg x) s = .next (s.concluded 0x0203 x r) :=
  hr ▸ State.xnx_part h (replCfgAct x) (beq_iff_eq.mpr hlen) (decide_eq_true harg)

/-! ### A held COMPARE -/

section
variable {b t : Body} (hp : t.parts = b.parts) (hq : t.quads = b.quads)
include hp hq

theorem Body.heldOf_congr (p : Fin 8) (g : Nat) : t.heldOf p g = b.heldOf p g := by
  unfold Body.heldOf Body.udOfJob Body.imageOf Body.slot Body.part Body.quad
  rw [hp, hq]

theorem Body.compared_congr (hc : t.cores = b.cores) (x : CtxId) : t.compared x = b.compared x := by
  unfold Body.compared Body.slot Body.part Body.core
  rw [hp, hq, hc]

end

/-- A held COMPARE that is found in a slot is of that slot's context. -/
theorem Body.ctx_of_heldOf {b : Body} {p : Fin 8} {g : Nat} {k q : Fin 4} {j : QJob} (h : b.heldOf p g = some (k, q, j)) : j.ctx = ⟨p, k⟩ := by
  obtain ⟨i, -, hi⟩ := List.exists_of_findSome?_eq_some h
  split at hi
  · obtain ⟨r, -, hr⟩ := List.exists_of_findSome?_eq_some hi
    obtain ⟨d, hd, he⟩ := Option.map_eq_some_iff.mp hr
    cases he
    have hfound := List.find?_some hd
    simp only [Bool.and_eq_true, beq_iff_eq] at hfound
    exact hfound.1.1
  · cases hi

/-! ### A repair -/

/-- The repair of a held COMPARE's segments from a rank, the digest arrays having been read (R268, R269). -/
def Body.repairFrom (o : Own) (b : Body) (j : QJob) (g : ReplGroup) (cs : List Compared) (others : List (List W64)) (src : Nat)
    (segs : List (Nat × List Byte)) (after : List (List W64)) : Body × Bool :=
  let own := ownDigests cs b.mem
  repair o (b.countReadsOf o (digestReads cs)) j.ctx j.core j.idx g cs (differing g cs own others) own
    (targetDigest g own others false src) segs after

/-- The body as REPL_REPAIR has read the digest arrays, an earlier repair of the COMPARE having been ended (R218, R269). -/
def Body.digestsRead (o : Own) (b : Body) (p : Fin 8) (k : Fin 4) (cs : List Compared) : Body :=
  ((b.repairFails o p k).ordered o (digestReads cs)).correctedIn o (digestReads cs)

/-- A slot whose COMPARE a REPL_REPAIR waits for. -/
def Slot.awaited (y : Slot) (t : Ticket) : Slot := { y with replTicket := some t }

/-- A slot whose invocation goes on after a repair, which waits for the COMPARE. -/
def Slot.goesOn (y : Slot) (t : Ticket) : Slot := { y with run := .running, held := none, replTicket := some t }

/-- The invocation of a repaired COMPARE goes on: the COMPARE is done, and its core runs (R269). -/
def Body.goesOn (b : Body) (p : Fin 8) (k q : Fin 4) (j : QJob) (n : Nat) (t : Ticket) : Body :=
  ((b.repaired q j n).updCx j.core fun c => { c with seq := .running }).updSlot p k (·.goesOn t)

section
variable (o : Own) (b : Body)

theorem Body.shaped_repairFails (p : Fin 8) (k : Fin 4) : b.Shaped (b.repairFails o p k) := by
  unfold Body.repairFails
  split
  · exact (b.shaped_updSlot p k _).trans (Body.shaped_of_answered (Body.answered_respond o _ _ _ _ _))
  · exact b.shaped_refl

theorem shaped_repair (x : CtxId) (core : Fin 32) (idx : Nat) (g : ReplGroup) (cs : List Compared) (found : List Nat) (own : List W64)
    (target : Nat → W64) (segs : List (Nat × List Byte)) (after : List (List W64)) :
    b.Shaped (repair o b x core idx g cs found own target segs after).1 := by
  unfold repair
  extract_lets spans ws b1 hit b2 agree
  exact (b.shaped_put o x core idx _).trans (b1.shaped_put o x core idx _)

theorem Body.shaped_repairFrom (p : Fin 8) (k : Fin 4) (j : QJob) (g : ReplGroup) (cs : List Compared) (others : List (List W64)) (src : Nat)
    (segs : List (Nat × List Byte)) (after : List (List W64)) :
    b.Shaped ((b.digestsRead o p k cs).repairFrom o j g cs others src segs after).1 :=
  ((b.shaped_repairFails o p k).trans ((Body.shaped_ordered _ o _).trans (Body.shaped_correctedIn _ o _))).trans
    ((Body.shaped_countReadsOf _ o _).trans (shaped_repair o _ _ _ _ _ _ _ _ _ _ _))

variable {b}

/-- The slot of a repaired COMPARE: its invocation runs, and reports the repair. -/
theorem Body.slot_goesOn (hw : b.slotsWhole) {p : Fin 8} {k q : Fin 4} {j : QJob} (hj : j.ctx = ⟨p, k⟩) (n : Nat) (t : Ticket) :
    (b.goesOn p k q j n t).slot p k = { (b.slot p k).goesOn t with repaired := true } := by
  let c := (b.setJob q { j with done := true }).updPart p fun y => { y with digFixed := satAdd y.digFixed n }
  have hset : (b.setJob q { j with done := true }).slotsWhole := hw.congr rfl
  have hc : c.slotsWhole := hset.updPart p fun _ => rfl
  have hrep : b.repaired q j n = c.updSlot p k fun y => { y with repaired := true } := by
    unfold Body.repaired
    rw [show j.ctx.part = p from congrArg CtxId.part hj, show j.ctx.slot = k from congrArg CtxId.slot hj]
  have hslot : c.slot p k = b.slot p k := Body.slot_updPart p p k (by intro _; rfl)
  have hwhole : ((b.repaired q j n).updCx j.core fun d => { d with seq := .running }).slotsWhole := by
    rw [hrep]
    exact (hc.updSlot p k _).congr rfl
  unfold Body.goesOn
  rw [hwhole.slot_updSlot, Body.updCx_slot, hrep, hc.slot_updSlot, hslot]
  rfl

end

/-! ### The rule of REPL_REPAIR -/

section
variable {x : Xnx} {o : Own} {b : Body} {p : Fin 8} {segs : List (Nat × List Byte)} {after : List (List W64)} (hx : x.page = .part p)
include hx

theorem replRepairAct_none (h : b.heldOf p x.arg0 = none ∨ (b.part p).repl.getD x.arg0 none = none) :
    replRepairAct x segs after o b = .refused stBounds 0 := by
  unfold replRepairAct
  rw [onPart_of hx]
  dsimp only
  rcases h with h | h
  · rw [h]
  · rw [h]
    cases b.heldOf p x.arg0 <;> rfl

variable {k q : Fin 4} {j : QJob} {g : ReplGroup} (hheld : b.heldOf p x.arg0 = some (k, q, j))
  (hg : (b.part p).repl.getD x.arg0 none = some g)
include hheld hg

/-- The rule once the COMPARE and its group are found. -/
theorem replRepairAct_held : replRepairAct x segs after o b =
    if g.members.length ≤ xArg x 0 2 then .refused stBounds 0
    else if b.board.tripped then .pending o b
    else
      let cs := b.compared j.ctx
      let c := b.digestsRead o p k cs
      let others := (b.slot p k).held.getD []
      match c.firstBad o (digestReads cs) with
      | some w => .done o (c.stewardBad o p w) ftEcc 0 []
      | none =>
        let r := c.repairFrom o j g cs others (xArg x 0 2) segs after
        if r.2 then .pending o (r.1.goesOn p k q j (differing g cs (ownDigests cs c.mem) others).length (xTicket x))
        else .pending o (r.1.updSlot p k (·.awaited (xTicket x))) := by
  unfold replRepairAct Body.repairFrom
  rw [onPart_of hx]
  dsimp only
  rw [hheld, hg]
  dsimp only
  simp only [Body.countReadsOf_mem]
  rfl

theorem replRepairAct_stranger (hs : g.members.length ≤ xArg x 0 2) : replRepairAct x segs after o b = .refused stBounds 0 :=
  (replRepairAct_held hx hheld hg).trans (if_pos hs)

variable (hs : xArg x 0 2 < g.members.length)
include hs

/-- A tripped module's DRAM is not read (R227). -/
theorem replRepairAct_waits (ht : b.board.tripped = true) : replRepairAct x segs after o b = .pending o b :=
  (replRepairAct_held hx hheld hg).trans ((if_neg (Nat.not_le.mpr hs)).trans (if_pos ht))

variable (ht : b.board.tripped = false) {cs : List Compared} (hcs : b.compared j.ctx = cs) {c : Body} (hc : b.digestsRead o p k cs = c)
include ht hcs hc

/-- A digest array that cannot be read ends the command (R512). -/
theorem replRepairAct_unreadable {w : Nat} (hbad : c.firstBad o (digestReads cs) = some w) :
    replRepairAct x segs after o b = .done o (c.stewardBad o p w) ftEcc 0 [] := by
  refine (replRepairAct_held hx hheld hg).trans ((if_neg (Nat.not_le.mpr hs)).trans ((if_neg (ne_true_of_eq_false ht)).trans ?_))
  dsimp only
  rw [hcs, hc, hbad]

variable (hgood : c.firstBad o (digestReads cs) = none) {r : Body × Bool}
  (hr : c.repairFrom o j g cs ((b.slot p k).held.getD []) (xArg x 0 2) segs after = r)
include hgood hr

/-- A repair after which the roots agree lets the invocation go on; else the COMPARE still holds (R269). -/
theorem replRepairAct_repairs : replRepairAct x segs after o b =
    if r.2 then .pending o (r.1.goesOn p k q j (differing g cs (ownDigests cs c.mem) ((b.slot p k).held.getD [])).length (xTicket x))
    else .pending o (r.1.updSlot p k (·.awaited (xTicket x))) := by
  refine (replRepairAct_held hx hheld hg).trans ((if_neg (Nat.not_le.mpr hs)).trans ((if_neg (ne_true_of_eq_false ht)).trans ?_))
  dsimp only
  rw [hcs, hc, hgood]
  dsimp only
  rw [hr]

end

/-! ### The command -/

section
variable {s : State} {x : Xnx} {p : Fin 8} {segs : List (Nat × List Byte)} {after : List (List W64)} (h : s.takesOn x p = true)
  (harg : x.arg0 < 16) (hlen : x.len = 2)
include h harg hlen

theorem execReplRepair_eq {r : Xres} (hr : replRepairAct x segs after s.own (s.commandedWith 0x0204 x) = r) :
    exec (.replRepair x ⟨segs, after⟩) s = .next (s.concluded 0x0204 x r) :=
  hr ▸ State.xnx_part h (replRepairAct x segs after) (beq_iff_eq.mpr hlen) (decide_eq_true harg)

/-- The roots agree after the repair: the invocation goes on, and the command waits for the end of the COMPARE (R269, R415). -/
theorem execReplRepair_goesOn {r : Body × Bool} {k q : Fin 4} {j : QJob} {n : Nat}
    (hr : replRepairAct x segs after s.own (s.commandedWith 0x0204 x) = .pending s.own (r.1.goesOn p k q j n (xTicket x)))
    (hj : j.ctx = ⟨p, k⟩) (hw : r.1.slotsWhole) :
    ∃ b2, exec (.replRepair x ⟨segs, after⟩) s = .next (s.promise s.own b2 x) ∧ b2.mem = r.1.mem ∧
      (b2.slot p k).run = .running ∧ (b2.slot p k).held = none ∧ (b2.slot p k).replTicket = some (xTicket x) ∧
      (b2.slot p k).repaired = true := by
  have hslot := Body.slot_goesOn (q := q) hw hj n (xTicket x)
  refine ⟨_, execReplRepair_eq h harg hlen hr, rfl, ?_⟩
  rw [hslot]
  exact ⟨rfl, rfl, rfl, rfl⟩

end

/-! ### The statement -/

/-- Settles O52: each outcome of the four commands by the branch of its rule that it takes; a recovery by the records that it stores, a repair
by the slot that it leaves. -/
theorem updateCommands : Obligations.UpdateCommands := by
  unfold Obligations.UpdateCommands
  refine ⟨fun s x p k h harg => ⟨fun hlen => ?params, fun hlen => ?recover⟩,
    fun s x p segs after h harg => ⟨fun hlen => ?cfg, fun hlen => ?repair⟩⟩ <;> have hx := page_of_takesOn h
  case params =>
    have hpart := (s.commandedWith_part 0x0201 x p).symm
    exact ⟨fun hr => execUpdParams_eq h harg hlen (updParamsAct_reserved hx hr),
      fun hr hb => execUpdParams_eq h harg hlen (updParamsAct_bad hx hr (hpart ▸ hb)),
      fun hr hb => execUpdParams_eq h harg hlen (updParamsAct_sets hx hr harg (hpart ▸ hb))⟩
  case recover =>
    have hslot := s.commandedWith_slot 0x0202 x p k
    have hboard := (s.commandedWith_board 0x0202 x).symm
    have hunreadable := updRecoverAct_unreadable (o := s.own) (b := s.commandedWith 0x0202 x) hx harg
    have hforbidden := updRecoverAct_forbidden (o := s.own) (b := s.commandedWith 0x0202 x) hx harg
    rw [hslot] at hunreadable hforbidden
    refine ⟨fun hl => execUpdRecover_eq h harg hlen (updRecoverAct_empty hx harg (hslot.symm ▸ hl)),
      fun hl ht => execUpdRecover_eq h harg hlen (updRecoverAct_waits hx harg (hslot.symm ▸ hl) (hboard ▸ ht)), fun hl ht =>
      ⟨fun w hbad => execUpdRecover_eq h harg hlen (hunreadable hl (hboard ▸ ht) hbad), fun hgood =>
        ⟨fun hno => execUpdRecover_eq h harg hlen (hforbidden hl (hboard ▸ ht) hgood fun hall => ?_), fun hall hs hparts hapart =>
          execUpdRecover_recovers h harg hlen rfl rfl hl ht hgood hall hs hparts hapart⟩⟩⟩
    obtain ⟨a, ha, hna⟩ := hno
    exact hna (hall a ha)
  case cfg =>
    have hpart := (s.commandedWith_part 0x0203 x p).symm
    have hboard := (s.commandedWith_board 0x0203 x).symm
    refine ⟨fun hd => ?foreign, fun hd hw => execReplCfg_eq h harg hlen (replCfgAct_wide hx hd hw),
      fun hd hw hc => execReplCfg_eq h harg hlen (replCfgAct_busy hx hd hw (hpart ▸ hc)), fun hd hw hc =>
      ⟨fun ht => execReplCfg_eq h harg hlen (replCfgAct_waits hx hd hw (hpart ▸ hc) (hboard ▸ ht)), fun ht =>
        ⟨fun w hbad => execReplCfg_eq h harg hlen (replCfgAct_unreadable hx hd hw (hpart ▸ hc) (hboard ▸ ht) hbad), fun hgood =>
          ⟨fun hm => execReplCfg_eq h harg hlen (replCfgAct_badMember hx hd hw (hpart ▸ hc) (hboard ▸ ht) hgood hm),
            fun hm => execReplCfg_eq h harg hlen (replCfgAct_sets hx hd hw (hpart ▸ hc) (hboard ▸ ht) hgood fun hbad => ?member)⟩⟩⟩⟩
    case foreign =>
      have hexec := execReplCfg_eq h harg hlen (replCfgAct_foreign (b := s.commandedWith 0x0203 x) hx hd)
      unfold State.concluded at hexec
      rwa [hx] at hexec
    case member =>
      obtain ⟨i, hi, hle⟩ := hbad
      exact absurd (hm i hi) (Nat.not_lt.mpr hle)
  case repair =>
    have hpart := (s.commandedWith_part 0x0204 x p).symm
    have hboard := (s.commandedWith_board 0x0204 x).symm
    have hslot := s.commandedWith_slot 0x0204 x p
    have hheldOf := (Body.heldOf_congr (s.commandedWith_parts 0x0204 x) (s.commandedWith_quads 0x0204 x) p x.arg0).symm
    refine ⟨fun hnone => execReplRepair_eq h harg hlen (replRepairAct_none hx (hheldOf ▸ hpart ▸ hnone)), fun k q j g hheld hg => ?_⟩
    have hcs := Body.compared_congr (s.commandedWith_parts 0x0204 x) (s.commandedWith_quads 0x0204 x) (s.commandedWith_cores 0x0204 x) j.ctx
    have hheld2 := hheldOf ▸ hheld
    have hg2 := hpart ▸ hg
    refine ⟨fun hs => execReplRepair_eq h harg hlen (replRepairAct_stranger hx hheld2 hg2 hs),
      fun hs ht => execReplRepair_eq h harg hlen (replRepairAct_waits hx hheld2 hg2 hs (hboard ▸ ht)), fun hs ht =>
      ⟨fun w hbad => execReplRepair_eq h harg hlen (replRepairAct_unreadable hx hheld2 hg2 hs (hboard ▸ ht) hcs rfl hbad),
        fun hgood hw => ?_⟩⟩
    have hrule := fun r => replRepairAct_repairs (segs := segs) (after := after) (r := r) hx hheld2 hg2 hs (hboard ▸ ht) hcs rfl hgood
    rw [hslot] at hrule
    refine ⟨fun hagree => execReplRepair_goesOn h harg hlen ((hrule _ rfl).trans (if_pos hagree)) (Body.ctx_of_heldOf hheld) ?_,
      fun hdiffer => execReplRepair_eq h harg hlen ((hrule _ rfl).trans (if_neg (ne_true_of_eq_false hdiffer)))⟩
    exact (Body.shaped_repairFrom s.own (s.commandedWith 0x0204 x) p k j g _ _ _ segs after).slotsWhole
      (State.slotsWhole_commandedWith 0x0204 x hw)

end Sys2Proof.Machine

/-! PROOFS. A NORM that does not end beside two running jobs of one place (R256, R257; O53). -/

namespace Sys2Proof.Machine

open Sys2Proof

/-! ### A quadrant in which two jobs stand at one place -/

/-- An almanac with a NORM at offset 0: one element, its norm vector at the start of the cellar (R251, R257). -/
def normImage : List Byte := (((List.replicate 64 0).set 0 1).set 0x18 1).set 0x24 0x10 |>.set 0x25 0x0F

/-- The NORM's UD entered at core 0's entry 0. -/
def normJob : QJob := ⟨slotZero, 0, 0, 0xFF, 0, 0, 0, 0, 0, false, false⟩

/-- The same NORM at core 0's entry 1, its element still to be summed. -/
def shadowedNorm : QJob := { normJob with idx := 1 }

/-- A job of no NORM at the place of `shadowedNorm`: its descriptor is of OP 0, it stands at element 1, and a sum of 1.0 is kept for it. -/
def placeTaker : QJob := { shadowedNorm with ref := 64, pos := 1, sumHi := 0x3F800000 }

/-- A clocked module whose partition 0 may reach every address and runs that almanac: the quadrant runs the two jobs of one place, and the
NORM waits in its queue. -/
def sharedPlaceState : State :=
  ⟨[], { Own.reset with worlds := [⟨true, false, 0, 0, 0xFFFFFFFFFFF⟩] },
    (((Body.reset.updBoard fun y => { y with phase := .ready, modRef := true }).updSlot 0 0 fun y =>
      { y with run := .running, image := normImage }).updQuad 0 fun k => { k with udRun := [placeTaker, shadowedNorm], udQ := [normJob] })⟩

/-- The same as the NORM has started. -/
def sharedPlaceStarted : Body :=
  sharedPlaceState.body.updQuad 0 fun k => { k with udQ := [], udRun := [placeTaker, shadowedNorm, normJob] }

theorem pickUd_sharedPlaceState : sharedPlaceState.body.pickUd 0 opNorm = some (sharedPlaceStarted, normJob) := by decide +kernel

/-- The job has its place to itself, and the other NORM has an element to sum. -/
theorem soleNorm_sharedPlaceState : Claims.soleNorm sharedPlaceState sharedPlaceStarted 0 normJob := by
  unfold Claims.soleNorm
  decide +kernel

/-- Byte 2 of the first entry of the norm vector after a command. -/
def Result.normByte : Result → Byte
  | .next t => t.body.mem.byte (cellarBase + 2)
  | _ => 0

theorem normByte_sharedPlaceState : sharedPlaceState.body.mem.byte (cellarBase + 2) = 0 := by decide +kernel

/-- The NORM sums no element; the other job's kept sum is added to the norm vector. -/
theorem normByte_norm : Result.normByte (exec (.norm 0 0) sharedPlaceState) = 0x80 := by decide +kernel

/-- Refutes O53: a NORM that does not end is to change no memory, and what the statement assumes of the quadrant's jobs (`Claims.soleNorm`)
keeps the NORM's own place apart but lets two other jobs stand at one place. The ends of NORMs are looked for by place: the unfinished NORM
there is taken for the other job, whose position is past the NORM's one element, and that job's sum is added to the norm vector. -/
theorem not_updateEngines : ¬ Obligations.UpdateEngines := by
  unfold Obligations.UpdateEngines
  intro h
  obtain ⟨⟨-, -, hnorm, -⟩, -⟩ := h
  obtain ⟨-, hflows⟩ := hnorm sharedPlaceState 0 0 sharedPlaceStarted normJob (by decide +kernel) pickUd_sharedPlaceState
  obtain ⟨hgoes, -⟩ := hflows (by decide +kernel) (by decide +kernel) (by decide +kernel) soleNorm_sharedPlaceState
  obtain ⟨t, ht, -, hmem, -⟩ := hgoes (by decide +kernel) (by decide +kernel)
  have hbyte := normByte_norm
  rw [ht, Result.normByte, hmem, normByte_sharedPlaceState] at hbyte
  exact absurd hbyte (by decide)

end Sys2Proof.Machine
